-- ==== Sys2Proof/Word.lean ====
section
/-! DEFINITION. The words of the KY-880: bytes, little-endian words, descriptors and the index types of its parts
(00_scope, "Numbering" and "Units, numbers and time"). -/

namespace Sys2Proof

/-- One byte. -/
abbrev Byte := BitVec 8

/-- A run of bytes, lowest address first. -/
abbrev Bytes := List (BitVec 8)

/-- A 64-byte command descriptor (R300), bit 0 the lowest bit of byte 0. -/
abbrev Desc := BitVec 512

/-- A packed coordinate row.rack.tray.slot (R6). -/
abbrev Coord := BitVec 17

/-- A Ryutil port: 0 RL0 (companion A), 1 RL1 (companion B) (R287). -/
abbrev RlPort := Fin 2

/-- A partition (R313). -/
abbrev PartI := Fin 8

/-- A context index within its partition (R313). -/
abbrev CtxI := Fin 16

/-- A core, by global index (Table 0.5). -/
abbrev CoreI := Fin 128

/-- A quad (Table 0.5). -/
abbrev QuadI := Fin 32

/-- A compute die CD0–CD3. -/
abbrev CDie := Fin 4

/-- An exchange die XD0, XD1; also a plane of the fabric (R133). -/
abbrev XDie := Fin 2

/-- A fabric port FP0–FP35 (R237). -/
abbrev FPort := Fin 36

/-- A 1 GiB granule (R314). -/
abbrev GranI := Fin 1136

end Sys2Proof
end

