-- ==== Sys2Proof/Syntax.lean ====
section
/-! DEFINITION. The commands of the KY-880: one constructor of `Instr` for each row of the command table, with the
row's operands. What the device reads from its own state or from memory is no operand; what arrives from outside
(a message's fields, a register write's value, a sensor's reading, a descriptor) is. -/

namespace Sys2Proof

/-- A context of the device: partition and context index (R313). -/
structure CtxId where
  part : PartI
  ctx : CtxI
  deriving DecidableEq, Repr

/-- A command as a sequencer holds it (R297, R310): its context, its ring position (for a command of a handed list,
the position of the OP_WAIT that ran it), whether it comes from a handed list and its position there, and the 64 bytes. -/
structure Entry where
  cid : CtxId
  pos : BitVec 32
  fromList : Bool
  listPos : BitVec 32
  desc : Desc
  deriving DecidableEq, Repr

/-- Names a command in flight: its context, its core, its ring position and, for a command of a handed list, its
position there. A transfer into a local store names the command that it belongs to (R98). -/
structure CmdName where
  cid : CtxId
  core : CoreI
  pos : BitVec 32
  listPos : BitVec 32
  deriving DecidableEq, Repr

/-- The common part of an exchange message (Table 6.2), with the job tag and SRC of its packet header (R134).
`kind` is 0 DISPATCH, 1 RETURN, 2 WEIGHTS, 3 A2A (Table 6.1). -/
structure XHdr where
  jtag : BitVec 16
  kind : Fin 4
  plane : XDie
  xid : BitVec 16
  srcRank : BitVec 16
  dstRank : BitVec 16
  src : Coord := 0
  deriving DecidableEq, Repr

/-- A count entry of a DISPATCH stream (Table 5.7). -/
structure CountEntry where
  localIdx : BitVec 12
  wc : Bool
  countM1 : BitVec 16
  deriving DecidableEq, Repr

/-- The common part of a collective message (R182), with the job tag and SRC of its packet header. `tree` is 0 A, 1 B. -/
structure CHdr where
  jtag : BitVec 16
  tree : Fin 2
  cid : BitVec 16
  srcRank : BitVec 16
  dstRank : BitVec 16
  src : Coord := 0
  deriving DecidableEq, Repr

/-- The fields of CEND (Table 8.2). `pass` is 0 exponent up, 1 exponent down, 2 data up, 3 result down. -/
structure CEndMsg where
  chunk : BitVec 32
  pass : Fin 4
  empty : Bool
  event : Bool
  compact : Bool
  bf16 : Bool
  bytes : BitVec 32
  crc : BitVec 32
  nemp : BitVec 17
  nanel : BitVec 32
  deriving DecidableEq, Repr

/-- The header fields of a fabric packet (Tables 11.3 and 11.4) with its body or payload. `isData` tells the data
class from the control class; `tag` is TAG of a data packet, or in its low 32 bits the CRC-32C of a control header (R248,
R249). -/
structure Packet where
  isData : Bool
  net : Fin 2
  vc : Fin 2
  plane : XDie
  standin : Bool
  hops : BitVec 4
  jtag : BitVec 16
  tepoch : BitVec 4
  unit : BitVec 4
  dst : Coord
  src : Coord
  enc : Bool
  last : Bool
  sid : BitVec 16
  sub : BitVec 8
  offset : BitVec 40
  inc : BitVec 8
  pctr : BitVec 64
  sdie : Fin 2
  tag : BitVec 128
  body : Bytes
  deriving DecidableEq, Repr

/-- The operations of Table 12.3. -/
inductive MsfOp where
  | read | write | add64 | add32 | and64 | or64 | xor64 | smax64 | smin64 | umax64 | umin64 | swap64 | cas64
  | addAl48 | bulkGet | bulkPut
  deriving DecidableEq, Repr

/-- A fabric request as it arrives at its target (REQ of Table 12.4, with the packet's source, job tag and space;
`data` is the line, the AL48 record or the bulk bytes that follow). -/
structure ReqMsg where
  src : Coord
  jtag : BitVec 16
  space : BitVec 3
  op : MsfOp
  sid : BitVec 16
  shared : Bool
  own : Bool
  addr : BitVec 44
  operand : BitVec 64
  operand2 : BitVec 64
  bmask : BitVec 128
  len : BitVec 40
  cpn : Bool
  cpnPort : Fin 2
  data : Bytes
  deriving DecidableEq, Repr

/-- An answer as it arrives at its requester (RSP of Table 12.4). `src` is the answering device. -/
structure RspMsg where
  src : Coord
  jtag : BitVec 16
  sid : BitVec 16
  status : BitVec 8
  result : BitVec 64
  cpn : Bool
  cpnPort : Fin 2
  data : Bytes
  deriving DecidableEq, Repr

/-- A holder of a line in a tray directory (R281): bits 0–4 tray slots, 5 companion A, 6 companion B. -/
abbrev Holder := Fin 7

/-- The bytes of the three boot objects, as they arrive over a fabric port with SOURCE 1 (R386), and whether the
CRC-32C of each matched. -/
structure BootObjects where
  identity : Bytes
  manifest : Bytes
  image : Bytes
  crcs : List (BitVec 32)
  aligned : Bool
  deriving DecidableEq, Repr

/-- What the hardware of a boot stage finds (R383, R387): whether its links, self-tests and memories work, and what stage 4's tests
find (R412): the failing positions of each row of 17 cores (two rows a compute die), the failing arrays of each Cellar layer (six a
die), and the measured slowdown of each quad in ppm. -/
structure BootHw where
  ok : Bool
  seedOk : Bool
  badCores : List (List Nat)
  badArrays : List Nat
  slowdown : List Nat
  deriving DecidableEq, Repr

/-- A report as a unit gives it to the collectors (R417–R420). `ring` names one ring for a semaphore or port report;
`none` lets R419 choose by scope. `cls` is the class of Table 19.1. -/
structure Report where
  code : BitVec 16
  cls : Fin 5
  part : Option PartI
  ctx : Option CtxI
  ring : Option RlPort
  srcUnit : BitVec 7
  srcInst : BitVec 9
  cmdPos : BitVec 32
  listPos : BitVec 32
  detail : List (BitVec 32)
  deriving DecidableEq, Repr

/-- A message about a lease between borrower and lender (R229, R230). -/
structure LeaseMsg where
  borrower : Coord
  bslot : Fin 16
  lslot : Fin 16
  ngran : BitVec 5
  deriving DecidableEq, Repr

/-- One quad's counts in a compute die's frame (Table 16.3), as the counting hardware gives them. -/
structure QuadCount where
  busy : BitVec 24
  idle : BitVec 24
  maint : BitVec 24
  energy : BitVec 32
  deriving DecidableEq, Repr

/-- What a patrol scrub finds in a 64-byte piece (R233). -/
structure ScrubFind where
  piece : Nat
  correctable : Bool
  deriving DecidableEq, Repr

/-- What one regulator answers on PMBus (R450): `none` when its address does not answer. -/
structure PmReading where
  rail : Fin 33
  status : Option (BitVec 16)
  deriving DecidableEq, Repr

/-- What one four-tap window of a lane's equalisation measured (R241). -/
structure EqReading where
  lane : Fin 5
  count : BitVec 32
  deriving DecidableEq, Repr

/-- The boundary-scan instructions of IEEE 1149.1 and 1149.6 that R459 names. -/
inductive TapInstr where
  | bypass | samplePreload | extest | extestPulse | extestTrain | clamp
  deriving DecidableEq, Repr

/-- The calibrations of Table 18.6. -/
inductive Calib where
  | hbmPhy (stack : Fin 12)
  | lpddrZq (pkg : Fin 8)
  | d2dLink (link : Fin 12)
  | sensors
  | fabricLanes
  deriving DecidableEq, Repr

/-- A thermal sensor of Table 18.3, as PWR_TEMP_SEL numbers them: 0–31 quads, 32–33 exchange dies, 34–45 stacks. -/
abbrev Sensor := Fin 46

/-- The commands of the KY-880: one constructor per row of the command table. -/
inductive Instr where
  -- die-to-die links
  | d2dFlitReceive (link : Fin 12) (sent got : Bytes) (crc : BitVec 32)
  -- set-up window
  | registerWrite (port : RlPort) (offset : BitVec 26) (wide : Bool) (value : BitVec 64)
  | readClear (port : RlPort) (offset : BitVec 26) (wide : Bool) (hw : BitVec 64)
  | w1cWrite (port : RlPort) (offset : BitVec 26) (value : BitVec 64) (hwSet : BitVec 64)
  | registerAccessRefused (port : RlPort) (offset : BitVec 26) (size : Nat) (write coherent : Bool)
  | space4Access (target : Coord) (offset : BitVec 26) (wide write : Bool) (value : BitVec 64)
  | semTake (port : RlPort) (n : Fin 32)
  | semRelease (port : RlPort) (n : Fin 32) (value : BitVec 64)
  | semLeaseExpiry (n : Fin 32)
  | deviceResetRequest (port : RlPort) (value : BitVec 32)
  | deviceReset
  | resetN
  | resetRelease
  -- boot, keys, attestation, rolling update
  | bootGo (port : RlPort) (value : BitVec 32)
  | bootStageEnd (objs : BootObjects) (hw : BootHw)
  | keyLoad (port : RlPort) (value : BitVec 32)
  | keyClear (port : RlPort) (value : BitVec 32)
  | attGo (port : RlPort) (value : BitVec 32) (canSign : Bool)
  | planTakeover (port : RlPort) (value : BitVec 32)
  | planHandback (port : RlPort) (value : BitVec 32) (slotReady : Bool) (slotDetrev : BitVec 8)
  -- contexts and partitions
  | bringup (port : RlPort) (readable : Bool)
  | teardown (port : RlPort)
  | activate (port : RlPort) (p : PartI)
  | partitionActivated (p : PartI)
  | dissolve (port : RlPort) (p : PartI)
  | granuleZeroed (g : GranI)
  | granOwnWrite (port : RlPort) (value : BitVec 32)
  | rlPortDown (port : RlPort)
  | rlPortRetrain (port : RlPort) (lanes : Fin 9)
  | doorbell (cid : CtxId)
  | sequencerQueueRoom (cid : CtxId)
  | commandComplete (core : CoreI) (pos listPos : BitVec 32)
  | cplFull (core : CoreI) (pos listPos : BitVec 32)
  -- commands of the rings
  | opNop (e : Entry)
  | opMatmul (e : Entry)
  | opMatmulSparse (e : Entry)
  | opVchain (e : Entry)
  | opAttnBlock (e : Entry)
  | opScalepass (e : Entry)
  | opPrune (e : Entry)
  | opDma (e : Entry)
  | opGather (e : Entry)
  | opScatter (e : Entry)
  | opMigratePlace (e : Entry)
  | opMigrateMove (e : Entry)
  | opMigrateSwap (e : Entry)
  | opMigrateRelease (e : Entry)
  | opMigrateSethint (e : Entry)
  | migratePageSwitch (page : Fin 712704)
  | opSnapshotPrestream (e : Entry)
  | opSnapshotCopy (e : Entry)
  | opGate (e : Entry)
  | gateOpeningServed (die : CDie)
  | gateHang (die : CDie) (cid : CtxId) (sess : Fin 16)
  | opDispatchCount (e : Entry)
  | opDispatchPack (e : Entry)
  | opPlace (e : Entry) (xd1Agrees : Bool)
  | opExpertPlan (e : Entry)
  | opExchangeDispatch (e : Entry)
  | opExchangeReturn (e : Entry)
  | opCombine (e : Entry)
  | opA2a (e : Entry)
  | opPredictPredict (e : Entry)
  | opPredictBound (e : Entry)
  | opMakeup (e : Entry)
  | opReduce (e : Entry)
  | opAllreduce (e : Entry)
  | opBcast (e : Entry)
  | opAllgather (e : Entry)
  | opWaitSlotFull (e : Entry)
  | opWaitSlotEmpty (e : Entry)
  | opWaitEvent (e : Entry)
  | opWaitMemory (e : Entry)
  | opWaitPlan (e : Entry)
  | waitSatisfied (core : CoreI)
  | syncHang (core : CoreI)
  | opSignalSlotFill (e : Entry)
  | opSignalSlotDrain (e : Entry)
  | slotWritesLanded (core : CoreI) (slot : Fin 64)
  | slotReadsDone (core : CoreI) (slot : Fin 64)
  | opSignalEvent (e : Entry)
  | opSignalMemory (e : Entry)
  | opFence (e : Entry)
  | opTimedStart (e : Entry)
  | timedStartReached (core : CoreI)
  | opEpochMark (e : Entry)
  | epochMarkCapture (cid : CtxId)
  | epochMarkAgreed (cid : CtxId)
  | epochLate (cid : CtxId)
  | opDigestOpen (e : Entry)
  | opDigestAbsorb (e : Entry)
  | opDigestClose (e : Entry) (canSign : Bool)
  | opRngSeekSet (e : Entry)
  | opRngSeekAdd (e : Entry)
  | opRngSeekCheck (e : Entry)
  | opStepStatusBind (e : Entry)
  | opStepStatusAgree (e : Entry)
  | stepAgreeResult (cid : CtxId) (ovf : Bool)
  | opStepStatusCheck (e : Entry)
  | opStepStatusCommit (e : Entry)
  | opStepStatusUnbind (e : Entry)
  -- buffer slots from outside
  | outsideDelivery (core : CoreI) (cid : CtxId) (addr : BitVec 24) (gen : BitVec 16) (data : Bytes) (sender : CmdName)
  | senderEndMarker (core : CoreI) (cid : CtxId) (slot : Fin 64) (gen : BitVec 16) (sender : CmdName)
  | slotHang (core : CoreI)
  -- exchange streams
  | xopen (h : XHdr) (ncnt : BitVec 16) (nent : BitVec 32) (dbytes : BitVec 40) (row64 : BitVec 14) (wbytes : BitVec 40)
  | xready (h : XHdr) (cells : BitVec 16)
  | xwait (h : XHdr)
  | xopenRetry (h : XHdr)
  | xcount (h : XHdr) (seq : BitVec 16) (counts : List CountEntry)
  | countPhaseEnd (cid : CtxId) (xid : BitVec 16)
  | xask (h : XHdr)
  | creditGrant (die : XDie)
  | xcredit (h : XHdr) (cells : BitVec 16)
  | openEntryTaken (die : XDie)
  | streamData (h : XHdr) (offset : BitVec 40) (data : Bytes)
  | xend (h : XHdr) (dbytes : BitVec 40) (crc : BitVec 32)
  | xresend (h : XHdr) (offset : BitVec 40) (bytes : BitVec 32)
  | xack (h : XHdr)
  | xchHang (cid : CtxId) (xid : BitVec 16)
  | returnArrival (cid : CtxId) (xid : BitVec 16) (token : BitVec 16) (rank : BitVec 4) (row : Bytes)
  | landingHang (cid : CtxId) (xid : BitVec 16)
  -- Buffer Pool Manager
  | cellRelease (die : XDie) (unit : Fin 64) (p : PartI) (ptr : BitVec 32)
  | bpmResWrite (port : RlPort) (die : XDie) (p : PartI) (value : BitVec 32)
  | bpmSpillWrite (port : RlPort) (die : XDie) (p : PartI) (value : BitVec 64)
  -- collectives
  | copen (h : CHdr) (pdig gdig : BitVec 32)
  | cready (h : CHdr)
  | cwait (h : CHdr)
  | copenRetry (h : CHdr)
  | chunkCellGrant (h : CHdr) (chunk : BitVec 32) (pass : Fin 4)
  | chunkData (h : CHdr) (chunk : BitVec 32) (pass : Fin 4) (offset : BitVec 40) (data : Bytes) (flaw flaw2 : List (BitVec 48))
  | cend (h : CHdr) (m : CEndMsg) (flaw flaw2 : List (BitVec 48))
  | cack (h : CHdr) (chunk : BitVec 32) (pass : Fin 4)
  | cresend (h : CHdr) (chunk : BitVec 32) (pass : Fin 4)
  | cabort (h : CHdr) (origin : BitVec 16) (reason : BitVec 8)
  | collHang (cid : CtxId) (coll : BitVec 16)
  -- loads, stores and atomics across the fabric
  | fabricQueueRing (cid : CtxId) (q : Fin 4)
  | read (cid : CtxId) (q : Fin 4)
  | write (cid : CtxId) (q : Fin 4)
  | add64 (cid : CtxId) (q : Fin 4)
  | add32 (cid : CtxId) (q : Fin 4)
  | and64 (cid : CtxId) (q : Fin 4)
  | or64 (cid : CtxId) (q : Fin 4)
  | xor64 (cid : CtxId) (q : Fin 4)
  | smax64 (cid : CtxId) (q : Fin 4)
  | smin64 (cid : CtxId) (q : Fin 4)
  | umax64 (cid : CtxId) (q : Fin 4)
  | umin64 (cid : CtxId) (q : Fin 4)
  | swap64 (cid : CtxId) (q : Fin 4)
  | cas64 (cid : CtxId) (q : Fin 4)
  | addAl48 (cid : CtxId) (q : Fin 4)
  | bulkGet (cid : CtxId) (q : Fin 4)
  | bulkPut (cid : CtxId) (q : Fin 4)
  | gatewayFlush (cid : CtxId) (q : Fin 4)
  | req (m : ReqMsg)
  | rsp (m : RspMsg)
  | busy (src : Coord) (jtag : BitVec 16) (sid : BitVec 16)
  | companionRequest (port : RlPort) (m : ReqMsg) (gaddr : BitVec 64)
  | busyResend (src : Coord) (jtag : BitVec 16) (sid : BitVec 16)
  | orderEntryExpiry (die : XDie) (src : Coord) (jtag : BitVec 16) (cpn : Bool) (cpnPort : Fin 2) (q : Fin 4)
  | msfHang (cid : CtxId) (q : Fin 4) (sid : BitVec 16)
  | inv (die : XDie) (home : Coord) (addr : BitVec 44)
  | invack (holder : Holder) (addr : BitVec 44)
  | recallLine (home : Coord) (keep : Bool) (addr : BitVec 44) (port : RlPort)
  | recallack (holder : Holder) (home : Coord) (addr : BitVec 44) (data : Option Bytes)
  | puts (holder : Holder) (home : Coord) (addr : BitVec 44)
  | putm (holder : Holder) (home : Coord) (addr : BitVec 44) (data : Bytes)
  | bend (src : Coord) (jtag : BitVec 16) (sid : BitVec 16) (bytes : BitVec 40) (crc : BitVec 32)
  | bresend (src : Coord) (jtag : BitVec 16) (sid : BitVec 16)
  -- ports and links
  | portEnable (port : RlPort) (fp : FPort) (value : BitVec 32)
  | portDetect (fp : FPort) (signals : BitVec 5)
  | portTrainDone (fp : FPort)
  | portAlignDone (fp : FPort)
  | negotiate (fp : FPort) (major minor : Nat) (peer : Coord) (peerPort : Nat) (lanes : BitVec 5)
      (kfp2 : Bool)
  | negotiateRetry (fp : FPort)
  | retrain (port : RlPort) (fp : FPort) (value : BitVec 32)
  | retrainTimeout (fp : FPort)
  | eqWindow (fp : FPort) (r : EqReading)
  | laneLockLoss (fp : FPort) (lane : Fin 5)
  | swap (fp : FPort) (lane : Fin 4) (seq : BitVec 10)
  | blockReceive (fp : FPort) (good : Bool) (corrected : Nat) (seq ack : BitVec 10)
      (circuit : Option (Fin 8)) (data : Bytes)
  | nak (fp : FPort) (seq : BitVec 10)
  | nakRepeat (fp : FPort)
  | ackTimeout (fp : FPort)
  | credit (fp : FPort) (net vc : Fin 2) (slots : Nat)
  | packetReceive (fp : FPort) (pkt : Packet)
  | packetAged (index : Nat)
  | circuitWrite (port : RlPort) (die : XDie) (c : Fin 8) (value : BitVec 32)
  | tagBind (port : RlPort) (value : BitVec 64)
  | tagRetire (port : RlPort) (value : BitVec 64)
  | tagnak (newer : Bool) (refused : Packet)
  | tagnakResend (index : Nat)
  -- Fabric Time
  | tsyncSend (child : Coord)
  | tsync (parent : Coord) (seq : BitVec 16) (t1 : BitVec 64)
  | treq (child : Coord) (seq : BitVec 16) (t3 : BitVec 64)
  | tresp (seq : BitVec 16) (t4 corr : BitVec 64)
  | ftHoldoverEntry
  | ftRange
  | ppsIn
  | ftSet (port : RlPort) (value : BitVec 64)
  -- memory tiers
  | scrubPass (die : CDie) (finds : List ScrubFind) (cellar hbm : BitVec 10)
  | leaseLendWrite (port : RlPort) (i : Fin 16) (value : BitVec 64)
  | leaseBorrowWrite (port : RlPort) (j : Fin 16) (value : BitVec 64)
  | leaseRequest (m : LeaseMsg)
  | leaseAnswer (j : Fin 16) (ok : Bool)
  | leaseRevoke (port : RlPort) (lender : Bool) (slot : Fin 16)
  | leaseTermEnd (i : Fin 16)
  | leaseGraceEnd (j : Fin 16)
  | leaseRelease (lender : Bool) (slot : Fin 16)
  -- scheduling
  | sliceEnd (p : PartI)
  | contextYield (p : PartI)
  | switchCoresStopped (p : PartI)
  | switchDone (p : PartI)
  | wholeCap (core : CoreI) (pos listPos : BitVec 32)
  -- resilience
  | protectionEnable (port : RlPort) (p : PartI) (value : BitVec 64) (peersAgree : Bool) (cert : Bytes)
  | seedingDone (p : PartI)
  | parityDelta (src : Coord) (p : PartI) (piece : BitVec 32) (whole : Bool) (delta : Bytes)
  | mirrorWrite (src : Coord) (p : PartI) (addr : BitVec 64) (data : Bytes)
  | heartbeatSend
  | heartbeatLoss (who : Coord) (reserve : Option Coord)
  | down (who : Coord)
  | takeover (failed : Coord) (newInc : BitVec 8) (holder : Coord)
  | rebuildPiece (survivors : Bytes) (pieces : List Nat)
  -- Meter Room
  | frameSend (die : Fin 6) (elapsed energy : BitVec 32) (counts : List QuadCount)
  | meterFrame (lane : Fin 6) (frame : Bytes)
  | meterWindow (counts : List Nat) (storeBad : Option (BitVec 32))
  | intervalClose
  | sealSense (opened : Bool)
  | mtrVddLoss
  | mtrPowerUp
  | calendarDiscipline (rateOff : Bool)
  | status (payload : Bytes)
  | record (payload : Bytes)
  | ack (payload : Bytes)
  | pubkey (payload : Bytes)
  | cert (payload : Bytes)
  | energy (payload : Bytes)
  | settime (payload : Bytes)
  | setepoch (payload : Bytes)
  | setrecint (payload : Bytes)
  | leap (payload : Bytes)
  | mirrorRecord (rec : Bytes)
  -- power, thermal limits, self-test
  | weirSample (p : BitVec 16) (railOver : Bool)
  | weirUpdate
  | pwrBrakeN
  | brakeRelease
  | droopTrip (q : QuadI) (detector : Fin 4)
  | droopWindow (q : QuadI)
  | agingMeasure (q : QuadI) (slowdown : List Nat)
  | thermalThreshold (sensor : Sensor) (temp : BitVec 16)
  | thermalCeilingStep (q : QuadI)
  | refreshUpdate (temps : List (BitVec 16)) (mr4 : List (BitVec 8))
  | pwrPinWrite (port : RlPort) (p : PartI) (value : BitVec 32)
  | selftestSliceDue (q : QuadI)
  | selftestSliceEnd (q : QuadI) (pass passAgain : Bool)
  | pwrStCmd (port : RlPort) (value : BitVec 32)
  | calibration (c : Calib)
  -- errors
  | errorReport (r : Report)
  | coalesceExpiry (port : RlPort) (index : Nat)
  | errRingHead (port : RlPort)
  | errRingCfg (port : RlPort) (ring : RlPort) (value : BitVec 32)
  | riskUpdate
  | pmbusPoll (readings : List PmReading)
  | pmAlertN (readings : List PmReading)
  | railMargin (rail : Fin 33) (deviation : BitVec 32)
  | railExcursion (rail : Fin 33) (deviation : BitVec 32)
  -- the last rows of the table
  | pwrBrakeNRise
  | backupSupplyLow
  | protectorAck (cid : CtxId)
  | tapInstruction (t : TapInstr)
  deriving DecidableEq, Repr

end Sys2Proof
end

