-- ==== Sys2Proof/Config.lean ====
section
/-! DEFINITION. What the spec leaves to a device or leaves open: constants without a body, so that nothing can be
proved of their values. -/

namespace Sys2Proof.Config

/-- A byte that the spec leaves undefined (the destination of a command that faulted while it ran): fresh for each
value of the state's counter. -/
opaque freeByte : Nat → BitVec 8

/-- By how many units in the last place a vector op that is not correctly rounded departs from the correctly rounded
value at an input (Table 3.9); `approx` holds it to the op's bound. -/
opaque ulpError : Nat → BitVec 32 → Int

/-- The result of a vector op at an input where its formula has no value (R80 states none): LOG of zero or of a negative
number, SILU and GELU of minus infinity. -/
opaque opUndefined : Nat → BitVec 32 → BitVec 32

/-- The integer of an AL48 element whose exact value has a magnitude of 2^128 or more (R26 and Table 2.4 call it impossible,
R80 lets CVTS and PCVT form it), from its sign, its significand and its exponent. -/
opaque al48Beyond : Bool → Nat → Int → BitVec 48

/-- The number by which an E_SPARSE_META record names the failing test of R75, by the test's place in R75's list. -/
opaque sparseTestCode : Nat → BitVec 32

/-- By how many units in the last place a bound computed with outward rounding lies above the least FP32 value that is
not below the exact one (R165, R167 state only that it never lies below). -/
opaque boundSlack : Nat → BitVec 32 → Nat

/-- Whether a NaN neuron counts as missed (R171 states its rule for magnitudes). -/
opaque nanMissed : BitVec 8 → Bool

/-- The result bytes of a MAX or MIN to which no rank contributes (R188, R191 state none), by their place. -/
opaque emptyExtreme : Nat → BitVec 8

/-- The byte at a place of the 256-bit seed that the SRAM PUF gives the security block (R383). -/
opaque pufSeed : Nat → BitVec 8

/-- The private scalar of the Meter Room's own key, and the bytes of its certificate (Table 16.1). -/
opaque meterKey : Nat
opaque meterCert : List (BitVec 8)

/-- The boot ROM's trust anchors: the SHA-256 of the Caltas certification key and of the firmware-signing key (R384). -/
opaque rootCa : List (BitVec 8)
opaque rootFw : List (BitVec 8)

/-- A byte of a key blob sealed to another device (R394): its DEVID, the ephemeral key, the IV and what they encrypt are the
sealer's and the recipient's own. Fresh for each value of the state's counter. -/
opaque sealedByte : Nat → Nat → BitVec 8

/-- A random 256-bit key that the security block draws (R229, R391): fresh for each value of the state's counter. -/
opaque randomKey : Nat → BitVec 256

/-- What a lender holds of a lent line that a failed borrower wrote, by lease, line and place: the 128 bytes of the line and 16 of its
metadata. A Standby that goes on with the lease finds it there (R231). -/
opaque lenderByte : Nat → Nat → Nat → Byte

/-- The quad cycles of a command and its bank-conflict cycles (R89, R102): fresh for each value of the state's counter. -/
opaque commandCycles : Nat → BitVec 32
opaque conflictCycles : Nat → BitVec 32

/-- The ns that a save takes once every core has stopped (R328): fresh for each value of the state's counter. -/
opaque saveNs : Nat → Nat

/-- The sign of the step that a receiver asks of a transmit tap in a window (R241 states ±1), and the code that its CTLE
adapts to: fresh for each value of the state's counter. -/
opaque eqUp : Nat → Bool
opaque ctleCode : Nat → BitVec 4

/-- The code that a DFE tap adapts to, and the start value of transmit tap `tap` (0 c(−2), 1 c(−1), 2 c(+1)) under a PRESET: the
text gives neither (R241). -/
opaque dfeCode : Nat → Nat → BitVec 8
opaque presetTap : BitVec 3 → Fin 3 → BitVec 8

/-- The 32-bit CRC of a die-to-die flit, whose polynomial the text does not give (R11). -/
opaque d2dCrc : List (BitVec 8) → BitVec 32

/-- The coordinate of a rank of the expert-parallel group that uses a job tag: the text gives no table of it (R134, R139). -/
opaque rankCoord : BitVec 16 → Nat → BitVec 17

/-- The 256 bytes of a digest slot in a mark record (Table 15.5 names what they hold, not where), from the slot's content in the
model's own order. -/
opaque digestImage : List (BitVec 8) → Nat → BitVec 8

/-- The SHA-256 of the MARK copy of a context's sequence state (R348 does not lay the copy out), from its content in the
model's own order. -/
opaque seqHash : List (BitVec 8) → Nat → BitVec 8

/-- The identity certificate that a protector shows where no command brings it (R394): fresh for each value of the state's counter. -/
opaque peerCert : Nat → Nat → BitVec 8

/-- The body of a heartbeat, which the text does not lay out (R351): fresh for each value of the state's counter. -/
opaque heartbeatByte : Nat → Nat → BitVec 8

end Sys2Proof.Config
end

