-- ==== Sys2Proof/Machine/Codes.lean ====
section
/-! DEFINITION. The numeric codes of the device's reports (R418): bits 15:8 the chapter of the first fault table that
holds the code, bits 7:0 its row there, counted from 1; codes outside the fault tables as Table 19.2 gives them. -/

namespace Sys2Proof.Machine.Code

/-- E_DESC_RESERVED. -/
def eDescReserved : BitVec 16 := 0x0301
/-- E_FMT_PAIR. -/
def eFmtPair : BitVec 16 := 0x0302
/-- E_TENSOR_SCALE. -/
def eTensorScale : BitVec 16 := 0x0303
/-- E_MM_SHAPE. -/
def eMmShape : BitVec 16 := 0x0304
/-- E_DESC_OPERAND. -/
def eDescOperand : BitVec 16 := 0x0305
/-- E_SPARSE_FMT. -/
def eSparseFmt : BitVec 16 := 0x0306
/-- E_VCHAIN. -/
def eVchain : BitVec 16 := 0x0307
/-- E_MM_WINDOW. -/
def eMmWindow : BitVec 16 := 0x0308
/-- E_SPARSE_META. -/
def eSparseMeta : BitVec 16 := 0x0309
/-- E_MM_PARTIAL. -/
def eMmPartial : BitVec 16 := 0x030A
/-- E_LS_BANK_CONFLICT. -/
def eLsBankConflict : BitVec 16 := 0x0401
/-- E_SLOT_DECL. -/
def eSlotDecl : BitVec 16 := 0x0402
/-- E_SLOT_GEN. -/
def eSlotGen : BitVec 16 := 0x0403
/-- E_SLOT_STATE. -/
def eSlotState : BitVec 16 := 0x0404
/-- E_SLOT_UNFILLED. -/
def eSlotUnfilled : BitVec 16 := 0x0405
/-- E_SLOT_OVERWRITE. -/
def eSlotOverwrite : BitVec 16 := 0x0406
/-- E_SLOT_HANG. -/
def eSlotHang : BitVec 16 := 0x0407
/-- E_LS_UNSLOTTED. -/
def eLsUnslotted : BitVec 16 := 0x0408
/-- E_GATE_SHAPE. -/
def eGateShape : BitVec 16 := 0x0501
/-- E_GATE_SESSION. -/
def eGateSession : BitVec 16 := 0x0502
/-- E_GATE_COVER. -/
def eGateCover : BitVec 16 := 0x0503
/-- E_GATE_HANG. -/
def eGateHang : BitVec 16 := 0x0504
/-- E_DISPATCH_SHAPE. -/
def eDispatchShape : BitVec 16 := 0x0505
/-- E_EXPERT_MAP. -/
def eExpertMap : BitVec 16 := 0x0506
/-- E_ASG_RECORD. -/
def eAsgRecord : BitVec 16 := 0x0507
/-- E_PLACE_STATE. -/
def ePlaceState : BitVec 16 := 0x0508
/-- E_PLACE_MISMATCH. -/
def ePlaceMismatch : BitVec 16 := 0x0509
/-- E_PLAN_SHAPE. -/
def ePlanShape : BitVec 16 := 0x050A
/-- E_PLAN_SPACE. -/
def ePlanSpace : BitVec 16 := 0x050B
/-- E_DISPATCH_DEC. -/
def eDispatchDec : BitVec 16 := 0x050C
/-- E_XCH_SHAPE. -/
def eXchShape : BitVec 16 := 0x0601
/-- E_XCH_PEER. -/
def eXchPeer : BitVec 16 := 0x0604
/-- E_XCH_SPACE. -/
def eXchSpace : BitVec 16 := 0x0605
/-- E_XCH_WTAB. -/
def eXchWtab : BitVec 16 := 0x0606
/-- E_XCH_CRC. -/
def eXchCrc : BitVec 16 := 0x0607
/-- E_XCH_HANG. -/
def eXchHang : BitVec 16 := 0x0608
/-- E_LANDING_RANGE. -/
def eLandingRange : BitVec 16 := 0x0609
/-- E_LANDING_DUP. -/
def eLandingDup : BitVec 16 := 0x060A
/-- E_LANDING_HANG. -/
def eLandingHang : BitVec 16 := 0x060B
/-- E_A2A_SPACE. -/
def eA2aSpace : BitVec 16 := 0x060C
/-- E_CELL_PTR. -/
def eCellPtr : BitVec 16 := 0x060D
/-- E_CELL_RELEASE. -/
def eCellRelease : BitVec 16 := 0x060E
/-- E_PRED_SHAPE. -/
def ePredShape : BitVec 16 := 0x0702
/-- E_PRED_MODE. -/
def ePredMode : BitVec 16 := 0x0703
/-- E_PRED_STATE. -/
def ePredState : BitVec 16 := 0x0704
/-- E_COLL_SHAPE. -/
def eCollShape : BitVec 16 := 0x0803
/-- E_COLL_GROUP. -/
def eCollGroup : BitVec 16 := 0x0804
/-- E_AL48_GEXP. -/
def eAl48Gexp : BitVec 16 := 0x0805
/-- E_COLL_PEER. -/
def eCollPeer : BitVec 16 := 0x0806
/-- E_COLL_CRC. -/
def eCollCrc : BitVec 16 := 0x0807
/-- E_COLL_RESIDUE. -/
def eCollResidue : BitVec 16 := 0x0808
/-- E_COLL_HANG. -/
def eCollHang : BitVec 16 := 0x0809
/-- E_COLL_ABORT. -/
def eCollAbort : BitVec 16 := 0x080A
/-- E_DIGEST_STATE. -/
def eDigestState : BitVec 16 := 0x0903
/-- E_DIGEST_SHAPE. -/
def eDigestShape : BitVec 16 := 0x0904
/-- E_DIGEST_SIGN. -/
def eDigestSign : BitVec 16 := 0x0905
/-- E_MEM_FIREWALL. -/
def eMemFirewall : BitVec 16 := 0x0A02
/-- E_MEM_UNBACKED. -/
def eMemUnbacked : BitVec 16 := 0x0A03
/-- E_MEM_FULL. -/
def eMemFull : BitVec 16 := 0x0A04
/-- E_MIGRATE_STATE. -/
def eMigrateState : BitVec 16 := 0x0A05
/-- E_MIGRATE_PIN. -/
def eMigratePin : BitVec 16 := 0x0A06
/-- E_GATHER_SHAPE. -/
def eGatherShape : BitVec 16 := 0x0A07
/-- E_KV_PAGE. -/
def eKvPage : BitVec 16 := 0x0A08
/-- E_LEASE_AUTH. -/
def eLeaseAuth : BitVec 16 := 0x0A09
/-- E_LEASE_WRAP. -/
def eLeaseWrap : BitVec 16 := 0x0A0A
/-- E_LEASE_SETUP. -/
def eLeaseSetup : BitVec 16 := 0x0A0B
/-- E_MEM_CE. -/
def eMemCe : BitVec 16 := 0x0A0C
/-- E_MEM_UE. -/
def eMemUe : BitVec 16 := 0x0A0D
/-- E_MEM_POISON. -/
def eMemPoison : BitVec 16 := 0x0A0E
/-- E_MEM_RANGE. -/
def eMemRange : BitVec 16 := 0x0A0F
/-- E_FAB_WIRING. -/
def eFabWiring : BitVec 16 := 0x0B01
/-- E_FAB_VERSION. -/
def eFabVersion : BitVec 16 := 0x0B02
/-- E_FAB_LANE. -/
def eFabLane : BitVec 16 := 0x0B03
/-- E_FAB_LINK_DOWN. -/
def eFabLinkDown : BitVec 16 := 0x0B04
/-- E_FAB_INTEGRITY. -/
def eFabIntegrity : BitVec 16 := 0x0B05
/-- E_FAB_AGED. -/
def eFabAged : BitVec 16 := 0x0B06
/-- E_FAB_HOPS. -/
def eFabHops : BitVec 16 := 0x0B07
/-- E_FAB_COORD. -/
def eFabCoord : BitVec 16 := 0x0B08
/-- E_FAB_IV. -/
def eFabIv : BitVec 16 := 0x0B09
/-- E_FAB_KFP2. -/
def eFabKfp2 : BitVec 16 := 0x0B0A
/-- E_MSF_REQ. -/
def eMsfReq : BitVec 16 := 0x0C01
/-- E_MSF_FAIL. -/
def eMsfFail : BitVec 16 := 0x0C02
/-- E_MSF_HANG. -/
def eMsfHang : BitVec 16 := 0x0C03
/-- E_MSF_DENIED. -/
def eMsfDenied : BitVec 16 := 0x0C04
/-- E_CTX_DESC. -/
def eCtxDesc : BitVec 16 := 0x0D01
/-- E_RING_INDEX. -/
def eRingIndex : BitVec 16 := 0x0D02
/-- E_CPL_FULL. -/
def eCplFull : BitVec 16 := 0x0D03
/-- E_CMD_CORE. -/
def eCmdCore : BitVec 16 := 0x0D04
/-- E_SYNC_SHAPE. -/
def eSyncShape : BitVec 16 := 0x0D07
/-- E_SYNC_HANG. -/
def eSyncHang : BitVec 16 := 0x0D08
/-- E_PLAN_TPL. -/
def ePlanTpl : BitVec 16 := 0x0D09
/-- E_TIMED_LATE. -/
def eTimedLate : BitVec 16 := 0x0D0A
/-- E_SEM_GUARD. -/
def eSemGuard : BitVec 16 := 0x0D0B
/-- E_SEM_EXPIRED. -/
def eSemExpired : BitVec 16 := 0x0D0C
/-- E_RL_DOWN. -/
def eRlDown : BitVec 16 := 0x0D0D
/-- E_PART_CFG. -/
def ePartCfg : BitVec 16 := 0x0E01
/-- E_CMD_PCLASS. -/
def eCmdPclass : BitVec 16 := 0x0E02
/-- E_PCLASS_CAP. -/
def ePclassCap : BitVec 16 := 0x0E03
/-- E_RES_CFG. -/
def eResCfg : BitVec 16 := 0x0F01
/-- E_EPOCH_STATE. -/
def eEpochState : BitVec 16 := 0x0F02
/-- E_EPOCH_SEQ. -/
def eEpochSeq : BitVec 16 := 0x0F03
/-- E_EPOCH_SPAN. -/
def eEpochSpan : BitVec 16 := 0x0F04
/-- E_EPOCH_LATE. -/
def eEpochLate : BitVec 16 := 0x0F05
/-- E_RES_POOL. -/
def eResPool : BitVec 16 := 0x0F06
/-- E_RETAIN_FULL. -/
def eRetainFull : BitVec 16 := 0x0F07
/-- E_SNAP_SHAPE. -/
def eSnapShape : BitVec 16 := 0x0F08
/-- E_RNG_CHECK. -/
def eRngCheck : BitVec 16 := 0x0F0A
/-- EV_STANDIN. -/
def evStandin : BitVec 16 := 0x0F0B
/-- EV_EXPOSED. -/
def evExposed : BitVec 16 := 0x0F0C
/-- EV_REBUILT. -/
def evRebuilt : BitVec 16 := 0x0F0D
/-- EV_RISK. -/
def evRisk : BitVec 16 := 0x0F0E
/-- EV_RNG_REWIND. -/
def evRngRewind : BitVec 16 := 0x0F0F
/-- EV_MTR_CHECK. -/
def evMtrCheck : BitVec 16 := 0x1001
/-- EV_MTR_EVENT. -/
def evMtrEvent : BitVec 16 := 0x1002
/-- E_FT_HOLDOVER. -/
def eFtHoldover : BitVec 16 := 0x1003
/-- E_FT_RANGE. -/
def eFtRange : BitVec 16 := 0x1004
/-- E_BOOT_PUF. -/
def eBootPuf : BitVec 16 := 0x1101
/-- E_BOOT_CERT. -/
def eBootCert : BitVec 16 := 0x1102
/-- E_BOOT_MANIFEST. -/
def eBootManifest : BitVec 16 := 0x1103
/-- E_BOOT_IMAGE. -/
def eBootImage : BitVec 16 := 0x1104
/-- E_BOOT_VERSION. -/
def eBootVersion : BitVec 16 := 0x1105
/-- E_BOOT_HW. -/
def eBootHw : BitVec 16 := 0x1106
/-- E_KEY_LOAD. -/
def eKeyLoad : BitVec 16 := 0x1107
/-- E_ATT_FAIL. -/
def eAttFail : BitVec 16 := 0x1108
/-- E_UPDATE_PLAN. -/
def eUpdatePlan : BitVec 16 := 0x1109
/-- E_PWR_BRAKE. -/
def ePwrBrake : BitVec 16 := 0x1201
/-- E_PWR_DROOP. -/
def ePwrDroop : BitVec 16 := 0x1202
/-- E_PWR_AGING. -/
def ePwrAging : BitVec 16 := 0x1203
/-- E_PWR_THERMAL. -/
def ePwrThermal : BitVec 16 := 0x1204
/-- E_PWR_THERMTRIP. -/
def ePwrThermtrip : BitVec 16 := 0x1205
/-- E_PWR_SELFTEST. -/
def ePwrSelftest : BitVec 16 := 0x1206
/-- E_REG_ACCESS. -/
def eRegAccess : BitVec 16 := 0x1401
/-- E_PWR_RAIL. -/
def ePwrRail : BitVec 16 := 0x1501
/-- E_PWR_REG. -/
def ePwrReg : BitVec 16 := 0x1502
/-- E_PWR_MARGIN. -/
def ePwrMargin : BitVec 16 := 0x1503
/-- E_D2D_LINK. -/
def eD2dLink : BitVec 16 := 0x0101
/-- E_STEP_STATUS. -/
def eStepStatus : BitVec 16 := 0x0201
/-- E_SCALE_FLOOR. -/
def eScaleFloor : BitVec 16 := 0x0202
/-- EV_LEASE_REVOKE. -/
def evLeaseRevoke : BitVec 16 := 0x0A20
/-- EV_LEASE_END. -/
def evLeaseEnd : BitVec 16 := 0x0A21
/-- E_ERR_RING. -/
def eErrRing : BitVec 16 := 0x1301

/-- The model's own marks, which reach no record: an access must wait for a line that a companion holds modified, to read
it or to write it. -/
def cohRead : BitVec 16 := 0xFFFE
def cohWrite : BitVec 16 := 0xFFFF

end Sys2Proof.Machine.Code
end

