-- ==== Sys2Proof/Machine/Tbl.lean ====
section
/-! DEFINITION. Tables: sparse data by a natural-number key, in one canonical form. A table lists (key, value) pairs
with keys strictly rising and no value equal to the table's default, which is what an unlisted key reads as. Memory is
the table of bytes with default 0. -/

namespace Sys2Proof.Machine

/-- A table of values by key. -/
abbrev Tbl (α : Type) := List (Nat × α)

/-- The value at a key; `d` is the table's default. -/
def Tbl.get {α : Type} (d : α) : Tbl α → Nat → α
  | [], _ => d
  | (k, v) :: t, i => if k = i then v else Tbl.get d t i

/-- The table without any entry of the key. -/
def Tbl.erase {α : Type} : Tbl α → Nat → Tbl α
  | [], _ => []
  | (k, v) :: t, i => if k = i then Tbl.erase t i else (k, v) :: Tbl.erase t i

/-- Places an entry before the first larger key. -/
def Tbl.insert {α : Type} (i : Nat) (x : α) : Tbl α → Tbl α
  | [] => [(i, x)]
  | (k, v) :: t => if i < k then (i, x) :: (k, v) :: t else (k, v) :: Tbl.insert i x t

/-- Sets the value at a key; setting the default removes the entry, so the canonical form is kept. -/
def Tbl.set {α : Type} [DecidableEq α] (d : α) (t : Tbl α) (i : Nat) (x : α) : Tbl α :=
  if x = d then Tbl.erase t i else Tbl.insert i x (Tbl.erase t i)

/-- Changes the value at a key. -/
def Tbl.modify {α : Type} [DecidableEq α] (d : α) (t : Tbl α) (i : Nat) (f : α → α) : Tbl α :=
  Tbl.set d t i (f (Tbl.get d t i))

/-- Keys strictly rise, from a lower bound on. -/
def Tbl.rising {α : Type} : Option Nat → Tbl α → Bool
  | _, [] => true
  | none, (k, _) :: t => Tbl.rising (some k) t
  | some b, (k, _) :: t => decide (b < k) && Tbl.rising (some k) t

/-- The canonical form: keys strictly rise and no value is the default. -/
def Tbl.wf {α : Type} [DecidableEq α] (d : α) (t : Tbl α) : Bool :=
  Tbl.rising none t && t.all (fun p => decide (p.2 ≠ d))

/-- Memory: a table of bytes; an unlisted byte reads 0. -/
abbrev Memory := List (Nat × BitVec 8)

/-- Memory's canonical form: addresses strictly rise and no listed byte is 0. -/
def Memory.wf (m : Memory) : Bool := Tbl.wf (0 : BitVec 8) m

/-- One byte of a memory. -/
def Memory.readByte (m : Memory) (a : Nat) : Byte := Tbl.get (0 : BitVec 8) m a

/-- Writes one byte of a memory. -/
def Memory.writeByte (m : Memory) (a : Nat) (b : Byte) : Memory := Tbl.set (0 : BitVec 8) m a b

/-- `n` bytes of a memory, lowest address first. -/
def Memory.read (m : Memory) (a : Nat) : Nat → Bytes
  | 0 => []
  | n + 1 => Memory.readByte m a :: Memory.read m (a + 1) n

/-- Writes a run of bytes from an address upwards. -/
def Memory.write (m : Memory) (a : Nat) : Bytes → Memory
  | [] => m
  | b :: bs => Memory.write (Memory.writeByte m a b) (a + 1) bs

/-- `n` bytes from an address become 0. -/
def Memory.zero (m : Memory) (a n : Nat) : Memory := m.filter (fun p => !(decide (a ≤ p.1) && decide (p.1 < a + n)))

/-- The little-endian value of a run of bytes (00_scope: multi-byte fields are little-endian). -/
def leNat : Bytes → Nat
  | [] => 0
  | b :: bs => b.toNat + 256 * leNat bs

/-- `n` bytes of a value, little-endian. -/
def leBytes (n v : Nat) : Bytes :=
  match n with
  | 0 => []
  | n + 1 => BitVec.ofNat 8 v :: leBytes n (v / 256)

end Sys2Proof.Machine
end

