-- ==== Sys2Proof/Machine/Bits.lean ====
section
/-! DEFINITION. Fields of descriptors, records and registers, and small arithmetic on words. -/

namespace Sys2Proof.Machine

/-- `w` bits of a number from bit `lo` up. -/
def bitsOf (v lo w : Nat) : Nat := v / 2 ^ lo % 2 ^ w

/-- A field of a descriptor: `w` bits from bit `lo` up. -/
def fld (d : Desc) (lo w : Nat) : Nat := bitsOf d.toNat lo w

/-- A one-bit field of a descriptor. -/
def flag (d : Desc) (i : Nat) : Bool := fld d i 1 == 1

/-- One bit of a number. -/
def bitAt (v i : Nat) : Bool := v / 2 ^ i % 2 == 1

/-- A Bool as a bit. -/
def b2n (b : Bool) : Nat := if b then 1 else 0

/-- Packs fields, each (lowest bit, value), into one number; the values must fit their fields. -/
def pack : List (Nat × Nat) → Nat
  | [] => 0
  | (lo, v) :: t => v * 2 ^ lo + pack t

/-- Adds to a counter that saturates at all ones. -/
def satAdd {w : Nat} (c : BitVec w) (n : Nat) : BitVec w := BitVec.ofNat w (min (c.toNat + n) (2 ^ w - 1))

/-- The least whole number of `m`-sized pieces that hold `n`. -/
def ceilDiv (n m : Nat) : Nat := (n + m - 1) / m

/-- Clamps a number into a range. -/
def clamp (lo hi v : Nat) : Nat := max lo (min hi v)

/-- How far a free-running 32-bit count stands ahead of another. -/
def ahead (a b : BitVec 32) : Nat := (a - b).toNat

/-- The number of ones among the lowest `n` bits of `v`. -/
def popcount (v : Nat) : Nat → Nat
  | 0 => 0
  | n + 1 => v % 2 + popcount (v / 2) n

/-- The numbers 0 to n - 1. -/
def upto (n : Nat) : List Nat := List.range n

/-- Inserts a number into a rising list without repeats. -/
def insNat (x : Nat) : List Nat → List Nat
  | [] => [x]
  | y :: t => if x < y then x :: y :: t else if x = y then y :: t else y :: insNat x t

/-- Replaces the first list element that satisfies `p` by `f` of it. -/
def replaceFirst {α : Type} (p : α → Bool) (f : α → α) : List α → List α
  | [] => []
  | x :: t => if p x then f x :: t else x :: replaceFirst p f t

/-- Removes the first list element that satisfies `p`. -/
def removeFirst {α : Type} (p : α → Bool) : List α → List α
  | [] => []
  | x :: t => if p x then t else x :: removeFirst p t

/-- The list element at an index, or a default. -/
def nth {α : Type} (d : α) (l : List α) (i : Nat) : α := l.getD i d

/-- Replaces the list element at an index. -/
def setNth {α : Type} : List α → Nat → α → List α
  | [], _, _ => []
  | _ :: t, 0, x => x :: t
  | y :: t, n + 1, x => y :: setNth t n x

/-- Places an element before the first one that it does not rank behind. -/
def insertBy {α : Type} (le : α → α → Bool) (x : α) : List α → List α
  | [] => [x]
  | y :: t => if le x y then x :: y :: t else y :: insertBy le x t

/-- A list in the order of `le`. -/
def sortBy {α : Type} (le : α → α → Bool) : List α → List α
  | [] => []
  | x :: t => insertBy le x (sortBy le t)

/-- Cuts a list into pieces of `n` (R63); `fuel` bounds their number. -/
def pieces {α : Type} (n : Nat) : Nat → List α → List (List α)
  | 0, _ => []
  | f + 1, l => if l.isEmpty then [] else l.take n :: pieces n f (l.drop n)

end Sys2Proof.Machine
end

