-- ==== Sys2Proof/Machine/Hash.lean ====
section
/-! DEFINITION. The checks, hashes and random blocks that the spec names by their standards: CRC-32C, the CRC-8 of the
two-wire bus (R374), SHA-256 (FIPS 180-4) and Philox 4×32-10 (R35). -/

namespace Sys2Proof.Machine

/-- `n` shifts of the reflected CRC-32C register. -/
def crc32cShift (c : BitVec 32) : Nat → BitVec 32
  | 0 => c
  | n + 1 => crc32cShift (if c.getLsbD 0 then (c >>> 1) ^^^ 0x82F63B78#32 else c >>> 1) n

/-- The CRC-32C register after a run of bytes. -/
def crc32cRun (c : BitVec 32) : Bytes → BitVec 32
  | [] => c
  | b :: bs => crc32cRun (crc32cShift (c ^^^ b.setWidth 32) 8) bs

/-- CRC-32C of a run of bytes. -/
def crc32c (bs : Bytes) : BitVec 32 := ~~~ (crc32cRun 0xFFFFFFFF#32 bs)

/-- `n` shifts of the CRC-8 register, polynomial x⁸ + x² + x + 1. -/
def crc8Shift (c : BitVec 8) : Nat → BitVec 8
  | 0 => c
  | n + 1 => crc8Shift (if c.getLsbD 7 then (c <<< 1) ^^^ 0x07#8 else c <<< 1) n

/-- The CRC-8 of R374, from a register value. -/
def crc8 (c : BitVec 8) : Bytes → BitVec 8
  | [] => c
  | b :: bs => crc8 (crc8Shift (c ^^^ b) 8) bs

/-- The round constants of SHA-256, first half. -/
def sha256KA : List (BitVec 32) :=
  [0x428a2f98#32, 0x71374491#32, 0xb5c0fbcf#32, 0xe9b5dba5#32, 0x3956c25b#32, 0x59f111f1#32, 0x923f82a4#32,
   0xab1c5ed5#32, 0xd807aa98#32, 0x12835b01#32, 0x243185be#32, 0x550c7dc3#32, 0x72be5d74#32, 0x80deb1fe#32,
   0x9bdc06a7#32, 0xc19bf174#32, 0xe49b69c1#32, 0xefbe4786#32, 0x0fc19dc6#32, 0x240ca1cc#32, 0x2de92c6f#32,
   0x4a7484aa#32, 0x5cb0a9dc#32, 0x76f988da#32, 0x983e5152#32, 0xa831c66d#32, 0xb00327c8#32, 0xbf597fc7#32,
   0xc6e00bf3#32, 0xd5a79147#32, 0x06ca6351#32, 0x14292967#32]

/-- The round constants of SHA-256, second half. -/
def sha256KB : List (BitVec 32) :=
  [0x27b70a85#32, 0x2e1b2138#32, 0x4d2c6dfc#32, 0x53380d13#32, 0x650a7354#32, 0x766a0abb#32, 0x81c2c92e#32,
   0x92722c85#32, 0xa2bfe8a1#32, 0xa81a664b#32, 0xc24b8b70#32, 0xc76c51a3#32, 0xd192e819#32, 0xd6990624#32,
   0xf40e3585#32, 0x106aa070#32, 0x19a4c116#32, 0x1e376c08#32, 0x2748774c#32, 0x34b0bcb5#32, 0x391c0cb3#32,
   0x4ed8aa4a#32, 0x5b9cca4f#32, 0x682e6ff3#32, 0x748f82ee#32, 0x78a5636f#32, 0x84c87814#32, 0x8cc70208#32,
   0x90befffa#32, 0xa4506ceb#32, 0xbef9a3f7#32, 0xc67178f2#32]

/-- The initial hash value of SHA-256. -/
def sha256Init : List (BitVec 32) :=
  [0x6a09e667#32, 0xbb67ae85#32, 0x3c6ef372#32, 0xa54ff53a#32, 0x510e527f#32, 0x9b05688c#32, 0x1f83d9ab#32,
   0x5be0cd19#32]

/-- A big-endian 32-bit word. -/
def beWord (bs : Bytes) : BitVec 32 := BitVec.ofNat 32 (leNat bs.reverse)

/-- Splits bytes into big-endian words. -/
def beWords : Nat → Bytes → List (BitVec 32)
  | 0, _ => []
  | n + 1, bs => beWord (bs.take 4) :: beWords n (bs.drop 4)

/-- Extends the message schedule, held newest first. -/
def sha256Extend : Nat → List (BitVec 32) → List (BitVec 32)
  | 0, w => w
  | n + 1, w =>
    let g := fun i => w.getD i 0#32
    let s0 := (g 14).rotateRight 7 ^^^ (g 14).rotateRight 18 ^^^ (g 14) >>> 3
    let s1 := (g 1).rotateRight 17 ^^^ (g 1).rotateRight 19 ^^^ (g 1) >>> 10
    sha256Extend n ((g 15 + s0 + g 6 + s1) :: w)

/-- The 64 rounds over (constant, word) pairs. -/
def sha256Rounds (a b c d e f g h : BitVec 32) : List (BitVec 32 × BitVec 32) → List (BitVec 32)
  | [] => [a, b, c, d, e, f, g, h]
  | (k, w) :: t =>
    let s1 := e.rotateRight 6 ^^^ e.rotateRight 11 ^^^ e.rotateRight 25
    let ch := (e &&& f) ^^^ (~~~ e &&& g)
    let t1 := h + s1 + ch + k + w
    let s0 := a.rotateRight 2 ^^^ a.rotateRight 13 ^^^ a.rotateRight 22
    let mj := (a &&& b) ^^^ (a &&& c) ^^^ (b &&& c)
    sha256Rounds (t1 + (s0 + mj)) a b c (d + t1) e f g t

/-- One 64-byte block. -/
def sha256Block (h : List (BitVec 32)) (blk : Bytes) : List (BitVec 32) :=
  let w := (sha256Extend 48 (beWords 16 blk).reverse).reverse
  let g := fun i => h.getD i 0#32
  let r := sha256Rounds (g 0) (g 1) (g 2) (g 3) (g 4) (g 5) (g 6) (g 7) ((sha256KA ++ sha256KB).zip w)
  List.zipWith (· + ·) h r

/-- `n` blocks. -/
def sha256Blocks : Nat → List (BitVec 32) → Bytes → List (BitVec 32)
  | 0, h, _ => h
  | n + 1, h, bs => sha256Blocks n (sha256Block h (bs.take 64)) (bs.drop 64)

/-- A 32-bit word as big-endian bytes. -/
def beBytes32 (w : BitVec 32) : Bytes := (leBytes 4 w.toNat).reverse

/-- SHA-256 of a run of bytes (FIPS 180-4). -/
def sha256 (bs : Bytes) : Bytes :=
  let l := bs.length
  let z := (119 - l % 64) % 64
  let m := bs ++ [0x80#8] ++ List.replicate z 0#8 ++ (leBytes 8 (8 * l)).reverse
  (sha256Blocks (m.length / 64) sha256Init m).flatMap beBytes32

/-- One Philox 4×32 round. -/
def philoxRound (k0 k1 x0 x1 x2 x3 : BitVec 32) : BitVec 32 × BitVec 32 × BitVec 32 × BitVec 32 :=
  let p0 := 0xD2511F53 * x0.toNat
  let p1 := 0xCD9E8D57 * x2.toNat
  (BitVec.ofNat 32 (p1 / 2 ^ 32) ^^^ x1 ^^^ k0, BitVec.ofNat 32 p1,
   BitVec.ofNat 32 (p0 / 2 ^ 32) ^^^ x3 ^^^ k1, BitVec.ofNat 32 p0)

/-- `n` Philox rounds, the key bumped between rounds. -/
def philoxRounds : Nat → BitVec 32 → BitVec 32 → BitVec 32 × BitVec 32 × BitVec 32 × BitVec 32 → List (BitVec 32)
  | 0, _, _, (x0, x1, x2, x3) => [x0, x1, x2, x3]
  | n + 1, k0, k1, (x0, x1, x2, x3) =>
    philoxRounds n (k0 + 0x9E3779B9#32) (k1 + 0xBB67AE85#32) (philoxRound k0 k1 x0 x1 x2 x3)

/-- The Philox 4×32-10 block of a key and a counter: four words, word 0 first (R35). -/
def philox (key : BitVec 64) (ctr : BitVec 128) : List (BitVec 32) :=
  philoxRounds 10 (key.extractLsb' 0 32) (key.extractLsb' 32 32)
    (ctr.extractLsb' 0 32, ctr.extractLsb' 32 32, ctr.extractLsb' 64 32, ctr.extractLsb' 96 32)

end Sys2Proof.Machine
end

