-- ==== Sys2Proof/Machine/Crypto.lean ====
section
/-! DEFINITION. The signatures, key agreement and sealing that the spec names by their standards: ECDSA on P-256 with the
deterministic nonce of FIPS 186-5, ECDH, and AES-256-GCM (R371, R383-R385, R392, R395). The curve and cipher constants are
the standards' own (PRESUMED, log). -/

namespace Sys2Proof.Machine

/-! ### P-256 -/

/-- The field prime of P-256. -/
def p256P : Nat := 0xffffffff00000001000000000000000000000000ffffffffffffffffffffffff
/-- The group order n. -/
def p256N : Nat := 0xffffffff00000000ffffffffffffffffbce6faada7179e84f3b9cac2fc632551
/-- The curve's b. -/
def p256B : Nat := 0x5ac635d8aa3a93e7b3ebbd55769886bc651d06b0cc53b0f63bce3c3e27d2604b
/-- The base point. -/
def p256G : Nat × Nat :=
  (0x6b17d1f2e12c4247f8bce6e563a440f277037d812deb33a0f4a13945d898c296,
   0x4fe342e2fe1a7f9b8ee7eb4a7c0f9e162bce33576b315ececbb6406837bf51f5)

/-- `b ^ e` modulo `m`, over the lowest `fuel` bits of `e`. -/
def powMod (m : Nat) : Nat → Nat → Nat → Nat
  | 0, _, _ => 1
  | fuel + 1, b, e =>
    let r := powMod m fuel (b * b % m) (e / 2)
    if e % 2 = 1 then b * r % m else r

/-- The inverse modulo a 256-bit prime. -/
def invMod (m a : Nat) : Nat := powMod m 256 (a % m) (m - 2)

/-- A point of the curve; `none` is the point at infinity. -/
abbrev Point := Option (Nat × Nat)

/-- `a - b` modulo the field prime. -/
def subP (a b : Nat) : Nat := (a % p256P + p256P - b % p256P) % p256P

/-- The line through two points with a given slope meets the curve here. -/
def chord (l x1 y1 x2 : Nat) : Point :=
  let x3 := subP (l * l) (x1 + x2)
  some (x3, subP (l * subP x1 x3) y1)

/-- Point addition. -/
def ptAdd (a b : Point) : Point :=
  match a, b with
  | none, q => q
  | q, none => q
  | some (x1, y1), some (x2, y2) =>
    if x1 = x2 then
      if (y1 + y2) % p256P = 0 then none
      else chord (subP (3 * x1 * x1) 3 * invMod p256P (2 * y1) % p256P) x1 y1 x2
    else chord (subP y2 y1 * invMod p256P (subP x2 x1) % p256P) x1 y1 x2

/-- `k` times a point, over the lowest `fuel` bits of `k`. -/
def ptMul : Nat → Nat → Point → Point
  | 0, _, _ => none
  | fuel + 1, k, q =>
    let r := ptMul fuel (k / 2) (ptAdd q q)
    if k % 2 = 1 then ptAdd q r else r

/-- The number that a run of big-endian bytes spells. -/
def beNat (bs : Bytes) : Nat := leNat bs.reverse

/-- `n` big-endian bytes of a number. -/
def beBytes (n v : Nat) : Bytes := (leBytes n v).reverse

/-- A public key as X then Y, 32 bytes each, big-endian (R383). -/
def ptBytes (q : Point) : Bytes :=
  match q with
  | some (x, y) => beBytes 32 x ++ beBytes 32 y
  | none => List.replicate 64 0

/-- A public key's point, when it lies on the curve. -/
def ptOf (bs : Bytes) : Point :=
  let x := beNat (bs.take 32)
  let y := beNat ((bs.drop 32).take 32)
  if x < p256P ∧ y < p256P ∧ y * y % p256P = subP (x * x * x + p256B) (3 * x) then some (x, y) else none

/-- The public key of a private scalar. -/
def pubKey (d : Nat) : Bytes := ptBytes (ptMul 256 d (some p256G))

/-- ECDH: the 32-byte x-coordinate that a private scalar and a public key agree on; `none` for a bad public key. -/
def ecdh (d : Nat) (pub : Bytes) : Option Bytes :=
  match ptOf pub with
  | none => none
  | q => (ptMul 256 d q).map (fun r => beBytes 32 r.1)

/-- ECDSA verification of r, s over a SHA-256 hash. -/
def ecdsaVerify (pub hash sig : Bytes) : Bool :=
  let r := beNat (sig.take 32)
  let s := beNat ((sig.drop 32).take 32)
  match ptOf pub with
  | none => false
  | q =>
    if r = 0 ∨ p256N ≤ r ∨ s = 0 ∨ p256N ≤ s then false
    else
      let w := invMod p256N s
      match ptAdd (ptMul 256 (beNat hash * w % p256N) (some p256G)) (ptMul 256 (r * w % p256N) q) with
      | some v => v.1 % p256N == r
      | none => false

/-- HMAC-SHA-256 with a 32-byte key. -/
def hmac (key msg : Bytes) : Bytes :=
  let k := key ++ List.replicate (64 - key.length) 0
  sha256 (k.map (· ^^^ 0x5C) ++ sha256 (k.map (· ^^^ 0x36) ++ msg))

/-- The signature for a nonce, when the nonce serves. -/
def signWith (d z k : Nat) : Option Bytes :=
  match ptMul 256 k (some p256G) with
  | none => none
  | some v =>
    let r := v.1 % p256N
    let s := invMod p256N k * (z + r * d) % p256N
    if k = 0 ∨ p256N ≤ k ∨ r = 0 ∨ s = 0 then none else some (beBytes 32 r ++ beBytes 32 s)

/-- The nonces of the deterministic scheme, tried in turn. -/
def signTry (d z : Nat) : Nat → Bytes → Bytes → Bytes
  | 0, _, _ => List.replicate 64 0
  | n + 1, k, v =>
    let v1 := hmac k v
    match signWith d z (beNat v1) with
    | some s => s
    | none =>
      let k2 := hmac k (v1 ++ [0])
      signTry d z n k2 (hmac k2 v1)

/-- Deterministic ECDSA over a SHA-256 hash: r then s, 32 bytes each, big-endian. -/
def ecdsaSign (d : Nat) (hash : Bytes) : Bytes :=
  let z := beNat hash
  let m := beBytes 32 d ++ beBytes 32 (z % p256N)
  let v0 : Bytes := List.replicate 32 1
  let k1 := hmac (List.replicate 32 0) (v0 ++ [0] ++ m)
  let v1 := hmac k1 v0
  let k2 := hmac k1 (v1 ++ [1] ++ m)
  signTry d z 64 k2 (hmac k2 v1)

/-! ### AES-256-GCM -/

/-- Multiplication by x in AES's field. -/
def xtime (b : BitVec 8) : BitVec 8 := if b.getLsbD 7 then (b <<< 1) ^^^ 0x1B else b <<< 1

/-- Multiplication in AES's field, over the lowest `n` bits of the second factor. -/
def gfMul (a : BitVec 8) (b : Nat) : Nat → BitVec 8
  | 0 => 0
  | n + 1 => (if b % 2 = 1 then a else 0) ^^^ gfMul (xtime a) (b / 2) n

/-- The power of an element. -/
def gfPow (a : BitVec 8) : Nat → BitVec 8
  | 0 => 1
  | n + 1 => gfMul a (gfPow a n).toNat 8

/-- AES's S-box: the inverse, then the affine map. -/
def sbox (a : BitVec 8) : BitVec 8 :=
  let b := gfPow a 254
  b ^^^ b.rotateLeft 1 ^^^ b.rotateLeft 2 ^^^ b.rotateLeft 3 ^^^ b.rotateLeft 4 ^^^ 0x63

/-- XOR of two runs of bytes. -/
def xorRun (a b : Bytes) : Bytes := (a.zip b).map (fun q => q.1 ^^^ q.2)

/-- The key schedule of AES-256, newest word first; `rcon` is the next round constant. -/
def aesExpand : Nat → Nat → BitVec 8 → List Bytes → List Bytes
  | 0, _, _, w => w
  | n + 1, i, rcon, w =>
    let t := w.headD []
    let old := w.getD 7 []
    if i % 8 = 0 then
      let u := (t.drop 1 ++ t.take 1).map sbox
      aesExpand n (i + 1) (xtime rcon) (xorRun old (xorRun u [rcon, 0, 0, 0]) :: w)
    else aesExpand n (i + 1) rcon (xorRun old (if i % 8 = 4 then t.map sbox else t) :: w)

/-- Pieces of four bytes. -/
def words4 : Nat → Bytes → List Bytes
  | 0, _ => []
  | n + 1, bs => bs.take 4 :: words4 n (bs.drop 4)

/-- The 15 round keys. -/
def aesKeys (key : Bytes) : List Bytes :=
  let w := (aesExpand 52 8 1 (words4 8 key).reverse).reverse
  (upto 15).map (fun r => ((w.drop (4 * r)).take 4).flatten)

/-- ShiftRows on the 16 bytes, columns first. -/
def shiftRows (b : Bytes) : Bytes := (upto 16).map (fun i => b.getD ((i + 4 * (i % 4)) % 16) 0)

/-- MixColumns on one column. -/
def mixCol (c : Bytes) : Bytes :=
  (upto 4).map (fun i =>
    let g := fun (j : Nat) => c.getD ((i + j) % 4) 0
    xtime (g 0) ^^^ (xtime (g 1) ^^^ g 1) ^^^ g 2 ^^^ g 3)

/-- The rounds after the first key. -/
def aesRounds (b : Bytes) : List Bytes → Bytes
  | [] => b
  | [k] => xorRun (shiftRows (b.map sbox)) k
  | k :: t => aesRounds (xorRun ((words4 4 (shiftRows (b.map sbox))).flatMap mixCol) k) t

/-- AES-256 of one block. -/
def aes256 (key blk : Bytes) : Bytes :=
  match aesKeys key with
  | [] => blk
  | k :: t => aesRounds (xorRun blk k) t

/-- Multiplication in GCM's field: `z` gathers, `v` runs; blocks are 128-bit numbers, the first bit highest. -/
def ghashMul : Nat → Nat → Nat → Nat → Nat
  | 0, _, _, z => z
  | n + 1, x, v, z =>
    let z' := if x / 2 ^ n % 2 = 1 then z ^^^ v else z
    ghashMul n x (if v % 2 = 1 then (v / 2) ^^^ (0xE1 * 2 ^ 120) else v / 2) z'

/-- GHASH over whole blocks. -/
def ghash (h : Nat) : Nat → Nat → Bytes → Nat
  | 0, y, _ => y
  | n + 1, y, bs => ghash h n (ghashMul 128 (y ^^^ beNat (bs.take 16)) h 0) (bs.drop 16)

/-- Zero bytes up to a whole block. -/
def pad16 (bs : Bytes) : Bytes := bs ++ List.replicate ((16 - bs.length % 16) % 16) 0

/-- The counter stream from a counter value. -/
def gcmStream (key iv : Bytes) : Nat → Nat → Bytes
  | 0, _ => []
  | n + 1, c => aes256 key (iv ++ beBytes 4 c) ++ gcmStream key iv n (c + 1)

/-- The GCM tag of a ciphertext with its associated data. -/
def gcmTag (key iv ct aad : Bytes) : Bytes :=
  let h := beNat (aes256 key (List.replicate 16 0))
  let m := pad16 aad ++ pad16 ct ++ beBytes 8 (8 * aad.length) ++ beBytes 8 (8 * ct.length)
  xorRun (beBytes 16 (ghash h (m.length / 16) 0 m)) (aes256 key (iv ++ beBytes 4 1))

/-- Encrypts, or decrypts, under AES-256-GCM with a 96-bit IV. -/
def gcmCrypt (key iv text : Bytes) : Bytes := xorRun text (gcmStream key iv (ceilDiv text.length 16) 2)

/-- Opens a ciphertext; `none` when the tag fails. -/
def gcmOpen (key iv ct aad tag : Bytes) : Option Bytes :=
  if gcmTag key iv ct aad = tag then some (gcmCrypt key iv ct) else none

end Sys2Proof.Machine
end

