-- ==== Sys2Proof/Machine/State.lean ====
section
/-! DEFINITION. The state of the device as plain data: one field for each piece of state that INVENTORY.md lists under
'State', and the state right after reset. Tables (`Tbl`) list only what differs from the reset value of their kind. -/

namespace Sys2Proof.Machine

/-! ### Global block (13, 14, 20) -/

/-- A hardware semaphore (R289-R291). `leaseEnd` is the model's time at which the lease runs out. -/
structure Sem where
  held : Bool := false
  owner : RlPort := 0
  expired : Bool := false
  ticket : BitVec 16 := 0
  leaseEnd : Nat := 0
  deriving DecidableEq, Repr

/-- One granule's ownership (Table 14.7). -/
structure Gran where
  part : PartI := 0
  owned : Bool := false
  zeroing : Bool := false
  lent : Bool := false
  deriving DecidableEq, Repr

/-- GL_ACCESS_ERR (Table 20.7). -/
structure AccErr where
  offset : BitVec 26 := 0
  port : RlPort := 0
  write : Bool := false
  reason : BitVec 4 := 0
  count : BitVec 32 := 0
  deriving DecidableEq, Repr

/-- The global block. `resetReq` is a reset asked for (when, and its cause), `resetLow` that RESET_N is low. -/
structure Gl where
  es : Bool := false
  resetReq : Option (Nat × BitVec 3) := none
  cause : BitVec 3 := 0
  resets : BitVec 16 := 0
  accErr : AccErr := {}
  scratch : Tbl (BitVec 64) := []
  sems : Tbl Sem := []
  semLease : BitVec 14 := 100
  semExpired : BitVec 32 := 0
  guardErr0 : BitVec 16 := 0
  guardErr1 : BitVec 16 := 0
  lastTie : RlPort := 1
  granSel : BitVec 11 := 0
  grans : Tbl Gran := []
  partCfgErr : BitVec 8 := 0
  inReset : Bool := false
  resetLow : Bool := false
  stopped : Bool := false
  actCount : BitVec 32 := 0
  deriving DecidableEq, Repr

/-! ### Partitions and contexts (13, 14) -/

/-- The state of a partition (Table 14.8). -/
inductive PState where
  | absent | activating | active | dissolving | faulted
  deriving DecidableEq, Repr

/-- Why a switch is in progress and when its stop request was made (R324, R328). `late` is the slice end, when the
switch began at one (the overrun counts from it). -/
structure Switching where
  outgoing : Option CtxI
  incoming : Option CtxI
  stopAt : Nat
  high : Bool
  atSliceEnd : Bool
  saved : Bool
  savedAt : Nat
  deriving DecidableEq, Repr

/-- A partition (R313-R332). -/
structure Part where
  quads : BitVec 32 := 0
  nctx1 : BitVec 4 := 0
  state : PState := .absent
  ecode : BitVec 16 := 0
  save : BitVec 44 := 0
  sliceUs : BitVec 17 := 2000
  busy : BitVec 64 := 0
  idle : BitVec 64 := 0
  actSeq : BitVec 32 := 0
  resident : Option CtxI := none
  resStart : Nat := 0
  chargeStart : Nat := 0
  resEnd : Nat := 0
  sliceEnd : Nat := 0
  switching : Option Switching := none
  highReturn : Option CtxI := none
  fatalSeen : Bool := false
  pinStep : BitVec 7 := 64
  pinEn : Bool := false
  deriving DecidableEq, Repr

/-- The state of a context (Table 13.21). -/
inductive CState where
  | absent | bringup | ready | faulted | teardown
  deriving DecidableEq, Repr

/-- A context descriptor as bring-up read it (Table 13.4, Table 4.5). `confPct` and `hangMs` are the values that act. -/
structure CtxDesc where
  rport : RlPort := 0
  clog2 : BitVec 5 := 0
  qlog2 : BitVec 5 := 0
  jtag : BitVec 16 := 0
  strict : Bool := true
  confPct : BitVec 8 := 25
  hangMs : BitVec 14 := 250
  cring : BitVec 64 := 0
  qring : BitVec 64 := 0
  dbell : BitVec 64 := 0
  sline : BitVec 64 := 0
  slottab : BitVec 44 := 0
  rngtab : BitVec 44 := 0
  fq : List (BitVec 44 × BitVec 5) := []
  deriving DecidableEq, Repr

/-- A random stream (R68). -/
structure Rng where
  key : BitVec 64 := 0
  counter : BitVec 128 := 0
  deriving DecidableEq, Repr

/-- The state of a buffer slot (Table 4.2). -/
inductive SlotState where
  | empty | filling | full | draining
  deriving DecidableEq, Repr

/-- A live buffer slot (Table 4.2). `fillMark` is set between a FILL signal or a sender's end marker and the landing of
the last byte. -/
structure Slot where
  base64 : BitVec 18 := 0
  size64 : BitVec 18 := 0
  gen : BitVec 16 := 0
  state : SlotState := .empty
  valid : Bool := false
  extern : Bool := false
  fillMark : Bool := false
  deriving DecidableEq, Repr

/-- A scoreboard range entry: 64-byte granules `lo` to `hi` of the local store (R93). -/
structure Range where
  lo : Nat
  hi : Nat
  write : Bool
  deriving DecidableEq, Repr

/-- When an issued command takes its effect: at issue, or once every earlier command of its core, or of its context,
has completed (R209, R221, R304). -/
inductive Due where
  | now | core | ctx
  deriving DecidableEq, Repr

/-- How a command in flight ended: STATUS and ECODE of its completion record (Table 13.7). -/
structure Outcome where
  status : BitVec 8
  ecode : BitVec 16
  deriving DecidableEq, Repr

/-- A command in flight (R93, R94): its entry, its ranges, when it takes effect, and how it ended once it has; `capped` that
R327's cap has stopped it, and the context's resident time since which a full completion ring has held it (R298). -/
structure InFlight where
  entry : Entry
  ranges : List Range
  due : Due
  fin : Option Outcome
  issuedAt : Nat
  capped : Bool := false
  heldAt : Option Nat := none
  deriving DecidableEq, Repr

/-- What a core's sequencer stands at (R302, R305, R306). -/
inductive BlockKind where
  | slotFull | slotEmpty | event | memory | plan | fence | timed
  deriving DecidableEq, Repr

/-- A blocking command: the entry, its kind and the context's resident time at issue (R101, R303). -/
structure Blocked where
  entry : Entry
  kind : BlockKind
  since : Nat
  deriving DecidableEq, Repr

/-- A handed list being run (R310): the wait that runs it, the plan's ring position, where its commands lie and how
many of them have been issued. -/
structure ListRun where
  wait : Entry
  since : Nat
  planPos : BitVec 32
  base : BitVec 44
  ncmd : Nat
  next : Nat
  deriving DecidableEq, Repr

/-- A delivery from outside, or a sender's end marker, held back at its sender (R97, R101): where, its generation, its bytes,
the resident time of the sender's context at which it was first held, the slot whose marker it is, and the sender. -/
structure Held where
  addr : BitVec 24
  gen : BitVec 16
  data : Bytes
  since : Nat
  marker : Option Nat
  sender : CmdName
  deriving DecidableEq, Repr

/-- A sequencer as one context has it: its queue, its commands in flight, what it stands at, its live slots, the
timed start whose lateness the next issue shows (R306), since when it has stood still (R323), and of each OP_PREDICT its OUT_ADDR
and ROWS (R171). The resident context's are the core's; the others' stand in the save area (R316). -/
structure Seq where
  queue : List Entry := []
  inflight : List InFlight := []
  block : Option Blocked := none
  list : Option ListRun := none
  slots : List Slot := []
  stallCause : BitVec 2 := 0
  idleSince : Nat := 0
  held : List Held := []
  timed : Option Entry := none
  preds : List (Nat × Nat) := []
  deriving DecidableEq, Repr

/-- A plan that OP_EXPERT_PLAN has handed: ring position, output address and the cores that have not run their list. -/
structure Plan where
  pos : BitVec 32
  handed : Bool
  out : BitVec 44
  left : List Nat
  deriving DecidableEq, Repr

/-- The restart mark of a context (R338): its EPOCH and ring position, and the model's time at which it completed. -/
structure Mark where
  epoch : BitVec 32
  ringPos : BitVec 32
  time : Nat
  deriving DecidableEq, Repr

/-- An epoch mark that has been captured (R338): its entry and core, whether the protector has acknowledged it, and each
fabric queue's TAIL at the capture. -/
structure MarkRun where
  entry : Entry
  core : CoreI
  acked : Bool
  tails : List (BitVec 32)
  deriving DecidableEq, Repr

/-- The step status word (Table 2.7). -/
structure StepWord where
  scaleExp : BitVec 8 := 0
  clean : BitVec 10 := 0
  ovfThis : Bool := false
  ovfJob : Bool := false
  ovfLate : Bool := false
  skipLast : Bool := false
  floor : Bool := false
  step : BitVec 32 := 0
  deriving DecidableEq, Repr

/-- The live step status word of a context and its job binding (R42): where the word is written back, NDEV, SELF, CID,
the address of the group table and the table's CRC-32C. `agreed` is set from AGREE's capture to COMMIT. -/
structure StepBind where
  word : StepWord
  addr : BitVec 44
  ndev : BitVec 17
  self : BitVec 16
  cid : BitVec 16
  grpAddr : BitVec 44
  gcrc : BitVec 32
  agreed : Bool := false
  deriving DecidableEq, Repr

/-- A running SHA-256 (R207): the hash value so far, the bytes that do not fill a block yet, and the bytes taken in. -/
structure ShaRun where
  h : List (BitVec 32)
  tail : Bytes
  total : Nat
  deriving DecidableEq, Repr

/-- An open digest slot (R207): DIGID, and by domain the running hash and the bytes taken in without frames. -/
structure DigestSlot where
  digid : BitVec 16
  runs : List ShaRun
  counts : List Nat
  deriving DecidableEq, Repr

/-- A context (R293-R299, R321-R324, R338-R349). `markRun` is a captured mark whose agreement is not there, `engineNs` the
engine time of the epoch (R340), `markAt` the resident time of the last mark, `epochLate` that 200 ms have passed since,
`retained` the completed commands of the epoch by opcode and identifier (R349), `replayed` the ring positions whose
completion record the failed device had written (R353), `watched` that its doorbell line is watched (R294), `savedOnce` that its switch
state has been saved (R316). -/
structure Ctx where
  state : CState := .absent
  ecode : BitVec 16 := 0
  desc : CtxDesc := {}
  cmdHead : BitVec 32 := 0
  cmdTail : BitVec 32 := 0
  cplTail : BitVec 32 := 0
  cplHead : BitVec 32 := 0
  stopIdx : BitVec 32 := 0
  events : Tbl (BitVec 32) := []
  rng : Tbl Rng := []
  skipOpen : Bool := false
  digests : Tbl (Option DigestSlot) := []
  step : Option StepBind := none
  weight : BitVec 10 := 100
  high : Bool := false
  charge : BitVec 64 := 0
  overrun : BitVec 64 := 0
  lastOverrun : Nat := 0
  vt : BitVec 64 := 0
  yielded : Bool := false
  resAcc : Nat := 0
  image : Tbl (List Nat) := []
  plans : List Plan := []
  restart : Option Mark := none
  fatalSeen : Bool := false
  watched : Bool := false
  savedOnce : Bool := false
  markRun : Option MarkRun := none
  engineNs : Nat := 0
  markAt : Nat := 0
  epochLate : Bool := false
  retained : List (Nat × BitVec 16) := []
  replayed : List (BitVec 32) := []
  deriving DecidableEq, Repr

/-- A core's own state beside its local store's bytes (R103): conflict count, slot selector, and the 64 KiB granules of
the local store written since the last restore (R328). -/
structure Core where
  conflict : BitVec 32 := 0
  slotSel : BitVec 6 := 0
  dirty : List Nat := []
  deriving DecidableEq, Repr

/-! ### Ryutil ports (13) -/

/-- A Ryutil port (Table 13.20) and its companion's fabric operations (RL_CPN_p). `lanes` is the LANES field. -/
structure RlPortSt where
  state : BitVec 2 := 0
  lanes : BitVec 4 := 0
  cpnEn : Bool := false
  cpnJtag : BitVec 16 := 0
  retryAt : Nat := 0
  deriving DecidableEq, Repr

/-- The RL block. -/
structure Rl where
  ports : Tbl RlPortSt := []
  ctxSel : BitVec 7 := 0
  ctxDesc : BitVec 64 := 0
  deriving DecidableEq, Repr

/-! ### Memory (10) -/

/-- A page-table entry (Table 10.2), with the device-reserved mark of the save area (R315). -/
structure Pte where
  frame : BitVec 19 := 0
  tier : Fin 4 := 0
  lease : Fin 16 := 0
  part : PartI := 0
  owned : Bool := false
  backed : Bool := false
  moving : Bool := false
  pin : Bool := false
  hint : BitVec 3 := 0
  reserved : Bool := false
  deriving DecidableEq, Repr

/-- A page copy (R221): the page and the frame that it goes to. -/
structure PageMove where
  page : Nat
  tier : Fin 4
  lease : Fin 16
  frame : BitVec 19
  deriving DecidableEq, Repr

/-- An OP_MIGRATE that copies pages: its command, its core, the copies still to do in order, and how many pages it
changes. -/
structure Mig where
  entry : Entry
  core : CoreI
  moves : List PageMove
  changed : Nat
  deriving DecidableEq, Repr

/-- STATE of a lend slot (Table 10.8). -/
inductive LendState where
  | idle | offered | active | ending
  deriving DecidableEq, Repr

/-- A lend slot (Table 10.8). `asked` is a request that came before the slot was offered, `bslot` the borrow slot of an
active lease, `termEnd` the end of its term. -/
structure Lend where
  en : Bool := false
  revoke : Bool := false
  state : LendState := .idle
  medium : Bool := false
  borrower : Coord := 0
  ngran : BitVec 5 := 0
  gran0 : BitVec 10 := 0
  termS : BitVec 16 := 0
  asked : Option LeaseMsg := none
  bslot : Fin 16 := 0
  termEnd : Option Nat := none
  deriving DecidableEq, Repr

/-- STATE of a borrow slot (Table 10.9). -/
inductive BorrowState where
  | idle | waiting | active | revoking
  deriving DecidableEq, Repr

/-- A borrow slot (Table 10.9). `key` is the lease key, `graceEnd` the end of the grace, `left` that it has ended, `carried` that this
device goes on with the lease of a device whose coordinate it has taken over (R231). -/
structure Borrow where
  en : Bool := false
  state : BorrowState := .idle
  lender : Coord := 0
  lslot : Fin 16 := 0
  ngran : BitVec 5 := 0
  part : PartI := 0
  graceMs : BitVec 10 := 100
  key : BitVec 256 := 0
  graceEnd : Nat := 0
  left : Bool := false
  carried : Bool := false
  deriving DecidableEq, Repr

/-- The memory system beside its bytes. `poison` lists poisoned 64-byte pieces. -/
structure Mem where
  pt : Tbl Pte := []
  migs : List Mig := []
  poison : List Nat := []
  ptSel : Tbl (BitVec 20) := []
  lend : Tbl Lend := []
  borrow : Tbl Borrow := []
  leaseErr : BitVec 32 := 0
  deriving DecidableEq, Repr

/-! ### Errors (19) -/

/-- A report as the collector holds it: everything of its record but SEQ, LOST and CRC (Table 19.3). -/
structure ErrRec where
  code : BitVec 16
  cls : Fin 5
  coalesced : Bool
  part : Option PartI
  ctx : Option CtxI
  ftime : BitVec 64
  count : Nat
  srcUnit : BitVec 7
  srcInst : BitVec 9
  cmdPos : BitVec 32
  listPos : BitVec 32
  detail : List (BitVec 32)
  deriving DecidableEq, Repr

/-- A coalescing entry (R424): the key's record with the last DETAIL, the count of later occurrences, the Fabric Time
of the first one counted and the time at which the entry closes. -/
structure Coal where
  record : ErrRec
  count : Nat
  firstCounted : BitVec 64
  endsAt : Nat
  deriving DecidableEq, Repr

/-- One error ring and its collector (R421-R426). -/
structure ErrRing where
  base : BitVec 64 := 0
  log2 : BitVec 5 := 6
  en : Bool := false
  line : BitVec 64 := 0
  enabled : Bool := false
  bad : Bool := false
  tail : BitVec 32 := 0
  head : BitVec 32 := 0
  seq : BitVec 32 := 0
  lost : Nat := 0
  lostCorr : BitVec 32 := 0
  lostDef : BitVec 32 := 0
  secondary : BitVec 32 := 0
  hold : List ErrRec := []
  coal : List Coal := []
  deriving DecidableEq, Repr

/-- The ERR block. -/
structure Err where
  rings : Tbl ErrRing := []
  coalUs : BitVec 16 := 1000
  risk : BitVec 32 := 0
  riskTh : BitVec 32 := 1000
  riskArmed : Bool := true
  minute : Nat := 0
  fatalCode : BitVec 16 := 0
  fatalTime : BitVec 64 := 0
  deriving DecidableEq, Repr

/-! ### Fabric Time (16) -/

/-- The states of the Fabric Time unit (R377). -/
inductive FtState where
  | free | acquire | locked | holdover | master
  deriving DecidableEq, Repr

/-- An exchange in progress at a child (R265): SEQ and the stamps T1 to T3. -/
structure FtSync where
  seq : BitVec 16
  t1 : BitVec 64
  t2 : BitVec 64
  t3 : BitVec 64
  deriving DecidableEq, Repr

/-- The Fabric Time unit (R377-R379). `frac` is the part of a nanosecond that `count` has not shown, in 2^-16 × 10^-9 ns;
`f` and `r` are in 2^-16 ppb, `e` and `delays` (the last 64 exchanges, newest first) in 2^-16 ns. `locked` is set once
LOCKED has been reached, `farSince` while |e| stays above 1 µs in LOCKED. -/
structure Ft where
  count : BitVec 64 := 0
  frac : Nat := 0
  state : FtState := .free
  f : Int := 0
  r : Int := 0
  e : Int := 0
  delays : List Int := []
  good : Nat := 0
  lastAccept : Nat := 0
  locked : Bool := false
  farSince : Option Nat := none
  plane : XDie := 0
  port : BitVec 6 := 63
  reject : BitVec 16 := 0
  ppsCap : BitVec 64 := 0
  set : Option (BitVec 64) := none
  seq : BitVec 16 := 0
  sync : Option FtSync := none
  deriving DecidableEq, Repr

/-! ### Meter Room (16) -/

/-- What the open record has of one partition (Table 16.7). -/
structure PartAcc where
  cc : Nat := 0
  energy : Int := 0
  quadMs : Nat := 0
  cgran : Nat := 0
  hgran : Nat := 0
  lgran : Nat := 0
  deriving DecidableEq, Repr

/-- The open record: its start, FRAMES_MISSING, CHECKFAIL, the bits already reported, EUNVER, and its quantities. -/
structure MAcc where
  start : Int := 0
  missing : Nat := 0
  check : BitVec 7 := 0
  reported : BitVec 7 := 0
  eunver : Bool := false
  eDies : Nat := 0
  eBoard : Nat := 0
  eUnattr : Int := 0
  idle : Nat := 0
  maint : Nat := 0
  elapsed : Nat := 0
  parts : Tbl PartAcc := []
  deriving DecidableEq, Repr

/-- A meter lane: SEQ of the last whole frame and of the last accepted one, and whether a frame came in this window. -/
structure MLane where
  prev : Option (BitVec 32) := none
  last : Option (BitVec 32) := none
  seen : Bool := false
  deriving DecidableEq, Repr

/-- An accepted frame of the present window: its lane and bytes, and whether it still counts in the open record. -/
structure MFrame where
  lane : Fin 6
  data : Bytes
  counts : Bool
  deriving DecidableEq, Repr

/-- The Meter Room (R362-R376). `calOff` is the calendar's UTC in µs less the model's time in µs, `slew` the difference still
to be removed since `slewAt`; `boundFrom` the UTC after which the next boundary is looked for; `heldOpen` and `heldLoss`
are the events held in the backup domain; `recs` the records not
acknowledged by RSEQ, `newest` the newest RSEQ, `overdue` that a record could not close; `alerts` the CHECK and EVENT
records not yet read; `latest` the newest accepted exchange-die frames by lane; `rep` the last report's count and
cumulative energy, `winBase` the cumulative energy at the window's start. -/
structure Md where
  powered : Bool := true
  calOff : Int := 0
  slew : Int := 0
  slewAt : Nat := 0
  leapDay : Option Nat := none
  timeInvalid : Bool := false
  freeRun : Bool := false
  epoch : Option Nat := none
  epochOk : Bool := false
  recInt : Nat := 60
  boundFrom : Int := 0
  evcnt : BitVec 32 := 0
  sealOpen : Bool := false
  openings : Nat := 0
  heldOpen : Nat := 0
  heldLoss : Bool := false
  newest : BitVec 64 := 0
  recs : List (BitVec 64 × Bytes) := []
  overdue : Bool := false
  alerts : List (BitVec 64) := []
  alertFull : Bool := false
  acc : MAcc := {}
  lanes : Tbl MLane := []
  frames : List MFrame := []
  latest : Tbl Bytes := []
  ftlock : Bool := false
  winBits : BitVec 7 := 0
  rep : Option (BitVec 32 × BitVec 64) := none
  winBase : Option (BitVec 64) := none
  winRep : Bool := false
  winVoid : Bool := false
  deriving DecidableEq, Repr

/-- The Meter Room mirror on XD0 (R381): the last 64 records, newest first, and MTR_SEL. -/
structure Mtr where
  recs : List Bytes := []
  sel : BitVec 6 := 0
  deriving DecidableEq, Repr

/-! ### Power and thermal (18) -/

/-- A quad's loops (R404-R413): TC, DROOP_OFF in mV, AGE in mV and whether it has been measured, trips of the window,
windows in a row without one, PWR_QUAD_DROOP; and its self-test: pending, asked for by PWR_ST_CMD, slices done, when it
began, when its last slice ended, and whether a slice runs. -/
structure QuadPwr where
  tc : BitVec 7 := 64
  droopOff : Int := 50
  age : Nat := 30
  aged : Bool := false
  trips : Nat := 0
  quiet : Nat := 0
  droopCnt : BitVec 32 := 0
  stPend : Bool := false
  stForced : Bool := false
  stDone : Nat := 0
  stStart : Option Nat := none
  stEnd : Option Nat := none
  slice : Bool := false
  stopReq : Option Nat := none
  deriving DecidableEq, Repr

/-- A thermal sensor (PWR_TEMP_VIEW): signed sixteenths of a degree. -/
structure Sens where
  temp : BitVec 16 := 0
  throttle : Bool := false
  alert : Bool := false
  deriving DecidableEq, Repr

/-- The Weir, the loops and the self-test (R400-R415). `samples` are the last 1,000, newest first; `belowSince` is when p10
came below the limit; `refresh` the code of each stack and `mr4` the rate of each package; `resetAt` when the device left
reset; `trip` that THERMTRIP_N is driven low. -/
structure Pwr where
  b1 : Nat := 3000000
  b2 : Nat := 500000000
  h1 : Bool := true
  h2 : Bool := true
  fc : BitVec 7 := 32
  duty : BitVec 2 := 0
  cap : BitVec 12 := 2400
  samples : List (BitVec 16) := []
  weirCnt : BitVec 32 := 0
  brakeCnt : BitVec 32 := 0
  peak : BitVec 16 := 0
  brakeInt : Bool := false
  brakePin : Bool := false
  belowSince : Option Nat := none
  quadSel : BitVec 5 := 0
  tempSel : BitVec 6 := 0
  quads : Tbl QuadPwr := []
  sensors : Tbl Sens := []
  refresh : Tbl (BitVec 2) := []
  mr4 : Tbl (BitVec 8) := []
  periodH : BitVec 8 := 24
  stFail : BitVec 32 := 0
  resetAt : Nat := 0
  trip : Bool := false
  deriving DecidableEq, Repr

/-! ### Security and boot (17) -/

/-- A payload key slot (R393). -/
structure KeySlot where
  valid : Bool := false
  part : PartI := 0
  key : BitVec 256 := 0
  deriving DecidableEq, Repr

/-- The security block. `stage` is SEC_BOOT_STAT's STAGE, `coord` the coordinate of the manifest (R6), `keysMade` that IK and
TK have been derived; the others are the registers of Table 17.8, the manifest's values (Table 17.3), the image's (Table
17.4) and CD_REMAP by die (R412). -/
structure Sec where
  stage : BitVec 4 := 0
  coord : Coord := 0
  kfpMinor : BitVec 4 := 0
  bootDesc : BitVec 64 := 0
  bootPort : RlPort := 0
  source : Bool := false
  bport : BitVec 3 := 0
  ecode : BitVec 16 := 0
  keysMade : Bool := false
  fwver : BitVec 32 := 0
  mseq : BitVec 32 := 0
  detrev : BitVec 8 := 0
  tmaster : Coord := 0
  preset : BitVec 12 := 0
  porten : BitVec 36 := 0
  kfp2 : BitVec 36 := 0
  lprate : BitVec 2 := 0
  manHash : Bytes := []
  imgHash : Bytes := []
  nonce : BitVec 256 := 0
  attAddr : BitVec 64 := 0
  attDone : Bool := false
  attFail : Bool := false
  keySel : Fin 128 := 0
  keyAddr : BitVec 64 := 0
  keyErr : BitVec 3 := 0
  keys : Tbl KeySlot := []
  remap : Tbl (BitVec 64) := []
  deriving DecidableEq, Repr

/-! ### Compute-die units (5, 7, 10, 18) -/

/-- The session parameters of OP_GATE with SGEN (R110). -/
structure GateParams where
  sgen : Nat
  tok0 : Nat
  m : Nat
  nexp : Nat
  topk : Nat
  ngroup : Nat
  topg : Nat
  gtop : Nat
  act : Nat
  norm : Bool
  biasNone : Bool
  watched : Bool
  rscale : Nat
  asg : Nat
  wgt : Nat
  deriving DecidableEq, Repr

/-- A candidate of a token state: selection key and activated score as FP32 patterns, and its expert (R106). -/
structure Cand where
  key : Nat
  score : Nat
  expert : Nat
  deriving DecidableEq, Repr

/-- An open gate session: parameters, covered chunks of 256 experts, and each token's candidates (R110). -/
structure GateSess where
  params : GateParams
  covered : List Nat
  toks : List (List Cand)
  deriving DecidableEq, Repr

/-- A session opening that waits for token states (R112), with the context's resident time at which it began to wait. -/
structure GateWait where
  core : CoreI
  entry : Entry
  since : Nat
  deriving DecidableEq, Repr

/-- The units and counters of a compute die. Sessions and last closed SGENs by 16 × context key + SESS;
`withdrawn` holds the openings of contexts that are not resident. -/
structure Die where
  sessions : Tbl (Option GateSess) := []
  closed : Tbl (Option Nat) := []
  waiting : List GateWait := []
  withdrawn : List GateWait := []
  nanKey : BitVec 32 := 0
  npuMissn : BitVec 32 := 0
  memCe : BitVec 32 := 0
  memUe : BitVec 32 := 0
  scrubCellar : BitVec 10 := 0
  scrubHbm : BitVec 10 := 0
  npuExam : BitVec 32 := 0
  deriving DecidableEq, Repr

/-! ### Exchange dies (5, 6, 8, 10-12) -/

/-- How a cell chain is freed (R158): by a reference count, or by the one unit it names. -/
inductive ChainMode where
  | refs (n : Nat)
  | owner (unit : Nat)
  deriving DecidableEq, Repr

/-- Cells in a row: `n` cells from cell `first` of a space (Table 6.10): 0 the on-die pool, 1 to 8 a Spillway. -/
structure CellRun where
  space : Nat
  first : Nat
  n : Nat
  deriving DecidableEq, Repr

/-- A live cell chain (R158): its head and tail pointers, its cell count, its partition and context, and its release mode. The
cells between are the link words'. -/
structure Chain where
  head : BitVec 32
  tail : BitVec 32
  count : Nat
  cid : CtxId
  mode : ChainMode
  deriving DecidableEq, Repr

/-- Names an inbound stream: context, kind (Table 6.1), XID, plane and the rank that sends it. -/
structure InKey where
  cid : CtxId
  kind : Fin 4
  xid : BitVec 16
  plane : XDie
  src : Nat
  deriving DecidableEq, Repr

/-- Names an outbound stream: `idx` tells the WEIGHTS streams of one rank and plane apart by expert. -/
structure OutKey where
  cid : CtxId
  kind : Fin 4
  xid : BitVec 16
  plane : XDie
  dst : Nat
  idx : Nat
  deriving DecidableEq, Repr

/-- A shared line that a die's cache holds: its home, its line number and its 128 bytes (R281). -/
structure CLine where
  home : Coord
  line : Nat
  data : Bytes
  deriving DecidableEq, Repr

/-- A chunk whose grant was refused for want of cells: its collective, chunk, pass, sender and cells (R181). -/
structure ChunkAsk where
  cid : CtxId
  id : BitVec 16
  chunk : Nat
  pass : Nat
  peer : Nat
  cells : Nat
  deriving DecidableEq, Repr

/-- Registers and pools of one exchange die. `used` and `spUsed` count cells by partition, `cells` and `spCells` are the cells in
use of the pool and of each Spillway as intervals, `links` is the link RAM (R158); `chunkAsks` holds the chunks whose grant was
refused; `asks` holds the streams that ask for credit, in order. -/
structure XdSt where
  placeBand : Nat := 0
  placeQuiet : Nat := 0
  placeFlips : Nat := 0
  placeDecided : Nat := 0
  placeWc : Nat := 0
  dsLast : Nat := 0
  bpmRes : Tbl (BitVec 20) := []
  bpmSpill : Tbl (BitVec 64) := []
  bpmCfgErr : BitVec 8 := 0
  xchBp : BitVec 32 := 0
  used : Tbl Nat := []
  spUsed : Tbl Nat := []
  cells : List (Nat × Nat) := []
  spCells : Tbl (List (Nat × Nat)) := []
  links : Tbl (BitVec 32) := []
  chains : List Chain := []
  asks : List InKey := []
  chunkAsks : List ChunkAsk := []
  colResCorr : BitVec 32 := 0
  colCrcRetry : BitVec 32 := 0
  colWait : BitVec 32 := 0
  memSpill : BitVec 32 := 0
  lpRetry : BitVec 16 := 0
  lpUncorr : BitVec 16 := 0
  msfBusy : BitVec 32 := 0
  msfBackinv : BitVec 32 := 0
  msfGw : BitVec 32 := 0
  cache : List CLine := []
  fabStale : BitVec 32 := 0
  circErr : BitVec 8 := 0
  deriving DecidableEq, Repr

/-! ### Exchange commands, streams and combines (6) -/

/-- The parameter block of OP_EXCHANGE (Table 6.6). -/
structure XPar where
  sl0 : Nat := 0
  sl1 : Nat := 0
  wcl : Nat := 0
  src : Nat := 0
  rin : Nat := 0
  rorg : Nat := 0
  rxc : Nat := 0
  rdy : Nat := 0
  wtab : Nat := 0
  win : Nat := 0
  wbytes : Nat := 0
  row64 : Nat := 0
  nlocal : Nat := 0
  rinRows : Nat := 0
  winSlots : Nat := 0
  deriving DecidableEq, Repr

/-- An OP_EXCHANGE or OP_A2A. -/
inductive XMode where
  | dispatch | ret | a2a
  deriving DecidableEq, Repr

/-- What the count phase has from one rank on one plane: NCNT of its XOPEN and the SEQs of its XCOUNTs (R137). -/
structure XRank where
  rank : Nat
  plane : XDie
  ncnt : Nat
  seqs : List Nat
  deriving DecidableEq, Repr

/-- An accumulated count c[i][r][x] (R137). -/
structure XCnt where
  item : Nat
  rank : Nat
  plane : XDie
  n : Nat
  deriving DecidableEq, Repr

/-- An OP_EXCHANGE or OP_A2A in flight (R135-R151, R162). `wcl` is the weights-come list as (expert, rows of token and
rank), `wcs` the (local expert, requester rank) pairs, `ready` the items whose ready word is written, `wdone` the places
of the weights-come list whose weights have landed checked. `sink`: the command has stopped and its streams are
discarded and acknowledged. `ghost`: it has completed and only sends again what it owes (R350). -/
structure XCmd where
  cid : CtxId
  core : CoreI
  entry : Entry
  mode : XMode
  xid : BitVec 16
  ndev : Nat
  self : Nat
  par : XPar
  stbl : Nat
  rtbl : Nat
  since : Nat
  wcl : List (Nat × List (Nat × Nat))
  ranks : List XRank
  counts : List XCnt
  wcs : List (Nat × Nat)
  counted : Bool
  ready : List Nat
  wdone : List Nat
  sink : Bool
  ghost : Bool
  deriving DecidableEq, Repr

/-- The messages of the exchange (Table 6.3) and its data packets. -/
inductive XMsg where
  | opening (ncnt nent dbytes row64 wbytes : Nat)
  | ready (cells : Nat)
  | wait
  | count (seq : Nat) (entries : List (BitVec 32))
  | ask
  | credit (cells : Nat)
  | endMark (dbytes : Nat) (crc : BitVec 32)
  | ack
  | resend (offset bytes : Nat)
  | data (offset : Nat) (bytes : Bytes)
  deriving DecidableEq, Repr

/-- An inbound stream (R138-R148). `hdr` is the common part of its XOPEN, `recb` the length of one record (0 where the
stream has none), `first` the grant that its XREADY carried, `buf` its bytes by offset, `landed` the byte intervals that have arrived, `granted` and `freed`
its cells so far (into chains too), `gone` those whose bytes are at their place, `cells` those it holds, `recs` the records placed, `heads` the chains of records that have landed and
wait for their place, `arrived` the RETURN records that have reached their slots, `chunks` the WEIGHTS chunks placed and
checked, `tried` the ranges that have failed once, `ended` the CRC of its XEND. -/
structure InStream where
  key : InKey
  hdr : XHdr
  dbytes : Nat
  recb : Nat
  first : Nat
  granted : Nat
  freed : Nat
  gone : Nat := 0
  cells : List CellRun
  buf : Memory
  landed : List (Nat × Nat)
  recs : Nat
  heads : List (Nat × BitVec 32)
  arrived : List Nat
  chunks : List Nat
  tried : List (Nat × Nat)
  ended : Option (BitVec 32)
  checked : Bool
  done : Bool
  discard : Bool
  deriving DecidableEq, Repr

/-- What an outbound stream stands at. -/
inductive OutState where
  | waitOpen
  | opened
  | waitRetry (at_ : Nat)
  | waitAsk
  | sending
  | ended
  deriving DecidableEq, Repr

/-- An outbound stream. `data` is what may be sent so far; `entry` says that it holds an open-destination entry. -/
structure OutStream where
  key : OutKey
  self : Nat
  counts : List (BitVec 32)
  nent : Nat
  dbytes : Nat
  row64 : Nat
  wbytes : Nat
  data : Bytes
  st : OutState
  entry : Bool
  counted : Bool
  credit : Nat
  sent : Nat
  deriving DecidableEq, Repr

/-- An OP_COMBINE in flight (R152-R155). -/
structure Cmb where
  cid : CtxId
  core : CoreI
  entry : Entry
  xid : BitVec 16
  lnd : Nat
  lndx : Nat
  lsplit : Nat
  lst : Nat
  wgt : Nat
  outAddr : Nat
  res : Nat
  tok0 : Nat
  ntok : Nat
  tokens : Nat
  topk : Nat
  row64 : Nat
  o64 : Nat
  cols : Nat
  rowFmt : Nat
  resFmt : Nat
  outFmt : Nat
  cvt : Nat
  watched : Bool
  resid : Bool
  rng : Rng
  since : Nat
  deriving DecidableEq, Repr

/-! ### Collectives (8) -/

/-- What runs as a collective: the four commands, AGREE (R43) and a mark's agreement (R338). -/
inductive CollKind where
  | reduce | allreduce | bcast | allgather | agree | mark
  deriving DecidableEq, Repr

/-- What a sending edge stands at (R182); `idle` is an edge that this command does not send on. -/
inductive EdgeSt where
  | idle
  | asked
  | opened
  | waitRetry (at_ : Nat)
  deriving DecidableEq, Repr

/-- An edge of a tree at this device (R177): its tree, the rank at its other end, whether that is the parent, and its level. -/
structure CollEdge where
  tree : Fin 2
  peer : Nat
  up : Bool
  level : Nat
  st : EdgeSt
  deriving DecidableEq, Repr

/-- A chunk part that arrives (R180-R183): its cells once granted, its bytes, its CEND, whether it has been checked,
whether it has failed once, and whether its cells have been freed. -/
structure CollIn where
  chunk : Nat
  pass : Nat
  peer : Nat
  cells : List CellRun
  buf : Memory
  landed : List (Nat × Nat)
  fin : Option CEndMsg
  ok : Bool
  failed : Bool
  deriving DecidableEq, Repr

/-- A chunk part that this device sends and holds until its CACK (R181); `chain` is the head of the cells that hold a partial sum. -/
structure CollOut where
  chunk : Nat
  pass : Nat
  peer : Nat
  msg : CEndMsg
  data : Bytes
  sent : Bool
  acked : Bool
  chain : Option (BitVec 32) := none
  deriving DecidableEq, Repr

/-- A collective in flight (R192-R196). `src` is this rank's contribution as issue finds it, `edges` the edges of both
trees and an edge from the top to ROOT (level 4), `coords` the coordinates by rank, `feeds` by tree the ranks whose parts come up to this one, `tops` the
trees' tops, `depth` the edges to them, `event` a watch event of a BF16 partial,
`done` a command that has completed whose chunks are not all acknowledged. -/
structure Coll where
  cid : CtxId
  core : CoreI
  entry : Entry
  kind : CollKind
  id : BitVec 16
  len : Nat
  ifmt : Nat
  ofmt : Nat
  cvt : Nat
  watched : Bool
  rngIdx : Nat
  rng : Rng
  opr : Nat
  ndev : Nat
  self : Nat
  root : Nat
  empty : Bool
  lossy : Nat
  src : Bytes
  dst : Nat
  res : Nat
  pdig : BitVec 32
  gdig : BitVec 32
  since : Nat
  edges : List CollEdge
  coords : List Nat := []
  feeds : List (List Nat)
  tops : List Nat
  depth : List Nat
  ins : List CollIn
  outs : List CollOut
  written : List Nat
  rescorr : Nat
  crcretry : Nat
  event : Bool
  done : Bool
  deriving DecidableEq, Repr

/-- The messages of a collective (Table 8.2) and its data packets. -/
inductive CMsg where
  | opening (pdig gdig : BitVec 32)
  | ready
  | wait
  | endMark (m : CEndMsg)
  | ack (chunk pass : Nat)
  | resend (chunk pass : Nat)
  | abort (origin reason : Nat)
  | data (chunk pass offset : Nat) (bytes : Bytes)
  deriving DecidableEq, Repr

/-! ### Tag bindings (11) -/

/-- A tag binding (Table 11.9). -/
structure TagBind where
  en : Bool := false
  enc : Bool := false
  tepoch : BitVec 4 := 0
  jtag : BitVec 16 := 0
  part : PartI := 0
  ctx : CtxI := 0
  keySlot : Fin 128 := 0
  deriving DecidableEq, Repr

/-- The tag bindings, XD_TAG_SEL, XD_TAG_ERR, the retired-epoch table (15 after reset), the times of retirement, and the
pairs recorded for each key slot (R260, R263). `pctr` is PCTR by binding and exchange die. -/
structure Tags where
  binds : Tbl TagBind := []
  sel : BitVec 7 := 0
  err : Bool := false
  retired : Tbl (BitVec 4) := []
  retiredAt : Tbl (Option Nat) := []
  pairs : Tbl (List (BitVec 16 × BitVec 4)) := []
  pctr : Tbl (BitVec 64) := []
  deriving DecidableEq, Repr

/-! ### Fabric ports and packets (11) -/

/-- The states of a port (Table 11.2). -/
inductive PortState where
  | disabled | detect | train | align | negotiate | active | retrain
  deriving DecidableEq, Repr

/-- A lane's equalisation (R241): CTLE, the three transmit taps, the last window's count, the windows in a row above the
threshold, the tap to visit next, and the step that is being tried (the tap, and whether it went up). -/
structure Lane where
  ctle : BitVec 4 := 8
  cm2 : BitVec 8 := 0
  cm1 : BitVec 8 := 0
  cp1 : BitVec 8 := 0
  count : BitVec 32 := 0
  above : Nat := 0
  tap : Fin 3 := 0
  trial : Option (Fin 3 × Bool) := none
  dfe : List (BitVec 8) := List.replicate 12 0
  deriving DecidableEq, Repr

/-- A block that has been sent and not acknowledged (R244): its SEQ, and the packets that have a slot in it. -/
structure Block where
  seq : BitVec 10
  pkts : List Packet
  deriving DecidableEq, Repr

/-- A fabric port: XD_FP_CTRL and XD_FP_STAT (Tables 11.10 and 11.11), its counters, and its link. `since` is when its
state began, `next` when its next attempt may come, `dead` the data lanes that have failed without a spare, `credits` by
2 × network + channel, `sig` the lanes that showed signal, `warm` that converged taps are held, `swapRx` and `swapTx` a lane
that LS takes over from a block SEQ on in either direction, `fill` the slots used in the newest block and `fillAt` when it
was begun. -/
structure FPortSt where
  en : Bool := false
  kfp2 : Bool := false
  preset : BitVec 3 := 0
  retrain : Bool := false
  swapTh : BitVec 8 := 64
  state : PortState := .disabled
  dead : BitVec 4 := 0
  spare : BitVec 3 := 4
  minor : BitVec 4 := 0
  fec : BitVec 32 := 0
  uncorr : BitVec 32 := 0
  retry : BitVec 32 := 0
  laneSel : BitVec 3 := 0
  lanes : Tbl Lane := []
  since : Nat := 0
  next : Nat := 0
  trained : Bool := false
  txSeq : BitVec 10 := 0
  unacked : List Block := []
  lastAck : Nat := 0
  failSeq : BitVec 10 := 0
  fails : Nat := 0
  rxSeq : BitVec 10 := 0
  nakAt : Option Nat := none
  credits : Tbl Nat := []
  sig : BitVec 5 := 0
  warm : Bool := false
  swapRx : Option (Fin 4 × BitVec 10) := none
  swapTx : Option (Fin 4 × BitVec 10) := none
  fill : Nat := 10
  fillAt : Nat := 0
  deriving DecidableEq, Repr

/-- A packet that waits in the device for its output: the port whose input buffer it lies in (none for one of the device's own
units, or one that is routed again), the port whose dimension it came along, and since when it waits. -/
structure BufPkt where
  fp : Option FPort
  via : Option FPort
  pkt : Packet
  since : Nat
  deriving DecidableEq, Repr

/-- XD_CIRC_c (Table 11.12). -/
structure Circ where
  en : Bool := false
  width : Bool := false
  inp : BitVec 5 := 0
  outp : BitVec 5 := 0
  endpt : BitVec 2 := 0
  deriving DecidableEq, Repr

/-- The fabric: ports, waiting packets, packets delivered to the units, refused packets to send again with the time for
it, circuits by 8 × die + entry, the acting coordinate, the incarnation of each coordinate, and the failing checks in a
row of each die-to-die link with the flit that it is to replay. `delivered` are the packets that wait for their unit, oldest
first, `circIn` what circuits have brought to their endpoints: exchange die, entry, whether the codeword was good, and its bytes;
`raised` the coordinates whose incarnation a packet has raised, until the device has served the new one (R350). -/
structure Fab where
  ports : Tbl FPortSt := []
  bufs : List BufPkt := []
  delivered : List Packet := []
  naks : List (Packet × Nat) := []
  circs : Tbl Circ := []
  acting : Option Coord := none
  inc : Tbl (BitVec 8) := []
  d2dFails : Tbl Nat := []
  d2dHeld : Tbl Bytes := []
  circIn : List (XDie × Fin 8 × Bool × Bytes) := []
  raised : List Coord := []
  deriving DecidableEq, Repr

/-! ### Loads, stores and atomics across the fabric (12) -/

/-- The ordering key of a request (R275). -/
structure OrdKey where
  src : Coord
  jtag : BitVec 16
  cpn : Bool
  port : Fin 2
  q : Fin 4
  deriving DecidableEq, Repr

/-- An order entry (R277): its key, the die that holds it, its context, the highest SEQ applied, the last answers (newest
first), the request in service, early arrivals, the SIDs of bulk transfers whose CRC has checked, has failed once, and
has failed twice, and the time of its last request. -/
structure OrdEnt where
  key : OrdKey
  die : XDie
  cid : CtxId
  high : Option (BitVec 14)
  rsps : List RspMsg
  cur : Option ReqMsg
  held : List ReqMsg
  good : List (BitVec 16)
  once : List (BitVec 16)
  bad : List (BitVec 16)
  lastAt : Nat
  deriving DecidableEq, Repr

/-- The state of a directory entry (Table 12.5); U has no entry. -/
inductive DirState where
  | shared (v : BitVec 7)
  | modified (o : Holder)
  deriving DecidableEq, Repr

/-- A directory entry: its line, its state, the holders whose INVACK is awaited, and a RECALL in progress with its
KEEP. The list of entries stands in order of use, the least recent first. -/
structure DirEnt where
  line : Nat
  st : DirState
  acks : BitVec 7
  recalling : Option Bool
  deriving DecidableEq, Repr

/-- A request of a fabric queue that has not been answered: its SID and destination, the ring positions that it completes,
the request as sent, LADDR, the context's resident time at its start, when it is sent again after BUSY, and for a bulk
read what has come and whether its CRC has failed once. `stale` forbids keeping a copy of its line. -/
structure FReq where
  sid : BitVec 16
  dst : Coord
  recs : List (BitVec 32)
  req : ReqMsg
  laddr : Nat
  since : Nat
  retry : Option Nat
  rsp : Option RspMsg
  bend : Option (BitVec 40 × BitVec 32)
  failed : Bool
  stale : Bool
  deriving DecidableEq, Repr

/-- Line WRITEs that the gateway gathers (R283): destination, first address, each line's mask and bytes, their ring
positions, the time of the last. -/
structure GwRun where
  dst : Coord
  addr : Nat
  lines : List (BitVec 128 × Bytes)
  recs : List (BitVec 32)
  lastAt : Nat
  deriving DecidableEq, Repr

/-- A fabric queue (R271): TAIL as last read, the next record to start, HEAD, the records done ahead of it, and TAIL at the
capture of the restart mark (R341), and the requests of the epoch (R350). -/
structure FQueue where
  tail : BitVec 32 := 0
  next : BitVec 32 := 0
  head : BitVec 32 := 0
  done : List (BitVec 32) := []
  reqs : List FReq := []
  run : Option GwRun := none
  stopped : Bool := false
  markTail : Option (BitVec 32) := none
  sent : List FReq := []
  deriving DecidableEq, Repr

/-- A companion's request that has not been answered (R284). `group` is the SID of the first of the bulk transfers into which the
gateway has split it (R283), its own otherwise. -/
structure CpnReq where
  port : RlPort
  sid : BitVec 16
  dst : Coord
  req : ReqMsg
  retry : Option Nat
  group : BitVec 16
  deriving DecidableEq, Repr

/-- The messages of the agents and gateways (Table 12.4). -/
inductive MsfMsg where
  | req (m : ReqMsg)
  | rsp (m : RspMsg)
  | busy (jtag sid : BitVec 16)
  | inv (addr : Nat)
  | invack (addr : Nat)
  | recallLine (home : Coord) (keep : Bool) (addr : Nat)
  | recallack (addr : Nat) (data : Option Bytes)
  | puts (addr : Nat)
  | putm (addr : Nat) (data : Bytes)
  | bend (jtag sid : BitVec 16) (bytes : Nat) (crc : BitVec 32)
  | bresend (jtag sid : BitVec 16)
  deriving DecidableEq, Repr

/-- The agents: order entries, directory, fabric queues by 4 × context key + queue, the next SEQ of each requester and
destination, companions' requests, the requests that wait for a line, in order of arrival, and the highest SEQ applied of keys
whose order entry has been freed. `coh` is the model's own mark that the accesses of a command at issue must find no
line modified elsewhere, `wait` that one did, with the KEEP of its recall. -/
structure Msf where
  order : List OrdEnt := []
  dir : List DirEnt := []
  queues : Tbl FQueue := []
  seqs : Tbl (BitVec 14) := []
  cpn : List CpnReq := []
  waiting : List OrdKey := []
  highs : Tbl (BitVec 14) := []
  coh : Bool := false
  wait : Option Bool := none
  deriving DecidableEq, Repr

/-! ### Resilience (15) -/

/-- An entry of a protection table (Table 15.1). -/
structure ProtEntry where
  first : BitVec 20
  npage : BitVec 20
  cls : BitVec 2
  deriving DecidableEq, Repr

/-- STATE of XD_RES_PCFG_p (Table 15.12). -/
inductive RState where
  | off | seeding | prot | exposed
  deriving DecidableEq, Repr

/-- A 64 KiB piece of a PARITY page written since the restart mark (R343-R346). `piece` is 32 × page index + its place
in the page; `pre` its bytes at the restart mark, `none` for a RESYNC piece, of which a copy stands in a 64 KiB `slot` of the
pre-image pool; `base` the content the protector already has; `dirty` whether it has been written since then. -/
structure DirtyPiece where
  piece : Nat
  pre : Option Bytes
  base : Option Bytes
  dirty : Bool
  slot : Nat := 0
  deriving DecidableEq, Repr

/-- A shadow of a parity piece on the protector (R344): the piece, the 64 KiB frame that holds it, counted over the partition's
pages outside its PARITY ranges, and whether it is formed afresh from pieces sent whole (R345). -/
structure Shadow where
  piece : Nat
  frame : Nat
  whole : Bool
  deriving DecidableEq, Repr

/-- The protection of one partition (Tables 15.10 and 15.12). `table` is the protection table as the enable read it,
`seeded` whether seeding has ended, `old` the pieces of the mark in progress, `shadow` the protector's shadow pieces. -/
structure ResPart where
  en : Bool := false
  state : RState := .off
  ptab : BitVec 44 := 0
  poolBase : BitVec 44 := 0
  poolSize : BitVec 20 := 0
  table : List ProtEntry := []
  seeded : Bool := false
  epoch : BitVec 32 := 0
  retainLost : Bool := false
  dirty : List DirtyPiece := []
  old : List DirtyPiece := []
  shadow : List Shadow := []
  deriving DecidableEq, Repr

/-- An entry of XD_RES_OVR: packets to the logical coordinate go to the physical one (R357). -/
structure Override where
  logical : Coord := 0
  physical : Coord := 0
  en : Bool := false
  deriving DecidableEq, Repr

/-- The protector's copies of one active's small state for one partition (R347, R348): LIVE, LIVE as it stood when the last
mark record came, and MARK. Each is bytes by the address of a MIRROR_WRITE. -/
structure Mirror where
  live : Memory := []
  pend : Memory := []
  mark : Memory := []
  deriving DecidableEq, Repr

/-- XD_RES_PLAN (Table 17.8). `left` holds the contexts (by key) whose next mark is still awaited, `none` when nothing is. -/
structure UpdPlan where
  cmd : BitVec 2 := 0
  slot : BitVec 3 := 0
  done : Bool := false
  err : Bool := false
  left : Option (List Nat) := none
  deriving DecidableEq, Repr

/-- The resilience block (Tables 15.10 and 15.11). `mirrors` are by 8 × tray slot + partition, `unrebuilt` the PARITY pieces
still to rebuild (by 2^26 × partition + piece), on a survivor those that the Standby has not reported rebuilt (R356); `demand` those
that an access waits for, `peerCert` the protector's identity certificate once it has been checked (R394). -/
structure Res where
  mode : BitVec 2 := 0
  role : BitVec 2 := 0
  protector : Coord := 0
  tstate : BitVec 3 := 0
  parts : Tbl ResPart := []
  heard : BitVec 5 := 0
  mirrors : Tbl Mirror := []
  unrebuilt : List Nat := []
  demand : List Nat := []
  ovrSel : Fin 64 := 0
  ovr : Tbl Override := []
  plan : UpdPlan := {}
  peerCert : Bytes := []
  deriving DecidableEq, Repr

/-! ### What the device has sent -/

/-- A message or pin event that the device has sent. -/
inductive Sent where
  /-- DOWN to the tray (R351). -/
  | down
  /-- A write of a MIRROR page, or of other mirrored state, to the protector's LIVE copy (R347, R348). -/
  | mirrorWrite (part : PartI) (addr : Nat) (data : Bytes)
  /-- A packet sent on a port, a block with its SEQ and ACK, and the link-local messages (R238, R242-R244, R252). -/
  | packet (fp : FPort) (pkt : Packet)
  | block (fp : FPort) (seq ack : BitVec 10)
  | linkCredit (fp : FPort) (net vc : Fin 2) (slots : Nat)
  | linkNak (fp : FPort) (seq : BitVec 10)
  | linkResend (fp : FPort) (seq : BitVec 10) (blocks : Nat)
  | linkSwap (fp : FPort) (lane : Nat) (seq : BitVec 10)
  | linkNegotiate (fp : FPort) (minor : BitVec 4) (coord : Coord) (lanes : BitVec 5) (kfp2 : Bool)
  /-- A codeword of a circuit that goes on over a port (R259). -/
  | circuit (fp : FPort) (good : Bool) (data : Bytes)
  /-- A message of an agent or gateway to a companion over its Ryutil port. -/
  | companion (port : RlPort) (m : MsfMsg)
  /-- A parity piece or its delta, to the protector (R337, R343). -/
  | parity (part : PartI) (piece : Nat) (whole : Bool) (delta : Bytes)
  /-- TAKEOVER (R352); `holder` is the coordinate's new holder. -/
  | takeover (dst : Coord) (failed : Coord) (inc : BitVec 8) (holder : Coord)
  /-- A PARITY piece is to go whole from every active at the next mark, to another active (R345). -/
  | resync (dst : Coord) (part : PartI) (piece : Nat)
  /-- A survivor is about to overwrite a piece that the Standby has not rebuilt (R356). -/
  | aboutToWrite (part : PartI) (piece : Nat)
  /-- A page of OP_SNAPSHOT COPY, to another device (R358). -/
  | snapshot (dst : Coord) (addr : Nat) (data : Bytes)
  /-- A page, or a dirty piece, of a coordinate that is handed back (R396). -/
  | handback (dst : Coord) (addr : Nat) (data : Bytes)
  /-- The value that a read of a register returned: to a port, or to device firmware (R433, R438). -/
  | regValue (port : RlPort) (value : BitVec 64)
  | fwValue (value : BitVec 64)
  /-- An access of device firmware to another device's window (R438). -/
  | space4 (dst : Coord) (offset : BitVec 26) (wide write : Bool) (value : BitVec 64)
  /-- A counter frame on a meter lane (R364), a record on the mirror lane, and an answer on the two-wire bus (R374). -/
  | meterFrame (lane : Fin 6) (data : Bytes)
  | meterRecord (data : Bytes)
  | meterReply (data : Bytes)
  /-- A lease request to the lender (R229). -/
  | leaseRequest (dst : Coord) (m : LeaseMsg)
  /-- The lender's answer. -/
  | leaseAnswer (dst : Coord) (bslot : Fin 16) (ok : Bool)
  /-- The lender tells the borrower that the lease ends. -/
  | leaseRevoke (dst : Coord) (bslot : Fin 16)
  /-- The borrower releases the lease. -/
  | leaseRelease (dst : Coord) (lslot : Fin 16)
  deriving DecidableEq, Repr

/-! ### The whole state -/

/-- A command whose accesses wait for lines of the tray directory and for pieces to be rebuilt (R281, R355). -/
structure Late where
  cmd : Instr
  lines : List Nat
  pieces : List Nat
  deriving DecidableEq, Repr

/-- The state of the device. `kept` holds the outbound streams of protected contexts since their restart marks (R349),
`frameSeq` the counter frames that each die has sent since its reset (R364), `tap` the boundary-scan instruction in effect
(R459). -/
structure State where
  pending : List Instr := []
  now : Nat := 0
  free : Nat := 0
  out : List Sent := []
  gl : Gl := {}
  parts : Tbl Part := []
  ctxs : Tbl Ctx := []
  seqs : Tbl Seq := []
  cores : Tbl Core := []
  ls : Memory := []
  uni : Memory := []
  comp : Memory := []
  mem : Mem := {}
  dies : Tbl Die := []
  xds : Tbl XdSt := []
  xcmds : List XCmd := []
  ins : List InStream := []
  outs : List OutStream := []
  kept : List OutStream := []
  cmbs : List Cmb := []
  colls : List Coll := []
  rl : Rl := {}
  ft : Ft := {}
  sec : Sec := {}
  tags : Tags := {}
  fab : Fab := {}
  msf : Msf := {}
  res : Res := {}
  err : Err := {}
  mtr : Mtr := {}
  md : Md := {}
  pwr : Pwr := {}
  frameSeq : Tbl Nat := []
  tap : TapInstr := .bypass
  late : List Late := []
  deriving DecidableEq, Repr

/-- Why the device's model stops: no meaning does. The device reports every error in a record and goes on (R417), so no
command ends a run; the one constructor has no raiser and is there because the interface asks for a type. -/
inductive Fault where
  /-- Raised by no meaning. Safe: it would only stop a run. -/
  | neverRaised
  deriving DecidableEq, Repr

/-- Why a command has no meaning in the model. -/
inductive Refusal where
  /-- Raised by exec's arms for a command that is not modelled yet. Safe: it stops where the device goes on. -/
  | notModelled (mnemonic : String)
  deriving DecidableEq, Repr

/-- The device right after reset: every field at the value INVENTORY.md gives for reset. -/
def State.reset : State := {}

end Sys2Proof.Machine
end

