-- ==== Sys2Proof/Machine/Ops.lean ====
section
/-! DEFINITION. Named operations over the state: access to its tables, the local stores, the companions' memories and
the unified range. -/

namespace Sys2Proof.Machine

/-! ### Tables of the state -/

/-- The key of a context: 16 × partition + context index. -/
def CtxId.key (c : CtxId) : Nat := 16 * c.part.val + c.ctx.val

/-- A partition. -/
def getPart (s : State) (p : PartI) : Part := Tbl.get {} s.parts p.val

/-- Replaces a partition. -/
def setPart (s : State) (p : PartI) (x : Part) : State := { s with parts := Tbl.set {} s.parts p.val x }

/-- A context. -/
def getCtx (s : State) (c : CtxId) : Ctx := Tbl.get {} s.ctxs (CtxId.key c)

/-- Replaces a context. -/
def setCtx (s : State) (c : CtxId) (x : Ctx) : State := { s with ctxs := Tbl.set {} s.ctxs (CtxId.key c) x }

/-- The key of a context's sequencer on a core. -/
def seqKey (c : CtxId) (core : Nat) : Nat := 128 * CtxId.key c + core

/-- A context's sequencer on a core (global index). -/
def getSeq (s : State) (c : CtxId) (core : Nat) : Seq := Tbl.get {} s.seqs (seqKey c core)

/-- Replaces a context's sequencer on a core. -/
def setSeq (s : State) (c : CtxId) (core : Nat) (x : Seq) : State :=
  { s with seqs := Tbl.set {} s.seqs (seqKey c core) x }

/-- A core's own registers. -/
def getCore (s : State) (core : Nat) : Core := Tbl.get {} s.cores core

/-- Replaces a core's own registers. -/
def setCore (s : State) (core : Nat) (x : Core) : State := { s with cores := Tbl.set {} s.cores core x }

/-- A granule's ownership. -/
def getGran (s : State) (g : Nat) : Gran := Tbl.get {} s.gl.grans g

/-- Replaces a granule's ownership. -/
def setGran (s : State) (g : Nat) (x : Gran) : State :=
  { s with gl := { s.gl with grans := Tbl.set {} s.gl.grans g x } }

/-- The protection of a partition. -/
def getRes (s : State) (p : PartI) : ResPart := Tbl.get {} s.res.parts p.val

/-- Replaces the protection of a partition. -/
def setRes (s : State) (p : PartI) (x : ResPart) : State :=
  { s with res := { s.res with parts := Tbl.set {} s.res.parts p.val x } }

/-- A page-table entry by page index (R215). -/
def getPte (s : State) (i : Nat) : Pte := Tbl.get {} s.mem.pt i

/-- A page-table entry's word (Table 10.2). -/
def pteBits (e : Pte) : Nat :=
  pack [(0, e.frame.toNat), (19, e.tier.val), (21, if e.tier = 3 then e.lease.val else 0), (25, e.part.val), (28, b2n e.owned),
    (29, b2n e.backed), (30, b2n e.moving), (31, b2n e.pin), (32, e.hint.toNat)]

/-- A page-table entry from its word. -/
def pteOf (v : Nat) : Pte :=
  { frame := BitVec.ofNat 19 v, tier := Fin.ofNat 4 (v / 2 ^ 19), lease := Fin.ofNat 16 (v / 2 ^ 21), part := Fin.ofNat 8 (v / 2 ^ 25)
    owned := bitAt v 28, backed := bitAt v 29, moving := bitAt v 30, pin := bitAt v 31, hint := BitVec.ofNat 3 (v / 2 ^ 32) }

/-- Where mirrored state other than MIRROR pages stands in the protector's copies (the model's own placing): kind and place. -/
def mirrorAt (kind place : Nat) : Nat := kind * 2 ^ 60 + place

/-- A change of a protected partition's mirrored state goes from an active to the protector (R347). -/
def mirror (s : State) (p : PartI) (a : Nat) (bs : Bytes) : State :=
  if (getRes s p).state = .off ∨ s.res.role ≠ 0 then s else { s with out := s.out ++ [.mirrorWrite p a bs] }

/-- Replaces a page-table entry; the partition's page table is mirrored. -/
def setPte (s : State) (i : Nat) (x : Pte) : State :=
  mirror { s with mem := { s.mem with pt := Tbl.set {} s.mem.pt i x } } x.part (mirrorAt 1 (8 * i)) (leBytes 8 (pteBits x))

/-- An error ring. -/
def getRing (s : State) (p : RlPort) : ErrRing := Tbl.get {} s.err.rings p.val

/-- Replaces an error ring. -/
def setRing (s : State) (p : RlPort) (x : ErrRing) : State :=
  { s with err := { s.err with rings := Tbl.set {} s.err.rings p.val x } }

/-- A Ryutil port. -/
def getRl (s : State) (p : RlPort) : RlPortSt := Tbl.get {} s.rl.ports p.val

/-- Replaces a Ryutil port. -/
def setRl (s : State) (p : RlPort) (x : RlPortSt) : State :=
  { s with rl := { s.rl with ports := Tbl.set {} s.rl.ports p.val x } }

/-- A compute die's units. -/
def getDie (s : State) (d : CDie) : Die := Tbl.get {} s.dies d.val

/-- Replaces a compute die's units. -/
def setDie (s : State) (d : CDie) (x : Die) : State := { s with dies := Tbl.set {} s.dies d.val x }

/-- An exchange die's registers and pools. -/
def getXd (s : State) (x : XDie) : XdSt := Tbl.get {} s.xds x.val

/-- Replaces an exchange die's registers and pools. -/
def setXd (s : State) (x : XDie) (y : XdSt) : State := { s with xds := Tbl.set {} s.xds x.val y }

/-- A payload key slot (R393). -/
def getKey (s : State) (k : Fin 128) : KeySlot := Tbl.get {} s.sec.keys k.val

/-- Replaces a payload key slot. -/
def setKey (s : State) (k : Fin 128) (x : KeySlot) : State := { s with sec := { s.sec with keys := Tbl.set {} s.sec.keys k.val x } }

/-- A quad's loops. -/
def getQuad (s : State) (q : Nat) : QuadPwr := Tbl.get {} s.pwr.quads q

/-- Replaces a quad's loops. -/
def setQuad (s : State) (q : Nat) (x : QuadPwr) : State := { s with pwr := { s.pwr with quads := Tbl.set {} s.pwr.quads q x } }

/-- The compute die of a core. -/
def dieOf (core : Nat) : CDie := Fin.ofNat 4 (core / 32)

/-- The Standby of the device's own tray: slot 4 (R336). -/
def trayStandby (s : State) : Coord := BitVec.ofNat 17 (s.sec.coord.toNat / 8 * 8 + 4)

/-- Appends to what the device has sent. -/
def send (s : State) (m : Sent) : State := { s with out := s.out ++ [m] }

/-- Takes a fresh number for a free value. -/
def takeFree (s : State) (n : Nat) : State := { s with free := s.free + n }

/-! ### When units run -/

/-- The units of the compute and exchange dies run: boot has reached stage 7, the device is not held in reset, and no
DEVICE_FATAL error has stopped it (R387, R440, Table 19.1). -/
def unitsRun (s : State) : Bool := s.sec.stage == 7 && !s.gl.inReset && !s.gl.stopped

/-- The port's link is up (Table 13.20). -/
def rlUp (s : State) (p : RlPort) : Bool := (getRl s p).state == 2

/-- The coordinate that the device serves: its acting coordinate, else its own. -/
def servedCoord (s : State) : Coord := s.fab.acting.getD s.sec.coord

/-- Fabric Time as the device's unit counts it (00_scope, R377). -/
def fabricTime (s : State) : BitVec 64 := s.ft.count

/-! ### Partitions and cores -/

/-- A partition's number of cores: four for each of its quads (R313). -/
def ncores (q : Part) : Nat := 4 * popcount q.quads.toNat 32

/-- A partition's cores in ascending global index (R313). -/
def coresOf (q : Part) : List Nat := (upto 128).filter (fun c => bitAt q.quads.toNat (c / 4))

/-- The global index of partition-relative core `i`. -/
def coreAt (q : Part) (i : Nat) : Nat := nth 0 (coresOf q) i

/-- The partition-relative index of a global core. -/
def relCore (q : Part) (core : Nat) : Nat := ((coresOf q).takeWhile (· != core)).length

/-- The partition that holds a quad, among those not ABSENT (R313). -/
def quadPart (s : State) (q : Nat) : Option PartI :=
  (List.finRange 8).find? (fun p => decide ((getPart s p).state ≠ .absent) && bitAt (getPart s p).quads.toNat q)

/-- The context resident on a core. -/
def coreCtx (s : State) (core : Nat) : Option CtxId :=
  match quadPart s (core / 4) with
  | none => none
  | some p => (getPart s p).resident.map (fun c => ⟨p, c⟩)

/-- The context is resident in its partition. -/
def isResident (s : State) (c : CtxId) : Bool := (getPart s c.part).resident == some c.ctx

/-- A context's resident time so far, in ns: the count behind every hang time (R101, R303, R320). -/
def residentClock (s : State) (c : CtxId) : Nat :=
  (getCtx s c).resAcc + (if isResident s c then s.now - (getPart s c.part).resStart else 0)

/-! ### Local stores -/

/-- The key of a local-store byte. -/
def lsKey (core a : Nat) : Nat := core * 2 ^ 24 + a

/-- Bytes in a local store (R87). -/
def lsSize : Nat := 0xC00000

/-- Reads a core's local store. -/
def readLs (s : State) (core a n : Nat) : Bytes := Memory.read s.ls (lsKey core a) n

/-- The 64 KiB granules that a run of bytes touches (R328). -/
def lsGranules (a n : Nat) : List Nat :=
  if n = 0 then [] else (upto ((a + n - 1) / 65536 - a / 65536 + 1)).map (· + a / 65536)

/-- Writes a core's local store and marks the 64 KiB granules written. -/
def writeLs (s : State) (core a : Nat) (bs : Bytes) : State :=
  let c := getCore s core
  setCore { s with ls := Memory.write s.ls (lsKey core a) bs } core
    { c with dirty := (lsGranules a bs.length).foldl (fun l g => insNat g l) c.dirty }

/-- Zeroes a core's whole local store (R315, R330). -/
def zeroLs (s : State) (core : Nat) : State :=
  setCore { s with ls := Memory.zero s.ls (lsKey core 0) lsSize } core { getCore s core with dirty := [] }

/-! ### Companion memory -/

/-- The key of a byte of a companion's memory behind a port. -/
def compKey (p : RlPort) (a : Nat) : Nat := p.val * 2 ^ 64 + a % 2 ^ 64

/-- Reads memory behind a port. -/
def readComp (s : State) (p : RlPort) (a n : Nat) : Bytes := Memory.read s.comp (compKey p a) n

/-- Writes memory behind a port; while the port is down the write is discarded (R288). -/
def writeComp (s : State) (p : RlPort) (a : Nat) (bs : Bytes) : State :=
  if rlUp s p then { s with comp := Memory.write s.comp (compKey p a) bs } else s

/-! ### The unified range -/

/-- Bytes in a page, and in a frame (R214). -/
def pageSize : Nat := 0x200000

/-- The page index of an address in a home range or a borrow window (R215), `none` outside every range of Table 0.6. -/
def pageIndex (a : Nat) : Option Nat :=
  if a < 0x00C00000000 then some (a / pageSize)
  else if 0x01000000000 ≤ a ∧ a < 0x0A000000000 then some (24576 + (a - 0x01000000000) / pageSize)
  else if 0x0C000000000 ≤ a ∧ a < 0x14000000000 then some (319488 + (a - 0x0C000000000) / pageSize)
  else if 0x40000000000 ≤ a ∧ a < 0x40000000000 + 16 * 0x400000000 then
    some (581632 + (a - 0x40000000000) / pageSize)
  else none

/-- The first address of a page. -/
def pageAddr (i : Nat) : Nat :=
  if i < 24576 then i * pageSize
  else if i < 319488 then 0x01000000000 + (i - 24576) * pageSize
  else if i < 581632 then 0x0C000000000 + (i - 319488) * pageSize
  else 0x40000000000 + (i - 581632) * pageSize

/-- Where a frame's bytes lie in the memory `uni`: at the frame's home address; a lent frame above 2^44. -/
def frameAddr (tier lease frame : Nat) : Nat :=
  match tier with
  | 0 => frame * pageSize
  | 1 => 0x01000000000 + frame * pageSize
  | 2 => 0x0C000000000 + frame * pageSize
  | _ => 2 ^ 44 + lease * 2 ^ 34 + frame * pageSize

/-- Translates an address of the unified range for a partition (R216): the place of its byte in `uni`, or the code of
the failure. A borrow window that is not active has no entry OWNED, which R216 calls E_MEM_RANGE. A device-reserved
page fails with E_MEM_FIREWALL (R315). -/
def translate (s : State) (p : PartI) (a : Nat) : Except (BitVec 16) Nat :=
  match pageIndex a with
  | none => .error Code.eMemRange
  | some i =>
    let e := getPte s i
    if 581632 ≤ i ∧ ¬ e.owned then .error Code.eMemRange
    else if ¬ e.owned ∨ e.part ≠ p ∨ e.reserved then .error Code.eMemFirewall
    else if ¬ e.backed then .error Code.eMemUnbacked
    else .ok (frameAddr e.tier.val e.lease.val e.frame.toNat + a % pageSize)

/-- Translates every page that a run of bytes touches, in ascending address: (place, bytes) pieces. -/
def translateRun (s : State) (p : PartI) : Nat → Nat → Nat → Except (BitVec 16) (List (Nat × Nat))
  | 0, _, _ => .ok []
  | fuel + 1, a, n =>
    if n = 0 then .ok []
    else
      let k := min n (pageSize - a % pageSize)
      match translate s p a with
      | .error e => .error e
      | .ok f =>
        match translateRun s p fuel (a + k) (n - k) with
        | .error e => .error e
        | .ok t => .ok ((f, k) :: t)

/-- The pieces of a run of `n` bytes from address `a`. -/
def places (s : State) (p : PartI) (a n : Nat) : Except (BitVec 16) (List (Nat × Nat)) :=
  translateRun s p (n / pageSize + 2) a n

/-- Some 64-byte piece of a run of `uni` is poisoned (R233). -/
def poisoned (s : State) (f n : Nat) : Bool := s.mem.poison.any (fun k => decide (f < (k + 1) * 64) && decide (k * 64 < f + n))

/-- Writing a run of `uni` clears the poison of every whole piece written (R233). -/
def clearPoison (s : State) (f n : Nat) : State :=
  let l := s.mem.poison.filter (fun k => !(decide (f ≤ k * 64) && decide ((k + 1) * 64 ≤ f + n)))
  { s with mem := { s.mem with poison := l } }

/-! ### Lent memory (R229-R231)

A lent frame's bytes in `uni` are what the lender holds: ciphertext. Lease j's data lies from 2^44 + j × 2^34 up, its metadata from
2^45 + j × 2^31 up. -/

/-- A borrow slot. -/
def getBorrow (s : State) (j : Nat) : Borrow := Tbl.get {} s.mem.borrow j

/-- Replaces a borrow slot. -/
def setBorrow (s : State) (j : Nat) (x : Borrow) : State :=
  { s with mem := { s.mem with borrow := Tbl.set {} s.mem.borrow j x } }

/-- The 128-byte lines of lent memory that a run touches (R230); none on the device's own frames. -/
def lentLines (f n : Nat) : List Nat :=
  if f < 2 ^ 44 ∨ n = 0 then [] else (upto ((f + n - 1) / 128 - f / 128 + 1)).map (· + f / 128)

/-- The borrow slot and the index within the lease of a lent line. -/
def lineLease (l : Nat) : Nat := (l - 2 ^ 37) / 2 ^ 27

/-- The index of a lent line within its lease. -/
def lineIndex (l : Nat) : Nat := (l - 2 ^ 37) % 2 ^ 27

/-- Where a lent line's 16 metadata bytes lie. -/
def lineMeta (l : Nat) : Nat := 2 ^ 45 + 16 * (l - 2 ^ 37)

/-- The 128 bytes of a lent line and the 16 of its metadata, as the lender holds them. On a device that goes on with another's lease a
line that it has not written is as that device left it, which is free. -/
def lineRaw (s : State) (l : Nat) : Bytes :=
  let m := Memory.read s.uni (lineMeta l) 16
  if (getBorrow s (lineLease l)).carried && m.all (· == 0) then (upto 144).map (Config.lenderByte (lineLease l) (lineIndex l))
  else Memory.read s.uni (128 * l) 128 ++ m

/-- The write counter of a lent line: bits [127:96] of its metadata. -/
def lineCtr (s : State) (l : Nat) : Nat := leNat ((lineRaw s l).drop 140)

/-- The IV of a lent line under a counter (R230). -/
def lineIv (s : State) (l n : Nat) : Bytes :=
  leBytes 12 (pack [(0, n), (32, lineIndex l), (59, lineLease l), (63, (getBorrow s (lineLease l)).lslot.val), (67, (servedCoord s).toNat)])

/-- The lease key of a lent line. -/
def lineKey (s : State) (l : Nat) : Bytes := leBytes 32 (getBorrow s (lineLease l)).key.toNat

/-- A lent line in the clear; none when its 96-bit tag fails (R230). -/
def openLine (s : State) (l : Nat) : Option Bytes :=
  let r := lineRaw s l
  let iv := lineIv s l (lineCtr s l)
  if (gcmTag (lineKey s l) iv (r.take 128) []).take 12 = (r.drop 128).take 12 then some (gcmCrypt (lineKey s l) iv (r.take 128)) else none

/-- A lent line of a run cannot be read: its tag fails. -/
def lentUnread (s : State) (f n : Nat) : Bool := (lentLines f n).any (fun l => (openLine s l).isNone)

/-- Writes what a run of bytes from `f` has of a lent line: the line is read, overlaid, and written whole under its next counter, with
its metadata (R230). -/
def writeLine (s : State) (f : Nat) (bs : Bytes) (l : Nat) : State :=
  let old := (openLine s l).getD []
  let text := (upto 128).map (fun i =>
    let a := 128 * l + i
    if f ≤ a ∧ a < f + bs.length then nth 0 bs (a - f) else nth 0 old i)
  let n := lineCtr s l + 1
  let ct := gcmCrypt (lineKey s l) (lineIv s l n) text
  let tag := (gcmTag (lineKey s l) (lineIv s l n) ct []).take 12
  { s with uni := Memory.write (Memory.write s.uni (128 * l) ct) (lineMeta l) (tag ++ leBytes 4 n) }

/-- Writes a run of a frame's bytes: as they are on the device's own frames, line by line on lent ones. -/
def writeFrame (s : State) (f : Nat) (bs : Bytes) : State :=
  if f < 2 ^ 44 then { s with uni := Memory.write s.uni f bs }
  else (lentLines f bs.length).foldl (fun t l => writeLine t f bs l) s

/-- Reads a run of a frame's bytes. -/
def frameBytes (s : State) (f n : Nat) : Bytes :=
  if f < 2 ^ 44 then Memory.read s.uni f n
  else (((lentLines f n).flatMap (fun l => (openLine s l).getD (List.replicate 128 0))).drop (f % 128)).take n

/-- Why a write of lent lines is refused (R230): a counter would wrap, or a line that is written in part, and so is read
first, fails its tag. -/
def lentRefusal (s : State) (f n : Nat) : Option (BitVec 16) :=
  let ls := lentLines f n
  if ls.any (fun l => lineCtr s l == 2 ^ 32 - 1) then some Code.eLeaseWrap
  else if ls.any (fun l => (openLine s l).isNone && !(decide (f ≤ l * 128) && decide ((l + 1) * 128 ≤ f + n))) then
    some Code.eLeaseAuth
  else none

/-- The first refusal among the pieces of a write. -/
def lentRefused (s : State) : List (Nat × Nat) → Option (BitVec 16)
  | [] => none
  | (f, k) :: t => match lentRefusal s f k with | some c => some c | none => lentRefused s t

/-- Reads the bytes at translated pieces. -/
def readPlaces (s : State) : List (Nat × Nat) → Bytes
  | [] => []
  | (f, k) :: t => frameBytes s f k ++ readPlaces s t

/-- Writes bytes at translated pieces. -/
def writePlaces (s : State) : List (Nat × Nat) → Bytes → State
  | [], _ => s
  | (f, k) :: t, bs =>
    writePlaces (clearPoison (writeFrame s f (bs.take k)) f k) t (bs.drop k)

/-- A run of device-local bytes reaches a line that a companion holds modified (R281). -/
def onModified (s : State) (a n : Nat) : Bool :=
  s.msf.dir.any (fun e =>
    (match e.st with | .modified _ => true | .shared _ => false) && decide (a < (e.line + 1) * 128) && decide (e.line * 128 < a + n))

/-- A 64 KiB piece of a page: its first address (32 × page index + place in the page). -/
def pieceAddr (k : Nat) : Nat := pageAddr (k / 32) + k % 32 * 65536

/-- A run of a partition's bytes reaches a piece that has not been rebuilt (R355). -/
def onUnrebuilt (s : State) (p : PartI) (a n : Nat) : Bool :=
  s.res.unrebuilt.any (fun k => k / 2 ^ 26 == p.val &&
    decide (a < pieceAddr (k % 2 ^ 26) + 65536) && decide (pieceAddr (k % 2 ^ 26) < a + n))

/-- The pool's slots that hold pre-images. -/
def poolUsed (r : ResPart) : List Nat := ((r.dirty ++ r.old).filter (fun d => d.pre.isSome)).map (·.slot)

/-- A survivor's write waits: it is the first to a piece that the Standby has still to rebuild, and the pre-image pool is full
(R356). -/
def poolStalls (s : State) (p : PartI) (a n : Nat) : Bool :=
  let r := getRes s p
  decide (r.poolSize.toNat ≤ (poolUsed r).length) &&
  s.res.unrebuilt.any (fun k => k / 2 ^ 26 == p.val && !(r.dirty ++ r.old).any (fun d => d.piece == k % 2 ^ 26) &&
    decide (a < pieceAddr (k % 2 ^ 26) + 65536) && decide (pieceAddr (k % 2 ^ 26) < a + n))

/-- While what the device does of itself waits for such lines and pieces, a run reaches a line that a companion holds modified, or,
on the coordinate's new holder, a piece still to rebuild. -/
def heldElsewhere (s : State) (p : PartI) (a n : Nat) : Bool :=
  s.msf.coh && (onModified s a n || (s.res.role != 0 && onUnrebuilt s p a n))

/-- A write waits for the same, and a survivor's for room in its pool. -/
def heldWrite (s : State) (p : PartI) (a n : Nat) : Bool :=
  heldElsewhere s p a n || (s.msf.coh && s.res.role == 0 && poolStalls s p a n)

/-- Reads the unified range for a partition: the bytes, or the code of the failure (R216, R233). -/
def readUni (s : State) (p : PartI) (a n : Nat) : Except (BitVec 16) Bytes :=
  match places s p a n with
  | .error e => .error e
  | .ok l =>
    if l.any (fun fk => poisoned s fk.1 fk.2) then .error Code.eMemPoison
    else if l.any (fun fk => lentUnread s fk.1 fk.2) then .error Code.eLeaseAuth
    else if heldElsewhere s p a n then .error Code.cohRead
    else .ok (readPlaces s l)

end Sys2Proof.Machine
end

