-- ==== Sys2Proof/Machine/Cells.lean ====
section
/-! DEFINITION. The cells of the Buffer Pool: allocation, link words and chains (R156-R158, R160), and intervals of numbers. -/

namespace Sys2Proof.Machine

/-! ### Intervals -/

/-- Adds the numbers from `a` up to `b` to rising disjoint intervals. -/
def addIv (a b : Nat) : List (Nat × Nat) → List (Nat × Nat)
  | [] => [(a, b)]
  | (l, h) :: t =>
    if h < a then (l, h) :: addIv a b t else if b < l then (a, b) :: (l, h) :: t else addIv (min a l) (max b h) t

/-- Takes the numbers from `a` up to `b` out of intervals. -/
def subIv (a b : Nat) (l : List (Nat × Nat)) : List (Nat × Nat) :=
  l.flatMap (fun i => [(i.1, min a i.2), (max b i.1, i.2)].filter (fun j => decide (j.1 < j.2)))

/-- The intervals hold all numbers from `a` up to `b`. -/
def ivHas (l : List (Nat × Nat)) (a b : Nat) : Bool := decide (b ≤ a) || l.any (fun i => decide (i.1 ≤ a) && decide (b ≤ i.2))

/-- How many numbers intervals hold. -/
def ivBytes (l : List (Nat × Nat)) : Nat := (l.map (fun i => i.2 - i.1)).sum

/-- The lowest number from `k` up that rising disjoint intervals do not hold. -/
def lowestFree : List (Nat × Nat) → Nat → Nat
  | [], k => k
  | (l, h) :: t, k => if k < l then k else lowestFree t (max k h)

/-! ### Cells (R156, R157) -/

/-- RES_p of a die: 4,096 cells by default (R157). -/
def bpmResOf (x : XdSt) (p : Nat) : Nat := (Tbl.get (4096 : BitVec 20) x.bpmRes p).toNat

/-- Free on-die cells. -/
def bpmFree (x : XdSt) : Nat := 1048576 - ((upto 8).map (fun p => Tbl.get 0 x.used p)).sum

/-- A partition's Spillway cells on a die: SIZEK × 1,024 (R160). -/
def spillCells (x : XdSt) (p : Nat) : Nat := 1024 * bitsOf (Tbl.get (0 : BitVec 64) x.bpmSpill p).toNat 44 11

/-- The reserves that others may still claim (R157). -/
def bpmHeld (x : XdSt) (p : Nat) : Nat :=
  ((upto 8).map (fun q => if q = p then 0 else bpmResOf x q - Tbl.get 0 x.used q)).sum

/-- Where a request for one cell is served (R157): `some false` on-die, `some true` in the Spillway, `none` refused. -/
def cellSource (x : XdSt) (p : Nat) : Option Bool :=
  if Tbl.get 0 x.used p < bpmResOf x p ∨ bpmHeld x p < bpmFree x then some false
  else if Tbl.get 0 x.spUsed p < spillCells x p then some true
  else none

/-- A cell is taken for a partition: the lowest free one of the pool or of its Spillway (DESIGN CHOICE: the text gives no order,
log 94). -/
def takeCell (x : XdSt) (p : Nat) (spill : Bool) : XdSt × Nat × Nat :=
  if spill then
    let l := Tbl.get [] x.spCells p
    let c := lowestFree l 0
    ({ x with spCells := Tbl.set [] x.spCells p (addIv c (c + 1) l), spUsed := Tbl.set 0 x.spUsed p (Tbl.get 0 x.spUsed p + 1) }, p + 1, c)
  else
    let c := lowestFree x.cells 0
    ({ x with cells := addIv c (c + 1) x.cells, used := Tbl.set 0 x.used p (Tbl.get 0 x.used p + 1) }, 0, c)

/-- Adds one cell to the end of runs of cells. -/
def addCell (space c : Nat) : List CellRun → List CellRun
  | [] => [{ space := space, first := c, n := 1 }]
  | [r] => if r.space = space ∧ r.first + r.n = c then [{ r with n := r.n + 1 }] else [r, { space := space, first := c, n := 1 }]
  | r :: t => r :: addCell space c t

/-- How many cells runs hold. -/
def cellsIn (l : List CellRun) : Nat := (l.map (·.n)).sum

/-- Allocates `n` cells, one by one (R157): all of them or none. -/
def takeCells : Nat → XdSt → Nat → List CellRun → Option (XdSt × List CellRun)
  | 0, x, _, l => some (x, l)
  | n + 1, x, p, l =>
    match cellSource x p with
    | none => none
    | some sp =>
      let q := takeCell x p sp
      takeCells n q.1 p (addCell q.2.1 q.2.2 l)

/-- Gives a run of cells back. -/
def giveRun (x : XdSt) (p : Nat) (r : CellRun) : XdSt :=
  if r.space = 0 then
    { x with cells := subIv r.first (r.first + r.n) x.cells, used := Tbl.set 0 x.used p (Tbl.get 0 x.used p - r.n) }
  else
    let q := r.space - 1
    { x with spCells := Tbl.set [] x.spCells q (subIv r.first (r.first + r.n) (Tbl.get [] x.spCells q))
             spUsed := Tbl.set 0 x.spUsed q (Tbl.get 0 x.spUsed q - r.n) }

/-- Gives runs of cells back. -/
def giveRuns (x : XdSt) (p : Nat) (l : List CellRun) : XdSt := l.foldl (fun y r => giveRun y p r) x

/-- Splits off the first `n` cells of some runs. -/
def splitCells : Nat → List CellRun → List CellRun × List CellRun
  | _, [] => ([], [])
  | n, r :: t =>
    if n = 0 then ([], r :: t)
    else if n < r.n then ([{ r with n := n }], { r with first := r.first + n, n := r.n - n } :: t)
    else
      let q := splitCells (n - r.n) t
      (r :: q.1, q.2)

/-! ### Pointers, links and the Spillway (R156, R158, R160) -/

/-- A cell pointer (Table 6.10). -/
def cellPtr (space c : Nat) : BitVec 32 := BitVec.ofNat 32 (pack [(8, c), (28, space)])

/-- What ends a chain. -/
def endPtr : BitVec 32 := 0xFFFFFFFF

/-- The space and the cell that a pointer names. -/
def ptrCell (ptr : BitVec 32) : Nat × Nat := (bitsOf ptr.toNat 28 4, bitsOf ptr.toNat 8 20)

/-- A pointer is valid (R156). -/
def ptrValid (x : XdSt) (ptr : BitVec 32) : Bool :=
  let v := ptr.toNat
  let space := bitsOf v 28 4
  bitsOf v 0 8 == 0 &&
  (space == 0 || (decide (1 ≤ space) && decide (space ≤ 8) && decide (bitsOf v 8 20 < spillCells x (space - 1))))

/-- The base of a partition's Spillway, a home address in HBM3E. -/
def spillBase (x : XdSt) (p : Nat) : Nat := 65536 * bitsOf (Tbl.get (0 : BitVec 64) x.bpmSpill p).toNat 16 28

/-- Where a Spillway cell's link word lies: after the data of all cells. -/
def linkAddr (x : XdSt) (p c : Nat) : Nat := spillBase x p + 256 * spillCells x p + 4 * c

/-- A cell's link word: from the link RAM, or from the Spillway. -/
def linkOf (s : State) (x : XdSt) (ptr : BitVec 32) : BitVec 32 :=
  let q := ptrCell ptr
  if q.1 = 0 then Tbl.get 0 x.links q.2 else BitVec.ofNat 32 (leNat (Memory.read s.uni (linkAddr x (q.1 - 1) q.2) 4))

/-- Writes a cell's link word. -/
def setLink (s : State) (die : XDie) (ptr next : BitVec 32) : State :=
  let x := getXd s die
  let q := ptrCell ptr
  if q.1 = 0 then setXd s die { x with links := Tbl.set 0 x.links q.2 next }
  else { s with uni := Memory.write s.uni (linkAddr x (q.1 - 1) q.2) (leBytes 4 next.toNat) }

/-- The pointers of some runs of cells. -/
def runPtrs (l : List CellRun) : List (BitVec 32) := l.flatMap (fun r => (upto r.n).map (fun i => cellPtr r.space (r.first + i)))

/-- Links cells to one another, the last to the end. -/
def linkCells (s : State) (die : XDie) : List (BitVec 32) → State
  | [] => s
  | [p] => setLink s die p endPtr
  | p :: q :: t => linkCells (setLink s die p q) die (q :: t)

/-- Cells of a partition and context become a chain: its links are written. Its head, when there is a cell. -/
def newChain (s : State) (die : XDie) (cid : CtxId) (cells : List CellRun) (mode : ChainMode) : Option (State × BitVec 32) :=
  let ps := runPtrs cells
  match ps, ps.getLast? with
  | h :: _, some t =>
    let s1 := linkCells s die ps
    let x := getXd s1 die
    some (setXd s1 die { x with chains := x.chains ++ [{ head := h, tail := t, count := ps.length, cid := cid, mode := mode }] }, h)
  | _, _ => none

/-- Follows a chain's links over at most `n` cells: the cells met, and whether every pointer was valid. -/
def walkChain (s : State) (x : XdSt) : Nat → BitVec 32 → List CellRun × Bool
  | 0, _ => ([], true)
  | n + 1, ptr =>
    if ptr = endPtr then ([], true)
    else if !ptrValid x ptr then ([], false)
    else
      let r := walkChain s x n (linkOf s x ptr)
      ({ space := (ptrCell ptr).1, first := (ptrCell ptr).2, n := 1 } :: r.1, r.2)

/-- Frees a chain: the cells that its links name return to the pool. `false`: an invalid pointer stands in a link (R159). -/
def freeChain (s : State) (die : XDie) (h : Chain) : State × Bool :=
  let x := getXd s die
  let w := walkChain s x h.count h.head
  (setXd s die (giveRuns { x with chains := x.chains.filter (fun y => y.head != h.head) } h.cid.part.val w.1), w.2)

/-- Bytes that land in a stream's cells from offset `off` of them on: those in Spillway cells are in HBM3E (R160). -/
def spillData (s : State) (x : XdSt) : List CellRun → Nat → Bytes → State
  | [], _, _ => s
  | r :: t, off, bs =>
    let n := 256 * r.n
    if n ≤ off then spillData s x t (off - n) bs
    else
      let here := bs.take (n - off)
      let s1 := if r.space = 0 ∨ here = [] then s
        else { s with uni := Memory.write s.uni (spillBase x (r.space - 1) + 256 * r.first + off) here }
      spillData s1 x t 0 (bs.drop (n - off))

end Sys2Proof.Machine
end

