-- ==== Sys2Proof/Machine/Lines.lean ====
section
/-! DEFINITION. What the device writes into companion memory for a context: its status line (R299) and its completion
records (R298). -/

namespace Sys2Proof.Machine

/-- The number of a context state (Table 13.21). -/
def CState.code : CState → Nat
  | .absent => 0
  | .bringup => 1
  | .ready => 2
  | .faulted => 3
  | .teardown => 4

/-- The CMD_HEAD a status line reports: the hand-over position, but in a protected context the ring position of the
restart mark (R341). -/
def shownHead (s : State) (c : CtxId) : BitVec 32 :=
  let x := getCtx s c
  match x.restart with
  | some m => if (Tbl.get {} s.res.parts c.part.val).state = .prot then m.ringPos else x.cmdHead
  | none => x.cmdHead

/-- The bytes of a context's status line (Table 13.8). -/
def statusLine (s : State) (c : CtxId) : Bytes :=
  let x := getCtx s c
  let fz : Bool := decide (x.state = .faulted)
  leBytes 128 (pack [(0, (shownHead s c).toNat), (32, x.cplTail.toNat), (64, CState.code x.state),
    (80, if fz then x.ecode.toNat else 0), (96, if fz then x.stopIdx.toNat else 0)])

/-- Writes a context's status line (R299). -/
def writeStatus (s : State) (c : CtxId) : State :=
  writeComp s (getCtx s c).desc.rport (getCtx s c).desc.sline.toNat (statusLine s c)

/-- The bytes of a completion record (Table 13.7). -/
def cplRecord (s : State) (e : Entry) (o : Outcome) : Bytes :=
  leBytes 32 (pack [(0, e.pos.toNat), (32, fld e.desc 32 32), (64, fld e.desc 0 16), (80, fld e.desc 16 7),
    (87, b2n e.fromList), (88, o.status.toNat), (96, if e.fromList then e.listPos.toNat else 0),
    (128, (fabricTime s).toNat), (192, o.ecode.toNat)])

/-- A command writes a completion record when CMPL is set, and always when it faults (R298). -/
def needsRecord (e : Entry) (o : Outcome) : Bool := flag e.desc 26 || o.status == 2

/-- The completion ring has no free entry. -/
def cplRingFull (x : Ctx) : Bool := decide (2 ^ x.desc.qlog2.toNat ≤ ahead x.cplTail x.cplHead)

/-- Writes a completion record, then CPL_TAIL and the status line (R298, R299). While the port is down the record is
discarded and CPL_TAIL stands (R288). A replayed command whose record was written before the takeover writes none (R353). -/
def writeCpl (s0 : State) (e : Entry) (o : Outcome) : State :=
  let x := getCtx s0 e.cid
  let s := mirror s0 e.cid.part (mirrorAt 9 (CtxId.key e.cid * 2 ^ 33 + e.pos.toNat)) [1]
  if x.replayed.contains e.pos then
    setCtx s e.cid { x with cplTail := x.cplTail + 1, replayed := x.replayed.filter (· != e.pos) }
  else if rlUp s x.desc.rport then
    let a := x.desc.qring.toNat + 32 * (x.cplTail.toNat % 2 ^ x.desc.qlog2.toNat)
    let s1 := writeComp s x.desc.rport a (cplRecord s e o)
    writeStatus (setCtx s1 e.cid { x with cplTail := x.cplTail + 1 }) e.cid
  else s

end Sys2Proof.Machine
end

