-- ==== Sys2Proof/Machine/Sched.lean ====
section
/-! DEFINITION. What a core waits for (R97, R302, R305, R306), which contexts have work, and which runs next
(R320-R323, R328). -/

namespace Sys2Proof.Machine

/-- Ring position `a` stands earlier than `b` (32-bit free-running counts, R295). -/
def earlier (a b : BitVec 32) : Bool := decide (0 < ahead b a) && decide (ahead b a < 2 ^ 31)

/-- What a slot wait finds (Table 4.3). -/
inductive SlotWait where
  | met | waits | wrong
  deriving DecidableEq, Repr

/-- OP_WAIT FULL(g) on a slot (Table 4.3). -/
def slotWaitFull (t : Slot) (g : BitVec 16) : SlotWait :=
  match t.state with
  | .full => if t.gen = g then .met else if t.gen = g - 1 then .waits else .wrong
  | .draining => if t.gen = g - 1 then .waits else .wrong
  | .empty | .filling => if t.gen = g then .waits else .wrong

/-- OP_WAIT EMPTY(g) on a slot (Table 4.3). -/
def slotWaitEmpty (t : Slot) (g : BitVec 16) : SlotWait :=
  match t.state with
  | .empty => if t.gen = g then .met else .wrong
  | .full | .draining => if t.gen = g - 1 then .waits else .wrong
  | .filling => .wrong

/-- The condition of an EVENT or MEMORY wait: COND 0 EQ, 1 NE, 2 GE (R302). -/
def condHolds (cond : Nat) (x v : BitVec 32) : Bool :=
  match cond with
  | 0 => x == v
  | 1 => x != v
  | 2 => decide ((x - v).toNat < 2 ^ 31)
  | _ => false

/-- The word that a MEMORY wait looks at, or the code of the failed access. -/
def waitWord (s : State) (c : CtxId) (d : Desc) : Except (BitVec 16) (BitVec 32) :=
  match readUni s c.part (fld d 156 44) 4 with
  | .error e => .error e
  | .ok bs => .ok (BitVec.ofNat 32 (leNat bs))

/-- A command of the sequencer (queued, in flight, blocking, or a list in progress) stands earlier in ring order than
`pos` and has not completed. -/
def seqEarlier (q : Seq) (pos : BitVec 32) : Bool :=
  q.queue.any (fun e => earlier e.pos pos) || q.inflight.any (fun f => earlier f.entry.pos pos) ||
  (match q.block with | some b => earlier b.entry.pos pos | none => false) ||
  (match q.list with | some l => earlier l.wait.pos pos | none => false)

/-- Every command earlier than a command of SCOPE 1 has completed: those of its own core, and on every other core those
earlier in ring order (R305). `pos` is the command's ring position, `own` its core's commands in flight before it. -/
def ctxQuiet (s : State) (c : CtxId) (core : Nat) (own : List InFlight) (pos : BitVec 32) : Bool :=
  own.isEmpty && (coresOf (getPart s c.part)).all (fun k => k == core || !seqEarlier (getSeq s c k) pos)

/-- The blocking command's condition holds (R97, R302, R305, R306). A PLAN wait ends once every command of its list has
issued (R310). -/
def blockMet (s : State) (c : CtxId) (core : Nat) (b : Blocked) : Bool :=
  let d := b.entry.desc
  let q := getSeq s c core
  match b.kind with
  | .slotFull => slotWaitFull (nth {} q.slots (fld d 68 6)) (BitVec.ofNat 16 (fld d 74 16)) == .met
  | .slotEmpty => slotWaitEmpty (nth {} q.slots (fld d 68 6)) (BitVec.ofNat 16 (fld d 74 16)) == .met
  | .event => condHolds (fld d 90 2) (Tbl.get 0 (getCtx s c).events (fld d 68 6)) (BitVec.ofNat 32 (fld d 92 32))
  | .memory =>
    match waitWord s c d with
    | .ok w => condHolds (fld d 90 2) (w &&& BitVec.ofNat 32 (fld d 124 32)) (BitVec.ofNat 32 (fld d 92 32))
    | .error _ => false
  | .plan =>
    match q.list with
    | some l => decide (l.ncmd ≤ l.next)
    | none =>
      match (getCtx s c).plans.find? (fun p => p.left.contains core) with
      | some p => p.handed
      | none => false
  | .fence =>
    if flag d 64 then ctxQuiet s c core q.inflight b.entry.pos else q.inflight.isEmpty
  | .timed => decide (fld d 64 64 ≤ (fabricTime s).toNat)

/-- How many commands a sequencer has in flight (R93): those that run or hold their record, a wait that stands, and the
PLAN wait behind a blocking command of its list. -/
def Seq.flights (q : Seq) : Nat :=
  q.inflight.length + (match q.block with
    | some b => if b.entry.fromList && q.list.isSome then 2 else 1
    | none => 0)

/-- A sequencer holds a command that has not completed (R321). -/
def Seq.busy (q : Seq) : Bool :=
  !q.queue.isEmpty || !q.inflight.isEmpty || q.block.isSome || q.list.isSome

/-- A wait on which one of the context's cores stopped would now be satisfied (R321). -/
def someWaitMet (s : State) (c : CtxId) : Bool :=
  (coresOf (getPart s c.part)).any (fun k =>
    match (getSeq s c k).block with
    | some b => blockMet s c k b
    | none => false)

/-- The context has work (R321). -/
def hasWork (s : State) (c : CtxId) : Bool :=
  let x := getCtx s c
  decide (x.state = .ready) &&
  (x.cmdHead != x.cmdTail || (coresOf (getPart s c.part)).any (fun k => (getSeq s c k).busy)) &&
  (!x.yielded || someWaitMet s c)

/-- Context `a` ranks before context `b` (R321): HIGH first, then the lower VT, then the lower index. -/
def ranksBefore (s : State) (p : PartI) (a b : CtxI) : Bool :=
  let x := getCtx s ⟨p, a⟩
  let y := getCtx s ⟨p, b⟩
  if x.high != y.high then x.high
  else if x.vt ≠ y.vt then decide (x.vt.toNat < y.vt.toNat)
  else decide (a.val < b.val)

/-- The partition's contexts with work. -/
def withWork (s : State) (p : PartI) : List CtxI := (List.finRange 16).filter (fun c => hasWork s ⟨p, c⟩)

/-- The context that ranks first among some. -/
def bestOf (s : State) (p : PartI) : List CtxI → Option CtxI
  | [] => none
  | c :: t =>
    match bestOf s p t with
    | none => some c
    | some b => if ranksBefore s p c b then some c else some b

/-- The context that a scheduling decision picks (R321). -/
def pick (s : State) (p : PartI) : Option CtxI := bestOf s p (withWork s p)

/-- The lowest VT among some of a partition's contexts, 0 when there are none (R322). -/
def lowestVt (s : State) (p : PartI) (cs : List CtxI) : BitVec 64 :=
  match cs with
  | [] => 0
  | c :: t => t.foldl (fun m k => let v := (getCtx s ⟨p, k⟩).vt; if v.toNat < m.toNat then v else m) (getCtx s ⟨p, c⟩).vt

/-- The contexts that may have commands at a core: its partition's resident one, then the others in ascending order. -/
def coreCtxs (s : State) (core : Nat) : List CtxId :=
  match quadPart s (core / 4) with
  | none => []
  | some p =>
    let cs : List CtxId := (List.finRange 16).map (fun c => ⟨p, c⟩)
    cs.filter (isResident s) ++ cs.filter (fun c => !isResident s c)

/-- A switch begins: SWITCHING is set and the stop request made (R328). With no context resident there is nothing to
stop or save. -/
def beginSwitch (s : State) (p : PartI) (inc : Option CtxI) (high atEnd : Bool) : State :=
  let q := getPart s p
  let sw : Switching := { outgoing := q.resident, incoming := inc, stopAt := s.now, high := high, atSliceEnd := atEnd,
                          saved := q.resident.isNone, savedAt := s.now }
  setPart s p { q with switching := some sw }

/-- A decision may be due because a context of the partition has gained work (R321): nothing is resident, or a HIGH
context has work and the resident one is not HIGH. -/
def onGain (s : State) (p : PartI) : State :=
  let q := getPart s p
  if q.state ≠ .active ∨ q.switching.isSome then s
  else
    match pick s p with
    | none => s
    | some c =>
      match q.resident with
      | none => beginSwitch s p (some c) false false
      | some r => if (getCtx s ⟨p, c⟩).high && !(getCtx s ⟨p, r⟩).high then beginSwitch s p (some c) true false else s

/-- A decision may be due because the resident context has lost its work, or none is resident (R321). -/
def onLose (s : State) (p : PartI) : State :=
  let q := getPart s p
  if q.state ≠ .active ∨ q.switching.isSome then s
  else
    match pick s p with
    | none => s
    | some c =>
      match q.resident with
      | none => beginSwitch s p (some c) false false
      | some r => if hasWork s ⟨p, r⟩ then s else beginSwitch s p (some c) false false

/-- A context that regains work raises its VT to the lowest VT of the others that have work (R322). -/
def raiseVt (s : State) (c : CtxId) : State :=
  let x := getCtx s c
  let v := lowestVt s c.part ((withWork s c.part).filter (· != c.ctx))
  if x.vt.toNat < v.toNat then setCtx s c { x with vt := v } else s

/-- A context that has yielded would now find a wait met on which one of its cores stopped (R321). -/
def regains (s : State) (p : PartI) (c : CtxI) : Bool :=
  let x := getCtx s ⟨p, c⟩
  decide (x.state = .ready) && x.yielded && (getPart s p).resident != some c && someWaitMet s ⟨p, c⟩

/-- A yielded context whose wait is met has work again: its VT rises. -/
def regainWork (s : State) (c : CtxId) : State :=
  let t := raiseVt s c
  setCtx t c { getCtx t c with yielded := false }

/-- The contexts of a core's partition that have yielded and whose waits are now met regain work, and a decision may be
due (R321, R322). -/
def regainAt (s : State) (core : Nat) : State :=
  match quadPart s (core / 4) with
  | none => s
  | some p =>
    match (List.finRange 16).filter (regains s p) with
    | [] => s
    | cs => onGain (cs.foldl (fun t c => regainWork t ⟨p, c⟩) s) p

end Sys2Proof.Machine
end

