-- ==== Sys2Proof/Machine/Wire.lean ====
section
/-! DEFINITION. What packets look like on the wire: headers, check words, payload protection, and the message bodies of the
units (R246-R250, R262, R263, Tables 6.2, 6.3, 8.2, 11.3, 11.4, 11.6, 11.7, 12.4). -/

namespace Sys2Proof.Machine

/-! ### Headers (Tables 11.3 and 11.4) -/

/-- The mutable fields VC, PLANE, STANDIN and HOPS, bits [9:3] of the common header. -/
def mutableBits (k : Packet) : List (Nat × Nat) :=
  [(3, k.vc.val), (4, k.plane.val), (5, b2n k.standin), (6, k.hops.toNat)]

/-- The fields of the common header, the mutable ones apart. -/
def commonBits (k : Packet) : List (Nat × Nat) :=
  [(0, if k.isData then 2 else 1), (2, k.net.val), (16, k.jtag.toNat), (32, k.tepoch.toNat), (36, k.unit.toNat), (40, k.dst.toNat),
   (57, k.src.toNat)]

/-- The further fields of a data header, LEN_M1 to SDIE. -/
def dataBits (k : Packet) : List (Nat × Nat) :=
  [(96, k.body.length - 1), (107, b2n k.enc), (108, b2n k.last), (112, k.sid.toNat), (128, k.sub.toNat), (136, k.offset.toNat),
   (176, k.inc.toNat), (184, k.pctr.toNat), (248, k.sdie.val)]

/-- The header that check words cover: 12 bytes of a control packet, 32 of a data packet, the mutable fields 0. -/
def checkedHead (k : Packet) : Bytes :=
  if k.isData then leBytes 32 (pack (commonBits k ++ dataBits k)) else leBytes 12 (pack (commonBits k))

/-- The whole header as it travels: 16 bytes of a control packet, with its CRC, or 32 of a data packet. -/
def wireHead (k : Packet) : Bytes :=
  if k.isData then leBytes 32 (pack (commonBits k ++ mutableBits k ++ dataBits k))
  else leBytes 16 (pack (commonBits k ++ mutableBits k ++ [(96, (k.tag.setWidth 32).toNat)]))

/-- The CRC-32C of a control packet's header and body (R248), or of a data packet's header and payload (R249). -/
def packetCrc (k : Packet) : BitVec 32 := crc32c (checkedHead k ++ k.body)

/-! ### Payload protection (R263) -/

/-- The traffic key KT of a binding: SHA-256(K ‖ "KY-PT" ‖ JTAG ‖ TEPOCH). -/
def trafficKey (key : BitVec 256) (jtag : BitVec 16) (tepoch : BitVec 4) : Bytes :=
  sha256 (leBytes 32 key.toNat ++ [0x4B#8, 0x59#8, 0x2D#8, 0x50#8, 0x54#8] ++ leBytes 2 jtag.toNat ++ leBytes 1 tepoch.toNat)

/-- The payload IV (Table 11.7). -/
def payloadIv (k : Packet) : Bytes :=
  leBytes 12 (pack [(0, k.src.toNat), (17, k.sdie.val), (18, k.inc.toNat), (26, k.pctr.toNat)])

/-- A packet with its check word: CRC-32C, or, for a payload under a key, ciphertext and GCM tag (R248, R249, R263). -/
def sealPacket (k : Packet) (key : Option (BitVec 256)) : Packet :=
  match key with
  | some q =>
    let kt := trafficKey q k.jtag k.tepoch
    let ct := gcmCrypt kt (payloadIv k) k.body
    { k with body := ct, tag := BitVec.ofNat 128 (leNat (gcmTag kt (payloadIv k) ct (checkedHead k))) }
  | none => { k with tag := (packetCrc k).setWidth 128 }

/-- The check of an arriving packet, and its payload in the clear (R250); `none` for a packet that fails. -/
def openPacket (k : Packet) (key : Option (BitVec 256)) : Option Packet :=
  if k.isData && k.enc then
    match key with
    | some q =>
      (gcmOpen (trafficKey q k.jtag k.tepoch) (payloadIv k) k.body (checkedHead k) (leBytes 16 k.tag.toNat)).map
        (fun b => { k with body := b })
    | none => none
  else if k.tag = (packetCrc k).setWidth 128 then some k
  else none

/-! ### Message bodies -/

/-- A 48-byte control body of some fields. -/
def bodyOf (fields : List (Nat × Nat)) : Bytes := leBytes 48 (pack fields)

/-- A count entry of Table 5.7. -/
def countWord (c : CountEntry) : Nat := pack [(0, c.localIdx.toNat), (12, b2n c.wc), (16, c.countM1.toNat)]

/-- The fields of an exchange message (Table 6.3) with its TYPE. Data packets have no body of this kind. -/
def xFields : XMsg → Option (Nat × List (Nat × Nat))
  | .opening ncnt nent dbytes row64 wbytes => some (1, [(64, ncnt), (80, nent), (112, dbytes), (152, row64), (166, wbytes)])
  | .ready cells => some (2, [(64, cells)])
  | .wait => some (3, [])
  | .count seq es => some (4, [(64, seq), (80, es.length)] ++ (es.zipIdx).map (fun q => (96 + 32 * q.2, q.1.toNat)))
  | .ask => some (5, [])
  | .credit cells => some (6, [(64, cells)])
  | .endMark dbytes crc => some (7, [(80, dbytes), (120, crc.toNat)])
  | .ack => some (8, [])
  | .resend offset bytes => some (9, [(64, offset), (104, bytes)])
  | .data _ _ => none

/-- The common part of an exchange body (Table 6.2). -/
def xHead (h : XHdr) (type : Nat) : List (Nat × Nat) :=
  [(0, type), (8, h.kind.val), (10, h.plane.val), (16, h.xid.toNat), (32, h.srcRank.toNat), (48, h.dstRank.toNat)]

/-- The body of an exchange message. -/
def xBody (h : XHdr) (m : XMsg) : Option Bytes := (xFields m).map (fun q => bodyOf (xHead h q.1 ++ q.2))

/-- The exchange's messages that go from the receiver back to the sender: they answer and travel on the reply network (R251). -/
def XMsg.isReply : XMsg → Bool
  | .ready _ | .wait | .credit _ | .ack | .resend _ _ => true
  | _ => false

/-- The fields of a collective's message (Table 8.2) with its TYPE. -/
def cFields : CMsg → Option (Nat × List (Nat × Nat))
  | .opening pdig gdig => some (1, [(64, pdig.toNat), (96, gdig.toNat)])
  | .ready => some (2, [])
  | .wait => some (3, [])
  | .endMark m =>
    some (4, [(64, m.chunk.toNat), (96, m.pass.val), (98, b2n m.empty), (99, b2n m.event), (100, b2n m.compact), (101, b2n m.bf16),
      (102, m.bytes.toNat), (134, m.crc.toNat), (166, m.nemp.toNat), (183, m.nanel.toNat)])
  | .ack chunk pass => some (5, [(64, chunk), (96, pass)])
  | .resend chunk pass => some (6, [(64, chunk), (96, pass)])
  | .abort origin reason => some (7, [(64, origin), (80, reason)])
  | .data _ _ _ _ => none

/-- The common part of a collective's body (R182). -/
def cHead (h : CHdr) (type : Nat) : List (Nat × Nat) :=
  [(0, type), (8, h.tree.val), (16, h.cid.toNat), (32, h.srcRank.toNat), (48, h.dstRank.toNat)]

/-- The body of a collective's message. -/
def cBody (h : CHdr) (m : CMsg) : Option Bytes := (cFields m).map (fun q => bodyOf (cHead h q.1 ++ q.2))

/-- The collective's messages that answer another (R251). -/
def CMsg.isReply : CMsg → Bool
  | .ready | .wait | .ack _ _ | .resend _ _ => true
  | _ => false

/-- The operation codes of Table 12.3. -/
def msfCode : MsfOp → Nat
  | .read => 0x01 | .write => 0x02 | .add64 => 0x10 | .add32 => 0x11 | .and64 => 0x12 | .or64 => 0x13 | .xor64 => 0x14
  | .smax64 => 0x15 | .smin64 => 0x16 | .umax64 => 0x17 | .umin64 => 0x18 | .swap64 => 0x19 | .cas64 => 0x1A | .addAl48 => 0x1C
  | .bulkGet => 0x20 | .bulkPut => 0x21

/-- The operation of a code (Table 12.3). -/
def msfOpOf (op : Nat) : Option MsfOp :=
  match op with
  | 0x01 => some .read | 0x02 => some .write
  | 0x10 => some .add64 | 0x11 => some .add32 | 0x12 => some .and64 | 0x13 => some .or64 | 0x14 => some .xor64
  | 0x15 => some .smax64 | 0x16 => some .smin64 | 0x17 => some .umax64 | 0x18 => some .umin64
  | 0x19 => some .swap64 | 0x1A => some .cas64 | 0x1C => some .addAl48
  | 0x20 => some .bulkGet | 0x21 => some .bulkPut
  | _ => none

/-- A transfer of the gateway. -/
def isBulk (op : MsfOp) : Bool := op == .bulkGet || op == .bulkPut

/-- The body of an agent's or gateway's message (Table 12.4). LEN of a bulk request has no field there: it travels in OPERAND
(DESIGN CHOICE, log 92). -/
def msfBody : MsfMsg → Bytes
  | .req m =>
    bodyOf [(0, 1), (8, msfCode m.op), (16, m.sid.toNat), (32, b2n (!m.data.isEmpty)), (33, b2n m.shared), (34, b2n m.own),
      (36, m.addr.toNat), (80, if isBulk m.op then m.len.toNat else m.operand.toNat), (144, m.operand2.toNat), (208, m.bmask.toNat),
      (336, b2n m.cpn), (337, m.cpnPort.val)]
  | .rsp m =>
    bodyOf [(0, 2), (16, m.sid.toNat), (32, b2n (!m.data.isEmpty)), (33, m.status.toNat), (41, m.result.toNat), (105, b2n m.cpn),
      (106, m.cpnPort.val)]
  | .busy _ sid => bodyOf [(0, 3), (16, sid.toNat)]
  | .inv addr => bodyOf [(0, 4), (36, addr)]
  | .invack addr => bodyOf [(0, 5), (36, addr)]
  | .recallLine _ keep addr => bodyOf [(0, 6), (35, b2n keep), (36, addr)]
  | .recallack addr d => bodyOf [(0, 7), (32, b2n d.isSome), (36, addr)]
  | .puts addr => bodyOf [(0, 8), (36, addr)]
  | .putm addr _ => bodyOf [(0, 9), (36, addr)]
  | .bend _ sid bytes crc => bodyOf [(0, 10), (16, sid.toNat), (32, bytes), (72, crc.toNat)]
  | .bresend _ sid => bodyOf [(0, 11), (16, sid.toNat)]

/-- The messages of Table 12.4 on the reply network. -/
def MsfMsg.isReply : MsfMsg → Bool
  | .rsp _ | .busy _ _ | .invack _ | .recallack _ _ | .bresend _ _ => true
  | _ => false

/-- The job tag of a message; the directory's messages concern no context. -/
def MsfMsg.jtag : MsfMsg → BitVec 16
  | .req m => m.jtag
  | .rsp m => m.jtag
  | .busy j _ => j
  | .bend j _ _ _ => j
  | .bresend j _ => j
  | _ => 0

/-- UNIT of a message: 4 for the gateway's transfers, 3 otherwise (12); the answer to a transfer carries 4 as well. -/
def MsfMsg.unit : MsfMsg → BitVec 4
  | .req m => if isBulk m.op then 4 else 3
  | .bend _ _ _ _ => 4
  | .bresend _ _ => 4
  | _ => 3

/-- The fabric's own messages (UNIT 6, Table 11.6). -/
inductive FabMsg where
  | tagnak (newer : Bool) (refused : Packet)
  | tsync (seq : BitVec 16) (t1 : BitVec 64)
  | treq (seq : BitVec 16) (t3 : BitVec 64)
  | tresp (seq : BitVec 16) (t4 corr : BitVec 64)
  deriving DecidableEq, Repr

/-- The body of a fabric message. -/
def fabBody : FabMsg → Bytes
  | .tagnak newer k => bodyOf [(0, 1), (8, b2n newer), (16, leNat ((wireHead k).take 16)), (144, if k.isData then k.sid.toNat else 0)]
  | .tsync seq t1 => bodyOf [(0, 2), (16, seq.toNat), (32, t1.toNat)]
  | .treq seq t3 => bodyOf [(0, 3), (16, seq.toNat), (32, t3.toNat)]
  | .tresp seq t4 corr => bodyOf [(0, 4), (16, seq.toNat), (32, t4.toNat), (96, corr.toNat)]

/-- TAGNAK and TRESP are replies (Table 11.6). -/
def FabMsg.isReply : FabMsg → Bool
  | .tagnak _ _ | .tresp _ _ _ => true
  | _ => false

end Sys2Proof.Machine
end

