-- ==== Sys2Proof/Machine/Fabric.lean ====
section
/-! DEFINITION. The fabric's ports and coordinates, the route function (R253-R256), blocks and credit (R243, R244, R246, R252),
and how a packet of the device leaves it (R248, R251, R357). -/

namespace Sys2Proof.Machine

/-! ### Ports and coordinates -/

/-- A fabric port. -/
def getFp (s : State) (p : Nat) : FPortSt := Tbl.get {} s.fab.ports p

/-- Replaces a fabric port. -/
def setFp (s : State) (p : Nat) (x : FPortSt) : State := { s with fab := { s.fab with ports := Tbl.set {} s.fab.ports p x } }

/-- Links run: boot has reached stage 6, the device is not held in reset and has not stopped (R387). -/
def linksRun (s : State) : Bool := (s.sec.stage == 6 || s.sec.stage == 7) && !s.gl.inReset && !s.gl.stopped

/-- The fields of a packed coordinate (R6). -/
def cRow (c : Coord) : Nat := bitsOf c.toNat 12 5
/-- The rack of a coordinate. -/
def cRack (c : Coord) : Nat := bitsOf c.toNat 7 5
/-- The tray of a coordinate. -/
def cTray (c : Coord) : Nat := bitsOf c.toNat 3 4
/-- The slot of a coordinate. -/
def cSlot (c : Coord) : Nat := bitsOf c.toNat 0 3

/-- A coordinate carries a reserved slot value (R6). -/
def coordBad (c : Coord) : Bool := decide (4 < cSlot c)

/-- A port's role on its die, FP(p) or FP(18 + p). -/
def fpRole (p : Nat) : Nat := p % 18
/-- A port's plane. -/
def fpPlane (p : Nat) : Nat := p / 18

/-- A port carries traffic. -/
def fpUp (s : State) (p : Nat) : Bool := decide ((getFp s p).state = .active)

/-! ### The route function (R253-R256) -/

/-- The first working port of a level from a selected one upwards, on a plane, then on the other (R255). -/
def levelPort (s : State) (plane base n sel : Nat) : Option Nat :=
  let on := fun (pl : Nat) => ((upto n).map (fun k => 18 * pl + base + (sel + k) % n)).find? (fpUp s)
  match on plane with
  | some p => some p
  | none => on (1 - plane)

/-- The port of a role on a plane, else the same role on the other plane (R255). -/
def rolePort (s : State) (plane role : Nat) : Option Nat :=
  if fpUp s (18 * plane + role) then some (18 * plane + role)
  else if fpUp s (18 * (1 - plane) + role) then some (18 * (1 - plane) + role)
  else none

/-- The role of a tray port toward a slot (R237, R253). -/
def trayRole (own slot : Nat) : Nat := (slot + 4 - own) % 5

/-- The torus hop toward a tray: its role and whether it crosses the wrap link (R254). -/
def torusHop (own tray : Nat) : Nat × Bool :=
  let dx := (tray % 4 + 4 - own % 4) % 4
  let dy := (tray / 4 + 4 - own / 4) % 4
  if dx = 1 ∨ dx = 2 then (4, decide (own % 4 = 3))
  else if dx = 3 then (5, decide (own % 4 = 0))
  else if dy = 1 ∨ dy = 2 then (6, decide (own / 4 = 3))
  else (7, decide (own / 4 = 0))

/-- VC of a torus hop: 1 on the wrap link of its dimension and on every later link in it; `arrival` is the role of the port
along whose dimension the packet has come (R254). -/
def torusVc (role : Nat) (wrap : Bool) (arrival : Option Nat) (vc : Fin 2) : Fin 2 :=
  let same : Bool := match arrival with | some a => a / 2 == role / 2 && decide (4 ≤ a) && decide (a < 8) | none => false
  if wrap || (same && vc == 1) then 1 else 0

/-- The port of a stand-in detour: to slot 4 of the tray, or from slot 4 to slot 0 (R256). -/
def detourPort (s : State) (own : Coord) (plane : Nat) : Option Nat :=
  rolePort s plane (trayRole (cSlot own) (if cSlot own = 4 then 0 else 4))

/-- Where a packet leaves the device: port, VC and STANDIN; `none` discards it (R253-R256). -/
def routeOf (s : State) (arrival : Option Nat) (k : Packet) : Option (Nat × Fin 2 × Bool) :=
  let c := s.sec.coord
  let d := k.dst
  let pl := k.plane.val
  if cRow d ≠ cRow c then (levelPort s pl 16 2 ((cRack d + cRack c) % 2)).map (fun p => (p, 0, k.standin))
  else if cRack d ≠ cRack c then
    (levelPort s pl 8 8 ((cTray d + cSlot d + cTray c + cSlot c) % 8)).map (fun p => (p, 0, k.standin))
  else if cTray d ≠ cTray c then
    let h := torusHop (cTray c) (cTray d)
    match rolePort s pl h.1 with
    | some p => some (p, torusVc h.1 h.2 (arrival.map fpRole) k.vc, k.standin)
    | none => (detourPort s c pl).map (fun p => (p, 0, true))
  else
    match rolePort s pl (trayRole (cSlot c) (cSlot d)) with
    | some p => some (p, 0, k.standin)
    | none => if cSlot d = 4 ∨ cSlot c = 4 then none else (detourPort s c pl).map (fun p => (p, 0, true))

/-! ### Leaving the device -/

/-- Slots of a packet (R246). -/
def packetSlots (k : Packet) : Nat := if k.isData then ceilDiv (48 + k.body.length) 64 else 1

/-- The credit key of a network and channel. -/
def creditKey (net vc : Fin 2) : Nat := 2 * net.val + vc.val

/-- Free slots of a port's newest block. A block takes what leaves at the time it was begun; idle slots fill the rest (R246,
DESIGN CHOICE, log 93). -/
def blockRoom (s : State) (x : FPortSt) : Nat := if x.fillAt = s.now ∧ x.unacked ≠ [] then 10 - x.fill else 0

/-- New blocks that a packet takes (R243, R246). -/
def newBlocks (s : State) (x : FPortSt) (k : Packet) : Nat := ceilDiv (packetSlots k - blockRoom s x) 10

/-- The output holds credit for every slot, and its retry buffer has room (R244, R252). -/
def canLeave (s : State) (p : Nat) (k : Packet) : Bool :=
  let x := getFp s p
  decide (packetSlots k ≤ Tbl.get 0 x.credits (creditKey k.net k.vc)) && decide (x.unacked.length + newBlocks s x k ≤ 512)

/-- A change of the last element of a list. -/
def mapLast {α : Type} (f : α → α) : List α → List α
  | [] => []
  | [x] => [f x]
  | x :: y :: t => x :: mapLast f (y :: t)

/-- LS takes over a lane once the block from which both ends carry it there has been reached (R242). -/
def FPortSt.swapDue (x : FPortSt) : FPortSt :=
  match x.swapTx with
  | some (l, q) => if (x.txSeq - q).toNat < 512 then { x with spare := BitVec.ofNat 3 l.val, swapTx := none } else x
  | none => x

/-- Begins `n` blocks on a port, each with the next SEQ and the ACK of the receiving direction (R243, R244). -/
def beginBlocks (s : State) (p n fill : Nat) (pkts : List Packet) : State :=
  let x := getFp s p
  let x' := { x with
    unacked := x.unacked ++ (upto n).map (fun i => ({ seq := x.txSeq + BitVec.ofNat 10 i, pkts := pkts } : Block))
    txSeq := x.txSeq + BitVec.ofNat 10 n
    lastAck := if x.unacked.isEmpty then s.now else x.lastAck
    fill := fill
    fillAt := s.now }
  (upto n).foldl (fun t i => send t (.block (Fin.ofNat 36 p) (x.txSeq + BitVec.ofNat 10 i) x.rxSeq)) (setFp s p x'.swapDue)

/-- A packet leaves on a port: credit, blocks and HOPS advance (R244, R246, R252, R258). It begins on the next free slot. -/
def leave (s : State) (p : Nat) (k0 : Packet) : State :=
  let k := { k0 with hops := k0.hops + 1 }
  let x := getFp s p
  let key := creditKey k.net k.vc
  let n := packetSlots k
  let room := min (blockRoom s x) n
  let x1 := { x with
    credits := Tbl.set 0 x.credits key (Tbl.get 0 x.credits key - n)
    unacked := if room = 0 then x.unacked else mapLast (fun b => { b with pkts := b.pkts ++ [k] }) x.unacked
    fill := x.fill + room }
  let s1 := setFp s p x1
  let s2 := if n = room then s1 else beginBlocks s1 p (ceilDiv (n - room) 10) ((n - room - 1) % 10 + 1) [k]
  send s2 (.packet (Fin.ofNat 36 p) k)

/-- Gives input-buffer slots back to the peer (R252). -/
def giveCredit (s : State) (fp : Option Nat) (net vc : Fin 2) (slots : Nat) : State :=
  match fp with
  | some p => send s (.linkCredit (Fin.ofNat 36 p) net vc slots)
  | none => s

/-- Routes a packet onward: it leaves, waits for its output, or is discarded where no path fits (R252-R256). `credit` is the
port in whose input buffer it lies, `via` the port along whose dimension it has come. -/
def forward (s : State) (credit via : Option Nat) (k : Packet) : State :=
  match routeOf s via k with
  | none => giveCredit s credit k.net k.vc (packetSlots k)
  | some r =>
    let k' := { k with plane := Fin.ofNat 2 (fpPlane r.1), vc := r.2.1, standin := r.2.2 }
    if canLeave s r.1 k' then leave (giveCredit s credit k.net k.vc (packetSlots k)) r.1 k'
    else
      let b : BufPkt := { fp := credit.map (Fin.ofNat 36), via := via.map (Fin.ofNat 36), pkt := k, since := s.now }
      { s with fab := { s.fab with bufs := s.fab.bufs ++ [b] } }

/-! ### The device's own packets -/

/-- A packet is for this device (R253). -/
def forMe (s : State) (d : Coord) : Bool := d == s.sec.coord || s.fab.acting == some d

/-- The coordinate that a sender writes into DST: an override gives the physical one (R357). -/
def physOf (s : State) (d : Coord) : Coord :=
  match ((upto 64).map (fun i => Tbl.get ({} : Override) s.res.ovr i)).find? (fun o => o.en && o.logical == d) with
  | some o => o.physical
  | none => d

/-- The enabled binding of a tag. -/
def bindOfTag (s : State) (jtag : BitVec 16) : Option TagBind :=
  ((upto 128).map (fun i => Tbl.get ({} : TagBind) s.tags.binds i)).find? (fun b => b.en && b.jtag == jtag)

/-- A packet of one of the device's units: to the unit's own device it is delivered without leaving it, else it is routed
(R133, R253). -/
def sendPkt (s : State) (k : Packet) : State :=
  if forMe s k.dst then { s with fab := { s.fab with delivered := s.fab.delivered ++ [k] } }
  else forward s none none k

/-- The epoch under which a tag may be sent here: that of its binding; tag 0 has none (R260). -/
def sendEpoch (s : State) (jtag : BitVec 16) : Option (BitVec 4) :=
  if jtag = 0 then some 0 else (bindOfTag s jtag).map (·.tepoch)

/-- A control packet of a unit, before its CRC (Table 11.3). -/
def ctlPacket (s : State) (jtag : BitVec 16) (e unit : BitVec 4) (reply : Bool) (dst : Coord) (plane : XDie) (body : Bytes) : Packet :=
  { isData := false, net := if reply then 1 else 0, vc := 0, plane := plane, standin := false, hops := 0, jtag := jtag, tepoch := e
    unit := unit, dst := dst, src := servedCoord s, enc := false, last := false, sid := 0, sub := 0, offset := 0, inc := 0, pctr := 0
    sdie := plane, tag := 0, body := body }

/-- Sends a control packet (R248, R251). -/
def sendCtl (s : State) (jtag : BitVec 16) (unit : BitVec 4) (reply : Bool) (dst : Coord) (plane : XDie) (body : Bytes) : State :=
  match sendEpoch s jtag with
  | some e => sendPkt s (sealPacket (ctlPacket s jtag e unit reply (if forMe s dst then dst else physOf s dst) plane body) none)
  | none => s

/-- Sends a message of the collectives (UNIT 2) on the plane of its tree. -/
def sendCMsg (s : State) (h : CHdr) (dst : Coord) (m : CMsg) : State :=
  match cBody h m with
  | some b => sendCtl s h.jtag 2 m.isReply dst (Fin.ofNat 2 h.tree.val) b
  | none => s

/-- Sends a message of the fabric itself (UNIT 6, JTAG 0; R262). -/
def sendFab (s : State) (dst : Coord) (plane : XDie) (m : FabMsg) : State := sendCtl s 0 6 m.isReply dst plane (fabBody m)

end Sys2Proof.Machine
end

