-- ==== Sys2Proof/Machine/Teardown.lean ====
section
/-! DEFINITION. Tearing a context down (R330) and what a residency is charged (R322, R324). -/

namespace Sys2Proof.Machine

/-- Ends the resident context's residency, charged to a time that may lie ahead, when its save ends: its charge, its
partition's BUSY and its VT advance to then, its resident time to now (R322, R324). -/
def endResidencyAt (s : State) (p : PartI) (stop : Nat) : State :=
  let q := getPart s p
  match q.resident with
  | none => s
  | some r =>
    let c : CtxId := ⟨p, r⟩
    let x := getCtx s c
    let dc := ncores q * (stop - q.chargeStart)
    let w := max 1 (min 1000 x.weight.toNat)
    let x' := { x with
      charge := x.charge + BitVec.ofNat 64 dc
      vt := x.vt + BitVec.ofNat 64 (dc * 1000 / (w * max 1 (ncores q)))
      resAcc := x.resAcc + (s.now - q.resStart) }
    setPart (setCtx s c x') p
      { q with busy := q.busy + BitVec.ofNat 64 dc, resident := none, resEnd := stop }

/-- Ends the resident context's residency at the present time. -/
def endResidency (s : State) (p : PartI) : State := endResidencyAt s p s.now

/-- The tag's packets in the device are discarded; those in input buffers give their slots back (R252, R260). -/
def dropTag (s : State) (jtag : BitVec 16) : State :=
  let mine := s.fab.bufs.filter (fun q => q.pkt.jtag == jtag)
  let t := { s with fab := { s.fab with
    bufs := s.fab.bufs.filter (fun q => q.pkt.jtag != jtag)
    delivered := s.fab.delivered.filter (fun q => q.jtag != jtag) } }
  mine.foldl (fun u q => giveCredit u (q.fp.map Fin.val) q.pkt.net q.pkt.vc (packetSlots q.pkt)) t

/-- Retires a tag binding (R260): EN clears, its TEPOCH becomes the tag's retired epoch and the time is kept. -/
def retireBind (s : State) (i : Nat) : State :=
  let b := Tbl.get ({} : TagBind) s.tags.binds i
  if b.en then
    let t := { s.tags with
      binds := Tbl.set {} s.tags.binds i { b with en := false }
      retired := Tbl.set 15 s.tags.retired b.jtag.toNat b.tepoch
      retiredAt := Tbl.set none s.tags.retiredAt b.jtag.toNat (some s.now) }
    let m := { s.msf with highs := s.msf.highs.filter (fun e => e.1 / 2 ^ 17 % 2 ^ 16 != b.jtag.toNat) }
    mirror { dropTag s b.jtag with tags := t, msf := m } b.part (mirrorAt 4 (8 * i)) (leBytes 8 0)
  else s

/-- The enabled binding of a context. -/
def bindOf (s : State) (c : CtxId) : Option Nat :=
  (upto 128).find? (fun i =>
    let b := Tbl.get ({} : TagBind) s.tags.binds i
    b.en && decide (b.part = c.part) && decide (b.ctx = c.ctx))

/-- A context's gate sessions end on a die and its states are freed (R110, R112). -/
def clearGate (c : CtxId) (d : Die) : Die :=
  { d with
    sessions := d.sessions.filter (fun e => e.1 / 16 != CtxId.key c)
    closed := d.closed.filter (fun e => e.1 / 16 != CtxId.key c)
    waiting := d.waiting.filter (fun w => w.entry.cid != c)
    withdrawn := d.withdrawn.filter (fun w => w.entry.cid != c) }

/-- Changes every compute die. -/
def mapDies (s : State) (f : Die → Die) : State :=
  (List.finRange 4).foldl (fun t d => setDie t d (f (getDie t d))) s

/-- The waiting openings of a context that switches out are withdrawn (R112). -/
def withdrawOpenings (s : State) (c : CtxId) : State :=
  mapDies s (fun d => { d with
    waiting := d.waiting.filter (fun w => w.entry.cid != c)
    withdrawn := d.withdrawn ++ d.waiting.filter (fun w => w.entry.cid == c) })

/-- The withdrawn openings of a context that is resident again join the end of the order (R112). -/
def rejoinOpenings (s : State) (c : CtxId) : State :=
  mapDies s (fun d => { d with
    waiting := d.waiting ++ d.withdrawn.filter (fun w => w.entry.cid == c)
    withdrawn := d.withdrawn.filter (fun w => w.entry.cid != c) })

/-- The cells that a context's inbound streams hold on a die, beside chains. -/
def ctxCells (s : State) (c : CtxId) (die : XDie) : List CellRun :=
  (s.ins.filter (fun st => st.key.cid == c && st.key.plane == die)).flatMap (·.cells)

/-- A context's chains are freed, and its streams leave a die's credit order (R159, R330). A link that names no cell ends the
walk, and nothing is reported (DESIGN CHOICE, log 94). -/
def clearPool (c : CtxId) (s : State) (die : XDie) : State :=
  let s1 := setXd s die (giveRuns (getXd s die) c.part.val (ctxCells s c die))
  let s2 := ((getXd s1 die).chains.filter (fun h => h.cid == c)).foldl (fun t h => (freeChain t die h).1) s1
  let x := getXd s2 die
  setXd s2 die { x with asks := x.asks.filter (fun k => k.cid != c) }

/-- A context's exchanges and combines end, with their streams and cells. -/
def clearExchange (c : CtxId) (s : State) : State :=
  let t := clearPool c (clearPool c s 0) 1
  { t with
    xcmds := t.xcmds.filter (fun x => x.cid != c)
    ins := t.ins.filter (fun st => st.key.cid != c)
    outs := t.outs.filter (fun o => o.key.cid != c)
    kept := t.kept.filter (fun o => o.key.cid != c)
    cmbs := t.cmbs.filter (fun x => x.cid != c) }

/-- A collective ends with its context: CABORT with reason 3 along every edge, unless it has completed, and its cells are
freed (R196, R330). -/
def endColl (s : State) (k : Coll) : State :=
  let jtag := (getCtx s k.cid).desc.jtag
  let hdr := fun (e : CollEdge) =>
    ({ jtag := jtag, tree := e.tree, cid := k.id, srcRank := BitVec.ofNat 16 k.self, dstRank := BitVec.ofNat 16 e.peer } : CHdr)
  let s1 := if k.done ∨ jtag = 0 then s
    else (k.edges.filter (fun e => decide (e.level < 4))).foldl (fun t e => sendCMsg t (hdr e) (BitVec.ofNat 17 (nth 0 k.coords e.peer)) (.abort k.self 3)) s
  k.ins.foldl (fun t i =>
    let die : XDie := Fin.ofNat 2 (i.chunk % 2)
    setXd t die (giveRuns (getXd t die) k.cid.part.val i.cells)) s1

/-- A context's collectives end. -/
def clearColls (c : CtxId) (s : State) : State :=
  let t := (s.colls.filter (fun k => k.cid == c)).foldl endColl s
  { t with colls := t.colls.filter (fun k => k.cid != c) }

/-- A context's page copies stop: their pages stay where they are. -/
def clearMigs (c : CtxId) (s : State) : State :=
  let ps := (s.mem.migs.filter (fun m => m.entry.cid == c)).flatMap (fun m => m.moves.map (·.page))
  let t := ps.foldl (fun t i => setPte t i { getPte t i with moving := false }) s
  { t with mem := { t.mem with migs := t.mem.migs.filter (fun m => m.entry.cid != c) } }

/-- A context's fabric queues end, with the order entries for requests addressed to it (R330). -/
def clearMsf (c : CtxId) (s : State) : State :=
  let m := { s.msf with
    order := s.msf.order.filter (fun o => o.cid != c)
    queues := s.msf.queues.filter (fun e => e.1 / 4 != CtxId.key c)
    seqs := s.msf.seqs.filter (fun e => e.1 / 2 ^ 19 != CtxId.key c) }
  { s with msf := m }

/-- The class-2 commands and shared-unit state of a context end at its teardown (R330 steps 2 to 4). -/
def stopUnits (s : State) (c : CtxId) : State := clearMsf c (clearMigs c (clearColls c (clearExchange c (mapDies s (clearGate c)))))

/-- Removes a context's sequencers on every core. -/
def clearSeqs (s : State) (c : CtxId) : State := { s with seqs := s.seqs.filter (fun e => e.1 / 128 != CtxId.key c) }

/-- Teardown of a context (R330): from any state but ABSENT to ABSENT. What the driver set in GL_CTX_SCHED and the
counters, which bring-up clears (R332), stay. -/
def teardownCtx (s : State) (c : CtxId) : State :=
  let x := getCtx s c
  if x.state = .absent then s
  else
    let s1 := writeStatus (setCtx s c { x with state := .teardown }) c
    let s2 := match bindOf s1 c with | some i => retireBind (stopUnits s1 c) i | none => stopUnits s1 c
    let q := getPart s2 c.part
    let s3 :=
      if q.resident = some c.ctx then
        let s' := endResidency s2 c.part
        let s'' := (coresOf q).foldl zeroLs s'
        let q' := getPart s'' c.part
        setPart s'' c.part { q' with switching := none }
      else if q.switching.any (fun w => w.incoming == some c.ctx) then
        setPart s2 c.part { q with switching := none }
      else s2
    let s4 := clearSeqs s3 c
    let y := getCtx s4 c
    let s5 := writeStatus (setCtx s4 c { y with state := .absent }) c
    setCtx (mirror s5 c.part (mirrorAt 2 (128 * CtxId.key c)) (leBytes 128 0)) c { weight := y.weight, high := y.high, charge := y.charge, overrun := y.overrun, vt := y.vt }

/-- Teardown of every context of a partition that is not ABSENT (R317, R331). -/
def teardownAll (s : State) (p : PartI) : State :=
  (List.finRange 16).foldl (fun t c => teardownCtx t ⟨p, c⟩) s

end Sys2Proof.Machine
end

