-- ==== Sys2Proof/Machine/Report.lean ====
section
/-! DEFINITION. Reports: what the class of one tears down (Table 19.1), which rings receive it (R419), and the rings'
rules (R420-R426). -/

namespace Sys2Proof.Machine

/-- The class values of Table 19.1. -/
def corrected : Fin 5 := 0
def deferred : Fin 5 := 1
def contextFatal : Fin 5 := 2
def partitionFatal : Fin 5 := 3
def deviceFatal : Fin 5 := 4

/-! ### One ring -/

/-- Free entries of a ring (R421); a ring that is not enabled, and one whose companion cannot be reached, has none
(R422). -/
def ringFree (s : State) (p : RlPort) : Nat :=
  let r := getRing s p
  if r.enabled ∧ rlUp s p then 2 ^ r.log2.toNat - ahead r.tail r.head else 0

/-- The bytes of a record (Table 19.3), its CRC-32C over bytes 0 to 59. -/
def recBytes (r : ErrRec) (seq : BitVec 32) (lost : Nat) : Bytes :=
  let d := fun i => (nth (0 : BitVec 32) r.detail i).toNat
  let head := leBytes 60 (pack [(0, r.code.toNat), (16, r.cls.val), (19, b2n r.coalesced),
    (20, match r.part with | some p => p.val | none => 0), (23, match r.ctx with | some c => c.val | none => 0),
    (27, b2n r.part.isSome), (28, b2n r.ctx.isSome), (32, seq.toNat), (64, r.ftime.toNat), (128, r.count),
    (144, min lost 0xFFFF), (160, r.srcUnit.toNat), (167, r.srcInst.toNat), (192, r.cmdPos.toNat),
    (224, r.listPos.toNat), (256, d 0), (288, d 1), (320, d 2), (352, d 3), (384, d 4), (416, d 5), (448, d 6)])
  head ++ leBytes 4 (crc32c head).toNat

/-- Writes one record at the ring's tail and then TAIL on the control line (R420, R421, R425). -/
def ringWrite (s : State) (p : RlPort) (r : ErrRec) : State :=
  let g := getRing s p
  let s1 := writeComp s p (g.base.toNat + 64 * (g.tail.toNat % 2 ^ g.log2.toNat)) (recBytes r g.seq g.lost)
  let s2 := writeComp s1 p (g.line.toNat + 64) (leBytes 4 (g.tail + 1).toNat)
  setRing s2 p { g with tail := g.tail + 1, seq := g.seq + 1, lost := 0 }

/-- Drops occurrences of a CORRECTED or DEFERRED report (R425). -/
def ringDrop (s : State) (p : RlPort) (cls : Fin 5) (n : Nat) : State :=
  let g := getRing s p
  setRing s p { g with
    lost := g.lost + n
    lostCorr := if cls = corrected then satAdd g.lostCorr n else g.lostCorr
    lostDef := if cls = corrected then g.lostDef else satAdd g.lostDef n }

/-- A CORRECTED or DEFERRED record is written only when more than 16 entries are free (R425). -/
def ringOffer (s : State) (p : RlPort) (r : ErrRec) : State :=
  if 16 < ringFree s p then ringWrite s p r else ringDrop s p r.cls r.count

/-- A fatal record is written when any entry is free, and otherwise waits in the hold queue (R426). -/
def ringFatal (s : State) (p : RlPort) (r : ErrRec) : State :=
  if 0 < ringFree s p ∧ (getRing s p).hold = [] then ringWrite s p r
  else setRing s p { getRing s p with hold := (getRing s p).hold ++ [r] }

/-- Writes held records, in order, while entries are free (R426). -/
def ringDrain : Nat → State → RlPort → State
  | 0, s, _ => s
  | n + 1, s, p =>
    match (getRing s p).hold with
    | [] => s
    | r :: t =>
      if 0 < ringFree s p then ringDrain n (ringWrite (setRing s p { getRing s p with hold := t }) p r) p else s

/-- The key of a coalescing entry matches (R424). -/
def coalKey (a b : ErrRec) : Bool :=
  a.code == b.code && a.srcUnit == b.srcUnit && a.srcInst == b.srcInst && a.part == b.part && a.ctx == b.ctx

/-- Closes one coalescing entry: with a count above 0 it writes one record (R424 rule 3). -/
def coalClose (s : State) (p : RlPort) (c : Coal) : State :=
  let g := getRing s p
  let s1 := setRing s p { g with coal := g.coal.filter (fun x => !coalKey x.record c.record) }
  if c.count = 0 then s1
  else ringOffer s1 p { c.record with coalesced := true, count := c.count, ftime := c.firstCounted }

/-- Closes every coalescing entry whose time has ended, in the order they stand (R424). -/
def coalExpire (s : State) (p : RlPort) : State :=
  ((getRing s p).coal.filter (fun c => decide (c.endsAt ≤ s.now))).foldl (fun t c => coalClose t p c) s

/-- A report reaches one ring's collector (R423-R426). -/
def ringReport (s0 : State) (p : RlPort) (r : ErrRec) : State :=
  let s := coalExpire s0 p
  if 2 ≤ r.cls.val then ringFatal s p r
  else
    let g := getRing s p
    match g.coal.find? (fun c => coalKey c.record r) with
    | some c =>
      if c.count < 65535 then
        let c' : Coal := { c with
          record := { c.record with detail := r.detail, cls := r.cls, cmdPos := r.cmdPos, listPos := r.listPos }
          count := c.count + 1
          firstCounted := if c.count = 0 then r.ftime else c.firstCounted }
        setRing s p { g with coal := replaceFirst (fun x => coalKey x.record r) (fun _ => c') g.coal }
      else ringDrop s p r.cls 1
    | none =>
      let s1 :=
        if g.coal.length < 64 then
          setRing s p { g with coal := g.coal ++
            [{ record := r, count := 0, firstCounted := r.ftime, endsAt := s.now + 1000 * s.err.coalUs.toNat }] }
        else s
      ringOffer s1 p r

/-! ### Which rings -/

/-- The rings that a report goes to (R419). -/
def reportRings (s : State) (r : Report) : List RlPort :=
  match r.ring with
  | some p => [p]
  | none =>
    match r.part, r.ctx with
    | some p, some c => [(getCtx s ⟨p, c⟩).desc.rport]
    | _, _ => [0, 1]

/-- The record of a report (R420). -/
def toRec (s : State) (r : Report) : ErrRec :=
  { code := r.code, cls := r.cls, coalesced := false, part := r.part, ctx := r.ctx, ftime := fabricTime s, count := 1,
    srcUnit := r.srcUnit, srcInst := r.srcInst, cmdPos := r.cmdPos, listPos := r.listPos, detail := r.detail.take 7 }

/-- Gives a report to the collectors of its rings. -/
def toRings (s : State) (r : Report) : State :=
  let e := toRec s r
  (reportRings s r).foldl (fun t p => ringReport t p e) s

/-- Counts a suppressed fatal report on its rings (R426). -/
def toSecondary (s : State) (r : Report) : State :=
  (reportRings s r).foldl
    (fun t p => setRing t p { getRing t p with secondary := satAdd (getRing t p).secondary 1 }) s

/-! ### What a class tears down -/

/-- The lowest ring position among some and a start (32-bit counts behind the hand-over position). -/
def lowestPos (head : BitVec 32) (l : List (BitVec 32)) (x : BitVec 32) : BitVec 32 :=
  l.foldl (fun m y => if ahead head m < ahead head y then y else m) x

/-- STOPIDX (R299): the lowest ring position among the commands that did not issue. `rej` is the position of a command
rejected at issue. -/
def stopIndex (s : State) (c : CtxId) (rej : Option (BitVec 32)) : BitVec 32 :=
  let x := getCtx s c
  let pend := (coresOf (getPart s c.part)).flatMap (fun k =>
    let q := getSeq s c k
    q.queue.map (·.pos) ++ (match q.list with | some l => if l.next < l.ncmd then [l.wait.pos] else [] | none => []))
  lowestPos x.cmdHead (pend ++ (match rej with | some p => [p] | none => [])) x.cmdHead

/-- A CONTEXT_FATAL error makes the context FAULTED (R299, R330): it loses its work and its partition decides again. -/
def faultCtx (s : State) (c : CtxId) (code : BitVec 16) (rej : Option (BitVec 32)) : State :=
  let x := getCtx s c
  if x.state = .ready ∨ x.state = .bringup then
    let s1 := setCtx s c { x with state := .faulted, ecode := code, stopIdx := stopIndex s c rej }
    onLose (writeStatus s1 c) c.part
  else s

/-- A PARTITION_FATAL error makes the partition FAULTED and tears down its contexts (R331). -/
def faultPart (s : State) (p : PartI) : State :=
  let s1 := setPart s p { getPart s p with state := .faulted }
  let s2 := teardownAll s1 p
  setPart s2 p { getPart s2 p with resident := none, switching := none }

/-- A DEVICE_FATAL error stops the device: every quad, unit and memory stops and DOWN is sent to the tray. The first is
latched in ERR_FATAL (R426, Table 19.1). -/
def stopDevice (s : State) (code : BitVec 16) : State :=
  if s.gl.stopped then s
  else send { s with
    gl := { s.gl with stopped := true }
    err := { s.err with fatalCode := code, fatalTime := fabricTime s } } .down

/-- The weight of a report in the risk score (Table 19.6). -/
def riskWeight (code : BitVec 16) (cls : Fin 5) : Nat :=
  if code = Code.eMemCe then 1
  else if code = Code.eMemUe then 250
  else if code = Code.eCollResidue ∧ cls = corrected then 100
  else if code = Code.ePwrSelftest ∧ cls = corrected then 500
  else if code = Code.eFabLane then (if cls = corrected then 50 else 200)
  else if code = Code.ePwrDroop then 20
  else if code = Code.ePwrAging then 200
  else 0

/-- A report reaches the collectors and its class acts (R417-R426). `rej` is the ring position of a command rejected at
issue. -/
def reportReal (s0 : State) (r : Report) (rej : Option (BitVec 32)) : State :=
  let s := { s0 with err := { s0.err with minute := s0.err.minute + riskWeight r.code r.cls } }
  match r.cls.val, r.part, r.ctx with
  | 2, some p, some c =>
    let x := getCtx s ⟨p, c⟩
    if x.fatalSeen then toSecondary s r
    else faultCtx (toRings (setCtx s ⟨p, c⟩ { x with fatalSeen := true }) r) ⟨p, c⟩ r.code rej
  | 3, some p, _ =>
    let q := getPart s p
    if q.fatalSeen then toSecondary s r
    else faultPart (toRings (setPart s p { q with fatalSeen := true }) r) p
  | 4, _, _ => stopDevice (toRings s r) r.code
  | _, _, _ => toRings s r

/-- A report, or the model's own mark that an access must wait for a line that a companion holds modified. -/
def reportRej (s : State) (r : Report) (rej : Option (BitVec 32)) : State :=
  if r.code = Code.cohRead ∨ r.code = Code.cohWrite then
    { s with msf := { s.msf with wait := some (r.code == Code.cohRead) } }
  else reportReal s r rej

/-- A report reaches the collectors and its class acts. -/
def report (s : State) (r : Report) : State := reportRej s r none

/-- A report of the device, without a partition, from a unit. -/
def devReport (code : BitVec 16) (cls : Fin 5) (unit : BitVec 7) (inst : Nat) (detail : List (BitVec 32)) : Report :=
  { code := code, cls := cls, part := none, ctx := none, ring := none, srcUnit := unit, srcInst := BitVec.ofNat 9 inst,
    cmdPos := 0xFFFFFFFF, listPos := 0, detail := detail }

/-- A report about a port or semaphore, on one ring (R288, R291, R292). -/
def portReport (code : BitVec 16) (p : RlPort) (detail : List (BitVec 32)) : Report :=
  { code := code, cls := deferred, part := none, ctx := none, ring := some p, srcUnit := 14,
    srcInst := BitVec.ofNat 9 p.val, cmdPos := 0xFFFFFFFF, listPos := 0, detail := detail }

/-- A report about a context that concerns no command. -/
def ctxReport (code : BitVec 16) (cls : Fin 5) (c : CtxId) (unit : BitVec 7) (inst : Nat)
    (detail : List (BitVec 32)) : Report :=
  { code := code, cls := cls, part := some c.part, ctx := some c.ctx, ring := none, srcUnit := unit,
    srcInst := BitVec.ofNat 9 inst, cmdPos := 0xFFFFFFFF, listPos := 0, detail := detail }

/-- A report about a partition. -/
def partReport (code : BitVec 16) (cls : Fin 5) (p : PartI) (unit : BitVec 7) (inst : Nat)
    (detail : List (BitVec 32)) : Report :=
  { code := code, cls := cls, part := some p, ctx := none, ring := none, srcUnit := unit,
    srcInst := BitVec.ofNat 9 inst, cmdPos := 0xFFFFFFFF, listPos := 0, detail := detail }

/-- A report about a command of a context. -/
def cmdReport (code : BitVec 16) (cls : Fin 5) (e : Entry) (unit : BitVec 7) (inst : Nat)
    (detail : List (BitVec 32)) : Report :=
  { code := code, cls := cls, part := some e.cid.part, ctx := some e.cid.ctx, ring := none, srcUnit := unit,
    srcInst := BitVec.ofNat 9 inst, cmdPos := e.pos, listPos := if e.fromList then e.listPos else 0, detail := detail }

/-- The words of a value in a record's DETAIL: one word up to 32 bits wide, else two (R420). -/
def detail64 (v : Nat) : List (BitVec 32) := [BitVec.ofNat 32 v, BitVec.ofNat 32 (v / 2 ^ 32)]

end Sys2Proof.Machine
end

