-- ==== Sys2Proof/Machine/FabData.lean ====
section
/-! DEFINITION. Data packets of the device's units: payload size, protection, counters (R249, R263, R266), and the fabric's
reports. -/

namespace Sys2Proof.Machine

/-- A report of a fabric port (Table 19.4, unit 11). -/
def fabReport (code : BitVec 16) (cls : Fin 5) (p : Nat) (detail : List (BitVec 32)) : Report := devReport code cls 11 p detail

/-- An address that this device decodes itself and that carries a reserved slot value: it goes nowhere and is reported (R6). No
port brought it, so the report names port 0 (DESIGN CHOICE, log 90). -/
def badCoord (s : State) : State := report s (fabReport Code.eFabCoord deferred 0 [])

/-- A packet that matters to the route function by its destination and plane only. -/
def probePacket (dst : Coord) (plane : XDie) : Packet :=
  { isData := true, net := 0, vc := 0, plane := plane, standin := false, hops := 0, jtag := 0, tepoch := 0, unit := 0, dst := dst
    src := 0, enc := false, last := false, sid := 0, sub := 0, offset := 0, inc := 0, pctr := 0, sdie := plane, tag := 0, body := [] }

/-- The KFP2 port through which a destination is reached, if it is one (R266). -/
def kfp2Port (s : State) (dst : Coord) (plane : XDie) : Option Nat :=
  if forMe s dst then none
  else
    match routeOf s none (probePacket (physOf s dst) plane) with
    | some r => if (getFp s r.1).kfp2 then some r.1 else none
    | none => none

/-- Payload bytes of a full data packet toward a destination: 2,048, or 1,024 where KFP2 leads there (R134, R266). -/
def packetBytes (s : State) (dst : Coord) (plane : XDie) : Nat := if (kfp2Port s dst plane).isSome then 1024 else 2048

/-- The binding under which a context sends to a destination; none within the device, which no fabric crosses. -/
def sendBind (s : State) (c : CtxId) (dst : Coord) : Option (Nat × TagBind) :=
  if forMe s dst then none else (bindOf s c).map (fun i => (i, Tbl.get ({} : TagBind) s.tags.binds i))

/-- Why `n` data packets of a context may not go to a destination: a protected payload, or an epoch other than 0, toward KFP2
(E_FAB_KFP2; for the epoch DESIGN CHOICE, log 95), or a packet counter that would wrap (E_FAB_IV) (R263, R266). -/
def dataRefused (s : State) (c : CtxId) (dst : Coord) (plane : XDie) (n : Nat) : Option Report :=
  match sendBind s c dst, kfp2Port s dst plane with
  | none, _ => none
  | some (i, b), k =>
    match (if b.enc || b.tepoch != 0 then k else none) with
    | some p => some (ctxReport Code.eFabKfp2 contextFatal c 11 p [])
    | none =>
      if 2 ^ 64 ≤ (Tbl.get 0 s.tags.pctr (2 * i + plane.val)).toNat + n then some (ctxReport Code.eFabIv contextFatal c 11 0 [])
      else none

/-- The key under which a binding's payloads go: none for a binding without protection; a protected one asks XD0's security
block for its slot, which serves both dies alike (R13, R263). The outer `none`: the block cannot serve it. -/
def bindKey (s : State) (b : TagBind) : Option (Option (BitVec 256)) :=
  if !b.enc then some none
  else if (getKey s b.keySlot).valid then some (some (getKey s b.keySlot).key)
  else none

/-- What a data packet carries beside its payload: its unit, network, SID, SUB and whether it is a reply. -/
structure DataHead where
  unit : BitVec 4
  reply : Bool
  sid : BitVec 16
  sub : BitVec 8
  deriving DecidableEq, Repr

/-- A data packet before its protection (Table 11.4). -/
def dataPacket (s : State) (jtag : BitVec 16) (e : BitVec 4) (enc : Bool) (dst : Coord) (plane : XDie) (h : DataHead) (offset : Nat)
    (last : Bool) (pctr : BitVec 64) (body : Bytes) : Packet :=
  { isData := true, net := if h.reply then 1 else 0, vc := 0, plane := plane, standin := false, hops := 0, jtag := jtag, tepoch := e
    unit := h.unit, dst := dst, src := servedCoord s, enc := enc, last := last, sid := h.sid, sub := h.sub
    offset := BitVec.ofNat 40 offset, inc := Tbl.get 0 s.fab.inc (servedCoord s).toNat, pctr := pctr, sdie := plane, tag := 0
    body := body }

/-- Sends one data packet of a context (R249, R263). Within the device it goes as it is. -/
def sendData (s : State) (c : CtxId) (dst : Coord) (plane : XDie) (h : DataHead) (offset : Nat) (last : Bool) (body : Bytes) : State :=
  let jtag := (getCtx s c).desc.jtag
  if forMe s dst then sendPkt s (sealPacket (dataPacket s jtag 0 false dst plane h offset last 0 body) none)
  else
    match sendBind s c dst with
    | none => s
    | some (i, b) =>
      let n := Tbl.get 0 s.tags.pctr (2 * i + plane.val)
      let t := { s with tags := { s.tags with pctr := Tbl.set 0 s.tags.pctr (2 * i + plane.val) (n + 1) } }
      match bindKey s b with
      | none => s
      | some key => sendPkt t (sealPacket (dataPacket s jtag b.tepoch b.enc (physOf s dst) plane h offset last n body) key)

/-- Sends bytes of a stream or chunk in data packets from an offset on; `closes`: the last of them is the last of all. What may
not go is reported for the context (R263, R266). -/
def sendRun (s : State) (c : CtxId) (dst : Coord) (plane : XDie) (h : DataHead) (offset : Nat) (closes : Bool) (bytes : Bytes) : State :=
  let size := packetBytes s dst plane
  let ps := pieces size bytes.length bytes
  match dataRefused s c dst plane ps.length with
  | some r => report s r
  | none =>
    (ps.zipIdx).foldl (fun t q => sendData t c dst plane h (offset + size * q.2) (closes && q.2 + 1 == ps.length) q.1) s

end Sys2Proof.Machine
end

