-- ==== Sys2Proof/Machine/UniWrite.lean ====
section
/-! DEFINITION. Writing the unified range: the pre-images and mirrors of a protected partition (R343-R347), page copies
in progress (R221), and undefined destinations (R236). -/

namespace Sys2Proof.Machine

/-- Bytes in a parity piece (R343). -/
def parityPiece : Nat := 65536

/-- The protection class of a page: 1 PARITY, 2 MIRROR, 0 SCRATCH (R334). -/
def pageClass (r : ResPart) (page : Nat) : Nat :=
  match r.table.find? (fun t => t.cls != 0 && decide (t.first.toNat ≤ page) && decide (page < t.first.toNat + t.npage.toNat)) with
  | some t => t.cls.toNat
  | none => 0

/-- The bytes a piece of a partition's page holds now. -/
def pieceBytes (s : State) (p : PartI) (k : Nat) : Bytes :=
  match places s p (pieceAddr k) parityPiece with
  | .ok l => readPlaces s l
  | .error _ => []

/-- The pool's lowest free slot. -/
def poolFree (r : ResPart) : Nat := ((upto ((poolUsed r).length + 1)).find? (fun i => !(poolUsed r).contains i)).getD 0

/-- Bytes that the protection itself keeps in a partition's pages. -/
def keepBytes (s : State) (p : PartI) (a : Nat) (bs : Bytes) : State :=
  match places s p a bs.length with
  | .ok l => writePlaces s l bs
  | .error _ => s

/-- A pre-image is copied into a slot of the partition's pool at XD_RES_POOL_p (R343). -/
def poolWrite (s : State) (p : PartI) (slot : Nat) (bs : Bytes) : State :=
  keepBytes s p ((getRes s p).poolBase.toNat + parityPiece * slot) bs

/-- The other actives of the tray. -/
def trayActives (s : State) : List Coord :=
  ((upto 4).map (fun i => BitVec.ofNat 17 (s.sec.coord.toNat / 8 * 8 + i))).filter (· != s.sec.coord)

/-- A piece is marked RESYNC: the other actives of the tray learn that it goes whole at the next mark (R345, DESIGN CHOICE, log 108). -/
def sendResync (s : State) (p : PartI) (k : Nat) : State := (trayActives s).foldl (fun t d => send t (.resync d p k)) s

/-- A survivor tells the Standby that it overwrites a piece still to rebuild (R356). -/
def tellStandby (s : State) (p : PartI) (k : Nat) : State :=
  if s.res.unrebuilt.contains (p.val * 2 ^ 26 + k) then send s (.aboutToWrite p k) else s

/-- The first write after a mark to a PARITY piece copies its pre-image into the pool, or marks it RESYNC when the pool is full
and reports E_RES_POOL (R343, R345). While the tray is EXPOSED, only a piece that the Standby has still to rebuild is kept (R356). -/
def touchPiece (s : State) (p : PartI) (k : Nat) : State :=
  let r := getRes s p
  if r.state = .exposed ∧ !s.res.unrebuilt.contains (p.val * 2 ^ 26 + k) then s
  else
    match r.dirty.find? (fun d => d.piece == k) with
    | some d =>
      if d.dirty then s
      else setRes s p { r with dirty := replaceFirst (fun x => x.piece == k) (fun x => { x with dirty := true }) r.dirty }
    | none =>
      if (poolUsed r).length < r.poolSize.toNat then
        let b := pieceBytes s p k
        let d : DirtyPiece := { piece := k, pre := some b, base := some b, dirty := true, slot := poolFree r }
        tellStandby (poolWrite (setRes s p { r with dirty := r.dirty ++ [d] }) p (poolFree r) b) p k
      else
        report (sendResync (setRes s p { r with dirty := r.dirty ++ [{ piece := k, pre := none, base := none, dirty := true }] }) p k)
          (partReport Code.eResPool deferred p 19 0 [])

/-- What a write of one page's bytes does for protection on an active: PARITY pieces are kept, MIRROR writes sent. The
protector's own pages hold parity and copies (R336). -/
def protectWrite (s : State) (p : PartI) (a : Nat) (bs : Bytes) : State :=
  let r := getRes s p
  if r.state = .off ∨ s.res.role ≠ 0 then s
  else
    match pageIndex a with
    | none => s
    | some i =>
      match pageClass r i with
      | 1 =>
        let k0 := 32 * i + a % pageSize / parityPiece
        let k1 := 32 * i + (a % pageSize + bs.length - 1) / parityPiece
        (upto (k1 - k0 + 1)).foldl (fun t j => touchPiece t p (k0 + j)) s
      | 2 => send s (.mirrorWrite p a bs)
      | _ => s

/-- Protects each page of a run in ascending address. -/
def protectRun : Nat → State → PartI → Nat → Bytes → State
  | 0, s, _, _, _ => s
  | fuel + 1, s, p, a, bs =>
    if bs.isEmpty then s
    else
      let k := pageSize - a % pageSize
      protectRun fuel (protectWrite s p a (bs.take k)) p (a + k) (bs.drop k)

/-- The coordinate or port of a holder: INV and RECALL go to a tray slot over the fabric, to a companion over the device's
own Ryutil port to it (Table 12.5). -/
def toHolder (s : State) (h line : Nat) (m : MsfMsg) : State :=
  if h < 5 then sendCtl s 0 m.unit m.isReply (BitVec.ofNat 17 ((servedCoord s).toNat / 8 * 8 + h)) (Fin.ofNat 2 line) (msfBody m)
  else send s (.companion (Fin.ofNat 2 (h - 5)) m)

/-- The holders of a sharer vector. -/
def holdersOf (v : BitVec 7) : List Nat := (upto 7).filter (fun i => v.getLsbD i)

/-- A write of the device that cannot wait (what a fault leaves undefined, a report's effect): sharers of its lines get INV and a
line held modified is recalled, while the write applies at once (R281, DESIGN CHOICE, log 18). -/
def dirLocalWrite (s : State) (a n : Nat) : State :=
  s.msf.dir.foldl (fun t e =>
    if a < (e.line + 1) * 128 ∧ e.line * 128 < a + n ∧ e.acks = 0 ∧ e.recalling = none then
      let put := fun (u : State) (x : DirEnt) =>
        { u with msf := { u.msf with dir := replaceFirst (fun y => y.line == e.line) (fun _ => x) u.msf.dir } }
      match e.st with
      | .shared v => put ((holdersOf v).foldl (fun u h => toHolder u h e.line (.inv (e.line * 128))) t) { e with acks := v }
      | .modified o => put (toHolder t o.val e.line (.recallLine (servedCoord s) false (e.line * 128))) { e with recalling := some false }
    else t) s

/-- Writes the unified range for a partition without regard to the tray directory, or gives the code of the failure and
writes nothing (R216). -/
def writeHome (s : State) (p : PartI) (a : Nat) (bs : Bytes) : Except (BitVec 16) State :=
  match places s p a bs.length with
  | .error e => .error e
  | .ok l =>
    match lentRefused s l with
    | some e => .error e
    | none => .ok (writePlaces (protectRun (bs.length / pageSize + 2) s p a bs) l bs)

/-- A run of device-local bytes reaches a line that others share (R281). -/
def onShared (s : State) (a n : Nat) : Bool :=
  s.msf.dir.any (fun e =>
    (match e.st with | .modified _ => false | .shared v => v != 0 || e.acks != 0) &&
    decide (a < (e.line + 1) * 128) && decide (e.line * 128 < a + n))

/-- A write of the unified range by the device itself (R216, R281). What may wait does so while others share the line. -/
def writeUni (s : State) (p : PartI) (a : Nat) (bs : Bytes) : Except (BitVec 16) State :=
  match writeHome s p a bs with
  | .error e => .error e
  | .ok t =>
    if heldWrite s p a bs.length || (s.msf.coh && onShared s a bs.length) then .error Code.cohWrite
    else .ok (dirLocalWrite t a bs.length)

/-- `n` fresh free bytes, from a counter value. -/
def freeBytes (k : Nat) : Nat → Bytes
  | 0 => []
  | n + 1 => Config.freeByte k :: freeBytes (k + 1) n

/-- A destination in the unified range that a fault leaves undefined holds free bytes (R236); what cannot be written is
not. -/
def havocUni (s : State) (p : PartI) (a n : Nat) : State :=
  match writeHome (takeFree s n) p a (freeBytes s.free n) with
  | .ok t => dirLocalWrite t a n
  | .error _ => s

/-- A destination in a local store that a fault leaves undefined holds free bytes. -/
def havocLs (s : State) (core a n : Nat) : State := writeLs (takeFree s n) core a (freeBytes s.free n)

end Sys2Proof.Machine
end

