-- ==== Sys2Proof/Machine/Issue.lean ====
section
/-! DEFINITION. Issuing a command from a sequencer (R93, R94, R99, R297, R325) and completing it (R298). -/

namespace Sys2Proof.Machine

/-- Why a command is rejected at issue: its code, the DETAIL of the record. -/
structure OpErr where
  code : BitVec 16
  detail : List (BitVec 32)
  deriving DecidableEq, Repr

/-- What the checks of a command find: it is rejected, it cannot issue yet, or it may issue with these scoreboard
ranges (in the order in which the descriptor's fields stand). -/
inductive Prep where
  | reject (e : OpErr)
  | stall
  | go (ranges : List Range)
  deriving DecidableEq, Repr

/-- How a command that has taken its effect stands: running on a shared unit, ended (COMMAND_COMPLETE completes it), or
complete at issue. -/
inductive Ended where
  | running
  | ended (o : Outcome)
  | atOnce (o : Outcome)
  deriving DecidableEq, Repr

/-- STATUS 0 OK. -/
def okOutcome : Outcome := { status := 0, ecode := 0 }

/-- STATUS 1 SKIPPED (R44). -/
def skippedOutcome : Outcome := { status := 1, ecode := 0 }

/-- STATUS 2 FAULT with a code. -/
def faultOutcome (code : BitVec 16) : Outcome := { status := 2, ecode := code }

/-- Rejects with a code and no DETAIL. -/
def rejectWith (code : BitVec 16) : Prep := .reject { code := code, detail := [] }

/-! ### Completion -/

/-- A command in flight, by its ring and list position. -/
def isEntry (pos listPos : BitVec 32) (f : InFlight) : Bool :=
  f.entry.pos == pos && (if f.entry.fromList then f.entry.listPos == listPos else listPos == 0)

/-- The identifier of an exchange or collective command that R349 keeps: OP_EXCHANGE, OP_COMBINE, the collectives and
OP_A2A, by opcode. -/
def retainId (d : Desc) : Option (Nat × BitVec 16) :=
  let op := fld d 0 16
  if op = 0x0304 then some (op, BitVec.ofNat 16 (fld d 66 16))
  else if op = 0x0305 then some (op, BitVec.ofNat 16 (fld d 284 16))
  else if op = 0x0404 then some (op, BitVec.ofNat 16 (fld d 152 16))
  else if 0x0400 ≤ op ∧ op ≤ 0x0403 then some (op, BitVec.ofNat 16 (fld d 297 16))
  else none

/-- A context of a protected partition keeps its completed exchange and collective commands of the epoch, 1,024 at most; past
them a failure in the epoch falls to the last line, and the protector learns it (R349). -/
def retain (s : State) (e : Entry) : State :=
  match retainId e.desc with
  | none => s
  | some k =>
    let r := getRes s e.cid.part
    let x := getCtx s e.cid
    if r.state ≠ .prot then s
    else if x.retained.length < 1024 then setCtx s e.cid { x with retained := x.retained ++ [k] }
    else if r.retainLost then s
    else
      let s1 := mirror (setRes s e.cid.part { r with retainLost := true }) e.cid.part (mirrorAt 11 (CtxId.key e.cid)) [1]
      report s1 (cmdReport Code.eRetainFull deferred e 19 0 [])

/-- The bank-conflict cycles of a command that completes are counted, and reported when they exceed CONF_PCT percent of its
cycles (R102). A command that recorded no range, and one that was skipped, has made no access. -/
def countConflicts (s : State) (core : Nat) (f : InFlight) : State :=
  if f.ranges.isEmpty ∨ f.fin = some skippedOutcome then s
  else
    let cycles := Config.commandCycles s.free
    let conf := Config.conflictCycles s.free
    let c := getCore s core
    let t := setCore (takeFree s 1) core { c with conflict := satAdd c.conflict conf.toNat }
    let pct := (getCtx s f.entry.cid).desc.confPct.toNat
    if pct ≠ 0 ∧ pct * cycles.toNat < 100 * conf.toNat then
      report t (cmdReport Code.eLsBankConflict corrected f.entry 0 core
        [if f.entry.fromList then f.entry.listPos else f.entry.pos, cycles, conf])
    else t

/-- A completed command leaves its core: its entry and ranges are free, and the core may stand still from now on (R323). -/
def leaveSeq (s : State) (core : Nat) (e : Entry) : State :=
  let q := getSeq s e.cid core
  let q' := { q with inflight := removeFirst (fun g => g.entry == e && g.fin.isSome) q.inflight }
  setSeq s e.cid core (if fld e.desc 24 2 < 2 then { q' with idleSince := s.now } else q')

/-- A command that has ended completes (R298): its entry and ranges are freed and its record is written when due. While
the completion ring is full it holds its record, entry and ranges. -/
def finish (s : State) (core : Nat) (e : Entry) : State :=
  let q := getSeq s e.cid core
  match q.inflight.find? (fun f => f.entry == e && f.fin.isSome) with
  | none => s
  | some f =>
    let o := f.fin.getD okOutcome
    let x := getCtx s e.cid
    if needsRecord e o && rlUp s x.desc.rport && cplRingFull x then
      if f.heldAt.isSome then s
      else setSeq s e.cid core { q with
        inflight := replaceFirst (fun g => g.entry == e && g.fin.isSome)
          (fun g => { g with heldAt := some (residentClock s e.cid) }) q.inflight }
    else
      let s1 := leaveSeq (countConflicts s core f) core e
      let s2 := if needsRecord e o then writeCpl s1 e o else s1
      onLose (if o.status = 0 then retain s2 e else s2) e.cid.part

/-- Marks a command in flight as ended. -/
def endCmd (s : State) (core : Nat) (e : Entry) (o : Outcome) : State :=
  let q := getSeq s e.cid core
  setSeq s e.cid core { q with inflight := replaceFirst (fun f => f.entry == e && f.fin.isNone) (fun f => { f with fin := some o }) q.inflight }

/-- A command in flight stops with a fault: CONTEXT_FATAL is reported and its record will carry FAULT. -/
def faultCmd (s : State) (core : Nat) (e : Entry) (unit : BitVec 7) (inst : Nat) (err : OpErr) : State :=
  endCmd (report s (cmdReport err.code contextFatal e unit inst err.detail)) core e (faultOutcome err.code)

/-! ### Issue -/

/-- The next command of a handed list: the bytes at its place (R310). -/
def listDesc (s : State) (c : CtxId) (l : ListRun) : Option Desc :=
  match readUni s c.part (l.base.toNat + 64 * l.next) 64 with
  | .ok bs => some (BitVec.ofNat 512 (leNat bs))
  | .error _ => none

/-- The entry stands next at a sequencer: at the queue's front, or next in the list that a PLAN wait runs (R297, R310). -/
def atFront (s : State) (e : Entry) (q : Seq) : Bool :=
  match q.block with
  | none => !e.fromList && q.queue.head? == some e
  | some b =>
    match b.kind, q.list with
    | .plan, some l =>
      e.fromList && e.pos == l.wait.pos && e.listPos.toNat == l.next && decide (l.next < l.ncmd) &&
      listDesc s e.cid l == some e.desc
    | _, _ => false

/-- OP_STEP_STATUS and OP_EPOCH_MARK hold back every later command of their context until they have completed (R41,
R338). -/
def isGate (e : Entry) : Bool := fld e.desc 0 16 == 0x0602 || fld e.desc 0 16 == 0x0503

/-- An earlier OP_STEP_STATUS or OP_EPOCH_MARK of the context has not completed. -/
def gateHeld (s : State) (e : Entry) : Bool :=
  (coresOf (getPart s e.cid.part)).any (fun k =>
    let q := getSeq s e.cid k
    q.queue.any (fun g => isGate g && earlier g.pos e.pos) ||
    q.inflight.any (fun f => isGate f.entry && (earlier f.entry.pos e.pos || f.entry.pos == e.pos)))

/-- A self-test slice holds the quad of a core, or its cores are to stop for one (R413). -/
def quadHeld (s : State) (core : Nat) : Bool := (getQuad s (core / 4)).slice || (getQuad s (core / 4)).stopReq.isSome

/-- No WHOLE command still runs on a core: each has completed, though a full completion ring may hold its record, or was
stopped at its cap (R326, R327). -/
def coreStopped (q : Seq) : Bool :=
  q.inflight.all (fun f => decide (fld f.entry.desc 24 2 ≠ 1) || f.heldAt.isSome || f.capped)

/-- The core that would issue the command, when it stands next there, its context may issue and no self-test slice holds
its quad (R297, R299, R320, R328, R338, R413). -/
def issuer (s : State) (e : Entry) : Option Nat :=
  let x := getCtx s e.cid
  let p := getPart s e.cid.part
  let core := coreAt p (fld e.desc 16 7)
  if unitsRun s && decide (x.state = .ready) && decide (p.state = .active) && p.resident == some e.cid.ctx &&
      p.switching.isNone && decide (fld e.desc 16 7 < ncores p) && !quadHeld s core &&
      atFront s e (getSeq s e.cid core) && !gateHeld s e
  then some core else none

/-- The entry leaves the front of the queue or list. -/
def takeFront (q : Seq) (e : Entry) : Seq :=
  if e.fromList then { q with list := q.list.map (fun l => { l with next := l.next + 1 }) }
  else { q with queue := q.queue.drop 1 }

/-- A command rejected at issue: CONTEXT_FATAL, and a FAULT record although it did not issue (R298, R299). Until the record
is written it holds an entry of the core, and so it stalls like any other while eight are in flight (R94). -/
def rejectCmd (s : State) (core : Nat) (e : Entry) (err : OpErr) : State :=
  let q0 := getSeq s e.cid core
  if 8 ≤ q0.flights then setSeq s e.cid core { q0 with stallCause := 1 }
  else
    let s1 := reportRej s (cmdReport err.code contextFatal e 0 core err.detail) (some e.pos)
    let q := getSeq s1 e.cid core
    let f : InFlight := { entry := e, ranges := [], due := .now, fin := some (faultOutcome err.code), issuedAt := s.now }
    let q' := takeFront q e
    finish (setSeq s1 e.cid core { q' with inflight := q'.inflight ++ [f], stallCause := 0 }) core e

/-- Two granule ranges overlap. -/
def overlaps (a b : Range) : Bool := decide (a.lo ≤ b.hi) && decide (b.lo ≤ a.hi)

/-- A range overlaps a slot's region. -/
def onSlot (r : Range) (t : Slot) : Bool :=
  t.valid && decide (r.lo < t.base64.toNat + t.size64.toNat) && decide (t.base64.toNat ≤ r.hi)

/-- A range's slot is in the state it needs (R99): FULL to be read, FILLING without EXTERN to be written. -/
def slotFits (r : Range) (t : Slot) : Bool :=
  if r.write then decide (t.state = .filling) && !t.extern else decide (t.state = .full)

/-- The failing (range, slot index) pairs in the order of R99. -/
def slotFailures (slots : List Slot) (ranges : List Range) : List (Range × Nat) :=
  (ranges.filter (fun r => !r.write) ++ ranges.filter (·.write)).flatMap (fun r =>
    ((upto slots.length).filter (fun i => let t := nth {} slots i; onSlot r t && !slotFits r t)).map (fun i => (r, i)))

/-- The number of a slot state (Table 4.2). -/
def SlotState.code : SlotState → Nat
  | .empty => 0
  | .filling => 1
  | .full => 2
  | .draining => 3

/-- The single report of the slot check (R99): its code and DETAIL, of the first failure. -/
def slotError (slots : List Slot) (ranges : List Range) : Option OpErr :=
  match slotFailures slots ranges with
  | [] => none
  | (r, i) :: t =>
    let sl := nth {} slots i
    let n := (((r, i) :: t).map (·.2)).eraseDups.length
    some { code := if r.write then Code.eSlotOverwrite else Code.eSlotUnfilled
           detail := [BitVec.ofNat 32 i, BitVec.ofNat 32 (SlotState.code sl.state), sl.gen.setWidth 32,
                      BitVec.ofNat 32 (r.lo * 64), BitVec.ofNat 32 (r.hi * 64 + 63), BitVec.ofNat 32 n] }

/-- The scoreboard's stall cause at issue (R94, Table 4.6): 1 no free entries or 8 in flight, 2 a range overlap. -/
def stallCause (q : Seq) (ranges : List Range) : BitVec 2 :=
  let used := q.inflight.flatMap (·.ranges)
  if 32 < used.length + ranges.length ∨ 8 ≤ q.flights then 1
  else if ranges.any (fun r => used.any (fun u => overlaps r u && (r.write || u.write))) then 2
  else 0

/-- The reserved bits of the common header (Table 13.9) are not all 0. -/
def flagsReserved (d : Desc) : Bool := fld d 27 5 != 0

/-- The pre-emption class is allowed (Table 14.3). -/
def pclassOk (e : Entry) (classes : List Nat) : Bool := classes.contains (fld e.desc 24 2)

/-- The command is skipped (R44). -/
def isSkipped (s : State) (e : Entry) : Bool :=
  (getCtx s e.cid).skipOpen && flag e.desc 23 && fld e.desc 0 16 != 0x0602

/-- A command that waits for earlier ones may take its effect (R209, R304, R305). `own` is the commands in flight before
it on its core. -/
def dueNow (s : State) (core : Nat) (e : Entry) (own : List InFlight) (d : Due) : Bool :=
  match d with
  | .now => true
  | .core => own.isEmpty
  | .ctx => ctxQuiet s e.cid core own e.pos

/-- E_TIMED_LATE is reported when LATE_NS is not 0 and the command after a timed start issues later than T + LATE_NS
(R306). -/
def reportLate (s : State) (core : Nat) : Option Entry → State
  | none => s
  | some e =>
    let late := fld e.desc 128 32
    if late ≠ 0 ∧ fld e.desc 64 64 + late < (fabricTime s).toNat then report s (cmdReport Code.eTimedLate deferred e 0 core []) else s

/-- Puts an issued command in flight; a timed start before it shows whether it is late (R306). -/
def putInFlight (s : State) (core : Nat) (e : Entry) (ranges : List Range) (due : Due) : State :=
  let q := getSeq s e.cid core
  let q' := takeFront q e
  let f : InFlight := { entry := e, ranges := ranges, due := due, fin := none, issuedAt := s.now }
  reportLate (setSeq s e.cid core { q' with inflight := q'.inflight ++ [f], stallCause := 0, timed := none, idleSince := s.now })
    core q.timed

/-- Records how a command that has taken its effect stands. -/
def settleEnd (s : State) (core : Nat) (e : Entry) : Ended → State
  | .running => s
  | .ended o => endCmd s core e o
  | .atOnce o => finish (endCmd s core e o) core e

/-- Issues a command that passed its own checks: scoreboard (R94), slots (R99), skip (R44), then its effect at once or
when its turn comes. `skip` is what a skipped command still does (R36). -/
def issueGo (s : State) (core : Nat) (e : Entry) (ranges : List Range) (due : Due)
    (skip : State → State) (run : State → State × Ended) : State :=
  let q := getSeq s e.cid core
  let cause := stallCause q ranges
  if cause ≠ 0 then setSeq s e.cid core { q with stallCause := cause }
  else
    let bad := slotError q.slots ranges
    match bad, (getCtx s e.cid).desc.strict with
    | some err, true => rejectCmd s core e err
    | _, _ =>
      let s0 := match bad with
        | some err => report s (cmdReport err.code deferred e 0 core err.detail)
        | none => s
      let s1 := putInFlight s0 core e ranges due
      if isSkipped s e then settleEnd (skip s1) core e (.atOnce skippedOutcome)
      else if dueNow s core e q.inflight due then
        let r := run s1
        settleEnd r.1 core e r.2
      else s1

/-- What one row of the table says of a command at its sequencer. `row`: the descriptor is this row's. `reserved`: a
reserved field or value of it is not 0 (R10). `classes`: the pre-emption classes allowed (Table 14.3). `prep`: the
command's own checks. `due`: when it takes effect. `skip`: what a skipped command still does (R36). `run`: its effect. -/
structure OpRow where
  row : Bool
  reserved : Bool
  classes : List Nat
  prep : State → Nat → Prep
  due : Due := .now
  skip : State → Nat → State := fun s _ => s
  run : State → Nat → State × Ended

/-- A command of a row at its sequencer: R10, then its class, then its own checks, then its issue. -/
def issueAt (s : State) (e : Entry) (r : OpRow) : State :=
  match issuer s e with
  | none => s
  | some core =>
    if !r.row then s
    else if r.reserved || flagsReserved e.desc then rejectCmd s core e { code := Code.eDescReserved, detail := [] }
    else if !pclassOk e r.classes then rejectCmd s core e { code := Code.eCmdPclass, detail := [] }
    else
      match r.prep s core with
      | .reject err => rejectCmd s core e err
      | .stall => s
      | .go ranges => issueGo s core e ranges r.due (fun t => r.skip t core) (fun t => r.run t core)

/-! ### Lines that others hold (R281), pieces still to rebuild (R355) -/

/-- Someone holds the entry's line: a sharer, or an owner. -/
def DirEnt.live (e : DirEnt) : Bool := match e.st with | .modified _ => true | .shared v => v != 0 || e.acks != 0

/-- Recalls a line from the companion that holds it modified; where the line is to be written, its sharers get INV. -/
def startRecall (s : State) (e : DirEnt) (keep : Bool) : State :=
  let put := fun (t : State) (x : DirEnt) =>
    { t with msf := { t.msf with dir := replaceFirst (fun y => y.line == e.line) (fun _ => x) t.msf.dir } }
  match e.st with
  | .shared v =>
    if keep || e.acks != 0 || e.recalling.isSome then s
    else put ((holdersOf v).foldl (fun t h => toHolder t h e.line (.inv (e.line * 128))) s) { e with acks := v }
  | .modified o =>
    if e.recalling.isSome then s
    else put (toHolder s o.val e.line (.recallLine (servedCoord s) keep (e.line * 128))) { e with recalling := some keep }

/-- The state with no line held but one, and every piece rebuilt. -/
def onlyLine (s : State) (l : Nat) : State :=
  { s with msf := { s.msf with coh := true, dir := s.msf.dir.filter (fun e => e.line == l) }
           res := { s.res with unrebuilt := [] } }

/-- The state with every piece rebuilt but one, and no line held. -/
def onlyPiece (s : State) (k : Nat) : State :=
  { s with msf := { s.msf with coh := true, dir := [] }
           res := { s.res with unrebuilt := [k] } }

/-- The held lines that `f` meets, and for each whether a shared copy may stay. -/
def linesMet (f : State → State) (s : State) : List (DirEnt × Bool) :=
  (s.msf.dir.filter DirEnt.live).filterMap (fun e => (f (onlyLine s e.line)).msf.wait.map (fun keep => (e, keep)))

/-- The pieces still to rebuild that `f` meets. -/
def piecesMet (f : State → State) (s : State) : List Nat := s.res.unrebuilt.filter (fun k => (f (onlyPiece s k)).msf.wait.isSome)

/-- Asks for lines back, and for pieces to be rebuilt on demand; a survivor asks the Standby for these (R356). -/
def askBack (s : State) (ls : List (DirEnt × Bool)) (ks : List Nat) : State :=
  let v := ls.foldl (fun t q => startRecall t q.1 q.2) s
  let u := if s.res.role = 0 then
      (ks.filter (fun k => !s.res.demand.contains k)).foldl (fun t k => send t (.aboutToWrite (Fin.ofNat 8 (k / 2 ^ 26)) (k % 2 ^ 26))) v
    else v
  { u with res := { u.res with demand := u.res.demand ++ ks.filter (fun k => !u.res.demand.contains k) } }

/-- Nothing that the device's own accesses could meet: no line held, no piece to rebuild. -/
def nothingHeld (s : State) : Bool := !s.msf.dir.any DirEnt.live && s.res.unrebuilt.isEmpty

/-- What the device does of itself: it happens as `f` says, unless its accesses meet lines that others hold or pieces still to
rebuild; then these are asked for and `held` says what else happens (R281, R355). -/
def coherentOr (held : State → List Nat → List Nat → State) (f : State → State) (s : State) : State :=
  if nothingHeld s then f s
  else
    let t := f { s with msf := { s.msf with coh := true } }
    if t.msf.wait.isSome then
      let ls := linesMet f s
      let ks := piecesMet f s
      held (askBack s ls ks) (ls.map (fun q => q.1.line)) ks
    else { t with msf := { t.msf with coh := false } }

/-- What happens again of itself, such as the issue of the command at a sequencer's head: it waits, and nothing else changes. -/
def coherent (f : State → State) (s : State) : State := coherentOr (fun u _ _ => u) f s

/-- What a command from outside brings once only: it is kept, and happens when the lines and pieces are there (DESIGN CHOICE,
log 18). -/
def coherentLate (c : Instr) (f : State → State) (s : State) : State :=
  coherentOr (fun u ls ks => { u with late := u.late ++ [{ cmd := c, lines := ls, pieces := ks }] }) f s

/-- A kept command may happen: none of its lines is held any more, none of its pieces is still to rebuild. -/
def Late.ready (s : State) (x : Late) : Bool :=
  s.msf.dir.all (fun e => !(e.live && x.lines.contains e.line)) && x.pieces.all (fun k => !s.res.unrebuilt.contains k)

/-- A command of a row at its sequencer. -/
def issueCmd (s : State) (e : Entry) (r : OpRow) : State := coherent (fun t => issueAt t e r) s

/-- A deferred command whose turn has come takes its effect (R209, R304). -/
def deferAt (s : State) (core : Nat) (f : InFlight) (run : State → Nat → State × Ended) : State :=
  let q := getSeq s f.entry.cid core
  let own := q.inflight.takeWhile (fun g => g.entry != f.entry)
  if f.fin.isNone && dueNow s core f.entry own f.due then
    let r := run s core
    settleEnd r.1 core f.entry r.2
  else s

/-- A deferred command takes its effect when COMMAND_COMPLETE names it and its turn has come. -/
def runDeferred (s : State) (core : Nat) (f : InFlight) (run : State → Nat → State × Ended) : State :=
  coherent (fun t => deferAt t core f run) s

end Sys2Proof.Machine
end

