-- ==== Sys2Proof/Machine/Operands.lean ====
section
/-! DEFINITION. The operand forms of the commands: ranges of the local store (R69, R91, R93) and of the unified range
(R105). -/

namespace Sys2Proof.Machine

/-- Every page that a run touches is OWNED by the partition (R105: the run lies within the context's granules). -/
def pagesOwned (s : State) (p : PartI) : Nat → Nat → Bool
  | _, 0 => true
  | a, k + 1 =>
    (match pageIndex a with
     | some i => (getPte s i).owned && decide ((getPte s i).part = p)
     | none => false) && pagesOwned s p (a + pageSize) k

/-- A run of `n` bytes from `a` lies within the context's granules. -/
def inPages (s : State) (p : PartI) (a n : Nat) : Bool :=
  if n = 0 then true else pagesOwned s p (a / pageSize * pageSize) ((a + n - 1) / pageSize - a / pageSize + 1)

/-- A unified-range operand is 64-byte aligned and within the context's granules (R105). -/
def uniOk (s : State) (p : PartI) (a n : Nat) : Bool := decide (a % 64 = 0) && inPages s p a n

/-- The granule range of `n` bytes from `a` of a local store (R93); nothing for `n` = 0. -/
def lsRange (a n : Nat) (write : Bool) : List Range :=
  if n = 0 then [] else [{ lo := a / 64, hi := (a + n - 1) / 64, write := write }]

/-- A local-store operand is aligned and ends inside the 12 MiB store (R69, R87). -/
def lsOk (align a n : Nat) : Bool := decide (a % align = 0) && decide (a + n ≤ lsSize)

/-- The extent of `rows` rows of `rowb` bytes, `ld` 64-byte units apart (R91). -/
def rowsExtent (rows rowb ld : Nat) : Nat := if rows = 0 then 0 else (rows - 1) * ld * 64 + rowb

end Sys2Proof.Machine
end

