-- ==== Sys2Proof/Machine/Sync.lean ====
section
/-! DEFINITION. The sync commands: OP_NOP, OP_WAIT, OP_SIGNAL, OP_FENCE, OP_TIMED_START (R301-R307), the buffer slots
(R96-R101) and what ends a wait. -/

namespace Sys2Proof.Machine

/-! ### Blocking commands -/

/-- What a core stands at once a blocking command has ended: a command of a handed list leaves the PLAN wait that runs the
list (R310). -/
def blockAfter (e : Entry) (q : Seq) : Option Blocked :=
  if e.fromList then q.list.map (fun l => { entry := l.wait, kind := .plan, since := l.since }) else none

/-- A blocking command that has ended completes: it takes an in-flight entry, which its record may hold (R298). -/
def endBlock (s : State) (core : Nat) (e : Entry) (o : Outcome) : State :=
  let q := getSeq s e.cid core
  let f : InFlight := { entry := e, ranges := [], due := .now, fin := some o, issuedAt := s.now }
  let q' : Seq := { q with block := blockAfter e q, list := if e.fromList then q.list else none, inflight := q.inflight ++ [f] }
  finish (setSeq s e.cid core q') core e

/-- Changes one live slot. -/
def setSlot (s : State) (c : CtxId) (core i : Nat) (t : Slot) : State :=
  let q := getSeq s c core
  setSeq s c core { q with slots := setNth q.slots i t }

/-- The header of a handed list at an address: NCMD (Table 13.17), or the code of the failed access. -/
def listNcmd (s : State) (c : CtxId) (a : Nat) : Except (BitVec 16) Nat :=
  match readUni s c.part a 64 with
  | .ok bs => .ok (bitsOf (leNat bs) 16 32)
  | .error code => .error code

/-- The address of the `k`-th list after a plan summary, and its NCMD (R310). -/
def listAt (s : State) (c : CtxId) (a : Nat) : Nat → Except (BitVec 16) (Nat × Nat)
  | 0 => match listNcmd s c a with | .ok n => .ok (a, n) | .error code => .error code
  | k + 1 =>
    match listNcmd s c a with
    | .ok n => listAt s c (a + 64 + 64 * n) k
    | .error code => .error code

/-- A PLAN wait takes the oldest plan's list of its core (R310). A header that cannot be read faults the wait with the
code of the failed access (R216). -/
def takeList (s : State) (core : Nat) (e : Entry) : State :=
  let x := getCtx s e.cid
  match x.plans.find? (fun p => p.left.contains core) with
  | none => s
  | some p =>
    match listAt s e.cid p.out.toNat (relCore (getPart s e.cid.part) core) with
    | .error code => endBlock (report s (cmdReport code contextFatal e 0 core [])) core e (faultOutcome code)
    | .ok (a, n) =>
      let left := p.left.filter (· != core)
      let plans := if left.isEmpty then x.plans.filter (fun y => y.pos != p.pos)
        else replaceFirst (fun y => y.pos == p.pos) (fun y => { y with left := left }) x.plans
      let s1 := setCtx s e.cid { x with plans := plans }
      let q := getSeq s1 e.cid core
      let l : ListRun := { wait := e, since := residentClock s e.cid, planPos := p.pos, base := BitVec.ofNat 44 (a + 64), ncmd := n, next := 0 }
      let s2 := setSeq s1 e.cid core { q with list := some l }
      if n = 0 then endBlock s2 core e okOutcome else s2

/-- What a met condition does beside ending the wait: an EMPTY wait claims its slot FILLING (Table 4.3). -/
def claimSlot (s : State) (core : Nat) (b : Blocked) : State :=
  match b.kind with
  | .slotEmpty =>
    let i := fld b.entry.desc 68 6
    let t := nth {} (getSeq s b.entry.cid core).slots i
    setSlot s b.entry.cid core i { t with state := .filling, extern := false, fillMark := false }
  | _ => s

/-- The timed start at a core stands behind the next command to issue, which may be late (R306). -/
def keepTimed (s : State) (core : Nat) (e : Entry) : State :=
  setSeq s e.cid core { getSeq s e.cid core with timed := some e }

/-- A blocking command whose condition holds ends; a PLAN wait first takes its list and ends once the list has issued
(R302, R310). -/
def passBlock (s : State) (core : Nat) (b : Blocked) : State :=
  match b.kind, (getSeq s b.entry.cid core).list with
  | .plan, none => takeList s core b.entry
  | .timed, _ => endBlock (keepTimed s core b.entry) core b.entry okOutcome
  | _, _ => endBlock (claimSlot s core b) core b.entry okOutcome

/-- DETAIL of a slot error: slot index, state, generation and expected generation (R101). -/
def slotDetail (i : Nat) (t : Slot) (g : Nat) : List (BitVec 32) :=
  [BitVec.ofNat 32 i, BitVec.ofNat 32 (SlotState.code t.state), t.gen.setWidth 32, BitVec.ofNat 32 g]

/-- The wait finds its slot in a state or generation that Table 4.3 calls E_SLOT_GEN. -/
def slotWrong (s : State) (core : Nat) (b : Blocked) : Bool :=
  let d := b.entry.desc
  let t := nth {} (getSeq s b.entry.cid core).slots (fld d 68 6)
  let g := BitVec.ofNat 16 (fld d 74 16)
  match b.kind with
  | .slotFull => slotWaitFull t g == .wrong
  | .slotEmpty => slotWaitEmpty t g == .wrong
  | _ => false

/-- The code of a run that cannot be read. -/
def readFailure (s : State) (p : PartI) (a n : Nat) : Option (BitVec 16) :=
  match readUni s p a n with
  | .error e => some e
  | .ok _ => none

/-- The code of a wait's failed access: to a MEMORY wait's word, or to the next command of a PLAN wait's list (R216). -/
def waitFailure (s : State) (core : Nat) (b : Blocked) : Option (BitVec 16) :=
  match b.kind, (getSeq s b.entry.cid core).list with
  | .memory, _ => readFailure s b.entry.cid.part (fld b.entry.desc 156 44) 4
  | .plan, some l => if l.next < l.ncmd then readFailure s b.entry.cid.part (l.base.toNat + 64 * l.next) 64 else none
  | _, _ => none

/-- A blocking command looks at its condition: it ends, faults, or stands (R97, R302). -/
def tryBlock (s : State) (core : Nat) (b : Blocked) : State :=
  let e := b.entry
  if slotWrong s core b then
    let t := nth {} (getSeq s e.cid core).slots (fld e.desc 68 6)
    endBlock (report s (cmdReport Code.eSlotGen contextFatal e 0 core (slotDetail (fld e.desc 68 6) t (fld e.desc 74 16))))
      core e (faultOutcome Code.eSlotGen)
  else
    match waitFailure s core b with
    | some code => endBlock (report s (cmdReport code contextFatal e 0 core [])) core e (faultOutcome code)
    | none => if blockMet s e.cid core b then passBlock s core b else s

/-- A PLAN wait whose list has issued to the last command, a blocking one that stands now, completes (R310). -/
def listIssued (s : State) (c : CtxId) (core : Nat) : State :=
  let q := getSeq s c core
  match q.list with
  | none => s
  | some l =>
    if l.ncmd ≤ l.next then
      let f : InFlight := { entry := l.wait, ranges := [], due := .now, fin := some okOutcome, issuedAt := s.now }
      finish (setSeq s c core { q with list := none, inflight := q.inflight ++ [f] }) core l.wait
    else s

/-- A blocking command issues: it stands at its core and looks at its condition; as the last of a handed list it ends the
PLAN wait that runs the list. -/
def startBlock (kind : BlockKind) (e : Entry) (s : State) (core : Nat) : State × Ended :=
  let q := getSeq s e.cid core
  let b : Blocked := { entry := e, kind := kind, since := residentClock s e.cid }
  let q' := { q with inflight := removeFirst (fun f => f.entry == e) q.inflight, block := some b, idleSince := s.now }
  (tryBlock (listIssued (setSeq s e.cid core q') e.cid core) core b, .running)

/-! ### Rows of OP_WAIT -/

/-- The opcode of a descriptor. -/
def opcode (d : Desc) : Nat := fld d 0 16

/-- FORM of OP_WAIT and OP_SIGNAL. -/
def form (d : Desc) : Nat := fld d 64 3

/-- Reserved fields of OP_WAIT (Table 13.11, R10, R307): a field that is 'otherwise 0' in another form counts. -/
def waitReserved (d : Desc) : Bool :=
  decide (3 < form d) || fld d 200 312 != 0 ||
  (form d != 0 && (fld d 67 1 != 0 || fld d 74 16 != 0)) ||
  (decide (1 < form d) && fld d 68 6 != 0) ||
  ((form d == 1 || form d == 2) && fld d 90 2 == 3) ||
  (form d != 2 && fld d 124 32 != 0)

/-- The checks of OP_WAIT and OP_SIGNAL on their operands (R307). -/
def syncPrep (e : Entry) (s : State) (core : Nat) : Prep :=
  let d := e.desc
  if form d = 0 ∧ ¬ (nth {} (getSeq s e.cid core).slots (fld d 68 6)).valid then rejectWith Code.eDescOperand
  else if form d = 2 ∧ (fld d 156 44 % 4 ≠ 0 ∨ ¬ inPages s e.cid.part (fld d 156 44) 4) then rejectWith Code.eDescOperand
  else .go []

/-- A row of OP_WAIT: FORM and, for SLOT, ACTION select it; a reserved FORM is rejected by any of the rows. -/
def waitRow (e : Entry) (f : Nat) (action : Option Nat) (kind : BlockKind) : OpRow :=
  let d := e.desc
  { row := opcode d == 0x0500 && (decide (3 < form d) || (form d == f && (match action with | some a => fld d 67 1 == a | none => true)))
    reserved := waitReserved d
    classes := [0]
    prep := syncPrep e
    run := startBlock kind e }

/-- OP_WAIT SLOT, FULL (R97). -/
def execOpWaitSlotFull (e : Entry) (s : State) : Host.Outcome State Fault Refusal :=
  .next (issueCmd s e (waitRow e 0 (some 0) .slotFull))

/-- OP_WAIT SLOT, EMPTY (R97). -/
def execOpWaitSlotEmpty (e : Entry) (s : State) : Host.Outcome State Fault Refusal :=
  .next (issueCmd s e (waitRow e 0 (some 1) .slotEmpty))

/-- OP_WAIT EVENT (R302). -/
def execOpWaitEvent (e : Entry) (s : State) : Host.Outcome State Fault Refusal :=
  .next (issueCmd s e (waitRow e 1 none .event))

/-- OP_WAIT MEMORY (R302). -/
def execOpWaitMemory (e : Entry) (s : State) : Host.Outcome State Fault Refusal :=
  .next (issueCmd s e (waitRow e 2 none .memory))

/-- OP_WAIT PLAN (R310). -/
def execOpWaitPlan (e : Entry) (s : State) : Host.Outcome State Fault Refusal :=
  .next (issueCmd s e (waitRow e 3 none .plan))

/-- A blocking command at a core, of the resident context, that may act: its context is READY and not being switched, and
no self-test slice holds its quad (R413). -/
def coreBlock (s : State) (core : Nat) : Option Blocked :=
  match coreCtx s core with
  | none => none
  | some c =>
    if unitsRun s && decide ((getCtx s c).state = .ready) && (getPart s c.part).switching.isNone &&
      !quadHeld s core
    then (getSeq s c core).block else none

/-- The wait that stands at a core looks at its condition again. -/
def lookAgain (s : State) (core : Nat) : State :=
  match coreBlock s core with
  | some b =>
    match b.kind with
    | .fence | .timed => s
    | _ => coherent (fun t => tryBlock t core b) s
  | none => s

/-- WAIT_SATISFIED: a core's wait looks at its condition again (R302, R310); a wait of a yielded context that would now be
satisfied gives it work (R321). -/
def execWaitSatisfied (core : CoreI) (s : State) : Host.Outcome State Fault Refusal :=
  if unitsRun s then .next (regainAt (lookAgain s core.val) core.val) else .next s

/-- HANG_MS of a context in ns. -/
def hangNs (s : State) (c : CtxId) : Nat := (getCtx s c).desc.hangMs.toNat * 1000000

/-- The value that a wait last saw (R303). -/
def lastSeen (s : State) (b : Blocked) : BitVec 32 :=
  match b.kind with
  | .event => Tbl.get 0 (getCtx s b.entry.cid).events (fld b.entry.desc 68 6)
  | .memory =>
    match waitWord s b.entry.cid b.entry.desc with
    | .ok w => w &&& BitVec.ofNat 32 (fld b.entry.desc 124 32)
    | .error _ => 0
  | _ => 0

/-- DETAIL of E_SYNC_HANG (R303): the form, INDEX or ADDR, VALUE and the value last seen. -/
def syncHangDetail (s : State) (b : Blocked) : List (BitVec 32) :=
  let d := b.entry.desc
  BitVec.ofNat 32 (form d) :: (if form d = 2 then detail64 (fld d 156 44) else [BitVec.ofNat 32 (fld d 68 6)]) ++
    [BitVec.ofNat 32 (fld d 92 32), lastSeen s b]

/-- SYNC_HANG: an EVENT, MEMORY or PLAN wait unsatisfied for HANG_MS of resident time ends (R303). A PLAN wait is satisfied
once it has its list. -/
def execSyncHang (core : CoreI) (s : State) : Host.Outcome State Fault Refusal :=
  match coreBlock s core.val with
  | none => .next s
  | some b =>
    let e := b.entry
    let k := b.kind == .event || b.kind == .memory || (b.kind == .plan && (getSeq s e.cid core.val).list.isNone)
    if k && decide (b.since + hangNs s e.cid ≤ residentClock s e.cid) && !blockMet s e.cid core.val b then
      .next (endBlock (report s (cmdReport Code.eSyncHang contextFatal e 0 core.val (syncHangDetail s b))) core.val e
        (faultOutcome Code.eSyncHang))
    else .next s

/-! ### OP_SIGNAL -/

/-- Reserved fields of OP_SIGNAL (Table 13.12). -/
def signalReserved (d : Desc) : Bool :=
  decide (2 < form d) || fld d 90 2 != 0 || fld d 124 32 != 0 || fld d 200 312 != 0 ||
  (form d != 0 && (fld d 67 1 != 0 || fld d 74 16 != 0)) || (decide (1 < form d) && fld d 68 6 != 0)

/-- Some command in flight on a core writes (or reads) a slot's region. -/
def slotInUse (q : Seq) (t : Slot) (write : Bool) : Bool :=
  q.inflight.any (fun f => f.ranges.any (fun r => (r.write == write) && onSlot r t))

/-- A held delivery waits for a slot's region. -/
def heldInto (q : Seq) (t : Slot) : Bool :=
  q.held.any (fun h => h.marker.isNone && decide (t.base64.toNat * 64 ≤ h.addr.toNat) &&
    decide (h.addr.toNat < (t.base64.toNat + t.size64.toNat) * 64))

/-- A slot marked to fill becomes FULL once every in-flight write into it has landed (Table 4.3). -/
def landSlot (q : Seq) (t : Slot) : Slot :=
  if t.state = .filling ∧ t.fillMark ∧ ¬ slotInUse q t true then { t with state := .full, fillMark := false, extern := false }
  else t

/-- A DRAINING slot becomes EMPTY at the next generation once every in-flight read of it has completed (Table 4.3). -/
def drainSlot (q : Seq) (t : Slot) : Slot :=
  if t.state = .draining ∧ ¬ slotInUse q t false then { t with state := .empty, gen := t.gen + 1 } else t

/-- E_SLOT_STATE of a signal (Table 4.3). -/
def signalFault (s : State) (core : Nat) (e : Entry) (i : Nat) (t : Slot) : State × Ended :=
  (report s (cmdReport Code.eSlotState contextFatal e 0 core (slotDetail i t (fld e.desc 74 16))),
   .atOnce (faultOutcome Code.eSlotState))

/-- OP_SIGNAL SLOT: FILL or DRAIN (Table 4.3). -/
def runSignalSlot (e : Entry) (s : State) (core : Nat) : State × Ended :=
  let d := e.desc
  let i := fld d 68 6
  let q := getSeq s e.cid core
  let t := nth {} q.slots i
  let g := BitVec.ofNat 16 (fld d 74 16)
  if fld d 67 1 = 0 then
    if t.state = .filling ∧ t.gen = g ∧ ¬ t.extern then
      (setSlot s e.cid core i (landSlot q { t with fillMark := true }), .atOnce okOutcome)
    else signalFault s core e i t
  else if t.state = .full ∧ t.gen = g then
    (setSlot s e.cid core i (drainSlot q { t with state := .draining }), .atOnce okOutcome)
  else signalFault s core e i t

/-- OP_SIGNAL EVENT: VALUE is added to a counter (R304). -/
def runSignalEvent (e : Entry) (s : State) (_core : Nat) : State × Ended :=
  let x := getCtx s e.cid
  let i := fld e.desc 68 6
  (setCtx s e.cid { x with events := Tbl.set 0 x.events i (Tbl.get 0 x.events i + BitVec.ofNat 32 (fld e.desc 92 32)) },
   .atOnce okOutcome)

/-- OP_SIGNAL MEMORY: VALUE is stored as one 4-byte write (R304). -/
def runSignalMemory (e : Entry) (s : State) (core : Nat) : State × Ended :=
  match writeUni s e.cid.part (fld e.desc 156 44) (leBytes 4 (fld e.desc 92 32)) with
  | .ok t => (t, .atOnce okOutcome)
  | .error code => (report s (cmdReport code contextFatal e 0 core []), .atOnce (faultOutcome code))

/-- A row of OP_SIGNAL. -/
def signalRow (e : Entry) (f : Nat) (action : Option Nat) (due : Due) (run : State → Nat → State × Ended) : OpRow :=
  let d := e.desc
  { row := opcode d == 0x0501 && (decide (2 < form d) || (form d == f && (match action with | some a => fld d 67 1 == a | none => true)))
    reserved := signalReserved d
    classes := [0, 1]
    prep := syncPrep e
    due := due
    run := run }

/-- OP_SIGNAL SLOT, FILL (R97). -/
def execOpSignalSlotFill (e : Entry) (s : State) : Host.Outcome State Fault Refusal :=
  .next (issueCmd s e (signalRow e 0 (some 0) .now (runSignalSlot e)))

/-- OP_SIGNAL SLOT, DRAIN (R97). -/
def execOpSignalSlotDrain (e : Entry) (s : State) : Host.Outcome State Fault Refusal :=
  .next (issueCmd s e (signalRow e 0 (some 1) .now (runSignalSlot e)))

/-- OP_SIGNAL EVENT (R304). -/
def execOpSignalEvent (e : Entry) (s : State) : Host.Outcome State Fault Refusal :=
  .next (issueCmd s e (signalRow e 1 none .core (runSignalEvent e)))

/-- OP_SIGNAL MEMORY (R304). -/
def execOpSignalMemory (e : Entry) (s : State) : Host.Outcome State Fault Refusal :=
  .next (issueCmd s e (signalRow e 2 none .core (runSignalMemory e)))

/-! ### OP_NOP, OP_FENCE, OP_TIMED_START -/

/-- The opcodes of Table 13.10. -/
def isOpcode (n : Nat) : Bool :=
  n == 0 || (decide (0x0100 ≤ n) && decide (n ≤ 0x0105)) || (decide (0x0200 ≤ n) && decide (n ≤ 0x0204)) ||
  (decide (0x0300 ≤ n) && decide (n ≤ 0x0307)) || (decide (0x0400 ≤ n) && decide (n ≤ 0x0404)) ||
  (decide (0x0500 ≤ n) && decide (n ≤ 0x0504)) || (decide (0x0600 ≤ n) && decide (n ≤ 0x0602))

/-- The row of OP_NOP. -/
def nopRow (e : Entry) : OpRow :=
  { row := opcode e.desc == 0 || !isOpcode (opcode e.desc)
    reserved := opcode e.desc != 0 || fld e.desc 64 448 != 0
    classes := [0, 1]
    prep := fun _ _ => .go []
    run := fun t _ => (t, .atOnce okOutcome) }

/-- OP_NOP completes at issue (R301). Its row also holds every reserved opcode, which is rejected (R301). -/
def execOpNop (e : Entry) (s : State) : Host.Outcome State Fault Refusal :=
  .next (issueCmd s e (nopRow e))

/-- The row of OP_FENCE. -/
def fenceRow (e : Entry) : OpRow :=
  { row := opcode e.desc == 0x0502
    reserved := fld e.desc 65 447 != 0
    classes := [0]
    prep := fun _ _ => .go []
    run := startBlock .fence e }

/-- OP_FENCE blocks later commands of its core until earlier commands of the core, or of the context, have completed
(R305). -/
def execOpFence (e : Entry) (s : State) : Host.Outcome State Fault Refusal :=
  .next (issueCmd s e (fenceRow e))

/-- The row of OP_TIMED_START. -/
def timedRow (e : Entry) : OpRow :=
  { row := opcode e.desc == 0x0504
    reserved := fld e.desc 160 352 != 0
    classes := [0]
    prep := fun t _ =>
      if fld e.desc 64 64 > (fabricTime t).toNat + 60000000000 then rejectWith Code.eSyncShape else .go []
    run := startBlock .timed e }

/-- OP_TIMED_START blocks later commands of its core until Fabric Time reaches T; a T more than 60 s ahead is rejected
(R306). -/
def execOpTimedStart (e : Entry) (s : State) : Host.Outcome State Fault Refusal :=
  .next (issueCmd s e (timedRow e))

/-- The timed start that stands at a core ends once Fabric Time has reached T. -/
def timedEnds (s : State) (core : Nat) : State :=
  match coreBlock s core with
  | none => s
  | some b => if b.kind = .timed ∧ blockMet s b.entry.cid core b then passBlock s core b else s

/-- TIMED_START_REACHED: Fabric Time has reached T (R306); the timed start of a yielded context gives it work (R321). -/
def execTimedStartReached (core : CoreI) (s : State) : Host.Outcome State Fault Refusal :=
  if unitsRun s then .next (regainAt (timedEnds s core.val) core.val) else .next s

/-! ### Slots from outside the sequencer -/

/-- How many bytes of a run lie in a slot's region. -/
def slotBytes (t : Slot) (a n : Nat) : Nat :=
  if t.valid then min (a + n) ((t.base64.toNat + t.size64.toNat) * 64) - max a (t.base64.toNat * 64) else 0

/-- The valid slots into which a run of local-store bytes falls. -/
def slotsUnder (q : Seq) (a n : Nat) : List Nat :=
  (upto q.slots.length).filter (fun i => decide (0 < slotBytes (nth {} q.slots i) a n))

/-- Every byte of a run lies in a valid slot (R98); the slots of a table do not overlap (R96). -/
def inSlots (q : Seq) (a n : Nat) : Bool := decide (((slotsUnder q a n).map (fun i => slotBytes (nth {} q.slots i) a n)).sum = n)

/-- Holds an outside delivery or marker back at the sender (Table 4.3). -/
def holdBack (s : State) (c : CtxId) (core : Nat) (h : Held) : State :=
  let q := getSeq s c core
  setSeq s c core { q with held := q.held ++ [h] }

/-- A report of a local-store error for the receiving context (R97, R98). -/
def lsReport (s : State) (c : CtxId) (core : Nat) (code : BitVec 16) (detail : List (BitVec 32)) : State :=
  report s (ctxReport code contextFatal c 0 core detail)

/-- A sender's transfer fails: what of it is held back at the core is gone, and the command that it belongs to, when it is
still in flight, will show the failure in its own completion (R98, R101). -/
def failTransfer (s : State) (c : CtxId) (core : Nat) (n : CmdName) (code : BitVec 16) : State :=
  let q := getSeq s c core
  let s1 := setSeq s c core { q with held := q.held.filter (fun h => h.sender != n) }
  let y := getSeq s1 n.cid n.core.val
  setSeq s1 n.cid n.core.val { y with
    inflight := replaceFirst (fun f => isEntry n.pos n.listPos f && f.heldAt.isNone)
      (fun f => { f with fin := some (faultOutcome code) }) y.inflight }

/-- How a slot takes a delivery tagged with a generation (Table 4.3): written, held back, or rejected. -/
inductive Landing where
  | written | heldBack | rejected
  deriving DecidableEq, Repr

/-- Table 4.3 for an outside delivery. -/
def slotTakes (t : Slot) (g : BitVec 16) : Landing :=
  if (t.state = .empty ∧ t.gen = g) ∨ (t.state = .filling ∧ t.gen = g ∧ t.extern) then .written
  else if (t.state = .full ∨ t.state = .draining) ∧ t.gen = g - 1 then .heldBack
  else .rejected

/-- The slots that a delivery is written into fill from outside. -/
def fillSlots (s : State) (c : CtxId) (core : Nat) (l : List Nat) : State :=
  l.foldl (fun t i => setSlot t c core i { nth {} (getSeq t c core).slots i with state := .filling, extern := true }) s

/-- An outside delivery tagged with a generation reaches a core's local store (R97, R98, Table 4.3). -/
def deliver (s : State) (c : CtxId) (core : Nat) (h : Held) : State :=
  let q := getSeq s c core
  if !isResident s c then holdBack s c core h
  else
    let l := slotsUnder q h.addr.toNat h.data.length
    if !inSlots q h.addr.toNat h.data.length then
      lsReport (failTransfer s c core h.sender Code.eLsUnslotted) c core Code.eLsUnslotted [h.addr.setWidth 32]
    else
      match l.find? (fun i => slotTakes (nth {} q.slots i) h.gen == .rejected) with
      | some i => lsReport (failTransfer s c core h.sender Code.eSlotGen) c core Code.eSlotGen (slotDetail i (nth {} q.slots i) h.gen.toNat)
      | none =>
        if l.any (fun i => slotTakes (nth {} q.slots i) h.gen == .heldBack) then holdBack s c core h
        else fillSlots (writeLs s core h.addr.toNat h.data) c core l

/-- A sender's end marker reaches a slot: FULL once every byte of the transfer has landed (Table 4.3). -/
def markEnd (s : State) (c : CtxId) (core i : Nat) (h : Held) : State :=
  let q := getSeq s c core
  let t := nth {} q.slots i
  if !isResident s c || heldInto q t then holdBack s c core h
  else if t.state = .filling ∧ t.gen = h.gen ∧ t.extern then
    setSlot s c core i (landSlot q { t with fillMark := true })
  else s

/-- Offers every held delivery and marker of a core again, in the order they were held. -/
def deliverHeld (s : State) (c : CtxId) (core : Nat) : State :=
  let q := getSeq s c core
  q.held.foldl
    (fun t h => match h.marker with | some i => markEnd t c core i h | none => deliver t c core h)
    (setSeq s c core { q with held := [] })

/-- OUTSIDE_DELIVERY (R97). -/
def execOutsideDelivery (core : CoreI) (cid : CtxId) (addr : BitVec 24) (gen : BitVec 16) (data : Bytes) (sender : CmdName)
    (s : State) : Host.Outcome State Fault Refusal :=
  if unitsRun s ∧ (getCtx s cid).state = .ready then
    .next (deliver s cid core.val
      { addr := addr, gen := gen, data := data, since := residentClock s sender.cid, marker := none, sender := sender })
  else .next s

/-- SENDER_END_MARKER (R97). -/
def execSenderEndMarker (core : CoreI) (cid : CtxId) (slot : Fin 64) (gen : BitVec 16) (sender : CmdName)
    (s : State) : Host.Outcome State Fault Refusal :=
  if unitsRun s ∧ (getCtx s cid).state = .ready then
    .next (markEnd s cid core.val slot.val
      { addr := 0, gen := gen, data := [], since := residentClock s sender.cid, marker := some slot.val, sender := sender })
  else .next s

/-- SLOT_WRITES_LANDED: the last in-flight write into a slot marked to fill has landed (R97). -/
def execSlotWritesLanded (core : CoreI) (slot : Fin 64) (s : State) : Host.Outcome State Fault Refusal :=
  match coreCtx s core.val with
  | none => .next s
  | some c =>
    let q := getSeq s c core.val
    if unitsRun s ∧ slot.val < q.slots.length then
      .next (setSlot s c core.val slot.val (landSlot q (nth {} q.slots slot.val)))
    else .next s

/-- SLOT_READS_DONE: the last in-flight read of a DRAINING slot has completed; held deliveries are offered again
(R97). -/
def execSlotReadsDone (core : CoreI) (slot : Fin 64) (s : State) : Host.Outcome State Fault Refusal :=
  match coreCtx s core.val with
  | none => .next s
  | some c =>
    let q := getSeq s c core.val
    if unitsRun s ∧ slot.val < q.slots.length then
      .next (deliverHeld (setSlot s c core.val slot.val (drainSlot q (nth {} q.slots slot.val))) c core.val)
    else .next s

/-- The slot wait at a core that has counted HANG_MS of resident time unsatisfied (R101). -/
def hungSlotWait (s : State) (c : CtxId) (core : Nat) : Option Blocked :=
  match coreBlock s core with
  | some b =>
    if (b.kind = .slotFull ∨ b.kind = .slotEmpty) ∧ b.since + hangNs s c ≤ residentClock s c ∧ ¬ blockMet s c core b
    then some b else none
  | none => none

/-- A delivery or marker held back has counted HANG_MS of its sender's context, in that context's resident time (R101). -/
def heldHung (s : State) (h : Held) : Bool := decide (h.since + hangNs s h.sender.cid ≤ residentClock s h.sender.cid)

/-- The oldest delivery or marker held back at a core, of the context that may be resident there or of another one of the
partition, that has hung. -/
def hungDelivery (s : State) (core : Nat) : Option (CtxId × Held) :=
  (coreCtxs s core).findSome? (fun c => ((getSeq s c core).held.find? (heldHung s)).map (fun h => (c, h)))

/-- A held-back delivery that has hung: its sender's transfer fails, and E_SLOT_HANG is reported to the sender's context
(R101). -/
def deliveryHangs (s : State) (core : Nat) (c : CtxId) (h : Held) : State :=
  let q := getSeq s c core
  let i := h.marker.getD ((slotsUnder q h.addr.toNat h.data.length).headD 0)
  let t := failTransfer s c core h.sender Code.eSlotHang
  report t { ctxReport Code.eSlotHang contextFatal h.sender.cid 0 h.sender.core.val (slotDetail i (nth {} q.slots i) h.gen.toNat) with
    cmdPos := h.sender.pos, listPos := h.sender.listPos }

/-- SLOT_HANG: a slot wait, or a delivery held back, has counted HANG_MS of resident time (R101). -/
def execSlotHang (core : CoreI) (s : State) : Host.Outcome State Fault Refusal :=
  if !unitsRun s then .next s
  else
    match (coreCtx s core.val).bind (fun c => hungSlotWait s c core.val), hungDelivery s core.val with
    | some b, _ =>
      let i := fld b.entry.desc 68 6
      let t := report s (cmdReport Code.eSlotHang contextFatal b.entry 0 core.val
        (slotDetail i (nth {} (getSeq s b.entry.cid core.val).slots i) (fld b.entry.desc 74 16)))
      .next (endBlock t core.val b.entry (faultOutcome Code.eSlotHang))
    | none, some (c, h) => .next (deliveryHangs s core.val c h)
    | none, none => .next s

end Sys2Proof.Machine
end

