-- ==== Sys2Proof/Machine/Guard.lean ====
section
/-! DEFINITION. Hardware semaphores (R289-R291) and the guard of register writes (R292, R434, R386). -/

namespace Sys2Proof.Machine

/-- A semaphore. -/
def getSem (s : State) (n : Nat) : Sem := Tbl.get {} s.gl.sems n

/-- Replaces a semaphore. -/
def setSem (s : State) (n : Nat) (x : Sem) : State :=
  { s with gl := { s.gl with sems := Tbl.set {} s.gl.sems n x } }

/-- Frees a semaphore and sets its EXPIRED bit and bit n of GL_SEM_EXPIRED (R288, R291). -/
def loseSem (s : State) (n : Nat) : State :=
  let x := getSem s n
  let s1 := setSem s n { x with held := false, expired := true }
  { s1 with gl := { s1.gl with semExpired := s1.gl.semExpired ||| BitVec.ofNat 32 (2 ^ n) } }

/-- A report of a semaphore or the guard; before stage 7 no collector takes reports (R386, R387). -/
def semReport (s : State) (r : Report) : State := if s.sec.stage = 7 then report s r else s

/-- A lease that has run out frees its semaphore and is reported on the former holder's ring (R291). -/
def expireSem (s : State) (n : Nat) : State :=
  let x := getSem s n
  if x.held ∧ x.leaseEnd ≤ s.now then
    semReport (loseSem s n) (portReport Code.eSemExpired x.owner [])
  else s

/-- The port holds the semaphore. -/
def holdsSem (s : State) (p : RlPort) (n : Nat) : Bool :=
  (getSem s n).held && decide ((getSem s n).owner = p)

/-- The port and the offset of the register that a command reaches through the set-up window. -/
def portReach : Instr → Option (RlPort × Nat)
  | .registerWrite port offset _ _ => some (port, offset.toNat)
  | .readClear port offset _ _ => some (port, offset.toNat)
  | .w1cWrite port offset _ _ => some (port, offset.toNat)
  | .semTake port n => some (port, 0x100 + 8 * n.val)
  | .semRelease port n _ => some (port, 0x100 + 8 * n.val)
  | .bootGo port _ => some (port, 0x3200008)
  | _ => none

/-- The other port meets `port` at the register of offset `o` in the same cycle: its access is the next of the queue, and no
time lies between commands of the queue. -/
def portsMeet (s : State) (port : RlPort) (o : Nat) : Bool :=
  match s.pending.head?.bind portReach with
  | some (q, o') => q != port && o' == o
  | none => false

/-- The record of the last tie (R287). The command that stands first in the queue is the one that won it (DESIGN CHOICE,
log 14; `execSemTake` alone asks the record who wins). -/
def noteTie (s : State) (port : RlPort) (o : Nat) : State :=
  if portsMeet s port o then { s with gl := { s.gl with lastTie := port } } else s

/-- The guarded write from a port without the semaphore is ignored, counted and reported (R292). -/
def guardRefuse (s : State) (p : RlPort) : State :=
  let g := if p = 0 then { s.gl with guardErr0 := satAdd s.gl.guardErr0 1 }
    else { s.gl with guardErr1 := satAdd s.gl.guardErr1 1 }
  semReport { s with gl := g } (portReport Code.eSemGuard p [])

/-- The full window answers: boot stage 7, out of reset, the port up (R386, R387). -/
def windowOpen (s : State) (p : RlPort) : Bool := s.sec.stage == 7 && !s.gl.inReset && rlUp s p

/-- A write from a port to a register that a semaphore guards: it acts when the port holds the semaphore (R292). -/
def guarded (s0 : State) (p : RlPort) (n : Nat) (f : State → State) : State :=
  if windowOpen s0 p then
    let s := expireSem s0 n
    if holdsSem s p n then f s else guardRefuse s p
  else s0

/-- The length of a lease in ns. -/
def leaseNs (s : State) : Nat := s.gl.semLease.toNat * 1000000

/-- Semaphore 2 answers from reset on; no other answers until stage 7 (R437). -/
def semAnswers (s : State) (p : RlPort) (n : Nat) : Bool := !s.gl.inReset && rlUp s p && (s.sec.stage == 7 || n == 2)

/-- A GL_SEM_n word as a port reads it (Table 13.2). -/
def semWord (s : State) (who : Option RlPort) (n : Nat) : Nat :=
  let x := getSem s n
  let got := match who with | some p => x.held && decide (x.owner = p) | none => false
  pack [(0, b2n x.held), (1, b2n got), (2, if x.held then x.owner.val else 0), (3, b2n x.expired), (16, x.ticket.toNat),
    (32, if x.held then (x.leaseEnd - s.now) / 1000 else 0)]

/-- A read of GL_SEM_n takes a free semaphore, renews one held by the reading port, and changes nothing otherwise (R289). -/
def semTakeRead (s0 : State) (port : RlPort) (n : Nat) : State :=
  let s := expireSem s0 n
  let x := getSem s n
  if x.held then
    if x.owner = port then setSem s n { x with leaseEnd := s.now + leaseNs s } else s
  else setSem s n { held := true, owner := port, expired := false, ticket := x.ticket + 1, leaseEnd := s.now + leaseNs s }

/-- The word that a read of GL_SEM_n returns, after its effect. -/
def semReturn (s : State) (port : RlPort) (n : Nat) : State := send s (.regValue port (BitVec.ofNat 64 (semWord s (some port) n)))

/-- The port that meets this one at its read of GL_SEM_n and wins, because this one won the previous tie (R287). -/
def semRival (s : State) (port : RlPort) (n : Nat) : Option RlPort :=
  if s.gl.lastTie = port then
    match s.pending.head? with
    | some (.semTake q m) => if q ≠ port ∧ m.val = n ∧ semAnswers s q n then some q else none
    | _ => none
  else none

/-- A read of GL_SEM_n under the rule of ties: the rival's read is served first, and its own command then finds the semaphore
its own with the same lease (R287, R289). -/
def semTakeTied (s : State) (port : RlPort) (n : Nat) : State :=
  match semRival s port n with
  | some q => semTakeRead (semTakeRead { s with gl := { s.gl with lastTie := q } } q n) port n
  | none => semTakeRead (noteTie s port (0x100 + 8 * n)) port n

/-- SEM_TAKE: a read of GL_SEM_n (R289). Before it answers, it reads 0 (R386, R437). -/
def execSemTake (port : RlPort) (n : Fin 32) (s : State) : Host.Outcome State Fault Refusal :=
  if semAnswers s port n.val then .next (semReturn (semTakeTied s port n.val) port n.val)
  else if rlUp s port ∧ !s.gl.inReset then .next (send s (.regValue port 0))
  else .next s

/-- A write of GL_SEM_n with RELEASE 1 from the holding port with the current TICKET frees the semaphore; any other is
ignored (R290). -/
def semReleaseWrite (s0 : State) (port : RlPort) (n : Nat) (value : BitVec 64) : State :=
  let s := expireSem s0 n
  let x := getSem s n
  if value.getLsbD 0 ∧ holdsSem s port n ∧ value.extractLsb' 16 16 = x.ticket then setSem s n { x with held := false } else s

/-- SEM_RELEASE: a write of GL_SEM_n (R290). -/
def execSemRelease (port : RlPort) (n : Fin 32) (value : BitVec 64) (s : State) : Host.Outcome State Fault Refusal :=
  if semAnswers s port n.val then .next (semReleaseWrite s port n.val value) else .next s

/-- SEM_LEASE_EXPIRY: a lease that has run out (R291). -/
def execSemLeaseExpiry (n : Fin 32) (s : State) : Host.Outcome State Fault Refusal := .next (expireSem s n.val)

end Sys2Proof.Machine
end

