-- ==== Sys2Proof/Machine/Packets.lean ====
section
/-! DEFINITION. Packets on the fabric: arrival and checks, waiting, delivery, TAGNAK (R246-R253, R258, R261, R262, R352). -/

namespace Sys2Proof.Machine

/-! ### Delivery -/

/-- INC `i` is newer than `h` in serial order (R352). -/
def incNewer (i h : BitVec 8) : Bool := decide (1 ≤ (i - h).toNat) && decide ((i - h).toNat ≤ 127)

/-- A data packet's INC raises the coordinate's, or the packet is stale and discarded (R352). -/
def checkInc (s : State) (k : Packet) : Option State :=
  let h := Tbl.get 0 s.fab.inc k.src.toNat
  if !k.isData ∨ k.inc = h then some s
  else if incNewer k.inc h then some { s with fab := { s.fab with
    inc := Tbl.set 0 s.fab.inc k.src.toNat k.inc, raised := s.fab.raised ++ [k.src] } }
  else none

/-- What R261 does with a packet's epoch. -/
inductive TagVerdict where
  | deliver (b : TagBind) | nak (newer : Bool) | stale
  deriving DecidableEq, Repr

/-- The comparison of a packet's epoch with the tag's reference epoch (R261). -/
def tagVerdict (s : State) (k : Packet) : TagVerdict :=
  match bindOfTag s k.jtag with
  | some b =>
    let d := (k.tepoch - b.tepoch).toNat
    if d = 0 then .deliver b else if d ≤ 7 then .nak true else .stale
  | none =>
    let d := (k.tepoch - (Tbl.get 15 s.tags.retired k.jtag.toNat + 1)).toNat
    if d = 0 then .nak false else if d ≤ 7 then .nak true else .stale

/-- A packet has reached this device: it waits for its unit, which takes every packet without waiting for buffer space (R251). -/
def deliverPacket (s : State) (k : Packet) : State := { s with fab := { s.fab with delivered := s.fab.delivered ++ [k] } }

/-- A control packet of device firmware from a tray slot is its heartbeat (R351, DEDUCED). -/
def heardFrom (s : State) (k : Packet) : State :=
  if k.unit = 5 ∧ !k.isData ∧ k.src.toNat / 8 = s.sec.coord.toNat / 8 ∧ cSlot k.src < 5 then
    { s with res := { s.res with heard := s.res.heard ||| BitVec.ofNat 5 (2 ^ cSlot k.src) } }
  else s

/-- A packet that has failed its check, or whose ENC is not that of its binding (R250). -/
def badPacket (s : State) (fp : Nat) : State := report s (fabReport Code.eFabIntegrity deferred fp [])

/-- A packet under a binding of this device: its ENC and its CRC-32C or GCM tag are checked, then it is delivered, its payload in
the clear. A key that XD0's security block cannot serve fails the check on either die (R13, R250, R263). -/
def deliverBound (s : State) (fp : Nat) (b : TagBind) (k : Packet) : State :=
  if k.isData && (k.enc != b.enc) then badPacket s fp
  else
    match (bindKey s b).bind (openPacket k) with
    | some q => deliverPacket s q
    | none => badPacket s fp

/-- A packet whose CRC fails; a protected payload is checked under its binding's key only. -/
def crcBad (k : Packet) : Bool := !(k.isData && k.enc) && (openPacket k none).isNone

/-- A packet for this device is checked and delivered (R250, R261, R262, R352). JTAG 0 carries the packets of device firmware, of
UNIT 6, and the directory's messages, which concern no context (DESIGN CHOICE, log 96). -/
def arrive (s0 : State) (fp : Nat) (k : Packet) : State :=
  let s := giveCredit s0 (some fp) k.net k.vc (packetSlots k)
  if crcBad k then badPacket s fp
  else
    match checkInc s k with
    | none => s
    | some t =>
      if k.jtag = 0 then (if k.unit = 3 ∨ k.unit = 5 ∨ k.unit = 6 then deliverPacket (heardFrom t k) k else t)
      else
        match tagVerdict t k with
        | .deliver b => deliverBound t fp b k
        | .nak newer => sendFab t k.src (Fin.ofNat 2 (fpPlane fp)) (.tagnak newer k)
        | .stale =>
          let x : XDie := Fin.ofNat 2 (fpPlane fp)
          setXd t x { getXd t x with fabStale := satAdd (getXd t x).fabStale 1 }

/-- A waiting packet is offered to its output again; one for a coordinate that the device has come to serve is delivered. -/
def offerPacket (s : State) (b : BufPkt) : State :=
  if forMe s b.pkt.dst then arrive s ((b.fp.map Fin.val).getD 0) b.pkt
  else
    let p := b.fp.map Fin.val
    match routeOf s (b.via.map Fin.val) b.pkt with
    | none => giveCredit s p b.pkt.net b.pkt.vc (packetSlots b.pkt)
    | some r =>
      let k := { b.pkt with plane := Fin.ofNat 2 (fpPlane r.1), vc := r.2.1, standin := r.2.2 }
      if canLeave s r.1 k then leave (giveCredit s p b.pkt.net b.pkt.vc (packetSlots b.pkt)) r.1 k
      else { s with fab := { s.fab with bufs := s.fab.bufs ++ [b] } }

/-- Offers the waiting packets to their outputs again, in the order they came. -/
def offerBufs (s : State) : State := s.fab.bufs.foldl offerPacket { s with fab := { s.fab with bufs := [] } }

/-- Slots of an input buffer in use: of a port, a network and a channel (R252). -/
def bufUsed (s : State) (fp : FPort) (net vc : Fin 2) : Nat :=
  ((s.fab.bufs.filter (fun b => b.fp == some fp && b.pkt.net == net && b.pkt.vc == vc)).map (fun b => packetSlots b.pkt)).sum

/-- PACKET_RECEIVE: a packet arrives at a port and is checked, delivered or routed onward (R247, R253, R258). The 512 slots of its
input buffer have room for it, since its sender held the credit (R252). -/
def execPacketReceive (fp : FPort) (pkt : Packet) (s : State) : Host.Outcome State Fault Refusal :=
  if linksRun s ∧ fpUp s fp.val ∧ bufUsed s fp pkt.net pkt.vc + packetSlots pkt ≤ 512 then
    if coordBad pkt.dst ∨ coordBad pkt.src then
      .next (report (giveCredit s (some fp.val) pkt.net pkt.vc (packetSlots pkt)) (fabReport Code.eFabCoord deferred fp.val []))
    else if forMe s pkt.dst then .next (arrive s fp.val pkt)
    else if pkt.hops = 15 then
      .next (report (giveCredit s (some fp.val) pkt.net pkt.vc (packetSlots pkt)) (fabReport Code.eFabHops deferred fp.val []))
    else .next (forward s (some fp.val) (some fp.val) pkt)
  else .next s

/-- PACKET_AGED: a packet has waited more than 50 µs in the device (R252). -/
def execPacketAged (index : Nat) (s : State) : Host.Outcome State Fault Refusal :=
  match s.fab.bufs[index]? with
  | some b =>
    if linksRun s ∧ b.since + 50000 < s.now then
      let t := { s with fab := { s.fab with bufs := s.fab.bufs.eraseIdx index } }
      .next (report (giveCredit t (b.fp.map Fin.val) b.pkt.net b.pkt.vc (packetSlots b.pkt))
        (fabReport Code.eFabAged deferred ((b.fp.map Fin.val).getD 0) []))
    else .next s
  | none => .next s

/-- CREDIT: the peer grants input-buffer slots; waiting packets go on (R252). -/
def execCredit (fp : FPort) (net vc : Fin 2) (slots : Nat) (s : State) : Host.Outcome State Fault Refusal :=
  if linksRun s ∧ fpUp s fp.val then
    let x := getFp s fp.val
    let k := creditKey net vc
    .next (offerBufs (setFp s fp.val { x with credits := Tbl.set 0 x.credits k (min 512 (Tbl.get 0 x.credits k + slots)) }))
  else .next s

/-- TAGNAK: a packet of this device has been refused; it goes again 8 µs later (R262). -/
def execTagnak (_newer : Bool) (refused : Packet) (s : State) : Host.Outcome State Fault Refusal :=
  if linksRun s ∧ forMe s refused.src then
    .next { s with fab := { s.fab with naks := s.fab.naks ++ [(refused, s.now + 8000)] } }
  else .next s

/-- A refused packet goes again as its binding now stands: under its epoch, and a protected payload under a fresh packet counter
(R262, R263). What is held is the packet with its payload in the clear. -/
def resendNaked (s : State) (b : TagBind) (k : Packet) : State :=
  let q := { k with tepoch := b.tepoch, hops := 0, standin := false, vc := 0 }
  if k.isData then
    match bindOf s ⟨b.part, b.ctx⟩, bindKey s b with
    | some i, some key =>
      let n := Tbl.get 0 s.tags.pctr (2 * i + k.sdie.val)
      let t := { s with tags := { s.tags with pctr := Tbl.set 0 s.tags.pctr (2 * i + k.sdie.val) (n + 1) } }
      sendPkt t (sealPacket { q with enc := b.enc, pctr := n } key)
    | _, _ => s
  else sendPkt s (sealPacket q none)

/-- TAGNAK_RESEND: the refused packet goes again while its tag is bound here, with the binding's epoch (R260, R262). -/
def execTagnakResend (index : Nat) (s : State) : Host.Outcome State Fault Refusal :=
  match s.fab.naks[index]? with
  | some q =>
    if linksRun s ∧ q.2 ≤ s.now then
      let t := { s with fab := { s.fab with naks := s.fab.naks.eraseIdx index } }
      match bindOfTag t q.1.jtag with
      | some b => .next (resendNaked t b q.1)
      | none => .next t
    else .next s
  | none => .next s

end Sys2Proof.Machine
end

