-- ==== Sys2Proof/Machine/Ports.lean ====
section
/-! DEFINITION. Fabric ports: bring-up, equalisation, spare lanes, blocks and retry, circuits, tag bindings (R237-R245,
R259, R260), and the die-to-die links (R11). -/

namespace Sys2Proof.Machine

/-! ### Lanes -/

/-- Data lanes that circuits hold on a port: L3, or L2 and L3; the largest use of either direction (R259). -/
def circLanes (s : State) (p : Nat) (out : Bool) : Nat :=
  ((upto 8).map (fun c =>
    let x := Tbl.get ({} : Circ) s.fab.circs (8 * fpPlane p + c)
    if x.en ∧ (if out then x.outp else x.inp).toNat = fpRole p then (if x.width then 2 else 1) else 0)).sum

/-- CIRC of XD_FP_STAT. -/
def circUse (s : State) (p : Nat) : Nat := max (circLanes s p false) (circLanes s p true)

/-- LANES of XD_FP_STAT: the data positions active in the packet link. -/
def packetLanes (s : State) (p : Nat) : BitVec 4 :=
  let x := getFp s p
  if x.state = .active then ~~~ x.dead &&& (match circUse s p with | 0 => 0xF | 1 => 0x7 | _ => 0x3) else 0

/-- A port enters RETRAIN: its blocks stay in the retry buffer (Table 11.2). -/
def enterRetrain (s : State) (p : Nat) : State :=
  setFp s p { getFp s p with state := .retrain, since := s.now, trained := false, nakAt := none }

/-- No data lane of the port is healthy: each has failed, or a circuit holds it (R242). -/
def noLane (s : State) (p : Nat) (dead : BitVec 4) : Bool :=
  dead ||| (match circUse s p with | 0 => 0x0 | 1 => 0x8 | _ => 0xC) == (0xF : BitVec 4)

/-- A lane has failed: LS takes it from a block 16 ahead on when LS is free, else the port goes on with the lanes it has left
(R242). -/
def laneFail (s : State) (p lane : Nat) : State :=
  let x := getFp s p
  if lane = 4 then
    -- LS itself: a lane that it carries is lost with it
    if x.spare.toNat < 4 then
      let d := x.dead ||| BitVec.ofNat 4 (2 ^ x.spare.toNat)
      let t := report (setFp s p { x with spare := 5, dead := d }) (fabReport Code.eFabLane deferred p [])
      if noLane s p d then enterRetrain t p else t
    else setFp s p { x with spare := 5, swapRx := none, swapTx := none }
  else if x.dead.getLsbD lane ∨ x.spare.toNat = lane ∨ x.swapRx.any (fun q => q.1.val == lane) then s
  else if x.spare = 4 ∧ x.swapRx.isNone then
    send (setFp s p { x with swapRx := some (Fin.ofNat 4 lane, x.rxSeq + 16) }) (.linkSwap (Fin.ofNat 36 p) lane (x.rxSeq + 16))
  else
    let d := x.dead ||| BitVec.ofNat 4 (2 ^ lane)
    let t := report (setFp s p { x with dead := d }) (fabReport Code.eFabLane deferred p [])
    if noLane s p d then enterRetrain t p else t

/-! ### Bring-up (R238-R240) -/

/-- A write of XD_FP_CTRL: EN, RETRAIN and SWAP_TH (Table 11.10). -/
def fpCtrlWrite (s : State) (p : Nat) (v : BitVec 32) : State :=
  let x := getFp s p
  let x1 := { x with swapTh := v.extractLsb' 6 8, en := v.getLsbD 0 }
  if !v.getLsbD 0 then setFp s p { x1 with state := .disabled, retrain := false }
  else if x.state = .disabled then setFp s p { x1 with state := .detect, since := s.now, next := s.now }
  else if v.getLsbD 5 ∧ x.state = .active then enterRetrain (setFp s p { x1 with retrain := true }) p
  else setFp s p x1

/-- The semaphore of a port's exchange die (R434). -/
def fpSem (fp : FPort) : Nat := 18 + fpPlane fp.val

/-- PORT_ENABLE: a write of XD_FP_CTRL (R239). -/
def execPortEnable (port : RlPort) (fp : FPort) (value : BitVec 32) (s : State) : Host.Outcome State Fault Refusal :=
  .next (guarded s port (fpSem fp) (fun t => fpCtrlWrite t fp.val value))

/-- RETRAIN: a write of XD_FP_CTRL with RETRAIN 1 (Table 11.10). -/
def execRetrain (port : RlPort) (fp : FPort) (value : BitVec 32) (s : State) : Host.Outcome State Fault Refusal :=
  .next (guarded s port (fpSem fp) (fun t => fpCtrlWrite t fp.val value))

/-- Lanes in a mask. -/
def laneCount (m : BitVec 5) : Nat := ((upto 5).filter (fun i => m.getLsbD i)).length

/-- The lanes' taps at the start of TRAIN: the last converged values while the device holds them, else the transmit preset, CTLE
at mid-range and the DFE at 0 (R241). -/
def startTaps (x : FPortSt) : FPortSt :=
  if x.warm then x
  else
    let l : Lane := { cm2 := Config.presetTap x.preset 0, cm1 := Config.presetTap x.preset 1, cp1 := Config.presetTap x.preset 2 }
    { x with lanes := (upto 5).foldl (fun t i => Tbl.set {} t i l) x.lanes }

/-- PORT_DETECT: an attempt finds signal on some lanes; four start TRAIN, else the next attempt is 10 ms later (R239). -/
def execPortDetect (fp : FPort) (signals : BitVec 5) (s : State) : Host.Outcome State Fault Refusal :=
  let x := getFp s fp.val
  if linksRun s ∧ x.state = .detect ∧ x.next ≤ s.now then
    if 4 ≤ laneCount signals then .next (setFp s fp.val (startTaps { x with state := .train, since := s.now, sig := signals }))
    else .next (setFp s fp.val { x with next := s.now + 10000000 })
  else .next s

/-- PORT_TRAIN_DONE: TRAIN ends, and its taps are held while the device is powered; in RETRAIN the training part ends (R239,
R241). -/
def execPortTrainDone (fp : FPort) (s : State) : Host.Outcome State Fault Refusal :=
  let x := getFp s fp.val
  if linksRun s ∧ x.state = .train then .next (setFp s fp.val { x with state := .align, since := s.now, warm := true })
  else if linksRun s ∧ x.state = .retrain then .next (setFp s fp.val { x with trained := true })
  else .next s

/-- What a port sends in NEGOTIATE: protocol version 3 with its minor version, coordinate and port, lanes, KFP2 mode (R239). -/
def sendNegotiate (s : State) (fp : FPort) : State :=
  let x := getFp s fp.val
  send s (.linkNegotiate fp s.sec.kfpMinor s.sec.coord x.sig x.kfp2)

/-- PORT_ALIGN_DONE: ALIGN ends; a port in RETRAIN is ACTIVE again (R239). -/
def execPortAlignDone (fp : FPort) (s : State) : Host.Outcome State Fault Refusal :=
  let x := getFp s fp.val
  if linksRun s ∧ x.state = .align then
    .next (sendNegotiate (setFp s fp.val { x with state := .negotiate, since := s.now, next := s.now + 100000000 }) fp)
  else if linksRun s ∧ x.state = .retrain ∧ x.trained then
    .next (offerBufs (setFp s fp.val { x with state := .active, since := s.now, retrain := false, trained := false, fails := 0, lastAck := s.now }))
  else .next s

/-- The tray of a torus neighbour: roles 4 +X, 5 −X, 6 +Y, 7 −Y. -/
def torusPeer (tray role : Nat) : Nat :=
  let x := tray % 4
  let y := tray / 4
  match role with
  | 4 => y * 4 + (x + 1) % 4
  | 5 => y * 4 + (x + 3) % 4
  | 6 => (y + 1) % 4 * 4 + x
  | _ => (y + 3) % 4 * 4 + x

/-- The peer that Table 11.1 gives a tray or rack port: its coordinate and port number (R237). -/
def wiredPeer (c : Coord) (p : Nat) : Option (Nat × Nat) :=
  let r := fpRole p
  let tray := c.toNat / 8
  if r < 4 then some (8 * tray + (cSlot c + 1 + r) % 5, 18 * fpPlane p + 3 - r)
  else if r < 8 then
    some (c.toNat / 128 * 128 + 8 * torusPeer (cTray c) r + cSlot c, 18 * fpPlane p + (if r % 2 = 0 then r + 1 else r - 1))
  else none

/-- The peer matches Table 11.1; row and hall ports are not checked (R238). -/
def wiringOk (s : State) (p : Nat) (peer : Coord) (peerPort : Nat) : Bool :=
  match wiredPeer s.sec.coord p with
  | some w => w.1 == peer.toNat && w.2 == peerPort
  | none => true

/-- Both ends carry KFP3 major version 3 and minor versions at most one apart (R240). -/
def versionOk (own major minor : Nat) : Bool := major == 3 && decide (minor ≤ own + 1) && decide (own ≤ minor + 1)

/-- SPARE and the data lanes out of use, from the lanes that both ends have: LS stands in for the lowest missing one (DEDUCED from
R239 and R242, log 97). -/
def laneSetup (m : BitVec 5) : BitVec 3 × BitVec 4 :=
  let miss : BitVec 4 := ~~~ (m.setWidth 4)
  if m.getLsbD 4 then
    match (upto 4).find? (fun i => miss.getLsbD i) with
    | some i => (BitVec.ofNat 3 i, miss &&& ~~~ (BitVec.ofNat 4 (2 ^ i)))
    | none => (4, 0)
  else (5, miss)

/-- A port becomes ACTIVE on the lanes that both ends have: its input buffers are granted to the peer (R252). -/
def activatePort (s : State) (p minor : Nat) (lanes : BitVec 5) : State :=
  let x := getFp s p
  let t := setFp s p { x with
    state := .active, since := s.now, minor := BitVec.ofNat 4 minor, retrain := false, txSeq := 0, rxSeq := 0, unacked := []
    fails := 0, nakAt := none, credits := [], spare := (laneSetup (x.sig &&& lanes)).1, dead := (laneSetup (x.sig &&& lanes)).2
    swapRx := none, swapTx := none, fill := 10, lastAck := s.now }
  [(0, 0), (0, 1), (1, 0), (1, 1)].foldl (fun u q => send u (.linkCredit (Fin.ofNat 36 p) (Fin.ofNat 2 q.1) (Fin.ofNat 2 q.2) 512)) t

/-- What the exchange of NEGOTIATE finds wrong, each reported (R238, R240). -/
def negotiateFaults (s : State) (p major minor : Nat) (peer : Coord) (peerPort : Nat) : List (BitVec 16) :=
  (if versionOk s.sec.kfpMinor.toNat major minor then [] else [Code.eFabVersion]) ++
  (if wiringOk s p peer peerPort then [] else [Code.eFabWiring])

/-- NEGOTIATE: the peer's version, coordinate, port, lanes and KFP2 mode arrive (R238-R240). A KFP2 port checks neither version
nor wiring (R266). Ends of different mode stay in NEGOTIATE (DEDUCED, log 97). -/
def execNegotiate (fp : FPort) (major minor : Nat) (peer : Coord) (peerPort : Nat) (lanes : BitVec 5) (kfp2 : Bool) (s : State) :
    Host.Outcome State Fault Refusal :=
  let x := getFp s fp.val
  let own := s.sec.kfpMinor.toNat
  if linksRun s ∧ x.state = .negotiate then
    if x.kfp2 ≠ kfp2 then .next s
    else if x.kfp2 then .next (offerBufs (activatePort s fp.val 0 lanes))
    else
      let bad := negotiateFaults s fp.val major minor peer peerPort
      if bad = [] then .next (offerBufs (activatePort s fp.val (min own minor) lanes))
      else .next (bad.foldl (fun t c => report t (fabReport c deferred fp.val [])) s)
  else .next s

/-- NEGOTIATE_RETRY: a port held in NEGOTIATE repeats the exchange every 100 ms (R240). -/
def execNegotiateRetry (fp : FPort) (s : State) : Host.Outcome State Fault Refusal :=
  let x := getFp s fp.val
  if linksRun s ∧ x.state = .negotiate ∧ x.next ≤ s.now then
    .next (sendNegotiate (setFp s fp.val { x with next := s.now + 100000000 }) fp)
  else .next s

/-- The packets that blocks hold, each once, in order: one whose later blocks are not acknowledged is among them (R245). -/
def blockPackets (l : List Block) : List Packet := (l.flatMap (·.pkts)).eraseDups

/-- RETRAIN_TIMEOUT: after 10 ms in RETRAIN the port is down; its unacknowledged packets are routed again, along the dimension
in which they were going (R245, R254). -/
def execRetrainTimeout (fp : FPort) (s : State) : Host.Outcome State Fault Refusal :=
  let x := getFp s fp.val
  if linksRun s ∧ x.state = .retrain ∧ x.since + 10000000 ≤ s.now then
    let t := setFp s fp.val { x with state := .detect, since := s.now, next := s.now, unacked := [], retrain := false, credits := [] }
    .next (report ((blockPackets x.unacked).foldl (fun u k => forward u none (some fp.val) { k with hops := k.hops - 1 }) t)
      (fabReport Code.eFabLinkDown deferred fp.val []))
  else .next s

/-! ### Equalisation (R241) -/

/-- A transmit tap of a lane. -/
def Lane.tapOf (l : Lane) (i : Fin 3) : BitVec 8 := match i with | 0 => l.cm2 | 1 => l.cm1 | 2 => l.cp1

/-- Replaces a transmit tap. -/
def Lane.setTap (l : Lane) (i : Fin 3) (v : BitVec 8) : Lane :=
  match i with | 0 => { l with cm2 := v } | 1 => { l with cm1 := v } | 2 => { l with cp1 := v }

/-- One step of a tap's code, within the code's range. -/
def tapStep (v : BitVec 8) (up : Bool) : BitVec 8 :=
  if up then (if v = 0x7F then v else v + 1) else (if v = 0x80 then v else v - 1)

/-- A window closes: the step on trial is kept when the count is at least 1/8 lower; otherwise the one step of this window
reverses it (DEDUCED, log 97). Where none is to be reversed, one step is asked of the next tap. Its sign and the codes of CTLE and
DFE are the adaptation's own. -/
def laneWindow (l : Lane) (count : BitVec 32) (free : Nat) : Lane :=
  let worse : Option (Fin 3 × Bool) := l.trial.filter (fun _ => !decide (8 * count.toNat ≤ 7 * l.count.toNat))
  let l1 := { l with count := count, ctle := Config.ctleCode free, dfe := (upto 12).map (Config.dfeCode free) }
  match worse with
  | some q => { l1.setTap q.1 (tapStep (l1.tapOf q.1) (!q.2)) with trial := none }
  | none =>
    let up := Config.eqUp free
    { l1.setTap l1.tap (tapStep (l1.tapOf l1.tap) up) with trial := some (l1.tap, up), tap := l1.tap + 1 }

/-- EQ_WINDOW: a 1 ms window of a lane closes; three windows in a row above SWAP_TH × 1,024 fail the lane (R241, R242). -/
def execEqWindow (fp : FPort) (r : EqReading) (s : State) : Host.Outcome State Fault Refusal :=
  let x := getFp s fp.val
  if linksRun s ∧ (x.state = .active ∨ x.state = .train ∨ x.state = .retrain) then
    let l := Tbl.get ({} : Lane) x.lanes r.lane.val
    let n := if x.swapTh.toNat * 1024 < r.count.toNat then l.above + 1 else 0
    let l' := { laneWindow l r.count s.free with above := if n = 3 then 0 else n }
    let t := setFp (takeFree s 1) fp.val { x with lanes := Tbl.set {} x.lanes r.lane.val l' }
    if n = 3 ∧ x.state = .active then .next (laneFail t fp.val r.lane.val) else .next t
  else .next s

/-- LANE_LOCK_LOSS, of a data lane or of LS (R242). -/
def execLaneLockLoss (fp : FPort) (lane : Fin 5) (s : State) : Host.Outcome State Fault Refusal :=
  if linksRun s ∧ fpUp s fp.val then .next (laneFail s fp.val lane.val) else .next s

/-- SWAP: the peer's receiver names a failed lane; this end carries it on LS from the named block on (R242). -/
def execSwap (fp : FPort) (lane : Fin 4) (seq : BitVec 10) (s : State) : Host.Outcome State Fault Refusal :=
  let x := getFp s fp.val
  if linksRun s ∧ fpUp s fp.val ∧ x.spare = 4 then .next (setFp s fp.val ({ x with swapTx := some (lane, seq) } : FPortSt).swapDue)
  else .next s

/-! ### Blocks and retry (R244) -/

/-- The blocks that an ACK acknowledges are gone: those before the SEQ that the peer expects next. -/
def ackBlocks (x : FPortSt) (ack : BitVec 10) (now : Nat) : FPortSt :=
  let l := x.unacked.dropWhile (fun b => decide (0 < (ack - b.seq).toNat) && decide ((ack - b.seq).toNat ≤ 512))
  if l.length < x.unacked.length then { x with unacked := l, lastAck := now, fails := 0 } else x

/-- Blocks are sent again from a SEQ; the eighth time in a row for one SEQ the port enters RETRAIN. -/
def resendFrom (s : State) (p : Nat) (seq : BitVec 10) : State :=
  let x := ackBlocks (getFp s p) seq s.now
  let n := x.unacked.length
  let k := if x.failSeq = seq then x.fails + 1 else 1
  let t := send (setFp s p { x with retry := satAdd x.retry n, failSeq := seq, fails := k, lastAck := s.now })
    (.linkResend (Fin.ofNat 36 p) seq n)
  if 8 ≤ k then enterRetrain t p else t

/-- A block with nothing but idle slots answers one that has arrived, so that its ACK reaches the peer (R243, R244). The idle
blocks between, which change nothing but their SEQ, are not sent one by one (DESIGN CHOICE, log 93). -/
def idleBlock (s : State) (p : Nat) : State := if (getFp s p).unacked.length < 512 then beginBlocks s p 1 10 [] else s

/-- The receiver discards a block: it sends NAK with the SEQ it expects, once; NAK_REPEAT repeats it (R244). -/
def discardBlock (s : State) (p : Nat) (x : FPortSt) : State :=
  if x.nakAt.isSome then setFp s p x
  else send (setFp s p { x with nakAt := some (s.now + 1000) }) (.linkNak (Fin.ofNat 36 p) x.rxSeq)

/-- LS has taken over a failed lane in the receiving direction once the named block is there: E_FAB_LANE, CORRECTED (R242). -/
def swapArrived (s : State) (p : Nat) : State :=
  let x := getFp s p
  match x.swapRx with
  | some (l, q) =>
    if (x.rxSeq - q).toNat < 512 then
      report (setFp s p { x with spare := BitVec.ofNat 3 l.val, swapRx := none }) (fabReport Code.eFabLane corrected p [])
    else s
  | none => s

/-- A codeword of a circuit: it has no retry; an uncorrectable one is counted and goes on marked as bad, to the endpoint or out
of the next port (R259). -/
def circuitBlock (s : State) (p : Nat) (c : Fin 8) (good : Bool) (corrected : Nat) (data : Bytes) : State :=
  let die : XDie := Fin.ofNat 2 (fpPlane p)
  let x := Tbl.get ({} : Circ) s.fab.circs (8 * die.val + c.val)
  let q := getFp s p
  let t := setFp s p (if good then { q with fec := satAdd q.fec corrected } else { q with uncorr := satAdd q.uncorr 1 })
  if !x.en ∨ x.inp.toNat ≠ fpRole p then s
  else if x.outp = 24 then { t with fab := { t.fab with circIn := t.fab.circIn ++ [(die, c, good, data)] } }
  else send t (.circuit (Fin.ofNat 36 (18 * die.val + x.outp.toNat)) good data)

/-- BLOCK_RECEIVE: a codeword arrives with its corrected symbols, its SEQ and its ACK, or on a circuit's lanes (R243, R244,
R259). -/
def execBlockReceive (fp : FPort) (good : Bool) (corrected : Nat) (seq ack : BitVec 10) (circuit : Option (Fin 8)) (data : Bytes)
    (s : State) : Host.Outcome State Fault Refusal :=
  if linksRun s ∧ fpUp s fp.val then
    match circuit with
    | some c => .next (circuitBlock s fp.val c good corrected data)
    | none =>
      let x0 := getFp s fp.val
      if good then
        let x := ackBlocks { x0 with fec := satAdd x0.fec corrected } ack s.now
        if seq = x.rxSeq then
          .next (offerBufs (idleBlock (swapArrived (setFp s fp.val { x with rxSeq := x.rxSeq + 1, nakAt := none }) fp.val) fp.val))
        else .next (discardBlock s fp.val x)
      else .next (discardBlock s fp.val { x0 with uncorr := satAdd x0.uncorr 1 })
  else .next s

/-- NAK: the peer expects a SEQ (R244). -/
def execNak (fp : FPort) (seq : BitVec 10) (s : State) : Host.Outcome State Fault Refusal :=
  if linksRun s ∧ fpUp s fp.val then .next (resendFrom s fp.val seq) else .next s

/-- NAK_REPEAT: a receiver that waits repeats its NAK every 1 µs (R244). -/
def execNakRepeat (fp : FPort) (s : State) : Host.Outcome State Fault Refusal :=
  let x := getFp s fp.val
  match x.nakAt with
  | some t =>
    if linksRun s ∧ fpUp s fp.val ∧ t ≤ s.now then
      .next (send (setFp s fp.val { x with nakAt := some (s.now + 1000) }) (.linkNak fp x.rxSeq))
    else .next s
  | none => .next s

/-- ACK_TIMEOUT: ACK has not advanced for 4 µs (R244). -/
def execAckTimeout (fp : FPort) (s : State) : Host.Outcome State Fault Refusal :=
  let x := getFp s fp.val
  match x.unacked with
  | b :: _ => if linksRun s ∧ fpUp s fp.val ∧ x.lastAck + 4000 ≤ s.now then .next (resendFrom s fp.val b.seq) else .next s
  | [] => .next s

/-! ### Circuits (R259) -/

/-- The fields of a write of XD_CIRC_c (Table 11.12). -/
def circOf (v : BitVec 32) : Circ :=
  { en := v.getLsbD 0, width := v.getLsbD 1, inp := v.extractLsb' 2 5, outp := v.extractLsb' 7 5, endpt := v.extractLsb' 12 2 }

/-- An end of a circuit is a tray or rack port, or an endpoint. -/
def circEndOk (e : BitVec 5) : Bool := decide (e.toNat < 8) || e == 24

/-- An entry is refused, enabled or not: a row or hall port, a reserved value; or more than two circuit lanes of a port in one
direction. -/
def circBad (s : State) (die : Nat) (c : Nat) (x : Circ) : Bool :=
  let t := { s with fab := { s.fab with circs := Tbl.set {} s.fab.circs (8 * die + c) x } }
  !circEndOk x.inp || !circEndOk x.outp || x.endpt == 3 ||
    (upto 8).any (fun p => decide (2 < circLanes t (18 * die + p) false) || decide (2 < circLanes t (18 * die + p) true))

/-- A write of XD_CIRC_c. -/
def circWrite (s : State) (die : XDie) (c : Fin 8) (v : BitVec 32) : State :=
  let x := circOf v
  if circBad s die.val c.val x then
    setXd s die { getXd s die with circErr := (getXd s die).circErr ||| BitVec.ofNat 8 (2 ^ c.val) }
  else { s with fab := { s.fab with circs := Tbl.set {} s.fab.circs (8 * die.val + c.val) x } }

/-- CIRCUIT_WRITE (R259). -/
def execCircuitWrite (port : RlPort) (die : XDie) (c : Fin 8) (value : BitVec 32) (s : State) : Host.Outcome State Fault Refusal :=
  .next (guarded s port (18 + die.val) (fun t => circWrite t die c value))

/-! ### Tag bindings (R260, R263) -/

/-- The fields of a write of XD_TAG_BIND (Table 11.9). -/
def bindFields (v : BitVec 64) : TagBind :=
  { en := v.getLsbD 0, enc := v.getLsbD 1, tepoch := v.extractLsb' 2 4, jtag := v.extractLsb' 6 16
    part := Fin.ofNat 8 (bitsOf v.toNat 22 3), ctx := Fin.ofNat 16 (bitsOf v.toNat 25 4), keySlot := Fin.ofNat 128 (bitsOf v.toNat 29 7) }

/-- A binding's word (Table 11.9). -/
def bindBits (b : TagBind) : Nat :=
  pack [(0, b2n b.en), (1, b2n b.enc), (2, b.tepoch.toNat), (6, b.jtag.toNat), (22, b.part.val), (25, b.ctx.val), (29, b.keySlot.val)]

/-- The pairs recorded for a key slot. -/
def keyPairs (s : State) (k : Fin 128) : List (BitVec 16 × BitVec 4) := Tbl.get [] s.tags.pairs k.val

/-- A binding is refused (R260, R393). -/
def bindBad (s : State) (b : TagBind) : Bool :=
  let q := getPart s b.part
  b.jtag == 0 || (bindOfTag s b.jtag).isSome || b.tepoch != Tbl.get 15 s.tags.retired b.jtag.toNat + 1 ||
  (match Tbl.get none s.tags.retiredAt b.jtag.toNat with | some t => decide (s.now < t + 1000000) | none => false) ||
  decide (q.state ≠ .active) || decide (q.nctx1.toNat < b.ctx.val) ||
  (b.enc && (!(getKey s b.keySlot).valid || decide ((getKey s b.keySlot).part ≠ b.part) || (keyPairs s b.keySlot).contains (b.jtag, b.tepoch) || decide (64 ≤ (keyPairs s b.keySlot).length)))

/-- A binding is made: PCTR restarts on both dies, and a protected one is recorded with its key slot (R263). -/
def makeBind (s : State) (i : Nat) (b : TagBind) : State :=
  let t := { s.tags with
    binds := Tbl.set {} s.tags.binds i b
    pctr := Tbl.erase (Tbl.erase s.tags.pctr (2 * i)) (2 * i + 1)
    pairs := if b.enc then Tbl.set [] s.tags.pairs b.keySlot.val (keyPairs s b.keySlot ++ [(b.jtag, b.tepoch)]) else s.tags.pairs }
  mirror { s with tags := t } b.part (mirrorAt 4 (8 * i)) (leBytes 8 (bindBits b))

/-- A write of XD_TAG_BIND to the selected binding. -/
def tagWrite (s : State) (v : BitVec 64) : State :=
  let i := s.tags.sel.toNat
  let old := Tbl.get ({} : TagBind) s.tags.binds i
  let b := bindFields v
  let refuse : State := { s with tags := { s.tags with err := true } }
  if old.en then (if b = old then s else if b.en then refuse else retireBind s i)
  else if b.en then (if bindBad s b then refuse else makeBind s i b)
  else { s with tags := { s.tags with binds := Tbl.set {} s.tags.binds i b } }

/-- TAG_BIND; semaphore 18 guards the tag registers. -/
def execTagBind (port : RlPort) (value : BitVec 64) (s : State) : Host.Outcome State Fault Refusal :=
  .next (guarded s port 18 (fun t => tagWrite t value))

/-- TAG_RETIRE: the same register, with EN 0. -/
def execTagRetire (port : RlPort) (value : BitVec 64) (s : State) : Host.Outcome State Fault Refusal :=
  .next (guarded s port 18 (fun t => tagWrite t value))

/-! ### Die-to-die links (R11) -/

/-- The flit that a link carries next: one that has failed its check is replayed before any other (R11). -/
def d2dFlit (s : State) (link : Fin 12) (sent : Bytes) : Bytes :=
  match Tbl.get [] s.fab.d2dHeld link.val with
  | [] => sent
  | b => b

/-- A flit as it has arrived, with the CRC that came with it, passes its check. -/
def d2dOk (got : Bytes) (crc : BitVec 32) : Bool := Config.d2dCrc got == crc

/-- D2D_FLIT_RECEIVE: `sent` is the flit that the link's sender has next, `got` and `crc` what arrives. A flit that fails its
check is held and replayed; the sixteenth failure in a row makes the link fail, DEVICE_FATAL (R11). -/
def execD2dFlitReceive (link : Fin 12) (sent got : Bytes) (crc : BitVec 32) (s : State) : Host.Outcome State Fault Refusal :=
  if s.gl.inReset ∨ s.gl.stopped then .next s
  else
    let ok := d2dOk got crc
    let n := if ok then 0 else Tbl.get 0 s.fab.d2dFails link.val + 1
    let t := { s with fab := { s.fab with
      d2dFails := Tbl.set 0 s.fab.d2dFails link.val n
      d2dHeld := Tbl.set [] s.fab.d2dHeld link.val (if ok then [] else d2dFlit s link sent) } }
    if n = 16 then .next (report t (devReport Code.eD2dLink deviceFatal 19 link.val [])) else .next t

end Sys2Proof.Machine
end

