-- ==== Sys2Proof/Machine/FabricTime.lean ====
section
/-! DEFINITION. Fabric Time: the time tree and its exchanges (R264, R265), and the Fabric Time unit (R377-R380). -/

namespace Sys2Proof.Machine

/-! ### The time tree (R264) -/

/-- The device holds the hall time master's coordinate (R388). -/
def isTimeMaster (s : State) : Bool := servedCoord s == s.sec.tmaster

/-- The tray on the way from a tray towards tray 0: X first, then Y. -/
def towardTray0 (tray : Nat) : Nat × Nat :=
  let x := tray % 4
  let y := tray / 4
  if x = 1 ∨ x = 2 then (y * 4 + (x - 1), 5)
  else if x = 3 then (y * 4, 4)
  else if y = 1 ∨ y = 2 then ((y - 1) * 4, 7)
  else (0, 6)

/-- The parent of a coordinate in a tree with a given master, and the role of the port that leads to it (R264): tray link,
torus link, row switch 0 or hall spine 0. -/
def timeParent (master c : Coord) : Option (Coord × Nat) :=
  if c = master then none
  else if cSlot c ≠ 0 then some (BitVec.ofNat 17 (c.toNat / 8 * 8), trayRole (cSlot c) 0)
  else if cTray c ≠ 0 then
    some (BitVec.ofNat 17 (c.toNat / 128 * 128 + (towardTray0 (cTray c)).1 * 8), (towardTray0 (cTray c)).2)
  else if cRack c ≠ 0 then some (BitVec.ofNat 17 (c.toNat / 4096 * 4096), 8)
  else some (master, 16)

/-- The parent of the coordinate that the device serves (R264, R380). -/
def myParent (s : State) : Option (Coord × Nat) := timeParent s.sec.tmaster (servedCoord s)

/-- The port of the path to the parent: plane 0, else the same path on plane 1. A device that serves another's coordinate
goes by the route function. KFP2 carries no Fabric Time (R264, R266, R380). -/
def timePort (s : State) : Option Nat :=
  match myParent s with
  | none => none
  | some (q, role) =>
    let p := if s.fab.acting.isSome then (routeOf s none (probePacket q 0)).map (·.1) else rolePort s 0 role
    p.filter (fun k => !(getFp s k).kfp2)

/-- The plane on which a time message to a coordinate travels: that of the path to the parent for the parent, else that of the
route (R264, R265). -/
def timePlane (s : State) (dst : Coord) : XDie :=
  let port := if (myParent s).any (fun q => q.1 == dst) then timePort s else (routeOf s none (probePacket dst 0)).map (·.1)
  Fin.ofNat 2 (fpPlane (port.getD 0))

/-! ### The count -/

/-- Fractions of a nanosecond in which the count's rate is held: 2^-16 × 10^-9 ns. -/
def ftUnit : Nat := 65536000000000

/-- The count advances by one nanosecond of the raw clock at the trimmed rate (R378). -/
def ftAdvance (x : Ft) : Ft :=
  let n := x.frac + ((ftUnit : Int) + x.r).toNat
  { x with count := x.count + BitVec.ofNat 64 (n / ftUnit), frac := n % ftUnit }

/-! ### The servo (R378) -/

/-- Clamps an integer into ± a bound. -/
def clampI (m v : Int) : Int := max (-m) (min m v)

/-- FMAX and RMAX. -/
def ftFmax : Int := 100000 * 65536
/-- RMAX. -/
def ftRmax : Int := 200000 * 65536

/-- One application of the servo; `div` is 1,000 for the hall time master's gains (R379). -/
def servo (x : Ft) (e : Int) (div : Int) : Ft :=
  if x.state = .acquire ∧ 1000 * 65536 < e.natAbs then
    { x with count := x.count - BitVec.ofInt 64 (e / 65536), f := 0 }
  else
    let f := clampI ftFmax (x.f - 1562 * e / div)
    { x with f := f, r := clampI ftRmax (f - 25000 * e / div) }

/-- The state in which an accepted exchange is applied (Table 16.10). -/
def ftOnAccept (x : Ft) : FtState :=
  match x.state with
  | .free => .acquire
  | .holdover => if x.locked then .locked else .acquire
  | .acquire => .acquire
  | .locked => .locked
  | .master => .master

/-- An accepted exchange: the servo, and LOCKED after 64 with |e| below 2 ns (R377, R378). -/
def ftAccept (x0 : Ft) (e : Int) (now : Nat) (port : Nat) : Ft :=
  let x := servo { x0 with state := ftOnAccept x0 } e 1
  let good := if e.natAbs < 2 * 65536 then x.good + 1 else 0
  let lock : Bool := x.state == .locked || decide (64 ≤ good)
  let far : Bool := x.state == .locked && decide (1000 * 65536 < e.natAbs)
  { x with
    state := if lock then .locked else x.state
    locked := x.locked || lock
    good := good
    e := e
    lastAccept := now
    farSince := if far then some (x.farSince.getD now) else none
    plane := Fin.ofNat 2 (fpPlane port)
    port := BitVec.ofNat 6 port }

/-- The least delay among the last 64 exchanges, in 2^-16 ns. -/
def leastDelay (l : List Int) : Int := l.foldl min (l.headD 0)

/-- An exchange is complete: it is accepted when its delay is at most 16 ns above the least of the last 64 (R378). -/
def ftExchange (s : State) (e d : Int) : State :=
  let l := (d :: s.ft.delays).take 64
  let x : Ft := { s.ft with delays := l, sync := none }
  if d ≤ leastDelay l + 16 * 65536 then
    match timePort s with
    | some p => { s with ft := ftAccept x e s.now p }
    | none => { s with ft := x }
  else { s with ft := { x with reject := satAdd x.reject 1 } }

/-! ### Commands -/

/-- TSYNC_SEND: every 10 µs, to each child (R265). -/
def execTsyncSend (child : Coord) (s : State) : Host.Outcome State Fault Refusal :=
  if linksRun s ∧ (timeParent s.sec.tmaster child).any (fun q => forMe s q.1) then
    .next (sendFab { s with ft := { s.ft with seq := s.ft.seq + 1 } } child (timePlane s child) (.tsync s.ft.seq s.ft.count))
  else .next s

/-- TSYNC arrives at the child, which stamps T2 and sends TREQ with T3 (R265). -/
def execTsync (parent : Coord) (seq : BitVec 16) (t1 : BitVec 64) (s : State) : Host.Outcome State Fault Refusal :=
  if linksRun s ∧ (myParent s).any (fun q => q.1 == parent) then
    let y : FtSync := { seq := seq, t1 := t1, t2 := s.ft.count, t3 := s.ft.count }
    .next (sendFab { s with ft := { s.ft with sync := some y } } parent (timePlane s parent) (.treq seq y.t3))
  else .next s

/-- TREQ arrives at the parent, which answers with T4 (R265). -/
def execTreq (child : Coord) (seq : BitVec 16) (_t3 : BitVec 64) (s : State) : Host.Outcome State Fault Refusal :=
  if linksRun s ∧ (timeParent s.sec.tmaster child).any (fun q => forMe s q.1) then
    .next (sendFab s child (timePlane s child) (.tresp seq s.ft.count 0))
  else .next s

/-- TRESP arrives: offset and delay are formed in 2^-16 ns and go to the servo (R265, R378). -/
def execTresp (seq : BitVec 16) (t4 corr : BitVec 64) (s : State) : Host.Outcome State Fault Refusal :=
  match s.ft.sync with
  | some y =>
    if linksRun s ∧ y.seq = seq then
      let a := (y.t2 - y.t1).toInt * 65536
      let b := (t4 - y.t3).toInt * 65536
      .next (ftExchange s ((a - b - corr.toInt) / 2) ((a + b - corr.toInt) / 2))
    else .next s
  | none => .next s

/-- FT_HOLDOVER_ENTRY: 1 ms without an accepted exchange, or no path left (R264, R377). -/
def execFtHoldoverEntry (s : State) : Host.Outcome State Fault Refusal :=
  let x := s.ft
  if linksRun s ∧ (x.state = .acquire ∨ x.state = .locked) ∧ (x.lastAccept + 1000000 ≤ s.now ∨ (timePort s).isNone) then
    .next (report { s with ft := { x with state := .holdover, r := x.f, good := 0, farSince := none } }
      (devReport Code.eFtHoldover deferred 16 0 []))
  else .next s

/-- FT_RANGE: |e| has stayed above 1 µs for 100 ms in LOCKED (R378). -/
def execFtRange (s : State) : Host.Outcome State Fault Refusal :=
  match s.ft.farSince with
  | some t =>
    if linksRun s ∧ s.ft.state = .locked ∧ t + 100000000 ≤ s.now then
      .next (report { s with ft := { s.ft with farSince := none } } (devReport Code.eFtRange deferred 16 0 []))
    else .next s
  | none => .next s

/-- The distance of a stamp from the nearest multiple of 10^9 ns, in 2^-16 ns (R379). -/
def ppsOffset (count : Nat) : Int :=
  let m : Int := count % 1000000000
  65536 * (if m < 500000000 then m else m - 1000000000)

/-- The first PPS edge: the count takes FT_SET's value, else the next multiple of 10^9 ns, and the unit is MASTER (R379). -/
def ppsFirst (x : Ft) : Ft :=
  let v := x.set.getD (BitVec.ofNat 64 (ceilDiv x.count.toNat 1000000000 * 1000000000))
  { x with count := v, frac := 0, state := .master, set := none, ppsCap := v }

/-- PPS_IN: only the hall time master uses it (R379, R455). The count of a device that has been LOCKED since reset, and comes to serve the
master's coordinate, does not step at its first edge (R377, R380). -/
def execPpsIn (s : State) : Host.Outcome State Fault Refusal :=
  if linksRun s ∧ isTimeMaster s then
    if s.ft.state = .master ∨ s.ft.locked then
      let e := ppsOffset s.ft.count.toNat
      .next { s with ft := { servo { s.ft with state := .master } e 1000 with e := e, ppsCap := s.ft.count, lastAccept := s.now } }
    else .next { s with ft := ppsFirst s.ft }
  else .next s

/-- A write of FT_SET: the master's only, in FREE (Table 16.11). -/
def ftSetWrite (s : State) (v : BitVec 64) : State :=
  if isTimeMaster s ∧ s.ft.state = .free then { s with ft := { s.ft with set := some v } } else s

/-- FT_SET; semaphore 3 guards it (R381). -/
def execFtSet (port : RlPort) (value : BitVec 64) (s : State) : Host.Outcome State Fault Refusal :=
  .next (guarded s port 3 (fun t => ftSetWrite t value))

/-- FT_STAT's STATE (Table 16.10). -/
def FtState.code : FtState → Nat
  | .free => 0
  | .acquire => 1
  | .locked => 2
  | .holdover => 3
  | .master => 4

end Sys2Proof.Machine
end

