-- ==== Sys2Proof/Machine/Identity.lean ====
section
/-! DEFINITION. The device's keys and identity (R383), and certificates (R385). -/

namespace Sys2Proof.Machine

/-- The ASCII bytes of a label. -/
def label (w : String) : Bytes := w.toList.map (fun c => BitVec.ofNat 8 c.toNat)

/-- The seed that the SRAM PUF gives (R383). -/
def pufSeed : Bytes := (upto 32).map Config.pufSeed

/-- A private scalar derived from the seed under a label (R383). -/
def derivedKey (l : String) : Nat := beNat (sha256 (pufSeed ++ label l)) % (p256N - 1) + 1

/-- The identity key IK. -/
def ikScalar : Nat := derivedKey "KY-ID"
/-- The transport key TK. -/
def tkScalar : Nat := derivedKey "KY-TK"

/-- IK's public key. -/
def ikPub : Bytes := pubKey ikScalar
/-- TK's public key. -/
def tkPub : Bytes := pubKey tkScalar

/-- DEVID: the first 8 bytes of the SHA-256 of IK's public key (R383). -/
def devId : Bytes := (sha256 ikPub).take 8

/-- The Meter Room's public key. -/
def meterPub : Bytes := pubKey Config.meterKey

/-- A run of bytes of a structure. -/
def cut (bs : Bytes) (lo n : Nat) : Bytes := (bs.drop lo).take n

/-- A field of a structure, little-endian. -/
def cutNat (bs : Bytes) (lo n : Nat) : Nat := leNat (cut bs lo n)

/-- Every byte of a run is 0. -/
def zeroRun (bs : Bytes) (lo n : Nat) : Bool := (cut bs lo n).all (· == 0)

/-- A certificate is valid (R385, Table 17.1). -/
def certOk (magic : Nat) (c : Bytes) : Bool :=
  c.length == 272 && cutNat c 0 4 == magic && cutNat c 4 2 == 1 && sha256 (cut c 144 64) == Config.rootCa &&
  ecdsaVerify (cut c 144 64) (sha256 (c.take 208)) (cut c 208 64)

/-- An identity certificate is this device's (R385). -/
def idCertOk (c : Bytes) : Bool :=
  certOk 0x4349594B c && cut c 8 8 == devId && cut c 16 64 == ikPub && cut c 80 64 == tkPub

end Sys2Proof.Machine
end

