-- ==== Sys2Proof/Machine/Host.lean ====
section
/-! DEFINITION. Contexts, rings and doorbells (R293-R300, R311), teardown by the driver (R330), and the Ryutil ports
going down and up (R288). -/

namespace Sys2Proof.Machine

/-! ### Hand-over and doorbell -/

/-- The ring entry at a free-running position (R295). -/
def ringEntry (s : State) (c : CtxId) (k : BitVec 32) : Desc :=
  let x := getCtx s c
  BitVec.ofNat 512 (leNat (readComp s x.desc.rport (x.desc.cring.toNat + 64 * (k.toNat % 2 ^ x.desc.clog2.toNat)) 64))

/-- Hands ring entries to the sequencer queues in ring order: it stops at a full queue, and a CORE that is not below the
partition's core count faults the context; that command did not issue and was not rejected at issue, so it writes no
completion (R297, R299, R300). A handed OP_EXPERT_PLAN becomes one of the context's plans in
ring order (R310). -/
def handOver : Nat → State → CtxId → State
  | 0, s, _ => s
  | n + 1, s, c =>
    let x := getCtx s c
    if x.state ≠ .ready ∨ x.cmdHead = x.cmdTail then s
    else
      let d := ringEntry s c x.cmdHead
      let e : Entry := { cid := c, pos := x.cmdHead, fromList := false, listPos := 0, desc := d }
      let p := getPart s c.part
      if ncores p ≤ fld d 16 7 then
        reportRej s (cmdReport Code.eCmdCore contextFatal e 0 0 []) (some e.pos)
      else
        let core := coreAt p (fld d 16 7)
        let q := getSeq s c core
        if 64 ≤ q.queue.length then s
        else
          let plans := if opcode d = 0x0303
            then x.plans ++ [{ pos := x.cmdHead, handed := false, out := 0, left := coresOf p }] else x.plans
          handOver n (setSeq (setCtx s c { x with cmdHead := x.cmdHead + 1, plans := plans }) c core
            { q with queue := q.queue ++ [e] }) c

/-- A resident context's published entries are handed over, and its status line is written (R297, R299), but not in a replay for
a command whose completion record was already written (R353). -/
def feed (s : State) (c : CtxId) : State :=
  let x := getCtx s c
  let p := getPart s c.part
  if isResident s c && p.switching.isNone && rlUp s x.desc.rport then
    let t := handOver (ahead x.cmdTail x.cmdHead) s c
    if x.replayed.contains ((getCtx t c).cmdHead - 1) then t else writeStatus t c
  else s

/-- The device reads a context's doorbell line: bad ring positions fault the context (R295); new commands give it work
(R321, R322). Of a FAULTED context it takes what the line holds, and completions that a full ring held may go (R298). -/
def readDoorbell (s : State) (c : CtxId) : State :=
  let x := getCtx s c
  let line := readComp s x.desc.rport x.desc.dbell.toNat 8
  let tail := BitVec.ofNat 32 (leNat (line.take 4))
  let head := BitVec.ofNat 32 (leNat (line.drop 4))
  if 2 ^ x.desc.clog2.toNat < ahead tail x.cmdHead ∨ (0 < ahead head x.cplTail ∧ ahead head x.cplTail < 2 ^ 31) then
    report s (ctxReport Code.eRingIndex contextFatal c 14 x.desc.rport.val [])
  else
    let fresh : Bool := tail != x.cmdTail
    let had := hasWork s c
    let s1 := setCtx s c { x with cmdTail := tail, cplHead := head, yielded := x.yielded && !fresh }
    let s2 := if !had && hasWork s1 c then raiseVt s1 c else s1
    if x.state = .ready then onGain (feed s2 c) c.part else s2

/-- The device may serve a context's ring: it is READY and its port is up. -/
def ringLive (s : State) (c : CtxId) : Bool :=
  unitsRun s && decide ((getCtx s c).state = .ready) && rlUp s (getCtx s c).desc.rport

/-- The device watches a context's doorbell line: the context is READY or FAULTED after a bring-up that succeeded (R294, R295)
and its port is up. -/
def lineWatched (s : State) (c : CtxId) : Bool := unitsRun s && (getCtx s c).watched && rlUp s (getCtx s c).desc.rport

/-- DOORBELL: a companion store has invalidated the watched line (R295). -/
def execDoorbell (cid : CtxId) (s : State) : Host.Outcome State Fault Refusal :=
  if lineWatched s cid then .next (readDoorbell s cid) else .next s

/-- SEQUENCER_QUEUE_ROOM: hand-over resumes (R297). -/
def execSequencerQueueRoom (cid : CtxId) (s : State) : Host.Outcome State Fault Refusal :=
  if ringLive s cid then .next (feed s cid) else .next s

/-- CPL_FULL: a completion has been held by a full ring for HANG_MS of resident time (R298). -/
def execCplFull (core : CoreI) (pos listPos : BitVec 32) (s : State) : Host.Outcome State Fault Refusal :=
  match coreCtx s core.val with
  | none => .next s
  | some c =>
    let x := getCtx s c
    match (getSeq s c core.val).inflight.find? (fun f => isEntry pos listPos f && f.heldAt.isSome) with
    | some f =>
      if unitsRun s ∧ cplRingFull x ∧ f.heldAt.getD 0 + hangNs s c ≤ residentClock s c then
        .next (report s (cmdReport Code.eCplFull contextFatal f.entry 0 core.val []))
      else .next s
    | none => .next s

/-! ### Bring-up -/

/-- A context descriptor's fields (Table 13.4), with the values of CONF_PCT and HANG_MS that act (R101, R102). -/
def ctxDescOf (v : Nat) : CtxDesc :=
  let ls := bitsOf v 32 32
  { rport := Fin.ofNat 2 (bitsOf v 0 1)
    clog2 := BitVec.ofNat 5 (bitsOf v 1 5)
    qlog2 := BitVec.ofNat 5 (bitsOf v 6 5)
    jtag := BitVec.ofNat 16 (bitsOf v 16 16)
    strict := bitAt ls 0
    confPct := BitVec.ofNat 8 (min 100 (bitsOf ls 8 8))
    hangMs := BitVec.ofNat 14 (clamp 100 10000 (bitsOf ls 16 14))
    cring := BitVec.ofNat 64 (bitsOf v 64 64)
    qring := BitVec.ofNat 64 (bitsOf v 128 64)
    dbell := BitVec.ofNat 64 (bitsOf v 192 64)
    sline := BitVec.ofNat 64 (bitsOf v 256 64)
    slottab := BitVec.ofNat 44 (bitsOf v 320 44)
    rngtab := BitVec.ofNat 44 (bitsOf v 364 44)
    fq := (upto 4).map (fun q => (BitVec.ofNat 44 (bitsOf v (512 + 64 * q) 44), BitVec.ofNat 5 (bitsOf v (556 + 64 * q) 5))) }

/-- Reserved bits of a context descriptor or of its control word are not all 0 (Tables 13.4 and 4.5). -/
def ctxDescReserved (v : Nat) : Bool :=
  bitsOf v 11 5 != 0 || bitsOf v 33 7 != 0 || bitsOf v 62 2 != 0 || bitsOf v 408 104 != 0 || bitsOf v 768 256 != 0 ||
  (upto 4).any (fun q => bitsOf v (561 + 64 * q) 15 != 0)

/-- A log2 size of 6 to 16. -/
def log2Ok (n : Nat) : Bool := decide (6 ≤ n) && decide (n ≤ 16)

/-- An enabled binding maps the JTAG to the partition and context (R260). -/
def boundTo (s : State) (jtag : BitVec 16) (c : CtxId) : Bool :=
  (upto 128).any (fun i =>
    let b := Tbl.get ({} : TagBind) s.tags.binds i
    b.en && b.jtag == jtag && decide (b.part = c.part) && decide (b.ctx = c.ctx))

/-- The content of a context descriptor is accepted (R293, second list). -/
def ctxDescOk (s : State) (c : CtxId) (v : Nat) (d : CtxDesc) : Bool :=
  !ctxDescReserved v && log2Ok d.clog2.toNat && log2Ok d.qlog2.toNat &&
  decide (d.cring.toNat % 4096 = 0) && decide (d.qring.toNat % 4096 = 0) &&
  decide (d.dbell.toNat % 128 = 0) && decide (d.sline.toNat % 128 = 0) && decide (d.slottab.toNat % 64 = 0) &&
  inPages s c.part d.slottab.toNat 512 && (d.rngtab == 0 || inPages s c.part d.rngtab.toNat 512) &&
  (d.jtag == 0 || boundTo s d.jtag c) &&
  d.fq.all (fun f => f.2 == 0 && decide (f.1.toNat % 128 = 0) ||
    (log2Ok f.2.toNat && decide (f.1.toNat % 128 = 0) && inPages s c.part f.1.toNat (128 + 64 * 2 ^ f.2.toNat)))

/-- A slot of a slot table, from its eight bytes (Table 4.2). -/
def slotOf (v : Nat) : Slot :=
  { base64 := BitVec.ofNat 18 (bitsOf v 0 18)
    size64 := BitVec.ofNat 18 (bitsOf v 18 18)
    gen := BitVec.ofNat 16 (bitsOf v 36 16)
    state := if bitsOf v 52 2 = 2 then .full else .empty
    valid := bitAt v 54 }

/-- A slot table's words. -/
def slotWords (bs : Bytes) : List Nat := (upto 64).map (fun i => leNat ((bs.drop (8 * i)).take 8))

/-- The regions of two slots overlap. -/
def slotsOverlap (a b : Slot) : Bool :=
  decide (a.base64.toNat < b.base64.toNat + b.size64.toNat) && decide (b.base64.toNat < a.base64.toNat + a.size64.toNat)

/-- A declared slot table is accepted (R96): every valid entry ends inside the local store and is at least one unit
long, none overlap, no declared state is FILLING or DRAINING, no reserved bit is set. A declared entry with
EXTERN 1, and a valid one with SIZE64 0, fail too, which R96 does not list (DESIGN CHOICE, log 91). -/
def slotTableOk (ws : List Nat) : Bool :=
  let ts := ws.map slotOf
  ws.all (fun v => bitsOf v 56 8 == 0 && !bitAt v 55) &&
  ws.all (fun v => !bitAt v 54 || (!(bitAt v 52) && decide (0 < bitsOf v 18 18) &&
    decide ((bitsOf v 0 18 + bitsOf v 18 18) * 64 ≤ lsSize))) &&
  (upto 64).all (fun i => (upto i).all (fun j =>
    !((nth {} ts i).valid && (nth {} ts j).valid && slotsOverlap (nth {} ts i) (nth {} ts j))))

/-- A random stream of RNGTAB (Table 13.4). -/
def rngOf (bs : Bytes) (i : Nat) : Rng :=
  { key := BitVec.ofNat 64 (leNat ((bs.drop (32 * i)).take 8)), counter := BitVec.ofNat 128 (leNat ((bs.drop (32 * i + 8)).take 16)) }

/-- The 16 streams of RNGTAB. -/
def rngTable (bs : Bytes) : Tbl Rng := (upto 16).foldl (fun t i => Tbl.set {} t i (rngOf bs i)) []

/-- The context selected in RL_CTX_SEL. -/
def selectedCtx (s : State) : CtxId :=
  { part := Fin.ofNat 8 s.rl.ctxSel.toNat, ctx := Fin.ofNat 16 (s.rl.ctxSel.toNat / 8) }

/-- This device protects the partition: it serves as protector (Standby or reserve) and the partition's protection is
enabled and has not taken over (R336, R352). -/
def protects (s : State) (p : PartI) : Bool := s.res.role != 0 && (getRes s p).state != .off && s.fab.acting.isNone

/-- Bring-up of the selected context is refused (R293, first list). `readable` says whether the companion let the descriptor
be read through the port. -/
def bringupRefused (s : State) (c : CtxId) (readable : Bool) : Bool :=
  let p := getPart s c.part
  decide (p.state ≠ .active) || decide (p.nctx1.toNat < c.ctx.val) || decide ((getCtx s c).state ≠ .absent) ||
  protects s c.part || decide (s.rl.ctxDesc.toNat % 128 ≠ 0) || !readable

/-- A bring-up that fails: the context becomes FAULTED with a code on the ring of RPORT (R293). -/
def bringupFail (s : State) (c : CtxId) (d : CtxDesc) (code : BitVec 16) : State :=
  let x := getCtx s c
  report (setCtx s c { x with state := .bringup, desc := d, cmdHead := 0, cmdTail := 0, cplTail := 0, cplHead := 0, fatalSeen := false })
    (ctxReport code contextFatal c 14 d.rport.val [])

/-- A context descriptor's words (Table 13.4). -/
def ctxDescBytes (d : CtxDesc) : Bytes :=
  leBytes 128 (pack ([(0, d.rport.val), (1, d.clog2.toNat), (6, d.qlog2.toNat), (16, d.jtag.toNat), (32, b2n d.strict),
    (40, d.confPct.toNat), (48, d.hangMs.toNat), (64, d.cring.toNat), (128, d.qring.toNat), (192, d.dbell.toNat), (256, d.sline.toNat),
    (320, d.slottab.toNat), (364, d.rngtab.toNat)] ++
    (d.fq.zipIdx).flatMap (fun q => [(512 + 64 * q.2, q.1.1.toNat), (556 + 64 * q.2, q.1.2.toNat)])))

/-- A successful bring-up (R294, R322, R332). -/
def bringupDone (s : State) (c : CtxId) (d : CtxDesc) (slots : List Slot) (rng : Tbl Rng) : State :=
  let x := getCtx s c
  let x' : Ctx := { state := .ready, desc := d, rng := rng, weight := x.weight, high := x.high, watched := true
                    vt := lowestVt s c.part (withWork s c.part) }
  let s1 := setCtx s c x'
  let s2 := (coresOf (getPart s c.part)).foldl (fun t k => setSeq t c k { slots := slots, idleSince := s.now }) s1
  readDoorbell (writeStatus (mirror s2 c.part (mirrorAt 2 (128 * CtxId.key c)) (ctxDescBytes d)) c) c

/-- BRINGUP of the selected context, from a port (R293, R294, R96). -/
def bringup (s : State) (port : RlPort) (readable : Bool) : State :=
  let c := selectedCtx s
  if bringupRefused s c readable then
    report s { ctxReport Code.eCtxDesc deferred c 14 port.val [] with ring := some port }
  else
    let v := leNat (readComp s port s.rl.ctxDesc.toNat 128)
    let d := ctxDescOf v
    if !ctxDescOk s c v d then bringupFail s c d Code.eCtxDesc
    else
      match readUni s c.part d.slottab.toNat 512, (if d.rngtab = 0 then .ok [] else readUni s c.part d.rngtab.toNat 512) with
      | .error code, _ => bringupFail s c d code
      | _, .error code => bringupFail s c d code
      | .ok st, .ok rt =>
        if !slotTableOk (slotWords st) then bringupFail s c d Code.eSlotDecl
        else bringupDone s c d ((slotWords st).map slotOf) (if d.rngtab = 0 then [] else rngTable rt)

/-- RL_CTX_CMD 1 (R293); semaphore 5 guards the RL block. -/
def execBringup (port : RlPort) (readable : Bool) (s : State) : Host.Outcome State Fault Refusal :=
  .next (guarded s port 5 (fun t => bringup t port readable))

/-- Teardown of the selected context as the driver asks for it, ignored when ABSENT or in TEARDOWN (R311). While its cores stop
for a switch, they stop for the teardown instead (R330); after that its save stands complete, and its image is marked
empty (R329). -/
def teardownReq (s : State) : State :=
  let c := selectedCtx s
  let x := getCtx s c
  if x.state = .absent ∨ x.state = .teardown then s
  else onLose (teardownCtx s c) c.part

/-- RL_CTX_CMD 2 (R311, R330). -/
def execTeardown (port : RlPort) (s : State) : Host.Outcome State Fault Refusal := .next (guarded s port 5 teardownReq)

/-! ### Ryutil ports -/

/-- The other port. -/
def otherPort (p : RlPort) : RlPort := if p = 0 then 1 else 0

/-- RL_PORT_DOWN: a port's link fails. Its semaphores are freed with EXPIRED set, and E_RL_DOWN is reported on the other
port's ring (R288). -/
def execRlPortDown (port : RlPort) (s : State) : Host.Outcome State Fault Refusal :=
  if rlUp s port then
    let s1 := setRl s port { getRl s port with state := 0, lanes := 0, retryAt := s.now + 10000000 }
    let s2 := (upto 32).foldl (fun t n => if holdsSem t port n then loseSem t n else t) s1
    if s.sec.stage = 7 then .next (report s2 (portReport Code.eRlDown (otherPort port) []))
    else .next s2
  else .next s

/-- RL_PORT_RETRAIN: a down port retries training every 10 ms; `lanes` is what the training finds. When it comes up the
device writes held fatal records and reads every doorbell behind it (R288). -/
def execRlPortRetrain (port : RlPort) (lanes : Fin 9) (s : State) : Host.Outcome State Fault Refusal :=
  if rlUp s port ∨ s.gl.inReset ∨ s.now < (getRl s port).retryAt then .next s
  else if lanes.val = 0 then
    .next (setRl s port { getRl s port with state := 1, lanes := 0, retryAt := s.now + 10000000 })
  else
    let s1 := setRl s port { getRl s port with state := 2, lanes := BitVec.ofNat 4 lanes.val }
    let s2 := ringDrain (getRing s1 port).hold.length s1 port
    let cs := ((List.finRange 8).flatMap (fun p => (List.finRange 16).map (fun c => (⟨p, c⟩ : CtxId)))).filter
      (fun c => decide ((getCtx s2 c).desc.rport = port))
    .next (cs.foldl (fun t c => if lineWatched t c then readDoorbell t c else t) s2)

end Sys2Proof.Machine
end

