-- ==== Sys2Proof/Machine/NumFmt.lean ====
section
/-! DEFINITION. The number formats (R18-R34): exact values, decoding, encoding under a conversion control, block scales
and AL48. -/

namespace Sys2Proof.Machine

/-! ### Exact values -/

/-- A value: NaN, an infinity, or (−1)^neg × m × 2^e exactly; m = 0 is a signed zero. -/
inductive Val where
  | nan
  | inf (neg : Bool)
  | num (neg : Bool) (m : Nat) (e : Int)
  deriving DecidableEq, Repr

/-- Two to a power, as a pair of naturals numerator and denominator. -/
def pow2 (e : Int) : Nat × Nat := if 0 ≤ e then (2 ^ e.toNat, 1) else (1, 2 ^ (-e).toNat)

/-- ⌊log₂⌋ of m × 2^e, for m ≠ 0. -/
def flog2 (m : Nat) (e : Int) : Int := (Nat.log2 m : Int) + e

/-- m × 2^e scaled to the exponent `q`, when q ≤ e. -/
def alignTo (m : Nat) (e q : Int) : Nat := m * 2 ^ (e - q).toNat

/-- a × 2^ea < b × 2^eb. -/
def magLt (a : Nat) (ea : Int) (b : Nat) (eb : Int) : Bool :=
  let q := min ea eb
  decide (alignTo a ea q < alignTo b eb q)

/-- The value is neither NaN nor infinite. -/
def Val.finite : Val → Bool
  | .num _ _ _ => true
  | _ => false

/-- The value's magnitude. -/
def Val.abs : Val → Val
  | .nan => .nan
  | .inf _ => .inf false
  | .num _ m e => .num false m e

/-- The value's negation. -/
def Val.neg : Val → Val
  | .nan => .nan
  | .inf s => .inf (!s)
  | .num s m e => .num (!s) m e

/-- The value times 2^k, exactly. -/
def Val.scale (k : Int) : Val → Val
  | .num s m e => .num s m (e + k)
  | v => v

/-- The exact signed integer at exponent `q` ≤ e. -/
def signedAt (s : Bool) (m : Nat) (e q : Int) : Int := if s then -(alignTo m e q : Int) else (alignTo m e q : Int)

/-- The exact sum; opposite infinities give NaN, an exact zero sum is +0 unless both are −0 (IEEE 754 under
round-to-nearest). -/
def Val.add : Val → Val → Val
  | .nan, _ => .nan
  | _, .nan => .nan
  | .inf a, .inf b => if a = b then .inf a else .nan
  | .inf a, _ => .inf a
  | _, .inf b => .inf b
  | .num s m e, .num t n f =>
    let q := min e f
    let z := signedAt s m e q + signedAt t n f q
    if z = 0 then .num (s && t && m == 0 && n == 0) 0 0 else .num (decide (z < 0)) z.natAbs q

/-- The exact product; 0 × infinity gives NaN. A zero product has the sign of the factors' signs (DESIGN CHOICE, log 82:
R23 and R62 do not give the sign of a zero result under a negative tensor scale). -/
def Val.mul : Val → Val → Val
  | .nan, _ => .nan
  | _, .nan => .nan
  | .inf a, .inf b => .inf (a != b)
  | .inf a, .num t n _ => if n = 0 then .nan else .inf (a != t)
  | .num s m _, .inf b => if m = 0 then .nan else .inf (s != b)
  | .num s m e, .num t n f => .num (s != t) (m * n) (e + f)

/-- The quotient to at least 130 bits, its lowest bit set when it is not exact, so that any rounding of it is the
rounding of the exact quotient. x ÷ 0 is an infinity for x ≠ 0; 0 ÷ 0 and infinity ÷ infinity are NaN. -/
def Val.div : Val → Val → Val
  | .nan, _ => .nan
  | _, .nan => .nan
  | .inf _, .inf _ => .nan
  | .inf a, .num t _ _ => .inf (a != t)
  | .num s _ _, .inf b => .num (s != b) 0 0
  | .num s m e, .num t n f =>
    if n = 0 then (if m = 0 then .nan else .inf (s != t))
    else if m = 0 then .num (s != t) 0 0
    else
      let k := 130 + Nat.log2 n
      let q := m * 2 ^ k / n
      let r := m * 2 ^ k % n
      .num (s != t) (2 * q + (if r = 0 then 0 else 1)) (e - f - k - 1)

/-- The square root to at least 130 bits, its lowest bit set when it is not exact; −0 gives −0, a negative value NaN. -/
def Val.sqrt : Val → Val
  | .nan => .nan
  | .inf s => if s then .nan else .inf false
  | .num s m e =>
    if m = 0 then .num s 0 0
    else if s then .nan
    else
      let k : Nat := 260 + (if (e - 260) % 2 = 0 then 0 else 1)
      let n := m * 2 ^ k
      let r := Nat.sqrt n
      .num false (2 * r + (if r * r = n then 0 else 1)) ((e - k) / 2 - 1)

/-- a < b as numbers; false when either is NaN; −0 equals +0. -/
def Val.lt : Val → Val → Bool
  | .nan, _ => false
  | _, .nan => false
  | .inf a, .inf b => a && !b
  | .inf a, _ => a
  | _, .inf b => !b
  | .num s m e, .num t n f =>
    let q := min e f
    decide (signedAt s m e q < signedAt t n f q)

/-! ### Formats -/

/-- Bits of an element (Table 2.1). -/
def fmtBits (f : Nat) : Nat := nth 0 [32, 16, 16, 8, 8, 6, 6, 4, 8, 4] f

/-- Exponent bits, mantissa bits and bias of a floating-point format (Table 2.1). -/
def fmtParams (f : Nat) : Nat × Nat × Int :=
  nth (8, 23, 127) [(8, 23, 127), (8, 7, 127), (5, 10, 15), (4, 3, 7), (5, 2, 15), (3, 2, 3), (2, 3, 1), (2, 1, 1)] f

/-- FP32, BF16 or FP16. -/
def isWide (f : Nat) : Bool := decide (f ≤ 2)

/-- A narrow format, which carries a block scale: FP8, FP6, FP4, INT8, INT4. -/
def isNarrow (f : Nat) : Bool := decide (3 ≤ f) && decide (f ≤ 9)

/-- INT8 or INT4. -/
def isIntFmt (f : Nat) : Bool := f == 8 || f == 9

/-- The largest finite magnitude, as m × 2^e (Table 2.1). -/
def fmtMax (f : Nat) : Nat × Int :=
  nth (0, 0) [(2 ^ 24 - 1, 104), (255, 120), (2047, 5), (7, 6), (7, 13), (7, 2), (15, -1), (3, 1), (127, 0), (7, 0)] f

/-- emax of a scaled element format (Table 2.2). -/
def fmtEmax (f : Nat) : Int := nth 0 [0, 0, 0, 8, 15, 4, 2, 2, 6, 2] f

/-- The canonical NaN pattern; 0 for the formats without NaN (R19, Table 2.4). -/
def nanBits (f : Nat) : Nat := nth 0 [0x7FC00000, 0x7FC0, 0x7E00, 0x7F, 0x7E] f

/-- Decodes an element (R18, R19); INT8 and INT4 are two's complement. -/
def decodeElem (f b : Nat) : Val :=
  if isIntFmt f then
    let w := fmtBits f
    let x := b % 2 ^ w
    if x < 2 ^ (w - 1) then .num false x 0 else .num true (2 ^ w - x) 0
  else
    let p := fmtParams f
    let s := bitAt b (p.1 + p.2.1)
    let e := bitsOf b p.2.1 p.1
    let m := bitsOf b 0 p.2.1
    let top := 2 ^ p.1 - 1
    if (f ≤ 2 ∨ f = 4) ∧ e = top then (if m = 0 then .inf s else .nan)
    else if f = 3 ∧ e = top ∧ m = 7 then .nan
    else .num s (if e = 0 then m else m + 2 ^ p.2.1) ((max e 1 : Nat) - p.2.2 - p.2.1)

/-- Decodes an element with its block scale code (R22): a narrow element is multiplied by 2^(code − 127), and code 0xFF
makes it NaN. -/
def decodeScaled (f b code : Nat) : Val :=
  if isNarrow f then (if code = 0xFF then .nan else Val.scale ((code : Int) - 127) (decodeElem f b)) else decodeElem f b

/-! ### Rounding and encoding -/

/-- m × 2^e rounded to a whole multiple of 2^q: to nearest even, or stochastically against the 32-bit word `u`
(R33, R34). The result counts multiples. -/
def roundTo (m : Nat) (e q : Int) (stoch : Bool) (u : Nat) : Nat :=
  if q ≤ e then alignTo m e q
  else
    let k := (q - e).toNat
    let n := m / 2 ^ k
    let r := m % 2 ^ k
    let up : Bool := if stoch then decide (u < r * 2 ^ 32 / 2 ^ k)
      else decide (2 ^ k < 2 * r) || (decide (2 * r = 2 ^ k) && n % 2 == 1)
    if up then n + 1 else n

/-- The exponent of one unit in the last place of a format at a magnitude. -/
def ulpExp (f m : Nat) (e : Int) : Int :=
  if isIntFmt f then 0
  else
    let p := fmtParams f
    max (flog2 m e) (1 - p.2.2) - p.2.1

/-- The bits of n × 2^q, a magnitude that the format holds, with a sign. -/
def finiteBits (f : Nat) (neg : Bool) (n : Nat) (q : Int) : Nat :=
  if isIntFmt f then
    let w := fmtBits f
    if neg then (2 ^ w - n) % 2 ^ w else n
  else
    let p := fmtParams f
    let sgn := b2n neg * 2 ^ (p.1 + p.2.1)
    if n = 0 then sgn
    else
      let l := flog2 n q
      if l < 1 - p.2.2 then sgn + roundTo n q (1 - p.2.2 - p.2.1) false 0
      else sgn + (l + p.2.2).toNat * 2 ^ p.2.1 + (roundTo n q (l - p.2.1) false 0 - 2 ^ p.2.1)

/-- The bits of ±max. -/
def maxBits (f : Nat) (neg : Bool) : Nat := finiteBits f neg (fmtMax f).1 (fmtMax f).2

/-- The bits of an infinity. -/
def infBits (f : Nat) (neg : Bool) : Nat :=
  let p := fmtParams f
  b2n neg * 2 ^ (p.1 + p.2.1) + (2 ^ p.1 - 1) * 2 ^ p.2.1

/-- Event bits of a conversion (R32, R49): 1 NaN source, 2 infinite source, 4 overflow to infinity or NaN,
8 saturation, 16 block scale 0xFF. -/
abbrev Events := Nat

/-- A finite value lies beyond the largest finite value of its destination (R30, Table 2.4): the rounded value for the wide
formats without SAT, which follow the overflow rule of IEEE 754-2019, and the value itself for every other destination.
`n` × 2^`q` is the value m × 2^e rounded. -/
def beyondMax (f : Nat) (sat : Bool) (m : Nat) (e : Int) (n : Nat) (q : Int) : Bool :=
  if isWide f && !sat then magLt (fmtMax f).1 (fmtMax f).2 n q else magLt (fmtMax f).1 (fmtMax f).2 m e

/-- Encodes a value (R28, R30-R34, Table 2.4). `cvt` is the conversion control (Table 2.5), `scaled` says that the
value is already divided by its stored block scale, `u` is the element's random word. -/
def encodeElem (f : Nat) (v : Val) (cvt : Nat) (scaled : Bool) (u : Nat) : Nat × Events :=
  let sat := bitAt cvt 0
  match v with
  | .nan => (nanBits f, 1)
  | .inf s =>
    if isWide f then (if sat then maxBits f s else infBits f s, 2)
    else if f = 3 then (if scaled || !sat then 0x7F else maxBits f s, 2)
    else if f = 4 then (if sat && !scaled then maxBits f s else infBits f s, 2)
    else (maxBits f s, 2)
  | .num s m e =>
    if m = 0 then (finiteBits f s 0 0, 0)
    else
      let q := ulpExp f m e
      let n := roundTo m e q (bitAt cvt 1) u
      if beyondMax f sat m e n q then
        if isWide f then (if sat then (maxBits f s, 8) else (infBits f s, 4))
        else if f = 3 ∧ ¬ (sat ∨ scaled) then (0x7F, 4)
        else if f = 4 ∧ ¬ (sat ∨ scaled) then (infBits f s, 4)
        else (maxBits f s, 8)
      else (finiteBits f s n q, 0)

/-- A value rounded once to FP32, to nearest even. -/
def toF32 (v : Val) : Nat := (encodeElem 0 v 0 false 0).1

/-- The value of an FP32 pattern. -/
def ofF32 (b : Nat) : Val := decodeElem 0 b

/-- A value rounded to FP32 and taken as a value again. -/
def rndF32 (v : Val) : Val := ofF32 (toF32 v)

/-! ### Blocks -/

/-- The largest finite magnitude of a list of values, as a value. -/
def amaxOf (vs : List Val) : Val :=
  vs.foldl (fun a v => match v with
    | .num _ m e => if Val.lt a (.num false m e) then .num false m e else a
    | _ => a) (.num false 0 0)

/-- The block-scale code of R24 from the finite elements alone. -/
def finiteCode (f : Nat) (vs : List Val) : Nat :=
  match amaxOf vs with
  | .num _ m e =>
    if m = 0 then 0
    else
      let x := flog2 m e - fmtEmax f
      if x < -127 then 0 else if 127 < x then 0xFE else (x + 127).toNat
  | _ => 0

/-- The block-scale code of R24: 0xFF for a block that holds a NaN or infinity. -/
def blockCode (f : Nat) (vs : List Val) : Nat := if vs.all Val.finite then finiteCode f vs else 0xFF

/-- Encodes a block with a stored scale (R24, R30): the element bits, the scale code and the events. `us` are the
elements' random words. -/
def encodeBlock (f : Nat) (vs : List Val) (cvt : Nat) (us : List Nat) : List Nat × Nat × Events :=
  let code := blockCode f vs
  let x := (finiteCode f vs : Int) - 127
  let r := (vs.zip us).map (fun p => encodeElem f (Val.scale (-x) p.1) cvt true p.2)
  (r.map (·.1), code, r.foldl (fun a p => a ||| p.2) (if code = 0xFF then 16 else 0))

/-! ### Packing (R56) -/

/-- Packs elements of a format into bytes, lowest element first: FP6 four to three bytes, four-bit elements two to a
byte (R56). -/
def packElems (f : Nat) (es : List Nat) : Bytes :=
  let w := fmtBits f
  let v := (es.zipIdx).foldl (fun a p => a + p.1 % 2 ^ w * 2 ^ (w * p.2)) 0
  leBytes (ceilDiv (w * es.length) 8) v

/-- Element `i` of packed bytes. -/
def unpackElem (f : Nat) (bs : Bytes) (i : Nat) : Nat :=
  let w := fmtBits f
  let lo := w * i / 8
  bitsOf (leNat ((bs.drop lo).take 5)) (w * i % 8) w

/-- Bytes of `n` packed elements. -/
def packedBytes (f n : Nat) : Nat := ceilDiv (fmtBits f * n) 8

/-! ### AL48 (R25-R27) -/

/-- An AL48 group: GEXP, EMPTY, the NaN mask and the sixteen integers. -/
structure Al48 where
  gexp : Nat
  empty : Bool
  nan : Nat
  n : List Int
  deriving DecidableEq, Repr

/-- A signed value of 48 bits. -/
def sext48 (v : Nat) : Int := if v % 2 ^ 48 < 2 ^ 47 then (v % 2 ^ 48 : Nat) else ((v % 2 ^ 48 : Nat) : Int) - 2 ^ 48

/-- A group from its 100 bytes (Table 2.3). A record that breaks a 'must be 0' of the table (numbers under GEXP 0x00, EMPTY or
a NANMASK bit; a reserved bit) is taken as its fields stand, reserved bits dropped (DESIGN CHOICE, log 83: R25 names an error
for GEXP 0xFF only). -/
def al48Of (bs : Bytes) : Al48 :=
  let v := leNat bs
  { gexp := bitsOf v 0 8, empty := bitAt v 8, nan := bitsOf v 10 16,
    n := (upto 16).map (fun i => sext48 (bitsOf v (32 + 48 * i) 48)) }

/-- The 100 bytes of a group. -/
def al48Bytes (g : Al48) : Bytes :=
  leBytes 100 (pack ([(0, g.gexp), (8, b2n g.empty), (10, g.nan)] ++
    (g.n.zipIdx).map (fun p => (32 + 48 * p.2, (p.1 % 2 ^ 48).toNat))))

/-- The exponent of a contribution: ⌊log₂|x|⌋ of its exact value, at least −126; none for zero, NaN and infinity
(R26). An exponent above 127, which R26 rules out for its sources and an exact product may have, is held at 127 (log 84). -/
def contribExp : Val → Option Int
  | .num _ m e => if m = 0 then none else some (min (max (flog2 m e) (-126)) 127)
  | _ => none

/-- The largest of two optional exponents. -/
def maxExp (a b : Option Int) : Option Int :=
  match a, b with
  | none, y => y
  | x, none => x
  | some x, some y => some (max x y)

/-- A contribution as an integer at group exponent E: truncated towards zero (R26). For a magnitude of 2^128 or more, of which
R26 says that it cannot occur, the integer is a free value (log 84). -/
def contribInt (E : Int) : Val → Int
  | .num s m e =>
    if m ≠ 0 ∧ 127 < flog2 m e then (Config.al48Beyond s m e).toInt else
    let k := e + 30 - E
    let n := if 0 ≤ k then m * 2 ^ k.toNat else m / 2 ^ (-k).toNat
    if s then -(n : Int) else n
  | _ => 0

/-- A group of contributions at a group exponent (R26); no exponent means that all are zero or special. An exact product of 2^128 or
more, which R26 and Table 2.4 call impossible and R80 lets PCVT and CVTS form, gets exponent 127 and a free integer (DESIGN CHOICE,
log 84). -/
def toAl48 (E : Option Int) (vs : List Val) : Al48 :=
  { gexp := match E with | some x => (x + 127).toNat | none => 0
    empty := false
    nan := ((vs.zipIdx).map (fun p => if p.1.finite then 0 else 2 ^ p.2)).sum
    n := vs.map (fun v => match E with | some x => contribInt x v | none => 0) }

/-- The exact value of an element of a group (R25, R27): n × 2^(GEXP − 157), NaN where the mask is set. -/
def al48Val (g : Al48) (i : Nat) : Val :=
  if bitAt g.nan i then .nan
  else
    let z := nth 0 g.n i
    .num (decide (z < 0)) z.natAbs ((g.gexp : Int) - 157)

end Sys2Proof.Machine
end

