-- ==== Sys2Proof/Machine/Elem.lean ====
section
/-! DEFINITION. The element ops of the vector engine (Table 3.9): the correctly rounded ones exactly, the others as the
correctly rounded value moved by a free number of units in the last place within the op's bound. -/

namespace Sys2Proof.Machine

/-! ### Fixed-point references

Real values are held as whole multiples of 2^-640, so that every FP32 result of the ops below is far coarser than the
error of the series. -/

/-- Fraction bits of a reference value. -/
def fixBits : Nat := 640

/-- One, as a reference value. -/
def fixOne : Int := 2 ^ fixBits

/-- The product of two reference values. -/
def fixMul (a b : Int) : Int := a * b / fixOne

/-- The quotient of two reference values. -/
def fixDiv (a b : Int) : Int := a * fixOne / b

/-- A finite value as a reference value. -/
def fixOf (neg : Bool) (m : Nat) (e : Int) : Int :=
  let k := e + fixBits
  let n : Nat := if 0 ≤ k then m * 2 ^ k.toNat else m / 2 ^ (-k).toNat
  if neg then -(n : Int) else n

/-- A reference value as a value. -/
def fixVal (x : Int) : Val := .num (decide (x < 0)) x.natAbs (-640)

/-- The sum of `n` terms of a series: `step k t` is the term after term `k`, which is `t`. -/
def fixSeries (step : Nat → Int → Int) : Nat → Nat → Int → Int
  | 0, _, _ => 0
  | n + 1, k, t => t + fixSeries step n (k + 1) (step k t)

/-- Squares a reference value `n` times. -/
def fixSquare : Nat → Int → Int
  | 0, x => x
  | n + 1, x => fixSquare n (fixMul x x)

/-- e^x, for |x| below 400. -/
def fixExp (x : Int) : Int :=
  let y := x / 2 ^ 16
  let p := fixSquare 16 (fixSeries (fun k t => fixMul t y / ((k : Int) + 1)) 60 0 fixOne)
  p

/-- 2 × artanh t, for |t| at most 1/3. -/
def fixAtanh2 (t : Int) : Int :=
  let t2 := fixMul t t
  2 * fixSeries (fun k u => fixMul u t2 * (2 * (k : Int) + 1) / (2 * (k : Int) + 3)) 210 0 t

/-- ln of m × 2^e, m ≠ 0. -/
def fixLog (m : Nat) (e : Int) : Int :=
  let l := flog2 m e
  let z := fixOf false m (e - l)
  fixAtanh2 (fixDiv (z - fixOne) (z + fixOne)) + l * fixAtanh2 (fixOne / 3)

/-- The arc tangent of 1/n. -/
def fixArctanInv (n : Nat) : Int :=
  let q : Int := n * n
  fixSeries (fun k u => -u * (2 * (k : Int) + 1) / (2 * (k : Int) + 3) / q) 300 0 (fixOne / n)

/-- π, by Machin's formula. -/
def fixPi : Int := 16 * fixArctanInv 5 - 4 * fixArctanInv 239

/-- The square root of a reference value. -/
def fixSqrt (x : Int) : Int := (Nat.sqrt (x.toNat * 2 ^ fixBits) : Nat)

/-- 1 ÷ (1 + e^-x), for |x| below 400. -/
def fixSigmoid (x : Int) : Int := fixDiv fixOne (fixOne + fixExp (-x))

/-- tanh x, for |x| below 100. -/
def fixTanh (x : Int) : Int :=
  let p := fixExp (2 * x)
  fixDiv (p - fixOne) (p + fixOne)

/-- erf z, for |z| below 12. -/
def fixErf (z : Int) : Int :=
  let z2 := fixMul z z
  fixDiv (2 * fixSeries (fun k u => -(fixMul u z2) * (2 * (k : Int) + 1) / (2 * (k : Int) + 3) / ((k : Int) + 1)) 800 0 z)
    (fixSqrt fixPi)

/-- The argument of the tanh form of GELU: √(2/π) × (x + 0.044715 x³), doubled. -/
def fixGeluArg (x : Int) : Int :=
  2 * fixMul (fixSqrt (fixDiv (2 * fixOne) fixPi)) (x + fixMul (fixMul x x) x * 44715 / 1000000)

/-! ### Bounded error -/

/-- An FP32 pattern as a place in the order of the numbers. -/
def ordOf (b : Nat) : Int := if bitAt b 31 then -((b % 2 ^ 31 : Nat) : Int) else (b : Nat)

/-- The FP32 pattern at a place of the order, held between the infinities. -/
def ofOrd (i : Int) : Nat :=
  let k := max (-0x7F800000 : Int) (min 0x7F800000 i)
  if k < 0 then 2 ^ 31 + k.natAbs else k.toNat

/-- The FP32 pattern of a finite number, or of an infinity as the number that follows the largest finite one. -/
def endpoint : Val → Val
  | .inf s => .num s 1 128
  | v => v

/-- Candidate `c` lies within `n` units in the last place of the exact value (−1)^s × m × 2^e (Table 3.9). -/
def withinUlp (n : Nat) (s : Bool) (m : Nat) (e : Int) (c : Val) : Bool :=
  match Val.abs (Val.add (endpoint c) (.num (!s) m e)) with
  | .num _ k g => !magLt n (if m = 0 then -149 else ulpExp 0 m e) k g
  | _ => false

/-- The result of an op that is not correctly rounded, at input pattern `x`: the rounded reference moved by a free number of
places that keeps the whole error within `n` units in the last place. A NaN stays canonical, and an exact infinity is
one. -/
def approx (op n x : Nat) (v : Val) : Val :=
  match v with
  | .nan => .nan
  | .inf s => .inf s
  | .num s m e =>
    let r := rndF32 (.num s m e)
    let c := ofF32 (ofOrd (ordOf (toF32 r) + Config.ulpError op (BitVec.ofNat 32 x)))
    if withinUlp n s m e c then c else r

/-- A result that R80 does not state: a free FP32 pattern. -/
def openResult (op x : Nat) : Val := ofF32 (Config.opUndefined op (BitVec.ofNat 32 x)).toNat

/-- One, as a value. -/
def vOne : Val := .num false 1 0

/-- +0. -/
def vZero : Val := .num false 0 0

/-- The reference value is at or beyond a whole number. -/
def fixGe (x : Int) (n : Int) : Bool := decide (n * fixOne ≤ x)

/-! ### The ops -/

/-- EXP (2 ulp); e^-∞ is +0 and e^+∞ is +∞. -/
def opExp (v : Val) : Val :=
  match v with
  | .nan => .nan
  | .inf s => if s then vZero else .inf false
  | .num s m e =>
    let y := fixOf s m (min e 16)
    let x := if 16 < e ∧ m ≠ 0 then (if s then -200 * fixOne else 200 * fixOne) else y
    let r := if fixGe x 100 then .inf false else if fixGe (-x) 120 then vZero else fixVal (fixExp x)
    approx 0x0D 2 (toF32 v) r

/-- LOG (2 ulp). -/
def opLog (v : Val) : Val :=
  match v with
  | .nan => .nan
  | .inf s => if s then openResult 0x0E (toF32 v) else .inf false
  | .num s m e => if s ∨ m = 0 then openResult 0x0E (toF32 v) else approx 0x0E 2 (toF32 v) (fixVal (fixLog m e))

/-- A value as a reference value held within ±n. -/
def fixClamp (n : Int) (s : Bool) (m : Nat) (e : Int) : Int :=
  if 64 ≤ flog2 m e ∧ m ≠ 0 then (if s then -n * fixOne else n * fixOne)
  else max (-n * fixOne) (min (n * fixOne) (fixOf s m e))

/-- TANH (2 ulp). -/
def opTanh (v : Val) : Val :=
  match v with
  | .nan => .nan
  | .inf s => .num s 1 0
  | .num s m e => if m = 0 then approx 0x0F 2 (toF32 v) v else approx 0x0F 2 (toF32 v) (fixVal (fixTanh (fixClamp 64 s m e)))

/-- SIGMOID (2 ulp). -/
def opSigmoid (v : Val) : Val :=
  match v with
  | .nan => .nan
  | .inf s => if s then vZero else vOne
  | .num s m e => approx 0x10 2 (toF32 v) (fixVal (fixSigmoid (fixClamp 200 s m e)))

/-- x × g(x) for the gates of SILU and GELU: `lim` is where g is 0 or 1 to any precision that matters. -/
def gated (op n : Nat) (lim : Int) (g : Int → Int) (v : Val) : Val :=
  match v with
  | .nan => .nan
  | .inf s => if s then openResult op (toF32 v) else .inf false
  | .num s m e =>
    let x := fixClamp (lim + 1) s m e
    let r := if m = 0 then v
      else if fixGe x lim then v
      else if fixGe (-x) lim then .num true 0 0
      else fixVal (fixMul x (g x))
    approx op n (toF32 v) r

/-- SILU (2 ulp). -/
def opSilu (v : Val) : Val := gated 0x11 2 150 fixSigmoid v

/-- The tanh form of GELU (3 ulp): x × ½(1 + tanh u) = x × sigmoid(2u). -/
def opGeluTanh (v : Val) : Val := gated 0x12 3 12 (fun x => fixSigmoid (fixGeluArg x)) v

/-- The erf form of GELU (3 ulp). -/
def opGeluErf (v : Val) : Val :=
  gated 0x13 3 16 (fun x => (fixOne + fixErf (fixDiv x (fixSqrt (2 * fixOne)))) / 2) v

/-- RSQRT (1 ulp): 1 ÷ √x. -/
def opRsqrt (v : Val) : Val := approx 0x0B 1 (toF32 v) (Val.div vOne (Val.sqrt v))

/-- RECIP (1 ulp): 1 ÷ x. -/
def opRecip (v : Val) : Val := approx 0x0C 1 (toF32 v) (Val.div vOne v)

/-- The sign of a value, −0 and −∞ among the negative ones. -/
def Val.negative : Val → Bool
  | .nan => false
  | .inf s => s
  | .num s _ _ => s

/-- MAX: the larger; −0 is below +0 and a NaN gives NaN. -/
def opMax (a b : Val) : Val :=
  match a, b with
  | .nan, _ => .nan
  | _, .nan => .nan
  | x, y => if Val.lt x y then y else if Val.lt y x then x else if Val.negative x then y else x

/-- MIN: the smaller; −0 is below +0 and a NaN gives NaN. -/
def opMin (a b : Val) : Val :=
  match a, b with
  | .nan, _ => .nan
  | _, .nan => .nan
  | x, y => if Val.lt x y then x else if Val.lt y x then y else if Val.negative x then x else y

/-- RELU: max(x, +0). -/
def opRelu (v : Val) : Val := opMax v vZero

/-- a × b rounded to FP32. -/
def fMul (a b : Val) : Val := rndF32 (Val.mul a b)

/-- a + b rounded to FP32. -/
def fAdd (a b : Val) : Val := rndF32 (Val.add a b)

/-- a × b + c rounded once to FP32. -/
def fFma (a b c : Val) : Val := rndF32 (Val.add (Val.mul a b) c)

/-- An element op by its code: x, t, S0, S1 (Table 3.9). -/
def elemOp (code : Nat) (x t s0 s1 : Val) : Val :=
  match code with
  | 0x01 => fAdd x t
  | 0x02 => fAdd x t.neg
  | 0x03 => fMul x t
  | 0x04 => fFma x t s1
  | 0x05 => rndF32 (Val.div x t)
  | 0x06 => opMax x t
  | 0x07 => opMin x t
  | 0x08 => x.abs
  | 0x09 => x.neg
  | 0x0A => rndF32 (Val.sqrt x)
  | 0x0B => opRsqrt x
  | 0x0C => opRecip x
  | 0x0D => opExp x
  | 0x0E => opLog x
  | 0x0F => opTanh x
  | 0x10 => opSigmoid x
  | 0x11 => opSilu x
  | 0x12 => opGeluTanh x
  | 0x13 => opGeluErf x
  | 0x14 => opRelu x
  | 0x15 => fMul (opRelu x) (opRelu x)
  | 0x16 => opMin (opMax x s0) s1
  | 0x28 => Val.mul x s0
  | _ => x

/-! ### Sums in the order of R63 and R64 -/

/-- One canonical segment: FMAs from +0 in ascending position (R63); an absent pair has no product. -/
def segSum (ps : List (Val × Val)) : Val := ps.foldl (fun a p => fFma p.1 p.2 a) vZero

/-- The pairwise tree node(level, j) over segment sums; `total` is SEG_TOTAL (R64). -/
def segNode (sums : List Val) (total : Nat) : Nat → Nat → Val
  | 0, j => nth vZero sums j
  | l + 1, j =>
    let lo := segNode sums total l (2 * j)
    if total ≤ (2 * j + 1) * 2 ^ l then lo else fAdd lo (segNode sums total l (2 * j + 1))

/-- ⌈log₂ n⌉ for n ≥ 1. -/
def clog2 (n : Nat) : Nat := if n ≤ 1 then 0 else Nat.log2 (n - 1) + 1

/-- The sum of products in canonical segments of 128 positions, at the root of its tree. -/
def canonicalDot (ps : List (Val × Val)) : Val :=
  let sums := (pieces 128 ps.length ps).map segSum
  segNode sums sums.length (clog2 sums.length) 0

/-- RSUM of a row. -/
def rowSum (xs : List Val) : Val := canonicalDot (xs.map (fun x => (x, vOne)))

/-- RSUMSQ of a row. -/
def rowSumSq (xs : List Val) : Val := canonicalDot (xs.map (fun x => (x, x)))

/-- RMAX of a row. -/
def rowMax : List Val → Val
  | [] => .inf true
  | x :: t => t.foldl opMax x

end Sys2Proof.Machine
end

