-- ==== Sys2Proof/Machine/Flags.lean ====
section
/-! DEFINITION. What commands of the engines share: watch events (R32), random draws (R35, R36), and tensors in a local
store (R56). -/

namespace Sys2Proof.Machine

/-- Changes the bound step status of a context. -/
def modStep (s : State) (c : CtxId) (f : StepBind → StepBind) : State :=
  let x := getCtx s c
  setCtx s c { x with step := x.step.map f }

/-- A watch event of a command with its step-watch bit set: OVF_THIS before AGREE's capture, OVF_LATE after it (R32). -/
def watch (s : State) (c : CtxId) (event : Bool) : State :=
  if event then
    modStep s c (fun b =>
      if b.agreed then { b with word := { b.word with ovfLate := true } }
      else { b with word := { b.word with ovfThis := true } })
  else s

/-- A random stream of a context. -/
def getRng (s : State) (c : CtxId) (i : Nat) : Rng := Tbl.get {} (getCtx s c).rng i

/-- Replaces a random stream. -/
def setRng (s : State) (c : CtxId) (i : Nat) (r : Rng) : State :=
  let x := getCtx s c
  setCtx s c { x with rng := Tbl.set {} x.rng i r }

/-- The random word of output element `i` (R35), 0 when the rounding is not stochastic. -/
def drawWord (r : Rng) (cvt i : Nat) : Nat :=
  if bitAt cvt 1 then (nth 0 (philox r.key (r.counter + BitVec.ofNat 128 (i / 4))) (i % 4)).toNat else 0

/-- The stream after `n` draws (R35, R36). -/
def advanceRng (s : State) (c : CtxId) (i cvt n : Nat) : State :=
  if bitAt cvt 1 then
    let r := getRng s c i
    setRng s c i { r with counter := r.counter + BitVec.ofNat 128 (ceilDiv n 4) }
  else s

/-- Writes runs of bytes into a core's local store, in order. -/
def writeAll (s : State) (core : Nat) (ws : List (Nat × Bytes)) : State :=
  ws.foldl (fun t w => writeLs t core w.1 w.2) s

/-- A strided operand (R69, R91): 64-byte aligned, with a pitch, inside the local store, and its pitch covers a row when
it is written. -/
def stridedOk (a rows rowb ld : Nat) (write : Bool) : Bool :=
  lsOk 64 a (rowsExtent rows rowb ld) && ld != 0 && (!write || rows == 0 || decide (rowb ≤ ld * 64))

/-- The range of a strided operand. -/
def stridedRange (a rows rowb ld : Nat) (write : Bool) : List Range := lsRange a (rowsExtent rows rowb ld) write

/-- The element patterns of a row of `k` elements. -/
def rowElems (s : State) (core fmt base ld k r : Nat) : List Nat :=
  let bs := readLs s core (base + r * ld * 64) (packedBytes fmt k)
  (upto k).map (unpackElem fmt bs)

/-- The block-scale codes of a row: one byte for each 32 elements, or 0x7F without stored scales (R22, R56). -/
def rowCodes (s : State) (core : Nat) (none : Bool) (base k r : Nat) : List Nat :=
  let n := ceilDiv k 32
  if none then List.replicate n 0x7F else (readLs s core (base + r * n) n).map (·.toNat)

/-- A row's values under its scale codes. -/
def rowVals (fmt : Nat) (es codes : List Nat) : List Val :=
  (es.zipIdx).map (fun p => decodeScaled fmt p.1 (nth 0x7F codes (p.2 / 32)))

/-- A reserved number-format code (R10). -/
def fmtReserved (f : Nat) : Bool := decide (0xA < f)

/-- A tensor scale of zero, infinity, NaN or a subnormal value (R23). -/
def tscaleBad (v : Nat) : Bool := bitsOf v 23 8 == 0 || bitsOf v 23 8 == 0xFF

/-- The outcome of an engine's run: what it writes, its watch events, and a fault with the ranges it leaves undefined. -/
structure RunResult where
  writes : List (Nat × Bytes) := []
  event : Bool := false
  fault : Option OpErr := none
  undef : List (Nat × Nat) := []
  deriving DecidableEq, Repr

/-- An engine command takes its effect: its writes land, its watch event counts when WATCH is set, and a fault is
reported with the ranges it leaves undefined (R85, R86). -/
def settleRun (s : State) (core : Nat) (e : Entry) (watched : Bool) (r : RunResult) : State × Ended :=
  let s1 := watch (writeAll s core r.writes) e.cid (watched && r.event)
  match r.fault with
  | none => (s1, .ended okOutcome)
  | some err =>
    let s2 := r.undef.foldl (fun t u => havocLs t core u.1 u.2) s1
    (report s2 (cmdReport err.code contextFatal e 0 core err.detail), .ended (faultOutcome err.code))

end Sys2Proof.Machine
end

