-- ==== Sys2Proof/Machine/UniRun.lean ====
section
/-! DEFINITION. What the commands of the shared units do with the unified range (R105, R132, R236): their reads, and
their writes when they end or fault. -/

namespace Sys2Proof.Machine

/-- Writes runs of bytes for a partition, in order; the code of the first access that fails. -/
def writeUniAll (s : State) (p : PartI) : List (Nat × Bytes) → Except (BitVec 16) State
  | [] => .ok s
  | w :: t =>
    match writeUni s p w.1 w.2 with
    | .error e => .error e
    | .ok s' => writeUniAll s' p t

/-- What a shared unit's run does: its writes, or a fault with the areas it leaves undefined. `areas` are its output
areas, which an access that fails while it writes leaves undefined (R132). -/
structure UniRun where
  writes : List (Nat × Bytes) := []
  fault : Option OpErr := none
  undef : List (Nat × Nat) := []
  areas : List (Nat × Nat) := []
  deriving DecidableEq, Repr

/-- Areas of the unified range that a fault leaves undefined. -/
def havocAreas (s : State) (p : PartI) (l : List (Nat × Nat)) : State := l.foldl (fun t u => havocUni t p u.1 u.2) s

/-- A fault of a unit's run: the report names the unit, and the record will carry FAULT. -/
def faultUni (s : State) (e : Entry) (unit : BitVec 7) (inst : Nat) (err : OpErr) (areas : List (Nat × Nat)) :
    State × Ended :=
  (report (havocAreas s e.cid.part areas) (cmdReport err.code contextFatal e unit inst err.detail),
   .ended (faultOutcome err.code))

/-- A shared unit's run settles. -/
def settleUni (s : State) (e : Entry) (unit : BitVec 7) (inst : Nat) (r : UniRun) : State × Ended :=
  match r.fault with
  | some err => faultUni s e unit inst err r.undef
  | none =>
    match writeUniAll s e.cid.part r.writes with
    | .ok t => (t, .ended okOutcome)
    | .error c => faultUni s e unit inst { code := c, detail := [] } r.areas

/-- A UniRun that faults. -/
def uniFault (code : BitVec 16) (detail : List (BitVec 32)) (undef : List (Nat × Nat)) : UniRun :=
  { fault := some { code := code, detail := detail }, undef := undef }

/-- Every area of a list is 64-byte aligned and within the context's granules (R105). -/
def areasOk (s : State) (p : PartI) (l : List (Nat × Nat)) : Bool := l.all (fun a => uniOk s p a.1 a.2)

/-- Little-endian words of `n` bytes each. -/
def wordsOf (n : Nat) (bs : Bytes) : List Nat := (pieces n bs.length bs).map leNat

/-- Pads a run of bytes with zeros to a multiple of `n`. -/
def padTo (n : Nat) (bs : Bytes) : Bytes := bs ++ List.replicate (ceilDiv bs.length n * n - bs.length) 0

end Sys2Proof.Machine
end

