-- ==== Sys2Proof/Machine/Migrate.lean ====
section
/-! DEFINITION. OP_MIGRATE: frames, placement by hint, and page copies (R214-R222). -/

namespace Sys2Proof.Machine

/-- A frame: tier, borrow slot, frame index. -/
abbrev Frame := Nat × Nat × Nat

/-- The home frame of a page; the lease frame of a page of a borrow window (R214, R229). -/
def pageHome (i : Nat) : Frame :=
  if i < 24576 then (0, 0, i)
  else if i < 319488 then (1, 0, i - 24576)
  else if i < 581632 then (2, 0, i - 319488)
  else (3, (i - 581632) / 8192, (i - 581632) % 8192)

/-- The frame that backs a page. -/
def Pte.frameOf (e : Pte) : Frame := (e.tier.val, e.lease.val, e.frame.toNat)

/-- The home range or borrow window of a page. -/
def pageRegion (i : Nat) : Nat :=
  if i < 24576 then 0 else if i < 319488 then 1 else if i < 581632 then 2 else 3 + (i - 581632) / 8192

/-- A page lies in a borrow window. -/
def isWindow (i : Nat) : Bool := decide (581632 ≤ i)

/-- A page is OWNED by the partition and not device-reserved (R220, R315). -/
def pageMine (s : State) (p : PartI) (i : Nat) : Bool :=
  let e := getPte s i
  e.owned && decide (e.part = p) && !e.reserved

/-- Some command is moving the page. -/
def pageBusy (s : State) (i : Nat) : Bool := s.mem.migs.any (fun m => m.moves.any (fun v => v.page == i))

/-- Frames in use: those that back a page and those that a copy goes to. -/
def usedFrames (s : State) : List Frame :=
  (s.mem.pt.filter (fun q => q.2.backed)).map (fun q => q.2.frameOf) ++
  s.mem.migs.flatMap (fun m => m.moves.map (fun v => (v.tier.val, v.lease.val, v.frame.toNat)))

/-- The free frames of a partition: home frames of its pages, and lent frames of its active borrow slots (R217). -/
def freeFrames (s : State) (p : PartI) : List Frame :=
  let used := usedFrames s
  let usable := fun (f : Frame) => !used.contains f && (f.1 != 3 || (getBorrow s f.2.1).state == .active)
  ((s.mem.pt.filter (fun q => q.2.owned && decide (q.2.part = p))).map (fun q => pageHome q.1)).filter usable

/-- The tier order of a hint (Table 10.3). -/
def tierOrder (hint : Nat) : List Nat :=
  match hint with
  | 1 => [0, 1, 2]
  | 2 => [1, 0, 2]
  | 3 => [2, 1, 3]
  | 4 => [3, 2, 1]
  | _ => []

/-- How far a frame's die or package stands from NEAR_DIE in the order of R218. -/
def frameGroup (near : Nat) (f : Frame) : Nat :=
  match f.1 with
  | 0 => (f.2.2 / 6144 + 4 - near) % 4
  | 1 => (f.2.2 / 24576 / 3 + 4 - near) % 4
  | 2 => if f.2.2 / 32768 / 4 = near % 2 then 0 else 1
  | _ => 0

/-- The rank of a frame in a tier order (R218). -/
def frameRank (order : List Nat) (near : Nat) (f : Frame) : Nat :=
  order.idxOf f.1 * 2 ^ 40 + frameGroup near f * 2 ^ 30 + f.2.1 * 2 ^ 20 + f.2.2

/-- The frame that R218 takes from free ones, by tier order. -/
def pickFrame (order : List Nat) (near : Nat) (free : List Frame) : Option Frame :=
  match free.filter (fun f => order.contains f.1) with
  | [] => none
  | f :: t => some (t.foldl (fun b g => if frameRank order near g < frameRank order near b then g else b) f)

/-- Frames for pages in ascending order; `none` when some page gets none. HINT 0 takes the home frame only. -/
def placeFrames (order : List Nat) (near : Nat) (home : Bool) : List Nat → List Frame → Option (List (Nat × Frame))
  | [], _ => some []
  | i :: t, free =>
    match (if home then (if free.contains (pageHome i) then some (pageHome i) else none) else pickFrame order near free) with
    | none => none
    | some f => (placeFrames order near home t (free.filter (· != f))).map (fun l => (i, f) :: l)

/-! ### The descriptor (Table 10.4) -/

/-- The fields of OP_MIGRATE. -/
structure Mg where
  mode : Nat
  va : Nat
  vb : Nat
  n : Nat
  dtier : Nat
  hint : Nat
  near : Nat
  pin : Bool
  zero : Bool
  res : Nat
  deriving DecidableEq, Repr

/-- Reads the fields of OP_MIGRATE. -/
def mgOf (d : Desc) : Mg :=
  { mode := fld d 64 3, va := fld d 67 44, vb := fld d 111 44, n := fld d 155 20, dtier := fld d 175 2, hint := fld d 177 3
    near := fld d 180 2, pin := flag d 182, zero := flag d 183, res := fld d 184 44 }

/-- Reserved fields and values (Table 10.4, R10). -/
def mgReserved (d : Desc) : Bool :=
  let x := mgOf d
  decide (4 < x.mode) || fld d 228 284 != 0 || (x.mode != 2 && x.vb != 0) || (x.mode != 1 && x.dtier != 0) || x.dtier == 3 ||
  ((x.mode == 0 || x.mode == 4) && decide (4 < x.hint))

/-- The pages of a range. -/
def pagesFrom (a n : Nat) : List Nat :=
  match pageIndex a with
  | some i => (upto n).map (· + i)
  | none => []

/-- A range is 2 MiB aligned and lies within one home range or one borrow window (R220). -/
def rangeOk (a n : Nat) : Bool :=
  match pageIndex a with
  | some i => decide (a % pageSize = 0) && decide (i + n ≤ 712704) && pageRegion i == pageRegion (i + n - 1)
  | none => false

/-- The pages that a command names. -/
def Mg.pages (x : Mg) : List Nat := pagesFrom x.va x.n ++ (if x.mode = 2 then pagesFrom x.vb x.n else [])

/-- The operand check of R220. -/
def mgOperandOk (s : State) (p : PartI) (x : Mg) : Bool :=
  decide (1 ≤ x.n) && rangeOk x.va x.n &&
  (x.mode != 2 || (rangeOk x.vb x.n && (decide (x.va + x.n * pageSize ≤ x.vb) || decide (x.vb + x.n * pageSize ≤ x.va)))) &&
  (x.res == 0 || uniOk s p x.res 64)

/-- The page-state check of R220. -/
def mgStateOk (s : State) (x : Mg) : Bool :=
  x.pages.all (fun i =>
    (if x.mode = 0 then !(getPte s i).backed else (getPte s i).backed) &&
    (!isWindow i || (x.mode == 0 && x.hint == 0) || decide (3 ≤ x.mode)))

/-- The frames of PLACE. -/
def placePlan (s : State) (p : PartI) (x : Mg) : Option (List (Nat × Frame)) :=
  placeFrames (tierOrder x.hint) x.near (x.hint == 0) (pagesFrom x.va x.n) (freeFrames s p)

/-- The frames of MOVE: a page already in DTIER stays (R221). -/
def movePlan (s : State) (p : PartI) (x : Mg) : Option (List (Nat × Frame)) :=
  placeFrames [x.dtier] x.near false ((pagesFrom x.va x.n).filter (fun i => decide ((getPte s i).tier.val ≠ x.dtier)))
    (freeFrames s p)

/-- The copies of SWAP: each pair goes by way of the lowest free frame in NEAR order (R221). -/
def swapPlan (s : State) (p : PartI) (x : Mg) : Option (List (Nat × Frame)) :=
  (pickFrame (tierOrder 1) 0 (freeFrames s p)).map (fun f =>
    ((pagesFrom x.va x.n).zip (pagesFrom x.vb x.n)).flatMap (fun q =>
      [(q.1, f), (q.2, (getPte s q.1).frameOf), (q.1, (getPte s q.2).frameOf)]))

/-- The frames that a command takes. -/
def migPlan (s : State) (p : PartI) (x : Mg) : Option (List (Nat × Frame)) :=
  match x.mode with
  | 0 => placePlan s p x
  | 1 => movePlan s p x
  | 2 => swapPlan s p x
  | _ => some []

/-- The checks of R220, in order; a page that another command is moving is waited for. -/
def migPrep (e : Entry) (s : State) (_core : Nat) : Prep :=
  let x := mgOf e.desc
  let p := e.cid.part
  if !mgOperandOk s p x then rejectWith Code.eDescOperand
  else if !x.pages.all (pageMine s p) then rejectWith Code.eMemFirewall
  else if x.pages.any (pageBusy s) then .stall
  else if !mgStateOk s x then rejectWith Code.eMigrateState
  else if (x.mode = 1 ∨ x.mode = 2) ∧ x.pages.any (fun i => (getPte s i).pin) then rejectWith Code.eMigratePin
  else if (migPlan s p x).isNone then rejectWith Code.eMemFull
  else .go []

/-! ### Effects (R221) -/

/-- The result record: pages changed and spilled. -/
def migRecord (x : Mg) (changed spilled : Nat) : List (Nat × Bytes) :=
  if x.res = 0 then [] else [(x.res, leBytes 64 (pack [(0, changed), (32, spilled)]))]

/-- A command ends with its result record. -/
def migEnd (s : State) (e : Entry) (core : Nat) (changed spilled : Nat) : State × Ended :=
  let x := mgOf e.desc
  settleUni s e 0 core { writes := migRecord x changed spilled, areas := (migRecord x changed spilled).map (fun w => (w.1, 64)) }

/-- Backs a page with a frame. -/
def backPage (s : State) (i : Nat) (f : Frame) : State :=
  setPte s i { getPte s i with tier := Fin.ofNat 4 f.1, lease := Fin.ofNat 16 f.2.1, frame := BitVec.ofNat 19 f.2.2, backed := true }

/-- Writes HINT and PIN of pages. -/
def hintPages (s : State) (l : List Nat) (hint : Nat) (pin : Bool) : State :=
  l.foldl (fun t i => setPte t i { getPte t i with hint := BitVec.ofNat 3 hint, pin := pin }) s

/-- A page of zeros. -/
def zeroPage : Bytes := List.replicate pageSize 0

/-- Zeroes a page that has been placed; what cannot be written faults. -/
def zeroPages (s : State) (p : PartI) (l : List Nat) : Except (BitVec 16) State :=
  l.foldl (fun t i => match t with | .error c => .error c | .ok u => writeUni u p (pageAddr i) zeroPage) (.ok s)

/-- Counts spilled pages in XD_MEM_SPILL of both dies. -/
def countSpill (s : State) (n : Nat) : State :=
  (List.finRange 2).foldl (fun t x => setXd t x { getXd t x with memSpill := satAdd (getXd t x).memSpill n }) s

/-- PLACE (R221). -/
def runMigPlace (e : Entry) (s : State) (core : Nat) : State × Ended :=
  let x := mgOf e.desc
  let plan := (placePlan s e.cid.part x).getD []
  let spilled := (plan.filter (fun q => x.hint != 0 && (tierOrder x.hint).head? != some q.2.1)).length
  let s1 := countSpill (hintPages (plan.foldl (fun t q => backPage t q.1 q.2) s) (plan.map (·.1)) x.hint x.pin) spilled
  match (if x.zero then zeroPages s1 e.cid.part (plan.map (·.1)) else .ok s1) with
  | .ok t => migEnd t e core plan.length spilled
  | .error c => faultUni s1 e 0 core { code := c, detail := [] } (plan.map (fun q => (pageAddr q.1, pageSize)))

/-- A page copy of a plan. -/
def moveOf (q : Nat × Frame) : PageMove :=
  { page := q.1, tier := Fin.ofNat 4 q.2.1, lease := Fin.ofNat 16 q.2.2.1, frame := BitVec.ofNat 19 q.2.2.2 }

/-- Sets MOVING of a page. -/
def setMoving (s : State) (i : Nat) (b : Bool) : State := setPte s i { getPte s i with moving := b }

/-- MOVE and SWAP: the DMA engine copies the pages one at a time (R221, R222). -/
def runCopies (e : Entry) (s : State) (core : Nat) : State × Ended :=
  let x := mgOf e.desc
  let plan := (migPlan s e.cid.part x).getD []
  match plan with
  | [] => migEnd s e core 0 0
  | q :: _ =>
    let m : Mig := { entry := e, core := Fin.ofNat 128 core, moves := plan.map moveOf
                     changed := if x.mode = 2 then 2 * x.n else plan.length }
    let s1 := setMoving s q.1 true
    ({ s1 with mem := { s1.mem with migs := s1.mem.migs ++ [m] } }, .running)

/-- RELEASE (R221). -/
def runRelease (e : Entry) (s : State) (core : Nat) : State × Ended :=
  let x := mgOf e.desc
  migEnd (x.pages.foldl (fun t i => setPte t i { getPte t i with backed := false }) s) e core x.n 0

/-- SETHINT (R221). -/
def runSethint (e : Entry) (s : State) (core : Nat) : State × Ended :=
  let x := mgOf e.desc
  migEnd (hintPages s x.pages x.hint x.pin) e core x.n 0

/-- A row of OP_MIGRATE; a reserved MODE is rejected by any of the rows. -/
def migRow (e : Entry) (mode : Nat) (due : Due) (run : State → Nat → State × Ended) : OpRow :=
  let d := e.desc
  { row := opcode d == 0x0203 && ((mgOf d).mode == mode || decide (4 < (mgOf d).mode))
    reserved := mgReserved d
    classes := [2]
    prep := migPrep e
    due := due
    run := run }

/-- OP_MIGRATE PLACE (R221). -/
def execOpMigratePlace (e : Entry) (s : State) : Host.Outcome State Fault Refusal :=
  .next (issueCmd s e (migRow e 0 .now (runMigPlace e)))

/-- OP_MIGRATE MOVE (R221). -/
def execOpMigrateMove (e : Entry) (s : State) : Host.Outcome State Fault Refusal :=
  .next (issueCmd s e (migRow e 1 .now (runCopies e)))

/-- OP_MIGRATE SWAP (R221). -/
def execOpMigrateSwap (e : Entry) (s : State) : Host.Outcome State Fault Refusal :=
  .next (issueCmd s e (migRow e 2 .now (runCopies e)))

/-- OP_MIGRATE RELEASE (R221). -/
def execOpMigrateRelease (e : Entry) (s : State) : Host.Outcome State Fault Refusal :=
  .next (issueCmd s e (migRow e 3 .ctx (runRelease e)))

/-- OP_MIGRATE SETHINT (R221). -/
def execOpMigrateSethint (e : Entry) (s : State) : Host.Outcome State Fault Refusal :=
  .next (issueCmd s e (migRow e 4 .now (runSethint e)))

/-! ### The switch of a page -/

/-- The bytes of a frame, as a copy reads them (R233, R230). -/
def readFrame (s : State) (f : Nat) : Except (BitVec 16) Bytes :=
  if poisoned s f pageSize then .error Code.eMemPoison
  else if lentUnread s f pageSize then .error Code.eLeaseAuth
  else .ok (frameBytes s f pageSize)

/-- Copies a page to another frame. -/
def copyFrame (s : State) (src dst : Nat) : Except (BitVec 16) State :=
  match readFrame s src, lentRefusal s dst pageSize with
  | .error c, _ => .error c
  | _, some c => .error c
  | .ok bs, none => .ok (writePlaces s [(dst, pageSize)] bs)

/-- Replaces a command's page copies; with none left it is gone. -/
def putMig (s : State) (m : Mig) : State :=
  let l := if m.moves.isEmpty then s.mem.migs.filter (fun x => x.entry != m.entry)
    else replaceFirst (fun x => x.entry == m.entry) (fun _ => m) s.mem.migs
  { s with mem := { s.mem with migs := l } }

/-- The copy of a command's first page has ended: its entry names the new frame, and the next copy begins (R221). A lease that ended
while the copy ran has taken a frame away (R231). -/
def switchPage (s : State) (m : Mig) (v : PageMove) (rest : List PageMove) : State :=
  let x := getPte s v.page
  match (if !x.backed || (v.tier = 3 && (getBorrow s v.lease.val).state == .idle) then .error Code.eMemUnbacked
    else copyFrame s (frameAddr x.tier.val x.lease.val x.frame.toNat) (frameAddr v.tier.val v.lease.val v.frame.toNat)) with
  | .error c => faultCmd (putMig (setMoving s v.page false) { m with moves := [] }) m.core.val m.entry 0 m.core.val { code := c, detail := [] }
  | .ok t =>
    let t1 := putMig (setPte t v.page { x with tier := v.tier, lease := v.lease, frame := v.frame, moving := false }) { m with moves := rest }
    match rest with
    | w :: _ => setMoving t1 w.page true
    | [] =>
      let r := migEnd t1 m.entry m.core.val m.changed 0
      settleEnd r.1 m.core.val m.entry r.2

/-- MIGRATE_PAGE_SWITCH: a page copy finishes (R221). -/
def execMigratePageSwitch (page : Fin 712704) (s : State) : Host.Outcome State Fault Refusal :=
  match s.mem.migs.find? (fun m => m.moves.head?.any (fun v => v.page == page.val)) with
  | none => .next s
  | some m =>
    match m.moves with
    | v :: rest => if unitsRun s then .next (switchPage s m v rest) else .next s
    | [] => .next s

/-! ### What ends a borrowed lease (R230, R231, R317) -/

/-- The pages of a borrow window that a lease backs. -/
def windowPages (j n : Nat) : List Nat := (upto (512 * n)).map (· + (581632 + 8192 * j))

/-- The lender zeroises a lease's data and metadata granules (R229, R230). -/
def zeroLease (s : State) (j : Nat) : State :=
  { s with uni := Memory.zero (Memory.zero s.uni (2 ^ 44 + j * 2 ^ 34) (2 ^ 34)) (2 ^ 45 + j * 2 ^ 31) (2 ^ 31) }

/-- The pages that a lease backs. -/
def leasePages (s : State) (j : Nat) : List Nat :=
  (s.mem.pt.filter (fun q => q.2.backed && q.2.tier.val == 3 && q.2.lease.val == j)).map (·.1)

/-- Pages become unbacked. -/
def unbackPages (s : State) (l : List Nat) : State := l.foldl (fun t i => setPte t i { getPte t i with backed := false }) s

/-- Every page still backed by a lease becomes unbacked, but for those being moved. -/
def unbackLease (s : State) (j : Nat) : State := unbackPages s ((leasePages s j).filter (fun i => !pageBusy s i))

/-- A borrow slot's record at the Standby: the sealed key, the fields of Table 10.9, and STATE (R229, R231). -/
def leaseRecord (j : Nat) : Nat := mirrorAt 12 (256 * j)

/-- The fields of a borrow slot as a word: those of Table 10.9, with STATE. -/
def borrowBits (x : Borrow) : Nat :=
  let st := match x.state with | .idle => 0 | .waiting => 1 | .active => 2 | .revoking => 3
  pack [(0, b2n x.en), (1, st), (4, x.lender.toNat), (21, x.lslot.val), (25, x.ngran.toNat), (30, x.part.val), (33, x.graceMs.toNat)]

/-- A change of a borrow slot goes to the tray's Standby, beside the sealed key. -/
def noteLease (s : State) (j : Nat) (x : Borrow) : State :=
  send (setBorrow s j x) (.mirrorWrite x.part (leaseRecord j + 144) (leBytes 8 (borrowBits x)))

/-- A borrowed lease is gone: its pages are unbacked, those being moved too, its window no longer owned, its slot IDLE. -/
def borrowDrop (s : State) (j : Nat) : State :=
  let x := getBorrow s j
  let s1 := unbackPages s (leasePages s j)
  let s2 := { s1 with mem := { s1.mem with pt := (windowPages j 16).foldl (fun t i => Tbl.erase t i) s1.mem.pt } }
  noteLease (zeroLease s2 j) j { x with state := .idle, left := false, graceEnd := 0, key := 0, carried := false }

/-- The borrower releases a lease. -/
def borrowRelease (s : State) (j : Nat) : State :=
  let x := getBorrow s j
  send (borrowDrop s j) (.leaseRelease x.lender x.lslot)

/-- A partition's borrow-side leases end without grace (R317). -/
def endLeases (s : State) (p : PartI) : State :=
  (upto 16).foldl (fun t j =>
    let x := getBorrow t j
    if x.part = p ∧ x.state ≠ .idle then borrowRelease t j else t) s

end Sys2Proof.Machine
end

