-- ==== Sys2Proof/Machine/Partition.lean ====
section
/-! DEFINITION. Building and dissolving partitions (R313-R318), residency, time slices and switches (R320-R329). -/

namespace Sys2Proof.Machine

/-- Sets a partition's bit in GL_PART_CFGERR (R314, R317, R332). -/
def cfgErr (s : State) (p : PartI) : State :=
  { s with gl := { s.gl with partCfgErr := s.gl.partCfgErr ||| BitVec.ofNat 8 (2 ^ p.val) } }

/-! ### Activation -/

/-- A page belongs to a Cellar or HBM3E granule owned by the partition. -/
def savePageOk (s : State) (p : PartI) (page : Nat) : Bool :=
  decide (page < 319488) && (getGran s (page / 512)).owned && decide ((getGran s (page / 512)).part = p)

/-- The save area's length (R316). -/
def saveBytes (q : Part) : Nat := (q.nctx1.toNat + 1) * ncores q * 0xC80000

/-- The pages of the save area, when NCTX is above 1, by their addresses; `none` where an address has no page. -/
def saveSpan (q : Part) : List (Option Nat) :=
  if q.nctx1 = 0 then [] else (upto (ceilDiv (saveBytes q) pageSize)).map (fun k => pageIndex (q.save.toNat + k * pageSize))

/-- The pages of the save area. -/
def savePages (q : Part) : List Nat := (saveSpan q).filterMap id

/-- The save area is 2 MiB aligned and lies wholly within the partition's Cellar and HBM3E granules (R315). -/
def saveOk (s : State) (p : PartI) (q : Part) : Bool :=
  q.nctx1 == 0 ||
  (decide (q.save.toNat % pageSize = 0) && (saveSpan q).all (·.isSome) && (savePages q).all (savePageOk s p))

/-- The partition shares a quad with another that is not ABSENT. -/
def sharesQuad (s : State) (p : PartI) (q : Part) : Bool :=
  (List.finRange 8).any (fun o => o != p && decide ((getPart s o).state ≠ .absent) && (getPart s o).quads &&& q.quads != 0)

/-- The sum of the cell reserves of a die (R157). -/
def reserveSum (s : State) (x : XDie) : Nat :=
  ((upto 8).map (fun p => (Tbl.get (4096 : BitVec 20) (getXd s x).bpmRes p).toNat)).sum

/-- ACTIVATE is refused by the checks of R315. -/
def activateBad (s : State) (p : PartI) (q : Part) : Bool :=
  q.quads == 0 || sharesQuad s p q || !saveOk s p q ||
  decide (983040 < reserveSum s 0) || decide (983040 < reserveSum s 1)

/-- ACTIVATE (R315, R317). -/
def activate (s : State) (p : PartI) : State :=
  let q := getPart s p
  if q.state ≠ .absent then cfgErr s p
  else if activateBad s p q then
    report (setPart s p { q with ecode := Code.ePartCfg }) (partReport Code.ePartCfg deferred p 19 0 [])
  else setPart s p { q with state := .activating }

/-- GL_PART_CMD_p 1; semaphore 6 + p guards it. -/
def execActivate (port : RlPort) (p : PartI) (s : State) : Host.Outcome State Fault Refusal :=
  .next (guarded s port (6 + p.val) (fun t => activate t p))

/-- The pages of a granule: 512 from 512 × its number (R215, R314). -/
def granPages (g : Nat) : List Nat := (upto 512).map (· + 512 * g)

/-- The tier of a page of a home range, and its home frame (R214). -/
def homeFrame (page : Nat) : Fin 4 × BitVec 19 :=
  if page < 24576 then (0, BitVec.ofNat 19 page)
  else if page < 319488 then (1, BitVec.ofNat 19 (page - 24576))
  else (2, BitVec.ofNat 19 (page - 319488))

/-- A page at set-up: OWNED, PART and home backing, HINT 0 and PIN 0 (R217). -/
def homePte (p : PartI) (page : Nat) : Pte :=
  { frame := (homeFrame page).2, tier := (homeFrame page).1, part := p, owned := true, backed := true }

/-- The granules a partition owns. -/
def ownedGrans (s : State) (p : PartI) : List Nat :=
  (upto 1136).filter (fun g => (getGran s g).owned && decide ((getGran s g).part = p))

/-- PARTITION_ACTIVATED: local stores zeroed, page table written, save area reserved; the partition is ACTIVE (R315). Its
ACTSEQ is the device's next activation number (16 Table 16.4). -/
def execPartitionActivated (p : PartI) (s : State) : Host.Outcome State Fault Refusal :=
  let q := getPart s p
  if unitsRun s ∧ q.state = .activating then
    let s1 := (coresOf q).foldl zeroLs s
    let s2 := ((ownedGrans s p).flatMap granPages).foldl (fun t i => setPte t i (homePte p i)) s1
    let s3 := (savePages q).foldl (fun t i => setPte t i { getPte t i with reserved := true }) s2
    let n := s.gl.actCount + 1
    let s4 := { s3 with gl := { s3.gl with actCount := n } }
    .next (setPart s4 p { q with state := .active, actSeq := n, resEnd := s.now, resident := none, switching := none, fatalSeen := false })
  else .next s

/-! ### Dissolution -/

/-- Where a granule's bytes lie: the home frames of its pages. -/
def granAddr (g : Nat) : Nat := pageAddr (512 * g)

/-- The pages a partition owns: those of its granules and of its borrow windows. -/
def clearPages (s : State) (p : PartI) : State :=
  { s with mem := { s.mem with pt := s.mem.pt.filter (fun e => !(e.2.owned && decide (e.2.part = p))) } }

/-- DISSOLVE clears every key slot of the partition, and what is recorded for it (R263, R393). -/
def dropPartKeys (s : State) (p : PartI) : State :=
  let mine := fun (k : Nat) => (Tbl.get ({} : KeySlot) s.sec.keys k).valid && decide ((Tbl.get ({} : KeySlot) s.sec.keys k).part = p)
  { s with
    sec := { s.sec with keys := s.sec.keys.filter (fun e => !mine e.1) }
    tags := { s.tags with pairs := s.tags.pairs.filter (fun e => !mine e.1) } }

/-- Protection of a partition that is no longer enabled. -/
def ResPart.off (r : ResPart) : ResPart := { poolBase := r.poolBase, poolSize := r.poolSize, ptab := r.ptab }

/-- What ends with a partition beside its contexts and pages: leases, payload keys, protection (R317 step 2, R393). -/
def endPartUnits (s : State) (p : PartI) : State :=
  let s1 := dropPartKeys (endLeases s p) p
  setRes s1 p (getRes s1 p).off

/-- The partition becomes ABSENT once none of its granules is still being zeroed (R317 steps 5 and 6). -/
def finishDissolve (s : State) (p : PartI) : State :=
  let q := getPart s p
  if q.state = .dissolving ∧ (ownedGrans s p).isEmpty then
    setPart s p { q with state := .absent, resident := none, switching := none, fatalSeen := false }
  else s

/-- DISSOLVE (R317). -/
def dissolve (s : State) (p : PartI) : State :=
  let q := getPart s p
  if q.state ≠ .active ∧ q.state ≠ .faulted then cfgErr s p
  else
    let s1 := teardownAll (setPart s p { q with state := .dissolving }) p
    let s2 := clearPages (endPartUnits s1 p) p
    let s3 := (coresOf q).foldl zeroLs s2
    finishDissolve ((ownedGrans s3 p).foldl (fun t g => setGran t g { getGran t g with zeroing := true }) s3) p

/-- GL_PART_CMD_p 2; semaphore 6 + p guards it. -/
def execDissolve (port : RlPort) (p : PartI) (s : State) : Host.Outcome State Fault Refusal :=
  .next (guarded s port (6 + p.val) (fun t => dissolve t p))

/-- GRANULE_ZEROED: a granule's zeroing ends; it is no longer owned (R317). -/
def execGranuleZeroed (g : GranI) (s : State) : Host.Outcome State Fault Refusal :=
  let r := getGran s g.val
  if unitsRun s ∧ r.zeroing then
    let s1 := clearPoison { s with uni := Memory.zero s.uni (granAddr g.val) (2 ^ 30) } (granAddr g.val) (2 ^ 30)
    .next (finishDissolve (setGran s1 g.val { r with owned := false, zeroing := false }) r.part)
  else .next s

/-- GRAN_OWN_WRITE: a write of GL_GRAN_OWN assigns or releases the selected granule, or is refused (R314). -/
def granOwnWrite (s : State) (value : BitVec 32) : State :=
  let pt : PartI := Fin.ofNat 8 value.toNat
  let own := value.getLsbD 3
  let g := s.gl.granSel.toNat
  if 1136 ≤ g then cfgErr s pt
  else
    let r := getGran s g
    if own then
      if r.owned ∨ r.zeroing ∨ r.lent ∨ (getPart s pt).state ≠ .absent then cfgErr s pt
      else setGran s g { r with part := pt, owned := true }
    else if r.owned ∧ (getPart s r.part).state ≠ .absent then cfgErr s r.part
    else setGran s g { r with part := pt, owned := false }

/-- GRAN_OWN_WRITE from a port; semaphore 0 guards it (R332). -/
def execGranOwnWrite (port : RlPort) (value : BitVec 32) (s : State) : Host.Outcome State Fault Refusal :=
  .next (guarded s port 0 (fun t => granOwnWrite t value))

/-! ### Slices and switches -/

/-- A residency's slice in ns: SLICE_US, less the last overrun, but not less than 100 µs (R323, and the overrun's
correction of the next slice). -/
def sliceNs (q : Part) (over_ : Nat) : Nat := max 100000 (q.sliceUs.toNat * 1000 - over_)

/-- The residency that stands ends in account and starts afresh at the present time (R322, R323). -/
def renewResidency (s : State) (p : PartI) : State :=
  match (getPart s p).resident with
  | none => s
  | some r =>
    let s1 := endResidency s p
    let q := getPart s1 p
    let x := getCtx s1 ⟨p, r⟩
    let s2 := setCtx s1 ⟨p, r⟩ { x with lastOverrun := 0 }
    setPart s2 p { q with resident := some r, resStart := s.now, chargeStart := s.now,
                          sliceEnd := s.now + sliceNs q x.lastOverrun }

/-- SLICE_END: the resident context keeps the cores unless another context with work ranks before it; else a switch
begins (R323). A HIGH context that arrives at the same time makes it a HIGH arrival (R329). -/
def execSliceEnd (p : PartI) (s : State) : Host.Outcome State Fault Refusal :=
  let q := getPart s p
  match q.resident with
  | none => .next s
  | some r =>
    if unitsRun s ∧ q.state = .active ∧ q.switching = none ∧ q.sliceEnd ≤ s.now then
      let s1 := renewResidency s p
      match bestOf s1 p ((withWork s1 p).filter (· != r)) with
      | none => .next s1
      | some c =>
        if ranksBefore s1 p c r || !hasWork s1 ⟨p, r⟩ then
          .next (beginSwitch s1 p (some c) ((getCtx s1 ⟨p, c⟩).high && !(getCtx s1 ⟨p, r⟩).high) true)
        else .next s1
    else .next s

/-- A class-0 or class-1 command is in flight (R323). -/
def coreWorks (q : Seq) : Bool := q.inflight.any (fun f => decide (fld f.entry.desc 24 2 < 2))

/-- A core has stood for 50 µs in OP_WAIT, in OP_TIMED_START or with an empty queue, with no class-0 or class-1 command
in flight (R323). -/
def coreIdles (s : State) (q : Seq) : Bool :=
  !coreWorks q && decide (q.idleSince + 50000 ≤ s.now) &&
  (match q.block with
   | some b => b.kind != .fence && (b.kind != .plan || (match q.list with | some l => decide (l.ncmd ≤ l.next) | none => true))
   | none => q.queue.isEmpty)

/-- CONTEXT_YIELD: every core of the resident context idles and another context has work (R323). -/
def execContextYield (p : PartI) (s : State) : Host.Outcome State Fault Refusal :=
  let q := getPart s p
  match q.resident with
  | none => .next s
  | some r =>
    let c : CtxId := ⟨p, r⟩
    match bestOf s p ((withWork s p).filter (· != r)) with
    | none => .next s
    | some n =>
      if unitsRun s ∧ q.state = .active ∧ q.switching = none ∧ (coresOf q).all (fun k => coreIdles s (getSeq s c k)) then
        .next (beginSwitch (setCtx s c { getCtx s c with yielded := true }) p (some n) false false)
      else .next s

/-- The address of a core's record in the save area (R316). -/
def saveAddr (q : Part) (c : CtxI) (i : Nat) : Nat := q.save.toNat + (c.val * ncores q + i) * 0xC80000

/-- Where an address of the save area lies in `uni`; its pages are device-reserved, so it is reached past R216. -/
def savePlace (s : State) (a : Nat) : Nat :=
  match pageIndex a with
  | none => a
  | some i => let e := getPte s i; frameAddr e.tier.val e.lease.val e.frame.toNat + a % pageSize

/-- Saves one 64 KiB granule of a core's local store (R328 step 3). -/
def saveGranule (s : State) (base core g : Nat) : State :=
  let f := savePlace s (base + g * 65536)
  clearPoison { s with uni := Memory.write s.uni f (readLs s core (g * 65536) 65536) } f 65536

/-- Bytes of a core's switch state at the end of its record (R316). -/
def switchBytes : Nat := 0x80000

/-- Saves a core's switch state into the last 512 KiB of its record (R316, R328). The spec does not lay those bytes out: they
are free values, and what they hold stands in the context's sequencer and context itself. -/
def saveSwitch (s : State) (base : Nat) : State :=
  let f := savePlace s (base + lsSize)
  let t := takeFree s switchBytes
  clearPoison { t with uni := Memory.write t.uni f (freeBytes s.free switchBytes) } f switchBytes

/-- Saves the granules of a core's local store written since the last restore, and its switch state; the other granules keep
the image already saved (R328 step 3). -/
def saveCore (s : State) (c : CtxId) (core : Nat) : State :=
  let q := getPart s c.part
  let i := relCore q core
  let d := (getCore s core).dirty
  let s1 := saveSwitch (d.foldl (fun t g => saveGranule t (saveAddr q c.ctx i) core g) s) (saveAddr q c.ctx i)
  let x := getCtx s1 c
  let held := d.foldl (fun l g => insNat g l) (Tbl.get [] x.image i)
  setCtx (setCore s1 core { getCore s1 core with dirty := [] }) c { x with image := Tbl.set [] x.image i held }

/-- SWITCH_CORES_STOPPED: every core has stopped, the outgoing context's state is saved and its residency ends; the
overrun of a slice end is charged with it and shortens the next slice (R324, R328). At a slice end or a yield the outgoing
context pays its save too; a HIGH arrival pays the other's. -/
def execSwitchCoresStopped (p : PartI) (s : State) : Host.Outcome State Fault Refusal :=
  let q := getPart s p
  match q.switching with
  | none => .next s
  | some w =>
    match q.resident with
    | none => .next s
    | some r =>
      let c : CtxId := ⟨p, r⟩
      if unitsRun s ∧ ¬ w.saved ∧ (coresOf q).all (fun k => coreStopped (getSeq s c k)) then
        let s1 := withdrawOpenings ((coresOf q).foldl (fun t k => saveCore t c k) s) c
        let x := getCtx s1 c
        let late := if w.atSliceEnd then s.now - w.stopAt else 0
        let ends := s.now + (if w.high then 0 else Config.saveNs s1.free)
        let s2 := endResidencyAt (setCtx (takeFree s1 1) c
          { x with overrun := x.overrun + BitVec.ofNat 64 late, lastOverrun := late, savedOnce := true }) p ends
        let s3 := setPart s2 p { getPart s2 p with
          switching := some { w with saved := true, savedAt := ends }
          highReturn := if w.high then w.incoming else (if q.highReturn = some r then some r else none) }
        .next s3
      else .next s

/-- How many bytes of a run of `uni` stand before its first poisoned piece. -/
def goodBytes (s : State) (f n : Nat) : Nat :=
  s.mem.poison.foldl (fun m k => if f < (k + 1) * 64 ∧ k * 64 < f + n then min m (k * 64 - f) else m) n

/-- Restores the granules that hold saved data in a core's image into its zeroed local store, in ascending order; it
stops at a poisoned piece (R328 step 4, R329). -/
def restoreGranules (s : State) (base core : Nat) : List Nat → State × Bool
  | [] => (s, true)
  | g :: t =>
    let f := savePlace s (base + g * 65536)
    let s1 := writeLs s core (g * 65536) (Memory.read s.uni f (goodBytes s f 65536))
    if poisoned s f 65536 then (s1, false) else restoreGranules s1 base core t

/-- Restores the image of one core into its zeroed local store, then its switch state, once one has been saved; `false` when a
poisoned piece was met. -/
def restoreCore (s : State) (c : CtxId) (core : Nat) : State × Bool :=
  let q := getPart s c.part
  let base := saveAddr q c.ctx (relCore q core)
  let r := restoreGranules (zeroLs s core) base core (Tbl.get [] (getCtx s c).image (relCore q core))
  (setCore r.1 core { getCore r.1 core with dirty := [] },
   r.2 && !((getCtx s c).savedOnce && poisoned s (savePlace s (base + lsSize)) switchBytes))

/-- Restores every core of a context, in the order of their records; after a poisoned piece the rest of the image is zero in the
local stores (R329), and the answer is `false`. -/
def restoreCores (s : State) (c : CtxId) : List Nat → State × Bool
  | [] => (s, true)
  | core :: t =>
    let r := restoreCore s c core
    if r.2 then restoreCores r.1 c t else (t.foldl zeroLs r.1, false)

/-- Charges switch time to a context that is not resident (R324: a HIGH context also pays for the switch that returns
the cores). -/
def chargeOther (s : State) (c : CtxId) (n ns : Nat) : State :=
  let x := getCtx s c
  let w := max 1 (min 1000 x.weight.toNat)
  let q := getPart s c.part
  setPart (setCtx s c { x with
    charge := x.charge + BitVec.ofNat 64 (n * ns)
    vt := x.vt + BitVec.ofNat 64 (n * ns * 1000 / (w * max 1 n)) }) c.part
    { q with busy := q.busy + BitVec.ofNat 64 (n * ns) }

/-- A restored sequencer: what a cap had stopped goes on, and the core begins to stand (R323, R327). -/
def resumeSeq (s : State) (c : CtxId) (core : Nat) : State :=
  let q := getSeq s c core
  setSeq s c core { q with inflight := q.inflight.map (fun f => { f with capped := false }), idleSince := s.now }

/-- The incoming context becomes resident: its image is restored, its slice starts, its ring is handed over and held
deliveries are offered (R320, R324, R328, R329). -/
def makeResident (s : State) (p : PartI) (w : Switching) (r : CtxI) : State :=
  let c : CtxId := ⟨p, r⟩
  let q := getPart s p
  let rs := restoreCores s c (coresOf q)
  let s1 := (coresOf q).foldl (fun t k => resumeSeq t c k) rs.1
  let back := match w.outgoing with | some o => if q.highReturn = some o then some o else none | none => none
  let s2 := match back with | some o => chargeOther s1 ⟨p, o⟩ (ncores q) (s.now - w.savedAt) | none => s1
  let x := getCtx s2 c
  let q2 := getPart s2 p
  let idle := if w.outgoing.isNone then ncores q * (w.stopAt - q.resEnd) else 0
  let s3 := setCtx s2 c { x with yielded := false, lastOverrun := 0 }
  let s4 := setPart s3 p { q2 with
    resident := some r, resStart := s.now, switching := none
    chargeStart := if back.isSome then s.now else w.savedAt
    sliceEnd := s.now + sliceNs q x.lastOverrun
    highReturn := if back.isSome then none else q.highReturn
    idle := q2.idle + BitVec.ofNat 64 idle }
  if rs.2 then
    let s5 := (coresOf q).foldl (fun t k => deliverHeld t c k) (feed (rejoinOpenings s4 c) c)
    onGain s5 p
  else report s4 (ctxReport Code.eMemPoison contextFatal c 0 0 [])

/-- SWITCH_DONE: the save has ended, the incoming context's image is restored and its commands issue (R328). A context that can
no longer run leaves the partition to decide again. -/
def execSwitchDone (p : PartI) (s : State) : Host.Outcome State Fault Refusal :=
  let q := getPart s p
  match q.switching with
  | none => .next s
  | some w =>
    if unitsRun s ∧ w.saved ∧ w.savedAt ≤ s.now then
      match w.incoming with
      | some r =>
        if (getCtx s ⟨p, r⟩).state = .ready then .next (makeResident s p w r)
        else .next (onLose (setPart s p { q with switching := none }) p)
      | none => .next (onLose (setPart s p { q with switching := none }) p)
    else .next s

/-- When a core was asked to stop: for a switch of its partition, or for a self-test slice of its quad (R327, R413). -/
def stopAsked (s : State) (c : CtxId) (core : Nat) : Option Nat :=
  match (getPart s c.part).switching with
  | some w => some w.stopAt
  | none => (getQuad s (core / 4)).stopReq

/-- WHOLE_CAP: a WHOLE command that has not completed 500 µs after a stop request is stopped as a STOP command would be, reported CORRECTED
(R327). -/
def execWholeCap (core : CoreI) (pos listPos : BitVec 32) (s : State) : Host.Outcome State Fault Refusal :=
  match coreCtx s core.val with
  | none => .next s
  | some c =>
    let q := getSeq s c core.val
    match stopAsked s c core.val, q.inflight.find? (fun f => isEntry pos listPos f && f.heldAt.isNone) with
    | some t, some f =>
      if unitsRun s ∧ fld f.entry.desc 24 2 = 1 ∧ ¬ f.capped ∧ t + 500000 ≤ s.now then
        let q' := { q with inflight := replaceFirst (fun g => g.entry == f.entry) (fun g => { g with capped := true }) q.inflight }
        .next (report (setSeq s c core.val q') (cmdReport Code.ePclassCap corrected f.entry 0 core.val []))
      else .next s
    | _, _ => .next s

end Sys2Proof.Machine
end

