-- ==== Sys2Proof/Machine/Pool.lean ====
section
/-! DEFINITION. The Buffer Pool Manager: releases, reserves and the Spillway (R157-R161). -/

namespace Sys2Proof.Machine

/-- What a release comes to: a failure of the releasing partition's, or a chain that stays, or one to be freed (R158, R159). -/
inductive Release where
  | fails (code : BitVec 16) | keeps (x : XdSt) | frees (h : Chain)
  deriving DecidableEq, Repr

/-- A release by a unit for a partition (R158, R159). -/
def releaseCell (x : XdSt) (unit p : Nat) (ptr : BitVec 32) : Release :=
  if !ptrValid x ptr then .fails Code.eCellPtr
  else
    match x.chains.find? (fun h => h.head == ptr) with
    | none => .fails Code.eCellRelease
    | some h =>
      if h.cid.part.val ≠ p then .fails Code.eCellRelease
      else
        match h.mode with
        | .owner u => if u = unit then .frees h else .fails Code.eCellRelease
        | .refs n =>
          if n ≤ 1 then .frees h
          else .keeps { x with chains := x.chains.map (fun y => if y.head == ptr then { y with mode := .refs (n - 1) } else y) }

/-- Frees a chain; an invalid pointer in its links is DEVICE_FATAL (R159). -/
def dropChain (s : State) (die : XDie) (h : Chain) : State :=
  let q := freeChain s die h
  if q.2 then q.1 else report s (devReport Code.eCellPtr deviceFatal 9 die.val [])

/-- A release (R159): a failure is PARTITION_FATAL for the releasing partition. -/
def releaseAt (s : State) (die : XDie) (unit : Nat) (p : PartI) (ptr : BitVec 32) : State :=
  match releaseCell (getXd s die) unit p.val ptr with
  | .keeps x => setXd s die x
  | .frees h => dropChain s die h
  | .fails c => report s (partReport c partitionFatal p 9 die.val [])

/-- CELL_RELEASE (R159). -/
def execCellRelease (die : XDie) (unit : Fin 64) (p : PartI) (ptr : BitVec 32) (s : State) :
    Host.Outcome State Fault Refusal :=
  if unitsRun s then .next (releaseAt s die unit.val p ptr) else .next s

/-! ### Partition registers -/

/-- Sets a partition's bit in XD_BPM_CFGERR. -/
def bpmRefuse (s : State) (die : XDie) (p : PartI) : State :=
  let x := getXd s die
  setXd s die { x with bpmCfgErr := x.bpmCfgErr ||| BitVec.ofNat 8 (2 ^ p.val) }

/-- A write of XD_BPM_RES_p: refused when the reserves would sum above 983,040 (R157). -/
def writeRes (s : State) (die : XDie) (p : PartI) (v : BitVec 32) : State :=
  let x := getXd s die
  let n := bitsOf v.toNat 0 20
  let others := ((upto 8).map (fun q => if q = p.val then 0 else bpmResOf x q)).sum
  if 983040 < others + n then bpmRefuse s die p
  else setXd s die { x with bpmRes := Tbl.set 4096 x.bpmRes p.val (BitVec.ofNat 20 n) }

/-- BPM_RES_WRITE; semaphore 6 + p guards it. -/
def execBpmResWrite (port : RlPort) (die : XDie) (p : PartI) (value : BitVec 32) (s : State) :
    Host.Outcome State Fault Refusal :=
  .next (guarded s port (6 + p.val) (fun t => writeRes t die p value))

/-- Every granule that a run of home addresses touches is an HBM3E granule of the partition. -/
def hbmOwned (s : State) (p : PartI) (a n : Nat) : Bool :=
  n == 0 ||
  (decide (0x01000000000 ≤ a) && decide (a + n ≤ 0x0A000000000) &&
   match pageIndex a, pageIndex (a + n - 1) with
   | some i, some j =>
     (upto (j / 512 - i / 512 + 1)).all (fun k =>
       let g := getGran s (i / 512 + k)
       g.owned && decide (g.part = p))
   | _, _ => false)

/-- A write of XD_BPM_SPILL_p (R160). -/
def writeSpill (s : State) (die : XDie) (p : PartI) (v : BitVec 64) : State :=
  let x := getXd s die
  let base := bitsOf v.toNat 16 28 * 65536
  let sizek := bitsOf v.toNat 44 11
  if 1024 < sizek ∨ Tbl.get 0 x.spUsed p.val ≠ 0 ∨ !hbmOwned s p base (sizek * 266240) then bpmRefuse s die p
  else
    setXd s die { x with bpmSpill := Tbl.set 0 x.bpmSpill p.val (BitVec.ofNat 64 (pack [(16, base / 65536), (44, sizek)])) }

/-- BPM_SPILL_WRITE; semaphore 6 + p guards it. -/
def execBpmSpillWrite (port : RlPort) (die : XDie) (p : PartI) (value : BitVec 64) (s : State) :
    Host.Outcome State Fault Refusal :=
  .next (guarded s port (6 + p.val) (fun t => writeSpill t die p value))

end Sys2Proof.Machine
end

