-- ==== Sys2Proof/Machine/Partial.lean ====
section
/-! DEFINITION. Partial records (R57-R62, R66, R67): the narrow accumulator and the wide node, their combination, and
their value. -/

namespace Sys2Proof.Machine

/-! ### Accumulation of narrow pairs -/

/-- q of Table 3.2: every element of the format is a whole multiple of 2^-q. -/
def fmtQ (f : Nat) : Int := nth 0 [0, 0, 0, 9, 16, 4, 3, 1, 0, 0] f

/-- The largest magnitude of Table 3.2, as m × 2^e. -/
def fmtMaxMag (f : Nat) : Nat × Int :=
  nth (1, 0) [(1, 0), (1, 0), (1, 0), (7, 6), (7, 13), (7, 2), (15, -1), (3, 1), (1, 7), (1, 3)] f

/-- U of R59 for a pair of formats. -/
def accU (fa fb : Nat) : Int :=
  let a := fmtMaxMag fa
  let b := fmtMaxMag fb
  79 - (flog2 (a.1 * b.1) (a.2 + b.2 + 5) + 1)

/-- The state of a narrow cell: N and the three flags (R59, R60), with whether an addition overflowed (R61). -/
structure Acc where
  n : Int := 0
  nan : Bool := false
  pinf : Bool := false
  ninf : Bool := false
  ovf : Bool := false
  deriving DecidableEq, Repr

/-- Adds to N in 96 bits; an overflow sets NAN (R61). -/
def accAdd (a : Acc) (x : Int) : Acc :=
  let y := a.n + x
  if -(2 : Int) ^ 95 ≤ y ∧ y < 2 ^ 95 then { a with n := y }
  else { a with n := (BitVec.ofInt 96 y).toInt, nan := true, ovf := true }

/-- An element as a whole number of units 2^-q; NaN and infinity take no part in the sum. -/
def elemUnits (q : Int) : Val → Int
  | .num s m e => signedAt s m e (-q)
  | _ => 0

/-- The product's flags (R60). -/
def prodFlags (a : Acc) (p : Val × Val) : Acc :=
  match p.1, p.2 with
  | .num _ _ _, .num _ _ _ => a
  | x, y =>
    match Val.mul x y with
    | .inf true => { a with ninf := true }
    | .inf false => { a with pinf := true }
    | _ => { a with nan := true }

/-- The contribution of a block (R59): its sum shifted to the accumulator's unit, truncated towards zero. -/
def blockContribution (sum sh : Int) : Int :=
  if 0 ≤ sh then sum * 2 ^ sh.toNat
  else if sum < 0 then -((sum.natAbs / 2 ^ (-sh).toNat : Nat) : Int) else (sum.natAbs / 2 ^ (-sh).toNat : Nat)

/-- The parameters of a narrow pair (R58, R59). -/
structure NarrowPair where
  fa : Nat
  fb : Nat
  ra : Nat
  rb : Nat
  deriving DecidableEq, Repr

/-- One block of a cell: pairs of unscaled elements, and the two scale codes (R58-R61). A block in which no pair is left, as a
sparse column may have, forms no product and sets no flag. -/
def accBlock (w : NarrowPair) (a : Acc) (ps : List (Val × Val)) (ca cb : Nat) : Acc :=
  if ca = 0xFF ∨ cb = 0xFF then { a with nan := a.nan || !ps.isEmpty }
  else
    let a1 := ps.foldl prodFlags a
    if ca + 31 < w.ra ∨ cb + 31 < w.rb then a1
    else
      let qa := fmtQ w.fa
      let qb := fmtQ w.fb
      let sum := (ps.map (fun p => elemUnits qa p.1 * elemUnits qb p.2)).sum
      let d : Int := ((w.ra : Int) - ca) + ((w.rb : Int) - cb)
      accAdd a1 (blockContribution sum (accU w.fa w.fb - qa - qb - d))

/-- A cell's value (R60, R62): N × 2^(REF − U), or the special value that its flags give. -/
def accVal (w : NarrowPair) (a : Acc) : Val :=
  if a.nan ∨ (a.pinf ∧ a.ninf) then .nan
  else if a.pinf then .inf false
  else if a.ninf then .inf true
  else .num (decide (a.n < 0)) a.n.natAbs ((w.ra : Int) + w.rb - 254 - accU w.fa w.fb)

/-! ### Records -/

/-- A partial record (Table 3.3). -/
inductive Partial where
  | narrow (w : NarrowPair) (a : Acc)
  | wide (node segBase segCount segTotal fmt : Nat)
  deriving DecidableEq, Repr

/-- Reads a record; `none` when it is not well formed (R67). -/
def partialOf (bs : Bytes) : Option Partial :=
  let v := leNat bs
  let fa := bitsOf v 100 4
  let fb := bitsOf v 104 4
  if bitsOf v 124 4 ≠ 0 then none
  else if bitAt v 99 then
    if bitsOf v 80 16 = 0 ∧ bitsOf v 96 3 = 0 ∧ fa = fb ∧ isWide fa ∧ bitsOf v 108 16 = 0 then
      some (.wide (bitsOf v 0 32) (bitsOf v 32 16) (bitsOf v 48 16) (bitsOf v 64 16) fa)
    else none
  else if isNarrow fa ∧ isNarrow fb then
    some (.narrow { fa := fa, fb := fb, ra := bitsOf v 108 8, rb := bitsOf v 116 8 }
      { n := (BitVec.ofNat 96 v).toInt, nan := bitAt v 96, pinf := bitAt v 97, ninf := bitAt v 98 })
  else none

/-- The 16 bytes of a record. -/
def partialBytes : Partial → Bytes
  | .narrow w a => leBytes 16 (pack [(0, (BitVec.ofInt 96 a.n).toNat), (96, b2n a.nan), (97, b2n a.pinf), (98, b2n a.ninf),
      (100, w.fa), (104, w.fb), (108, w.ra), (116, w.rb)])
  | .wide node b c t f => leBytes 16 (pack [(0, node), (32, b), (48, c), (64, t), (99, 1), (100, f), (104, f)])

/-- A power of two. -/
def isPow2 (n : Nat) : Bool := n != 0 && 2 ^ Nat.log2 n == n

/-- The sum of two records, `none` when they do not combine (R67). -/
def partialAdd : Partial → Partial → Option Partial
  | .narrow w a, .narrow v b =>
    if w = v then
      let c := accAdd a b.n
      some (.narrow w { c with nan := c.nan || b.nan, pinf := c.pinf || b.pinf, ninf := c.ninf || b.ninf })
    else none
  | .wide x bx cx tx fx, .wide y b2 c2 t2 f2 =>
    if isPow2 cx ∧ bx % (2 * cx) = 0 ∧ b2 = bx + cx ∧ (c2 = cx ∨ b2 + c2 = t2) ∧ tx = t2 ∧ fx = f2 then
      some (.wide (toF32 (Val.add (ofF32 x) (ofF32 y))) bx (cx + c2) tx fx)
    else none
  | _, _ => none

/-- The sum overflowed the 96-bit accumulator (R61). -/
def partialOvf : Partial → Bool
  | .narrow _ a => a.ovf
  | .wide _ _ _ _ _ => false

/-- A record's value: the exact value of R62, or the wide node. -/
def partialVal : Partial → Val
  | .narrow w a => accVal w a
  | .wide x _ _ _ _ => ofF32 x

/-- A run of records. -/
def partialAt (bs : Bytes) (i : Nat) : Option Partial := partialOf ((bs.drop (16 * i)).take 16)

end Sys2Proof.Machine
end

