-- ==== Sys2Proof/Machine/Matrix.lean ====
section
/-! DEFINITION. OP_MATMUL and OP_MATMUL_SPARSE (R52-R75, R462). -/

namespace Sys2Proof.Machine

/-! ### Sparse rows -/

/-- A group's kept positions, or the test of R75 that fails, by its place in R75's list. -/
abbrev GroupPos := Except Nat (List Nat)

/-- Positions strictly ascend. -/
def ascending : List Nat → Bool
  | a :: b :: t => decide (a < b) && ascending (b :: t)
  | _ => true

/-- The kept positions of a 2:4 group from its nibble (R71). -/
def group24 (x : Nat) : GroupPos :=
  let i0 := bitsOf x 0 2
  let i1 := bitsOf x 2 2
  if i0 < i1 then .ok [i0, i1] else .error 0

/-- The kept positions of a 4:8 group from its mask (R71). -/
def group48 (x : Nat) : GroupPos :=
  let l := (upto 8).filter (bitAt x)
  if l.length = 4 then .ok l else .error 1

/-- Positions per group: 4, 8 or 16. -/
def groupSize (sp : Nat) : Nat := nth 16 [4, 8, 16] sp

/-- The groups of a group-coded row (R72), from what is left of its metadata and of its values' room in bits; a failure
carries the group's index. -/
def groupCoded (bits : Nat) : Nat → Nat → Bytes → Nat → Except (Nat × Nat) (List (List Nat))
  | 0, _, _, _ => .ok []
  | n + 1, g, md, room =>
    match md with
    | [] => .error (g, 5)
    | c :: rest =>
      let k := c.toNat
      let h := ceilDiv k 2
      if 16 < k then .error (g, 2)
      else if rest.length < h then .error (g, 5)
      else
        let ps := (upto k).map (fun i => bitsOf (nth 0 rest (i / 2)).toNat (4 * (i % 2)) 4)
        if !ascending ps then .error (g, 3)
        else if k % 2 = 1 ∧ bitsOf (nth 0 rest (k / 2)).toNat 4 4 ≠ 0 then .error (g, 4)
        else if room < k * bits then .error (g, 5)
        else
          match groupCoded bits n (g + 1) (rest.drop h) (room - k * bits) with
          | .error e => .error e
          | .ok t => .ok (ps :: t)

/-- The groups of an N:M row, with the index of the first that fails. -/
def groupsNm (f : Nat → GroupPos) : Nat → List Nat → Except (Nat × Nat) (List (List Nat))
  | _, [] => .ok []
  | g, x :: t =>
    match f x with
    | .error e => .error (g, e)
    | .ok ps =>
      match groupsNm f (g + 1) t with
      | .error e => .error e
      | .ok r => .ok (ps :: r)

/-- The kept positions of every group of a sparse row of `k` elements (R71, R72, R75); `vbytes` is the value pitch. -/
def rowGroups (sp fmt k : Nat) (md : Bytes) (vbytes : Nat) : Except (Nat × Nat) (List (List Nat)) :=
  let n := ceilDiv k (groupSize sp)
  match sp with
  | 0 => groupsNm group24 0 ((upto n).map (fun g => bitsOf (nth 0 md (g / 2)).toNat (4 * (g % 2)) 4))
  | 1 => groupsNm group48 0 ((upto n).map (fun g => (nth 0 md g).toNat))
  | _ => groupCoded (fmtBits fmt) n 0 md (8 * vbytes)

/-- The positions of a row that are kept, in the order of the stored values. -/
def keptPositions (sp : Nat) (gs : List (List Nat)) : List Nat :=
  (gs.zipIdx).flatMap (fun p => p.1.map (· + p.2 * groupSize sp))

/-- Bytes of a sparse row's metadata that a command reads: whole groups, or for group-coded form its pitch. -/
def metaBytes (sp k ld : Nat) : Nat :=
  match sp with
  | 0 => ceilDiv (ceilDiv k 4) 2
  | 1 => ceilDiv k 8
  | _ => ld * 64

/-- Bytes of a sparse row's values. -/
def sparseValBytes (sp fmt k ld : Nat) : Nat :=
  match sp with
  | 0 => packedBytes fmt (2 * ceilDiv k 4)
  | 1 => packedBytes fmt (4 * ceilDiv k 8)
  | _ => ld * 64

/-! ### The descriptor -/

/-- The fields of OP_MATMUL (Table 3.4), with `sparse` and the fields of Table 3.5. -/
structure Mm where
  sparse : Bool
  aAddr : Nat
  bAddr : Nat
  cAddr : Nat
  ascAddr : Nat
  bscAddr : Nat
  arefAddr : Nat
  brefAddr : Nat
  aLd : Nat
  bLd : Nat
  cLd : Nat
  m : Nat
  n : Nat
  k : Nat
  af : Nat
  bf : Nat
  cf : Nat
  cvt : Nat
  watched : Bool
  outmode : Nat
  accIn : Bool
  ascNone : Bool
  bscNone : Bool
  rng : Nat
  tscale : Nat
  segBase : Nat
  segTotal : Nat
  spfmt : Nat
  metaAddr : Nat
  metaLd : Nat
  deriving DecidableEq, Repr

/-- The fields of a descriptor. -/
def mmOf (sparse : Bool) (d : Desc) : Mm :=
  { sparse := sparse, aAddr := fld d 64 24, bAddr := fld d 88 24, cAddr := fld d 112 24, ascAddr := fld d 136 24,
    bscAddr := fld d 160 24, arefAddr := fld d 184 24, brefAddr := fld d 208 24, aLd := fld d 232 16, bLd := fld d 248 16,
    cLd := fld d 264 16, m := fld d 280 16, n := fld d 296 16, k := fld d 312 22, af := fld d 334 4, bf := fld d 338 4,
    cf := fld d 342 4, cvt := fld d 346 2, watched := flag d 348, outmode := fld d 349 2, accIn := flag d 351,
    ascNone := flag d 352, bscNone := flag d 353, rng := fld d 354 4, tscale := fld d 358 32, segBase := fld d 390 16,
    segTotal := fld d 406 16, spfmt := fld d 422 2, metaAddr := fld d 424 24, metaLd := fld d 448 16 }

/-- A narrow pair. -/
def Mm.narrow (x : Mm) : Bool := isNarrow x.af && isNarrow x.bf

/-- Segments of the command's own range, and of the whole operation (R65). -/
def Mm.nseg (x : Mm) : Nat := ceilDiv x.k 128
/-- SEG_TOTAL, 0 standing for the command's own segments. -/
def Mm.total (x : Mm) : Nat := if x.segTotal = 0 then x.nseg else x.segTotal

/-- R65: the segment range is a subtree of R64. -/
def segsOk (x : Mm) : Bool :=
  let n := x.nseg
  let last : Bool := x.segBase + n == x.total
  x.segBase % 2 ^ clog2 n == 0 && (isPow2 n || last) && (x.k % 128 == 0 || last) && decide (x.segBase + n ≤ x.total)

/-- Bytes of a row of C: result records, starting records, or elements (R462). -/
def Mm.cRow (x : Mm) : Nat := if x.outmode = 1 ∨ x.accIn then 16 * x.n else x.n * fmtBits x.cf / 8

/-- Bytes of a row of B's values. -/
def Mm.bRow (x : Mm) : Nat := if x.sparse then sparseValBytes x.spfmt x.bf x.k x.bLd else packedBytes x.bf x.k

/-- A's or B's block scales are read. -/
def Mm.ascRead (x : Mm) : Bool := x.narrow && !x.ascNone
/-- B's block scales are read. -/
def Mm.bscRead (x : Mm) : Bool := x.narrow && !x.bscNone

/-- Reserved fields and enumeration values (R10). CFMT is not checked under OUTMODE 1 (R69). -/
def mmReserved (sparse : Bool) (d : Desc) : Bool :=
  let x := mmOf sparse d
  (if sparse then fld d 464 48 != 0 || x.spfmt == 3 else fld d 422 90 != 0) ||
  decide (1 < x.outmode) || fmtReserved x.af || fmtReserved x.bf || (x.outmode == 0 && fmtReserved x.cf)

/-- The operands lie in the local store, aligned, with pitches that hold their rows (R69, R91, R462). -/
def mmOperandsOk (x : Mm) : Bool :=
  let nb := ceilDiv x.k 32
  stridedOk x.aAddr x.m (packedBytes x.af x.k) x.aLd false && stridedOk x.bAddr x.n x.bRow x.bLd false &&
  stridedOk x.cAddr x.m x.cRow x.cLd true &&
  (!x.ascRead || (lsOk 1 x.ascAddr (x.m * nb) && lsOk 16 x.arefAddr 16)) &&
  (!x.bscRead || (lsOk 1 x.bscAddr (x.n * nb) && lsOk 16 x.brefAddr 16)) &&
  (!x.sparse || stridedOk x.metaAddr x.n (metaBytes x.spfmt x.k x.metaLd) x.metaLd false)

/-- The scoreboard's ranges, in the order of the descriptor's fields; none for an empty command. -/
def mmRanges (x : Mm) : List Range :=
  let nb := ceilDiv x.k 32
  if x.m = 0 ∨ x.n = 0 then []
  else
    stridedRange x.aAddr x.m (packedBytes x.af x.k) x.aLd false ++ stridedRange x.bAddr x.n x.bRow x.bLd false ++
    stridedRange x.cAddr x.m x.cRow x.cLd true ++
    (if x.ascRead then lsRange x.ascAddr (x.m * nb) false else []) ++
    (if x.bscRead then lsRange x.bscAddr (x.n * nb) false else []) ++
    (if x.ascRead then lsRange x.arefAddr 16 false else []) ++
    (if x.bscRead then lsRange x.brefAddr 16 false else []) ++
    (if x.sparse then stridedRange x.metaAddr x.n (metaBytes x.spfmt x.k x.metaLd) x.metaLd false else [])

/-- The checks of R69 and R73 after R10. -/
def mmPrep (x : Mm) : Prep :=
  if !(x.narrow || (isWide x.af && x.af == x.bf)) then rejectWith Code.eFmtPair
  else if x.outmode = 0 ∧ !isWide x.cf then rejectWith Code.eFmtPair
  else if x.sparse ∧ x.bf = 0 then rejectWith Code.eSparseFmt
  else if x.outmode = 0 ∧ tscaleBad x.tscale then rejectWith Code.eTensorScale
  else if x.k = 0 ∨ 2097152 < x.k ∨ (x.narrow ∧ (x.k % 32 ≠ 0 ∨ x.segBase ≠ 0 ∨ x.segTotal ≠ 0)) then
    rejectWith Code.eMmShape
  else if !x.narrow && !segsOk x then
    .reject { code := Code.eMmShape
              detail := [BitVec.ofNat 32 x.segBase, BitVec.ofNat 32 x.nseg, BitVec.ofNat 32 x.total] }
  else if !mmOperandsOk x then rejectWith Code.eDescOperand
  else .go (mmRanges x)

/-! ### Execution -/

/-- The metadata of row `r` of B. -/
def mmMeta (s : State) (core : Nat) (x : Mm) (r : Nat) : Except (Nat × Nat) (List (List Nat)) :=
  rowGroups x.spfmt x.bf x.k (readLs s core (x.metaAddr + r * x.metaLd * 64) (metaBytes x.spfmt x.k x.metaLd)) (x.bLd * 64)

/-- Row `r` of B: one pattern a position, `none` where a sparse row keeps nothing. -/
def mmB (s : State) (core : Nat) (x : Mm) (r : Nat) : List (Option Nat) :=
  if x.sparse then
    match mmMeta s core x r with
    | .error _ => []
    | .ok gs =>
      let ps := keptPositions x.spfmt gs
      let bs := readLs s core (x.bAddr + r * x.bLd * 64) x.bRow
      (upto x.k).map (fun p =>
        let i := (ps.takeWhile (· != p)).length
        if i < ps.length then some (unpackElem x.bf bs i) else none)
  else (rowElems s core x.bf x.bAddr x.bLd x.k r).map some

/-- The pairs of a cell by position; `none` where B keeps nothing. -/
def cellPairs (fa fb : Nat) (a : List Nat) (b : List (Option Nat)) : List (Option (Val × Val)) :=
  (a.zip b).map (fun p => p.2.map (fun y => (decodeElem fa p.1, decodeElem fb y)))

/-- A narrow cell over the whole K (R57-R61). -/
def narrowCell (w : NarrowPair) (start : Acc) (ps : List (Option (Val × Val))) (ca cb : List Nat) : Acc :=
  ((pieces 32 ps.length ps).zipIdx).foldl
    (fun a q => accBlock w a (q.1.filterMap id) (nth 0x7F ca q.2) (nth 0x7F cb q.2)) start

/-- A wide cell: the node of the command's own range (R63-R65). -/
def wideCell (x : Mm) (ps : List (Option (Val × Val))) : Partial :=
  let sums := (pieces 128 ps.length ps).map (fun q => segSum (q.filterMap id))
  .wide (toF32 (segNode sums sums.length (clog2 sums.length) 0)) x.segBase x.nseg x.total x.af

/-- REFX of a scale-pass record (Table 2.6), 0x7F without stored scales (R58). -/
def refxAt (s : State) (core : Nat) (none : Bool) (a : Nat) : Nat :=
  if none then 0x7F else (nth 0 (readLs s core (a + 4) 1) 0).toNat

/-- The narrow parameters of a command. -/
def mmPair (s : State) (core : Nat) (x : Mm) : NarrowPair :=
  { fa := x.af, fb := x.bf, ra := refxAt s core x.ascNone x.arefAddr, rb := refxAt s core x.bscNone x.brefAddr }

/-- The address of element or record (m, n) of C. -/
def mmC (x : Mm) (m n size : Nat) : Nat := x.cAddr + m * x.cLd * 64 + n * size

/-- The starting record of an element under ACC_IN. -/
def mmStart (s : State) (core : Nat) (x : Mm) (m n : Nat) : Option Partial := partialOf (readLs s core (mmC x m n 16) 16)

/-- The result record of a cell, `none` where the starting record does not combine (R67). -/
def mmCell (s : State) (core : Nat) (x : Mm) (w : NarrowPair) (m n : Nat) (a : List Nat) (ca : List Nat)
    (b : List (Option Nat)) (cb : List Nat) : Option Partial :=
  let ps := cellPairs x.af x.bf a b
  if x.narrow then
    if x.accIn then
      match mmStart s core x m n with
      | some (.narrow v start) => if v = w then some (.narrow w (narrowCell w start ps ca cb)) else none
      | _ => none
    else some (.narrow w (narrowCell w {} ps ca cb))
  else if x.accIn then
    match mmStart s core x m n with
    | some st => partialAdd st (wideCell x ps)
    | none => none
  else some (wideCell x ps)

/-- What a cell writes, and whether it raises a watch event (R32, R61, R62). A zero N under a negative TSCALE gives −0 (DESIGN
CHOICE, log 82). -/
def mmOut (s : State) (c : CtxId) (x : Mm) (m n : Nat) (p : Partial) : (Nat × Bytes) × Bool :=
  if x.outmode = 1 then ((mmC x m n 16, partialBytes p), partialOvf p)
  else
    let r := encodeElem x.cf (Val.mul (partialVal p) (ofF32 x.tscale)) x.cvt false (drawWord (getRng s c x.rng) x.cvt (m * x.n + n))
    let sz := fmtBits x.cf / 8
    ((mmC x m n sz, leBytes sz r.1), partialOvf p || r.2 != 0)

/-- The first block of a tile whose code lies above its reference: ascending block, A before B, lower row first. -/
def mmWindow (w : NarrowPair) (nb : Nat) (ca cb : List (Nat × List Nat)) : Option (List (BitVec 32)) :=
  ((upto nb).flatMap (fun k =>
    (ca.filter (fun r => decide (w.ra < nth 0 r.2 k) && nth 0 r.2 k != 0xFF)).map (fun r => [0, r.1, k]) ++
    (cb.filter (fun r => decide (w.rb < nth 0 r.2 k) && nth 0 r.2 k != 0xFF)).map (fun r => [1, r.1, k]))).head?.map
    (fun l => l.map (BitVec.ofNat 32))

/-- The first row of B in a tile whose metadata fails (R75): row, group and test. -/
def mmMetaFail (s : State) (core : Nat) (x : Mm) (cols : List Nat) : Option (List (BitVec 32)) :=
  if x.sparse then
    cols.findSome? (fun r =>
      match mmMeta s core x r with
      | .error e => some [BitVec.ofNat 32 r, BitVec.ofNat 32 e.1, Config.sparseTestCode e.2]
      | .ok _ => none)
  else none

/-- One tile (R52): its outputs, or the fault that stops the command at it. -/
def mmTile (s : State) (core : Nat) (c : CtxId) (x : Mm) (w : NarrowPair) (t : Nat × Nat) :
    Except OpErr (List (Nat × Bytes) × Bool) :=
  let rows := (upto (min 64 (x.m - t.1))).map (· + t.1)
  let cols := (upto (min 256 (x.n - t.2))).map (· + t.2)
  let ca := rows.map (fun m => (m, rowCodes s core x.ascNone x.ascAddr x.k m))
  let cb := cols.map (fun n => (n, rowCodes s core x.bscNone x.bscAddr x.k n))
  match mmMetaFail s core x cols with
  | some d => .error { code := Code.eSparseMeta, detail := d }
  | none =>
    match (if x.narrow then mmWindow w (ceilDiv x.k 32) ca cb else none) with
    | some d => .error { code := Code.eMmWindow, detail := d }
    | none =>
      let bs := cb.map (fun r => (r.1, mmB s core x r.1, r.2))
      let cells := ca.flatMap (fun r =>
        let a := rowElems s core x.af x.aAddr x.aLd x.k r.1
        bs.map (fun b => (mmCell s core x w r.1 b.1 a r.2 b.2.1 b.2.2).map (mmOut s c x r.1 b.1)))
      if cells.all (·.isSome) then
        let os := cells.filterMap id
        .ok (os.map (·.1), os.any (·.2))
      else .error { code := Code.eMmPartial, detail := [] }

/-- Tiles in ascending n0 within ascending m0 (R52). -/
def mmTiles (x : Mm) : List (Nat × Nat) :=
  (upto (ceilDiv x.m 64)).flatMap (fun i => (upto (ceilDiv x.n 256)).map (fun j => (64 * i, 256 * j)))

/-- Runs the tiles in order. A stop leaves the tiles already drained written and the other outputs unchanged; records
that do not combine leave the output undefined (R86). -/
def runTiles (s : State) (core : Nat) (c : CtxId) (x : Mm) (w : NarrowPair) : List (Nat × Nat) → RunResult
  | [] => {}
  | t :: rest =>
    match mmTile s core c x w t with
    | .error err =>
      { fault := some err
        undef := if err.code = Code.eMmPartial then [(x.cAddr, rowsExtent x.m x.cRow x.cLd)] else [] }
    | .ok o =>
      let r := runTiles s core c x w rest
      { r with writes := o.1 ++ r.writes, event := o.2 || r.event }

/-- A matrix command runs (R52-R75). An empty one completes at issue (R70). -/
def runMm (e : Entry) (x : Mm) (s : State) (core : Nat) : State × Ended :=
  if x.m = 0 ∨ x.n = 0 then (s, .atOnce okOutcome)
  else
    let r := runTiles s core e.cid x (mmPair s core x) (mmTiles x)
    let s1 := if x.outmode = 0 then advanceRng s e.cid x.rng x.cvt (x.m * x.n) else s
    settleRun s1 core e x.watched r

/-- A skipped matrix command advances its stream as though it had run (R36). -/
def skipMm (e : Entry) (x : Mm) (s : State) (_core : Nat) : State :=
  if x.outmode = 0 then advanceRng s e.cid x.rng x.cvt (x.m * x.n) else s

/-- The rows of OP_MATMUL and OP_MATMUL_SPARSE. -/
def mmRow (e : Entry) (op : Nat) (sparse : Bool) : OpRow :=
  let x := mmOf sparse e.desc
  { row := opcode e.desc == op
    reserved := mmReserved sparse e.desc
    classes := [0, 1]
    prep := fun _ _ => mmPrep x
    skip := skipMm e x
    run := runMm e x }

/-- OP_MATMUL (R68-R70). -/
def execOpMatmul (e : Entry) (s : State) : Host.Outcome State Fault Refusal := .next (issueCmd s e (mmRow e 0x0100 false))

/-- OP_MATMUL_SPARSE (R73-R75). -/
def execOpMatmulSparse (e : Entry) (s : State) : Host.Outcome State Fault Refusal :=
  .next (issueCmd s e (mmRow e 0x0101 true))

end Sys2Proof.Machine
end

