-- ==== Sys2Proof/Machine/Vector.lean ====
section
/-! DEFINITION. OP_VCHAIN (R79-R82) and OP_ATTN_BLOCK (R83, R84). -/

namespace Sys2Proof.Machine

/-! ### Output rows -/

/-- Bytes of a row of `n` elements in a format, AL48 in groups of 16 (R25, R56). -/
def rowBytes (f n : Nat) : Nat := if f = 0xA then 100 * ceilDiv n 16 else packedBytes f n

/-- A row converted into a format (R24, R26, R79): its bytes, its block scales and whether an event was raised. `word i`
is the random word of element i. -/
def encodeRow (f : Nat) (vs : List Val) (cvt : Nat) (word : Nat → Nat) : Bytes × Bytes × Bool :=
  if f = 0xA then
    let gs := pieces 16 vs.length vs
    (gs.flatMap (fun g =>
      al48Bytes (toAl48 (g.foldl (fun a v => maxExp a (contribExp v)) none) (g ++ List.replicate (16 - g.length) vZero))),
     [], vs.any (fun v => !v.finite))
  else if isWide f then
    let r := (vs.zipIdx).map (fun p => encodeElem f p.1 cvt false (word p.2))
    (packElems f (r.map (·.1)), [], r.any (fun p => p.2 != 0))
  else
    let bs := (pieces 32 vs.length vs).zipIdx.map (fun b =>
      encodeBlock f b.1 cvt ((upto b.1.length).map (fun i => word (32 * b.2 + i))))
    (packElems f (bs.flatMap (·.1)), bs.map (fun b => BitVec.ofNat 8 b.2.1), bs.any (fun b => b.2.2 != 0))

/-! ### OP_VCHAIN -/

/-- The fields of OP_VCHAIN (Table 3.10); `ops` is the chain's slots in use as (op code, SRC2). -/
structure Vc where
  x1 : Nat
  x2 : Nat
  y : Nat
  vec : Nat
  ysc : Nat
  x1Ld : Nat
  x2Ld : Nat
  yLd : Nat
  rows : Nat
  cols : Nat
  f1 : Nat
  f2 : Nat
  fy : Nat
  cvt : Nat
  watched : Bool
  rng : Nat
  s0 : Nat
  s1 : Nat
  x1sc : Nat
  ops : List (Nat × Nat)
  deriving DecidableEq, Repr

/-- The fields of a descriptor. -/
def vcOf (d : Desc) : Vc :=
  { x1 := fld d 64 24, x2 := fld d 88 24, y := fld d 112 24, vec := fld d 136 24, ysc := fld d 160 24,
    x1Ld := fld d 184 16, x2Ld := fld d 200 16, yLd := fld d 216 16, rows := fld d 232 16, cols := fld d 248 16,
    f1 := fld d 264 4, f2 := fld d 268 4, fy := fld d 272 4, cvt := fld d 276 2, watched := flag d 278,
    rng := fld d 279 4, s0 := fld d 286 32, s1 := fld d 318 32, x1sc := fld d 478 24,
    ops := (upto (fld d 283 3 + 1)).map (fun k => (fld d (16 * k + 350) 8, fld d (16 * k + 358) 3)) }

/-- The op codes of Table 3.9. -/
def vopKnown (c : Nat) : Bool :=
  decide (c ≤ 0x16) || (decide (0x20 ≤ c) && decide (c ≤ 0x24)) || c == 0x28 || c == 0x30 || c == 0x31

/-- The op's result uses t (R82). -/
def vopBinary (c : Nat) : Bool := (decide (1 ≤ c) && decide (c ≤ 7)) || c == 0x24

/-- RSUM, RMAX, RSUMSQ. -/
def vopReduce (c : Nat) : Bool := decide (0x20 ≤ c) && decide (c ≤ 0x22)

/-- PADD, PCVT. -/
def vopAlone (c : Nat) : Bool := c == 0x30 || c == 0x31

/-- The chain ends in a row reduction, which writes one element per row. -/
def Vc.reduces (x : Vc) : Bool := match x.ops.getLast? with | some o => vopReduce o.1 | none => false

/-- The chain is PADD, or PCVT. -/
def Vc.padd (x : Vc) : Bool := x.ops.any (fun o => o.1 == 0x30)
/-- The chain is PCVT. -/
def Vc.pcvt (x : Vc) : Bool := x.ops.any (fun o => o.1 == 0x31)

/-- Elements written per row. -/
def Vc.nout (x : Vc) : Nat := if x.reduces then 1 else x.cols

/-- Some op takes its second operand from a source. -/
def Vc.takes (x : Vc) (src : Nat) : Bool := x.ops.any (fun o => vopBinary o.1 && o.2 == src)

/-- X2 is read. -/
def Vc.x2Read (x : Vc) : Bool := x.padd || x.takes 1

/-- FP32 elements of VEC that are read. -/
def Vc.nvec (x : Vc) : Nat := max (if x.takes 4 then x.rows else 0) (if x.takes 5 then x.cols else 0)

/-- Bytes of a row of X1. -/
def Vc.x1Row (x : Vc) : Nat := if x.padd ∨ x.pcvt then 16 * x.cols else rowBytes x.f1 x.cols
/-- Bytes of a row of X2. -/
def Vc.x2Row (x : Vc) : Nat := if x.padd then 16 * x.cols else rowBytes x.f2 x.cols
/-- Bytes of a row of Y. -/
def Vc.yRow (x : Vc) : Nat := if x.padd then 16 * x.cols else rowBytes x.fy x.nout

/-- Y has block scales. -/
def Vc.yScaled (x : Vc) : Bool := !x.padd && isNarrow x.fy

/-- Reserved fields and enumeration values (R10, R80, R82). X2FMT and YFMT are not checked where they are not used. -/
def vcReserved (d : Desc) : Bool :=
  let x := vcOf d
  fld d 502 10 != 0 || fmtReserved x.f1 || fmtReserved x.f2 || (!x.padd && fmtReserved x.fy) ||
  x.ops.any (fun o => !vopKnown o.1 || decide (5 < o.2)) ||
  (upto x.ops.length).any (fun k => fld d (16 * k + 361) 5 != 0) ||
  (upto 8).any (fun k => decide (x.ops.length ≤ k) && fld d (16 * k + 350) 16 != 0)

/-- The composition of the chain (R81, R82). -/
def vcChainOk (x : Vc) : Bool :=
  (x.ops.zipIdx).all (fun p =>
    let c := p.1.1
    (!(vopReduce c || c == 0x28) || p.2 + 1 == x.ops.length) &&
    (!vopAlone c || (x.ops.length == 1 && x.f1 == 0 && x.f2 == 0)) &&
    (if vopBinary c then decide (1 ≤ p.1.2) else if c = 0x30 then p.1.2 == 1 else p.1.2 == 0))

/-- An AL48 operand with a narrow output, or a narrow X1 with an AL48 output, asks for a conversion that R29 refuses. -/
def vcFmtBad (x : Vc) : Bool :=
  isNarrow x.f2 || (!x.padd && isNarrow x.fy && (x.f1 == 0xA || (x.x2Read && x.f2 == 0xA))) ||
  (!x.padd && x.fy == 0xA && isNarrow x.f1)

/-- The operands (R69, R91). -/
def vcOperandsOk (x : Vc) : Bool :=
  stridedOk x.x1 x.rows x.x1Row x.x1Ld false && (!x.x2Read || stridedOk x.x2 x.rows x.x2Row x.x2Ld false) &&
  stridedOk x.y x.rows x.yRow x.yLd true && lsOk 1 x.vec (4 * x.nvec) &&
  (!x.yScaled || lsOk 1 x.ysc (x.rows * ceilDiv x.nout 32)) &&
  (!isNarrow x.f1 || lsOk 1 x.x1sc (x.rows * ceilDiv x.cols 32))

/-- The ranges, in the order of the descriptor's fields; none for an empty command. -/
def vcRanges (x : Vc) : List Range :=
  if x.rows = 0 ∨ x.cols = 0 then []
  else
    stridedRange x.x1 x.rows x.x1Row x.x1Ld false ++
    (if x.x2Read then stridedRange x.x2 x.rows x.x2Row x.x2Ld false else []) ++
    stridedRange x.y x.rows x.yRow x.yLd true ++ lsRange x.vec (4 * x.nvec) false ++
    (if x.yScaled then lsRange x.ysc (x.rows * ceilDiv x.nout 32) true else []) ++
    (if isNarrow x.f1 then lsRange x.x1sc (x.rows * ceilDiv x.cols 32) false else [])

/-- The checks of OP_VCHAIN after R10. -/
def vcPrep (x : Vc) : Prep :=
  if !vcChainOk x then rejectWith Code.eVchain
  else if vcFmtBad x then rejectWith Code.eFmtPair
  else if x.ops.any (fun o => o.1 == 0x28 || o.1 == 0x31) ∧ tscaleBad x.s0 then rejectWith Code.eTensorScale
  else if !x.reduces && x.cols % 32 != 0 then rejectWith Code.eMmShape
  else if !vcOperandsOk x then rejectWith Code.eDescOperand
  else .go (vcRanges x)

/-- A row of an input decoded to FP32, or AL48 exactly under `exact` (R28, R79), with whether the conversion raised an event
(R32); a code of E_AL48_GEXP for an AL48 record with GEXP 0xFF (R25). -/
def vcInput (s : State) (core : Nat) (exact : Bool) (fmt base ld n sc r : Nat) : Except (BitVec 16) (List Val × Bool) :=
  if fmt = 0xA then
    let gs := (upto (ceilDiv n 16)).map (fun g => al48Of (readLs s core (base + r * ld * 64 + 100 * g) 100))
    if gs.any (fun g => g.gexp == 0xFF) then .error Code.eAl48Gexp
    else
      let vs := ((gs.flatMap (fun g => (upto 16).map (al48Val g))).take n).map (fun v => if exact then v else rndF32 v)
      .ok (vs, vs.any (fun v => !v.finite))
  else
    let vs := (rowVals fmt (rowElems s core fmt base ld n r) (rowCodes s core (!isNarrow fmt) sc n r)).map rndF32
    .ok (vs, vs.any (fun v => !v.finite))

/-- An FP32 of VEC. -/
def vecAt (s : State) (core : Nat) (x : Vc) (i : Nat) : Val := ofF32 (leNat (readLs s core (x.vec + 4 * i) 4))

/-- SOFTMAX of a row. -/
def softmax (xs : List Val) : List Val :=
  let m := rowMax xs
  let es := xs.map (fun x => opExp (fAdd x m.neg))
  let t := rowSum es
  es.map (fun e => rndF32 (Val.div e t))

/-- x × RSQRT(RSUMSQ ÷ COLS + S0), the first part of RMSNORM; the product with t follows per element. -/
def rmsScale (xs : List Val) (s0 : Val) : Val :=
  opRsqrt (fAdd (rndF32 (Val.div (rowSumSq xs) (.num false xs.length 0))) s0)

/-- One op over a row; `t i` is element i's second operand (R80). -/
def vopRow (code : Nat) (t : Nat → Val) (s0 s1 : Val) (xs : List Val) : List Val :=
  match code with
  | 0x20 => [rowSum xs]
  | 0x21 => [rowMax xs]
  | 0x22 => [rowSumSq xs]
  | 0x23 => softmax xs
  | 0x24 => (xs.zipIdx).map (fun p => fMul (fMul p.1 (rmsScale xs s0)) (t p.2))
  | _ => (xs.zipIdx).map (fun p => elemOp code p.1 (t p.2) s0 s1)

/-- The second operand of element `i` of row `r` (R82). -/
def vcSrc (s : State) (core : Nat) (x : Vc) (x2 : List Val) (r src i : Nat) : Val :=
  match src with
  | 1 => nth vZero x2 i
  | 2 => ofF32 x.s0
  | 3 => ofF32 x.s1
  | 4 => vecAt s core x r
  | 5 => vecAt s core x i
  | _ => vZero

/-- The chain is a conversion and no more: every op is PASS. -/
def Vc.converts (x : Vc) : Bool := x.ops.all (fun o => o.1 == 0)

/-- A row's values after the chain, with the events of its inputs. A chain that only converts passes AL48 values on exactly,
so that they are rounded once, under CVT (R27; DEDUCED, log 88); any other chain starts from FP32 (R79). -/
def vcRowVals (s : State) (core : Nat) (x : Vc) (r : Nat) : Except (BitVec 16) (List Val × Bool) :=
  match vcInput s core x.converts x.f1 x.x1 x.x1Ld x.cols x.x1sc r,
        (if x.x2Read then vcInput s core false x.f2 x.x2 x.x2Ld x.cols 0 r else .ok ([], false)) with
  | .error c, _ => .error c
  | _, .error c => .error c
  | .ok a, .ok b =>
    .ok (x.ops.foldl (fun vs o => vopRow o.1 (vcSrc s core x b.1 r o.2) (ofF32 x.s0) (ofF32 x.s1) vs) a.1, a.2 || b.2)

/-- A row of PADD: the sums of the records, and whether one overflowed (R61, R67). -/
def paddRow (s : State) (core : Nat) (x : Vc) (r : Nat) : Except (BitVec 16) (Bytes × Bool) :=
  let a := readLs s core (x.x1 + r * x.x1Ld * 64) (16 * x.cols)
  let b := readLs s core (x.x2 + r * x.x2Ld * 64) (16 * x.cols)
  let ps := (upto x.cols).map (fun i =>
    match partialAt a i, partialAt b i with
    | some p, some q => partialAdd p q
    | _, _ => none)
  if ps.all (·.isSome) then
    .ok ((ps.filterMap id).flatMap partialBytes, (ps.filterMap id).any partialOvf)
  else .error Code.eMmPartial

/-- A row of PCVT: the records' values times S0, exactly (R62). -/
def pcvtRow (s : State) (core : Nat) (x : Vc) (r : Nat) : Except (BitVec 16) (List Val × Bool) :=
  let a := readLs s core (x.x1 + r * x.x1Ld * 64) (16 * x.cols)
  let ps := (upto x.cols).map (partialAt a)
  if ps.all (·.isSome) then .ok ((ps.filterMap id).map (fun p => Val.mul (partialVal p) (ofF32 x.s0)), false)
  else .error Code.eMmPartial

/-- What row `r` writes, and whether it raised an event. -/
def vcRow (s : State) (c : CtxId) (core : Nat) (x : Vc) (r : Nat) : Except (BitVec 16) (List (Nat × Bytes) × Bool) :=
  let ya := x.y + r * x.yLd * 64
  if x.padd then
    match paddRow s core x r with
    | .error e => .error e
    | .ok o => .ok ([(ya, o.1)], o.2)
  else
    match (if x.pcvt then pcvtRow s core x r else vcRowVals s core x r) with
    | .error e => .error e
    | .ok o =>
      let g := getRng s c x.rng
      let q := encodeRow x.fy o.1 x.cvt (fun i => drawWord g x.cvt (r * x.nout + i))
      .ok ([(ya, q.1), (x.ysc + r * q.2.1.length, q.2.1)], o.2 || q.2.2)

/-- Runs the rows in order; a fault leaves the outputs undefined (R86). -/
def runRows (s : State) (c : CtxId) (core : Nat) (x : Vc) : List Nat → RunResult
  | [] => {}
  | r :: t =>
    match vcRow s c core x r with
    | .error code =>
      { fault := some { code := code, detail := [] }
        undef := (x.y, rowsExtent x.rows x.yRow x.yLd) ::
          (if x.yScaled then [(x.ysc, x.rows * ceilDiv x.nout 32)] else []) }
    | .ok o =>
      let q := runRows s c core x t
      { q with writes := o.1 ++ q.writes, event := o.2 || q.event }

/-- Output elements that draw (R35, R79): none for PADD. -/
def Vc.draws (x : Vc) : Nat := if x.padd ∨ x.cols = 0 then 0 else x.rows * x.nout

/-- OP_VCHAIN runs; an empty one completes at issue (R79). -/
def runVc (e : Entry) (x : Vc) (s : State) (core : Nat) : State × Ended :=
  if x.rows = 0 ∨ x.cols = 0 then (s, .atOnce okOutcome)
  else settleRun (advanceRng s e.cid x.rng x.cvt x.draws) core e x.watched (runRows s e.cid core x (upto x.rows))

/-- The row of OP_VCHAIN. -/
def vchainRow (e : Entry) : OpRow :=
  let x := vcOf e.desc
  { row := opcode e.desc == 0x0102
    reserved := vcReserved e.desc
    classes := [0, 1]
    prep := fun _ _ => vcPrep x
    skip := fun t _ => advanceRng t e.cid x.rng x.cvt x.draws
    run := runVc e x }

/-- OP_VCHAIN (R79-R82). -/
def execOpVchain (e : Entry) (s : State) : Host.Outcome State Fault Refusal :=
  .next (issueCmd s e (vchainRow e))

/-! ### OP_ATTN_BLOCK -/

/-- The fields of OP_ATTN_BLOCK (Table 3.11); `dh` is D. -/
structure At where
  q : Nat
  k : Nat
  v : Nat
  st : Nat
  o : Nat
  mq : Nat
  nk : Nat
  dhCode : Nat
  qkf : Nat
  vf : Nat
  of : Nat
  mask : Nat
  init : Bool
  final : Bool
  cvt : Nat
  watched : Bool
  rng : Nat
  qpos : Nat
  kpos : Nat
  qkScale : Nat
  vScale : Nat
  win : Nat
  qLd : Nat
  kLd : Nat
  vLd : Nat
  oLd : Nat
  deriving DecidableEq, Repr

/-- The fields of a descriptor. -/
def atOf (d : Desc) : At :=
  { q := fld d 64 24, k := fld d 88 24, v := fld d 112 24, st := fld d 136 24, o := fld d 160 24, mq := fld d 184 16,
    nk := fld d 200 16, dhCode := fld d 216 3, qkf := fld d 219 4, vf := fld d 223 4, of := fld d 227 4,
    mask := fld d 231 2, init := flag d 233, final := flag d 234, cvt := fld d 235 2, watched := flag d 237,
    rng := fld d 238 4, qpos := fld d 242 32, kpos := fld d 274 32, qkScale := fld d 306 32, vScale := fld d 338 32,
    win := fld d 370 32, qLd := fld d 402 16, kLd := fld d 418 16, vLd := fld d 434 16, oLd := fld d 450 16 }

/-- D: 64, 128 or 256. -/
def At.dh (x : At) : Nat := 64 * 2 ^ x.dhCode

/-- Bytes of a state record: 8 + 4 × D, rounded up to a multiple of 64 (R83). -/
def At.rec64 (x : At) : Nat := ceilDiv (8 + 4 * x.dh) 64 * 64

/-- Reserved fields and enumeration values. OFMT serves only FINAL. -/
def atReserved (d : Desc) : Bool :=
  let x := atOf d
  fld d 466 46 != 0 || decide (2 < x.dhCode) || fmtReserved x.qkf || fmtReserved x.vf || (x.final && fmtReserved x.of) ||
  x.mask == 3

/-- BF16, FP16, FP8-E4M3 or FP8-E5M2 (R84). -/
def atFmt (f : Nat) : Bool := decide (1 ≤ f) && decide (f ≤ 4)

/-- The operands. -/
def atOperandsOk (x : At) : Bool :=
  stridedOk x.q x.mq (packedBytes x.qkf x.dh) x.qLd false && stridedOk x.k x.nk (packedBytes x.qkf x.dh) x.kLd false &&
  stridedOk x.v x.nk (packedBytes x.vf x.dh) x.vLd false && lsOk 64 x.st (x.mq * x.rec64) &&
  (!x.final || stridedOk x.o x.mq (packedBytes x.of x.dh) x.oLd true)

/-- The ranges: the state is read and written, one write range. -/
def atRanges (x : At) : List Range :=
  stridedRange x.q x.mq (packedBytes x.qkf x.dh) x.qLd false ++ stridedRange x.k x.nk (packedBytes x.qkf x.dh) x.kLd false ++
  stridedRange x.v x.nk (packedBytes x.vf x.dh) x.vLd false ++ lsRange x.st (x.mq * x.rec64) true ++
  (if x.final then stridedRange x.o x.mq (packedBytes x.of x.dh) x.oLd true else [])

/-- The checks of OP_ATTN_BLOCK after R10 (R84). MQ outside 1-256 and NK above 4,096 are answered by E_MM_SHAPE (DESIGN
CHOICE, log 85: Table 3.11 gives the ranges, no rule the code). -/
def atPrep (x : At) : Prep :=
  if !atFmt x.qkf || !atFmt x.vf || (x.final && !isWide x.of) then rejectWith Code.eFmtPair
  else if x.mq = 0 ∨ 256 < x.mq ∨ 4096 < x.nk ∨ x.kpos % 128 ≠ 0 ∨ (x.nk % 128 ≠ 0 ∧ ¬ x.final) then
    rejectWith Code.eMmShape
  else if !atOperandsOk x then rejectWith Code.eDescOperand
  else .go (atRanges x)

/-- Key j is visible to query row i (R84). -/
def atVisible (x : At) (i j : Nat) : Bool :=
  let q := x.qpos + i
  let k := x.kpos + j
  match x.mask with
  | 0 => true
  | 1 => decide (k ≤ q)
  | _ => decide (k ≤ q) && decide (q - k < x.win)

/-- A product of two rows in one format without stored scales, exact for narrow formats (R57-R62), the node of R64 for
wide ones. -/
def rowDot (f : Nat) (a b : List Nat) : Val :=
  if isNarrow f then
    let w : NarrowPair := { fa := f, fb := f, ra := 0x7F, rb := 0x7F }
    accVal w (narrowCell w {} (cellPairs f f a (b.map some)) [] [])
  else canonicalDot ((a.zip b).map (fun p => (decodeElem f p.1, decodeElem f p.2)))

/-- The state of a query row. -/
structure AtState where
  m : Val
  l : Val
  o : List Val
  deriving DecidableEq, Repr

/-- The state a row starts from (R83). -/
def atStart (s : State) (core : Nat) (x : At) (i : Nat) : AtState :=
  if x.init then { m := .inf true, l := vZero, o := List.replicate x.dh vZero }
  else
    let a := x.st + i * x.rec64
    let w := fun k => ofF32 (leNat (readLs s core (a + 4 * k) 4))
    { m := w 0, l := w 1, o := (upto x.dh).map (fun j => w (j + 2)) }

/-- One tile of keys over one row (R83): `js` are the tile's keys. Also whether a conversion of p raised an event. A tile
whose every key is hidden from the row leaves the row as it was, whether or not another row of the command sees one of its
keys, since a row's result depends only on its data and positions (R84; DEDUCED, log 86). Choices that R83 leaves open
(DESIGN CHOICE, log 87): s and the scaled product with V round once to FP32; l × EXP and O × EXP round, then the sums round;
p rounds into VFMT to nearest even with SAT = 0 whatever CVT holds; of the conversions inside the tile only that of p into
VFMT raises events. -/
def atTile (s : State) (core : Nat) (x : At) (i : Nat) (qrow : List Nat) (js : List Nat) (st : AtState) : AtState × Bool :=
  if js.all (fun j => !atVisible x i j) then (st, false)
  else
    let sc := js.map (fun j =>
      if atVisible x i j then
        rndF32 (Val.mul (rowDot x.qkf qrow (rowElems s core x.qkf x.k x.kLd x.dh j)) (ofF32 x.qkScale))
      else .inf true)
    let mn := opMax st.m (rowMax sc)
    let ps := (js.zip sc).map (fun p => if atVisible x i p.1 then opExp (fAdd p.2 mn.neg) else vZero)
    let f := opExp (fAdd st.m mn.neg)
    let pv := ps.map (fun p => encodeElem x.vf p 0 false 0)
    let vs := js.map (fun j => rowElems s core x.vf x.v x.vLd x.dh j)
    let o := (st.o.zipIdx).map (fun q =>
      fAdd (fMul q.1 f) (rndF32 (Val.mul (rowDot x.vf (pv.map (·.1)) (vs.map (fun r => nth 0 r q.2))) (ofF32 x.vScale))))
    ({ m := mn, l := fAdd (fMul st.l f) (rowSum ps), o := o }, pv.any (fun p => p.2 != 0))

/-- The tiles of 128 keys that hide not every key from every row (R84). -/
def atTiles (x : At) : List (List Nat) :=
  (pieces 128 x.nk (upto x.nk)).filter (fun js => (upto x.mq).any (fun i => js.any (atVisible x i)))

/-- The bytes of a row's state. -/
def atBytes (st : AtState) : Bytes := (st.m :: st.l :: st.o).flatMap (fun v => leBytes 4 (toF32 v))

/-- The output elements of a row: O ÷ l, and +0 without an event where l is 0 (R83). -/
def atOut (s : State) (c : CtxId) (x : At) (i : Nat) (st : AtState) : Bytes × Bool :=
  let g := getRng s c x.rng
  let r := (st.o.zipIdx).map (fun p =>
    match st.l with
    | .num _ 0 _ => (0, 0)
    | l => encodeElem x.of (Val.div p.1 l) x.cvt false (drawWord g x.cvt (i * x.dh + p.2)))
  (packElems x.of (r.map (·.1)), r.any (fun p => p.2 != 0))

/-- One query row: what it writes and whether it raised an event. -/
def atRow (s : State) (c : CtxId) (core : Nat) (x : At) (i : Nat) : List (Nat × Bytes) × Bool :=
  let qrow := rowElems s core x.qkf x.q x.qLd x.dh i
  let r := (atTiles x).foldl (fun (a : AtState × Bool) js =>
    let n := atTile s core x i qrow js a.1
    (n.1, a.2 || n.2)) (atStart s core x i, false)
  let w := (x.st + i * x.rec64, atBytes r.1)
  if x.final then
    let o := atOut s c x i r.1
    ([w, (x.o + i * x.oLd * 64, o.1)], r.2 || o.2)
  else ([w], r.2)

/-- Output elements that draw: none without FINAL. -/
def At.draws (x : At) : Nat := if x.final then x.mq * x.dh else 0

/-- OP_ATTN_BLOCK runs. -/
def runAt (e : Entry) (x : At) (s : State) (core : Nat) : State × Ended :=
  let rs := (upto x.mq).map (atRow s e.cid core x)
  settleRun (advanceRng s e.cid x.rng x.cvt x.draws) core e x.watched
    { writes := rs.flatMap (·.1), event := rs.any (·.2) }

/-- The row of OP_ATTN_BLOCK. -/
def attnRow (e : Entry) : OpRow :=
  let x := atOf e.desc
  { row := opcode e.desc == 0x0103
    reserved := atReserved e.desc
    classes := [0, 1]
    prep := fun _ _ => atPrep x
    skip := fun t _ => advanceRng t e.cid x.rng x.cvt x.draws
    run := runAt e x }

/-- OP_ATTN_BLOCK (R83, R84). -/
def execOpAttnBlock (e : Entry) (s : State) : Host.Outcome State Fault Refusal :=
  .next (issueCmd s e (attnRow e))

end Sys2Proof.Machine
end

