-- ==== Sys2Proof/Machine/XStream.lean ====
section
/-! DEFINITION. What the exchange's streams share, and their sending side (R133-R140, R148). -/

namespace Sys2Proof.Machine

/-! ### Contexts and messages -/

/-- Every context of the device. -/
def allCtxs : List CtxId := (List.finRange 8).flatMap (fun p => (List.finRange 16).map (fun c => ⟨p, c⟩))

/-- The contexts that a message with a job tag may concern (R134, R260): the one its tag is bound to. Messages of tag 0
are those that a context without a tag sends to itself. -/
def msgCtxs (s : State) (jtag : BitVec 16) : List CtxId :=
  if jtag = 0 then allCtxs.filter (fun c => decide ((getCtx s c).state ≠ .absent) && (getCtx s c).desc.jtag == 0)
  else
    (upto 128).filterMap (fun i =>
      let b := Tbl.get ({} : TagBind) s.tags.binds i
      if b.en ∧ b.jtag = jtag then some ⟨b.part, b.ctx⟩ else none)

/-- The coordinate of the rank that a stream goes to: the device's own where a rank sends to itself, else as the group's ranks
lie, of which the text gives no table (DESIGN CHOICE, log 98). -/
def rankDst (s : State) (h : XHdr) : Coord :=
  if h.srcRank = h.dstRank then servedCoord s else Config.rankCoord h.jtag h.dstRank.toNat

/-- Where a message of a stream goes: an answer to the coordinate that the stream came from, any other to the stream's rank. -/
def xDst (s : State) (h : XHdr) (m : XMsg) : Coord := if m.isReply then h.src else rankDst s h

/-- Sends a control message of the exchange (UNIT 0) on the stream's plane (R133, R134); a context without a tag reaches only
itself. -/
def sendX (s : State) (h : XHdr) (m : XMsg) : State :=
  match xBody h m with
  | some b => if h.jtag = 0 ∧ h.srcRank ≠ h.dstRank then s else sendCtl s h.jtag 0 m.isReply (xDst s h m) h.plane b
  | none => s

/-- The common fields of an outbound stream's messages (Table 6.2). -/
def outHdr (s : State) (o : OutStream) : XHdr :=
  { jtag := (getCtx s o.key.cid).desc.jtag, kind := o.key.kind, plane := o.key.plane, xid := o.key.xid
    srcRank := BitVec.ofNat 16 o.self, dstRank := BitVec.ofNat 16 o.key.dst, src := servedCoord s }

/-- What a stream's data packets carry beside their bytes (Table 11.4): UNIT 0, its XID, and its KIND in SUB. -/
def outHead (o : OutStream) : DataHead := { unit := 0, reply := false, sid := o.key.xid, sub := BitVec.ofNat 8 o.key.kind.val }

/-- An outbound stream of a message's stream, in a state that `p` accepts. -/
def findOut (s : State) (h : XHdr) (p : OutState → Bool) : Option OutStream :=
  s.outs.find? (fun o => o.key.kind == h.kind && o.key.plane == h.plane && o.key.xid == h.xid &&
    o.self == h.srcRank.toNat && o.key.dst == h.dstRank.toNat && p o.st && (msgCtxs s h.jtag).contains o.key.cid)

/-- Replaces an outbound stream. -/
def putOut (s : State) (o : OutStream) : State :=
  { s with outs := replaceFirst (fun x => x.key == o.key) (fun _ => o) s.outs }

/-- An OP_EXCHANGE or OP_A2A in flight on a context, by its XID. -/
def findX (s : State) (c : CtxId) (xid : BitVec 16) : Option XCmd :=
  s.xcmds.find? (fun x => x.cid == c && x.xid == xid && !x.ghost)

/-- Changes a command in flight. -/
def modX (s : State) (c : CtxId) (xid : BitVec 16) (f : XCmd → XCmd) : State :=
  { s with xcmds := replaceFirst (fun x => x.cid == c && x.xid == xid && !x.ghost) f s.xcmds }

/-- Outbound streams begin; a context of a protected partition keeps them until its next mark (R349). -/
def pushOuts (s : State) (c : CtxId) (os : List OutStream) : State :=
  { s with outs := s.outs ++ os, kept := if (getRes s c.part).state = .prot then s.kept ++ os else s.kept }

/-! ### Opening (R139) -/

/-- Open-destination entries in use on a die. -/
def entriesUsed (s : State) (die : XDie) : Nat := (s.outs.filter (fun o => o.key.plane == die && o.entry)).length

/-- The command of an outbound stream, with its place in issue order. -/
def outCmd (s : State) (o : OutStream) : Option (Nat × XCmd) :=
  ((s.xcmds.zipIdx).find? (fun q => q.1.cid == o.key.cid && q.1.xid == o.key.xid)).map (fun q => (q.2, q.1))

/-- Every count part of a DISPATCH command has been sent (R136). -/
def countsSent (s : State) (c : CtxId) (xid : BitVec 16) : Bool :=
  s.outs.all (fun o => !(o.key.cid == c && o.key.xid == xid && o.key.kind == 0) || o.counted)

/-- The stream waits for an entry and may take one: no open stream bears the same header, and a DISPATCH data part has
all count parts of its command before it. -/
def mayOpen (s : State) (die : XDie) (o : OutStream) : Bool :=
  o.key.plane == die &&
  (match o.st with
   | .waitOpen => true
   | .waitAsk => countsSent s o.key.cid o.key.xid
   | _ => false) &&
  !s.outs.any (fun x => x.entry && x.key.cid == o.key.cid && x.key.kind == o.key.kind && x.key.xid == o.key.xid &&
    x.key.plane == o.key.plane && x.key.dst == o.key.dst)

/-- A stream's rank in the order of R139: the command's place, count part before data part, cyclic destination. -/
def openRank (s : State) (o : OutStream) : Nat × Nat × Nat :=
  let n := match outCmd s o with | some q => q.2.ndev | none => 65536
  let m := max 1 n
  (match outCmd s o with | some q => q.1 | none => s.xcmds.length, if o.key.kind = 0 ∧ o.st = .waitOpen then 0 else 1,
   (o.key.dst + 2 * m - o.self - 1) % m)

/-- The streams that may open, first in order first. -/
def openOrder (s : State) (die : XDie) : List OutStream :=
  let le := fun (a b : Nat × Nat × Nat) =>
    decide (a.1 < b.1) || (a.1 == b.1 && (decide (a.2.1 < b.2.1) || (a.2.1 == b.2.1 && decide (a.2.2 ≤ b.2.2))))
  sortBy (fun a b => le (openRank s a) (openRank s b)) (s.outs.filter (mayOpen s die))

/-- A stream with an entry sends its XOPEN. -/
def sendOpen (s : State) (o : OutStream) : State :=
  let s1 := putOut s { o with st := .opened, entry := true }
  sendX s1 (outHdr s o) (.opening o.counts.length o.nent o.dbytes o.row64 o.wbytes)

/-- The stream waits for an entry (XD_XCH_STAT): its XOPEN has not gone, or its data part is due and has none. -/
def waitsEntry (s : State) (die : XDie) (o : OutStream) : Bool :=
  o.key.plane == die && (o.st == .waitOpen || (o.st == .waitAsk && countsSent s o.key.cid o.key.xid))

/-- A stream takes an entry: its XOPEN is sent, or, for a DISPATCH data part, its XASK. -/
def takeEntry (s : State) (o : OutStream) : State :=
  if o.st = .waitAsk then sendX (putOut s { o with st := .sending, entry := true }) (outHdr s o) .ask
  else sendOpen s o

/-- OPEN_ENTRY_TAKEN (R139). -/
def execOpenEntryTaken (die : XDie) (s : State) : Host.Outcome State Fault Refusal :=
  match openOrder s die with
  | o :: _ => if unitsRun s ∧ entriesUsed s die < 4096 then .next (takeEntry s o) else .next s
  | [] => .next s

/-! ### Sending -/

/-- Bytes of a stream's next packet; 0 while it has no data or no credit for it (R134, R138). -/
def nextLen (s : State) (o : OutStream) : Nat :=
  let len := min (packetBytes s (rankDst s (outHdr s o)) o.key.plane) (o.dbytes - o.sent)
  if o.sent + len ≤ min o.data.length (256 * o.credit) then len else 0

/-- The end of a stream (R148). -/
def sendEnd (s : State) (o : OutStream) : State :=
  sendX (putOut s { o with st := .ended }) (outHdr s o)
    (.endMark o.dbytes (if o.dbytes = 0 then 0 else crc32c (o.data.take o.dbytes)))

/-- An open stream's turn: one data packet, and its XEND once everything is sent; whether it may have more to send. What may not
go is reported (R263, R266). -/
def turnOut (s : State) (k : OutKey) : State × Bool :=
  match s.outs.find? (fun o => o.key == k && o.st == .sending) with
  | none => (s, false)
  | some o =>
    let n := nextLen s o
    if o.sent = o.dbytes then (sendEnd s o, false)
    else if n = 0 then (s, false)
    else
      let dst := rankDst s (outHdr s o)
      match dataRefused s k.cid dst k.plane 1 with
      | some r => (report s r, false)
      | none =>
        let o' := { o with sent := o.sent + n }
        let t := putOut (sendData s k.cid dst k.plane (outHead o) o.sent (o'.sent == o.dbytes) ((o.data.drop o.sent).take n)) o'
        if o'.sent = o.dbytes then (sendEnd t o', false) else (t, true)

/-- One turn of each of some streams; the streams that may have more to send. -/
def roundOut (s : State) (ks : List OutKey) : State × List OutKey :=
  ks.foldl (fun q k => let r := turnOut q.1 k; (r.1, if r.2 then q.2 ++ [k] else q.2)) (s, [])

/-- Open streams take turns, one data packet each, while they have data and credit (R139). -/
def turnsOut : Nat → State → List OutKey → State
  | 0, s, _ => s
  | _ + 1, s, [] => s
  | n + 1, s, k :: t => let q := roundOut s (k :: t); turnsOut n q.1 q.2

/-- Packets of a stream at most. -/
def OutStream.packets (o : OutStream) : Nat := o.dbytes / 1024 + 2

/-- Some open streams, as they now stand, send what they may. -/
def feedOuts (s : State) (os : List OutStream) : State :=
  turnsOut ((os.map OutStream.packets).foldl max 0) (os.foldl putOut s) (os.map (·.key))

/-- An open stream sends what it may. -/
def feedOut (s : State) (o : OutStream) : State := feedOuts s [o]

/-- The XCOUNT messages of a stream: nine entries each, SEQ from 0 (R136). -/
def sendCounts (s : State) (o : OutStream) : State :=
  ((pieces 9 o.counts.length o.counts).zipIdx).foldl (fun t q => sendX t (outHdr s o) (.count q.2 q.1)) s

/-- XREADY: a DISPATCH stream sends its counts and releases its entry; any other sends data within its first grant. -/
def execXready (h : XHdr) (cells : BitVec 16) (s : State) : Host.Outcome State Fault Refusal :=
  match findOut s h (· == .opened) with
  | some o =>
    if unitsRun s then
      if o.key.kind = 0 then
        let o1 := { o with st := .waitAsk, counted := true, entry := false }
        let s1 := sendCounts (putOut s o1) o
        if o.dbytes = 0 then .next (sendEnd s1 o1) else .next s1
      else .next (feedOut s { o with st := .sending, credit := o.credit + cells.toNat })
    else .next s
  | none => .next s

/-- A stream begins anew: an XWAIT releases its entry for 8 µs (R135). -/
def backOff (s : State) (o : OutStream) : State :=
  putOut s { o with st := .waitRetry (s.now + 8000), entry := false, counted := false, credit := 0, sent := 0 }

/-- XWAIT (R135). -/
def execXwait (h : XHdr) (s : State) : Host.Outcome State Fault Refusal :=
  match findOut s h (fun st => st == .opened || st == .sending || st == .ended) with
  | some o => if unitsRun s then .next (backOff s o) else .next s
  | none => .next s

/-- A stream whose 8 µs have passed. -/
def retryDue (now : Nat) : OutState → Bool
  | .waitRetry t => decide (t ≤ now)
  | _ => false

/-- XOPEN_RETRY: XOPEN again, once an entry is free and no stream that waits for one comes before it (R135, R139). -/
def execXopenRetry (h : XHdr) (s : State) : Host.Outcome State Fault Refusal :=
  match findOut s h (retryDue s.now) with
  | some o =>
    if unitsRun s then
      let o1 := { o with st := .waitOpen }
      let s1 := putOut s o1
      if (openOrder s1 h.plane).head? = some o1 ∧ entriesUsed s1 h.plane < 4096 then .next (sendOpen s1 o1) else .next s1
    else .next s
  | none => .next s

/-- XCREDIT (R138). -/
def execXcredit (h : XHdr) (cells : BitVec 16) (s : State) : Host.Outcome State Fault Refusal :=
  match findOut s h (· == .sending) with
  | some o => if unitsRun s then .next (feedOut s { o with credit := o.credit + cells.toNat }) else .next s
  | none => .next s

/-- XRESEND (R148): the range is sent again, and for every kind but WEIGHTS the XEND after it. -/
def execXresend (h : XHdr) (offset : BitVec 40) (bytes : BitVec 32) (s : State) : Host.Outcome State Fault Refusal :=
  match findOut s h (fun st => st == .sending || st == .ended) with
  | some o =>
    if unitsRun s then
      let run := (o.data.drop offset.toNat).take bytes.toNat
      let s1 := sendRun s o.key.cid (rankDst s (outHdr s o)) o.key.plane (outHead o) offset.toNat
        (offset.toNat + run.length == o.dbytes) run
      if o.key.kind ≠ 2 ∧ o.st = .ended then .next (sendEnd s1 o) else .next s1
    else .next s
  | none => .next s

end Sys2Proof.Machine
end

