-- ==== Sys2Proof/Machine/Tree.lean ====
section
/-! DEFINITION. The groups and trees of collectives, their chunks, and the arithmetic of a node (R176-R191). -/

namespace Sys2Proof.Machine

/-! ### Groups (R176) -/

/-- A group table breaks R176: a coordinate twice, a reserved slot value, or a reserved bit. -/
def groupBad (ws : List Nat) : Bool := ws.any (fun w => bitsOf w 17 15 != 0 || decide (4 < bitsOf w 0 3)) || !decide ws.Nodup

/-- A group table in the unified range: its bytes and entries. -/
def readGroup (s : State) (p : PartI) (a ndev : Nat) : Except (BitVec 16) (Bytes × List Nat) :=
  match readUni s p a (4 * ndev) with
  | .error e => .error e
  | .ok bs => .ok (bs, wordsOf 4 bs)

/-! ### Trees (R177) -/

/-- The ranks in a tree's order: ascending coordinate in tree A, descending in tree B; as (coordinate, rank). -/
def treeOrder (tree : Nat) (coords : List Nat) : List (Nat × Nat) :=
  sortBy (fun a b => if tree = 0 then decide (a.1 ≤ b.1) else decide (b.1 ≤ a.1)) coords.zipIdx

/-- What devices of one set of a level share: tray, rack, row, or the hall. -/
def levelKey (level coord : Nat) : Nat := coord / 2 ^ nth 17 [3, 7, 12] level

/-- The members of a device's set at a level, in tree order. -/
def levelSet (l : List (Nat × Nat)) (level coord : Nat) : List (Nat × Nat) :=
  l.filter (fun m => levelKey level m.1 == levelKey level coord)

/-- The leaders of the sets of a level. -/
def leadersOf (l : List (Nat × Nat)) (level : Nat) : List (Nat × Nat) :=
  l.filter (fun m => (levelSet l level m.1).head? == some m)

/-- The devices that take part in the sets of a level. -/
def atLevel (l : List (Nat × Nat)) : Nat → List (Nat × Nat)
  | 0 => l
  | n + 1 => leadersOf (atLevel l n) n

/-- A device's set at a level and its position there, when it takes part. -/
def placeIn (l : List (Nat × Nat)) (level : Nat) (m : Nat × Nat) : Option (List (Nat × Nat) × Nat) :=
  let a := atLevel l level
  if a.contains m then
    let g := levelSet a level m.1
    some (g, (g.takeWhile (· != m)).length)
  else none

/-- A device's parent: rank and level. -/
def treeParent (l : List (Nat × Nat)) (m : Nat × Nat) : Option (Nat × Nat) :=
  (upto 4).findSome? (fun level =>
    match placeIn l level m with
    | some q => if q.2 = 0 then none else (q.1[(q.2 - 1) / 2]?).map (fun x => (x.2, level))
    | none => none)

/-- A device's children: rank and level. -/
def treeChildren (l : List (Nat × Nat)) (m : Nat × Nat) : List (Nat × Nat) :=
  (upto 4).flatMap (fun level =>
    match placeIn l level m with
    | some q => ([2 * q.2 + 1, 2 * q.2 + 2].filterMap (fun i => q.1[i]?)).map (fun x => (x.2, level))
    | none => [])

/-- The rank of a tree's top. -/
def treeTop (l : List (Nat × Nat)) : Nat := ((atLevel l 4).head?.map (·.2)).getD 0

/-- Edges from a rank to the top: at most 16. -/
def treeDepth (l : List (Nat × Nat)) : Nat → Nat → Nat
  | 0, _ => 0
  | n + 1, r =>
    match (l.find? (fun m => m.2 == r)).bind (treeParent l) with
    | some p => treeDepth l n p.1 + 1
    | none => 0

/-- The path from a rank to the top, itself first. -/
def treePath (l : List (Nat × Nat)) : Nat → Nat → List Nat
  | 0, r => [r]
  | n + 1, r =>
    match (l.find? (fun m => m.2 == r)).bind (treeParent l) with
    | some p => r :: treePath l n p.1
    | none => [r]

/-- The edges of one tree at a rank. -/
def treeEdges (tree : Fin 2) (coords : List Nat) (self : Nat) : List CollEdge :=
  let l := treeOrder tree.val coords
  match l.find? (fun m => m.2 == self) with
  | none => []
  | some m =>
    (match treeParent l m with
     | some p => [{ tree := tree, peer := p.1, up := true, level := p.2, st := .idle }]
     | none => []) ++
    (treeChildren l m).map (fun c => { tree := tree, peer := c.1, up := false, level := c.2, st := .idle })

/-! ### Chunks (R178, R179) -/

/-- Elements (or bytes of a block) in a full chunk. -/
def Coll.gran (k : Coll) : Nat :=
  match k.kind with
  | .bcast | .allgather => 65536
  | .agree | .mark => 1
  | .reduce | .allreduce => if k.ifmt = 1 ∨ k.ifmt = 2 then 32768 else 16384

/-- The number of chunks. -/
def Coll.nchunk (k : Coll) : Nat := ceilDiv k.len k.gran

/-- Elements or bytes of chunk `c`. -/
def Coll.clen (k : Coll) (c : Nat) : Nat := min k.gran (k.len - c * k.gran)

/-- The tree that carries chunk `c`. -/
def treeOf (c : Nat) : Nat := c % 2

/-- A sum, whose passes 0 and 1 agree on exponents. -/
def Coll.isSum (k : Coll) : Bool := (k.kind == .reduce || k.kind == .allreduce) && k.opr == 0

/-- MAX or MIN of elements. -/
def Coll.isExtreme (k : Coll) : Bool := (k.kind == .reduce || k.kind == .allreduce) && k.opr != 0

/-- The bytes of a run of elements of the input format. -/
def elemBytes (f n : Nat) : Nat := if f = 0xA then 100 * ceilDiv n 16 else fmtBits f / 8 * n

/-- This rank's bytes of chunk `c`. -/
def Coll.own (k : Coll) (c : Nat) : Bytes :=
  match k.kind with
  | .bcast | .allgather => (k.src.drop (c * k.gran)).take (k.clen c)
  | .agree | .mark => k.src
  | .reduce | .allreduce => (k.src.drop (elemBytes k.ifmt (c * k.gran))).take (elemBytes k.ifmt (k.clen c))

/-! ### Sums (R184, R185, R187) -/

/-- The elements of a run of bytes in a wide format. -/
def wideVals (f n : Nat) (bs : Bytes) : List Val := (upto n).map (fun i => decodeElem f (unpackElem f bs i))

/-- Pads values with zeros to whole groups of 16 and splits them. -/
def groups16 (vs : List Val) : List (List Val) :=
  (pieces 16 vs.length vs).map (fun g => g ++ List.replicate (16 - g.length) vZero)

/-- The AL48 groups of a run of bytes. -/
def al48Groups (bs : Bytes) : List Al48 := (pieces 100 bs.length bs).map al48Of

/-- The exponent code of a group (R184): E + 127, 0 for none. -/
def expCode (E : Option Int) : Nat := match E with | some x => (x + 127).toNat | none => 0

/-- The exponent that a code stands for. -/
def codeExp (c : Nat) : Option Int := if c = 0 then none else some ((c : Int) - 127)

/-- This rank's exponent codes for chunk `c`. -/
def Coll.ownCodes (k : Coll) (c : Nat) : List Nat :=
  if k.ifmt = 0xA then (al48Groups (k.own c)).map (fun g => if g.empty then 0 else g.gexp)
  else (groups16 (wideVals k.ifmt (k.clen c) (k.own c))).map
    (fun g => expCode (g.foldl (fun a v => maxExp a (contribExp v)) none))

/-- n × 2^(E' − E), truncated towards zero (R185). -/
def realign (n : Int) (e e' : Int) : Int :=
  let sh := e' - e
  if 0 ≤ sh then n * 2 ^ sh.toNat
  else if n < 0 then -((n.natAbs / 2 ^ (-sh).toNat : Nat) : Int) else ((n.natAbs / 2 ^ (-sh).toNat : Nat) : Int)

/-- An AL48 group at another exponent code. -/
def al48At (code : Nat) (g : Al48) : Al48 :=
  if g.empty then { g with gexp := code }
  else { g with gexp := code, n := g.n.map (fun z => realign z code g.gexp) }

/-- This rank's part of chunk `c` at the agreed codes. -/
def Coll.ownGroups (k : Coll) (codes : List Nat) (c : Nat) : List Al48 :=
  if k.ifmt = 0xA then ((al48Groups (k.own c)).zip codes).map (fun q => al48At q.2 q.1)
  else ((groups16 (wideVals k.ifmt (k.clen c) (k.own c))).zip codes).map (fun q => toAl48 (codeExp q.2) q.1)

/-- A value in 48-bit two's complement. -/
def wrap48 (z : Int) : Int := (BitVec.ofInt 48 z).toInt

/-- The residue of a 48-bit two's-complement value mod 7 (R185): the three-bit digits of its unsigned form, less its sign bit. -/
def res7 (n : Int) : Nat :=
  let u := (BitVec.ofInt 48 n).toNat
  (((upto 16).map (fun i => bitsOf u (3 * i) 3)).sum + 7 - bitsOf u 47 1) % 7

/-- The sum of two groups at one exponent: 48-bit addition, NaN masks joined; empty only when both are (R185, R191). -/
def al48Add (a b : Al48) : Al48 :=
  { gexp := a.gexp, empty := a.empty && b.empty, nan := a.nan ||| b.nan, n := (a.n.zip b.n).map (fun q => wrap48 (q.1 + q.2)) }

/-- The sum of two runs of groups. -/
def groupsAdd (a b : List Al48) : List Al48 := (a.zip b).map (fun q => al48Add q.1 q.2)

/-- The adder's residue check of a chunk (R185): for every element, the residue of the sum that it formed, which is the exact sum
and the `flaw` of a fault in the adder, against those of its inputs. -/
def residueAgrees (inputs : List (List Al48)) (sum : List Al48) (flaw : List (BitVec 48)) : Bool :=
  let flat := fun (gs : List Al48) => gs.flatMap (·.n)
  ((flat sum).zipIdx).all (fun q =>
    res7 (wrap48 (q.1 + (nth 0 flaw q.2).toInt)) == ((inputs.map (fun gs => res7 (nth 0 (flat gs) q.2))).sum) % 7)

/-- A group to which nothing contributes, at an agreed code. -/
def al48Zero (code : Nat) : Al48 := { gexp := code, empty := true, nan := 0, n := List.replicate 16 0 }

/-- A group as it is written to memory: an empty one has every other field 0 (Table 2.3). -/
def al48Out (g : Al48) : Bytes := if g.empty then al48Bytes { g with gexp := 0 } else al48Bytes g

/-! ### Compaction (R189) -/

/-- The smallest width that holds every element of a group. -/
def compactWidth (g : Al48) : Nat :=
  if g.n.all (· == 0) then 0
  else ((upto 48).map (· + 1)).find? (fun w => g.n.all (fun z => decide (-(2 : Int) ^ (w - 1) ≤ z) && decide (z < (2 : Int) ^ (w - 1))))
    |>.getD 48

/-- A group in compact form (Table 8.4). -/
def compactBytes (g : Al48) : Bytes :=
  if g.empty then leBytes 2 (2 ^ 14)
  else
    let w := compactWidth g
    let nanf : Bool := g.nan != 0
    let body := pack ((g.n.zipIdx).map (fun q => (w * q.2, (q.1 % (2 : Int) ^ w).toNat)))
    leBytes 2 (pack [(0, g.gexp), (8, w), (14, 0), (15, b2n nanf)]) ++ (if nanf then leBytes 2 g.nan else []) ++ leBytes (2 * w) body

/-- Expands `n` compact groups at agreed codes; `none` when one is malformed (R189). -/
def expandGroups : List Nat → Bytes → Option (List Al48)
  | [], _ => some []
  | code :: t, bs =>
    let h := leNat (bs.take 2)
    let w := bitsOf h 8 6
    let nanf := bitAt h 15
    let nan := if nanf then leNat ((bs.drop 2).take 2) else 0
    let off := 2 + (if nanf then 2 else 0)
    let body := leNat ((bs.drop off).take (2 * w))
    if bs.length < off + 2 * w ∨ 48 < w ∨ (bitAt h 14 ∧ (bitsOf h 0 14 ≠ 0 ∨ nanf)) then none
    else
      match expandGroups t (bs.drop (off + 2 * w)) with
      | none => none
      | some r =>
        if bitAt h 14 then some (al48Zero code :: r)
        else
          let z := (upto 16).map (fun i => if w = 0 then 0 else (BitVec.ofNat w (bitsOf body (w * i) w)).toInt)
          some ({ gexp := bitsOf h 0 8, empty := false, nan := nan, n := z } :: r)

/-- The BF16 form of a partial (R190): rounded to nearest even; the second part tells whether an element overflowed. -/
def bf16Bytes (n : Nat) (gs : List Al48) : Bytes × Bool :=
  let vs := ((gs.flatMap (fun g => (upto 16).map (al48Val g))).take n)
  let ps := vs.map (fun v => (encodeElem 1 v 0 false 0).1)
  (packElems 1 ps, (vs.zip ps).any (fun q => q.1.finite && !(decodeElem 1 q.2).finite))

/-- A BF16 partial back in AL48 at the agreed codes. -/
def bf16Groups (n : Nat) (codes : List Nat) (bs : Bytes) : List Al48 :=
  ((groups16 (wideVals 1 n bs)).zip codes).map (fun q => toAl48 (codeExp q.2) q.1)

/-- The values of a sum's elements. -/
def groupVals (n : Nat) (gs : List Al48) : List Val := (gs.flatMap (fun g => (upto 16).map (al48Val g))).take n

end Sys2Proof.Machine
end

