-- ==== Sys2Proof/Machine/Collective.lean ====
section
/-! DEFINITION. The Collective Engine: what a node passes on, its messages, and the four collective commands
(R178-R196). -/

namespace Sys2Proof.Machine

/-! ### What a node has -/

/-- The command has a reduction: REDUCE or ALLREDUCE. -/
def Coll.reduces (k : Coll) : Bool := k.kind == .reduce || k.kind == .allreduce

/-- A checked part. -/
def Coll.part (k : Coll) (c pass peer : Nat) : Option CollIn :=
  k.ins.find? (fun i => i.chunk == c && i.pass == pass && i.peer == peer && i.ok)

/-- The bytes of a part. -/
def CollIn.bytes (i : CollIn) : Bytes :=
  match i.fin with
  | some m => Memory.read i.buf 0 m.bytes.toNat
  | none => []

/-- A part carries no contribution. -/
def CollIn.empties (i : CollIn) : Bool := match i.fin with | some m => m.empty | none => false

/-- The parts that come up for a chunk and pass, once all are there. -/
def Coll.upParts (k : Coll) (c pass : Nat) : Option (List CollIn) :=
  let ps := nth [] k.feeds (treeOf c)
  let l := ps.filterMap (k.part c pass)
  if l.length = ps.length then some l else none

/-- This device is the top of a chunk's tree. -/
def Coll.isTop (k : Coll) (c : Nat) : Bool := nth 0 k.tops (treeOf c) == k.self

/-- The parent edge of a chunk's tree, when this command sends on it. -/
def Coll.upEdge (k : Coll) (c : Nat) : Option CollEdge :=
  k.edges.find? (fun e => e.tree.val == treeOf c && e.up && e.st != .idle)

/-- The rank of the parent in a chunk's tree. -/
def Coll.parent (k : Coll) (c : Nat) : Option Nat := (k.edges.find? (fun e => e.tree.val == treeOf c && e.up)).map (·.peer)

/-- The children edges of a chunk's tree that this command sends on. -/
def Coll.downEdges (k : Coll) (c : Nat) : List CollEdge :=
  k.edges.filter (fun e => e.tree.val == treeOf c && !e.up && decide (e.level < 4) && e.st != .idle)

/-- Groups of 16 in a chunk. -/
def Coll.ngroup (k : Coll) (c : Nat) : Nat := ceilDiv (k.clen c) 16

/-- The part of a chunk and pass that comes down from the parent. -/
def Coll.fromParent (k : Coll) (c pass : Nat) : Option CollIn := (k.parent c).bind (k.part c pass)

/-- Pass 0 at this node: the largest codes of its own part and its children's; `none` inside when nothing contributes
(R184). -/
def Coll.codesUp (k : Coll) (c : Nat) : Option (Option (List Nat)) :=
  (k.upParts c 0).map (fun ps =>
    let ls := (if k.empty then [] else [k.ownCodes c]) ++ (ps.filter (fun p => !p.empties)).map (fun p => p.bytes.map (·.toNat))
    match ls with
    | [] => none
    | l :: t => some (t.foldl (fun a b => (a.zip b).map (fun q => max q.1 q.2)) l))

/-- The agreed codes of a chunk, once this node holds them. -/
def Coll.codesAt (k : Coll) (c : Nat) : Option (List Nat) :=
  if k.isTop c then (k.codesUp c).map (fun o => o.getD (List.replicate (k.ngroup c) 0))
  else (k.fromParent c 1).map (fun p => p.bytes.map (·.toNat))

/-- A child's partial at the agreed codes (R189, R190). -/
def Coll.childGroups (k : Coll) (codes : List Nat) (c : Nat) (p : CollIn) : List Al48 :=
  match p.fin with
  | some m =>
    if m.compact then (expandGroups codes p.bytes).getD []
    else if m.bf16 then bf16Groups (k.clen c) codes p.bytes
    else ((al48Groups p.bytes).zip codes).map (fun q => if q.1.empty then al48Zero q.2 else q.1)
  | none => []

/-- What the adder takes in for a chunk of a SUM: this node's part and its children's, once all are there (R185). -/
def Coll.sumIn (k : Coll) (c : Nat) : Option (List (List Al48)) :=
  match k.codesAt c, k.upParts c 2 with
  | some codes, some ps =>
    some ((if k.empty then [] else [k.ownGroups codes c]) ++ (ps.filter (fun p => !p.empties)).map (k.childGroups codes c))
  | _, _ => none

/-- Pass 2 of a SUM at this node: its part and its children's, added (R185). -/
def Coll.sumUp (k : Coll) (c : Nat) : Option (Option (List Al48)) :=
  (k.sumIn c).map (fun ls =>
    match ls with
    | [] => none
    | l :: t => some (t.foldl groupsAdd l))

/-- The residue check of a chunk's sum holds (R185); a chunk without a sum has nothing to check. -/
def Coll.checks (k : Coll) (c : Nat) (flaw : List (BitVec 48)) : Bool :=
  match k.sumIn c, k.sumUp c with
  | some ls, some (some gs) => residueAgrees ls gs flaw
  | _, _ => true

/-- Pass 2 of a MAX or MIN at this node (R188). -/
def Coll.extremeUp (k : Coll) (c : Nat) : Option (Option (List Val)) :=
  (k.upParts c 2).map (fun ps =>
    let f := if k.opr = 1 then opMax else opMin
    let ls := (if k.empty then [] else [wideVals k.ifmt (k.clen c) (k.own c)]) ++
      (ps.filter (fun p => !p.empties)).map (fun p => wideVals k.ifmt (k.clen c) p.bytes)
    match ls with
    | [] => none
    | l :: t => some (t.foldl (fun a b => (a.zip b).map (fun q => f q.1 q.2)) l))

/-- A block of an ALLGATHER with its rank (DESIGN CHOICE: the rank as four bytes before the block). -/
def taggedBlock (r : Nat) (bs : Bytes) : Bytes := leBytes 4 r ++ bs

/-- Pass 2 of the other kinds: the bytes that go up (R183, R194). AGREE and a mark carry a 4-byte maximum. -/
def Coll.rawUp (k : Coll) (c : Nat) : Option (Option Bytes) :=
  (k.upParts c 2).map (fun ps =>
    let live := (ps.filter (fun p => !p.empties)).map (·.bytes)
    match k.kind with
    | .bcast => if k.self = k.root then some (k.own c) else live.head?
    | .allgather =>
      let l := (if k.empty then [] else [taggedBlock k.self (k.own c)]) ++ live
      if l.isEmpty then none else some (l.flatMap (fun b => b))
    | _ => some (leBytes 4 ((live.map leNat).foldl max (leNat (k.own c)))))

/-- What goes up in pass 2 on an edge of a level: bytes (`none` when nothing contributes), COMPACT, BF16, and whether a
BF16 element overflowed. -/
def Coll.dataUp (k : Coll) (c level : Nat) : Option (Option Bytes × Bool × Bool × Bool) :=
  if k.isSum then
    (k.sumUp c).map (fun o =>
      match o with
      | none => (none, false, false, false)
      | some gs =>
        if (k.lossy = 1 ∧ level = 3) ∨ (k.lossy = 2 ∧ 2 ≤ level) then
          let b := bf16Bytes (k.clen c) gs
          (some b.1, false, true, b.2)
        else if 2 ≤ level then (some (gs.flatMap compactBytes), true, false, false)
        else (some (gs.flatMap al48Out), false, false, false))
  else if k.isExtreme then (k.extremeUp c).map (fun o => (o.map (fun vs => packElems k.ifmt (vs.map (fun v => (encodeElem k.ifmt v 0 false 0).1))), false, false, false))
  else (k.rawUp c).map (fun o => (o, false, false, false))

/-- A chunk's result: its bytes, whether its conversion raised an event, and its NaN elements. -/
structure CollRes where
  bytes : Bytes
  event : Bool
  nan : Nat
  deriving DecidableEq, Repr

/-- The random word of element `i` of a chunk (R187). -/
def Coll.word (k : Coll) (c i : Nat) : Nat := drawWord k.rng k.cvt (c * k.gran + i)

/-- Values converted into the output format (R187, R188). -/
def Coll.convert (k : Coll) (c : Nat) (vs : List Val) : CollRes :=
  let r := encodeRow k.ofmt vs k.cvt (k.word c)
  { bytes := r.1, event := r.2.2, nan := (vs.filter (· == .nan)).length }

/-- The result at the top (R187, R188, R191). -/
def Coll.topResult (k : Coll) (c : Nat) : Option CollRes :=
  if k.isSum then
    match k.codesAt c, k.sumUp c with
    | some codes, some o =>
      let gs := o.getD (codes.map al48Zero)
      if k.ofmt = 0xA then
        some { bytes := gs.flatMap al48Out, event := false, nan := ((groupVals (k.clen c) gs).filter (· == .nan)).length }
      else some (k.convert c (groupVals (k.clen c) gs))
    | _, _ => none
  else if k.isExtreme then
    (k.extremeUp c).map (fun o =>
      match o with
      | some vs => k.convert c vs
      | none => { bytes := (upto (elemBytes k.ofmt (k.clen c))).map Config.emptyExtreme, event := false, nan := 0 })
  else (k.rawUp c).map (fun o => { bytes := o.getD [], event := false, nan := 0 })

/-- The rank that a chunk's result comes from. -/
def Coll.resultPeer (k : Coll) (c : Nat) : Option Nat :=
  if k.kind = .reduce then (if k.self = k.root then some (nth 0 k.tops (treeOf c)) else none) else k.parent c

/-- The result of a chunk at this node, once it holds it. -/
def Coll.resAt (k : Coll) (c : Nat) : Option CollRes :=
  if k.isTop c then k.topResult c
  else
    ((k.resultPeer c).bind (k.part c 3)).map (fun p =>
      match p.fin with
      | some m => { bytes := p.bytes, event := m.event, nan := m.nanel.toNat }
      | none => { bytes := p.bytes, event := false, nan := 0 })

/-- This rank writes a result. -/
def Coll.writes (k : Coll) : Bool :=
  match k.kind with
  | .reduce => k.self == k.root
  | .agree | .mark => false
  | _ => true

/-! ### Empty contributors (R182, R191) -/

/-- NEMP of a part's CEND. -/
def CollIn.nemp (i : CollIn) : Nat := match i.fin with | some m => m.nemp.toNat | none => 0

/-- Empty contributors beneath and at this node, from the pass that carries them up. -/
def Coll.nempUp (k : Coll) : Nat :=
  b2n k.empty + (((k.upParts 0 (if k.isSum then 0 else 2)).getD []).map CollIn.nemp).sum

/-- The group's empty contributors, as far as this node knows them. -/
def Coll.nempty (k : Coll) : Nat :=
  if k.isTop 0 then k.nempUp
  else
    match k.fromParent 0 1, (k.resultPeer 0).bind (k.part 0 3) with
    | some p, _ => p.nemp
    | none, some p => p.nemp
    | none, none => 0

/-! ### What a node sends (R183) -/

/-- A part to send. -/
def mkOut (c pass peer : Nat) (data : Option Bytes) (compact bf16 event : Bool) (nemp nan : Nat) : CollOut :=
  let bs := data.getD []
  { chunk := c, pass := pass, peer := peer, data := bs, sent := false, acked := false
    msg :=
      { chunk := BitVec.ofNat 32 c, pass := Fin.ofNat 4 pass, empty := data.isNone, event := event, compact := compact
        bf16 := bf16, bytes := BitVec.ofNat 32 bs.length, crc := if data.isNone then 0 else crc32c bs
        nemp := BitVec.ofNat 17 (if c = 0 then nemp else 0), nanel := BitVec.ofNat 32 (min nan 0xFFFFFFFF) } }

/-- The ranks that a result goes down to. -/
def Coll.resultTo (k : Coll) (c : Nat) : List Nat :=
  if k.kind = .reduce then (if k.isTop c ∧ k.self ≠ k.root then [k.root] else []) else (k.downEdges c).map (·.peer)

/-- Every part of a chunk that this node has reason to send by now. -/
def Coll.wantOuts (k : Coll) (c : Nat) : List CollOut :=
  (if k.isSum then
    (match k.upEdge c, k.codesUp c with
     | some e, some o => [mkOut c 0 e.peer (o.map (fun l => l.map (BitVec.ofNat 8))) false false false k.nempUp 0]
     | _, _ => []) ++
    (match k.codesAt c with
     | some l => (k.downEdges c).map (fun e => mkOut c 1 e.peer (some (l.map (BitVec.ofNat 8))) false false false k.nempty 0)
     | none => [])
   else []) ++
  (match k.upEdge c with
   | some e =>
     (match k.dataUp c e.level with
      | some d => [mkOut c 2 e.peer d.1 d.2.1 d.2.2.1 false (if k.isSum then 0 else k.nempUp) 0]
      | none => [])
   | none => []) ++
  (match k.resAt c with
   | some r => (k.resultTo c).map (fun p => mkOut c 3 p (some r.bytes) false false r.event k.nempty r.nan)
   | none => [])

/-- The same part. -/
def samePart (a b : CollOut) : Bool := a.chunk == b.chunk && a.pass == b.pass && a.peer == b.peer

/-- Parts of this command on an edge that are not acknowledged. -/
def Coll.unacked (k : Coll) (tree peer : Nat) : Nat :=
  (k.outs.filter (fun o => treeOf o.chunk == tree && o.peer == peer && !o.acked)).length

/-- A BF16 partial of a part overflows (R190). -/
def Coll.outEvent (k : Coll) (o : CollOut) : Bool :=
  o.pass == 2 && o.msg.bf16 &&
  (match k.upEdge o.chunk with
   | some e => (match k.dataUp o.chunk e.level with | some d => d.2.2.2 | none => false)
   | none => false)

/-- The exchange die of a chunk's engine. -/
def collDie (c : Nat) : XDie := Fin.ofNat 2 (treeOf c)

/-- A part is a partial sum, formed here of several parts; what a rank's own source holds is read again from there (R181). -/
def Coll.isPartial (k : Coll) (o : CollOut) : Bool :=
  k.reduces && o.pass == 2 && !o.data.isEmpty && !(nth [] k.feeds (treeOf o.chunk)).isEmpty

/-- A partial sum is held in cells, a chain whose last owner is the Collective Engine (R158, R181); `none` while they are
refused. -/
def holdPart (s : State) (k : Coll) (o : CollOut) : Option (State × CollOut) :=
  if !k.isPartial o then some (s, o)
  else
    let die := collDie o.chunk
    (takeCells (ceilDiv o.data.length 256) (getXd s die) k.cid.part.val []).bind (fun q =>
      let t := setXd s die q.1
      (newChain (spillData t q.1 q.2 0 o.data) die k.cid q.2 (.owner 2)).map (fun r => (r.1, { o with chain := some r.2 })))

/-- Adds a part unless it is there or its edge is full: at most 8 unacknowledged chunks (R181). -/
def addOut (q : State × Coll) (o : CollOut) : State × Coll :=
  let k := q.2
  if k.outs.any (samePart o) ∨ 8 ≤ k.unacked (treeOf o.chunk) o.peer then q
  else
    match holdPart q.1 k o with
    | some r => (r.1, { k with outs := k.outs ++ [r.2], event := k.event || k.outEvent o })
    | none => q

/-- Every chunk's parts are added as far as they are there. -/
def addOuts (s : State) (k : Coll) : State × Coll := (upto k.nchunk).foldl (fun a c => (a.2.wantOuts c).foldl addOut a) (s, k)

/-- The cells of a partial sum are released by the Collective Engine (R158). -/
def dropPart (s : State) (k : Coll) (o : CollOut) : State :=
  match o.chain with
  | some h => releaseAt s (collDie o.chunk) 2 k.cid.part h
  | none => s

/-! ### Messages and state -/

/-- The header of a message to a rank. -/
def collHdr (s : State) (k : Coll) (tree peer : Nat) : CHdr :=
  { jtag := (getCtx s k.cid).desc.jtag, tree := Fin.ofNat 2 tree, cid := k.id, srcRank := BitVec.ofNat 16 k.self
    dstRank := BitVec.ofNat 16 peer }

/-- A rank's coordinate (R176). -/
def Coll.coordOf (k : Coll) (rank : Nat) : Coord := BitVec.ofNat 17 (nth 0 k.coords rank)

/-- Sends a message to a rank; a context without a tag reaches no other device. -/
def sendC (s : State) (k : Coll) (tree peer : Nat) (m : CMsg) : State :=
  if (getCtx s k.cid).desc.jtag = 0 then s else sendCMsg s (collHdr s k tree peer) (k.coordOf peer) m

/-- Replaces a collective. -/
def putColl (s : State) (k : Coll) : State :=
  { s with colls := replaceFirst (fun x => x.entry == k.entry && x.kind == k.kind) (fun _ => k) s.colls }

/-- Removes a collective. -/
def dropColl (s : State) (k : Coll) : State :=
  { s with colls := s.colls.filter (fun x => !(x.entry == k.entry && x.kind == k.kind)) }

/-- The collective that a message concerns: its tag's context, CID and this rank; one in flight before one that has
completed. -/
def findColl (s : State) (h : CHdr) (self : BitVec 16) : Option Coll :=
  let cs := msgCtxs s h.jtag
  let l := s.colls.filter (fun k => cs.contains k.cid && k.id == h.cid && k.self == self.toNat)
  match l.find? (fun k => !k.done) with
  | some k => some k
  | none => l.head?

/-- The edge to a rank in a tree is open. -/
def Coll.edgeOpen (k : Coll) (tree peer : Nat) : Bool :=
  k.edges.any (fun e => e.tree.val == tree && e.peer == peer && e.st == .opened)

/-- What a part's data packets carry beside their bytes (Table 11.4): UNIT 2, its CID, and PASS and TREE in SUB. -/
def partHead (k : Coll) (o : CollOut) : DataHead :=
  { unit := 2, reply := false, sid := k.id, sub := BitVec.ofNat 8 (pack [(0, o.pass), (2, treeOf o.chunk)]) }

/-- Sends a part: its data packets and its CEND. -/
def sendPart (s : State) (k : Coll) (o : CollOut) : State :=
  let t := treeOf o.chunk
  sendC (sendRun s k.cid (k.coordOf o.peer) (collDie o.chunk) (partHead k o) 0 true o.data) k t o.peer (.endMark o.msg)

/-- Empty markers need no cells: they go as soon as their edge is open. -/
def sendMarkers (s : State) (k : Coll) : State × Coll :=
  k.outs.foldl (fun q o =>
    if o.msg.empty && !o.sent && q.2.edgeOpen (treeOf o.chunk) o.peer then
      (sendPart q.1 q.2 o, { q.2 with outs := q.2.outs.map (fun x => if samePart x o then { x with sent := true } else x) })
    else q) (s, k)

/-- Gives back cells of a part. -/
def freePart (s : State) (k : Coll) (i : CollIn) : State :=
  setXd s (collDie i.chunk) (giveRuns (getXd s (collDie i.chunk)) k.cid.part.val i.cells)

/-- A checked part has been used: its stage is there. -/
def Coll.used (k : Coll) (i : CollIn) : Bool :=
  i.ok &&
  (if i.pass = 0 then (k.codesUp i.chunk).isSome
   else if i.pass = 2 then (if k.isSum then (k.sumUp i.chunk).isSome else (k.upParts i.chunk 2).isSome)
   else true)

/-- The cells of used parts are freed. -/
def freeUsed (s : State) (k : Coll) : State × Coll :=
  (k.ins.foldl (fun t i => if k.used i then freePart t k i else t) s,
   { k with ins := k.ins.map (fun i => if k.used i then { i with cells := [] } else i) })

/-- CABORT along every edge of both trees (R196). -/
def abortAll (s : State) (k : Coll) (origin reason : Nat) : State :=
  (k.edges.filter (fun e => decide (e.level < 4))).foldl (fun t e => sendC t k e.tree.val e.peer (.abort origin reason)) s

/-- The areas that a fault leaves undefined: DST_ADDR and RES_ADDR (R199). -/
def Coll.areas (k : Coll) : List (Nat × Nat) :=
  match k.kind with
  | .agree | .mark => []
  | .allgather => [(k.dst, k.ndev * k.len), (k.res, 64)]
  | .bcast => [(k.dst, k.len), (k.res, 64)]
  | _ => (if k.writes then [(k.dst, elemBytes k.ofmt k.len)] else []) ++ [(k.res, 64)]

/-- A collective stops with a fault; `origin` and `reason` go on in CABORT. -/
def stopColl (s : State) (k : Coll) (err : OpErr) (origin reason : Nat) : State :=
  let s1 := k.outs.foldl (fun t o => dropPart t k o) (k.ins.foldl (fun t i => freePart t k i) (abortAll s k origin reason))
  faultCmd (havocAreas (dropColl s1 k) k.cid.part k.areas) k.core.val k.entry 10 0 err

/-! ### Results and completion (R194-R196) -/

/-- Where a chunk's result lands, and its bytes. -/
def Coll.resultWrites (k : Coll) (c : Nat) (r : CollRes) : List (Nat × Bytes) :=
  match k.kind with
  | .bcast => [(k.dst + c * k.gran, r.bytes)]
  | .allgather =>
    let bl := pieces (4 + k.clen c) r.bytes.length r.bytes
    (upto k.ndev).map (fun q =>
      (k.dst + q * k.len + c * k.gran,
       match bl.find? (fun b => leNat (b.take 4) == q) with
       | some b => b.drop 4
       | none => List.replicate (k.clen c) 0))
  | _ => [(k.dst + elemBytes k.ofmt (c * k.gran), r.bytes)]

/-- Writes the results that have arrived; the code of the first access that fails. -/
def writeResults (s : State) (k : Coll) : List Nat → Except (BitVec 16) (State × Coll)
  | [] => .ok (s, k)
  | c :: t =>
    match (if k.writes ∧ ¬ k.written.contains c then k.resAt c else none) with
    | none => writeResults s k t
    | some r =>
      match writeUniAll s k.cid.part (k.resultWrites c r) with
      | .error e => .error e
      | .ok s' => writeResults s' { k with written := k.written ++ [c] } t

/-- A chunk has gone through every pass at this node, and what it sends is acknowledged. -/
def Coll.chunkDone (k : Coll) (c : Nat) : Bool :=
  (!k.isSum || (k.codesAt c).isSome) && (k.dataUp c 0).isSome &&
  (!(k.kind != .reduce || k.isTop c || k.self == k.root) || (k.resAt c).isSome) &&
  (!k.writes || k.written.contains c) &&
  (k.wantOuts c).all (fun w => k.outs.any (fun o => samePart w o && o.acked))

/-- Every chunk is done. -/
def Coll.allDone (k : Coll) : Bool := (upto k.nchunk).all k.chunkDone

/-- A contribution of this rank is NaN or infinite (R195). -/
def Coll.ownSpecial (k : Coll) : Bool :=
  !k.empty && k.ifmt != 0xA && (wideVals k.ifmt k.len k.src).any (fun v => !v.finite) ||
  (!k.empty && k.ifmt == 0xA && (al48Groups k.src).any (fun g => g.nan != 0))

/-- The result record (Table 8.6). -/
def Coll.record (k : Coll) : Bytes :=
  let nan := if k.writes then ((upto k.nchunk).map (fun c => match k.resAt c with | some r => r.nan | none => 0)).sum else 0
  leBytes 64 (pack [(0, if k.kind = .bcast then 0 else k.nempty), (32, min nan 0xFFFFFFFF), (64, min k.rescorr 0xFFFF),
    (80, min k.crcretry 0xFFFF), (96, nth 0 k.depth 0), (101, nth 0 k.depth 1)])

/-- A complete collective: its watch events, its random stream, its record and its end (R187, R195, R196). AGREE and a
mark's agreement end when their result arrives, and only leave here. A command of a protected context is kept until the
next mark (R349). -/
def finishColl (s : State) (k : Coll) : State :=
  if k.kind = .agree ∨ k.kind = .mark then (if k.done then dropColl s k else s)
  else if k.done then s
  else
    let ev := k.event || (k.writes && k.reduces &&
      (k.ownSpecial || (upto k.nchunk).any (fun c => match k.resAt c with | some r => r.event | none => false)))
    let s1 := watch s k.cid (k.watched && ev)
    let s2 := if k.reduces then advanceRng s1 k.cid k.rngIdx k.cvt k.len else s1
    match writeUni s2 k.cid.part k.res k.record with
    | .error c => stopColl s2 k { code := c, detail := [] } k.self 0
    | .ok t =>
      let kept : Bool := decide ((getRes s k.cid.part).state = .prot)
      endCmd (if kept then putColl t { k with done := true } else dropColl t k) k.core.val k.entry okOutcome

/-- A collective goes on as far as it can: parts, results, completion. -/
def progress (s : State) (k0 : Coll) : State :=
  let a := addOuts s k0
  match writeResults a.1 a.2 (upto k0.nchunk) with
  | .error c => stopColl a.1 a.2 { code := c, detail := [] } k0.self 0
  | .ok q =>
    let m := sendMarkers q.1 q.2
    let f := freeUsed m.1 m.2
    let t := putColl f.1 f.2
    if f.2.allDone then finishColl t f.2 else t

/-! ### The messages (R182) -/

/-- Sets what an edge stands at. -/
def Coll.setEdge (k : Coll) (tree peer : Nat) (st : EdgeSt) : Coll :=
  { k with edges := k.edges.map (fun e => if e.tree.val == tree && e.peer == peer && e.st != .idle then { e with st := st } else e) }

/-- What the sending edge to a rank stands at. -/
def Coll.edgeSt (k : Coll) (tree peer : Nat) : EdgeSt :=
  match k.edges.find? (fun e => e.tree.val == tree && e.peer == peer && e.st != .idle) with
  | some e => e.st
  | none => .idle

/-- The parts sent to a rank in a tree are sent again once its edge is open again. -/
def Coll.resendTo (k : Coll) (tree peer : Nat) : Coll :=
  { k with outs := k.outs.map (fun o => if treeOf o.chunk == tree && o.peer == peer then { o with sent := false, acked := false } else o) }

/-- A completed collective is kept for a coordinate that may be taken over (R349). -/
def retainedColl (s : State) (k : Coll) : Bool :=
  decide ((getRes s k.cid.part).state = .prot) && k.kind != .agree && k.kind != .mark

/-- What a completed collective owes a rank that has been taken over is sent again, from its COPEN on (R350). -/
def reopenEdge (s : State) (k : Coll) (tree peer : Nat) : State :=
  if k.edgeSt tree peer = .idle then s
  else
    let k1 := (k.resendTo tree peer).setEdge tree peer .asked
    sendC (putColl s k1) k1 tree peer (.opening k1.pdig k1.gdig)

/-- The collective needs no further COPEN: it has completed, or its agreement has been reached and only waits to be taken
up. A COPEN with its CID then opens a later command. -/
def Coll.over (k : Coll) : Bool := k.done || ((k.kind == .agree || k.kind == .mark) && (k.resAt 0).isSome)

/-- CWAIT answers a message to the coordinate that it came from. -/
def answerWait (s : State) (h : CHdr) : State := sendCMsg s { h with srcRank := h.dstRank, dstRank := h.srcRank } h.src .wait

/-- A message for an edge of which there is no record is answered CWAIT (R350). -/
def noEdge (s : State) (h : CHdr) : State := if unitsRun s ∧ msgCtxs s h.jtag ≠ [] then answerWait s h else s

/-- COPEN: answered CREADY by a collective with that CID in flight whose PDIG and GDIG agree, CWAIT when there is none;
a disagreement stops the command. -/
def execCopen (h : CHdr) (pdig gdig : BitVec 32) (s : State) : Host.Outcome State Fault Refusal :=
  if unitsRun s ∧ msgCtxs s h.jtag ≠ [] then
    match (findColl s h h.dstRank) with
    | none => .next (answerWait s h)
    | some k =>
      if k.over then
        if retainedColl s k then .next (reopenEdge (sendC s k h.tree.val h.srcRank.toNat .ready) k h.tree.val h.srcRank.toNat)
        else .next (answerWait s h)
      else if k.pdig ≠ pdig ∨ k.gdig ≠ gdig then .next (stopColl s k { code := Code.eCollPeer, detail := [] } k.self 0)
      else .next (sendC s k h.tree.val h.srcRank.toNat .ready)
  else .next s

/-- CREADY: the edge is open, and empty markers go. -/
def execCready (h : CHdr) (s : State) : Host.Outcome State Fault Refusal :=
  match findColl s h h.dstRank with
  | none => .next s
  | some k =>
    let t := h.tree.val
    if unitsRun s ∧ k.edgeSt t h.srcRank.toNat = .asked then
      .next (coherentLate (.cready h) (fun u => progress u (k.setEdge t h.srcRank.toNat .opened)) s)
    else .next s

/-- CWAIT: COPEN again 8 µs later; an edge that was open restarts from there (R182, R350). -/
def execCwait (h : CHdr) (s : State) : Host.Outcome State Fault Refusal :=
  match findColl s h h.dstRank with
  | none => .next s
  | some k =>
    let t := h.tree.val
    let p := h.srcRank.toNat
    if unitsRun s ∧ (k.edgeSt t p = .asked ∨ k.edgeSt t p = .opened) then
      .next (putColl s ((k.resendTo t p).setEdge t p (.waitRetry (s.now + 8000))))
    else .next s

/-- COPEN_RETRY: the sender repeats COPEN. `h` is the header of the COPEN that it sends. -/
def execCopenRetry (h : CHdr) (s : State) : Host.Outcome State Fault Refusal :=
  match findColl s h h.srcRank with
  | none => .next s
  | some k =>
    let t := h.tree.val
    match k.edgeSt t h.dstRank.toNat with
    | .waitRetry at_ =>
      if unitsRun s ∧ at_ ≤ s.now then
        .next (sendC (putColl s (k.setEdge t h.dstRank.toNat .asked)) k t h.dstRank.toNat (.opening k.pdig k.gdig))
      else .next s
    | _ => .next s

/-- The largest number of bytes of a part. -/
def Coll.partMax (k : Coll) (c pass : Nat) : Nat :=
  match k.kind with
  | .agree | .mark => 4
  | .bcast => k.clen c
  | .allgather => k.ndev * (4 + k.clen c)
  | _ =>
    if pass ≤ 1 then k.ngroup c
    else if pass = 2 then (if k.isSum then 100 * k.ngroup c else elemBytes k.ifmt (k.clen c))
    else elemBytes k.ofmt (k.clen c)

/-- A part of this chunk and pass comes from that rank. -/
def Coll.expects (k : Coll) (c pass peer : Nat) : Bool :=
  decide (c < k.nchunk) &&
  (if pass = 0 then k.isSum && (nth [] k.feeds (treeOf c)).contains peer
   else if pass = 1 then k.isSum && k.parent c == some peer
   else if pass = 2 then (nth [] k.feeds (treeOf c)).contains peer
   else !k.isTop c && k.resultPeer c == some peer)

/-- A part that has begun to arrive. -/
def Coll.findIn (k : Coll) (c pass peer : Nat) : Option CollIn :=
  k.ins.find? (fun i => i.chunk == c && i.pass == pass && i.peer == peer)

/-- Replaces a part that arrives. -/
def Coll.putIn (k : Coll) (i : CollIn) : Coll :=
  { k with ins := replaceFirst (fun x => x.chunk == i.chunk && x.pass == i.pass && x.peer == i.peer) (fun _ => i) k.ins }

/-- A part with nothing landed. -/
def newCollIn (c pass peer : Nat) (cells : List CellRun) : CollIn :=
  { chunk := c, pass := pass, peer := peer, cells := cells, buf := [], landed := [], fin := none, ok := false, failed := false }

/-- The request for a part's cells. -/
def Coll.askOf (k : Coll) (c pass peer : Nat) : ChunkAsk :=
  { cid := k.cid, id := k.id, chunk := c, pass := pass, peer := peer, cells := ceilDiv (k.partMax c pass) 256 }

/-- The receiver's side of a grant: cells for the whole chunk; a refused grant waits (R157, R161, R181). -/
def grantChunk (s : State) (k : Coll) (c pass peer : Nat) : State :=
  if k.expects c pass peer ∧ (k.findIn c pass peer).isNone then
    let a := k.askOf c pass peer
    let x := getXd s (collDie c)
    match takeCells a.cells x k.cid.part.val [] with
    | some q =>
      let y : XdSt := { q.1 with chunkAsks := q.1.chunkAsks.filter (· != a) }
      putColl (setXd s (collDie c) y) { k with ins := k.ins ++ [newCollIn c pass peer q.2] }
    | none => if x.chunkAsks.contains a then s else setXd s (collDie c) { x with chunkAsks := x.chunkAsks ++ [a] }
  else s

/-- A part that may be sent is sent. -/
def sendReady (s : State) (k : Coll) (c pass peer : Nat) : State :=
  match k.outs.find? (fun o => o.chunk == c && o.pass == pass && o.peer == peer && !o.sent && !o.msg.empty) with
  | some o =>
    if k.edgeOpen (treeOf c) peer then
      putColl (sendPart s k o) { k with outs := k.outs.map (fun x => if samePart x o then { x with sent := true } else x) }
    else s
  | none => s

/-- The sender's side of a grant: the part is sent, once its own cells are there too. -/
def sendGranted (s : State) (k : Coll) (c pass peer : Nat) : State :=
  if k.outs.any (fun o => o.chunk == c && o.pass == pass && o.peer == peer) then sendReady s k c pass peer
  else
    let a := addOuts s k
    sendReady (putColl a.1 a.2) a.2 c pass peer

/-- CHUNK_CELL_GRANT: the receiver grants a whole chunk's cells, at the granting device (SRC_RANK) and at the sender
(DST_RANK) (R181). -/
def execChunkCellGrant (h : CHdr) (chunk : BitVec 32) (pass : Fin 4) (s : State) : Host.Outcome State Fault Refusal :=
  if unitsRun s ∧ h.tree.val = treeOf chunk.toNat then
    match findColl s h h.srcRank, findColl s h h.dstRank with
    | some k, _ => .next (grantChunk s k chunk.toNat pass.val h.dstRank.toNat)
    | none, some k => .next (sendGranted s k chunk.toNat pass.val h.srcRank.toNat)
    | none, none => .next s
  else .next s

/-- A compact part of a SUM is malformed (R189). -/
def Coll.malformed (k : Coll) (i : CollIn) : Bool :=
  match i.fin with
  | some m => m.compact && i.pass == 2 && k.isSum && (expandGroups (List.replicate (k.ngroup i.chunk) 0) i.bytes).isNone
  | none => false

/-- Adds to a die's count of resent chunks. -/
def countRetry (s : State) (c : Nat) : State :=
  let x := getXd s (collDie c)
  setXd s (collDie c) { x with colCrcRetry := satAdd x.colCrcRetry 1 }

/-- A part whose end and bytes are there is checked: acknowledged, asked for again, or fatal at the second mismatch
(R180, R189). `none` where it is not complete. -/
def checkPart (s : State) (k : Coll) (i : CollIn) : Option (State × Option Coll) :=
  match i.fin with
  | none => none
  | some m =>
    if !ivHas i.landed 0 m.bytes.toNat then none
    else
      let t := treeOf i.chunk
      let good : Bool := m.empty || crc32c i.bytes == m.crc
      if !good then
        if i.failed then some (stopColl s k { code := Code.eCollCrc, detail := [] } k.self 1, none)
        else
          let k1 := k.putIn { i with failed := true, landed := [], fin := none }
          some (sendC (putColl s k1) k1 t i.peer (.resend i.chunk i.pass), none)
      else if k.malformed i then some (stopColl s k { code := Code.eCollCrc, detail := [] } k.self 1, none)
      else
        let k1 := { k.putIn { i with ok := true } with crcretry := k.crcretry + b2n i.failed }
        let s1 := if i.failed then
            report (countRetry s i.chunk) (cmdReport Code.eCollCrc corrected k.entry 10 t [])
          else s
        some (sendC (putColl s1 k1) k1 t i.peer (.ack i.chunk i.pass), some k1)

/-- The residue check of a chunk's sum (R185, R186): a mismatch is computed again; a second one is DEVICE_FATAL and nothing is
sent. `flaw` and `flaw2` are what a fault adds to the sum the first and the second time; a sum that passes is the exact one
(DESIGN CHOICE, log 101). -/
def residue (s : State) (k : Coll) (c : Nat) (flaw flaw2 : List (BitVec 48)) : State :=
  if k.checks c flaw then progress s k
  else if k.checks c flaw2 then
    let x := getXd s (collDie c)
    let s1 := setXd s (collDie c) { x with colResCorr := satAdd x.colResCorr 1 }
    let k1 := { k with rescorr := k.rescorr + 1 }
    progress (report (putColl s1 k1) (cmdReport Code.eCollResidue corrected k.entry 10 (treeOf c) [])) k1
  else report s (devReport Code.eCollResidue deviceFatal 10 (treeOf c) [])

/-- A part that has changed is checked once it is complete; a sum that it completes goes through the adder's check. -/
def takePart (k : Coll) (i : CollIn) (flaw flaw2 : List (BitVec 48)) (s : State) : State :=
  let k1 := k.putIn i
  match checkPart (putColl s k1) k1 i with
  | some (t, some k2) =>
    if k2.isSum && (k.sumUp i.chunk).isNone && (k2.sumUp i.chunk).isSome then residue t k2 i.chunk flaw flaw2
    else progress t k2
  | some (t, none) => t
  | none => putColl s k1

/-- CHUNK_DATA: bytes of a granted part land in its cells (R160, R180). `flaw` and `flaw2` are what a fault in the adder adds to
the sum that the part completes, in its two computations. -/
def execChunkData (h : CHdr) (chunk : BitVec 32) (pass : Fin 4) (offset : BitVec 40) (data : Bytes) (flaw flaw2 : List (BitVec 48))
    (s : State) : Host.Outcome State Fault Refusal :=
  match findColl s h h.dstRank with
  | none => .next (noEdge s h)
  | some k =>
    match k.findIn chunk.toNat pass.val h.srcRank.toNat with
    | none => .next s
    | some i =>
      let a := offset.toNat
      let b := a + data.length
      if unitsRun s ∧ ¬ i.ok ∧ data ≠ [] ∧ data.length ≤ 2048 ∧ b ≤ k.partMax chunk.toNat pass.val then
        let i1 := { i with buf := Memory.write i.buf a data, landed := addIv a b i.landed }
        .next (coherentLate (.chunkData h chunk pass offset data flaw flaw2)
          (fun t => takePart k i1 flaw flaw2 (spillData t (getXd t (collDie i.chunk)) i.cells a data)) s)
      else .next s

/-- CEND: a part has been sent; once its bytes have landed it is checked and used. -/
def execCend (h : CHdr) (m : CEndMsg) (flaw flaw2 : List (BitVec 48)) (s : State) : Host.Outcome State Fault Refusal :=
  match findColl s h h.dstRank with
  | none => .next (noEdge s h)
  | some k0 =>
    let c := m.chunk.toNat
    let peer := h.srcRank.toNat
    let k := if m.empty ∧ (k0.findIn c m.pass.val peer).isNone ∧ k0.expects c m.pass.val peer
      then { k0 with ins := k0.ins ++ [newCollIn c m.pass.val peer []] } else k0
    match k.findIn c m.pass.val peer with
    | none => .next s
    | some i =>
      if unitsRun s ∧ ¬ i.ok ∧ i.fin = none ∧ h.tree.val = treeOf c then
        .next (coherentLate (.cend h m flaw flaw2) (takePart k { i with fin := some m } flaw flaw2) s)
      else if unitsRun s ∧ i.ok ∧ k.done then .next (sendC s k h.tree.val peer (.ack c m.pass.val))
      else .next s

/-- The part that a CACK names. -/
def ackHits (h : CHdr) (chunk pass : Nat) (o : CollOut) : Bool :=
  o.chunk == chunk && o.pass == pass && o.peer == h.srcRank.toNat && o.sent && !o.acked

/-- A part is acknowledged: its cells are free, and the collective goes on. -/
def ackPart (k : Coll) (hit : CollOut → Bool) (s : State) : State :=
  let t := (k.outs.filter hit).foldl (fun u o => dropPart u k o) s
  progress t { k with outs := k.outs.map (fun o => if hit o then { o with acked := true, chain := none } else o) }

/-- CACK: a part is acknowledged. -/
def execCack (h : CHdr) (chunk : BitVec 32) (pass : Fin 4) (s : State) : Host.Outcome State Fault Refusal :=
  match findColl s h h.dstRank with
  | none => .next s
  | some k =>
    if unitsRun s ∧ k.outs.any (ackHits h chunk.toNat pass.val) then
      .next (coherentLate (.cack h chunk pass) (ackPart k (ackHits h chunk.toNat pass.val)) s)
    else .next s

/-- CRESEND: a part is sent again (R180). -/
def execCresend (h : CHdr) (chunk : BitVec 32) (pass : Fin 4) (s : State) : Host.Outcome State Fault Refusal :=
  match findColl s h h.dstRank with
  | none => .next s
  | some k =>
    match k.outs.find? (fun o => o.chunk == chunk.toNat && o.pass == pass.val && o.peer == h.srcRank.toNat && o.sent && !o.acked) with
    | some o => if unitsRun s then .next (sendPart s k o) else .next s
    | none => .next s

/-- CABORT: the command stops, and CABORT goes on along every edge (R196). -/
def execCabort (h : CHdr) (origin : BitVec 16) (reason : BitVec 8) (s : State) : Host.Outcome State Fault Refusal :=
  match findColl s h h.dstRank with
  | none => .next s
  | some k =>
    if unitsRun s ∧ ¬ k.done then
      .next (stopColl s k { code := Code.eCollAbort, detail := [origin.setWidth 32, reason.setWidth 32] }
        origin.toNat reason.toNat)
    else .next s

/-- The ranks from which a part of a chunk is missing. -/
def Coll.missing (k : Coll) (c : Nat) : List Nat :=
  let feeds := nth [] k.feeds (treeOf c)
  (if k.isSum then feeds.filter (fun p => (k.part c 0 p).isNone) else []) ++
  (if k.isSum ∧ ¬ k.isTop c then (k.parent c).toList.filter (fun p => (k.part c 1 p).isNone) else []) ++
  feeds.filter (fun p => (k.part c 2 p).isNone) ++
  (if k.isTop c then [] else (k.resultPeer c).toList.filter (fun p => (k.part c 3 p).isNone))

/-- COLL_HANG: a collective has not completed within HANG_MS of resident time; the record holds the lowest rank from which
a part is missing (R196). -/
def execCollHang (cid : CtxId) (coll : BitVec 16) (s : State) : Host.Outcome State Fault Refusal :=
  match s.colls.find? (fun k => k.cid == cid && k.id == coll && !k.done) with
  | none => .next s
  | some k =>
    if unitsRun s ∧ isResident s cid ∧ k.since + hangNs s cid ≤ residentClock s cid then
      let ms := (upto k.nchunk).flatMap k.missing
      let low := match ms with | [] => 0xFFFFFFFF | m :: t => t.foldl min m
      .next (stopColl s k { code := Code.eCollHang, detail := [BitVec.ofNat 32 low] } k.self 2)
    else .next s

/-! ### Starting a collective -/

/-- PDIG over the fields of R182, packed lowest bit first in the order that R182 names them (DESIGN CHOICE). -/
def collPdig (d : Desc) (r : Rng) : BitVec 32 :=
  crc32c (leBytes 11 (pack [(0, fld d 240 40), (40, fld d 280 4), (44, fld d 284 4), (48, fld d 288 2), (50, fld d 290 1),
    (51, fld d 295 2), (53, fld d 313 17), (70, fld d 346 16), (86, fld d 363 2)]) ++ leBytes 8 r.key.toNat ++ leBytes 16 r.counter.toNat)

/-- The edges of a command with the trees' tops: those that it sends on are asked to open. -/
def collEdges (kind : CollKind) (sum : Bool) (coords : List Nat) (self root : Nat) (trees : Nat) (tree : Fin 2) : List CollEdge :=
  let l := treeOrder tree.val coords
  let onPath := (treePath l 17 root).contains self
  let down : Bool := match kind with | .reduce => sum | _ => true
  let up : Bool := match kind with | .bcast => onPath | _ => true
  let es := (treeEdges tree coords self).map (fun e =>
    if tree.val < trees ∧ (if e.up then up else down) then { e with st := .asked } else e)
  if kind = .reduce ∧ tree.val < trees ∧ treeTop l = self ∧ self ≠ root ∧ !es.any (fun e => e.peer == root && e.st != .idle) then
    es ++ [{ tree := tree, peer := root, up := false, level := 4, st := .asked }]
  else es

/-- The ranks whose parts come up to a rank in a tree: its children, or for BCAST the one on ROOT's path. -/
def collFeeds (kind : CollKind) (coords : List Nat) (self root : Nat) (tree : Fin 2) : List Nat :=
  let l := treeOrder tree.val coords
  let ch := ((treeEdges tree coords self).filter (fun e => !e.up)).map (·.peer)
  if kind = .bcast then ch.filter (fun c => (treePath l 17 root).contains c && (treePath l 17 root).contains self) else ch

/-- Places a collective's trees: edges, feeds, tops and depths. -/
def placeColl (k : Coll) (coords : List Nat) : Coll :=
  let trees := if k.nchunk ≤ 1 then 1 else 2
  let l := fun (t : Fin 2) => treeOrder t.val coords
  let es := collEdges k.kind k.isSum coords k.self k.root trees 0 ++ collEdges k.kind k.isSum coords k.self k.root trees 1
  { k with
    edges := es
    coords := coords
    feeds := [collFeeds k.kind coords k.self k.root 0, collFeeds k.kind coords k.self k.root 1]
    tops := [treeTop (l 0), treeTop (l 1)]
    depth := [treeDepth (l 0) 17 k.self, treeDepth (l 1) 17 k.self] }

/-- A collective begins: its edges are opened and it goes as far as it can. -/
def startColl (s : State) (k : Coll) : State :=
  let s1 := { s with colls := s.colls ++ [k] }
  let s2 := (k.edges.filter (fun e => e.st == .asked)).foldl
    (fun t e => sendC t k e.tree.val e.peer (.opening k.pdig k.gdig)) s1
  progress s2 k

/-- The fields of a collective descriptor (Table 8.5), before its trees are known. -/
def collOf (s : State) (e : Entry) (core : Nat) (kind : CollKind) : Coll :=
  let d := e.desc
  let r := getRng s e.cid (fld d 291 4)
  { cid := e.cid, core := Fin.ofNat 128 core, entry := e, kind := kind, id := BitVec.ofNat 16 (fld d 297 16)
    len := fld d 240 40, ifmt := fld d 280 4, ofmt := fld d 284 4, cvt := fld d 288 2, watched := flag d 290
    rngIdx := fld d 291 4, rng := r, opr := fld d 295 2, ndev := fld d 313 17, self := fld d 330 16, root := fld d 346 16
    empty := flag d 362, lossy := fld d 363 2, src := [], dst := fld d 108 44, res := fld d 196 44, pdig := collPdig d r
    gdig := 0, since := residentClock s e.cid, edges := [], feeds := [], tops := [], depth := [], ins := [], outs := []
    written := [], rescorr := 0, crcretry := 0, event := false, done := false }

/-- The descriptor's group table and source. -/
def collGrp (d : Desc) : Nat := fld d 152 44
/-- SRC_ADDR. -/
def collSrc (d : Desc) : Nat := fld d 64 44

/-- The bytes that this rank contributes. -/
def Coll.srcLen (k : Coll) : Nat :=
  match k.kind with
  | .bcast => if k.self = k.root then k.len else 0
  | .allgather => if k.empty then 0 else k.len
  | _ => if k.empty then 0 else elemBytes k.ifmt k.len

/-- The address fields that the command uses (R105). -/
def collAreas (k : Coll) (d : Desc) : List (Nat × Nat) :=
  (if k.srcLen = 0 then [] else [(collSrc d, k.srcLen)]) ++ [(collGrp d, 4 * k.ndev)] ++
  { k with res := fld d 196 44 }.areas

/-- The format rules of R193. -/
def collFmtOk (k : Coll) : Bool :=
  if k.reduces then
    (isWide k.ifmt || k.ifmt == 0xA) && (isWide k.ofmt || k.ofmt == 0xA) &&
    (k.ofmt != 0xA || k.opr == 0) && (k.ifmt != 0xA || (k.opr == 0 && k.len % 16 == 0))
  else k.ifmt == 0 && k.ofmt == 0

/-- The other rules of R193 and Table 8.5. -/
def collShapeOk (s : State) (k : Coll) : Bool :=
  k.len != 0 && k.ndev != 0 && decide (k.ndev ≤ 65536) && decide (k.self < k.ndev) && decide (k.root < k.ndev) &&
  (k.lossy == 0 || (k.opr == 0 && k.ofmt != 0xA)) &&
  !s.colls.any (fun x => x.cid == k.cid && x.id == k.id && !x.done)

/-- A collective must wait: 4 in flight on the context, or 64 on a die (R193). -/
def collWaits (s : State) (k : Coll) : Bool :=
  let live := s.colls.filter (fun x => !x.done)
  decide (4 ≤ (live.filter (fun x => x.cid == k.cid)).length) || decide (64 ≤ live.length) ||
  (decide (1 < k.nchunk) && decide (64 ≤ (live.filter (fun x => decide (1 < x.nchunk))).length))

/-- The checks of a collective after R10. -/
def collPrep (e : Entry) (kind : CollKind) (s : State) (core : Nat) : Prep :=
  let k := collOf s e core kind
  if !areasOk s e.cid.part (collAreas k e.desc) then rejectWith Code.eDescOperand
  else if !collFmtOk k then rejectWith Code.eFmtPair
  else if !collShapeOk s k then rejectWith Code.eCollShape
  else if collWaits s k then .stall
  else .go []

/-- A collective runs (R176, R184). -/
def runColl (e : Entry) (kind : CollKind) (s : State) (core : Nat) : State × Ended :=
  let k := collOf s e core kind
  let fail := fun (c : BitVec 16) => settleUni s e 10 0 (uniFault c [] k.areas)
  match readGroup s e.cid.part (collGrp e.desc) k.ndev, readUni s e.cid.part (collSrc e.desc) k.srcLen with
  | .error c, _ => fail c
  | _, .error c => fail c
  | .ok g, .ok src =>
    if groupBad g.2 then fail Code.eCollGroup
    else if k.ifmt = 0xA ∧ (al48Groups src).any (fun x => x.gexp == 0xFF) then fail Code.eAl48Gexp
    else (startColl s (placeColl { k with src := src, gdig := crc32c g.1 } g.2), .running)

/-- A field that Table 8.5 gives as 0 for the command is not 0: a reserved field of that command (R10). -/
def collZeroBad (d : Desc) (kind : CollKind) : Bool :=
  let reduces := decide (kind = .reduce) || decide (kind = .allreduce)
  ((kind != .reduce && kind != .bcast) && fld d 346 16 != 0) || (!reduces && fld d 295 2 != 0) ||
  (kind == .bcast && flag d 362)

/-- A row of the collective commands. A skipped reduction still advances its stream (R36). -/
def collRow (e : Entry) (op : Nat) (kind : CollKind) : OpRow :=
  let d := e.desc
  { row := opcode d == op
    reserved := fld d 365 147 != 0 || fmtReserved (fld d 280 4) || fmtReserved (fld d 284 4) || fld d 295 2 == 3 || fld d 363 2 == 3 ||
      collZeroBad d kind
    classes := [2]
    prep := collPrep e kind
    skip := fun t _ => if kind = .reduce ∨ kind = .allreduce then advanceRng t e.cid (fld d 291 4) (fld d 288 2) (fld d 240 40) else t
    run := runColl e kind }

/-- OP_REDUCE (R194). -/
def execOpReduce (e : Entry) (s : State) : Host.Outcome State Fault Refusal := .next (issueCmd s e (collRow e 0x0400 .reduce))

/-- OP_ALLREDUCE (R194). -/
def execOpAllreduce (e : Entry) (s : State) : Host.Outcome State Fault Refusal :=
  .next (issueCmd s e (collRow e 0x0401 .allreduce))

/-- OP_BCAST (R194). -/
def execOpBcast (e : Entry) (s : State) : Host.Outcome State Fault Refusal := .next (issueCmd s e (collRow e 0x0402 .bcast))

/-- OP_ALLGATHER (R194). -/
def execOpAllgather (e : Entry) (s : State) : Host.Outcome State Fault Refusal :=
  .next (issueCmd s e (collRow e 0x0403 .allgather))

end Sys2Proof.Machine
end

