-- ==== Sys2Proof/Machine/StepStatus.lean ====
section
/-! DEFINITION. OP_STEP_STATUS: the step status word, its job binding, the agreement and the skip window (R40-R46). -/

namespace Sys2Proof.Machine

/-! ### The word (Table 2.7) -/

/-- The word as 64 bits. -/
def StepWord.bits (w : StepWord) : Nat :=
  pack [(0, w.scaleExp.toNat), (16, w.clean.toNat), (26, b2n w.ovfThis), (27, b2n w.ovfJob), (28, b2n w.ovfLate),
    (29, b2n w.skipLast), (30, b2n w.floor), (32, w.step.toNat)]

/-- The word that 64 bits hold. -/
def stepWordOf (v : Nat) : StepWord :=
  { scaleExp := BitVec.ofNat 8 v, clean := BitVec.ofNat 10 (v / 2 ^ 16), ovfThis := bitAt v 26, ovfJob := bitAt v 27
    ovfLate := bitAt v 28, skipLast := bitAt v 29, floor := bitAt v 30, step := BitVec.ofNat 32 (v / 2 ^ 32) }

/-- The content of a word is refused (R42): SCALE_EXP outside 0 to 24, CLEAN above 999, or a reserved bit. -/
def stepWordBad (v : Nat) : Bool :=
  decide (24 < bitsOf v 0 8) || decide (999 < bitsOf v 16 10) || bitsOf v 8 8 != 0 || bitAt v 31

/-- The bytes of a word. -/
def stepBytes (w : StepWord) : Bytes := leBytes 8 w.bits

/-- COMMIT's update (R45). -/
def commitWord (w : StepWord) : StepWord :=
  let a :=
    if w.ovfJob then
      { w with floor := decide (w.scaleExp = 0), scaleExp := if w.scaleExp = 0 then 0 else w.scaleExp - 1, clean := 0
               skipLast := true }
    else if w.clean + 1 = 1000 then
      { w with skipLast := false, clean := 0, scaleExp := if w.scaleExp.toNat < 24 then w.scaleExp + 1 else 24 }
    else { w with skipLast := false, clean := w.clean + 1 }
  { a with ovfThis := w.ovfLate, ovfLate := false, ovfJob := false, step := w.step + 1 }

/-! ### Execution -/

/-- How a step status command ends at once. -/
def stepOk (s : State) : State × Ended := (s, .atOnce okOutcome)

/-- A step status command fails (R42). -/
def stepFail (s : State) (e : Entry) (core : Nat) (code : BitVec 16) : State × Ended :=
  (report s (cmdReport code contextFatal e 0 core []), .atOnce (faultOutcome code))

/-- A context's job binding and skip window in the protector's copy (R42, R44, R347), in the model's own order; zeros where no
word is bound. The word itself stands in the mark record (Table 15.5). -/
def bindBytes (x : Ctx) : Bytes :=
  match x.step with
  | some b => leBytes 32 (pack [(0, 1), (8, b.addr.toNat), (52, b.ndev.toNat), (69, b.self.toNat), (85, b.cid.toNat),
      (101, b.grpAddr.toNat), (145, b.gcrc.toNat), (177, b2n b.agreed), (178, b2n x.skipOpen)])
  | none => leBytes 32 0

/-- A context's job binding goes to the protector. -/
def mirrorBind (s : State) (c : CtxId) : State := mirror s c.part (mirrorAt 8 (32 * CtxId.key c)) (bindBytes (getCtx s c))

/-- Replaces a context's binding and its skip window, which are mirrored. -/
def setBind (s : State) (c : CtxId) (b : Option StepBind) (skip : Bool) : State :=
  mirrorBind (setCtx s c { getCtx s c with step := b, skipOpen := skip }) c

/-- Writes a bound word back (R42). -/
def writeBack (s : State) (c : CtxId) (b : StepBind) : Except (BitVec 16) State :=
  writeUni s c.part b.addr.toNat (stepBytes b.word)

/-- BIND's checks of its addresses and ranks (R42). -/
def bindShapeOk (s : State) (c : CtxId) (d : Desc) : Bool :=
  decide (fld d 64 64 % 8 = 0) && inPages s c.part (fld d 64 64) 8 &&
  decide (fld d 164 44 % 64 = 0) && inPages s c.part (fld d 164 44) (4 * fld d 131 17) &&
  fld d 131 17 != 0 && decide (fld d 148 16 < fld d 131 17)

/-- BIND (R42): every check, then the live word's write-back, then the new binding. -/
def runBind (e : Entry) (s : State) (core : Nat) : State × Ended :=
  let d := e.desc
  let c := e.cid
  if !bindShapeOk s c d then stepFail s e core Code.eStepStatus
  else
    match readUni s c.part (fld d 64 64) 8, readGroup s c.part (fld d 164 44) (fld d 131 17) with
    | .error code, _ => stepFail s e core code
    | _, .error code => stepFail s e core code
    | .ok w, .ok g =>
      if stepWordBad (leNat w) then stepFail s e core Code.eStepStatus
      else if groupBad g.2 ∨ 65536 < fld d 131 17 then stepFail s e core Code.eCollGroup
      else
        let b : StepBind :=
          { word := stepWordOf (leNat w), addr := BitVec.ofNat 44 (fld d 64 64), ndev := BitVec.ofNat 17 (fld d 131 17)
            self := BitVec.ofNat 16 (fld d 148 16), cid := BitVec.ofNat 16 (fld d 208 16)
            grpAddr := BitVec.ofNat 44 (fld d 164 44), gcrc := crc32c g.1 }
        match (getCtx s c).step with
        | none => stepOk (setBind s c (some b) (getCtx s c).skipOpen)
        | some old =>
          match writeBack s c old with
          | .ok t => stepOk (setBind t c (some b) (getCtx s c).skipOpen)
          | .error code => stepFail s e core code

/-- UNBIND (R42). -/
def runUnbind (e : Entry) (s : State) (core : Nat) : State × Ended :=
  match (getCtx s e.cid).step with
  | none => stepOk s
  | some b =>
    match writeBack s e.cid b with
    | .ok t => stepOk (setBind t e.cid none (getCtx s e.cid).skipOpen)
    | .error code => stepFail s e core code

/-- AGREE's collective (R43): the 4-byte maximum of OVF_THIS under the bound CID. PDIG is taken over NDEV and STEP, packed
lowest bit first (DESIGN CHOICE). -/
def agreeColl (s : State) (e : Entry) (core : Nat) (b : StepBind) : Coll :=
  { cid := e.cid, core := Fin.ofNat 128 core, entry := e, kind := .agree, id := b.cid, len := 1, ifmt := 0, ofmt := 0
    cvt := 0, watched := false, rngIdx := 0, rng := {}, opr := 1, ndev := b.ndev.toNat, self := b.self.toNat, root := 0
    empty := false, lossy := 0, src := leBytes 4 (b2n b.word.ovfThis), dst := 0, res := 0
    pdig := crc32c (leBytes 7 (pack [(0, b.ndev.toNat), (17, b.word.step.toNat)])), gdig := b.gcrc
    since := residentClock s e.cid, edges := [], feeds := [], tops := [], depth := [], ins := [], outs := []
    written := [], rescorr := 0, crcretry := 0, event := false, done := false }

/-- The agreement of a command is in flight already. -/
def agreeing (s : State) (e : Entry) : Bool := s.colls.any (fun k => k.entry == e && !k.done)

/-- AGREE captures OVF_THIS and starts its collective, which waits for a place among the collectives (R43, R193). -/
def runAgree (e : Entry) (s : State) (core : Nat) : State × Ended :=
  match (getCtx s e.cid).step with
  | none => stepFail s e core Code.eStepStatus
  | some b =>
    if agreeing s e then (s, .running)
    else
      let k := agreeColl s e core b
      if collWaits s k then (s, .running)
      else
        match readGroup s e.cid.part b.grpAddr.toNat b.ndev.toNat with
        | .error code => stepFail s e core code
        | .ok g =>
          if groupBad g.2 then stepFail s e core Code.eCollGroup
          else (startColl (setBind s e.cid (some { b with agreed := true }) (getCtx s e.cid).skipOpen) (placeColl k g.2), .running)

/-- CHECK opens the skip window while OVF_JOB is 1 (R44). -/
def runCheck (e : Entry) (s : State) (core : Nat) : State × Ended :=
  match (getCtx s e.cid).step with
  | none => stepFail s e core Code.eStepStatus
  | some b => if b.word.ovfJob then stepOk (setBind s e.cid (some b) true) else stepOk s

/-- COMMIT (R45, R46). -/
def runCommit (e : Entry) (s : State) (core : Nat) : State × Ended :=
  match (getCtx s e.cid).step with
  | none => stepFail s e core Code.eStepStatus
  | some b =>
    let b' := { b with word := commitWord b.word, agreed := false }
    let s1 := setBind s e.cid (some b') false
    match writeBack s1 e.cid b' with
    | .error code => stepFail s1 e core code
    | .ok t =>
      if b.word.ovfJob ∧ b'.word.floor then stepOk (report t (cmdReport Code.eScaleFloor deferred e 0 core []))
      else stepOk t

/-- MODE of OP_STEP_STATUS. -/
def stepMode (d : Desc) : Nat := fld d 128 3

/-- The effect of a mode. -/
def runStep (e : Entry) : State → Nat → State × Ended :=
  match stepMode e.desc with
  | 0 => runBind e
  | 1 => runAgree e
  | 2 => runCheck e
  | 3 => runCommit e
  | _ => runUnbind e

/-- A row of OP_STEP_STATUS; a reserved MODE is rejected by any of the rows (R42, R10). -/
def stepRow (e : Entry) (mode : Nat) : OpRow :=
  let d := e.desc
  { row := opcode d == 0x0602 && (stepMode d == mode || decide (4 < stepMode d))
    reserved := decide (4 < stepMode d) || fld d 224 288 != 0 || (stepMode d != 0 && fld d 131 93 != 0)
    classes := [2]
    prep := fun _ _ => .go []
    due := .ctx
    run := runStep e }

/-- OP_STEP_STATUS BIND (R42). -/
def execOpStepStatusBind (e : Entry) (s : State) : Host.Outcome State Fault Refusal := .next (issueCmd s e (stepRow e 0))

/-- OP_STEP_STATUS AGREE (R43). -/
def execOpStepStatusAgree (e : Entry) (s : State) : Host.Outcome State Fault Refusal := .next (issueCmd s e (stepRow e 1))

/-- OP_STEP_STATUS CHECK (R44). -/
def execOpStepStatusCheck (e : Entry) (s : State) : Host.Outcome State Fault Refusal := .next (issueCmd s e (stepRow e 2))

/-- OP_STEP_STATUS COMMIT (R45). -/
def execOpStepStatusCommit (e : Entry) (s : State) : Host.Outcome State Fault Refusal := .next (issueCmd s e (stepRow e 3))

/-- OP_STEP_STATUS UNBIND (R42). -/
def execOpStepStatusUnbind (e : Entry) (s : State) : Host.Outcome State Fault Refusal := .next (issueCmd s e (stepRow e 4))

/-- STEP_AGREE_RESULT: the maximum has arrived and sets OVF_JOB; AGREE ends, and its collective stays until what it sent
is acknowledged (R43). -/
def execStepAgreeResult (cid : CtxId) (ovf : Bool) (s : State) : Host.Outcome State Fault Refusal :=
  match s.colls.find? (fun k => k.cid == cid && decide (k.kind = .agree) && !k.done) with
  | none => .next s
  | some k =>
    match k.resAt 0 with
    | some r =>
      if unitsRun s ∧ (leNat r.bytes != 0) = ovf then
        let k1 := { k with done := true }
        let s1 := modStep s cid (fun b => { b with word := { b.word with ovfJob := ovf } })
        .next (progress (endCmd (putColl s1 k1) k.core.val k.entry okOutcome) k1)
      else .next s
    | none => .next s

end Sys2Proof.Machine
end

