-- ==== Sys2Proof/Machine/Digest.lean ====
section
/-! DEFINITION. OP_DIGEST: the digest slots and their record (R207-R211), and OP_RNG_SEEK (R359). -/

namespace Sys2Proof.Machine

/-! ### Running hashes -/

/-- A SHA-256 that has taken in nothing. -/
def shaStart : ShaRun := { h := sha256Init, tail := [], total := 0 }

/-- A SHA-256 takes in bytes. -/
def shaAbsorb (r : ShaRun) (bs : Bytes) : ShaRun :=
  let m := r.tail ++ bs
  let n := m.length / 64
  { h := sha256Blocks n r.h m, tail := m.drop (64 * n), total := r.total + bs.length }

/-- The hash of what a SHA-256 has taken in (FIPS 180-4). -/
def shaFinish (r : ShaRun) : Bytes :=
  let z := (119 - r.total % 64) % 64
  let m := r.tail ++ [0x80#8] ++ List.replicate z 0#8 ++ (leBytes 8 (8 * r.total)).reverse
  (sha256Blocks (m.length / 64) r.h m).flatMap beBytes32

/-! ### Digest slots -/

/-- MODE, DSLOT, ADDR and LEN of OP_DIGEST (Table 9.4). -/
def digMode (d : Desc) : Nat := fld d 64 2
/-- DSLOT. -/
def digSlot (d : Desc) : Nat := fld d 66 2
/-- ADDR. -/
def digAddr (d : Desc) : Nat := fld d 72 44
/-- LEN. -/
def digLen (d : Desc) : Nat := fld d 116 40

/-- A digest slot of a context; `none` is closed. -/
def getDigest (s : State) (c : CtxId) (i : Nat) : Option DigestSlot := Tbl.get none (getCtx s c).digests i

/-- Replaces a digest slot. -/
def setDigest (s : State) (c : CtxId) (i : Nat) (x : Option DigestSlot) : State :=
  setCtx s c { getCtx s c with digests := Tbl.set none (getCtx s c).digests i x }

/-- An OP_DIGEST of a slot. -/
def digestOn (e : Entry) (slot : Nat) : Bool := opcode e.desc == 0x0600 && digSlot e.desc == slot

/-- A handed list in progress holds an OP_DIGEST of a slot that has not issued. -/
def listDigests (s : State) (c : CtxId) (l : ListRun) (slot : Nat) : Bool :=
  (upto (l.ncmd - l.next)).any (fun i =>
    match listDesc s c { l with next := l.next + i } with
    | some d => opcode d == 0x0600 && digSlot d == slot
    | none => false)

/-- An OP_DIGEST on the same slot that stands earlier in ring order has not taken effect yet (R209). A command of a handed list
counts at the ring position of the OP_WAIT that ran it, and its own core issues the list in order. -/
def digestPending (s : State) (e : Entry) : Bool :=
  let slot := digSlot e.desc
  (coresOf (getPart s e.cid.part)).any (fun k =>
    let q := getSeq s e.cid k
    q.queue.any (fun g => digestOn g slot && earlier g.pos e.pos) ||
    q.inflight.any (fun f => digestOn f.entry slot && f.fin.isNone && (earlier f.entry.pos e.pos || f.entry.pos == e.pos)) ||
    (match q.list with
     | some l => earlier l.wait.pos e.pos && listDigests s e.cid l slot
     | none => false))

/-- The fields that a mode does not use, and the reserved ones (Table 9.4, R10). -/
def digestReserved (d : Desc) : Bool :=
  let m := digMode d
  m == 3 || fld d 172 340 != 0 || (m != 1 && (fld d 68 3 != 0 || digLen d != 0)) || (m != 2 && flag d 71) ||
  (m == 0 && digAddr d != 0) || (m != 0 && fld d 156 16 != 0)

/-- The operand check of R208. -/
def digestOperandOk (s : State) (p : PartI) (d : Desc) : Bool :=
  match digMode d with
  | 1 => if flag d 70 then lsOk 1 (digAddr d % 2 ^ 24) (digLen d) else inPages s p (digAddr d) (digLen d)
  | 2 => uniOk s p (digAddr d) 256
  | _ => true

/-- The checks of OP_DIGEST at issue (R208). -/
def digestPrep (e : Entry) (s : State) (_core : Nat) : Prep :=
  let d := e.desc
  if digestPending s e then .stall
  else if (getDigest s e.cid (digSlot d)).isSome != (digMode d != 0) then rejectWith Code.eDigestState
  else if digMode d = 1 ∧ digLen d = 0 then rejectWith Code.eDigestShape
  else if !digestOperandOk s e.cid.part d then rejectWith Code.eDescOperand
  else .go (if digMode d = 1 ∧ flag d 70 then lsRange (digAddr d % 2 ^ 24) (digLen d) false else [])

/-- A row of OP_DIGEST; a reserved MODE is rejected by any of the rows. -/
def digestRow (e : Entry) (mode : Nat) (due : Due) (run : State → Nat → State × Ended) : OpRow :=
  let d := e.desc
  { row := opcode d == 0x0600 && (digMode d == mode || digMode d == 3)
    reserved := digestReserved d
    classes := [2]
    prep := digestPrep e
    due := due
    run := run }

/-- OPEN opens the slot with DIGID (R208). -/
def runDigestOpen (e : Entry) (s : State) (_core : Nat) : State × Ended :=
  (setDigest s e.cid (digSlot e.desc)
    (some { digid := BitVec.ofNat 16 (fld e.desc 156 16), runs := List.replicate 4 shaStart, counts := List.replicate 4 0 }),
   .atOnce okOutcome)

/-- The bytes that an ABSORB takes in. -/
def absorbBytes (s : State) (e : Entry) (core : Nat) : Except (BitVec 16) Bytes :=
  let d := e.desc
  if flag d 70 then .ok (readLs s core (digAddr d % 2 ^ 24) (digLen d)) else readUni s e.cid.part (digAddr d) (digLen d)

/-- ABSORB: the domain's hash takes in LEN as eight bytes and then the bytes (R209). -/
def runAbsorb (e : Entry) (s : State) (core : Nat) : State × Ended :=
  let d := e.desc
  match absorbBytes s e core, getDigest s e.cid (digSlot d) with
  | .error c, _ => (report s (cmdReport c contextFatal e 15 0 []), .ended (faultOutcome c))
  | .ok _, none => (s, .ended okOutcome)
  | .ok bs, some x =>
    let k := fld d 68 2
    let x' := { x with
      runs := setNth x.runs k (shaAbsorb (nth shaStart x.runs k) (leBytes 8 (digLen d) ++ bs))
      counts := setNth x.counts k (nth 0 x.counts k + digLen d) }
    (setDigest s e.cid (digSlot d) (some x'), .ended okOutcome)

/-- STEP of a context's bound word, 0 when none is bound. -/
def ctxStep (s : State) (c : CtxId) : Nat := match (getCtx s c).step with | some b => b.word.step.toNat | none => 0

/-- Bytes 0 to 191 of a digest record (Table 9.5). -/
def digestHead (s : State) (e : Entry) (x : DigestSlot) (signed : Bool) : Bytes :=
  leBytes 64 (pack [(0, 0x4456594B), (32, 1), (48, digSlot e.desc), (50, b2n signed), (64, 0xCA170880), (96, x.digid.toNat),
    (112, (servedCoord s).toNat), (129, e.cid.part.val), (132, e.cid.ctx.val), (160, (fabricTime s).toNat), (224, ctxStep s e.cid),
    (256, nth 0 x.counts 0), (320, nth 0 x.counts 1), (384, nth 0 x.counts 2), (448, nth 0 x.counts 3)]) ++
  x.runs.flatMap shaFinish

/-- A digest record: its head and the signature over it, or zeros (R211). -/
def digestRecord (s : State) (e : Entry) (x : DigestSlot) (signed : Bool) : Bytes :=
  let h := digestHead s e x signed
  h ++ (if signed then ecdsaSign ikScalar (sha256 h) else List.replicate 64 0)

/-- CLOSE writes the record and closes the slot; `canSign` is whether the security block can sign (R210, R211). -/
def runDigestClose (e : Entry) (canSign : Bool) (s : State) (_core : Nat) : State × Ended :=
  let d := e.desc
  match getDigest s e.cid (digSlot d) with
  | none => (s, .ended okOutcome)
  | some x =>
    match writeUni s e.cid.part (digAddr d) (digestRecord s e x (flag d 71 && canSign)) with
    | .error c => (report s (cmdReport c contextFatal e 15 0 []), .ended (faultOutcome c))
    | .ok t =>
      let t1 := setDigest t e.cid (digSlot d) none
      (if flag d 71 && !canSign then report t1 (cmdReport Code.eDigestSign deferred e 15 0 []) else t1, .ended okOutcome)

/-- OP_DIGEST OPEN (R208). -/
def execOpDigestOpen (e : Entry) (s : State) : Host.Outcome State Fault Refusal :=
  .next (issueCmd s e (digestRow e 0 .now (runDigestOpen e)))

/-- OP_DIGEST ABSORB (R209). -/
def execOpDigestAbsorb (e : Entry) (s : State) : Host.Outcome State Fault Refusal :=
  .next (issueCmd s e (digestRow e 1 .ctx (runAbsorb e)))

/-- OP_DIGEST CLOSE (R210). -/
def execOpDigestClose (e : Entry) (canSign : Bool) (s : State) : Host.Outcome State Fault Refusal :=
  .next (issueCmd s e (digestRow e 2 .now (runDigestClose e canSign)))

/-! ### OP_RNG_SEEK (R359) -/

/-- MODE of OP_RNG_SEEK (Table 15.9). -/
def seekMode (d : Desc) : Nat := fld d 68 2

/-- EV_RNG_REWIND is due: the new counter less the old is 2^127 or more (R359). -/
def rewinds (old new : BitVec 128) : Bool := (new - old).getLsbD 127

/-- SET, ADD or CHECK (R359). -/
def runSeek (e : Entry) (s : State) (core : Nat) : State × Ended :=
  let d := e.desc
  let i := fld d 64 4
  let r := getRng s e.cid i
  let v := BitVec.ofNat 128 (fld d 134 128)
  if seekMode d = 2 then
    if r.counter = v then (s, .atOnce okOutcome)
    else (report s (cmdReport Code.eRngCheck contextFatal e 0 core []), .atOnce (faultOutcome Code.eRngCheck))
  else
    let r' : Rng := if seekMode d = 0 then { key := BitVec.ofNat 64 (fld d 70 64), counter := v }
      else { r with counter := r.counter + v }
    let s1 := setRng s e.cid i r'
    (if rewinds r.counter r'.counter then report s1 (cmdReport Code.evRngRewind corrected e 0 core []) else s1, .atOnce okOutcome)

/-- A row of OP_RNG_SEEK; a reserved MODE is rejected by any of the rows. -/
def seekRow (e : Entry) (mode : Nat) : OpRow :=
  let d := e.desc
  { row := opcode d == 0x0601 && (seekMode d == mode || seekMode d == 3)
    reserved := seekMode d == 3 || fld d 262 250 != 0 || (seekMode d != 0 && fld d 70 64 != 0)
    classes := [0, 1]
    prep := fun _ _ => .go []
    due := .ctx
    run := runSeek e }

/-- OP_RNG_SEEK SET (R359). -/
def execOpRngSeekSet (e : Entry) (s : State) : Host.Outcome State Fault Refusal := .next (issueCmd s e (seekRow e 0))

/-- OP_RNG_SEEK ADD (R359). -/
def execOpRngSeekAdd (e : Entry) (s : State) : Host.Outcome State Fault Refusal := .next (issueCmd s e (seekRow e 1))

/-- OP_RNG_SEEK CHECK (R359). -/
def execOpRngSeekCheck (e : Entry) (s : State) : Host.Outcome State Fault Refusal := .next (issueCmd s e (seekRow e 2))

end Sys2Proof.Machine
end

