-- ==== Sys2Proof/Machine/Agent.lean ====
section
/-! DEFINITION. The requesting side of the memory-semantic agent: fabric queues, answers, the cache of shared lines
(R271, R275-R283). -/

namespace Sys2Proof.Machine

/-! ### Queues and messages -/

/-- The key of a context's fabric queue. -/
def fqKey (c : CtxId) (q : Fin 4) : Nat := 4 * CtxId.key c + q.val

/-- A fabric queue. -/
def getFq (s : State) (c : CtxId) (q : Fin 4) : FQueue := Tbl.get {} s.msf.queues (fqKey c q)

/-- Replaces a fabric queue. -/
def setFq (s : State) (c : CtxId) (q : Fin 4) (x : FQueue) : State :=
  { s with msf := { s.msf with queues := Tbl.set {} s.msf.queues (fqKey c q) x } }

/-- The base and LOG2 of a queue that the context has declared (Table 13.4). -/
def fqDecl (s : State) (c : CtxId) (q : Fin 4) : Option (Nat × Nat) :=
  match (getCtx s c).desc.fq[q.val]? with
  | some (b, l) => if l = 0 then none else some (b.toNat, l.toNat)
  | none => none

/-- The context to which a job tag is bound (R261, R270). -/
def tagCtx (s : State) (jtag : BitVec 16) : Option CtxId := (bindOfTag s jtag).map (fun b => ⟨b.part, b.ctx⟩)

/-- Sends a message of an agent or gateway to a device on a plane (R280). -/
def sendMsf (s : State) (unit : BitVec 4) (plane : XDie) (dst : Coord) (m : MsfMsg) : State :=
  sendCtl s m.jtag unit m.isReply dst plane (msfBody m)

/-- The plane of a line: that of its directory entry and of the requests for it (R280, R281). -/
def linePlane (addr : Nat) : XDie := Fin.ofNat 2 (addr / 128)

/-- What the data packets of an agent's or gateway's message carry beside their bytes (Table 11.4, R275). -/
def msfHead (unit : BitVec 4) (reply : Bool) (sid : BitVec 16) (cpn : Bool) (port : RlPort) : DataHead :=
  { unit := unit, reply := reply, sid := sid, sub := BitVec.ofNat 8 (pack [(0, b2n cpn), (1, port.val)]) }

/-- Sends a message with the bytes that follow it, and what ends them. What may not go is reported (R263, R266). -/
def sendWith (s : State) (c : CtxId) (plane : XDie) (dst : Coord) (h : DataHead) (m : MsfMsg) (data : Bytes) (tail : Option MsfMsg) :
    State :=
  let refused := if data.isEmpty then none else dataRefused s c dst plane (ceilDiv data.length (packetBytes s dst plane))
  match refused with
  | some r => report s r
  | none =>
    let t := sendRun (sendMsf s h.unit plane dst m) c dst plane h 0 true data
    match tail with
    | some e => sendMsf t h.unit plane dst e
    | none => t

/-- The queue in a SID (R275). -/
def sidQ (sid : BitVec 16) : Fin 4 := Fin.ofNat 4 (sid.toNat / 2 ^ 14)

/-- A change of the requester part of a context's sequence state goes to the protector (R348). -/
def noteSeq (s : State) (c : CtxId) (key : Nat) (seq : BitVec 14) : State :=
  mirror s c.part (mirrorAt 6 (2 * key)) (leBytes 2 seq.toNat)

/-- A report of an agent about a context (Table 19.4, unit 12). -/
def msfReport (code : BitVec 16) (cls : Fin 5) (c : CtxId) (die : Nat) (detail : List (BitVec 32)) : Report :=
  ctxReport code cls c 12 die detail

/-! ### The cache of shared lines (R281, R282) -/

/-- Lines in a die's cache (R281). -/
def cacheLines : Nat := 32768

/-- Two names of one line. -/
def sameLine (home : Coord) (line : Nat) (x : CLine) : Bool := x.home == home && x.line == line

/-- The copy of a line in a die's cache. -/
def cacheFind (s : State) (home : Coord) (line : Nat) : Option CLine :=
  (getXd s (Fin.ofNat 2 line)).cache.find? (sameLine home line)

/-- Keeps a copy of a line; a full cache evicts its least recent line and sends PUTS (R282, which line: DESIGN CHOICE). -/
def cacheKeep (s : State) (home : Coord) (line : Nat) (data : Bytes) : State :=
  let die : XDie := Fin.ofNat 2 line
  let x := getXd s die
  let l := x.cache.filter (fun y => !sameLine home line y)
  let new : CLine := { home := home, line := line, data := data }
  match l with
  | old :: t =>
    if l.length < cacheLines then setXd s die { x with cache := l ++ [new] }
    else sendMsf (setXd s die { x with cache := t ++ [new] }) 3 die old.home (.puts (old.line * 128))
  | [] => setXd s die { x with cache := [new] }

/-- Drops a copy, and forbids keeping the line of a read in progress. -/
def cacheDrop (s : State) (home : Coord) (line : Nat) : State :=
  let die : XDie := Fin.ofNat 2 line
  let x := getXd s die
  let s1 := setXd s die { x with cache := x.cache.filter (fun y => !sameLine home line y) }
  let mark := fun (r : FReq) => if r.req.shared ∧ r.dst = home ∧ r.req.addr.toNat / 128 = line then { r with stale := true } else r
  { s1 with msf := { s1.msf with queues := s1.msf.queues.map (fun e => (e.1, { e.2 with reqs := e.2.reqs.map mark })) } }

/-- INV: a home takes a shared line back; the copy is dropped and INVACK goes at once (Table 12.4). -/
def execInv (die : XDie) (home : Coord) (addr : BitVec 44) (s : State) : Host.Outcome State Fault Refusal :=
  if unitsRun s ∧ addr.toNat / 128 % 2 = die.val then
    .next (sendMsf (cacheDrop s home (addr.toNat / 128)) 3 (linePlane addr.toNat) home (.invack addr.toNat))
  else .next s

/-! ### Completing records (R276, R279) -/

/-- The address of a queue's record. -/
def recAddr (base log2 : Nat) (i : BitVec 32) : Nat := base + 128 + 64 * (i.toNat % 2 ^ log2)

/-- A write of the agent for a context; a failure is reported for it. -/
def agentWrite (s : State) (c : CtxId) (a : Nat) (bs : Bytes) : State :=
  match writeUni s c.part a bs with
  | .ok t => t
  | .error code => report s (msfReport code contextFatal c 0 [])

/-- STATUS, RESULT (DUPLICATE keeps what is there) and then DONE of a record. -/
def markDone (s : State) (c : CtxId) (q : Fin 4) (i : BitVec 32) (status : BitVec 8) (result : BitVec 64) : State :=
  match fqDecl s c q with
  | none => s
  | some (base, log2) =>
    let a := recAddr base log2 i
    let s1 := agentWrite s c (a + 2) [status]
    let s2 := if status = 8 then s1 else agentWrite s1 c (a + 55) (leBytes 8 result.toNat)
    match readUni s2 c.part (a + 1) 1 with
    | .ok b => agentWrite s2 c (a + 1) (leBytes 1 (leNat b ||| 2))
    | .error code => report s2 (msfReport code contextFatal c 0 [])

/-- HEAD passes the records that are done, up to TAIL at the restart mark in a protected context (R271, R341). -/
def headPast : Nat → FQueue → FQueue
  | 0, x => x
  | n + 1, x => if x.done.contains x.head ∧ x.markTail ≠ some x.head then
      headPast n { x with head := x.head + 1, done := x.done.filter (· != x.head) } else x

/-- HEAD advances and is written to the control line. -/
def advanceHead (s : State) (c : CtxId) (q : Fin 4) : State :=
  let x := getFq s c q
  let y := headPast x.done.length x
  if y = x then s
  else
    let s1 := setFq s c q y
    match fqDecl s c q with
    | some (base, _) => agentWrite s1 c (base + 64) (leBytes 4 y.head.toNat)
    | none => s1

/-- Records of a queue complete: their fields, then HEAD; a status other than OK and DUPLICATE stops the queue and is
CONTEXT_FATAL (R276, R279). -/
def doneRecs (s : State) (c : CtxId) (q : Fin 4) (recs : List (BitVec 32)) (status : BitVec 8) (result : BitVec 64) : State :=
  let x := getFq s c q
  let bad : Bool := status != 0 && status != 8
  let s1 := setFq s c q { x with done := x.done ++ recs, stopped := x.stopped || bad }
  let s2 := recs.foldl (fun t i => markDone t c q i status result) s1
  let s3 := advanceHead s2 c q
  if bad then
    let code := if status = 2 ∨ status = 3 then Code.eMsfReq else if status = 7 then Code.eMsfHang else Code.eMsfFail
    let i : BitVec 32 := (recs.head?).getD 0
    report s3 (msfReport code contextFatal c 0 [BitVec.ofNat 32 q.val, i, status.setWidth 32])
  else s3

/-- A request is answered for good: it leaves the queue, and its records complete unless another request of the same
gathered WRITEs is still out. -/
def endReq (s : State) (c : CtxId) (q : Fin 4) (r : FReq) (status : BitVec 8) (result : BitVec 64) : State :=
  let x := getFq s c q
  let rest := removeFirst (fun y => y.sid == r.sid && y.dst == r.dst) x.reqs
  -- what has failed stays failed, whatever the other requests of the same records come to
  let left := if status = 0 then rest else rest.map (fun y => { y with recs := y.recs.filter (fun i => !r.recs.contains i) })
  let recs := r.recs.filter (fun i => !x.done.contains i && !left.any (fun y => y.recs.contains i))
  doneRecs (setFq s c q { x with reqs := left }) c q recs status result

/-- The bytes that a request brings go to LADDR before it completes. -/
def landReq (s : State) (c : CtxId) (q : Fin 4) (r : FReq) (data : Bytes) : State :=
  match writeUni s c.part r.laddr data with
  | .error code => report s (msfReport code contextFatal c 0 [])
  | .ok t => endReq t c q r 0 0

/-- Replaces a request of a queue. -/
def putReq (s : State) (c : CtxId) (q : Fin 4) (r : FReq) : State :=
  let x := getFq s c q
  setFq s c q { x with reqs := replaceFirst (fun y => y.sid == r.sid && y.dst == r.dst) (fun _ => r) x.reqs }

/-- A bulk read whose data and BEND have both come: the CRC decides (R283). -/
def checkGet (s : State) (c : CtxId) (q : Fin 4) (r : FReq) : State :=
  match r.rsp, r.bend with
  | some m, some (n, crc) =>
    if m.data.length = n.toNat ∧ n = r.req.len ∧ crc32c m.data = crc then landReq s c q r m.data
    else if r.failed then endReq s c q r 6 0
    else sendMsf (putReq s c q { r with rsp := none, bend := none, failed := true }) 4 (Fin.ofNat 2 r.dst.toNat) r.dst (.bresend r.req.jtag r.sid)
  | _, _ => putReq s c q r

/-- A request of a queue by the device that answers and its SID. -/
def findReq (s : State) (c : CtxId) (src : Coord) (sid : BitVec 16) : Option FReq :=
  (getFq s c (sidQ sid)).reqs.find? (fun r => r.sid == sid && (r.dst == src || physOf s r.dst == src))

/-- An answer reaches a context's queue (R276, R277, R283). -/
def ctxRsp (s : State) (c : CtxId) (m : RspMsg) : State :=
  let q := sidQ m.sid
  match findReq s c m.src m.sid with
  | none => s
  | some r =>
    if m.status ≠ 0 then endReq s c q r m.status m.result
    else
      match r.req.op with
      | .bulkGet => checkGet s c q { r with rsp := some m }
      | .read =>
        let data := m.data.take 128
        let s1 := if r.req.shared && !r.stale then cacheKeep s r.dst (r.req.addr.toNat / 128) data else s
        landReq s1 c q r data
      | _ => endReq s c q r 0 m.result

/-- A companion's request, by its port, the device that answers and its SID. -/
def isCpn (s : State) (port : RlPort) (src : Coord) (sid : BitVec 16) (x : CpnReq) : Bool :=
  x.port == port && x.sid == sid && (x.dst == src || physOf s x.dst == src)

/-- An answer goes to the companion that asked; where the gateway has split its request, once the last part is answered, or with
the first failure. -/
def cpnRsp (s : State) (m : RspMsg) : State :=
  match s.msf.cpn.find? (isCpn s m.cpnPort m.src m.sid) with
  | none => s
  | some x =>
    let rest := removeFirst (isCpn s m.cpnPort m.src m.sid) s.msf.cpn
    let mate := fun (y : CpnReq) => y.port == x.port && y.group == x.group && y.dst == x.dst
    let ok : Bool := m.status == 0 || m.status == 8
    if ok && rest.any mate then { s with msf := { s.msf with cpn := rest } }
    else send { s with msf := { s.msf with cpn := rest.filter (fun y => !mate y) } } (.companion m.cpnPort (.rsp { m with sid := x.group }))

/-- RSP (R276). -/
def execRsp (m : RspMsg) (s : State) : Host.Outcome State Fault Refusal :=
  if unitsRun s then
    if m.cpn then .next (cpnRsp s m)
    else
      match tagCtx s m.jtag with
      | some c => .next (coherentLate (.rsp m) (fun t => ctxRsp t c m) s)
      | none => .next s
  else .next s

/-! ### BUSY (R277) -/

/-- A request has found no order entry: it goes again 8 µs later. BUSY does not tell a companion's request from one of
queue 0; the queue is looked at first (DESIGN CHOICE). -/
def acceptBusy (s : State) (c : Option CtxId) (src : Coord) (sid : BitVec 16) : State :=
  let at8 := some (s.now + 8000)
  match c.bind (fun c => (findReq s c src sid).map (fun r => (c, r))) with
  | some (c, r) => putReq s c (sidQ sid) { r with retry := at8 }
  | none =>
    let hit := fun (x : CpnReq) => x.sid == sid && (x.dst == src || physOf s x.dst == src)
    { s with msf := { s.msf with cpn := replaceFirst hit (fun x => { x with retry := at8 }) s.msf.cpn } }

/-- BUSY. -/
def execBusy (src : Coord) (jtag : BitVec 16) (sid : BitVec 16) (s : State) : Host.Outcome State Fault Refusal :=
  if unitsRun s then .next (acceptBusy s (tagCtx s jtag) src sid) else .next s

/-- MSF_HANG: a request has not completed within HANG_MS of resident time (R278). -/
def execMsfHang (cid : CtxId) (q : Fin 4) (sid : BitVec 16) (s : State) : Host.Outcome State Fault Refusal :=
  match (getFq s cid q).reqs.find? (fun r => r.sid == sid) with
  | some r =>
    if unitsRun s ∧ r.since + hangNs s cid ≤ residentClock s cid then .next (coherentLate (.msfHang cid q sid) (fun t => endReq t cid q r 7 0) s)
    else .next s
  | none => .next s

end Sys2Proof.Machine
end

