-- ==== Sys2Proof/Machine/Directory.lean ====
section
/-! DEFINITION. The tray directory (R281, R282, Table 12.5). -/

namespace Sys2Proof.Machine

/-- The tray directory's entries on a die (R281). -/
def dirSize : Nat := 131072

/-- No INVACK is awaited and no RECALL is in progress. -/
def DirEnt.quiet (e : DirEnt) : Bool := e.acks == 0 && e.recalling.isNone

/-- The entry holds nothing: state U. -/
def DirEnt.dead (e : DirEnt) : Bool := e.quiet && (match e.st with | .shared v => v == 0 | .modified _ => false)

/-- The entry's line lies in a run of device-local bytes. -/
def DirEnt.within (e : DirEnt) (a n : Nat) : Bool := decide (a < (e.line + 1) * 128) && decide (e.line * 128 < a + n)

/-- Frees the entries in state U. -/
def sweepDir (s : State) : State := { s with msf := { s.msf with dir := s.msf.dir.filter (fun e => !e.dead) } }

/-- Replaces an entry. -/
def putDir (s : State) (e : DirEnt) : State :=
  { s with msf := { s.msf with dir := replaceFirst (fun y => y.line == e.line) (fun _ => e) s.msf.dir } }

/-- An entry becomes the most recent, or a new one stands there. -/
def freshDir (s : State) (e : DirEnt) : State :=
  { s with msf := { s.msf with dir := s.msf.dir.filter (fun y => y.line != e.line) ++ [e] } }

/-- The kinds of access of Table 12.5. -/
inductive Access where
  | plain | cached (h : Holder) | owning (h : Holder) | writing
  deriving DecidableEq, Repr

/-- Sends INV to every sharer but `keep`, and awaits their INVACKs. -/
def invSharers (s : State) (e : DirEnt) (v : BitVec 7) : State :=
  putDir ((holdersOf v).foldl (fun t h => toHolder t h e.line (.inv (e.line * 128))) s) { e with acks := v }

/-- The bit of a holder. -/
def holderBit (h : Holder) : BitVec 7 := BitVec.ofNat 7 (2 ^ h.val)

/-- Starts what an access needs of an entry (Table 12.5); `true` when nothing is left to wait for. -/
def dirStart (s : State) (e : DirEnt) (a : Access) : State × Bool :=
  if !e.quiet then (s, false)
  else
    match a, e.st with
    | .plain, .shared _ => (s, true)
    | .cached _, .shared _ => (s, true)
    | .owning h, .shared v => let w := v &&& ~~~(holderBit h); if w = 0 then (s, true) else (invSharers s e w, false)
    | .writing, .shared v => if v = 0 then (s, true) else (invSharers s e v, false)
    | .owning _, .modified _ => (startRecall s e false, false)
    | .writing, .modified _ => (startRecall s e false, false)
    | .plain, .modified _ => (startRecall s e true, false)
    | .cached _, .modified _ => (startRecall s e true, false)

/-- Entries in use on a die. -/
def dirCount (s : State) (die : Nat) : Nat := (s.msf.dir.filter (fun e => e.line % 2 == die && !e.dead)).length

/-- A line needs an entry and its die has none free: the least recent entry is invalidated or recalled (R282). -/
def evictDir (s : State) (die : Nat) : State :=
  match s.msf.dir.find? (fun e => e.line % 2 == die && e.quiet && !e.dead) with
  | none => s
  | some e =>
    let x := getXd s (Fin.ofNat 2 die)
    let s1 := setXd s (Fin.ofNat 2 die) { x with msfBackinv := satAdd x.msfBackinv 1 }
    match e.st with
    | .shared v => invSharers s1 e v
    | .modified _ => startRecall s1 e false

/-- Every line of a run is ready for an access; what is missing has been started. A new entry needs room on its die. -/
def dirReady (s : State) (a n : Nat) (k : Access) : State × Bool :=
  let r := (s.msf.dir.filter (fun e => e.within a n)).foldl (fun q e => let x := dirStart q.1 e k; (x.1, q.2 && x.2)) (s, true)
  let needs : Bool := match k with | .cached _ => true | .owning _ => true | _ => false
  let die := a / 128 % 2
  if r.2 && needs && !(s.msf.dir.any (fun e => e.within a n)) && decide (dirSize ≤ dirCount r.1 die) then
    -- an eviction in progress is waited for
    if r.1.msf.dir.any (fun e => e.line % 2 == die && !e.quiet) then (r.1, false) else (evictDir r.1 die, false)
  else r

/-- The entries after an access has been performed (Table 12.5). -/
def dirAfter (s : State) (a n : Nat) (k : Access) : State :=
  let l := a / 128
  let old := s.msf.dir.find? (fun e => e.line == l)
  match k with
  | .plain => match old with | some e => freshDir s e | none => s
  | .cached h =>
    let v : BitVec 7 := match old with | some e => (match e.st with | .shared v => v | .modified o => holderBit o) | none => 0
    freshDir s { line := l, st := .shared (v ||| holderBit h), acks := 0, recalling := none }
  | .owning h => freshDir s { line := l, st := .modified h, acks := 0, recalling := none }
  | .writing =>
    { s with msf := { s.msf with dir := s.msf.dir.filter (fun e => !e.within a n) } }

/-! ### Answers of holders -/

/-- The entry of a line. -/
def dirFind (s : State) (addr : Nat) : Option DirEnt := s.msf.dir.find? (fun e => e.line == addr / 128)

/-- A companion's answer for a line of another home goes on to it, with the bytes that follow, under JTAG 0 (Table 12.4). -/
def passHolder (s : State) (h : Holder) (home : Coord) (addr : Nat) (m : MsfMsg) (data : Option Bytes) : State :=
  let pl := linePlane addr
  let t := sendMsf s 3 pl home m
  match data with
  | some d => sendPkt t (sealPacket (dataPacket t 0 0 false (if forMe t home then home else physOf t home) pl
      (msfHead 3 m.isReply 0 (decide (5 ≤ h.val)) (Fin.ofNat 2 (h.val - 5))) 0 true 0 (d.take 128)) none)
  | none => t

/-- Data of a modified line goes back to memory, for the partition that owns its page. -/
def lineBack (s : State) (addr : Nat) (data : Bytes) : State :=
  let a := addr / 128 * 128
  match pageIndex a with
  | none => s
  | some i => match writeHome s (getPte s i).part a (data.take 128) with | .ok t => t | .error _ => s

/-- A sharer's INVACK (Table 12.5). -/
def ackInv (s : State) (h : Holder) (addr : Nat) : State :=
  match dirFind s addr with
  | some e =>
    match e.st with
    | .shared v => putDir s { e with st := .shared (v &&& ~~~(holderBit h)), acks := e.acks &&& ~~~(holderBit h) }
    | .modified _ => s
  | none => s

/-- A recall ends with data: KEEP 1 leaves a shared copy at the owner. -/
def endRecall (s : State) (e : DirEnt) (keep : Bool) (o : Holder) (addr : Nat) (data : Bytes) : State :=
  putDir (lineBack s addr data) { e with st := .shared (if keep then holderBit o else 0), recalling := none }

/-- The owner's reply to RECALL; one without data is ignored, since the data came, or will come, with PUTM. -/
def ackRecall (s : State) (h : Holder) (addr : Nat) (data : Option Bytes) : State :=
  match dirFind s addr, data with
  | some e, some d =>
    match e.st, e.recalling with
    | .modified o, some keep => if o = h then endRecall s e keep o addr d else s
    | _, _ => s
  | _, _ => s

/-- A sharer gives its copy up. -/
def takePuts (s : State) (h : Holder) (addr : Nat) : State :=
  match dirFind s addr with
  | some e => match e.st with | .shared v => putDir s { e with st := .shared (v &&& ~~~(holderBit h)) } | .modified _ => s
  | none => s

/-- The owner writes its line back; during a recall the data is the recall's reply. -/
def takePutm (s : State) (h : Holder) (addr : Nat) (data : Bytes) : State :=
  match dirFind s addr with
  | some e =>
    match e.st with
    | .modified o => if o = h then endRecall s e (e.recalling.getD false) o addr data else s
    | .shared _ => s
  | none => s

end Sys2Proof.Machine
end

