-- ==== Sys2Proof/Machine/Target.lean ====
section
/-! DEFINITION. The target side of the memory-semantic agent: order entries and the effect of each operation (R270-R277,
R283). -/

namespace Sys2Proof.Machine

/-! ### The operations (Table 12.3) -/

/-- Bytes that an operation touches at the target. -/
def reqBytes (m : ReqMsg) : Nat :=
  match m.op with
  | .read => 128
  | .write => 128
  | .add32 => 4
  | .addAl48 => 100
  | .bulkGet => m.len.toNat
  | .bulkPut => m.data.length
  | _ => 8

/-- The new value of an atomic on 64 bits, from the old value, OPERAND and OPERAND2. -/
def atomicNew (op : MsfOp) (v a b : BitVec 64) : BitVec 64 :=
  match op with
  | .add64 => v + a
  | .and64 => v &&& a
  | .or64 => v ||| a
  | .xor64 => v ^^^ a
  | .smax64 => if v.slt a then a else v
  | .smin64 => if a.slt v then a else v
  | .umax64 => if v.ult a then a else v
  | .umin64 => if a.ult v then a else v
  | .swap64 => a
  | .cas64 => if v = a then b else v
  | _ => v

/-- The combination of an incoming AL48 record with a stored one; `none` completes with status AL48 (R273). -/
def al48Combine (s i : Al48) : Option Al48 :=
  if i.empty then some s
  else if s.empty ∨ (s.gexp = 0 ∧ s.n.all (· == 0)) then some i
  else if i.gexp = s.gexp ∧ i.gexp ≠ 0xFF then
    let sum := (s.n.zip i.n).map (fun q => q.1 + q.2)
    let over48 := fun (z : Int) => decide (z < -(2 ^ 47)) || decide (2 ^ 47 ≤ z)
    let bits := (sum.zipIdx).foldl (fun a q => if over48 q.1 then a ||| 2 ^ q.2 else a) 0
    some { s with nan := s.nan ||| i.nan ||| bits, n := sum.map (fun z => if over48 z then 0 else z) }
  else none

/-- The runs of a line's bytes whose BMASK bit is set: (offset, bytes). -/
def maskRuns (mask : BitVec 128) (data : Bytes) : List (Nat × Bytes) :=
  (upto 128).foldl (fun l i =>
    if mask.getLsbD i then
      let b := nth 0 data i
      match l.getLast? with
      | some (o, bs) => if o + bs.length = i then l.dropLast ++ [(o, bs ++ [b])] else l ++ [(i, [b])]
      | none => [(i, [b])]
    else l) []

/-- What an application answers: STATUS, RESULT and data. -/
structure Answer where
  status : BitVec 8 := 0
  result : BitVec 64 := 0
  data : Bytes := []
  deriving DecidableEq, Repr

/-- A request that may touch no memory: DENIED, or POISON for a poisoned piece; the target's own context sees the attempt
(R270). A failure of a lease is reported with its own code as well (R230). -/
def deny (s : State) (c : CtxId) (m : ReqMsg) (code : BitVec 16) : State × Answer :=
  let die := m.addr.toNat / 128 % 2
  let s1 := report s (msfReport Code.eMsfDenied deferred c die (detail64 m.addr.toNat))
  let lease : Bool := code != Code.eMemRange && code != Code.eMemFirewall && code != Code.eMemUnbacked && code != Code.eMemPoison
  let s2 := if lease then report s1 (msfReport code contextFatal c die []) else s1
  (s2, { status := if code = Code.eMemPoison then 5 else 1 })

/-- Writes runs of bytes at the target, all or none. -/
def writeRuns (s : State) (p : PartI) (a : Nat) (l : List (Nat × Bytes)) : Except (BitVec 16) State :=
  l.foldl (fun t r => match t with | .error e => .error e | .ok u => writeHome u p (a + r.1) r.2) (.ok s)

/-- Where runs of bytes of a line lie. -/
def runPlaces (a : Nat) (l : List (Nat × Bytes)) : List (Nat × Nat) := l.map (fun r => (a + r.1, r.2.length))

/-- Why bytes may not be written for a request although they are backed: a poisoned piece (R270); or they wait, for lines that others
hold or pieces still to rebuild. -/
def putRefused (s : State) (p : PartI) (l : List (Nat × Nat)) : Option (BitVec 16) :=
  l.findSome? (fun r =>
    match places s p r.1 r.2 with
    | .error code => some code
    | .ok ps =>
      if ps.any (fun q => poisoned s q.1 q.2) then some Code.eMemPoison
      else if heldElsewhere s p r.1 r.2 then some Code.cohWrite
      else none)

/-- A request is applied at the target's memory (R270, R272, R273). -/
def applyReq (s : State) (c : CtxId) (m : ReqMsg) : State × Answer :=
  let a := m.addr.toNat
  let p := c.part
  let wrote := fun (r : Except (BitVec 16) State) (x : Answer) =>
    match r with
    | .ok t => (t, x)
    | .error code => deny s c m code
  match m.op with
  | .write =>
    match places s p a 128, putRefused s p (runPlaces a (maskRuns m.bmask m.data)) with
    | .error code, _ => deny s c m code
    | _, some code => deny s c m code
    | .ok _, none => wrote (writeRuns s p a (maskRuns m.bmask m.data)) {}
  | .bulkPut =>
    match putRefused s p [(a, m.data.length)] with
    | some code => deny s c m code
    | none => wrote (writeHome s p a m.data) {}
  | _ =>
    match readUni s p a (reqBytes m) with
    | .error code => deny s c m code
    | .ok old =>
      match m.op with
      | .read => (s, { data := old })
      | .bulkGet => (s, { data := old })
      | .add32 =>
        let v : BitVec 32 := BitVec.ofNat 32 (leNat old)
        wrote (writeHome s p a (leBytes 4 (v + m.operand.setWidth 32).toNat)) { result := v.setWidth 64 }
      | .addAl48 =>
        match al48Combine (al48Of old) (al48Of (m.data.take 100)) with
        | some g => if (al48Of (m.data.take 100)).empty then (s, {}) else wrote (writeHome s p a (al48Bytes g)) {}
        | none => (s, { status := 4 })
      | op =>
        let v : BitVec 64 := BitVec.ofNat 64 (leNat old)
        wrote (writeHome s p a (leBytes 8 (atomicNew op v m.operand m.operand2).toNat)) { result := v }

/-- The access of Table 12.5 that a request is. Only a request of space 1 is read for a cache, and only a companion reads
for ownership. -/
def reqAccess (m : ReqMsg) : Access :=
  match m.op with
  | .read =>
    if m.own && m.cpn && m.space == 1 then .owning (Fin.ofNat 7 (5 + m.cpnPort.val))
    else if m.shared && m.space == 1 then .cached (if m.cpn then Fin.ofNat 7 (5 + m.cpnPort.val) else Fin.ofNat 7 (cSlot m.src))
    else .plain
  | .bulkGet => .plain
  | _ => .writing

/-! ### Order entries (R275, R277) -/

/-- The ordering key of a request. -/
def ordKey (m : ReqMsg) : OrdKey :=
  { src := m.src, jtag := m.jtag, cpn := m.cpn, port := if m.cpn then m.cpnPort else 0, q := sidQ m.sid }

/-- The SEQ in a SID. -/
def sidSeq (sid : BitVec 16) : BitVec 14 := sid.setWidth 14

/-- The order entry of a key. -/
def findOrd (s : State) (k : OrdKey) : Option OrdEnt := s.msf.order.find? (fun o => o.key == k)

/-- Replaces an order entry. -/
def putOrd (s : State) (o : OrdEnt) : State :=
  { s with msf := { s.msf with order := replaceFirst (fun x => x.key == o.key) (fun _ => o) s.msf.order } }

/-- An ordering key as a number, in the sequence state that goes to the protector. -/
def OrdKey.num (k : OrdKey) : Nat := pack [(0, k.src.toNat), (17, k.jtag.toNat), (33, b2n k.cpn), (34, k.port.val), (35, k.q.val)]

/-- The die whose agent serves a request: that of its line, for bulk that of this device's coordinate (R280, R281). -/
def reqDie (s : State) (m : ReqMsg) : XDie :=
  match m.op with
  | .bulkGet => Fin.ofNat 2 (servedCoord s).toNat
  | .bulkPut => Fin.ofNat 2 (servedCoord s).toNat
  | _ => Fin.ofNat 2 (m.addr.toNat / 128)

/-- An answer goes to its requester: another device, with its data in packets that for a bulk read end with BEND, a companion of
this device, or a context of this device (R276, R280, R283). -/
def answer (s : State) (c : CtxId) (k : OrdKey) (plane : XDie) (m : RspMsg) (op : MsfOp) : State :=
  if !forMe s k.src then
    let h := msfHead (if isBulk op then 4 else 3) true m.sid m.cpn m.cpnPort
    let tail := if op = .bulkGet ∧ m.status = 0 then some (.bend k.jtag m.sid m.data.length (crc32c m.data)) else none
    sendWith s c plane k.src h (.rsp m) m.data tail
  else if k.cpn then cpnRsp s m
  else
    match op, findReq s c m.src m.sid with
    | .bulkGet, some r => ctxRsp (putReq s c (sidQ m.sid) { r with bend := some (BitVec.ofNat 40 m.data.length, crc32c m.data) }) c m
    | _, _ => ctxRsp s c m

/-- The requests that wait for a line before this one touch one of its lines. -/
def behindOther (s : State) (k : OrdKey) (a n : Nat) : Bool :=
  (s.msf.waiting.takeWhile (· != k)).any (fun j =>
    match (findOrd s j).bind (·.cur) with
    | some m => decide (m.addr.toNat / 128 * 128 < a + n) && decide (a < (m.addr.toNat + reqBytes m + 127) / 128 * 128)
    | none => false)

/-- The next early arrival takes its turn. -/
def OrdEnt.nextUp (o : OrdEnt) : OrdEnt :=
  match o.cur, o.high with
  | none, some h =>
    match o.held.find? (fun m => sidSeq m.sid == h + 1) with
    | some m => { o with cur := some m, held := removeFirst (fun x => sidSeq x.sid == h + 1) o.held }
    | none => o
  | _, _ => o

/-- An order entry's record in the protector's copy: present, highest SEQ, and the stored answers (R348). -/
def ordBytes (o : OrdEnt) : Bytes :=
  [1] ++ leBytes 2 (o.high.getD 0).toNat ++ leBytes 1 o.rsps.length ++ leBytes 60 o.die.val ++
  o.rsps.flatMap (fun r => leBytes 48 (pack [(0, r.sid.toNat), (16, r.status.toNat), (24, r.result.toNat), (88, b2n r.cpn), (89, r.cpnPort.val)]))

/-- A change of the target part of a context's sequence state goes to the protector (R348). -/
def noteOrd (s : State) (o : OrdEnt) : State :=
  mirror s o.cid.part (mirrorAt 7 (CtxId.key o.cid * 2 ^ 50 + o.key.num * 4096)) (ordBytes o)

/-- The freeing of an order entry goes to the protector too (R348). -/
def dropOrd (s : State) (o : OrdEnt) : State :=
  mirror s o.cid.part (mirrorAt 7 (CtxId.key o.cid * 2 ^ 50 + o.key.num * 4096)) (List.replicate 64 0)

/-- The request in service has been applied: its answer is kept and sent, and the next one takes its turn. -/
def settleOrd (s : State) (o : OrdEnt) (m : ReqMsg) (x : Answer) : State :=
  let r : RspMsg := { src := servedCoord s, jtag := m.jtag, sid := m.sid, status := x.status, result := x.result, cpn := m.cpn,
                      cpnPort := m.cpnPort, data := x.data }
  let o' := { o with high := some (sidSeq m.sid), rsps := (r :: o.rsps).take 64, cur := none
                     good := o.good.filter (· != m.sid), once := o.once.filter (· != m.sid), bad := o.bad.filter (· != m.sid) }
  let s1 := putOrd { s with msf := { s.msf with waiting := s.msf.waiting.filter (· != o.key) } } o'.nextUp
  answer (noteOrd s1 o'.nextUp) o.cid o.key (reqDie s m) r m.op

/-- A key's requests are served as far as they can be: in SEQ order, each when its lines are ready (R275, R281). -/
def serveKey : Nat → State → OrdKey → State
  | 0, s, _ => s
  | n + 1, s, k =>
    match findOrd s k with
    | none => s
    | some o =>
      match o.cur with
      | none => s
      | some m =>
        let a := m.addr.toNat
        let bulk : Bool := m.op == .bulkPut
        if bulk && o.bad.contains m.sid then serveKey n (settleOrd s o m { status := 6 }) k
        else if bulk && !o.good.contains m.sid && !forMe s k.src then s
        else
          let w := { s with msf := { s.msf with waiting := if s.msf.waiting.contains k then s.msf.waiting else s.msf.waiting ++ [k] } }
          if behindOther s k a (reqBytes m) then w
          else
            let r := dirReady w a (reqBytes m) (reqAccess m)
            if r.2 then
              let x := applyReq r.1 o.cid m
              let t := if x.2.status = 0 then dirAfter x.1 a (reqBytes m) (reqAccess m) else x.1
              serveKey n (settleOrd t o m x.2) k
            else r.1

/-- Room for every request that may wait at one key. -/
def serveFuel : Nat := 16385

/-- The requests that wait for lines are looked at again, in order of arrival. -/
def serveWaiting (s : State) : State :=
  sweepDir (s.msf.waiting.foldl (fun t k => serveKey serveFuel t k) s)

/-- BUSY goes to a requester that finds no free order entry. -/
def answerBusy (s : State) (m : ReqMsg) (die : XDie) : State :=
  let x := getXd s die
  let s1 := setXd s die { x with msfBusy := satAdd x.msfBusy 1 }
  if forMe s m.src then acceptBusy s1 (if m.cpn then none else tagCtx s m.jtag) (servedCoord s) m.sid
  else sendMsf s1 (if isBulk m.op then 4 else 3) die m.src (.busy m.jtag m.sid)

/-- A request of a key with an order entry (R275, R277). `d` is its SEQ's distance from the highest applied. -/
def ordTake (s : State) (o : OrdEnt) (m : ReqMsg) : State :=
  let h := o.high.getD 0
  let d := (sidSeq m.sid - h).toNat
  let o1 := { o with lastAt := s.now }
  let again := fun (x : ReqMsg) => x.sid == m.sid
  if d = 0 ∨ 2 ^ 13 ≤ d then
    let s1 := putOrd s o1
    match o.rsps.find? (fun r => r.sid == m.sid) with
    | some r => answer s1 o.cid o.key (reqDie s m) r m.op
    | none =>
      let r : RspMsg := { src := servedCoord s, jtag := m.jtag, sid := m.sid, status := 8, result := 0, cpn := m.cpn
                          cpnPort := m.cpnPort, data := [] }
      answer s1 o.cid o.key (reqDie s m) r m.op
  else if o.cur.any again ∨ o.held.any again then
    -- a bulk transfer that is sent again brings its bytes anew
    if m.op = .bulkPut ∧ o.once.contains m.sid then
      putOrd s { o1 with cur := o.cur.map (fun x => if again x then m else x), held := o.held.map (fun x => if again x then m else x) }
    else putOrd s o1
  else
    let o2 := { o1 with held := o.held ++ [m] }
    serveWaiting (serveKey serveFuel (putOrd s o2.nextUp) o.key)

/-- The SEQ before the next one of a key that takes a new order entry: what was applied before its last entry was freed. A key
without such a record counts from 0 while its first arrival may be an early one, which at most 64 unanswered requests allow;
otherwise it begins with that arrival (DESIGN CHOICE, log 102). -/
def ordBase (s : State) (m : ReqMsg) : BitVec 14 :=
  match s.msf.highs.find? (fun e => e.1 == (ordKey m).num) with
  | some e => e.2
  | none => if (sidSeq m.sid).toNat < 64 then 0 - 1 else sidSeq m.sid - 1

/-- A request reaches the agent for a context. The first request of a key takes an order entry. -/
def targetReq (s : State) (c : CtxId) (m : ReqMsg) : State :=
  match findOrd s (ordKey m) with
  | some o => ordTake s o m
  | none =>
    let die := reqDie s m
    if 1024 ≤ (s.msf.order.filter (fun o => o.die == die)).length then answerBusy s m die
    else
      let o : OrdEnt := { key := ordKey m, die := die, cid := c, high := some (ordBase s m), rsps := [], cur := none, held := []
                          good := [], once := [], bad := [], lastAt := s.now }
      ordTake { s with msf := { s.msf with order := s.msf.order ++ [o], highs := s.msf.highs.filter (fun e => e.1 != o.key.num) } } o m

/-- REQ (R270, R275). -/
def execReq (m : ReqMsg) (s : State) : Host.Outcome State Fault Refusal :=
  if unitsRun s then
    match tagCtx s m.jtag with
    | some c => .next (coherentLate (.req m) (fun t => targetReq t c m) s)
    | none => .next s
  else .next s

/-- ORDER_ENTRY_EXPIRY: 500 ms after its last request an order entry is free (R277). -/
def execOrderEntryExpiry (die : XDie) (src : Coord) (jtag : BitVec 16) (cpn : Bool) (cpnPort : Fin 2) (q : Fin 4) (s : State) :
    Host.Outcome State Fault Refusal :=
  let k : OrdKey := { src := src, jtag := jtag, cpn := cpn, port := cpnPort, q := q }
  let due := fun (o : OrdEnt) => o.key == k && o.die == die && o.cur.isNone && decide (o.lastAt + 500000000 ≤ s.now)
  if unitsRun s then
    let gone := s.msf.order.filter due
    let s1 : State := { s with msf := { s.msf with
      order := s.msf.order.filter (fun o => !due o)
      highs := s.msf.highs ++ gone.map (fun o => (o.key.num, o.high.getD 0)) } }
    .next (gone.foldl dropOrd s1)
  else .next s

/-! ### Messages of the directory -/

/-- INVACK. -/
def execInvack (holder : Holder) (addr : BitVec 44) (s : State) : Host.Outcome State Fault Refusal :=
  if unitsRun s then .next (coherentLate (.invack holder addr) (fun t => serveWaiting (ackInv t holder addr.toNat)) s) else .next s

/-- RECALLACK: at the home; one of a companion of this device's port for a line of another home goes on to it. -/
def execRecallack (holder : Holder) (home : Coord) (addr : BitVec 44) (data : Option Bytes) (s : State) :
    Host.Outcome State Fault Refusal :=
  if !unitsRun s then .next s
  else if forMe s home then
    .next (coherentLate (.recallack holder home addr data) (fun t => serveWaiting (ackRecall t holder addr.toNat data)) s)
  else .next (passHolder s holder home addr.toNat (.recallack addr.toNat data) data)

/-- PUTS. -/
def execPuts (holder : Holder) (home : Coord) (addr : BitVec 44) (s : State) : Host.Outcome State Fault Refusal :=
  if !unitsRun s then .next s
  else if forMe s home then
    .next (coherentLate (.puts holder home addr) (fun t => serveWaiting (takePuts t holder addr.toNat)) s)
  else .next (passHolder s holder home addr.toNat (.puts addr.toNat) none)

/-- PUTM. -/
def execPutm (holder : Holder) (home : Coord) (addr : BitVec 44) (data : Bytes) (s : State) : Host.Outcome State Fault Refusal :=
  if !unitsRun s then .next s
  else if forMe s home then
    .next (coherentLate (.putm holder home addr data) (fun t => serveWaiting (takePutm t holder addr.toNat data)) s)
  else .next (passHolder s holder home addr.toNat (.putm addr.toNat data) (some data))

/-- RECALL: a home asks a companion of this device's port for a line; the port passes it on (R281). -/
def execRecallLine (home : Coord) (keep : Bool) (addr : BitVec 44) (port : RlPort) (s : State) : Host.Outcome State Fault Refusal :=
  if unitsRun s ∧ rlUp s port then .next (send s (.companion port (.recallLine home keep addr.toNat))) else .next s

/-! ### The end of a bulk transfer (R283) -/

/-- A bulk write that waits for its BEND, by its source, tag and SID. -/
def findPut (s : State) (src : Coord) (jtag : BitVec 16) (sid : BitVec 16) : Option (OrdEnt × ReqMsg) :=
  s.msf.order.findSome? (fun o =>
    if o.key.src == src && o.key.jtag == jtag then
      ((o.cur.toList ++ o.held).find? (fun m => m.sid == sid && m.op == .bulkPut)).map (fun m => (o, m))
    else none)

/-- BEND at the receiver of a bulk write: the CRC is checked; a first mismatch asks for the transfer again, a second fails
it. -/
def endPut (s : State) (o : OrdEnt) (m : ReqMsg) (n : Nat) (crc : BitVec 32) : State :=
  if m.data.length = n ∧ m.data.length = m.len.toNat ∧ crc32c m.data = crc then
    serveWaiting (serveKey serveFuel (putOrd s { o with good := o.good ++ [m.sid] }) o.key)
  else if o.once.contains m.sid then
    serveWaiting (serveKey serveFuel (putOrd s { o with bad := o.bad ++ [m.sid] }) o.key)
  else sendMsf (putOrd s { o with once := o.once ++ [m.sid] }) 4 (reqDie s m) m.src (.bresend m.jtag m.sid)

/-- BEND: the end of a bulk read that a queue of this device has asked for, or of a bulk write to it. The message does not
tell which; a read that waits for it is looked for first (DESIGN CHOICE). -/
def execBend (src : Coord) (jtag : BitVec 16) (sid : BitVec 16) (bytes : BitVec 40) (crc : BitVec 32) (s : State) :
    Host.Outcome State Fault Refusal :=
  if unitsRun s then
    let get := (tagCtx s jtag).bind (fun c => ((findReq s c src sid).filter (fun r => r.req.op == .bulkGet && r.bend.isNone)).map (fun r => (c, r)))
    match get with
    | some (c, r) =>
      .next (coherentLate (.bend src jtag sid bytes crc) (fun t => checkGet t c (sidQ sid) { r with bend := some (bytes, crc) }) s)
    | none =>
      match s.msf.cpn.find? (fun x => x.sid == sid && (x.dst == src || physOf s x.dst == src) && x.req.op == .bulkGet) with
      | some x => .next (send s (.companion x.port (.bend jtag sid bytes.toNat crc)))
      | none =>
        match findPut s src jtag sid with
        | some (o, m) => .next (coherentLate (.bend src jtag sid bytes crc) (fun t => endPut t o m bytes.toNat crc) s)
        | none => .next s
  else .next s

end Sys2Proof.Machine
end

