-- ==== Sys2Proof/Machine/FabQueue.lean ====
section
/-! DEFINITION. Starting the records of a fabric queue, the gateway's gathered runs, and a companion's requests (R269-R272,
R275, R280, R283, R284). -/

namespace Sys2Proof.Machine

/-! ### Reach and alignment (R269, R272) -/

/-- Space of a global fabric address (R7). -/
def gSpace (g : Nat) : Nat := bitsOf g 61 3
/-- Coordinate of a global fabric address. -/
def gCoord (g : Nat) : Coord := BitVec.ofNat 17 (bitsOf g 44 17)
/-- Device-local address of a global fabric address. -/
def gAddr (g : Nat) : Nat := bitsOf g 0 44

/-- The alignment of GADDR (Table 12.3). -/
def gAligned (op : MsfOp) (g : Nat) : Bool :=
  match op with
  | .read => g % 128 == 0
  | .write => g % 128 == 0
  | .add32 => g % 4 == 0
  | .addAl48 => g % 4 == 0 && decide (gAddr g % pageSize + 100 ≤ pageSize)
  | .bulkGet => g % 64 == 0
  | .bulkPut => g % 64 == 0
  | _ => g % 8 == 0

/-- Table 12.1: the space and coordinate can be reached by the operation. -/
def inReach (s : State) (op : MsfOp) (g : Nat) : Bool :=
  let d := gCoord g
  let c := servedCoord s
  !coordBad d &&
  (match gSpace g with
   | 0 => forMe s d && !isBulk op
   | 1 => d.toNat / 8 == c.toNat / 8 && !isBulk op
   | 2 => cRow d == cRow c && !isBulk op
   | 3 => isBulk op || op == .read || op == .write
   | _ => false)

/-- Bytes at LADDR that the address rules of R272 concern: what the operation reads or writes there; an atomic has its 8-byte
operand in the record, and its LADDR is held to the rules all the same (DEDUCED, log 103). -/
def laddrBytes (op : MsfOp) (len : Nat) : Nat :=
  match op with
  | .read => 128
  | .write => 128
  | .addAl48 => 100
  | .bulkGet => len
  | .bulkPut => len
  | _ => 8

/-- The status at which a request is refused before it starts; 0 when it may start (R269, R272). Alignment is looked at
first. -/
def startStatus (s : State) (c : CtxId) (v : Nat) : BitVec 8 :=
  match msfOpOf (bitsOf v 0 8) with
  | none => 2
  | some op =>
    let g := bitsOf v 32 64
    let l := bitsOf v 96 44
    let len := bitsOf v 400 40
    let n := laddrBytes op len
    let mask := bitsOf v 272 128
    if !gAligned op g ∨ l % (if op = .addAl48 then 4 else 64) ≠ 0 ∨ (op = .write ∧ mask = 0) then 3
    else if bitsOf v 10 6 ≠ 0 ∨ bitsOf v 24 8 ≠ 0 ∨ bitsOf v 140 4 ≠ 0 ∨ bitsOf v 504 8 ≠ 0 then 2
    else if (op ≠ .cas64 ∧ bitsOf v 208 64 ≠ 0) ∨ (op ≠ .write ∧ mask ≠ 0) then 2
    else if (if isBulk op then len = 0 ∨ len % 64 ≠ 0 else len ≠ 0) then 2
    else if !inReach s op g then 2
    else if !inPages s c.part l n then 2
    else if !forMe s (gCoord g) ∧ !(tagCtx s (getCtx s c).desc.jtag == some c) then 2
    else 0

/-! ### Sending requests -/

/-- The key of the next SEQ of a queue toward a coordinate; `owner` is a context's key, or 128 + port for a companion. -/
def seqNoKey (owner : Nat) (q : Nat) (dst : Coord) : Nat := (owner * 4 + q) * 2 ^ 17 + dst.toNat

/-- Takes the next SEQ of a queue toward a coordinate (R275). -/
def takeSeq (s : State) (owner : Nat) (q : Nat) (dst : Coord) : State × BitVec 16 :=
  let k := seqNoKey owner q dst
  let n := Tbl.get 0 s.msf.seqs k
  ({ s with msf := { s.msf with seqs := Tbl.set 0 s.msf.seqs k (n + 1) } }, BitVec.ofNat 16 (q * 2 ^ 14 + n.toNat))

/-- The plane on which a request travels (R280). -/
def reqPlane (m : ReqMsg) (dst : Coord) : XDie :=
  if isBulk m.op then Fin.ofNat 2 dst.toNat else Fin.ofNat 2 (m.addr.toNat / 128)

/-- Sends a request: to this device's own agent, or over the fabric with its data in packets; a bulk write ends with BEND (R269,
R280, R283). -/
def sendReq (s : State) (c : CtxId) (dst : Coord) (m : ReqMsg) : State :=
  if forMe s dst then targetReq s c { m with src := servedCoord s }
  else
    let tail := if m.op = .bulkPut then some (.bend m.jtag m.sid m.data.length (crc32c m.data)) else none
    sendWith s c (reqPlane m dst) dst (msfHead (if isBulk m.op then 4 else 3) false m.sid m.cpn m.cpnPort) (.req m) m.data tail

/-- Puts a request among those that are out, and sends it. -/
def issueReq (s : State) (c : CtxId) (q : Fin 4) (dst : Coord) (recs : List (BitVec 32)) (laddr : Nat) (m : ReqMsg) : State :=
  let t := takeSeq s (CtxId.key c) q.val dst
  let m' := { m with sid := t.2 }
  let r : FReq := { sid := t.2, dst := dst, recs := recs, req := m', laddr := laddr, since := residentClock s c, retry := none, rsp := none
                    bend := none, failed := false, stale := false }
  let x := getFq t.1 c q
  let keep : Bool := decide ((getRes s c.part).state ≠ .off)
  let s1 := setFq t.1 c q { x with reqs := x.reqs ++ [r], sent := if keep then x.sent ++ [r] else x.sent }
  sendReq (noteSeq s1 c (seqNoKey (CtxId.key c) q.val dst) (sidSeq t.2 + 1)) c dst m'

/-- A request of a context with nothing set but its tag and source. -/
def blankReq (s : State) (c : CtxId) (op : MsfOp) (g : Nat) : ReqMsg :=
  { src := servedCoord s, jtag := (getCtx s c).desc.jtag, space := BitVec.ofNat 3 (gSpace g), op := op, sid := 0, shared := false
    own := false, addr := BitVec.ofNat 44 (gAddr g), operand := 0, operand2 := 0, bmask := 0, len := 0, cpn := false, cpnPort := 0
    data := [] }

/-! ### The gateway's gathered runs (R283) -/

/-- The most lines in a run: 64 KiB. -/
def runLines : Nat := 512

/-- The runs of bytes that gathered WRITEs carry: (offset, bytes, first and last line). -/
def runPieces (g : GwRun) : List (Nat × Bytes) :=
  ((g.lines.zipIdx).flatMap (fun x => (maskRuns x.1.1 x.1.2).map (fun r => (128 * x.2 + r.1, r.2)))).foldl
    (fun l r =>
      match l.getLast? with
      | some (o, bs) => if o + bs.length = r.1 then l.dropLast ++ [(o, bs ++ r.2)] else l ++ [r]
      | none => [r]) []

/-- Sends the gathered WRITEs of a queue: one run, or separate runs around bytes that BMASK leaves out. -/
def flushRun (s : State) (c : CtxId) (q : Fin 4) : State :=
  match (getFq s c q).run with
  | none => s
  | some g =>
    let die : XDie := Fin.ofNat 2 g.dst.toNat
    let ps := runPieces g
    let s1 := setFq s c q { getFq s c q with run := none }
    let s2 := setXd s1 die { getXd s1 die with msfGw := satAdd (getXd s1 die).msfGw ps.length }
    ps.foldl (fun t r =>
      let recs := ((g.recs.zipIdx).filter (fun y => decide (128 * y.2 < r.1 + r.2.length) && decide (r.1 < 128 * (y.2 + 1)))).map (·.1)
      let m := { blankReq t c .bulkPut (3 * 2 ^ 61 + g.addr + r.1) with data := r.2, len := BitVec.ofNat 40 r.2.length }
      issueReq t c q g.dst recs 0 m) s2

/-- A line WRITE joins the gathered run, or begins one after the run before has been sent. -/
def gather (s : State) (c : CtxId) (q : Fin 4) (i : BitVec 32) (dst : Coord) (addr : Nat) (mask : BitVec 128) (data : Bytes) : State :=
  let fits : Bool := match (getFq s c q).run with
    | some g => g.dst == dst && g.addr + 128 * g.lines.length == addr
    | none => false
  let s1 := if fits then s else flushRun s c q
  let g : GwRun := match (getFq s1 c q).run with
    | some g => { g with lines := g.lines ++ [(mask, data)], recs := g.recs ++ [i], lastAt := s.now }
    | none => { dst := dst, addr := addr, lines := [(mask, data)], recs := [i], lastAt := s.now }
  let s2 := setFq s1 c q { getFq s1 c q with run := some g }
  if runLines ≤ g.lines.length then flushRun s2 c q else s2

/-- GATEWAY_FLUSH: 2 µs have passed without a new WRITE. -/
def execGatewayFlush (cid : CtxId) (q : Fin 4) (s : State) : Host.Outcome State Fault Refusal :=
  match (getFq s cid q).run with
  | some g => if unitsRun s ∧ g.lastAt + 2000 ≤ s.now then .next (coherent (fun t => flushRun t cid q) s) else .next s
  | none => .next s

/-! ### Starting a record (R271) -/

/-- Requests of a queue that are not answered, those of its gathered run among them (R271). -/
def reqsOut (x : FQueue) : Nat := x.reqs.length + (match x.run with | some g => (runPieces g).length | none => 0)

/-- The queue's next record as it stands, when it may start: the context is READY, the queue is declared and has not stopped,
records are posted, and fewer than 64 requests are out. -/
def nextRec (s : State) (c : CtxId) (q : Fin 4) : Option (Except (BitVec 16) Nat) :=
  match fqDecl s c q with
  | none => none
  | some (base, log2) =>
    let x := getFq s c q
    if unitsRun s ∧ (getCtx s c).state = .ready ∧ !x.stopped ∧ x.next ≠ x.tail ∧ reqsOut x < 64 then
      match readUni s c.part (recAddr base log2 x.next) 64 with
      | .ok bs => some (.ok (leNat bs))
      | .error code => some (.error code)
    else none

/-- The runs of a WRITE's bytes. -/
def maskPieces (mask : BitVec 128) : Nat := (maskRuns mask []).length

/-- The record leaves the front of the posted ones. -/
def passRec (s : State) (c : CtxId) (q : Fin 4) : State :=
  let x := getFq s c q
  setFq s c q { x with next := x.next + 1 }

/-- The request of a record starts (Tables 12.2 and 12.3): its data is read, a gateway READ becomes a bulk read, a gateway WRITE is
gathered, and a line that a cache holds is read from there. -/
def beginRec (s : State) (c : CtxId) (q : Fin 4) (i : BitVec 32) (op : MsfOp) (v : Nat) : State :=
  let g := bitsOf v 32 64
  let l := bitsOf v 96 44
  let dst := gCoord g
  let len := bitsOf v 400 40
  let m := { blankReq s c op g with
    operand := BitVec.ofNat 64 (bitsOf v 144 64), operand2 := BitVec.ofNat 64 (bitsOf v 208 64)
    bmask := BitVec.ofNat 128 (bitsOf v 272 128), len := BitVec.ofNat 40 len }
  let gate : Bool := gSpace g == 3
  match op with
  | .read =>
    if gate then issueReq s c q dst [i] l { m with op := .bulkGet, len := 128 }
    else
      let shared : Bool := gSpace g == 1 && !forMe s dst
      match (if shared then cacheFind s dst (gAddr g / 128) else none) with
      | some x =>
        let s1 := cacheKeep s dst x.line x.data
        match writeUni s1 c.part l x.data with
        | .ok t => doneRecs t c q [i] 0 0
        | .error code => report s1 (msfReport code contextFatal c 0 [])
      | none => issueReq s c q dst [i] l { m with shared := shared }
  | .bulkGet => issueReq s c q dst [i] l m
  | .write =>
    match readUni s c.part l 128 with
    | .error code => report s (msfReport code contextFatal c 0 [])
    | .ok bs => if gate then gather s c q i dst (g % 2 ^ 61) m.bmask bs else issueReq s c q dst [i] l { m with data := bs }
  | .addAl48 =>
    match readUni s c.part l 100 with
    | .error code => report s (msfReport code contextFatal c 0 [])
    | .ok bs => issueReq s c q dst [i] l { m with data := bs }
  | .bulkPut =>
    match readUni s c.part l len with
    | .error code => report s (msfReport code contextFatal c 0 [])
    | .ok bs => issueReq s c q dst [i] l { m with data := bs }
  | _ => issueReq s c q dst [i] l m

/-- The next record of a queue starts when its OP is the one named: a record with FENCE sends the gathered run and starts only after
every earlier one is DONE; a WRITE for whose runs the 64 requests leave no room waits for answers (R271, R283). A record to a
reserved space is reported as well where its coordinate has a reserved slot (R6). -/
def startRec (s : State) (c : CtxId) (q : Fin 4) (named : Nat → Bool) : State :=
  match nextRec s c q with
  | none => s
  | some (.error code) => report s (msfReport code contextFatal c 0 [])
  | some (.ok v) =>
    let x := getFq s c q
    if !named (bitsOf v 0 8) then s
    else if bitAt v 8 ∧ (x.run.isSome ∨ x.reqs ≠ []) then flushRun s c q
    else
      let i := x.next
      let st := startStatus s c v
      let gathers : Bool := bitsOf v 0 8 == 2 && gSpace (bitsOf v 32 64) == 3
      let s1 := passRec s c q
      if st ≠ 0 then
        doneRecs (if (msfOpOf (bitsOf v 0 8)).isSome ∧ coordBad (gCoord (bitsOf v 32 64)) then badCoord s1 else s1) c q [i] st 0
      else if gathers ∧ 64 < reqsOut x + maskPieces (BitVec.ofNat 128 (bitsOf v 272 128)) then flushRun s c q
      else
        match msfOpOf (bitsOf v 0 8) with
        | some op => beginRec s1 c q i op v
        | none => s1

/-- A row of Table 12.3: the next record starts, if it carries this OP. -/
def startOp (c : CtxId) (q : Fin 4) (op : Nat) (s : State) : State := coherent (fun t => startRec t c q (· == op)) s

/-- TAIL is read from the control line. -/
def readTail (s : State) (c : CtxId) (q : Fin 4) : State :=
  match fqDecl s c q with
  | none => s
  | some (base, _) =>
    match readUni s c.part base 4 with
    | .ok bs => setFq s c q { getFq s c q with tail := BitVec.ofNat 32 (leNat bs) }
    | .error code => report s (msfReport code contextFatal c 0 [])

/-- FABRIC_QUEUE_RING: a write to TAIL rings the queue. The records then start by the rows of their operations; one with a
reserved OP completes here with status REACH (R271, R272). -/
def execFabricQueueRing (cid : CtxId) (q : Fin 4) (s : State) : Host.Outcome State Fault Refusal :=
  if unitsRun s ∧ (getCtx s cid).state = .ready then
    .next (coherent (fun t => startRec (readTail t cid q) cid q (fun op => (msfOpOf op).isNone)) s)
  else .next s

/-- READ. -/
def execRead (cid : CtxId) (q : Fin 4) (s : State) : Host.Outcome State Fault Refusal := .next (startOp cid q 0x01 s)
/-- WRITE. -/
def execWrite (cid : CtxId) (q : Fin 4) (s : State) : Host.Outcome State Fault Refusal := .next (startOp cid q 0x02 s)
/-- ADD64. -/
def execAdd64 (cid : CtxId) (q : Fin 4) (s : State) : Host.Outcome State Fault Refusal := .next (startOp cid q 0x10 s)
/-- ADD32. -/
def execAdd32 (cid : CtxId) (q : Fin 4) (s : State) : Host.Outcome State Fault Refusal := .next (startOp cid q 0x11 s)
/-- AND64. -/
def execAnd64 (cid : CtxId) (q : Fin 4) (s : State) : Host.Outcome State Fault Refusal := .next (startOp cid q 0x12 s)
/-- OR64. -/
def execOr64 (cid : CtxId) (q : Fin 4) (s : State) : Host.Outcome State Fault Refusal := .next (startOp cid q 0x13 s)
/-- XOR64. -/
def execXor64 (cid : CtxId) (q : Fin 4) (s : State) : Host.Outcome State Fault Refusal := .next (startOp cid q 0x14 s)
/-- SMAX64. -/
def execSmax64 (cid : CtxId) (q : Fin 4) (s : State) : Host.Outcome State Fault Refusal := .next (startOp cid q 0x15 s)
/-- SMIN64. -/
def execSmin64 (cid : CtxId) (q : Fin 4) (s : State) : Host.Outcome State Fault Refusal := .next (startOp cid q 0x16 s)
/-- UMAX64. -/
def execUmax64 (cid : CtxId) (q : Fin 4) (s : State) : Host.Outcome State Fault Refusal := .next (startOp cid q 0x17 s)
/-- UMIN64. -/
def execUmin64 (cid : CtxId) (q : Fin 4) (s : State) : Host.Outcome State Fault Refusal := .next (startOp cid q 0x18 s)
/-- SWAP64. -/
def execSwap64 (cid : CtxId) (q : Fin 4) (s : State) : Host.Outcome State Fault Refusal := .next (startOp cid q 0x19 s)
/-- CAS64. -/
def execCas64 (cid : CtxId) (q : Fin 4) (s : State) : Host.Outcome State Fault Refusal := .next (startOp cid q 0x1A s)
/-- ADD_AL48. -/
def execAddAl48 (cid : CtxId) (q : Fin 4) (s : State) : Host.Outcome State Fault Refusal := .next (startOp cid q 0x1C s)
/-- BULK_GET. -/
def execBulkGet (cid : CtxId) (q : Fin 4) (s : State) : Host.Outcome State Fault Refusal := .next (startOp cid q 0x20 s)
/-- BULK_PUT. -/
def execBulkPut (cid : CtxId) (q : Fin 4) (s : State) : Host.Outcome State Fault Refusal := .next (startOp cid q 0x21 s)

/-! ### Requests that go again -/

/-- BUSY_RESEND: a request answered BUSY goes again once its 8 µs are over (R277). -/
def execBusyResend (src : Coord) (jtag : BitVec 16) (sid : BitVec 16) (s : State) : Host.Outcome State Fault Refusal :=
  if unitsRun s then
    match (tagCtx s jtag).bind (fun c => ((findReq s c src sid).filter (fun r => r.retry.isSome)).map (fun r => (c, r))) with
    | some (c, r) =>
      if r.retry.any (fun t => decide (t ≤ s.now)) then
        .next (coherentLate (.busyResend src jtag sid)
          (fun t => sendReq (putReq t c (sidQ sid) { r with retry := none }) c r.dst r.req) s)
      else .next s
    | none =>
      match s.msf.cpn.find? (fun x => x.sid == sid && (x.dst == src || physOf s x.dst == src) && x.retry.any (fun t => decide (t ≤ s.now))),
          tagCtx s jtag with
      | some x, some c =>
        let same := fun (y : CpnReq) => y.port == x.port && y.sid == sid && y.dst == x.dst
        .next (coherentLate (.busyResend src jtag sid)
          (fun t => sendReq { t with msf := { t.msf with cpn := replaceFirst same (fun y => { y with retry := none }) t.msf.cpn } }
            c x.dst x.req) s)
      | _, _ => .next s
  else .next s

/-- BRESEND: the receiver of a bulk transfer asks for it again: of a queue's or companion's bulk write, or of a bulk read that this
device answers (R283). -/
def execBresend (src : Coord) (jtag : BitVec 16) (sid : BitVec 16) (s : State) : Host.Outcome State Fault Refusal :=
  if unitsRun s then
    match tagCtx s jtag with
    | none => .next s
    | some c =>
      match (findReq s c src sid).filter (fun r => r.req.op == .bulkPut) with
      | some r => .next (coherentLate (.bresend src jtag sid) (fun t => sendReq t c r.dst r.req) s)
      | none =>
        match s.msf.cpn.find? (fun x => x.sid == sid && (x.dst == src || physOf s x.dst == src) && x.req.op == .bulkPut) with
        | some x => .next (coherentLate (.bresend src jtag sid) (fun t => sendReq t c x.dst x.req) s)
        | none =>
          match s.msf.order.findSome? (fun o => if o.key.src == src && o.key.jtag == jtag then (o.rsps.find? (fun r => r.sid == sid)).map (fun r => (o, r)) else none) with
          | some (o, r) => .next (answer s o.cid o.key (Fin.ofNat 2 (servedCoord s).toNat) r .bulkGet)
          | none => .next s
  else .next s

/-! ### Companions (R284, R288) -/

/-- A companion's request is refused: its answer carries the status. -/
def refuseCpn (s : State) (port : RlPort) (m : ReqMsg) (status : BitVec 8) : State :=
  send s (.companion port (.rsp { src := servedCoord s, jtag := m.jtag, sid := m.sid, status := status, result := 0, cpn := true, cpnPort := port, data := [] }))

/-- A companion's request as the port and the gateway make it: under the port's JTAG, OWN and SHARED only in space 1, and in space 3 a
READ as a bulk read of 128 bytes, a WRITE as a bulk write for each run of its bytes (R283, R284). -/
def cpnReqs (s : State) (port : RlPort) (jtag : BitVec 16) (m : ReqMsg) (g : Nat) : List ReqMsg :=
  let near : Bool := gSpace g == 1
  let b := { m with src := servedCoord s, jtag := jtag, space := BitVec.ofNat 3 (gSpace g), addr := BitVec.ofNat 44 (gAddr g), cpn := true
                    cpnPort := port, shared := m.shared && near, own := m.own && near }
  if gSpace g = 3 then
    match m.op with
    | .read => [{ b with op := .bulkGet, len := 128 }]
    | .write => (maskRuns m.bmask m.data).map (fun r =>
        { b with op := .bulkPut, addr := BitVec.ofNat 44 (gAddr g + r.1), bmask := 0, data := r.2, len := BitVec.ofNat 40 r.2.length })
    | _ => [b]
  else [b]

/-- The requests of a companion go out, each with its SEQ, as one group. -/
def sendCpn (s : State) (c : CtxId) (port : RlPort) (dst : Coord) (ms : List ReqMsg) : State :=
  let group := (takeSeq s (128 + port.val) 0 dst).2
  let q := ms.foldl (fun (a : State × List ReqMsg) m =>
    let t := takeSeq a.1 (128 + port.val) 0 dst
    (t.1, a.2 ++ [{ m with sid := t.2 }])) (s, [])
  let xs := q.2.map (fun m => ({ port := port, sid := m.sid, dst := dst, req := m, retry := none, group := group } : CpnReq))
  q.2.foldl (fun t m => sendReq t c dst m) { q.1 with msf := { q.1.msf with cpn := q.1.msf.cpn ++ xs } }

/-- COMPANION_REQUEST: a companion's operation comes over its port. It travels under the JTAG of RL_CPN_p, with queue 0, CPN and
CPNPORT, and is held to the reach and alignment of Table 12.3; with EN clear it completes with REACH (R275, R284, R288). -/
def execCompanionRequest (port : RlPort) (m : ReqMsg) (gaddr : BitVec 64) (s : State) : Host.Outcome State Fault Refusal :=
  let r := getRl s port
  let g := gaddr.toNat
  let dst := gCoord g
  if unitsRun s ∧ rlUp s port then
    if !r.cpnEn then .next (refuseCpn s port m 2)
    else if coordBad dst then .next (refuseCpn (badCoord s) port m 2)
    else if !gAligned m.op g ∨ (m.op = .write ∧ m.bmask = 0) then .next (refuseCpn s port m 3)
    else if !inReach s m.op g ∨ (isBulk m.op ∧ (m.len = 0 ∨ m.len.toNat % 64 ≠ 0)) then .next (refuseCpn s port m 2)
    else
      match tagCtx s r.cpnJtag with
      | none => .next (refuseCpn s port m 2)
      | some c =>
        .next (coherentLate (.companionRequest port m gaddr)
          (fun t => sendCpn t c port dst (cpnReqs t port r.cpnJtag m g)) s)
  else .next s

end Sys2Proof.Machine
end

