-- ==== Sys2Proof/Machine/Mark.lean ====
section
/-! DEFINITION. Epoch marks: OP_EPOCH_MARK, its record, its agreement and its completion (R338-R349). -/

namespace Sys2Proof.Machine

/-! ### The mark record (Table 15.5) -/

/-- A slot's live entry (Table 4.2). -/
def slotBits (t : Slot) : Nat :=
  pack [(0, t.base64.toNat), (18, t.size64.toNat), (36, t.gen.toNat), (52, SlotState.code t.state), (54, b2n t.valid), (55, b2n t.extern)]

/-- The 512-byte image of a core's live slot table. -/
def slotImage (q : Seq) : Bytes := (upto 64).flatMap (fun i => leBytes 8 (slotBits (nth {} q.slots i)))

/-- The images of a context's cores, in ascending partition-relative core (R342). -/
def slotImages (s : State) (c : CtxId) : Bytes := (coresOf (getPart s c.part)).flatMap (fun k => slotImage (getSeq s c k))

/-- A running hash as bytes, in the model's own order. -/
def shaRunBytes (r : ShaRun) : Bytes := r.h.flatMap beBytes32 ++ leBytes 8 r.total ++ r.tail ++ List.replicate (64 - r.tail.length) 0

/-- A digest slot's content as bytes, in the model's own order. -/
def digestBytes (x : DigestSlot) : Bytes :=
  [1] ++ leBytes 2 x.digid.toNat ++ x.counts.flatMap (leBytes 8) ++ x.runs.flatMap shaRunBytes

/-- The 256 bytes of a digest slot in the record; a closed slot's are zero. -/
def digestArea (x : Option DigestSlot) : Bytes :=
  match x with
  | some d => (upto 256).map (Config.digestImage (digestBytes d))
  | none => List.replicate 256 0

/-- Entries of the requester part and of the target part of a context's sequence state, each in ascending key (R348; the order is
the model's). -/
def seqParts (s : State) (c : CtxId) : List (Nat × BitVec 14) × List OrdEnt :=
  (s.msf.seqs.filter (fun e => e.1 / 2 ^ 19 == CtxId.key c),
   (s.msf.order.filter (fun o => o.cid == c)).insertionSort (fun a b => a.key.num ≤ b.key.num))

/-- A context's sequence state as bytes, in the model's own order. -/
def seqBytes (s : State) (c : CtxId) : Bytes :=
  let q := seqParts s c
  q.1.flatMap (fun e => leBytes 8 e.1 ++ leBytes 2 e.2.toNat) ++ q.2.flatMap (fun o => leBytes 5 o.key.num ++ ordBytes o)

/-- The hash of a context's sequence state, as ORDER holds it (R348). -/
def seqDigest (s : State) (c : CtxId) : Bytes := (upto 32).map (Config.seqHash (seqBytes s c))

/-- Bytes 0 to 4,063 of the mark record. -/
def markHead (s : State) (e : Entry) : Bytes :=
  let c := e.cid
  let x := getCtx s c
  let q := seqParts s c
  let img := slotImages s c
  leBytes 40 (pack [(0, 0x4D45594B), (32, fld e.desc 64 32), (64, (fabricTime s).toNat), (128, e.pos.toNat), (160, x.cplTail.toNat),
    (192, (servedCoord s).toNat), (209, c.part.val), (212, c.ctx.val),
    (256, match x.step with | some b => b.word.bits | none => 0)]) ++
  (upto 64).flatMap (fun i => leBytes 4 (Tbl.get 0 x.events i).toNat) ++
  (upto 16).flatMap (fun i => leBytes 8 (getRng s c i).key.toNat ++ leBytes 16 (getRng s c i).counter.toNat) ++
  (upto 4).flatMap (fun i => digestArea (getDigest s c i)) ++
  (leBytes 4 (coresOf (getPart s c.part)).length ++ sha256 img ++ List.replicate 476 0) ++
  (leBytes 8 (pack [(0, q.1.length), (32, q.2.length)]) ++ seqDigest s c ++ List.replicate 472 0) ++
  List.replicate 1336 0

/-- The mark record, and the slot images that follow it (R342). -/
def markRecord (s : State) (e : Entry) : Bytes :=
  let h := markHead s e
  h ++ sha256 h ++ slotImages s e.cid

/-! ### Parity deltas (R343-R346) -/

/-- XOR of two runs of bytes. -/
def xorBytes (a b : Bytes) : Bytes := (a.zip b).map (fun q => q.1 ^^^ q.2)

/-- Sends a dirty piece: its delta against what the protector has, or whole when it has no pre-image. -/
def sendDelta (s : State) (p : PartI) (d : DirtyPiece) : State :=
  let now := pieceBytes s p d.piece
  match d.base with
  | some b => send s (.parity p d.piece false (xorBytes now b))
  | none => send s (.parity p d.piece true now)

/-- The mark sends every delta that is still unsent, and the pieces become those of the mark in progress. -/
def sendDeltas (s : State) (p : PartI) : State :=
  let r := getRes s p
  let t := (r.dirty.filter (·.dirty)).foldl (fun u d => sendDelta u p d) s
  setRes t p { r with old := r.old ++ r.dirty, dirty := [] }

/-! ### OP_EPOCH_MARK (R338, R339) -/

/-- EPOCH. -/
def markEpoch (d : Desc) : BitVec 32 := BitVec.ofNat 32 (fld d 64 32)
/-- GRP_ADDR. -/
def markGrp (d : Desc) : Nat := fld d 145 44
/-- MREC_ADDR. -/
def markRec (d : Desc) : Nat := fld d 189 44

/-- The mark's agreement as a single-chunk collective (R338). PDIG is taken over EPOCH and NDEV, packed lowest bit first
(DESIGN CHOICE). -/
def markColl (s : State) (e : Entry) (core : Nat) (gcrc : BitVec 32) : Coll :=
  let d := e.desc
  { cid := e.cid, core := Fin.ofNat 128 core, entry := e, kind := .mark, id := BitVec.ofNat 16 (fld d 96 16), len := 1, ifmt := 0, ofmt := 0
    cvt := 0, watched := false, rngIdx := 0, rng := {}, opr := 1, ndev := fld d 112 17, self := fld d 129 16, root := 0
    empty := false, lossy := 0, src := leBytes 4 0, dst := 0, res := 0
    pdig := crc32c (leBytes 7 (pack [(0, fld d 64 32), (32, fld d 112 17)])), gdig := gcrc
    since := residentClock s e.cid, edges := [], feeds := [], tops := [], depth := [], ins := [], outs := []
    written := [], rescorr := 0, crcretry := 0, event := false, done := false }

/-- The context has an open gate session. -/
def gateOpen (s : State) (c : CtxId) : Bool := (List.finRange 4).any (fun d => (getDie s d).sessions.any (fun e => e.1 / 16 == CtxId.key c))

/-- The checks of a mark at issue (R339): the gate sessions and the epoch, then those of R193 and R105. -/
def markPrep (e : Entry) (s : State) (core : Nat) : Prep :=
  let d := e.desc
  let c := e.cid
  let k := markColl s e core 0
  if gateOpen s c then rejectWith Code.eEpochState
  else if (getCtx s c).restart.any (fun m => m.epoch + 1 != markEpoch d) then rejectWith Code.eEpochSeq
  else if k.ndev = 0 ∨ 65536 < k.ndev ∨ k.ndev ≤ k.self ∨ s.colls.any (fun x => x.cid == c && x.id == k.id && !x.done) then
    rejectWith Code.eCollShape
  else if !uniOk s c.part (markGrp d) (4 * k.ndev) ∨
      (markRec d ≠ 0 ∧ !uniOk s c.part (markRec d) (4096 + 512 * ncores (getPart s c.part))) then rejectWith Code.eDescOperand
  else .go []

/-- The row of OP_EPOCH_MARK. -/
def markRow (e : Entry) : OpRow :=
  { row := opcode e.desc == 0x0503, reserved := fld e.desc 233 279 != 0, classes := [2], prep := markPrep e
    run := fun t _ => (t, .running) }

/-- OP_EPOCH_MARK: it issues, and its capture waits for the context to be quiet (R338). -/
def execOpEpochMark (e : Entry) (s : State) : Host.Outcome State Fault Refusal :=
  .next (issueCmd s e (markRow e))

/-- A context's mark in flight: its core and its entry. -/
def findMark (s : State) (c : CtxId) : Option (Nat × InFlight) :=
  (coresOf (getPart s c.part)).findSome? (fun k =>
    ((getSeq s c k).inflight.find? (fun f => opcode f.entry.desc == 0x0503 && f.fin.isNone)).map (fun f => (k, f)))

/-- No fabric request of the context is unanswered (R338). -/
def fabQuiet (s : State) (c : CtxId) : Bool := (List.finRange 4).all (fun q => (getFq s c q).reqs.isEmpty && (getFq s c q).run.isNone)

/-- The agreement over the group begins, when there is a place among the collectives; the group table is read here. -/
def startAgreement (s : State) (core : Nat) (e : Entry) : State :=
  let k := markColl s e core 0
  if s.colls.any (fun x => x.entry == e) ∨ collWaits s k then s
  else
    match readGroup s e.cid.part (markGrp e.desc) k.ndev with
    | .error code => faultCmd s core e 10 0 { code := code, detail := [] }
    | .ok g =>
      if groupBad g.2 then faultCmd s core e 10 0 { code := Code.eCollGroup, detail := [] }
      else startColl s (placeColl (markColl s e core (crc32c g.1)) g.2)

/-- A context's open digest slots go to the protector with the mark that captures them (R207, R353): what their 256 bytes of the
record hold is laid out nowhere. -/
def mirrorDigests (s : State) (c : CtxId) : State :=
  (upto 4).foldl (fun t i => mirror t c.part (mirrorAt 10 (512 * (4 * CtxId.key c + i)))
    (match getDigest s c i with | some d => digestBytes d | none => [0])) s

/-- The capture (R338 steps 2 and 3): the record is written at MREC_ADDR; a protected context's record, deltas and mirrors go
to the protector, and another's agreement begins. -/
def captureMark (s : State) (core : Nat) (e : Entry) : State :=
  let c := e.cid
  let img := markRecord s e
  match (if markRec e.desc = 0 then .ok s else writeUni s c.part (markRec e.desc) img) with
  | .error code => faultCmd s core e 0 core { code := code, detail := [] }
  | .ok s1 =>
    let m : MarkRun := { entry := e, core := Fin.ofNat 128 core, acked := decide ((getRes s1 c.part).state ≠ .prot)
                         tails := (List.finRange 4).map (fun q => (getFq s1 c q).tail) }
    let s2 := setCtx s1 c { getCtx s1 c with markRun := some m }
    if m.acked then startAgreement s2 core e
    else mirror (mirrorDigests (sendDeltas s2 c.part) c) c.part (mirrorAt 3 (CtxId.key c * 2 ^ 32)) img

/-- EPOCH_MARK_CAPTURE: the mark's fence is met and no fabric request is out (R338). A captured mark whose agreement had no
place tries again. -/
def execEpochMarkCapture (cid : CtxId) (s : State) : Host.Outcome State Fault Refusal :=
  match findMark s cid with
  | none => .next s
  | some (core, f) =>
    match (getCtx s cid).markRun with
    | some m => if unitsRun s ∧ m.acked then .next (coherent (fun t => startAgreement t core f.entry) s) else .next s
    | none =>
      let own := (getSeq s cid core).inflight.takeWhile (fun g => g.entry != f.entry)
      if unitsRun s ∧ dueNow s core f.entry own .ctx ∧ fabQuiet s cid then .next (coherent (fun t => captureMark t core f.entry) s)
      else .next s

/-- PROTECTOR_ACK: the protector has the deltas and the mirror; the agreement begins (R338 step 4). -/
def execProtectorAck (cid : CtxId) (s : State) : Host.Outcome State Fault Refusal :=
  match (getCtx s cid).markRun with
  | some m =>
    if unitsRun s then
      let s1 := setCtx s cid { getCtx s cid with markRun := some { m with acked := true } }
      .next (coherent (fun t => startAgreement t m.core.val m.entry) s1)
    else .next s
  | none => .next s

/-! ### Completion -/

/-- What a completed mark releases and begins anew: pre-images, the retained commands and their streams, engine time (R338,
R340, R349). A partition that has been seeded becomes PROTECTED (R337). -/
def releaseMark (s : State) (c : CtxId) (m : MarkRun) : State :=
  let x := getCtx s c
  let r := getRes s c.part
  let mk : Mark := { epoch := markEpoch m.entry.desc, ringPos := m.entry.pos, time := s.now }
  let s1 := setCtx s c { x with restart := some mk, markRun := none, engineNs := 0, markAt := residentClock s c, epochLate := false, retained := [] }
  let r' : ResPart := { r with
    epoch := mk.epoch
    old := if r.state = .prot then [] else r.old
    retainLost := false
    state := if r.state = .seeding ∧ r.seeded then .prot else r.state }
  let s2 := mirror (if r.state = .off then s1 else setRes s1 c.part r') c.part (mirrorAt 11 (CtxId.key c)) [0]
  { s2 with
    kept := s2.kept.filter (fun o => o.key.cid != c)
    colls := s2.colls.filter (fun k => !(k.cid == c && k.done && k.kind != .agree && k.kind != .mark))
    ins := s2.ins.filter (fun st => !(st.key.cid == c && st.discard && st.done && (findX s2 c st.key.xid).isNone)) }

/-- The fabric queues of a protected context release their records up to the mark (R341). -/
def markQueues (s : State) (c : CtxId) (m : MarkRun) : State :=
  let prot : Bool := decide ((getRes s c.part).state = .prot)
  (List.finRange 4).foldl (fun t q =>
    let x := getFq t c q
    let y := { x with markTail := if prot then some (nth 0 m.tails q.val) else none, sent := x.reqs }
    if x = {} ∧ !prot then t else advanceHead (setFq t c q y) c q) s

/-- Every enabled partition of the device is PROTECTED. -/
def allProtected (s : State) : Bool :=
  (List.finRange 8).all (fun p => decide ((getRes s p).state = .off) || decide ((getRes s p).state = .prot))

/-- The mark completes: it is the context's restart mark (R338). An epoch of more than 40 ms of engine time is reported (R340). -/
def finishMark (s : State) (c : CtxId) (m : MarkRun) : State :=
  let late : Bool := decide (40000000 < (getCtx s c).engineNs) && decide ((getRes s c.part).state = .prot)
  let s1 := if late then report s (cmdReport Code.eEpochSpan deferred m.entry 19 0 []) else s
  let s2 := markQueues (releaseMark s1 c m) c m
  let s3 := if s2.res.tstate = 1 ∧ allProtected s2 then { s2 with res := { s2.res with tstate := 2 } } else s2
  writeStatus (endCmd s3 m.core.val m.entry okOutcome) c

/-- The address of a shadow's frame: the protector's pages outside PARITY ranges hold shadows (R336, R344), in ascending page index
(DESIGN CHOICE, log 109). -/
def shadowAddr (s : State) (p : PartI) (frame : Nat) : Nat :=
  let free := (s.mem.pt.filter (fun e => e.2.owned && decide (e.2.part = p) && pageClass (getRes s p) e.1 != 1)).map (·.1)
  pageAddr (nth 0 free (frame / 32)) + frame % 32 * parityPiece

/-- What a shadow holds. -/
def shadowBytes (s : State) (p : PartI) (h : Shadow) : Bytes :=
  match places s p (shadowAddr s p h.frame) parityPiece with
  | .ok l => readPlaces s l
  | .error _ => []

/-- On the protector: the shadows become parity, their frames are free, and LIVE becomes MARK (R344, R347). -/
def protectorMark (s : State) (p : PartI) : State :=
  let r := getRes s p
  let s1 := r.shadow.foldl (fun t h => keepBytes t p (pieceAddr h.piece) (shadowBytes t p h)) s
  let s2 := setRes s1 p { getRes s1 p with shadow := [], state := if r.state = .seeding ∧ r.seeded then .prot else r.state }
  let ms := s2.res.mirrors.map (fun e => if e.1 % 8 = p.val then (e.1, { e.2 with mark := e.2.pend }) else e)
  let s3 : State := { s2 with res := { s2.res with mirrors := ms } }
  if s3.res.tstate = 1 ∧ allProtected s3 then { s3 with res := { s3.res with tstate := 2 } } else s3

/-- EPOCH_LATE: 200 ms of resident time without a mark in a protected context; the protector learns that in-place takeover for
it is suspended until the next mark completes (R340). -/
def execEpochLate (cid : CtxId) (s : State) : Host.Outcome State Fault Refusal :=
  let x := getCtx s cid
  if unitsRun s ∧ x.state = .ready ∧ (getRes s cid.part).state = .prot ∧ !x.epochLate ∧ x.markAt + 200000000 ≤ residentClock s cid then
    let s1 := mirror (setCtx s cid { x with epochLate := true }) cid.part (mirrorAt 11 (CtxId.key cid)) [1]
    .next (report s1 (ctxReport Code.eEpochLate deferred cid 19 0 []))
  else .next s

/-- A class-0 or class-1 command of a context is in flight on some core (R340). -/
def engineBusy (s : State) (c : CtxId) : Bool :=
  (coresOf (getPart s c.part)).any (fun k => (getSeq s c k).inflight.any (fun f => decide (fld f.entry.desc 24 2 < 2)))

/-- A nanosecond of engine time of the resident contexts of protected partitions (R340). -/
def engineTick (s : State) : State :=
  (s.res.parts.map (·.1)).foldl (fun t i =>
    let p : PartI := Fin.ofNat 8 i
    match (getPart t p).resident with
    | some c =>
      if (getRes t p).state = .prot ∧ engineBusy t ⟨p, c⟩ then
        setCtx t ⟨p, c⟩ { getCtx t ⟨p, c⟩ with engineNs := (getCtx t ⟨p, c⟩).engineNs + 1 }
      else t
    | none => t) s

end Sys2Proof.Machine
end

