-- ==== Sys2Proof/Machine/XIn.lean ====
section
/-! DEFINITION. The receiving side of the exchange's streams: credit, landing, placement and checks (R135-R149). -/

namespace Sys2Proof.Machine

/-! ### Streams -/

/-- The inbound stream of a message. -/
def findIn (s : State) (h : XHdr) : Option InStream :=
  s.ins.find? (fun st => st.key.kind == h.kind && st.key.plane == h.plane && st.key.xid == h.xid &&
    st.key.src == h.srcRank.toNat && (msgCtxs s h.jtag).contains st.key.cid)

/-- An inbound stream by its name. -/
def getIn (s : State) (k : InKey) : Option InStream := s.ins.find? (fun st => st.key == k)

/-- Replaces an inbound stream. -/
def putIn (s : State) (st : InStream) : State :=
  { s with ins := replaceFirst (fun x => x.key == st.key) (fun _ => st) s.ins }

/-- The stream belongs to an OP_EXCHANGE or OP_A2A (KIND 0, 2 or 3) or to an OP_COMBINE (KIND 1). -/
def ofCmd (c : CtxId) (xid : BitVec 16) (st : InStream) : Bool :=
  st.key.cid == c && st.key.xid == xid && st.key.kind != 1

/-- An armed OP_COMBINE of a context, by its XID. -/
def findCmb (s : State) (c : CtxId) (xid : BitVec 16) : Option Cmb := s.cmbs.find? (fun x => x.cid == c && x.xid == xid)

/-- Slot (t, j) with u = t − TOK0 (R152). -/
def Cmb.slotAt (x : Cmb) (u j : Nat) : Nat :=
  if u < x.lsplit then x.lnd + (u * x.topk + j) * x.row64 * 64
  else x.lndx + ((u - x.lsplit) * x.topk + j) * x.row64 * 64

/-- The state word of a token (Table 6.7). -/
def stateWord (s : State) (x : Cmb) (u : Nat) : Except (BitVec 16) Nat :=
  match readUni s x.cid.part (x.lst + 4 * u) 4 with
  | .error e => .error e
  | .ok bs => .ok (leNat bs)

/-! ### Cells and credit (R138, R157) -/

/-- The unit that writes a stream's bytes to their place, the last owner of their chains (R158): the Combine unit for RETURN,
the Exchange Engine otherwise. -/
def InKey.unit (k : InKey) : Nat := if k.kind = 1 then 1 else 0

/-- A stream's cells leave it as freed, so that it has room for the next grant. -/
def InStream.without (st : InStream) (q : List CellRun × List CellRun) : InStream :=
  { st with cells := q.2, freed := st.freed + cellsIn q.1, gone := st.gone + cellsIn q.1 }

/-- Cells that no chain holds go back to the pool until `n` of the stream's have: discarded bytes, and credit that was not used. -/
def drainTo (s : State) (st : InStream) (n : Nat) : State × InStream :=
  let q := splitCells (n - st.freed) st.cells
  (setXd s st.key.plane (giveRuns (getXd s st.key.plane) st.key.cid.part.val q.1), st.without q)

/-- Cells whose bytes have been written to their place, until `n` of the stream's are free: they are a chain that the writing unit
releases (R138, R158). -/
def freeTo (s : State) (st : InStream) (n : Nat) : State × InStream :=
  let q := splitCells (n - st.freed) st.cells
  match newChain s st.key.plane st.key.cid q.1 (.owner st.key.unit) with
  | some r => (releaseAt r.1 st.key.plane st.key.unit st.key.cid.part r.2, st.without q)
  | none => (s, st)

/-- Every cell that a stream still holds goes back. -/
def freeRest (s : State) (st : InStream) : State × InStream := drainTo s st (st.freed + cellsIn st.cells)

/-- Cells of credit that the stream has not used: a cell is used once it has been freed after its bytes' placement (R138). -/
def unusedCredit (st : InStream) : Nat := st.granted - st.gone

/-- The stream still needs credit. -/
def wantsCredit (st : InStream) : Bool := !st.done && decide (256 * st.granted < st.dbytes)

/-- A grant of 256 cells to a stream, when it has room and they can be allocated. -/
def grantCells (s : State) (st : InStream) : Option (State × InStream) :=
  if wantsCredit st ∧ unusedCredit st + 256 ≤ 512 then
    match takeCells 256 (getXd s st.key.plane) st.key.cid.part.val [] with
    | some q => some (setXd s st.key.plane q.1, { st with granted := st.granted + 256, cells := st.cells ++ q.2 })
    | none => none
  else none

/-- A stream joins those that ask for credit on its die. -/
def joinAsks (s : State) (k : InKey) : State :=
  let x := getXd s k.plane
  if x.asks.contains k then s else setXd s k.plane { x with asks := x.asks ++ [k] }

/-- Removes a stream from those that ask. -/
def leaveAsks (s : State) (k : InKey) : State :=
  let x := getXd s k.plane
  setXd s k.plane { x with asks := x.asks.filter (· != k) }

/-- The first asking stream that can be granted. -/
def nextGrant (s : State) : List InKey → Option (State × InStream)
  | [] => none
  | k :: t =>
    match (getIn s k).bind (grantCells s) with
    | some q => some q
    | none => nextGrant s t

/-- CREDIT_GRANT (R138): 256 cells to the next asking stream, which goes to the end of the order while it needs more. -/
def execCreditGrant (die : XDie) (s : State) : Host.Outcome State Fault Refusal :=
  match nextGrant s (getXd s die).asks with
  | some q =>
    if unitsRun s then
      let s1 := leaveAsks (putIn q.1 q.2) q.2.key
      let s2 := if wantsCredit q.2 then joinAsks s1 q.2.key else s1
      .next (sendX s2 q.2.hdr (.credit 256))
    else .next s
  | none => .next s

/-! ### Records -/

/-- Whole records of a stream. -/
def InStream.nrec (st : InStream) : Nat := if st.recb = 0 then 0 else st.dbytes / st.recb

/-- The bytes of a stream from an offset. -/
def InStream.bytes (st : InStream) (off n : Nat) : Bytes := Memory.read st.buf off n

/-- Record `k` has landed. -/
def InStream.recLanded (st : InStream) (k : Nat) : Bool := ivHas st.landed (k * st.recb) ((k + 1) * st.recb)

/-- The bytes that have landed without a gap from the stream's start. -/
def InStream.lead (st : InStream) : Nat := match st.landed with | (0, h) :: _ => h | _ => 0

/-- Records that a stream's credit cannot hold whole: they are placed as they land (DESIGN CHOICE, log 99). -/
def InStream.big (st : InStream) : Bool := decide (65536 < st.recb)

/-- The stream's cells up to a byte. -/
def InStream.cellsUpTo (st : InStream) (b : Nat) : Nat := if b = st.dbytes then ceilDiv b 256 else b / 256

/-- The expert pairs (LOCAL_IDX, RANK) of a token record (Table 5.8). -/
def InStream.pairsAt (st : InStream) (k : Nat) : List (Nat × Nat) :=
  let bs := st.bytes (k * st.recb) 64
  (upto (bitsOf (leNat (bs.take 4)) 16 4 + 1)).map (fun j =>
    let w := leNat ((bs.drop (4 + 2 * j)).take 2)
    (bitsOf w 0 12, bitsOf w 12 4))

/-- Rows of local expert `i` among the first `k` records. -/
def InStream.pairCount (st : InStream) (i k : Nat) : Nat :=
  ((upto k).map (fun j => ((st.pairsAt j).filter (fun p => p.1 == i)).length)).sum

/-- The release mode of a record's chain (R158): one reference a pair for DISPATCH, the Combine unit for RETURN. -/
def InStream.mode (st : InStream) (k : Nat) : ChainMode :=
  if st.key.kind = 0 then .refs (st.pairsAt k).length else .owner 1

/-- The record has landed and waits for its place without a chain. -/
def InStream.unchained (st : InStream) (k : Nat) : Bool :=
  !st.big && st.recLanded k && !st.heads.any (fun h => h.1 == k) &&
  (if st.key.kind = 0 then decide (st.recs ≤ k) else !st.arrived.contains k)

/-- A landed record's cells become a chain (R158). -/
def chainRec (s : State) (st : InStream) (k : Nat) : State × InStream :=
  let q := splitCells (st.cellsUpTo ((k + 1) * st.recb) - st.cellsUpTo (k * st.recb)) st.cells
  match newChain s st.key.plane st.key.cid q.1 (st.mode k) with
  | some r => (r.1, { st with cells := q.2, freed := st.freed + cellsIn q.1, heads := st.heads ++ [(k, r.2)] })
  | none => (s, st)

/-- Every landed record that waits becomes a chain. -/
def landChains (s : State) (st : InStream) : State × InStream :=
  ((upto st.nrec).filter st.unchained).foldl (fun q k => chainRec q.1 q.2 k) (s, st)

/-- Cells of the chain at a pointer. -/
def chainCount (x : XdSt) (ptr : BitVec 32) : Nat := ((x.chains.find? (fun c => c.head == ptr)).map (·.count)).getD 0

/-- A placed record's chain is released, for DISPATCH once by each copy into the input area, and so freed (R138, R158). -/
def freeRec (s : State) (st : InStream) (k : Nat) : State × InStream :=
  match st.heads.find? (fun h => h.1 == k) with
  | none => (s, st)
  | some h =>
    let n := match st.mode k with | .refs n => n | .owner _ => 1
    ((upto n).foldl (fun t _ => releaseAt t st.key.plane st.key.unit st.key.cid.part h.2) s,
     { st with heads := st.heads.filter (fun g => g.1 != k), gone := st.gone + chainCount (getXd s st.key.plane) h.2 })

/-- The cells of records too long for a chain are free as far as the stream has landed. -/
def freeBig (s : State) (st : InStream) : State × InStream := if st.big then freeTo s st (st.cellsUpTo st.lead) else (s, st)

/-! ### The input area (R137, R141, R142) -/

/-- c[i][r][x] (R137). -/
def XCmd.cnt (x : XCmd) (i r pl : Nat) : Nat :=
  ((x.counts.filter (fun c => c.item == i && c.rank == r && c.plane.val == pl)).map (·.n)).sum

/-- Rows of home item `i`. -/
def XCmd.homeRows (x : XCmd) (i : Nat) : Nat := ((x.counts.filter (fun c => c.item == i)).map (·.n)).sum

/-- Rows of an item: a home item, or a weights-come item from NLOCAL on (R141). -/
def XCmd.itemRows (x : XCmd) (i : Nat) : Nat :=
  if i < x.par.nlocal then x.homeRows i else (nth (0, []) x.wcl (i - x.par.nlocal)).2.length

/-- base[i] (R141). -/
def XCmd.base (x : XCmd) (i : Nat) : Nat := ((upto i).map x.itemRows).sum

/-- pos(i, r, x, k) (R141). -/
def XCmd.pos (x : XCmd) (i r pl k : Nat) : Nat :=
  x.base i + ((upto r).map (fun q => x.cnt i q 0 + x.cnt i q 1)).sum + (if pl = 1 then x.cnt i r 0 else 0) + k

/-- The number of items. -/
def XCmd.items (x : XCmd) : Nat := x.par.nlocal + x.wcl.length

/-- P, the rows of the input area (R141). -/
def XCmd.p (x : XCmd) : Nat := x.base x.items

/-- What row `p` of the input area and of the origin table hold (Table 6.4). -/
def XCmd.rowWrites (x : XCmd) (p : Nat) (row : Bytes) (token src rank plane : Nat) : List (Nat × Bytes) :=
  [(x.par.rin + p * x.par.row64 * 64, row),
   (x.par.rorg + 64 + 8 * p, leBytes 8 (pack [(0, token), (16, src), (32, rank), (36, plane)]))]

/-- What placing token record `k` of a stream writes: its row once for each of its pairs (R141). -/
def recWrites (x : XCmd) (st : InStream) (k : Nat) : List (Nat × Bytes) :=
  let o := k * st.recb
  let row := st.bytes (o + 64) (st.recb - 64)
  (st.pairsAt k).flatMap (fun q =>
    let p := x.pos q.1 st.key.src st.key.plane.val (st.pairCount q.1 k)
    x.rowWrites p row (leNat (st.bytes o 2)) st.key.src q.2 st.key.plane.val)

/-- A receive table entry: its address and capacity (Table 6.11). -/
def a2aEntry (s : State) (x : XCmd) (r : Nat) : Except (BitVec 16) (Nat × Nat) :=
  match readUni s x.cid.part (x.rtbl + 16 * r) 16 with
  | .error e => .error e
  | .ok bs => .ok (bitsOf (leNat bs) 0 44, bitsOf (leNat bs) 64 32)

/-- The output areas of a command (R164). -/
def xAreas (s : State) (x : XCmd) : List (Nat × Nat) :=
  match x.mode with
  | .dispatch =>
    [(x.par.rin, x.par.rinRows * x.par.row64 * 64), (x.par.rorg, 64 + 8 * x.par.rinRows), (x.par.rxc, 8 * x.par.nlocal),
     (x.par.rdy, 4 * x.items), (x.par.win, x.par.winSlots * (ceilDiv x.par.wbytes 64 * 64))]
  | .ret => []
  | .a2a =>
    (upto x.ndev).flatMap (fun r =>
      (match a2aEntry s x r with | .ok q => [q] | .error _ => []) ++ [(x.rtbl + 16 * r + 12, 4)])

/-! ### Stopping a command -/

/-- An inbound stream whose bytes are discarded: its cells go back as bytes arrive, and it is acknowledged once it has
ended (R135, R142). -/
def settleDiscard (s : State) (st : InStream) : State :=
  let q := drainTo s st (ivBytes st.landed / 256)
  if st.ended.isSome ∧ ivHas st.landed 0 st.dbytes then
    let r := freeRest q.1 q.2
    sendX (leaveAsks (putIn r.1 { r.2 with done := true }) st.key) st.hdr .ack
  else putIn q.1 q.2

/-- The streams that `p` accepts are discarded from now on. -/
def discardIns (s : State) (p : InStream → Bool) : State :=
  let s1 := { s with ins := s.ins.map (fun st => if p st then { st with discard := true } else st) }
  (s1.ins.filter (fun st => p st && !st.done)).foldl settleDiscard s1

/-- The kinds of streams that a command sends. -/
def XCmd.sends (x : XCmd) (k : Fin 4) : Bool :=
  match x.mode with
  | .dispatch => k == 0 || k == 2
  | .ret => k == 1
  | .a2a => k == 3

/-- Removes the outbound streams of a command. -/
def dropOuts (s : State) (x : XCmd) : State :=
  { s with outs := s.outs.filter (fun o => !(o.key.cid == x.cid && o.key.xid == x.xid && x.sends o.key.kind)) }

/-- An OP_EXCHANGE or OP_A2A stops with a fault that leaves the given areas undefined: its own streams end, and the rest
of every inbound stream is accepted, discarded and acknowledged (R142, R164). -/
def stopXOn (s : State) (x : XCmd) (areas : List (Nat × Nat)) (inst : Nat) (err : OpErr) : State :=
  let s1 := faultCmd (havocAreas s x.cid.part areas) x.core.val x.entry 7 inst err
  let s2 := dropOuts (modX s1 x.cid x.xid (fun y => { y with sink := true })) x
  discardIns s2 (ofCmd x.cid x.xid)

/-- An OP_EXCHANGE or OP_A2A stops with a fault, its outputs undefined (R164). -/
def stopX (s : State) (x : XCmd) (inst : Nat) (err : OpErr) : State := stopXOn s x (xAreas s x) inst err

/-- The output rows of a combine whose tokens are not DONE (R164); the others keep their outputs. -/
def cmbAreas (s : State) (x : Cmb) : List (Nat × Nat) :=
  ((upto x.ntok).filter (fun u => match stateWord s x u with | .ok w => !bitAt w 21 | .error _ => true)).map (fun u =>
    (x.outAddr + u * x.o64 * 64, x.cols * (fmtBits x.outFmt / 8)))

/-- An OP_COMBINE stops with a fault, its missing outputs undefined; its streams are accepted, discarded and acknowledged. -/
def stopCmb (s : State) (x : Cmb) (inst : Nat) (err : OpErr) : State :=
  let s1 := faultCmd (havocAreas s x.cid.part (cmbAreas s x)) x.core.val x.entry 8 inst err
  let s2 := { s1 with cmbs := s1.cmbs.filter (fun y => y.entry != x.entry) }
  discardIns s2 (fun st => st.key.cid == x.cid && st.key.xid == x.xid && st.key.kind == 1)

/-- The command that receives a stream stops. -/
def stopFor (s : State) (st : InStream) (err : OpErr) : State :=
  if st.key.kind = 1 then
    match findCmb s st.key.cid st.key.xid with
    | some c => stopCmb s c st.key.plane.val err
    | none => s
  else
    match findX s st.key.cid st.key.xid with
    | some x => stopX s x st.key.plane.val err
    | none => s

/-! ### Completion (R149) -/

/-- The stream of a kind from a rank on a plane is done. -/
def inDone (s : State) (x : XCmd) (kind : Fin 4) (r : Nat) (pl : XDie) : Bool :=
  s.ins.any (fun st => ofCmd x.cid x.xid st && st.key.kind == kind && st.key.src == r && st.key.plane == pl && st.done)

/-- Every inbound stream of a command has ended and been placed. -/
def insDone (s : State) (x : XCmd) : Bool :=
  match x.mode with
  | .dispatch =>
    (upto x.ndev).all (fun r => inDone s x 0 r 0 && inDone s x 0 r 1) &&
    s.ins.all (fun st => !ofCmd x.cid x.xid st || st.done)
  | .ret => true
  | .a2a => (upto x.ndev).all (fun r => inDone s x 3 r (Fin.ofNat 2 x.self))

/-- A command is complete (R149, R162). -/
def xComplete (s : State) (x : XCmd) : Bool :=
  !x.sink && !s.outs.any (fun o => o.key.cid == x.cid && o.key.xid == x.xid && x.sends o.key.kind) && insDone s x &&
  (x.mode != .dispatch || (x.counted && (upto x.wcl.length).all (fun k => x.ready.contains (x.par.nlocal + k))))

/-- A complete command ends. -/
def checkX (s : State) (c : CtxId) (xid : BitVec 16) : State :=
  match findX s c xid with
  | none => s
  | some x =>
    if xComplete s x then
      let t := { s with
        xcmds := s.xcmds.filter (fun y => y.ghost || !(y.cid == c && y.xid == xid))
        ins := s.ins.filter (fun st => !ofCmd c xid st) }
      endCmd t x.core.val x.entry okOutcome
    else s

/-! ### Ready words (R143) -/

/-- Rows of home item `i` that have been placed. -/
def rowsPlaced (s : State) (x : XCmd) (i : Nat) : Nat :=
  ((s.ins.filter (fun st => ofCmd x.cid x.xid st && st.key.kind == 0)).map (fun st => st.pairCount i st.recs)).sum

/-- Item `i` has everything its ready word waits for. -/
def itemReady (s : State) (x : XCmd) (i : Nat) : Bool :=
  x.counted &&
  (if i < x.par.nlocal then rowsPlaced s x i == x.homeRows i else x.wdone.contains (i - x.par.nlocal))

/-- Writes the ready words that have become due. -/
def writeReady (s : State) (c : CtxId) (xid : BitVec 16) : State :=
  match findX s c xid with
  | none => s
  | some x =>
    if x.sink ∨ x.mode ≠ .dispatch then s
    else
      let due := (upto x.items).filter (fun i => !x.ready.contains i && itemReady s x i)
      match writeUniAll s c.part (due.map (fun i => (x.par.rdy + 4 * i, leBytes 4 (pack [(0, xid.toNat), (16, 1)])))) with
      | .ok t => modX t c xid (fun y => { y with ready := y.ready ++ due })
      | .error e => stopX s x 0 { code := e, detail := [] }

/-! ### Checks and acknowledgement (R148) -/

/-- A range failed its check: it is asked for again, and the second time the command stops. -/
def mismatch (s : State) (st : InStream) (off len : Nat) : State :=
  if st.tried.contains (off, len) then stopFor s st { code := Code.eXchCrc, detail := [] }
  else
    let st1 := { st with tried := st.tried ++ [(off, len)], landed := subIv off (off + len) st.landed }
    let st2 := if st.key.kind = 2 then st1 else { st1 with ended := none, recs := 0 }
    sendX (putIn s st2) st.hdr (.resend off len)

/-- The bytes of a RETURN stream that was sent again are placed as they have been checked: rows that had arrived are written to
their slots once more, MASK and COUNT as they are; a record whose slot has not landed is to arrive. A token that is DONE keeps
its output (R148, R153; DESIGN CHOICE, log 100). -/
def replaceRows (s : State) (x : Cmb) (st : InStream) : Except (BitVec 16) (State × InStream) :=
  st.arrived.foldl (fun acc k =>
    match acc with
    | .error e => .error e
    | .ok q =>
      let token := leNat (st.bytes (k * st.recb) 2)
      let rank := bitsOf (leNat (st.bytes (k * st.recb + 2) 1)) 0 4
      if token < x.tok0 ∨ x.tok0 + x.ntok ≤ token then .ok q
      else
        match stateWord q.1 x (token - x.tok0) with
        | .error e => .error e
        | .ok w =>
          if bitAt w 21 then .ok (q.1, { q.2 with arrived := q.2.arrived ++ [k] })
          else if !bitAt w rank then .ok q
          else
            match writeUni q.1 x.cid.part (x.slotAt (token - x.tok0) rank) (st.bytes (k * st.recb + 64) (st.recb - 64)) with
            | .error e => .error e
            | .ok t => .ok (t, { q.2 with arrived := q.2.arrived ++ [k] })) (.ok (s, { st with arrived := [] }))

/-- A placed and checked stream is acknowledged. -/
def ackIn (s : State) (st : InStream) : State :=
  let q := freeRest s st
  let s1 := sendX (leaveAsks (putIn q.1 { q.2 with done := true }) st.key) st.hdr .ack
  if st.key.kind = 1 ∧ (findCmb s st.key.cid st.key.xid).isNone then
    { s1 with ins := s1.ins.filter (fun y => y.key != st.key) }
  else checkX s1 st.key.cid st.key.xid

/-- A stream that has ended and landed is checked, and acknowledged once it is placed as well. -/
def finishIn (s : State) (st : InStream) (placed : Bool) : State :=
  match st.ended with
  | none => putIn s st
  | some crc =>
    if !ivHas st.landed 0 st.dbytes then putIn s st
    else if !st.checked && crc32c (st.bytes 0 st.dbytes) != crc then mismatch s st 0 st.dbytes
    else
      let st1 := { st with checked := true }
      match (if st.key.kind = 1 ∧ st.tried ≠ [] ∧ st.checked = false then findCmb s st.key.cid st.key.xid else none) with
      | none => if placed then ackIn s st1 else putIn s st1
      | some x =>
        match replaceRows s x st1 with
        | .error e => stopCmb (putIn s st1) x st.key.plane.val { code := e, detail := [] }
        | .ok q => if q.2.arrived.length = st.nrec then ackIn q.1 q.2 else putIn q.1 q.2

/-! ### DISPATCH and RETURN records -/

/-- Places token records in stream order while they have landed (R141). -/
def placeRecs : Nat → State → XCmd → InStream → Except (BitVec 16) (State × InStream)
  | 0, s, _, st => .ok (s, st)
  | n + 1, s, x, st =>
    if st.recs < st.nrec ∧ st.recLanded st.recs then
      match writeUniAll s x.cid.part (recWrites x st st.recs) with
      | .error e => .error e
      | .ok t =>
        let q := freeRec t st st.recs
        placeRecs n q.1 x { q.2 with recs := st.recs + 1 }
    else .ok (s, st)

/-- A DISPATCH stream: landed records wait in chains until the count phase has ended, then are placed. -/
def settleDispatch (s : State) (x : XCmd) (st : InStream) : State :=
  let q := landChains s st
  if x.counted then
    match placeRecs (st.nrec + 1) q.1 x q.2 with
    | .error e => stopX (putIn q.1 q.2) x st.key.plane.val { code := e, detail := [] }
    | .ok r =>
      let b := freeBig r.1 r.2
      finishIn (writeReady (putIn b.1 b.2) x.cid x.xid) b.2 (b.2.recs == b.2.nrec)
  else finishIn q.1 q.2 false

/-- A RETURN stream: landed records wait in chains for their arrival at the Combine unit. -/
def settleReturn (s : State) (st : InStream) : State :=
  let q := landChains s st
  let b := freeBig q.1 q.2
  finishIn b.1 b.2 (b.2.arrived.length == b.2.nrec)

/-! ### WEIGHTS (R146-R148) -/

/-- What the head of a WEIGHTS stream says (R147): the requesters, the expert, and where the chunk CRCs and the weights
begin. -/
structure WHead where
  expert : Nat
  ranks : List Nat
  crcs : Nat
  data : Nat
  deriving DecidableEq, Repr

/-- Bytes up to the next multiple of 64. -/
def pad64 (n : Nat) : Nat := ceilDiv n 64 * 64

/-- The head of a WEIGHTS stream once it has landed. -/
def wHead (st : InStream) : Option WHead :=
  if !ivHas st.landed 0 64 then none
  else
    let v := leNat (st.bytes 0 64)
    let n := bitsOf v 0 16
    let crcs := 64 + pad64 (2 * n)
    let data := crcs + pad64 (4 * ceilDiv (bitsOf v 32 40) 65536)
    if !ivHas st.landed 0 data then none
    else some { expert := bitsOf v 16 14, ranks := wordsOf 2 (st.bytes 64 (2 * n)), crcs := crcs, data := data }

/-- A WEIGHTS stream that this device sends. -/
def weightsOut (c : CtxId) (xid : BitVec 16) (plane : XDie) (self dst expert dbytes : Nat) (par : XPar) (data : Bytes) :
    OutStream :=
  { key := { cid := c, kind := 2, xid := xid, plane := plane, dst := dst, idx := expert }, self := self, counts := []
    nent := 0, dbytes := dbytes, row64 := par.row64, wbytes := par.wbytes, data := data, st := .waitOpen, entry := false
    counted := true, credit := 0, sent := 0 }

/-- A requester's forward streams, to requesters 2i + 1 and 2i + 2 where they exist (R147). -/
def forwards (x : XCmd) (st : InStream) (h : WHead) : List OutStream :=
  match (h.ranks.zipIdx).find? (fun q => q.1 == x.self) with
  | none => []
  | some q =>
    (([2 * q.2 + 1, 2 * q.2 + 2]).filterMap (fun j => h.ranks[j]?)).map (fun d =>
      weightsOut x.cid x.xid st.key.plane x.self d h.expert st.dbytes x.par (st.bytes 0 h.data))

/-- The head has landed: this device must be a requester of an expert on its weights-come list; its forward streams
begin. -/
def openForwards (s : State) (x : XCmd) (st : InStream) (h : WHead) : Except (BitVec 16) State :=
  if !h.ranks.contains x.self || !x.wcl.any (fun w => w.1 == h.expert) then .error Code.eXchPeer
  else .ok (pushOuts s x.cid (forwards x st h))

/-- Bytes of chunk `j`. -/
def chunkLen (st : InStream) (h : WHead) (j : Nat) : Nat := min 65536 (st.dbytes - (h.data + 65536 * j))

/-- The number of chunks. -/
def chunkCount (st : InStream) (h : WHead) : Nat := ceilDiv (st.dbytes - h.data) 65536

/-- The place of the expert on the weights-come list. -/
def wclPlace (x : XCmd) (expert : Nat) : Nat := (x.wcl.takeWhile (fun w => w.1 != expert)).length

/-- A landed chunk is checked against its CRC and placed (R146, R148). -/
def takeChunk (s : State) (x : XCmd) (k : InKey) (h : WHead) (j : Nat) : State :=
  match getIn s k with
  | none => s
  | some st =>
    let off := h.data + 65536 * j
    let len := chunkLen st h j
    if st.discard ∨ st.chunks.contains j ∨ !ivHas st.landed off (off + len) then s
    else
      let bs := st.bytes off len
      if (crc32c bs).toNat ≠ leNat (st.bytes (h.crcs + 4 * j) 4) then mismatch s st off len
      else
        match writeUni s x.cid.part (x.par.win + wclPlace x h.expert * pad64 x.par.wbytes + 65536 * j) bs with
        | .error e => stopX s x st.key.plane.val { code := e, detail := [] }
        | .ok t => putIn t { st with chunks := insNat j st.chunks }

/-- The checked prefix of a WEIGHTS stream: head, requesters, CRCs and the leading run of placed chunks. -/
def checkedPrefix (st : InStream) (h : WHead) : Nat :=
  min st.dbytes (h.data + 65536 * ((upto (chunkCount st h)).takeWhile (fun j => st.chunks.contains j)).length)

/-- Forward streams gain the chunks that have been checked. -/
def feedForwards (s : State) (x : XCmd) (st : InStream) (h : WHead) : State :=
  let data := st.bytes 0 (checkedPrefix st h)
  feedOuts s ((s.outs.filter (fun o => o.key.cid == x.cid && o.key.xid == x.xid && o.key.kind == 2 && o.key.idx == h.expert)).map
    (fun o => { o with data := data }))

/-- A WEIGHTS stream: its head opens the forwards, its chunks are checked, placed and forwarded. -/
def settleWeights (s : State) (x : XCmd) (st : InStream) : State :=
  match wHead st with
  | none => finishIn s st false
  | some h =>
    let opened := if st.recs = 0 then openForwards s x st h else .ok s
    match opened with
    | .error e => stopX s x st.key.plane.val { code := e, detail := [] }
    | .ok s1 =>
      let s2 := (upto (chunkCount st h)).foldl (fun t j => takeChunk t x st.key h j) (putIn s1 { st with recs := 1 })
      match getIn s2 st.key with
      | none => s2
      | some st2 =>
        if st2.discard then s2
        else
          let q := freeTo s2 st2 (checkedPrefix st2 h / 256)
          let all := st2.chunks.length == chunkCount st2 h
          let s3 := feedForwards (putIn q.1 q.2) x q.2 h
          let s4 := if all then
              writeReady (modX s3 x.cid x.xid (fun y => { y with wdone := insNat (wclPlace x h.expert) y.wdone })) x.cid x.xid
            else s3
          finishIn s4 q.2 all

/-! ### A2A (R162) -/

/-- An A2A stream: its bytes are placed as they land, and its length is written once it has ended. -/
def settleA2a (s : State) (x : XCmd) (st : InStream) : State :=
  let q := freeTo s st (ivBytes st.landed / 256)
  if q.2.ended.isSome ∧ ivHas q.2.landed 0 q.2.dbytes then
    match writeUni q.1 x.cid.part (x.rtbl + 16 * st.key.src + 12) (leBytes 4 st.dbytes) with
    | .error e => stopX (putIn q.1 q.2) x st.key.plane.val { code := e, detail := [] }
    | .ok t => finishIn t q.2 true
  else putIn q.1 q.2

/-- A stream is brought up to date after bytes or its end have arrived. -/
def settleIn (s : State) (k : InKey) : State :=
  match getIn s k with
  | none => s
  | some st =>
    if st.done then s
    else if st.discard then settleDiscard s st
    else if k.kind = 1 then settleReturn s st
    else
      match findX s k.cid k.xid with
      | none => s
      | some x => if k.kind = 0 then settleDispatch s x st else if k.kind = 2 then settleWeights s x st else settleA2a s x st

/-! ### Messages -/

/-- What the receiving context has for a stream's XOPEN (R135): no command, a command that disagrees, or one that
accepts it. `sunk` is a command that has stopped. -/
inductive XAccept where
  | none
  | bad
  | sunk
  | ok
  deriving DecidableEq, Repr

/-- Looks the receiving command up. -/
def xAccept (s : State) (c : CtxId) (h : XHdr) (row64 wbytes : Nat) : XAccept :=
  if h.kind = 1 then
    match findCmb s c h.xid with
    | some m => if m.row64 = row64 then .ok else .bad
    | none => .none
  else
    match findX s c h.xid with
    | none => .none
    | some x =>
      if x.sink then .sunk
      else
        match x.mode with
        | .dispatch =>
          if (h.kind = 0 ∨ (h.kind = 2 ∧ x.par.wbytes = wbytes)) ∧ x.par.row64 = row64 then .ok else .bad
        | .ret => .bad
        | .a2a => if h.kind = 3 ∧ row64 = 0 then .ok else .bad

/-- The context that a message concerns: the one that holds its command, else the first that its tag names. -/
def xCtx (s : State) (h : XHdr) : Option CtxId :=
  let cs := msgCtxs s h.jtag
  match cs.find? (fun c => if h.kind = 1 then (findCmb s c h.xid).isSome else (findX s c h.xid).isSome) with
  | some c => some c
  | none => cs.head?

/-- A stream as its XOPEN gives it. -/
def newIn (c : CtxId) (h : XHdr) (dbytes row64 : Nat) (discard : Bool) : InStream :=
  { key := { cid := c, kind := h.kind, xid := h.xid, plane := h.plane, src := h.srcRank.toNat }, hdr := h, dbytes := dbytes
    recb := if h.kind = 0 ∨ h.kind = 1 then 64 + 64 * row64 else 0, first := 0, granted := 0, freed := 0, cells := []
    buf := [], landed := [], recs := 0, heads := [], arrived := [], chunks := [], tried := [], ended := none
    checked := false, done := false, discard := discard }

/-- A stream is accepted and answered with XREADY: every kind but DISPATCH asks for credit with its XOPEN (R138). -/
def acceptIn (s : State) (st : InStream) : State :=
  let s1 := { s with ins := s.ins ++ [st] }
  if st.key.kind = 0 ∨ st.dbytes = 0 then sendX s1 st.hdr (.ready 0)
  else
    match (if (getXd s st.key.plane).asks.isEmpty then grantCells s1 st else none) with
    | some q =>
      let st2 := { q.2 with first := 256 }
      let s2 := putIn q.1 st2
      sendX (if wantsCredit st2 then joinAsks s2 st.key else s2) st.hdr (.ready 256)
    | none => sendX (joinAsks s1 st.key) st.hdr (.ready 0)

/-- A DISPATCH stream's count part is known from its XOPEN. -/
def addRank (s : State) (c : CtxId) (h : XHdr) (ncnt : Nat) : State :=
  if h.kind = 0 then
    modX s c h.xid (fun x => { x with
      ranks := x.ranks ++ [{ rank := h.srcRank.toNat, plane := h.plane, ncnt := ncnt, seqs := [] }] })
  else s

/-- Why an A2A block is not received: it is longer than the capacity of its receive entry, or that cannot be read. -/
def a2aFault (s : State) (c : CtxId) (h : XHdr) (dbytes : Nat) : Option (BitVec 16) :=
  if h.kind = 3 then
    match findX s c h.xid with
    | some x =>
      match a2aEntry s x h.srcRank.toNat with
      | .ok e => if e.2 < dbytes then some Code.eA2aSpace else none
      | .error e => some e
    | none => none
  else none

/-- The context has completed a command that takes this stream since its restart mark (R349). -/
def isRetained (s : State) (c : CtxId) (h : XHdr) : Bool :=
  (getCtx s c).retained.any (fun k => k.2 == h.xid &&
    (match h.kind with
     | 0 | 2 => k.1 == 0x0304
     | 1 => k.1 == 0x0305
     | _ => k.1 == 0x0404))

/-- What the completed commands of an exchange owe a coordinate that has been taken over is sent again (R350). -/
def reopenKept (s : State) (c : CtxId) (h : XHdr) : State :=
  let os := s.kept.filter (fun o => o.key.cid == c && o.key.xid == h.xid && o.key.dst == h.srcRank.toNat &&
    !s.outs.any (fun y => y.key == o.key))
  { s with outs := s.outs ++ os }

/-- A message for a stream of which there is no record is answered XWAIT (R350). -/
def noRecord (s : State) (h : XHdr) : State :=
  if unitsRun s ∧ (xCtx s h).isSome then sendX s h .wait else s

/-- The stream that a repeated XOPEN concerns. The XOPEN after a WEIGHTS stream has been acknowledged opens the next one of
that rank and plane: their messages carry the same names, so they follow one another (R134, R147). -/
def openedIn (s : State) (h : XHdr) : Option InStream := (findIn s h).filter (fun st => !(st.done && st.key.kind == 2))

/-- Forgets an acknowledged WEIGHTS stream whose names the next one takes. -/
def dropDone (s : State) (h : XHdr) : State :=
  match findIn s h with
  | some st => { s with ins := s.ins.filter (fun x => x.key != st.key) }
  | none => s

/-- A stream that its command cannot take is accepted to be discarded, and the command stops. -/
def rejectIn (s : State) (st : InStream) (code : BitVec 16) : State := stopFor (acceptIn s st) st { code := code, detail := [] }

/-- What an XOPEN does. A repeated one is answered as the first was (R245). -/
def openIn (h : XHdr) (ncnt dbytes row64 wbytes : Nat) (s : State) : State :=
  match openedIn s h, xCtx s h with
  | some st, _ => sendX s h (.ready st.first)
  | none, none => s
  | none, some c =>
    let s := dropDone s h
    let sunk := newIn c h dbytes row64 true
    match xAccept s c h row64 wbytes with
    | .none => if isRetained s c h then reopenKept (acceptIn s sunk) c h else sendX s h .wait
    | .sunk => acceptIn s sunk
    | .bad => rejectIn s sunk Code.eXchPeer
    | .ok =>
      match a2aFault s c h dbytes with
      | some e => rejectIn s sunk e
      | none => addRank (acceptIn s (newIn c h dbytes row64 false)) c h ncnt

/-- XOPEN (R135): answered XREADY when a command in flight accepts the stream, XWAIT when there is none; a stream that
disagrees is discarded and its command stops. -/
def execXopen (h : XHdr) (ncnt : BitVec 16) (nent : BitVec 32) (dbytes : BitVec 40) (row64 : BitVec 14)
    (wbytes : BitVec 40) (s : State) : Host.Outcome State Fault Refusal :=
  if unitsRun s then
    .next (coherentLate (.xopen h ncnt nent dbytes row64 wbytes)
      (openIn h ncnt.toNat dbytes.toNat row64.toNat wbytes.toNat) s)
  else .next s

/-- XASK (R138). -/
def execXask (h : XHdr) (s : State) : Host.Outcome State Fault Refusal :=
  match findIn s h with
  | some st => if unitsRun s ∧ wantsCredit st then .next (joinAsks s st.key) else .next s
  | none => .next (noRecord s h)

/-- Bytes of a stream land in its cells: those in Spillway cells lie in HBM3E (R160). -/
def landBytes (s : State) (st : InStream) (a : Nat) (data : Bytes) : State :=
  let skip := 256 * st.freed - a
  putIn (spillData s (getXd s st.key.plane) st.cells (a - 256 * st.freed) (data.drop skip))
    { st with buf := Memory.write st.buf a data, landed := addIv a (a + data.length) st.landed }

/-- Bytes of an A2A stream go to their place as they land (R162). -/
def landA2a (s : State) (x : XCmd) (st : InStream) (a : Nat) (data : Bytes) : State :=
  let s1 := landBytes s st a data
  match a2aEntry s x st.key.src with
  | .error e => stopX s1 x st.key.plane.val { code := e, detail := [] }
  | .ok q =>
    match writeUni s1 x.cid.part (q.1 + a) data with
    | .error e => stopX s1 x st.key.plane.val { code := e, detail := [] }
    | .ok t => settleIn t st.key

/-- What stream data does once it may land. -/
def landIn (st : InStream) (a : Nat) (data : Bytes) (s : State) : State :=
  match (if st.key.kind = 3 ∧ !st.discard then findX s st.key.cid st.key.xid else none) with
  | some x => landA2a s x st a data
  | none => settleIn (landBytes s st a data) st.key

/-- Bytes from an offset may land in a stream: within its credit and its length, and not a second copy (R138, R245). -/
def mayLand (st : InStream) (a n : Nat) : Bool :=
  !st.done && n != 0 && decide (n ≤ 2048) && decide (a + n ≤ min st.dbytes (256 * st.granted)) && !ivHas st.landed a (a + n)

/-- STREAM_DATA: bytes within the stream's credit land (R138, R141); a second copy changes nothing (R245). -/
def execStreamData (h : XHdr) (offset : BitVec 40) (data : Bytes) (s : State) : Host.Outcome State Fault Refusal :=
  match findIn s h with
  | none => .next (noRecord s h)
  | some st =>
    if unitsRun s ∧ mayLand st offset.toNat data.length then
      .next (coherentLate (.streamData h offset data) (landIn st offset.toNat data) s)
    else .next s

/-- XEND (R148). -/
def execXend (h : XHdr) (dbytes : BitVec 40) (crc : BitVec 32) (s : State) : Host.Outcome State Fault Refusal :=
  match findIn s h with
  | none => .next (noRecord s h)
  | some st =>
    if unitsRun s ∧ ¬ st.done ∧ st.ended = none then
      .next (coherentLate (.xend h dbytes crc) (fun t => settleIn (putIn t { st with ended := some crc }) st.key) s)
    else .next s

/-- XACK: a sent stream is done, and its command may be (R149). -/
def execXack (h : XHdr) (s : State) : Host.Outcome State Fault Refusal :=
  match findOut s h (· == .ended) with
  | some o =>
    if unitsRun s then .next (checkX { s with outs := s.outs.filter (fun y => y.key != o.key) } o.key.cid o.key.xid)
    else .next s
  | none => .next s

end Sys2Proof.Machine
end

