-- ==== Sys2Proof/Machine/Clock.lean ====
section
/-! DEFINITION. The model's clock: what one nanosecond does whatever is commanded. -/

namespace Sys2Proof.Machine

/-- Exchange-die cycles that end in the nanosecond after `t`: their clock is a fixed 1.4 GHz. -/
def dieCycles (t : Nat) : Nat := 14 * (t + 1) / 10 - 14 * t / 10

/-- A grant of credit to an asking stream is refused for want of cells (R161). -/
def creditRefused (s : State) (k : InKey) : Bool :=
  match getIn s k with
  | none => false
  | some st => wantsCredit st && decide (unusedCredit st + 256 ≤ 512) &&
      (takeCells 256 (getXd s k.plane) k.cid.part.val []).isNone

/-- A chunk still waits for its cells (R181). -/
def chunkRefused (s : State) (die : XDie) (a : ChunkAsk) : Bool :=
  s.colls.any (fun k => k.cid == a.cid && k.id == a.id && !k.done && k.expects a.chunk a.pass a.peer &&
    (k.findIn a.chunk a.pass a.peer).isNone) &&
  (takeCells a.cells (getXd s die) a.cid.part.val []).isNone

/-- The wait counters of one exchange die (XD_XCH_BP, XD_COL_WAIT). -/
def countWaits (s : State) (die : XDie) : State :=
  let x := getXd s die
  let n := dieCycles s.now
  let bp := if x.asks.any (creditRefused s) then satAdd x.xchBp n else x.xchBp
  let cw := if x.chunkAsks.any (chunkRefused s die) then satAdd x.colWait n else x.colWait
  setXd s die { x with xchBp := bp, colWait := cw }

/-- What a nanosecond does in the block: Fabric Time counts (R378), engine time runs (R340), the wait counters count. -/
def blockTick (s : State) : State :=
  let s1 : State := { s with ft := ftAdvance s.ft }
  if unitsRun s1 then countWaits (countWaits (engineTick s1) 0) 1 else s1

/-- One nanosecond passes. -/
def tick (s : State) : State :=
  let t := if s.gl.inReset then s else blockTick s
  { t with now := t.now + 1 }

end Sys2Proof.Machine
end

