-- ==== Sys2Proof/Machine/Plan.lean ====
section
/-! DEFINITION. OP_EXPERT_PLAN: plan templates and the lists they expand into (R129-R131, R144, R308-R310). -/

namespace Sys2Proof.Machine

/-! ### Templates (R308, R309) -/

/-- A patch entry (Table 13.15). -/
structure Patch where
  cmd : Nat
  pos : Nat
  width : Nat
  src : Nat
  mul : Nat
  bad : Bool
  deriving DecidableEq, Repr

/-- A plan template (Table 13.14). -/
structure Template where
  cmds : List Nat
  patches : List Patch
  wtab : Nat
  win : Nat
  wbytes : Nat
  rdy : Nat
  deriving DecidableEq, Repr

/-- A patch entry's fields; `bad` is a set reserved bit. -/
def patchOf (v : Nat) : Patch :=
  { cmd := bitsOf v 0 6, pos := bitsOf v 6 9, width := bitsOf v 15 6 + 1, src := bitsOf v 21 5, mul := bitsOf v 32 32
    bad := bitsOf v 26 6 != 0 }

/-- Reads a template. -/
def readTemplate (s : State) (p : PartI) (a : Nat) : Except (BitVec 16) Template :=
  match readUni s p a 64 with
  | .error e => .error e
  | .ok hb =>
    let h := leNat hb
    let n := bitsOf h 0 6
    match readUni s p (a + 64) (64 * n), readUni s p (a + 64 + 64 * n) (8 * bitsOf h 8 8) with
    | .ok cb, .ok pb =>
      .ok { cmds := wordsOf 64 cb, patches := (wordsOf 8 pb).map patchOf, wtab := bitsOf h 16 44, win := bitsOf h 60 44
            wbytes := bitsOf h 104 40, rdy := bitsOf h 144 44 }
    | .error e, _ => .error e
    | _, .error e => .error e

/-- A template breaks the rules of R309. -/
def templateBad (t : Template) : Bool :=
  t.cmds.isEmpty ||
  t.patches.any (fun q => decide (t.cmds.length ≤ q.cmd) || decide (q.pos < 32) || decide (512 < q.pos + q.width) ||
    decide (13 < q.src) || q.bad) ||
  t.cmds.any (fun c => bitsOf c 0 16 == 0x0303 || (bitsOf c 0 16 == 0x0500 && bitsOf c 64 3 == 3))

/-! ### Items (R130) -/

/-- An item of the plan. `place` is LOCAL_IDX of a home item and the place on the weights-come list of another. -/
structure PlanItem where
  idx : Nat
  home : Bool
  place : Nat
  expert : Nat
  rows : Nat
  base : Nat
  wcsrc : Nat
  deriving DecidableEq, Repr

/-- One expansion of a template: for an item's chunk on a core. -/
structure Emit where
  item : PlanItem
  core : Nat
  empty : Bool
  m : Nat
  chunk : Nat
  nchunk : Nat
  seq : Nat
  deriving DecidableEq, Repr

/-- Gives items their index and row base (R141). -/
def placeItems : Nat → Nat → List PlanItem → List PlanItem
  | _, _, [] => []
  | i, b, x :: t => { x with idx := i, base := b } :: placeItems (i + 1) (b + x.rows) t

/-- The core with the least load, ties to the lower index (R130). -/
def leastLoaded (loads : List Nat) : Nat :=
  ((loads.zipIdx).foldl (fun best q => if q.1 < best.1 then q else best) (nth 0 loads 0, 0)).2

/-- What dealing out keeps: loads and chunk counts by core, the expansions so far (last first) and the chunks. -/
structure Deal where
  loads : List Nat
  seqs : List Nat
  emits : List Emit
  chunks : Nat
  deriving DecidableEq, Repr

/-- Deals one chunk of an item. -/
def dealChunk (chunk : Nat) (x : PlanItem) (d : Deal) (i : Nat) : Deal :=
  let c := leastLoaded d.loads
  let m := min chunk (x.rows - i * chunk)
  let e : Emit := { item := x, core := c, empty := false, m := m, chunk := i, nchunk := ceilDiv x.rows chunk, seq := nth 0 d.seqs c }
  { loads := setNth d.loads c (nth 0 d.loads c + m), seqs := setNth d.seqs c (nth 0 d.seqs c + 1), emits := e :: d.emits
    chunks := d.chunks + 1 }

/-- Deals one item: its chunks, or the empty-expert template once (R130). -/
def dealItem (chunk : Nat) (etpl : Bool) (d : Deal) (x : PlanItem) : Deal :=
  if x.rows = 0 then
    if etpl then
      let c := leastLoaded d.loads
      { d with emits := { item := x, core := c, empty := true, m := 0, chunk := 0, nchunk := 0, seq := nth 0 d.seqs c } :: d.emits }
    else d
  else (upto (ceilDiv x.rows chunk)).foldl (dealChunk chunk x) d

/-! ### Patching (R308) -/

/-- A home item's weight-table entry. -/
def weightEntry (s : State) (p : PartI) (t : Template) (x : PlanItem) : Except (BitVec 16) Nat :=
  match readUni s p (t.wtab + 8 * x.place) 8 with
  | .error e => .error e
  | .ok bs => .ok (leNat bs)

/-- The value of a patch source (Table 13.16). -/
def patchValue (s : State) (p : PartI) (t : Template) (chunk : Nat) (e : Emit) (src : Nat) : Except (BitVec 16) Nat :=
  let x := e.item
  match src with
  | 0 => .ok x.idx
  | 1 => if x.home then (weightEntry s p t x).map (fun v => bitsOf v 44 14) else .ok x.expert
  | 2 => .ok (if x.home then x.place else 0)
  | 3 => .ok (b2n (!x.home))
  | 4 => .ok (x.base + e.chunk * chunk)
  | 5 => .ok e.m
  | 6 => .ok e.chunk
  | 7 => .ok e.nchunk
  | 8 => .ok x.rows
  | 9 => if x.home then (weightEntry s p t x).map (fun v => bitsOf v 0 44)
         else .ok (t.win + x.place * (ceilDiv t.wbytes 64 * 64))
  | 10 => .ok (if x.home then x.wcsrc else 0)
  | 11 => .ok (t.rdy + 4 * x.idx)
  | 12 => .ok e.core
  | _ => .ok e.seq

/-- Replaces a field of a command. -/
def setField (c pos width v : Nat) : Nat := c - bitsOf c pos width * 2 ^ pos + v * 2 ^ pos

/-- Applies the patches of a template in order. -/
def applyPatches (s : State) (p : PartI) (t : Template) (chunk : Nat) (e : Emit) :
    List Patch → List Nat → Except (BitVec 16) (List Nat)
  | [], cs => .ok cs
  | q :: r, cs =>
    match patchValue s p t chunk e q.src with
    | .error c => .error c
    | .ok v =>
      let c := nth 0 cs q.cmd
      let f := (bitsOf c q.pos q.width + v * q.mul % 2 ^ 64) % 2 ^ q.width
      applyPatches s p t chunk e r (setNth cs q.cmd (setField c q.pos q.width f))

/-- The commands of one expansion: copied, CORE written, patched. -/
def expand (s : State) (p : PartI) (t : Template) (chunk : Nat) (e : Emit) : Except (BitVec 16) Bytes :=
  match applyPatches s p t chunk e t.patches (t.cmds.map (fun c => setField c 16 7 e.core)) with
  | .error c => .error c
  | .ok cs => .ok (cs.flatMap (leBytes 64))

/-- The commands of several expansions, one after another. -/
def expandAll (s : State) (p : PartI) (tpl etpl : Template) (chunk : Nat) : List Emit → Except (BitVec 16) Bytes
  | [] => .ok []
  | e :: r =>
    match expand s p (if e.empty then etpl else tpl) chunk e, expandAll s p tpl etpl chunk r with
    | .ok a, .ok b => .ok (a ++ b)
    | .error c, _ => .error c
    | _, .error c => .error c

/-- The list of one core (Table 13.17). -/
def coreList (s : State) (p : PartI) (tpl etpl : Template) (chunk : Nat) (emits : List Emit) (c : Nat) :
    Except (BitVec 16) Bytes :=
  match expandAll s p tpl etpl chunk (emits.filter (fun e => e.core == c)) with
  | .error e => .error e
  | .ok bs => .ok (leBytes 64 (pack [(0, c), (16, bs.length / 64)]) ++ bs)

/-- The lists of some cores. -/
def coreLists (s : State) (p : PartI) (tpl etpl : Template) (chunk : Nat) (emits : List Emit) :
    List Nat → Except (BitVec 16) Bytes
  | [] => .ok []
  | c :: t =>
    match coreList s p tpl etpl chunk emits c, coreLists s p tpl etpl chunk emits t with
    | .ok a, .ok b => .ok (a ++ b)
    | .error e, _ => .error e
    | _, .error e => .error e

/-! ### The command -/

/-- The fields of OP_EXPERT_PLAN (Table 5.18). -/
structure Ep where
  rxc : Nat
  wcl : Nat
  tpl : Nat
  etpl : Nat
  out : Nat
  outBytes : Nat
  nlocal : Nat
  chunk : Nat
  deriving DecidableEq, Repr

/-- The fields of a descriptor. -/
def epOf (d : Desc) : Ep :=
  { rxc := fld d 64 44, wcl := fld d 108 44, tpl := fld d 152 44, etpl := fld d 196 44, out := fld d 240 44
    outBytes := fld d 284 32, nlocal := fld d 316 13, chunk := fld d 329 13 }

/-- The checks of OP_EXPERT_PLAN after R10 (R131). -/
def epPrep (e : Entry) (x : Ep) (s : State) (_core : Nat) : Prep :=
  if 4096 < x.nlocal ∨ x.chunk = 0 ∨ 4096 < x.chunk ∨ x.tpl = 0 ∨ x.outBytes < 64 then rejectWith Code.ePlanShape
  else if !areasOk s e.cid.part ([(x.rxc, 8 * x.nlocal), (x.wcl, 16), (x.tpl, 64)] ++
      (if x.etpl = 0 then [] else [(x.etpl, 64)]) ++ [(x.out, x.outBytes)]) then rejectWith Code.eDescOperand
  else .go []

/-- The experts of a weights-come list: index and rows (R118). -/
def wclItems (s : State) (p : PartI) : Nat → Nat → Except (BitVec 16) (List (Nat × Nat))
  | 0, _ => .ok []
  | n + 1, a =>
    match readUni s p a 8 with
    | .error e => .error e
    | .ok bs =>
      let rows := bitsOf (leNat bs) 16 17
      match wclItems s p n (a + 8 + 4 * rows) with
      | .error e => .error e
      | .ok t => .ok ((bitsOf (leNat bs) 0 14, rows) :: t)

/-- The items of a plan, in the order of R130. -/
def planItems (s : State) (p : PartI) (x : Ep) : Except (BitVec 16) (List PlanItem) :=
  match readUni s p x.rxc (8 * x.nlocal), readUni s p x.wcl 16 with
  | .error e, _ => .error e
  | _, .error e => .error e
  | .ok rb, .ok hb =>
    match wclItems s p (leNat (hb.take 2)) (x.wcl + 16) with
    | .error e => .error e
    | .ok ws =>
      let homes := ((wordsOf 8 rb).zipIdx).map (fun q =>
        ({ idx := 0, home := true, place := q.2, expert := 0, rows := bitsOf q.1 0 32, base := 0, wcsrc := bitsOf q.1 32 17 } : PlanItem))
      let comes := (ws.zipIdx).map (fun q =>
        ({ idx := 0, home := false, place := q.2, expert := q.1.1, rows := q.1.2, base := 0, wcsrc := 0 } : PlanItem))
      .ok (placeItems 0 0 (homes ++ comes))

/-- The plan summary (Table 5.19). -/
def planSummary (items : List PlanItem) (d : Deal) (bytes : Nat) : Bytes :=
  leBytes 64 (pack [(0, (items.filter (fun i => i.rows != 0)).length), (16, (items.filter (fun i => i.rows == 0)).length),
    (32, d.chunks), (64, d.loads.foldl max 0), (96, bytes)])

/-- The plan's commands are handed to the cores: PLAN waits may take their lists from here (R310). -/
def handPlan (s : State) (e : Entry) (out : Nat) : State :=
  let x := getCtx s e.cid
  setCtx s e.cid { x with
    plans := replaceFirst (fun p => p.pos == e.pos) (fun p => { p with handed := true, out := BitVec.ofNat 44 out }) x.plans }

/-- The instance of the control core that reports: the first of the issuing core's die. -/
def planInst (core : Nat) : Nat := 4 * (core / 32)

/-- A plan that fails after its counts are known: the summary with BYTES 0, and nothing past it (R131, R309). -/
def planFail (s : State) (e : Entry) (core : Nat) (x : Ep) (items : List PlanItem) (d : Deal) (code : BitVec 16) :
    State × Ended :=
  settleUni (match writeUni s e.cid.part x.out (planSummary items d 0) with | .ok t => t | .error _ => s) e 1
    (planInst core) (uniFault code [] [])

/-- The plan is made (R130, R131, R308, R309). -/
def makePlan (e : Entry) (x : Ep) (s : State) (core : Nat) : State × Ended :=
  let p := e.cid.part
  let access := fun (c : BitVec 16) => settleUni s e 1 (planInst core) (uniFault c [] [(x.out, x.outBytes)])
  match planItems s p x, readTemplate s p x.tpl, (if x.etpl = 0 then readTemplate s p x.tpl else readTemplate s p x.etpl) with
  | .error c, _, _ => access c
  | _, .error c, _ => access c
  | _, _, .error c => access c
  | .ok items, .ok tpl, .ok etpl =>
    let n := ncores (getPart s p)
    let d := items.foldl (dealItem x.chunk (x.etpl != 0)) { loads := List.replicate n 0, seqs := List.replicate n 0, emits := [], chunks := 0 }
    if templateBad tpl || templateBad etpl then planFail s e core x items d Code.ePlanTpl
    else
      match coreLists s p tpl etpl x.chunk d.emits.reverse (upto n) with
      | .error c => access c
      | .ok lists =>
        if x.outBytes < 64 + lists.length then planFail s e core x items d Code.ePlanSpace
        else
          let r := settleUni s e 1 (planInst core)
            { writes := [(x.out, planSummary items d lists.length ++ lists)], areas := [(x.out, x.outBytes)] }
          (if r.2 = .ended okOutcome then handPlan r.1 e (x.out + 64) else r.1, r.2)

/-- A DISPATCH of the context with the same receive count table is in its count phase (R144). -/
def planWaits (s : State) (c : CtxId) (rxc : Nat) : Bool :=
  s.xcmds.any (fun y => y.cid == c && decide (y.mode = .dispatch) && y.par.rxc == rxc && !y.counted && !y.sink && !y.ghost)

/-- OP_EXPERT_PLAN runs, or waits for the count phase of its exchange (R144). -/
def runPlan (e : Entry) (x : Ep) (s : State) (core : Nat) : State × Ended :=
  if planWaits s e.cid x.rxc then (s, .running) else makePlan e x s core

/-- A skipped plan hands no list. -/
def skipPlan (e : Entry) (s : State) (_core : Nat) : State :=
  let x := getCtx s e.cid
  setCtx s e.cid { x with plans := x.plans.filter (fun p => p.pos != e.pos) }

/-- The row of OP_EXPERT_PLAN. -/
def planRow (e : Entry) : OpRow :=
  let x := epOf e.desc
  { row := opcode e.desc == 0x0303
    reserved := fld e.desc 342 170 != 0
    classes := [2]
    prep := epPrep e x
    skip := skipPlan e
    run := runPlan e x }

/-- OP_EXPERT_PLAN (R131). -/
def execOpExpertPlan (e : Entry) (s : State) : Host.Outcome State Fault Refusal :=
  .next (issueCmd s e (planRow e))

/-- The plans of a context that waited for a receive count table are made (R144). -/
def startPlans (s : State) (c : CtxId) (rxc : Nat) : State :=
  ((coresOf (getPart s c.part)).flatMap (fun k =>
    ((getSeq s c k).inflight.filter (fun f => f.fin.isNone && opcode f.entry.desc == 0x0303 && fld f.entry.desc 64 44 == rxc)).map
      (fun f => (k, f.entry)))).foldl
    (fun t q =>
      let r := runPlan q.2 (epOf q.2.desc) t q.1
      settleEnd r.1 q.1 q.2 r.2) s

end Sys2Proof.Machine
end

