-- ==== Sys2Proof/Machine/Exchange.lean ====
section
/-! DEFINITION. OP_EXCHANGE, OP_A2A, the end of the count phase and the exchange's hang timeout (R135-R151, R162). -/

namespace Sys2Proof.Machine

/-! ### OP_EXCHANGE -/

/-- The parameter block of OP_EXCHANGE (Table 6.6). -/
def xParOf (v : Nat) : XPar :=
  { sl0 := bitsOf v 0 44, sl1 := bitsOf v 44 44, wcl := bitsOf v 88 44, src := bitsOf v 132 44, rin := bitsOf v 176 44
    rorg := bitsOf v 220 44, rxc := bitsOf v 264 44, rdy := bitsOf v 308 44, wtab := bitsOf v 352 44, win := bitsOf v 396 44
    wbytes := bitsOf v 440 40, row64 := bitsOf v 480 14, nlocal := bitsOf v 494 13, rinRows := bitsOf v 512 32
    winSlots := bitsOf v 544 15 }

/-- A reserved bit of the parameter block is set (R10). -/
def xParReserved (v : Nat) : Bool := bitsOf v 507 5 != 0 || bitsOf v 559 465 != 0

/-- The fields of OP_EXCHANGE beside its block (Table 6.5). -/
structure Xc where
  ret : Bool
  xid : BitVec 16
  ndev : Nat
  self : Nat
  pb : Nat
  deriving DecidableEq, Repr

/-- The fields of a descriptor. -/
def xcOf (d : Desc) : Xc :=
  { ret := fld d 64 2 == 1, xid := BitVec.ofNat 16 (fld d 66 16), ndev := fld d 82 17, self := fld d 99 16, pb := fld d 115 44 }

/-- NWC of a weights-come list, 0 when it cannot be read. -/
def wclCount (s : State) (p : PartI) (a : Nat) : Nat :=
  match readUni s p a 16 with
  | .ok bs => leNat (bs.take 2)
  | .error _ => 0

/-- The command's rules for its shape (R151 step 4). -/
def xShapeOk (s : State) (c : CtxId) (x : Xc) (q : XPar) : Bool :=
  decide (x.self < x.ndev) && decide (x.ndev ≤ 65536) && q.row64 != 0 && (x.ret || decide (q.nlocal ≤ 4096)) &&
  (x.ret || q.wbytes != 0 || wclCount s c.part q.wcl == 0) && (findX s c x.xid).isNone

/-- The extents of the address fields that the mode uses (R151 step 5). -/
def xExtents (s : State) (c : CtxId) (x : Xc) (q : XPar) : List (Nat × Nat) :=
  if x.ret then [(q.src, q.row64 * 64), (q.rorg, 64)]
  else
    [(q.sl0, 16 * x.ndev), (q.sl1, 16 * x.ndev), (q.wcl, 16), (q.src, q.row64 * 64), (q.rin, q.rinRows * q.row64 * 64),
     (q.rorg, 64 + 8 * q.rinRows), (q.rxc, 8 * q.nlocal), (q.rdy, 4 * (q.nlocal + wclCount s c.part q.wcl)),
     (q.wtab, 8 * q.nlocal), (q.win, q.winSlots * pad64 q.wbytes)]

/-- OP_EXCHANGE and OP_A2A commands in flight on a context. -/
def xInFlight (s : State) (c : CtxId) : Nat := (s.xcmds.filter (fun y => y.cid == c && !y.ghost && !y.sink)).length

/-- The checks of OP_EXCHANGE after R10 on its descriptor, in the order of R151. -/
def xcPrep (e : Entry) (x : Xc) (s : State) (_core : Nat) : Prep :=
  if x.pb % 128 ≠ 0 ∨ !inPages s e.cid.part x.pb 128 then rejectWith Code.eDescOperand
  else
    match readUni s e.cid.part x.pb 128 with
    | .error c => rejectWith c
    | .ok bs =>
      let q := xParOf (leNat bs)
      if xParReserved (leNat bs) then rejectWith Code.eDescReserved
      else if !x.ret ∧ heldElsewhere s e.cid.part q.wcl 16 then rejectWith Code.cohRead
      else if !xShapeOk s e.cid x q then rejectWith Code.eXchShape
      else if !areasOk s e.cid.part (xExtents s e.cid x q) then rejectWith Code.eDescOperand
      else if 4 ≤ xInFlight s e.cid then .stall
      else .go []

/-- A send-list block as the exchange reads it: its count entries, and its token entries padded to 64 bytes with the
token each names. -/
structure SendBlock where
  counts : List (BitVec 32)
  toks : List (Nat × Bytes)
  deriving DecidableEq, Repr

/-- Splits a block's token part into entries (Table 5.8). -/
def tokenSplit : Nat → Bytes → List (Nat × Bytes)
  | 0, _ => []
  | n + 1, bs =>
    let pairs := bitsOf (leNat (bs.take 4)) 16 4 + 1
    let len := ceilDiv (4 + 2 * pairs) 4 * 4
    (leNat (bs.take 2), padTo 64 (bs.take len)) :: tokenSplit n (bs.drop len)

/-- Reads the blocks of a send list, destination by destination (R117). -/
def readBlocks (s : State) (p : PartI) : Nat → Nat → Except (BitVec 16) (List SendBlock)
  | 0, _ => .ok []
  | n + 1, a =>
    match readUni s p a 16 with
    | .error e => .error e
    | .ok hb =>
      let h := leNat hb
      let len := max 16 (bitsOf h 64 32)
      match readUni s p a len with
      | .error e => .error e
      | .ok bs =>
        match readBlocks s p n (a + len) with
        | .error e => .error e
        | .ok t =>
          let ncnt := bitsOf h 16 16
          let cs := (wordsOf 4 ((bs.drop 16).take (4 * ncnt))).map (BitVec.ofNat 32)
          .ok ({ counts := cs, toks := tokenSplit (bitsOf h 32 32) (bs.drop (16 + 4 * ncnt)) } :: t)

/-- The data of a DISPATCH stream: each token entry followed by its row (R140). -/
def blockData (s : State) (p : PartI) (src row64 : Nat) : List (Nat × Bytes) → Except (BitVec 16) Bytes
  | [] => .ok []
  | t :: r =>
    match readUni s p (src + t.1 * row64 * 64) (row64 * 64), blockData s p src row64 r with
    | .ok a, .ok b => .ok (t.2 ++ a ++ b)
    | .error e, _ => .error e
    | _, .error e => .error e

/-- The outbound streams of one send list, one for every rank. -/
def dispatchOuts (s : State) (c : CtxId) (x : Xc) (q : XPar) (plane : XDie) :
    List (SendBlock × Nat) → Except (BitVec 16) (List OutStream)
  | [] => .ok []
  | b :: t =>
    match blockData s c.part q.src q.row64 b.1.toks, dispatchOuts s c x q plane t with
    | .error e, _ => .error e
    | _, .error e => .error e
    | .ok data, .ok r =>
      let o : OutStream :=
        { key := { cid := c, kind := 0, xid := x.xid, plane := plane, dst := b.2, idx := 0 }, self := x.self
          counts := b.1.counts, nent := b.1.toks.length, dbytes := data.length, row64 := q.row64, wbytes := 0, data := data
          st := .waitOpen, entry := false, counted := false, credit := 0, sent := 0 }
      .ok (o :: r)

/-- Reads the experts of a weights-come list (R118). -/
def readWcl (s : State) (p : PartI) : Nat → Nat → Except (BitVec 16) (List (Nat × List (Nat × Nat)))
  | 0, _ => .ok []
  | n + 1, a =>
    match readUni s p a 8 with
    | .error e => .error e
    | .ok hb =>
      let rows := bitsOf (leNat hb) 16 17
      match readUni s p (a + 8) (4 * rows), readWcl s p n (a + 8 + 4 * rows) with
      | .ok rb, .ok t =>
        .ok ((bitsOf (leNat hb) 0 14, (wordsOf 4 rb).map (fun w => (bitsOf w 0 16, bitsOf w 16 4))) :: t)
      | .error e, _ => .error e
      | _, .error e => .error e

/-- A command in flight as its issue leaves it. -/
def newX (s : State) (core : Nat) (e : Entry) (x : Xc) (mode : XMode) (q : XPar) : XCmd :=
  { cid := e.cid, core := Fin.ofNat 128 core, entry := e, mode := mode, xid := x.xid, ndev := x.ndev, self := x.self
    par := q, stbl := 0, rtbl := 0, since := residentClock s e.cid, wcl := [], ranks := [], counts := [], wcs := []
    counted := false, ready := [], wdone := [], sink := false, ghost := false }

/-- The parameter block of a command that has passed its checks. -/
def xParAt (s : State) (p : PartI) (a : Nat) : XPar :=
  match readUni s p a 128 with
  | .ok bs => xParOf (leNat bs)
  | .error _ => {}

/-- Ends a command whose start failed on an access. -/
def xStartFault (s : State) (e : Entry) (c : BitVec 16) : State × Ended := settleUni s e 7 0 (uniFault c [] [])

/-- DISPATCH begins: its ready words are 0, its inputs are taken and its streams wait for entries (R140, R143, R150). -/
def runDispatch (e : Entry) (x : Xc) (s : State) (core : Nat) : State × Ended :=
  let p := e.cid.part
  let q := xParAt s p x.pb
  let n := wclCount s p q.wcl
  match readWcl s p n (q.wcl + 16), readBlocks s p x.ndev q.sl0, readBlocks s p x.ndev q.sl1 with
  | .ok wcl, .ok b0, .ok b1 =>
    match dispatchOuts s e.cid x q 0 b0.zipIdx, dispatchOuts s e.cid x q 1 b1.zipIdx,
        writeUni s p q.rdy (List.replicate (4 * (q.nlocal + n)) 0) with
    | .ok o0, .ok o1, .ok t =>
      (pushOuts { t with xcmds := t.xcmds ++ [{ newX s core e x .dispatch q with wcl := wcl }] } e.cid (o0 ++ o1), .running)
    | .error c, _, _ => xStartFault s e c
    | _, .error c, _ => xStartFault s e c
    | _, _, .error c => xStartFault s e c
  | .error c, _, _ => xStartFault s e c
  | _, .error c, _ => xStartFault s e c
  | _, _, .error c => xStartFault s e c

/-- One destination of a RETURN: rank and plane. -/
def retDests (es : List Nat) : List (Nat × Nat) := (es.map (fun v => (bitsOf v 16 16, bitsOf v 36 1))).eraseDups

/-- The records of one RETURN stream, in ascending row (R150). -/
def retData (s : State) (p : PartI) (q : XPar) (d : Nat × Nat) : List (Nat × Nat) → Except (BitVec 16) Bytes
  | [] => .ok []
  | v :: t =>
    if (bitsOf v.1 16 16, bitsOf v.1 36 1) = d then
      match readUni s p (q.src + v.2 * q.row64 * 64) (q.row64 * 64), retData s p q d t with
      | .ok a, .ok b => .ok (leBytes 64 (pack [(0, bitsOf v.1 0 16), (16, bitsOf v.1 32 4)]) ++ a ++ b)
      | .error c, _ => .error c
      | _, .error c => .error c
    else retData s p q d t

/-- The streams of a RETURN. -/
def retOuts (s : State) (c : CtxId) (x : Xc) (q : XPar) (es : List Nat) : List (Nat × Nat) → Except (BitVec 16) (List OutStream)
  | [] => .ok []
  | d :: t =>
    match retData s c.part q d es.zipIdx, retOuts s c x q es t with
    | .ok data, .ok r =>
      let o : OutStream :=
        { key := { cid := c, kind := 1, xid := x.xid, plane := Fin.ofNat 2 d.2, dst := d.1, idx := 0 }, self := x.self
          counts := [], nent := data.length / (64 + 64 * q.row64), dbytes := data.length, row64 := q.row64, wbytes := 0
          data := data, st := .waitOpen, entry := false, counted := true, credit := 0, sent := 0 }
      .ok (o :: r)
    | .error e, _ => .error e
    | _, .error e => .error e

/-- RETURN begins: the rows of the origin table are grouped by the stream that takes them back (R150); with no row it is
complete. -/
def runReturn (e : Entry) (x : Xc) (s : State) (core : Nat) : State × Ended :=
  let p := e.cid.part
  let q := xParAt s p x.pb
  match readUni s p q.rorg 64 with
  | .error c => xStartFault s e c
  | .ok hb =>
    match readUni s p (q.rorg + 64) (8 * leNat (hb.take 4)) with
    | .error c => xStartFault s e c
    | .ok eb =>
      let es := wordsOf 8 eb
      match retOuts s e.cid x q es (retDests es) with
      | .error c => xStartFault s e c
      | .ok [] => (s, .ended okOutcome)
      | .ok os => (pushOuts { s with xcmds := s.xcmds ++ [newX s core e x .ret q] } e.cid os, .running)

/-- A row of OP_EXCHANGE. A reserved MODE is rejected by either row. -/
def xcRow (e : Entry) (mode : Nat) (run : Entry → Xc → State → Nat → State × Ended) : OpRow :=
  let x := xcOf e.desc
  { row := opcode e.desc == 0x0304 && (fld e.desc 64 2 == mode || decide (1 < fld e.desc 64 2))
    reserved := fld e.desc 159 353 != 0 || decide (1 < fld e.desc 64 2)
    classes := [2]
    prep := xcPrep e x
    run := run e x }

/-- OP_EXCHANGE DISPATCH (R150). -/
def execOpExchangeDispatch (e : Entry) (s : State) : Host.Outcome State Fault Refusal :=
  .next (issueCmd s e (xcRow e 0 runDispatch))

/-- OP_EXCHANGE RETURN (R150). -/
def execOpExchangeReturn (e : Entry) (s : State) : Host.Outcome State Fault Refusal :=
  .next (issueCmd s e (xcRow e 1 runReturn))

/-! ### The count phase (R136, R137) -/

/-- The count part of a rank on a plane, once its XOPEN has arrived. -/
def findRank (x : XCmd) (r : Nat) (pl : XDie) : Option XRank := x.ranks.find? (fun k => k.rank == r && k.plane == pl)

/-- Count entries enter the accumulators. -/
def addCounts (x : XCmd) (r : Nat) (pl : XDie) (seq : Nat) (es : List CountEntry) : XCmd :=
  { x with
    ranks := replaceFirst (fun k => k.rank == r && k.plane == pl) (fun k => { k with seqs := insNat seq k.seqs }) x.ranks
    counts := x.counts ++ (es.filter (fun c => !c.wc)).map (fun c =>
      { item := c.localIdx.toNat, rank := r, plane := pl, n := c.countM1.toNat + 1 })
    wcs := (es.filter (·.wc)).foldl (fun l c => if l.contains (c.localIdx.toNat, r) then l else l ++ [(c.localIdx.toNat, r)]) x.wcs }

/-- What an XCOUNT does: applied once for each SEQ; an entry that names no local expert disagrees with the command. -/
def countIn (h : XHdr) (seq : Nat) (counts : List CountEntry) (s : State) : State :=
  match xCtx s h with
  | none => s
  | some c =>
    match findX s c h.xid with
    | none => s
    | some x =>
      match findRank x h.srcRank.toNat h.plane with
      | none => s
      | some k =>
        if h.kind = 0 ∧ ¬ x.sink ∧ seq < ceilDiv k.ncnt 9 ∧ ¬ k.seqs.contains seq then
          if counts.any (fun e => decide (x.par.nlocal ≤ e.localIdx.toNat)) then
            stopX s x h.plane.val { code := Code.eXchPeer, detail := [] }
          else modX s c h.xid (fun y => addCounts y h.srcRank.toNat h.plane seq counts)
        else s

/-- XCOUNT (R136). -/
def execXcount (h : XHdr) (seq : BitVec 16) (counts : List CountEntry) (s : State) : Host.Outcome State Fault Refusal :=
  if unitsRun s then .next (coherentLate (.xcount h seq counts) (countIn h seq.toNat counts) s) else .next s

/-- Every XOPEN and XCOUNT of every rank has reached both dies. -/
def countsIn (x : XCmd) : Bool :=
  (upto x.ndev).all (fun r => [(0 : XDie), 1].all (fun pl =>
    match findRank x r pl with
    | some k => k.seqs.length == ceilDiv k.ncnt 9
    | none => false))

/-- The receive count table (R129). -/
def rxcBytes (x : XCmd) : Bytes :=
  (upto x.par.nlocal).flatMap (fun i =>
    leBytes 8 (pack [(0, x.homeRows i % 2 ^ 32), (32, (x.wcs.filter (fun w => w.1 == i)).length)]))

/-- What the end of the count phase copies for the weights-come items: rows and origin entries (R141, R142). -/
def wclWrites (s : State) (x : XCmd) (k : Nat) : List ((Nat × Nat) × Nat) → Except (BitVec 16) (List (Nat × Bytes))
  | [] => .ok []
  | r :: t =>
    match readUni s x.cid.part (x.par.src + r.1.1 * x.par.row64 * 64) (x.par.row64 * 64), wclWrites s x k t with
    | .ok row, .ok ws => .ok (x.rowWrites (x.base (x.par.nlocal + k) + r.2) row r.1.1 x.self r.1.2 0 ++ ws)
    | .error e, _ => .error e
    | _, .error e => .error e

/-- The copies of every weights-come item. -/
def allWclWrites (s : State) (x : XCmd) : List ((Nat × List (Nat × Nat)) × Nat) → Except (BitVec 16) (List (Nat × Bytes))
  | [] => .ok []
  | w :: t =>
    match wclWrites s x w.2 w.1.2.zipIdx, allWclWrites s x t with
    | .ok a, .ok b => .ok (a ++ b)
    | .error e, _ => .error e
    | _, .error e => .error e

/-- The WEIGHTS stream that the home owes for local expert `i`: to the lowest requester, on plane LOCAL_IDX mod 2, with
head, requesters, chunk CRCs and weights (R146, R147). -/
def homeStream (s : State) (x : XCmd) (i : Nat) : Except (BitVec 16) OutStream :=
  match readUni s x.cid.part (x.par.wtab + 8 * i) 8 with
  | .error e => .error e
  | .ok eb =>
    let v := leNat eb
    let a := bitsOf v 0 44
    if bitsOf v 58 6 ≠ 0 ∨ !uniOk s x.cid.part a x.par.wbytes then .error Code.eXchWtab
    else
      match readUni s x.cid.part a x.par.wbytes with
      | .error e => .error e
      | .ok w =>
        let req := sortBy (fun a b => decide (a ≤ b)) ((x.wcs.filter (fun q => q.1 == i)).map (·.2))
        let head := leBytes 64 (pack [(0, req.length), (16, bitsOf v 44 14), (32, x.par.wbytes)])
        let ranks := padTo 64 (req.flatMap (fun r => leBytes 2 r))
        let crcs := padTo 64 ((pieces 65536 w.length w).flatMap (fun c => leBytes 4 (crc32c c).toNat))
        let data := head ++ ranks ++ crcs ++ w
        .ok (weightsOut x.cid x.xid (Fin.ofNat 2 i) x.self (nth 0 req 0) (bitsOf v 44 14) data.length x.par data)

/-- The WEIGHTS streams of the local experts that have requesters. -/
def homeStreams (s : State) (x : XCmd) : List Nat → Except (BitVec 16) (List OutStream)
  | [] => .ok []
  | i :: t =>
    match homeStream s x i, homeStreams s x t with
    | .ok o, .ok r => .ok (o :: r)
    | .error e, _ => .error e
    | _, .error e => .error e

/-- The inbound streams of a command, by name. -/
def insOf (s : State) (x : XCmd) : List InKey := (s.ins.filter (ofCmd x.cid x.xid)).map (·.key)

/-- What the end of the count phase stops for, once the receive count table is written (R142, R151). -/
def countFault (x : XCmd) : Option (BitVec 16) :=
  if x.par.rinRows < x.p ∨ x.par.winSlots < x.wcl.length then some Code.eXchSpace
  else if x.par.wbytes = 0 ∧ x.wcs ≠ [] then some Code.eXchShape
  else none

/-- The local experts with requesters. -/
def servedExperts (x : XCmd) : List Nat := (upto x.par.nlocal).filter (fun i => x.wcs.any (fun w => w.1 == i))

/-- The count phase ends: the receive count table and the origin header are written, weights-come rows copied, WEIGHTS
streams begun, the records that wait placed, and plans that wait for the table made (R137, R141-R147). A fault of the count phase
stops the command before any row is written (R142). -/
def endCounts (s : State) (x0 : XCmd) : State :=
  let p := x0.cid.part
  let x := { x0 with counted := true }
  let fail := fun (t : State) (c : BitVec 16) => stopX t x 0 { code := c, detail := [] }
  match writeUni s p x.par.rxc (rxcBytes x) with
  | .error c => fail s c
  | .ok s1 =>
    match countFault x with
    | some c =>
      let keep := (xAreas s1 x).filter (fun a => a.1 != x.par.rin)
      stopXOn s1 x keep 0 { code := c, detail := [] }
    | none =>
      match allWclWrites s1 x x.wcl.zipIdx, homeStreams s1 x (servedExperts x) with
      | .ok ws, .ok os =>
        match writeUniAll s1 p ((x.par.rorg, leBytes 64 x.p) :: ws) with
        | .error c => fail s1 c
        | .ok s2 =>
          let s3 := modX (pushOuts s2 x.cid os) x.cid x.xid (fun y => { y with counted := true })
          let s4 := (insOf s3 x).foldl settleIn s3
          startPlans (checkX (writeReady s4 x.cid x.xid) x.cid x.xid) x.cid x.par.rxc
      | .error c, _ => fail s1 c
      | _, .error c => fail s1 c

/-- COUNT_PHASE_END (R137). -/
def execCountPhaseEnd (cid : CtxId) (xid : BitVec 16) (s : State) : Host.Outcome State Fault Refusal :=
  match findX s cid xid with
  | some x =>
    if unitsRun s ∧ x.mode = .dispatch ∧ ¬ x.counted ∧ ¬ x.sink ∧ countsIn x then
      .next (coherentLate (.countPhaseEnd cid xid) (fun t => endCounts t x) s)
    else .next s
  | none => .next s

/-! ### Hang (R149) -/

/-- The lowest rank whose stream or count part is missing; a RETURN receives none. -/
def missingRank (s : State) (x : XCmd) : Nat :=
  let miss := fun r =>
    match x.mode with
    | .dispatch => !(inDone s x 0 r 0 && inDone s x 0 r 1)
    | .ret => false
    | .a2a => !inDone s x 3 r (Fin.ofNat 2 x.self)
  match (upto x.ndev).find? miss with
  | some r => r
  | none => 0x10000

/-- The record of E_XCH_HANG. -/
def xHangDetail (s : State) (x : XCmd) : List (BitVec 32) :=
  let k := (upto x.wcl.length).find? (fun k => !x.ready.contains (x.par.nlocal + k))
  match k with
  | none => [BitVec.ofNat 32 (missingRank s x), 0xFFFFFFFF, 0xFFFFFFFF]
  | some k =>
    let ex := (nth (0, []) x.wcl k).1
    let src := s.ins.find? (fun st => ofCmd x.cid x.xid st && st.key.kind == 2 &&
      (match wHead st with | some h => h.expert == ex | none => false))
    [BitVec.ofNat 32 (missingRank s x), BitVec.ofNat 32 ex,
     match src with | some st => BitVec.ofNat 32 st.key.src | none => 0xFFFFFFFF]

/-- XCH_HANG: an OP_EXCHANGE or OP_A2A has not completed within HANG_MS of resident time (R149). -/
def execXchHang (cid : CtxId) (xid : BitVec 16) (s : State) : Host.Outcome State Fault Refusal :=
  match findX s cid xid with
  | some x =>
    if unitsRun s ∧ ¬ x.sink ∧ isResident s cid ∧ x.since + hangNs s cid ≤ residentClock s cid then
      .next (coherentLate (.xchHang cid xid) (fun t => stopX t x 0 { code := Code.eXchHang, detail := xHangDetail s x }) s)
    else .next s
  | none => .next s

/-! ### OP_A2A (R162) -/

/-- The fields of OP_A2A (Table 6.11). -/
structure Aa where
  stbl : Nat
  rtbl : Nat
  x : Xc
  deriving DecidableEq, Repr

/-- The fields of a descriptor. -/
def aaOf (d : Desc) : Aa :=
  { stbl := fld d 64 44, rtbl := fld d 108 44
    x := { ret := false, xid := BitVec.ofNat 16 (fld d 152 16), ndev := fld d 168 17, self := fld d 185 16, pb := 0 } }

/-- Table entries: address, length or capacity, and whether a reserved bit is set (the GOT word of a send entry is). -/
def aaEntries (send : Bool) (bs : Bytes) : List ((Nat × Nat) × Bool) :=
  (wordsOf 16 bs).map (fun v =>
    ((bitsOf v 0 44, bitsOf v 64 32), bitsOf v 44 20 != 0 || (send && bitsOf v 96 32 != 0)))

/-- The checks of OP_A2A after R10 on its descriptor. -/
def aaPrep (e : Entry) (a : Aa) (s : State) (_core : Nat) : Prep :=
  let p := e.cid.part
  let n := a.x.ndev
  if n ≤ a.x.self ∨ 65536 < n ∨ (findX s e.cid a.x.xid).isSome then rejectWith Code.eXchShape
  else if !areasOk s p [(a.stbl, 16 * n), (a.rtbl, 16 * n)] then rejectWith Code.eDescOperand
  else
    match readUni s p a.stbl (16 * n), readUni s p a.rtbl (16 * n) with
    | .ok sb, .ok rb =>
      let es := aaEntries true sb ++ aaEntries false rb
      if es.any (·.2) then rejectWith Code.eDescReserved
      else if !areasOk s p (es.map (·.1)) then rejectWith Code.eDescOperand
      else if 4 ≤ xInFlight s e.cid then .stall
      else .go []
    | .error c, _ => rejectWith c
    | _, .error c => rejectWith c

/-- The streams of an OP_A2A: one to every rank, on plane rank mod 2 (Table 6.1). -/
def aaOuts (s : State) (c : CtxId) (x : Xc) : List ((Nat × Nat) × Nat) → Except (BitVec 16) (List OutStream)
  | [] => .ok []
  | q :: t =>
    match readUni s c.part q.1.1 q.1.2, aaOuts s c x t with
    | .ok data, .ok r =>
      let o : OutStream :=
        { key := { cid := c, kind := 3, xid := x.xid, plane := Fin.ofNat 2 q.2, dst := q.2, idx := 0 }, self := x.self
          counts := [], nent := 0, dbytes := data.length, row64 := 0, wbytes := 0, data := data, st := .waitOpen
          entry := false, counted := true, credit := 0, sent := 0 }
      .ok (o :: r)
    | .error e, _ => .error e
    | _, .error e => .error e

/-- OP_A2A begins. -/
def runA2a (e : Entry) (a : Aa) (s : State) (core : Nat) : State × Ended :=
  match readUni s e.cid.part a.stbl (16 * a.x.ndev) with
  | .error c => xStartFault s e c
  | .ok sb =>
    match aaOuts s e.cid a.x ((aaEntries true sb).map (·.1)).zipIdx with
    | .error c => xStartFault s e c
    | .ok os =>
      (pushOuts { s with xcmds := s.xcmds ++ [{ newX s core e a.x .a2a {} with stbl := a.stbl, rtbl := a.rtbl }] } e.cid os, .running)

/-- The row of OP_A2A. -/
def a2aRow (e : Entry) : OpRow :=
  let a := aaOf e.desc
  { row := opcode e.desc == 0x0404
    reserved := fld e.desc 201 311 != 0
    classes := [2]
    prep := aaPrep e a
    run := runA2a e a }

/-- OP_A2A (R162). -/
def execOpA2a (e : Entry) (s : State) : Host.Outcome State Fault Refusal :=
  .next (issueCmd s e (a2aRow e))

end Sys2Proof.Machine
end

