-- ==== Sys2Proof/Machine/Combine.lean ====
section
/-! DEFINITION. Landing and the combine: OP_COMBINE, arrivals and the hang timeout (R152-R155). -/

namespace Sys2Proof.Machine

/-- An OP_COMBINE as its descriptor gives it (Table 6.8). -/
def cmbOf (e : Entry) (core : Nat) : Cmb :=
  let d := e.desc
  { cid := e.cid, core := Fin.ofNat 128 core, entry := e, xid := BitVec.ofNat 16 (fld d 284 16), lnd := fld d 64 44
    lndx := fld d 419 44, lsplit := fld d 463 17, lst := fld d 108 44, wgt := fld d 152 44, outAddr := fld d 196 44
    res := fld d 240 44, tok0 := fld d 300 16, ntok := fld d 316 17, tokens := fld d 333 17, topk := fld d 350 5
    row64 := fld d 355 14, o64 := fld d 369 14, cols := fld d 383 16, rowFmt := fld d 399 4, resFmt := fld d 403 4
    outFmt := fld d 407 4, cvt := fld d 411 2, watched := flag d 413, resid := flag d 418, rng := {}, since := 0 }

/-- The random stream that OP_COMBINE names. -/
def cmbRng (d : Desc) : Nat := fld d 414 4

/-- Elements that a combine converts. -/
def Cmb.draws (x : Cmb) : Nat := x.ntok * x.cols

/-- SPLIT: tokens below it belong to XD0's Combine unit (R152). -/
def Cmb.split (x : Cmb) : Nat := ceilDiv x.tokens 2

/-- The exchange die whose Combine unit a token belongs to. -/
def Cmb.die (x : Cmb) (t : Nat) : Nat := if t < x.split then 0 else 1

/-- The range of a combine is armed on a die: one of its tokens belongs to it. -/
def Cmb.armedOn (x : Cmb) (die : Nat) : Bool :=
  if die = 0 then decide (x.tok0 < x.split) else decide (x.split < x.tok0 + x.ntok)

/-- The operands' extents (R105). -/
def Cmb.extents (x : Cmb) : List (Nat × Nat) :=
  let slot := x.topk * x.row64 * 64
  [(x.lnd, min x.lsplit x.ntok * slot), (x.lst, 4 * x.ntok), (x.wgt, 4 * x.topk * (x.tok0 + x.ntok)),
   (x.outAddr, x.ntok * x.o64 * 64)] ++
  (if x.resid then [(x.res, x.ntok * x.o64 * 64)] else []) ++
  (if x.lsplit < x.ntok then [(x.lndx, (x.ntok - x.lsplit) * slot)] else [])

/-- The rules of R155 for the shape. -/
def cmbShapeOk (s : State) (x : Cmb) : Bool :=
  let sz := fun f => fmtBits f / 8
  x.topk != 0 && decide (x.topk ≤ 16) && x.ntok != 0 && decide (x.tok0 + x.ntok ≤ x.tokens) && decide (x.tokens ≤ 65536) &&
  decide (x.cols * sz x.rowFmt ≤ x.row64 * 64) && decide (x.cols * sz x.outFmt ≤ x.o64 * 64) &&
  (!x.resid || decide (x.cols * sz x.resFmt ≤ x.o64 * 64)) && decide (x.lsplit ≤ x.ntok) &&
  (findCmb s x.cid x.xid).isNone

/-- Armed ranges on a die, of every context. -/
def armedRanges (s : State) (die : Nat) : Nat := (s.cmbs.filter (fun c => c.armedOn die)).length

/-- The command must wait for a range (R155). -/
def cmbWaits (s : State) (x : Cmb) : Bool :=
  decide (4 ≤ (s.cmbs.filter (fun c => c.cid == x.cid)).length) ||
  [0, 1].any (fun die => x.armedOn die && decide (32 ≤ armedRanges s die))

/-- The checks of OP_COMBINE after R10: R105, then formats, then shape (R155). -/
def cmbPrep (e : Entry) (s : State) (core : Nat) : Prep :=
  let x := cmbOf e core
  if !areasOk s e.cid.part x.extents then rejectWith Code.eDescOperand
  else if !(isWide x.rowFmt && isWide x.resFmt && isWide x.outFmt) then rejectWith Code.eFmtPair
  else if !cmbShapeOk s x then rejectWith Code.eXchShape
  else if cmbWaits s x then .stall
  else .go []

/-- OP_COMBINE arms its range: the state words of the range are 0 before any arrival (R152). -/
def runCombine (e : Entry) (s : State) (core : Nat) : State × Ended :=
  let x := { cmbOf e core with rng := getRng s e.cid (cmbRng e.desc), since := residentClock s e.cid }
  match writeUni s e.cid.part x.lst (List.replicate (4 * x.ntok) 0) with
  | .error c => settleUni s e 8 (x.die x.tok0) (uniFault c [] [])
  | .ok t => (advanceRng { t with cmbs := t.cmbs ++ [x] } e.cid (cmbRng e.desc) x.cvt x.draws, .running)

/-- The row of OP_COMBINE. -/
def combineRow (e : Entry) : OpRow :=
  { row := opcode e.desc == 0x0305
    reserved := fld e.desc 480 32 != 0 || fmtReserved (fld e.desc 399 4) || fmtReserved (fld e.desc 403 4) ||
      fmtReserved (fld e.desc 407 4)
    classes := [2]
    prep := cmbPrep e
    skip := fun t core => advanceRng t e.cid (cmbRng e.desc) (fld e.desc 411 2) (cmbOf e core).draws
    run := runCombine e }

/-- OP_COMBINE (R155). -/
def execOpCombine (e : Entry) (s : State) : Host.Outcome State Fault Refusal :=
  .next (issueCmd s e (combineRow e))

/-! ### Arrivals (R153, R154) -/

/-- The values of a row in a format. -/
def rowOf (fmt cols : Nat) (bs : Bytes) : List Val := (upto cols).map (fun c => decodeElem fmt (unpackElem fmt bs c))

/-- One column of a combine: the slots in rank order, from the residual or +0 (R154). -/
def combineCol (start : Val) (ws : List Val) (col : List Val) : Val :=
  (ws.zip col).foldl (fun acc p => fFma p.1 p.2 acc) start

/-- Reads the slots, the gate weights and the residual of a token. -/
def combineInputs (s : State) (x : Cmb) (t : Nat) : Except (BitVec 16) (List (List Val) × List Val × List Val) :=
  let p := x.cid.part
  let u := t - x.tok0
  let rows := (upto x.topk).map (fun j => readUni s p (x.slotAt u j) (x.row64 * 64))
  match readUni s p (x.wgt + 4 * (t * x.topk)) (4 * x.topk),
      (if x.resid then readUni s p (x.res + u * x.o64 * 64) (x.o64 * 64) else .ok []),
      rows.findSome? (fun r => match r with | .error e => some e | .ok _ => none) with
  | .error e, _, _ => .error e
  | _, .error e, _ => .error e
  | _, _, some e => .error e
  | .ok wb, .ok rb, none =>
    .ok (rows.map (fun r => match r with | .ok bs => rowOf x.rowFmt x.cols bs | .error _ => []), (wordsOf 4 wb).map ofF32,
      if x.resid then rowOf x.resFmt x.cols rb else List.replicate x.cols vZero)

/-- A token's combine: its output row and whether a conversion raised a watch event (R154). -/
def combineToken (s : State) (x : Cmb) (t : Nat) : Except (BitVec 16) (Bytes × Bool) :=
  match combineInputs s x t with
  | .error e => .error e
  | .ok (ys, ws, start) =>
    let u := t - x.tok0
    let acc := (upto x.cols).map (fun c => combineCol (nth vZero start c) ws (ys.map (fun r => nth vZero r c)))
    let r := encodeRow x.outFmt acc x.cvt (fun c => drawWord x.rng x.cvt (u * x.cols + c))
    .ok (r.1, r.2.2)

/-- An output row lands: the first failing access, or the state with the token DONE and its watch event. -/
def combineFire (s : State) (x : Cmb) (t word : Nat) : Except (BitVec 16) State :=
  match combineToken s x t with
  | .error e => .error e
  | .ok r =>
    let u := t - x.tok0
    match writeUniAll s x.cid.part [(x.outAddr + u * x.o64 * 64, r.1), (x.lst + 4 * u, leBytes 4 (word + 2 ^ 21))] with
    | .error e => .error e
    | .ok s' => .ok (watch s' x.cid (x.watched && r.2))

/-- The state words of a range, token by token, or why one cannot be read. -/
def stateWords (s : State) (x : Cmb) : Except (BitVec 16) (List Nat) := (upto x.ntok).mapM (stateWord s x)

/-- A combine whose tokens are all DONE completes (R155). -/
def checkCmb (s : State) (x : Cmb) : State :=
  match stateWords s x with
  | .error c => stopCmb s x (x.die x.tok0) { code := c, detail := [] }
  | .ok ws =>
    if ws.all (fun w => bitAt w 21) then
      let t := { s with
        cmbs := s.cmbs.filter (fun y => y.entry != x.entry)
        ins := s.ins.filter (fun st => !(st.key.cid == x.cid && st.key.xid == x.xid && st.key.kind == 1 && st.done)) }
      endCmd t x.core.val x.entry okOutcome
    else s

/-- The state word of a token at which an arrival's row may be placed, or why it is refused (R153). -/
def arrivalWord (s : State) (x : Cmb) (token rank : Nat) : Except (BitVec 16) Nat :=
  if token < x.tok0 ∨ x.tok0 + x.ntok ≤ token ∨ x.topk ≤ rank then .error Code.eLandingRange
  else
    match stateWord s x (token - x.tok0) with
    | .error e => .error e
    | .ok w => if bitAt w rank ∨ bitAt w 21 then .error Code.eLandingDup else .ok w

/-- An arrival (R153): its slot is written, MASK and COUNT are updated, and at TOPK the token's combine fires. -/
def arriveRow (s : State) (x : Cmb) (token rank : Nat) (row : Bytes) : State :=
  let die := x.die token
  let u := token - x.tok0
  let stop := fun (t : State) (c : BitVec 16) => stopCmb t x die { code := c, detail := [] }
  match arrivalWord s x token rank with
  | .error c => stop s c
  | .ok word =>
    let w := word + 2 ^ rank + 2 ^ 16
    match writeUniAll s x.cid.part [(x.slotAt u rank, row), (x.lst + 4 * u, leBytes 4 w)] with
    | .error c => stop s c
    | .ok s1 =>
      if bitsOf w 16 5 = x.topk then
        match combineFire s1 x token w with
        | .error c => stop s1 c
        | .ok s2 => checkCmb s2 x
      else s1

/-- The record of a RETURN stream that has landed and holds this row. -/
def returnRecord (token rank : Nat) (row : Bytes) (st : InStream) : Option Nat :=
  (upto st.nrec).find? (fun k =>
    st.recLanded k && !st.arrived.contains k && leNat (st.bytes (k * st.recb) 2) == token &&
    bitsOf (leNat (st.bytes (k * st.recb + 2) 1)) 0 4 == rank && st.bytes (k * st.recb + 64) (st.recb - 64) == row)

/-- The RETURN stream, and its record, that brings a row. -/
def returnSource (s : State) (c : CtxId) (xid : BitVec 16) (token rank : Nat) (row : Bytes) : Option (InStream × Nat) :=
  s.ins.findSome? (fun st =>
    if st.key.cid == c && st.key.xid == xid && st.key.kind == 1 && !st.discard && !st.done then
      (returnRecord token rank row st).map (fun k => (st, k))
    else none)

/-- A landed record of a RETURN stream arrives: its chain is freed. -/
def arriveRec (x : Cmb) (st : InStream) (k token rank : Nat) (row : Bytes) (s : State) : State :=
  let f := freeRec s st k
  settleIn (arriveRow (putIn f.1 { f.2 with arrived := f.2.arrived ++ [k] }) x token rank row) st.key

/-- RETURN_ARRIVAL: a landed row of a RETURN stream reaches its Combine unit (R153). -/
def execReturnArrival (cid : CtxId) (xid : BitVec 16) (token : BitVec 16) (rank : BitVec 4) (row : Bytes) (s : State) :
    Host.Outcome State Fault Refusal :=
  match findCmb s cid xid, returnSource s cid xid token.toNat rank.toNat row with
  | some x, some q =>
    if unitsRun s then
      .next (coherentLate (.returnArrival cid xid token rank row) (arriveRec x q.1 q.2 token.toNat rank.toNat row) s)
    else .next s
  | _, _ => .next s

/-- A combine stops at its hang timeout, naming the lowest token that is not DONE and its state word. -/
def hangCmb (x : Cmb) (s : State) : State :=
  match stateWords s x with
  | .error c => stopCmb s x (x.die x.tok0) { code := c, detail := [] }
  | .ok ws =>
    let u := (ws.findIdx? (fun w => !bitAt w 21)).getD 0
    stopCmb s x (x.die (x.tok0 + u))
      { code := Code.eLandingHang, detail := [BitVec.ofNat 32 (x.tok0 + u), BitVec.ofNat 32 (nth 0 ws u)] }

/-- LANDING_HANG: an OP_COMBINE has not completed within HANG_MS of resident time; the record holds the lowest token that
is not DONE and its state word. -/
def execLandingHang (cid : CtxId) (xid : BitVec 16) (s : State) : Host.Outcome State Fault Refusal :=
  match findCmb s cid xid with
  | none => .next s
  | some x =>
    if unitsRun s ∧ isResident s cid ∧ x.since + hangNs s cid ≤ residentClock s cid then
      .next (coherentLate (.landingHang cid xid) (hangCmb x) s)
    else .next s

end Sys2Proof.Machine
end

