-- ==== Sys2Proof/Machine/Keys.lean ====
section
/-! DEFINITION. Sealed payload keys (R392-R394) and the attestation report (R395). -/

namespace Sys2Proof.Machine

/-! ### Sealed key blobs (R392) -/

/-- What unsealing a blob finds: the key, or the ERR code of Table 17.10 (1 format, 2 device, 3 tag). -/
def openBlob (kind : Nat) (b : Bytes) : Except (BitVec 3) (BitVec 256) :=
  let shape := b.length == 144 && cutNat b 0 4 == 0x4B53594B && cutNat b 4 2 == 1 && cutNat b 6 1 == kind && cutNat b 7 1 == 0 &&
    zeroRun b 140 4
  match ecdh tkScalar (cut b 16 64) with
  | none => .error 1
  | some z =>
    if !shape then .error 1
    else if cut b 8 8 != devId then .error 2
    else
      match gcmOpen (sha256 (z ++ b.take 16)) (cut b 80 12) (cut b 92 32) (b.take 92) (cut b 124 16) with
      | none => .error 3
      | some k => .ok (BitVec.ofNat 256 (leNat k))

/-- A blob that seals a key to the TK of the device whose identity certificate is given (Tables 17.1 and 17.5). The sealer's ephemeral
scalar and IV are free. -/
def sealBlob (kind : Nat) (cert : Bytes) (n : Nat) (key : BitVec 256) : Bytes :=
  let eph := (Config.randomKey n).toNat % (p256N - 1) + 1
  let iv := (upto 12).map (Config.sealedByte n)
  let head := leBytes 8 (pack [(0, 0x4B53594B), (32, 1), (48, kind)]) ++ cut cert 8 8 ++ pubKey eph
  match ecdh eph (cut cert 80 64) with
  | some z =>
    let kek := sha256 (z ++ head.take 16)
    let ct := gcmCrypt kek iv (leBytes 32 key.toNat)
    head ++ iv ++ ct ++ gcmTag kek iv ct (head ++ iv) ++ List.replicate 4 0
  | none => List.replicate 144 0

/-- The protector's identity certificate: the one that has been checked, else one that the model does not know (R394). -/
def protectorCert (s : State) : Bytes := if s.res.peerCert = [] then (upto 272).map (Config.peerCert s.free) else s.res.peerCert

/-- A protector's identity certificate is exchanged and checked (R385, R394). -/
def takeCert (s : State) (cert : Bytes) : State :=
  if certOk 0x4349594B cert then { s with res := { s.res with peerCert := cert } } else s

/-- The key of a slot, resealed to the protector's TK as a KIND 0 blob, goes to the protector's mirror (R394). -/
def sealKey (s : State) (k : Fin 128) : State :=
  let x := getKey s k
  if x.valid then mirror (takeFree s 1) x.part (mirrorAt 5 (256 * k.val)) (sealBlob 0 (protectorCert s) s.free x.key) else s

/-- Every key of a partition that becomes protected is resealed (R394). -/
def sealKeys (s : State) (p : PartI) : State :=
  (List.finRange 128).foldl (fun t k => if (getKey t k).part = p then sealKey t k else t) s

/-- A Standby that takes over loads each mirrored blob into the same slot (R394). -/
def loadMirrored (s : State) (m : Memory) (p : PartI) : State :=
  (List.finRange 128).foldl (fun t k =>
    match openBlob 0 (Memory.read m (mirrorAt 5 (256 * k.val)) 144) with
    | .ok key => setKey t k { valid := true, part := p, key := key }
    | .error _ => t) s

/-! ### SEC_KEY_CMD (R393) -/

/-- Ends a command of the key block with its ERR code. -/
def keyEnd (s : State) (err : BitVec 3) : State := { s with sec := { s.sec with keyErr := err } }

/-- LOAD of the selected slot for a partition. -/
def keyLoad (s : State) (port : RlPort) (p : PartI) : State :=
  let k := s.sec.keySel
  let fails := fun (c : BitVec 3) => report (keyEnd s c) (devReport Code.eKeyLoad deferred 15 k.val [])
  match openBlob 0 (readComp s port s.sec.keyAddr.toNat 144) with
  | .error c => fails c
  | .ok key =>
    if (getKey s k).valid then fails 4
    else if (getPart s p).state ≠ .active then fails 5
    else
      let s1 := setKey s k { valid := true, part := p, key := key }
      sealKey (keyEnd { s1 with tags := { s1.tags with pairs := Tbl.set [] s1.tags.pairs k.val [] } } 0) k

/-- An enabled protected binding names the slot. -/
def keyBound (s : State) (k : Fin 128) : Bool := s.tags.binds.any (fun e => e.2.en && e.2.enc && e.2.keySlot == k)

/-- CLEAR of the selected slot; its mirrored blob becomes zeros. -/
def keyClear (s : State) : State :=
  let k := s.sec.keySel
  let x := getKey s k
  if keyBound s k then keyEnd s 6
  else
    let s1 := keyEnd (setKey s k {}) 0
    let s2 := { s1 with tags := { s1.tags with pairs := Tbl.set [] s1.tags.pairs k.val [] } }
    if x.valid then mirror s2 x.part (mirrorAt 5 (256 * k.val)) (List.replicate 144 0) else s2

/-- A write of SEC_KEY_CMD: 1 LOAD, 2 CLEAR, 0 and 3 ignored (Table 17.8). -/
def keyCmdWrite (s : State) (port : RlPort) (v : BitVec 32) : State :=
  match bitsOf v.toNat 0 2 with
  | 1 => keyLoad s port (Fin.ofNat 8 (bitsOf v.toNat 2 3))
  | 2 => keyClear s
  | _ => s

/-- KEY_LOAD; semaphore 2 guards the register. -/
def execKeyLoad (port : RlPort) (value : BitVec 32) (s : State) : Host.Outcome State Fault Refusal :=
  .next (guarded s port 2 (fun t => keyCmdWrite t port value))

/-- KEY_CLEAR: the same register. -/
def execKeyClear (port : RlPort) (value : BitVec 32) (s : State) : Host.Outcome State Fault Refusal :=
  .next (guarded s port 2 (fun t => keyCmdWrite t port value))

/-! ### Attestation (R395) -/

/-- GL_IDENTITY and GL_STEPPING (R1, R2). -/
def identityWord : Nat := 0xCA170880
/-- GL_STEPPING: the stepping B1, and bit 8 for an engineering sample. -/
def steppingWord (s : State) : Nat := 0xB1 + 0x100 * b2n s.gl.es

/-- The 147 bytes that PARTHASH is taken over. -/
def partBytes (s : State) (p : PartI) : Bytes :=
  let q := getPart s p
  let owns := fun (g : Nat) => (getGran s g).owned && decide ((getGran s g).part = p)
  leBytes 4 q.quads.toNat ++ leBytes 1 (q.nctx1.toNat + 1) ++
  (upto 142).map (fun i => BitVec.ofNat 8 (((upto 8).map (fun j => if owns (8 * i + j) then 2 ^ j else 0)).sum))

/-- Bytes 0 to 447 of the report (Table 17.6). -/
def attHead (s : State) (p : PartI) (pvalid : Bool) : Bytes :=
  leBytes 4 0x5441594B ++ leBytes 2 1 ++ leBytes 2 (b2n s.gl.es + 2 * b2n s.fab.acting.isSome) ++ leBytes 4 identityWord ++
  leBytes 4 (steppingWord s) ++ devId ++ leBytes 32 s.sec.nonce.toNat ++ leBytes 8 (fabricTime s).toNat ++ leBytes 4 0x00010000 ++
  leBytes 4 s.sec.fwver.toNat ++ leBytes 4 s.sec.mseq.toNat ++
  leBytes 4 (pack [(0, (servedCoord s).toNat), (17, p.val), (20, b2n pvalid)]) ++ s.sec.imgHash ++ s.sec.manHash ++
  (if pvalid then sha256 (partBytes s p) else List.replicate 32 0) ++ sha256 tkPub ++ List.replicate 240 0

/-- A write of SEC_ATT_CMD: GO makes, signs and writes the report. `canSign` is whether the security block can sign. -/
def attCmdWrite (s : State) (port : RlPort) (v : BitVec 32) (canSign : Bool) : State :=
  if !v.getLsbD 0 then s
  else if !canSign then
    report { s with sec := { s.sec with attDone := false, attFail := true } } (devReport Code.eAttFail deferred 15 0 [])
  else
    let h := attHead s (Fin.ofNat 8 (bitsOf v.toNat 1 3)) (v.getLsbD 4)
    let s1 := writeComp s port s.sec.attAddr.toNat (h ++ ecdsaSign ikScalar (sha256 h))
    { s1 with sec := { s1.sec with attDone := true, attFail := false } }

/-- ATT_GO; semaphore 2 guards the register. -/
def execAttGo (port : RlPort) (value : BitVec 32) (canSign : Bool) (s : State) : Host.Outcome State Fault Refusal :=
  .next (guarded s port 2 (fun t => attCmdWrite t port value canSign))

end Sys2Proof.Machine
end

