-- ==== Sys2Proof/Machine/Lease.lean ====
section
/-! DEFINITION. Lent memory: the lend and borrow slots and their life (R228-R231), and patrol scrubbing (R233, R234). -/

namespace Sys2Proof.Machine

/-! ### Slots -/

/-- A lend slot. -/
def getLend (s : State) (i : Nat) : Lend := Tbl.get {} s.mem.lend i

/-- Replaces a lend slot. -/
def setLend (s : State) (i : Nat) (x : Lend) : State := { s with mem := { s.mem with lend := Tbl.set {} s.mem.lend i x } }

/-- A coordinate is another active of the device's own tray (R228): slots 0 to 3. -/
def trayMate (s : State) (c : Coord) : Bool :=
  c.toNat / 8 == s.sec.coord.toNat / 8 && decide (c.toNat % 8 < 4) && c != s.sec.coord

/-- A number of granules that a lease may have. -/
def ngranOk (n : BitVec 5) : Bool := decide (1 ≤ n.toNat) && decide (n.toNat ≤ 16)

/-- The granules of a lend, data then metadata, by global number; a granule outside the medium shows as 1136 (R228). -/
def lendGrans (medium : Bool) (gran0 ngran : Nat) : List Nat :=
  (upto (ngran + ceilDiv ngran 8)).map (fun k =>
    if medium then (if gran0 + k < 512 then 624 + gran0 + k else 1136) else (if gran0 + k < 576 then 48 + gran0 + k else 1136))

/-- The granules of a lend slot. -/
def Lend.grans (x : Lend) : List Nat := lendGrans x.medium x.gran0.toNat x.ngran.toNat

/-- Marks granules as held by a lend slot, or not (Table 14.7). -/
def markLent (s : State) (l : List Nat) (b : Bool) : State := l.foldl (fun t g => setGran t g { getGran t g with lent := b }) s

/-- Zeroes granules of the device's own memory. -/
def zeroGrans (s : State) (l : List Nat) : State :=
  l.foldl (fun t g => clearPoison { t with uni := Memory.zero t.uni (granAddr g) (2 ^ 30) } (granAddr g) (2 ^ 30)) s

/-- A refused write sets the slot's bit in XD_LEASE_ERR. -/
def leaseRefuse (s : State) (bit : Nat) : State :=
  { s with mem := { s.mem with leaseErr := s.mem.leaseErr ||| BitVec.ofNat 32 (2 ^ bit) } }

/-- E_LEASE_SETUP (R229). -/
def leaseSetup (s : State) (slot : Nat) : State := report s (devReport Code.eLeaseSetup deferred 19 slot [])

/-! ### The lender -/

/-- The fields of a write of XD_LEASE_LEND_i (Table 10.8). -/
def lendOf (v : BitVec 64) : Lend :=
  { en := v.getLsbD 0, medium := v.getLsbD 4, borrower := v.extractLsb' 8 17, ngran := v.extractLsb' 25 5
    gran0 := v.extractLsb' 30 10, termS := v.extractLsb' 40 16 }

/-- A field other than EN and REVOKE differs. -/
def lendChanged (a b : Lend) : Bool :=
  a.medium != b.medium || a.borrower != b.borrower || a.ngran != b.ngran || a.gran0 != b.gran0 || a.termS != b.termS

/-- A lend is refused (R228). -/
def lendBad (s : State) (i : Nat) (y : Lend) : Bool :=
  !ngranOk y.ngran || !trayMate s y.borrower ||
  y.grans.any (fun g => decide (1136 ≤ g) || (getGran s g).owned ||
    (upto 16).any (fun k => k != i && decide ((getLend s k).state ≠ .idle) && (getLend s k).grans.contains g))

/-- The lender serves a request that matches its offer: it zeroises the granules and answers (R229). A REVOKE written before is
followed at once. -/
def lendActivate (s : State) (i : Nat) (m : LeaseMsg) : State :=
  let x := getLend s i
  let s1 := zeroGrans s x.grans
  let s2 := setLend s1 i { x with
    state := if x.revoke then .ending else .active, asked := none, bslot := m.bslot
    termEnd := if x.termS = 0 then none else some (s.now + x.termS.toNat * 1000000000) }
  let s3 := send s2 (.leaseAnswer m.borrower m.bslot true)
  if x.revoke then send s3 (.leaseRevoke m.borrower m.bslot) else s3

/-- A request at a lend slot that is offered: a mismatch leaves it OFFERED (R229). -/
def lendServe (s : State) (i : Nat) (m : LeaseMsg) : State :=
  let x := getLend s i
  if x.borrower = m.borrower ∧ x.ngran = m.ngran then lendActivate s i m
  else leaseSetup (send (setLend s i { x with asked := none }) (.leaseAnswer m.borrower m.bslot false)) i

/-- REVOKE, or the term's end, of an active lease (R230, "When a lender revokes a lease in use"). A REVOKE that is written while the slot
is OFFERED or ENDING stands until IDLE (Table 10.8). -/
def lendRevoke (s : State) (i : Nat) (bit : Bool) : State :=
  let x := getLend s i
  let y := { x with revoke := x.revoke || (bit && decide (x.state ≠ .idle)) }
  if x.state = .active then send (setLend s i { y with state := .ending }) (.leaseRevoke x.borrower x.bslot)
  else setLend s i y

/-- A write of XD_LEASE_LEND_i (R228). -/
def lendWrite (s : State) (i : Nat) (v : BitVec 64) : State :=
  let x := getLend s i
  let y := lendOf v
  if (x.state ≠ .idle ∧ lendChanged x y) ∨ lendBad s i y then leaseRefuse s i
  else if x.state = .idle then
    if y.en then
      let s1 := markLent (setLend s i { y with state := .offered, asked := x.asked }) y.grans true
      match x.asked with
      | some m => lendServe s1 i m
      | none => s1
    else setLend s i { y with asked := x.asked }
  else if x.state = .offered ∧ ¬ y.en then markLent (setLend s i { x with en := false, revoke := false, state := .idle }) x.grans false
  else
    let s1 := setLend s i { x with en := y.en }
    if v.getLsbD 1 then lendRevoke s1 i true else s1

/-- LEASE_LEND_WRITE; semaphore 18 guards the registers. -/
def execLeaseLendWrite (port : RlPort) (i : Fin 16) (value : BitVec 64) (s : State) : Host.Outcome State Fault Refusal :=
  .next (guarded s port 18 (fun t => lendWrite t i.val value))

/-- LEASE_REQUEST: a request arrives at the lender (R229). One that comes before the slot is offered is kept until it
is. -/
def execLeaseRequest (m : LeaseMsg) (s : State) : Host.Outcome State Fault Refusal :=
  if unitsRun s then
    let x := getLend s m.lslot.val
    match x.state with
    | .idle => .next (setLend s m.lslot.val { x with asked := some m })
    | .offered => .next (lendServe s m.lslot.val m)
    | _ => .next (leaseSetup (send s (.leaseAnswer m.borrower m.bslot false)) m.lslot.val)
  else .next s

/-- LEASE_TERM_END: a lease's term ends as a revocation does (R229). -/
def execLeaseTermEnd (i : Fin 16) (s : State) : Host.Outcome State Fault Refusal :=
  match (getLend s i.val).termEnd with
  | some t => if unitsRun s ∧ t ≤ s.now then .next (lendRevoke s i.val false) else .next s
  | none => .next s

/-- The borrower has released: the lender zeroises, and the slot is IDLE. -/
def lendIdle (s : State) (i : Nat) : State :=
  let x := getLend s i
  setLend (markLent (zeroGrans s x.grans) x.grans false) i
    { x with state := .idle, revoke := false, termEnd := none, asked := none, bslot := 0 }

/-! ### The borrower -/

/-- The fields of a write of XD_LEASE_BORROW_j (Table 10.9); GRACE_MS is clamped. -/
def borrowOf (v : BitVec 64) : Borrow :=
  { en := v.getLsbD 0, lender := v.extractLsb' 4 17, lslot := Fin.ofNat 16 (bitsOf v.toNat 21 4), ngran := v.extractLsb' 25 5
    part := Fin.ofNat 8 (bitsOf v.toNat 30 3), graceMs := BitVec.ofNat 10 (clamp 10 1000 (bitsOf v.toNat 33 10)) }

/-- A field other than EN differs. -/
def borrowChanged (a b : Borrow) : Bool :=
  a.lender != b.lender || a.lslot != b.lslot || a.ngran != b.ngran || a.part != b.part || a.graceMs != b.graceMs

/-- A borrow is refused (R228). -/
def borrowBad (s : State) (y : Borrow) : Bool :=
  !ngranOk y.ngran || !trayMate s y.lender || decide ((getPart s y.part).state = .absent)

/-- A borrow that is asked for: the key is drawn, its sealed copy goes to the Standby, and the request goes out (R229). -/
def borrowAsk (s : State) (j : Fin 16) (y : Borrow) : State :=
  let key := Config.randomKey s.free
  let s1 := noteLease (takeFree s 2) j.val { y with state := .waiting, key := key }
  send (send s1 (.mirrorWrite y.part (leaseRecord j.val) (sealBlob 1 (protectorCert s) (s.free + 1) key)))
    (.leaseRequest y.lender { borrower := s.sec.coord, bslot := j, lslot := y.lslot, ngran := y.ngran })

/-- A write of XD_LEASE_BORROW_j (R228). -/
def borrowWrite (s : State) (j : Fin 16) (v : BitVec 64) : State :=
  let x := getBorrow s j.val
  let y := borrowOf v
  if (x.state ≠ .idle ∧ borrowChanged x y) ∨ borrowBad s y then leaseRefuse s (16 + j.val)
  else if x.state = .idle then (if y.en then borrowAsk s j y else setBorrow s j.val y)
  else if x.state = .waiting ∧ ¬ y.en then setBorrow s j.val { x with en := false, state := .idle }
  else setBorrow s j.val { x with en := y.en }

/-- LEASE_BORROW_WRITE; semaphore 18 guards the registers. -/
def execLeaseBorrowWrite (port : RlPort) (j : Fin 16) (value : BitVec 64) (s : State) : Host.Outcome State Fault Refusal :=
  .next (guarded s port 18 (fun t => borrowWrite t j value))

/-- A lease activates at the borrower: the window's pages are OWNED and BACKED in order (R229). -/
def borrowActivate (s : State) (j : Nat) : State :=
  let x := getBorrow s j
  let s1 := noteLease (zeroLease s j) j { x with state := .active, carried := false }
  (windowPages j x.ngran.toNat).foldl (fun t i => setPte t i
    { frame := BitVec.ofNat 19 ((i - 581632) % 8192), tier := 3, lease := Fin.ofNat 16 j, part := x.part, owned := true, backed := true }) s1

/-- LEASE_ANSWER: the lender's answer arrives (R229). -/
def execLeaseAnswer (j : Fin 16) (ok : Bool) (s : State) : Host.Outcome State Fault Refusal :=
  if unitsRun s ∧ (getBorrow s j.val).state = .waiting then
    .next (if ok then borrowActivate s j.val else leaseSetup s j.val)
  else .next s

/-- The borrower's slot goes to REVOKING and its grace begins. -/
def borrowRevoke (s : State) (j : Nat) : State :=
  let x := getBorrow s j
  if x.state = .active then
    report (noteLease s j { x with state := .revoking, graceEnd := s.now + x.graceMs.toNat * 1000000, left := false })
      (partReport Code.evLeaseRevoke deferred x.part 19 j [])
  else s

/-- LEASE_REVOKE: a write of REVOKE at the lender's slot, or the lender's word of it at the borrower's. -/
def execLeaseRevoke (port : RlPort) (lender : Bool) (slot : Fin 16) (s : State) : Host.Outcome State Fault Refusal :=
  if lender then .next (guarded s port 18 (fun t => lendRevoke t slot.val true))
  else if unitsRun s then .next (borrowRevoke s slot.val) else .next s

/-- A page is being moved off a lent frame, or on to it. -/
def leaseBusy (s : State) (j : Nat) : Bool :=
  s.mem.migs.any (fun m => m.moves.any (fun v =>
    (v.tier.val == 3 && v.lease.val == j) || ((getPte s v.page).tier.val == 3 && (getPte s v.page).lease.val == j)))

/-- LEASE_GRACE_END: what is left on lent frames becomes unbacked. -/
def execLeaseGraceEnd (j : Fin 16) (s : State) : Host.Outcome State Fault Refusal :=
  let x := getBorrow s j.val
  if unitsRun s ∧ x.state = .revoking ∧ ¬ x.left ∧ x.graceEnd ≤ s.now then
    .next (setBorrow (unbackLease s j.val) j.val { x with left := true })
  else .next s

/-- LEASE_RELEASE: the borrower releases once its moves have ended; at the lender the release arrives. -/
def execLeaseRelease (lender : Bool) (slot : Fin 16) (s : State) : Host.Outcome State Fault Refusal :=
  if unitsRun s then
    if lender then
      let x := getLend s slot.val
      if x.state = .active ∨ x.state = .ending then .next (lendIdle s slot.val) else .next s
    else if (getBorrow s slot.val).left ∧ ¬ leaseBusy s slot.val then .next (borrowRelease s slot.val)
    else .next s
  else .next s

/-- A lender has failed: its leases end at once, with no grace (R231). -/
def lenderFailed (s : State) (c : Coord) : State :=
  (List.finRange 16).foldl (fun t j =>
    let x := getBorrow t j.val
    if (x.state = .active ∨ x.state = .revoking) ∧ x.lender = c then
      report (borrowDrop t j.val) (partReport Code.evLeaseEnd deferred x.part 19 j.val [])
    else t) s

/-! ### Patrol scrubbing -/

/-- Where a 64-byte piece of the device's own memory lies: its tier and frame. -/
def pieceFrame (k : Nat) : Option (Nat × Nat) :=
  match pageIndex (64 * k) with
  | some i => if i < 581632 then some ((pageHome i).1, (pageHome i).2.2) else none
  | none => none

/-- The source unit and instance of a memory (Table 19.4): HBM3E stacks by number, Cellar dies from 12 up, packages. -/
def memSource (tier frame : Nat) : BitVec 7 × Nat :=
  match tier with
  | 0 => (5, 12 + frame / 2048)
  | 1 => (5, frame / 24576)
  | _ => (13, frame / 32768)

/-- The compute die of a Cellar or HBM3E frame. -/
def memDie (tier frame : Nat) : Nat := if tier = 0 then frame / 6144 else frame / 73728

/-- A corrected or uncorrectable piece is counted, reported and, when it cannot be corrected, poisoned. A find in an LPDDR5X package is a
transfer that failed link ECC: it is retried once, and `correctable` says that the retry was good (R233; DESIGN CHOICE, log 106). -/
def foundError (s : State) (f : ScrubFind) : State :=
  match pieceFrame f.piece with
  | none => s
  | some q =>
    let src := memSource q.1 q.2
    let s1 :=
      if q.1 = 2 then
        let x : XDie := Fin.ofNat 2 (q.2 / 131072)
        let y := { getXd s x with lpRetry := satAdd (getXd s x).lpRetry 1 }
        setXd s x (if f.correctable then y else { y with lpUncorr := satAdd y.lpUncorr 1 })
      else
        let d : CDie := Fin.ofNat 4 (memDie q.1 q.2)
        setDie s d (if f.correctable then { getDie s d with memCe := satAdd (getDie s d).memCe 1 }
          else { getDie s d with memUe := satAdd (getDie s d).memUe 1 })
    if f.correctable then (if q.1 = 2 then s1 else report s1 (devReport Code.eMemCe corrected src.1 src.2 (detail64 (64 * f.piece))))
    else
      report { s1 with mem := { s1.mem with poison := insNat f.piece s1.mem.poison } }
        (devReport Code.eMemUe deferred src.1 src.2 (detail64 (64 * f.piece)))

/-- SCRUB_PASS: a patrol of a compute die's memories has read further and found what it found; the LPDDR5X packages are
patrolled with it (R234). -/
def execScrubPass (die : CDie) (finds : List ScrubFind) (cellar hbm : BitVec 10) (s : State) : Host.Outcome State Fault Refusal :=
  if unitsRun s then
    let s1 := setDie s die { getDie s die with scrubCellar := cellar, scrubHbm := hbm }
    .next (finds.foldl foundError s1)
  else .next s

end Sys2Proof.Machine
end

