-- ==== Sys2Proof/Machine/Protect.lean ====
section
/-! DEFINITION. Protection of a tray: enabling and seeding, parity, mirrors, heartbeats, takeover and rebuild (R334-R337,
R343-R357). -/

namespace Sys2Proof.Machine

/-! ### The protection table (R334, R336) -/

/-- An entry of the table, from its eight bytes (Table 15.1). -/
def protOf (v : Nat) : ProtEntry := { first := BitVec.ofNat 20 v, npage := BitVec.ofNat 20 (v / 2 ^ 20), cls := BitVec.ofNat 2 (v / 2 ^ 40) }

/-- The 64 words of a table. -/
def protWords (bs : Bytes) : List Nat := (upto 64).map (fun i => leNat ((bs.drop (8 * i)).take 8))

/-- The entries in use. -/
def protTable (bs : Bytes) : List ProtEntry := ((protWords bs).map protOf).filter (fun t => t.cls != 0)

/-- Two entries share a page. -/
def protOverlap (a b : ProtEntry) : Bool :=
  decide (a.first.toNat < b.first.toNat + b.npage.toNat) && decide (b.first.toNat < a.first.toNat + a.npage.toNat)

/-- The pages of an entry. -/
def ProtEntry.pages (t : ProtEntry) : List Nat := (upto t.npage.toNat).map (· + t.first.toNat)

/-- Pages of a class. -/
def classPages (l : List ProtEntry) (cls : Nat) : Nat := ((l.filter (fun t => t.cls.toNat == cls)).map (fun t => t.npage.toNat)).sum

/-- Pages of the device's own memory that a partition owns. -/
def ownPages (s : State) (p : PartI) : Nat := (s.mem.pt.filter (fun e => decide (e.1 < 581632) && e.2.owned && decide (e.2.part = p))).length

/-- The entries and reserved bits of a table are accepted: each lies in the partition's own pages outside the borrow windows,
none overlap, the class limits hold, and the partition has room beside them (R336, Table 15.2). -/
def protTableOk (s : State) (p : PartI) (ws : List Nat) (l : List ProtEntry) : Bool :=
  ws.all (fun v => decide (v < 2 ^ 42) && v / 2 ^ 40 != 3) &&
  l.all (fun t => t.npage != 0 && t.pages.all (fun i =>
    decide (i < 581632) && (getPte s i).owned && decide ((getPte s i).part = p))) &&
  (upto l.length).all (fun i => (upto i).all (fun j => !protOverlap (nth ⟨0, 0, 0⟩ l i) (nth ⟨0, 0, 0⟩ l j))) &&
  decide (classPages l 1 ≤ 262144) && decide (classPages l 2 ≤ 2048) &&
  decide (classPages l 1 + 8 * classPages l 2 + 4 * ((getPart s p).nctx1.toNat + 1) ≤ ownPages s p - classPages l 1)

/-- The pre-image pool lies wholly in the partition's HBM3E pages and outside its PARITY and MIRROR ranges. -/
def poolOk (s : State) (p : PartI) (r : ResPart) (l : List ProtEntry) : Bool :=
  let a := r.poolBase.toNat
  let n := 65536 * r.poolSize.toNat
  n == 0 ||
  (decide (a % pageSize = 0) && decide (0x01000000000 ≤ a) && decide (a + n ≤ 0x0A000000000) && inPages s p a n &&
   !(l.any (fun t => t.pages.any (fun i => decide (pageAddr i < a + n) && decide (a < pageAddr i + pageSize)))))

/-! ### Enabling (R336, R337) -/

/-- The protector's parity of a partition begins at zero: the first copy that seeding brings is XORed into zeros (R337). -/
def zeroParity (s : State) (p : PartI) (l : List ProtEntry) : State :=
  ((l.filter (fun t => t.cls == 1)).flatMap (·.pages)).foldl (fun t i =>
    match places t p (pageAddr i) pageSize with
    | .ok ((f, _) :: _) => if f < 2 ^ 44 then { t with uni := Memory.zero t.uni f pageSize } else writeFrame t f zeroPage
    | _ => t) s

/-- A write of XD_RES_PCFG_p (Table 15.12). `peersAgree` is whether the other devices' state agrees as R336 asks, `cert` the protector's
identity certificate (R394). -/
def pcfgWrite (s : State) (p : PartI) (v : BitVec 64) (peersAgree : Bool) (cert : Bytes) : State :=
  let r := getRes s p
  let en := v.getLsbD 0
  let ptab := v.extractLsb' 4 44
  if !en then setRes s p { r.off with ptab := ptab }
  else if r.state ≠ .off ∨ s.res.mode = 0 ∨ s.res.mode = 3 then setRes s p { r with en := true, ptab := ptab }
  else
    let r1 : ResPart := { r with en := true, ptab := ptab }
    let bs := match readUni s p ptab.toNat 512 with | .ok b => b | .error _ => []
    let l := protTable bs
    let ok : Bool := decide ((getPart s p).state = .active) && peersAgree && decide (bs.length = 512) && decide (ptab.toNat % 64 = 0) &&
      protTableOk s p (protWords bs) l && poolOk s p r l
    if ok then
      let s0 := if s.res.role = 0 then takeCert s cert else zeroParity s p l
      let s1 := sealKeys (setRes s0 p { r1 with state := .seeding, table := l, seeded := false, dirty := [], old := [], shadow := [] }) p
      { s1 with res := { s1.res with tstate := if s1.res.tstate = 0 ∨ s1.res.tstate = 5 then 1 else s1.res.tstate } }
    else report (setRes s p r1) (partReport Code.eResCfg deferred p 19 0 [])

/-- PROTECTION_ENABLE; semaphore 6 + p guards the register (R360). -/
def execProtectionEnable (port : RlPort) (p : PartI) (value : BitVec 64) (peersAgree : Bool) (cert : Bytes) (s : State) :
    Host.Outcome State Fault Refusal :=
  .next (guarded s port (6 + p.val) (fun t => pcfgWrite t p value peersAgree cert))

/-- The sequence state of a partition's contexts as it stands (R348). -/
def sendSeqs (s : State) (p : PartI) : State :=
  let t := (s.msf.seqs.filter (fun e => e.1 / 2 ^ 23 == p.val)).foldl (fun t e => mirror t p (mirrorAt 6 (2 * e.1)) (leBytes 2 e.2.toNat)) s
  (s.msf.order.filter (fun o => decide (o.cid.part = p))).foldl noteOrd t

/-- The whole mirrored state of a partition as it stands: page table, descriptors, job bindings, tag bindings, sequence state and
MIRROR pages (R42, R347, R348). -/
def sendMirrors (s : State) (p : PartI) : State :=
  let s1 := (s.mem.pt.filter (fun e => e.2.owned && decide (e.2.part = p))).foldl (fun t e => mirror t p (mirrorAt 1 (8 * e.1)) (leBytes 8 (pteBits e.2))) s
  let s2 := (List.finRange 16).foldl (fun t c =>
    let x := getCtx t ⟨p, c⟩
    if x.state = .absent then t
    else mirrorBind (mirror t p (mirrorAt 2 (128 * CtxId.key ⟨p, c⟩)) (ctxDescBytes x.desc)) ⟨p, c⟩) s1
  let s3 := (upto 128).foldl (fun t i =>
    let b := Tbl.get ({} : TagBind) t.tags.binds i
    if b.en ∧ b.part = p then mirror t p (mirrorAt 4 (8 * i)) (leBytes 8 (bindBits b)) else t) (sendSeqs s2 p)
  ((getRes s p).table.filter (fun t => t.cls == 2)).foldl (fun t e => e.pages.foldl (fun u i =>
    match places u p (pageAddr i) pageSize with
    | .ok l => mirror u p (pageAddr i) (readPlaces u l)
    | .error _ => u) t) s3

/-- Every PARITY piece goes whole to the protector. -/
def seedParity (s : State) (p : PartI) : State :=
  ((getRes s p).table.filter (fun t => t.cls == 1)).foldl (fun t e => e.pages.foldl (fun u i =>
    (upto 32).foldl (fun v j => send v (.parity p (32 * i + j) true (pieceBytes v p (32 * i + j)))) u) t) s

/-- SEEDING_DONE: every PARITY piece has been sent whole, with the mirrored state; protection waits for the next mark
(R337). -/
def execSeedingDone (p : PartI) (s : State) : Host.Outcome State Fault Refusal :=
  let r := getRes s p
  if unitsRun s ∧ r.state = .seeding ∧ !r.seeded then
    let s1 := if s.res.role = 0 then sendMirrors (seedParity s p) p else s
    .next (setRes s1 p { getRes s1 p with seeded := true, dirty := [], old := [] })
  else .next s

/-! ### The protector's side (R337, R344, R345, R347) -/

/-- The lowest frame that holds no shadow. -/
def freeFrame (r : ResPart) : Nat :=
  ((upto (r.shadow.length + 1)).find? (fun i => !r.shadow.any (fun h => h.frame == i))).getD 0

/-- A delta goes into the shadow of its piece: onto the shadow, else onto the old parity, which stays. A piece sent whole forms its
parity afresh: the first from zero, whatever a delta had brought before (R344, R345). -/
def shadowDelta (s : State) (p : PartI) (k : Nat) (whole : Bool) (delta : Bytes) : State :=
  let r := getRes s p
  let old := r.shadow.find? (fun h => h.piece == k)
  let frame := match old with | some h => h.frame | none => freeFrame r
  let base := match old with
    | some h => if whole ∧ !h.whole then List.replicate parityPiece 0 else shadowBytes s p h
    | none => if whole then List.replicate parityPiece 0 else pieceBytes s p k
  if old.any (fun h => h.whole && !whole) then s
  else keepBytes (setRes s p { r with shadow := r.shadow.filter (fun h => h.piece != k) ++ [{ piece := k, frame := frame, whole := whole }] })
    p (shadowAddr s p frame) (xorBytes base delta)

/-- Another active of the tray has marked a piece RESYNC: this one too sends it whole at the next mark (R345). -/
def resyncPiece (s : State) (p : PartI) (k : Nat) : State :=
  let t := touchPiece s p k
  let r := getRes t p
  setRes t p { r with dirty := replaceFirst (fun d => d.piece == k) (fun d => { d with base := none, dirty := true }) r.dirty }

/-- PARITY_DELTA: seeding XORs the piece into parity; afterwards the delta is XORed into a shadow (R337, R344). At an active it says,
with no bytes, that another has marked the piece RESYNC (R345; DESIGN CHOICE, log 108). -/
def execParityDelta (_src : Coord) (p : PartI) (piece : BitVec 32) (whole : Bool) (delta : Bytes) (s : State) : Host.Outcome State Fault Refusal :=
  let k := piece.toNat
  if unitsRun s ∧ protects s p ∧ delta.length = parityPiece then
    if (getRes s p).state = .seeding then .next (keepBytes s p (pieceAddr k) (xorBytes (pieceBytes s p k) delta))
    else .next (shadowDelta s p k whole delta)
  else if unitsRun s ∧ s.res.role = 0 ∧ (getRes s p).state = .prot ∧ whole ∧ delta = [] then .next (resyncPiece s p k)
  else .next s

/-- The key of an active's mirror for a partition. -/
def mirrorKey (src : Coord) (p : PartI) : Nat := 8 * cSlot src + p.val

/-- An active's mirror for a partition. -/
def getMirror (s : State) (src : Coord) (p : PartI) : Mirror := Tbl.get {} s.res.mirrors (mirrorKey src p)

/-- MIRROR_WRITE: a write reaches the LIVE copy; a mark record closes what the mark commits (R347, R348). A lease's record is kept
whether the partition is protected or not (R229). -/
def execMirrorWrite (src : Coord) (p : PartI) (addr : BitVec 64) (data : Bytes) (s : State) : Host.Outcome State Fault Refusal :=
  if unitsRun s ∧ (protects s p ∨ addr.toNat / 2 ^ 60 = 12) then
    let m := getMirror s src p
    let live := Memory.write m.live addr.toNat data
    let m' : Mirror := { m with live := live, pend := if addr.toNat / 2 ^ 60 = 3 then live else m.pend }
    .next { s with res := { s.res with mirrors := Tbl.set {} s.res.mirrors (mirrorKey src p) m' } }
  else .next s

/-! ### Heartbeats (R351) -/

/-- The devices of a coordinate's tray. -/
def trayOf (c : Coord) : List Coord := (upto 5).map (fun i => BitVec.ofNat 17 (c.toNat / 8 * 8 + i))

/-- The other devices of the tray. -/
def trayPeers (s : State) : List Coord := (trayOf s.sec.coord).filter (· != s.sec.coord)

/-- A heartbeat over a plane: a control packet of device firmware with JTAG 0, whose body is firmware's own. -/
def sendBeat (s : State) (d : Coord) (plane : XDie) : State :=
  sendCtl (takeFree s 1) 0 5 false d plane ((upto 48).map (Config.heartbeatByte s.free))

/-- HEARTBEAT_SEND: every 500 µs, over both planes, to the tray peers, and in REMOTE mode to the protector. -/
def execHeartbeatSend (s : State) : Host.Outcome State Fault Refusal :=
  if linksRun s then
    let ds := trayPeers s ++ (if s.res.mode = 2 ∧ s.res.role = 0 then [s.res.protector] else [])
    .next (ds.foldl (fun t d => sendBeat (sendBeat t d 0) d 1) s)
  else .next s

/-! ### Takeover (R352, R353) -/

/-- A page's bytes become those of a copy. -/
def installPage (s : State) (p : PartI) (m : Memory) (i : Nat) : State :=
  match places s p (pageAddr i) pageSize with
  | .ok ((f, _) :: _) =>
    let here := m.filter (fun e => decide (pageAddr i ≤ e.1) && decide (e.1 < pageAddr i + pageSize))
    if f < 2 ^ 44 then
      { s with uni := here.foldl (fun u e => Memory.writeByte u (f + (e.1 - pageAddr i)) e.2) (Memory.zero s.uni f pageSize) }
    else writeFrame s f (Memory.read m (pageAddr i) pageSize)
  | _ => s

/-- A digest slot from its content in the model's own order. -/
def digestFrom (bs : Bytes) : DigestSlot :=
  let run := fun (i : Nat) =>
    let b := (bs.drop (35 + 104 * i)).take 104
    let total := leNat ((b.drop 32).take 8)
    ({ h := beWords 8 b, tail := (b.drop 40).take (total % 64), total := total } : ShaRun)
  { digid := BitVec.ofNat 16 (leNat ((bs.drop 1).take 2)), counts := (upto 4).map (fun i => leNat ((bs.drop (3 + 8 * i)).take 8))
    runs := (upto 4).map run }

/-- An ordering key from its number. -/
def ordKeyOf (n : Nat) : OrdKey :=
  { src := BitVec.ofNat 17 n, jtag := BitVec.ofNat 16 (n / 2 ^ 17), cpn := bitAt n 33, port := Fin.ofNat 2 (n / 2 ^ 34), q := Fin.ofNat 4 (n / 2 ^ 35) }

/-- An order entry from its record in the copy. -/
def ordFrom (s : State) (c : CtxId) (k : OrdKey) (bs : Bytes) : OrdEnt :=
  let rsp := fun (i : Nat) =>
    let v := leNat ((bs.drop (64 + 48 * i)).take 48)
    ({ src := servedCoord s, jtag := k.jtag, sid := BitVec.ofNat 16 v, status := BitVec.ofNat 8 (v / 2 ^ 16), result := BitVec.ofNat 64 (v / 2 ^ 24)
       cpn := bitAt v 88, cpnPort := Fin.ofNat 2 (v / 2 ^ 89), data := [] } : RspMsg)
  { key := k, die := Fin.ofNat 2 (leNat ((bs.drop 4).take 1)), cid := c, high := some (BitVec.ofNat 14 (leNat ((bs.drop 1).take 2))), rsps := (upto (leNat ((bs.drop 3).take 1))).map rsp
    cur := none, held := [], good := [], once := [], bad := [], lastAt := s.now }

/-- The places of a copy that begin a record of a size in a range and hold a non-zero first byte. -/
def copyKeys (m : Memory) (base size n : Nat) : List Nat :=
  ((m.filter (fun e => decide (base ≤ e.1) && decide (e.1 < base + n))).map (fun e => (e.1 - base) / size)).eraseDups

/-- A context's sequence state is installed from the MARK copy (R348). An entry that has been freed begins with 0. -/
def installSeqs (s : State) (c : CtxId) (m : Memory) : State :=
  let b6 := mirrorAt 6 (CtxId.key c * 2 ^ 20)
  let sq := (copyKeys m b6 2 (2 ^ 20)).foldl (fun t i =>
    Tbl.set 0 t (CtxId.key c * 2 ^ 19 + i) (BitVec.ofNat 14 (leNat (Memory.read m (b6 + 2 * i) 2))))
    (s.msf.seqs.filter (fun e => e.1 / 2 ^ 19 != CtxId.key c))
  let b7 := mirrorAt 7 (CtxId.key c * 2 ^ 50)
  let os := ((copyKeys m b7 4096 (2 ^ 50)).filter (fun i => Memory.read m (b7 + 4096 * i) 1 == [1])).map (fun i =>
    ordFrom s c (ordKeyOf i) (Memory.read m (b7 + 4096 * i) 3136))
  { s with msf := { s.msf with seqs := sq, order := s.msf.order.filter (fun o => o.cid != c) ++ os } }

/-- The sequence state installed for a context is that which ORDER of its mark record sums up (R348). -/
def orderOk (s : State) (c : CtxId) (r : Bytes) : Bool :=
  let q := seqParts s c
  leNat ((r.drop 2216).take 8) == pack [(0, q.1.length), (32, q.2.length)] && (r.drop 2224).take 32 == seqDigest s c

/-- The bound step status word: the binding from the copy, the word from the mark record. -/
def stepFrom (m : Memory) (c : CtxId) (word : Nat) : Option StepBind :=
  let v := leNat (Memory.read m (mirrorAt 8 (32 * CtxId.key c)) 32)
  if v % 256 = 0 then none
  else some { word := stepWordOf word, addr := BitVec.ofNat 44 (v / 2 ^ 8), ndev := BitVec.ofNat 17 (v / 2 ^ 52), self := BitVec.ofNat 16 (v / 2 ^ 69)
              cid := BitVec.ofNat 16 (v / 2 ^ 85), grpAddr := BitVec.ofNat 44 (v / 2 ^ 101), gcrc := BitVec.ofNat 32 (v / 2 ^ 145), agreed := bitAt v 177 }

/-- A mark record and its slot images are whole (R342). -/
def recordOk (r img : Bytes) : Bool :=
  leNat (r.take 4) == 0x4D45594B && (r.drop 4064).take 32 == sha256 (r.take 4064) && ((r.drop 1708).take 32) == sha256 img

/-- A context is restored from its descriptor and its mark record; replay begins at RINGPOS + 1 (R352, R353). A context whose record,
slot images or sequence state fail their hashes is not restored (R342, R348; DESIGN CHOICE, log 110). `live` is the LIVE copy, where
the epoch's completion bitmap stands. -/
def restoreCtx (s : State) (c : CtxId) (m live : Memory) : State :=
  let d := leNat (Memory.read m (mirrorAt 2 (128 * CtxId.key c)) 128)
  let at3 := mirrorAt 3 (CtxId.key c * 2 ^ 32)
  let r := Memory.read m at3 4096
  let cores := coresOf (getPart s c.part)
  let img := Memory.read m (at3 + 4096) (512 * cores.length)
  if d = 0 ∨ !recordOk r img ∨ !orderOk (installSeqs s c m) c r then s
  else
    let word := fun (o n : Nat) => leNat ((r.drop o).take n)
    let pos : BitVec 32 := BitVec.ofNat 32 (word 16 4)
    let b9 := mirrorAt 9 (CtxId.key c * 2 ^ 33)
    let x := getCtx s c
    let x' : Ctx := {
      state := .ready
      desc := ctxDescOf d
      cmdHead := pos + 1
      cmdTail := pos + 1
      cplTail := BitVec.ofNat 32 (word 20 4)
      events := (upto 64).foldl (fun t i => Tbl.set 0 t i (BitVec.ofNat 32 (word (40 + 4 * i) 4))) []
      rng := (upto 16).foldl (fun t i => Tbl.set {} t i
        { key := BitVec.ofNat 64 (word (296 + 24 * i) 8), counter := BitVec.ofNat 128 (word (304 + 24 * i) 16) }) []
      digests := (upto 4).foldl (fun t i =>
        let b := Memory.read m (mirrorAt 10 (512 * (4 * CtxId.key c + i))) 451
        Tbl.set none t i (if b.headD 0 = 0 then none else some (digestFrom b))) []
      step := stepFrom m c (word 32 8)
      skipOpen := bitAt (leNat (Memory.read m (mirrorAt 8 (32 * CtxId.key c)) 32)) 178
      watched := true
      weight := x.weight
      high := x.high
      vt := lowestVt s c.part (withWork s c.part)
      restart := some { epoch := BitVec.ofNat 32 (word 4 4), ringPos := pos, time := s.now }
      markAt := residentClock s c
      replayed := ((copyKeys live b9 1 (2 ^ 32)).map (BitVec.ofNat 32)).filter (fun q => earlier pos q) }
    let s1 := cores.zipIdx.foldl (fun t k =>
      setSeq t c k.1 { slots := (slotWords ((img.drop (512 * k.2)).take 512)).map (fun v =>
        { slotOf v with state := (if bitsOf v 52 2 = 0 then .empty else if bitsOf v 52 2 = 1 then .filling else if bitsOf v 52 2 = 2 then .full else .draining)
                        extern := bitAt v 55 }), idleSince := s.now }) (setCtx s c x')
    onGain (readDoorbell (installSeqs s1 c m) c) c.part

/-- The leases that a failed borrower's partition held go on: the Standby unseals their keys. A revocation in progress begins its grace
again (R231; DESIGN CHOICE, log 107). -/
def carryLeases (s : State) (failed : Coord) (p : PartI) : State :=
  let m := (getMirror s failed p).live
  (List.finRange 16).foldl (fun t j =>
    let v := leNat (Memory.read m (leaseRecord j.val + 144) 8)
    match openBlob 1 (Memory.read m (leaseRecord j.val) 144) with
    | .ok key =>
      if bitsOf v 1 2 < 2 ∨ bitsOf v 30 3 ≠ p.val then t
      else
        let revoking : Bool := bitsOf v 1 2 == 3
        setBorrow t j.val { borrowOf (BitVec.ofNat 64 v) with
          state := if revoking then .revoking else .active
          key := key
          graceEnd := if revoking then t.now + bitsOf v 33 10 * 1000000 else 0
          carried := true }
    | .error _ => t) s

/-- The pages of a failed active's partition that the carried leases own or back (R231, R347). -/
def carryPages (s : State) (m : Memory) (p : PartI) : State :=
  (copyKeys m (mirrorAt 1 0) 8 (8 * 712704)).foldl (fun t i =>
    let e := pteOf (leNat (Memory.read m (mirrorAt 1 (8 * i)) 8))
    let j := if 581632 ≤ i then (i - 581632) / 8192 else e.lease.val
    if e.owned ∧ e.part = p ∧ (581632 ≤ i ∨ e.tier = 3) ∧ (getBorrow t j).carried then
      { t with mem := { t.mem with pt := Tbl.set {} t.mem.pt i { e with moving := false } } }
    else t) s

/-- The parity pieces of a partition, by number. -/
def parityKeys (s : State) (p : PartI) : List Nat :=
  (((getRes s p).table.filter (fun t => t.cls == 1)).flatMap (·.pages)).flatMap (fun i => (upto 32).map (fun j => p.val * 2 ^ 26 + 32 * i + j))

/-- A failed active's partition is installed: PARITY pages are marked unrebuilt, MARK copies become the MIRROR pages, shadows are
discarded, every space-1 line of the partition is uncached (R350), keys loaded, bindings made, its leases carried on, contexts restored (Table 15.6, R231, R394), but for one whose in-place takeover is suspended (R340). -/
def installPart (s : State) (failed : Coord) (p : PartI) : State :=
  let m := (getMirror s failed p).mark
  let r := getRes s p
  let hints := (copyKeys m (mirrorAt 1 0) 8 (8 * 712704)).foldl (fun t i =>
    let v := leNat (Memory.read m (mirrorAt 1 (8 * i)) 8)
    let e := getPte t i
    if e.owned ∧ e.part = p then { t with mem := { t.mem with pt := Tbl.set {} t.mem.pt i { e with pin := bitAt v 31, hint := BitVec.ofNat 3 (v / 2 ^ 32) } } } else t) s
  let carried := carryPages (carryLeases hints failed p) m p
  let s1 := ((r.table.filter (fun t => t.cls == 2)).flatMap (·.pages)).foldl (fun t i => installPage t p m i) carried
  let there := fun (e : DirEnt) => match pageIndex (128 * e.line) with
    | some i => (getPte s i).owned && decide ((getPte s i).part = p)
    | none => false
  let s2 := setRes { s1 with res := { s1.res with unrebuilt := s1.res.unrebuilt ++ parityKeys s p }
                             msf := { s1.msf with dir := s1.msf.dir.filter (fun e => !there e) } } p
    { r with shadow := [], state := .exposed }
  let s3 := (upto 128).foldl (fun t i =>
    let b := bindFields (BitVec.ofNat 64 (leNat (Memory.read m (mirrorAt 4 (8 * i)) 8)))
    if b.en ∧ b.part = p then makeBind t i b else t) (loadMirrored s2 m p)
  let late := fun (c : CtxI) => Memory.read (getMirror s failed p).live (mirrorAt 11 (CtxId.key ⟨p, c⟩)) 1 != [0]
  (List.finRange 16).foldl (fun t c => if late c then t else restoreCtx t ⟨p, c⟩ m (getMirror s failed p).live) s3

/-- The torus neighbours of a coordinate. -/
def torusNeighbours (c : Coord) : List Coord :=
  [4, 5, 6, 7].map (fun r => BitVec.ofNat 17 (c.toNat / 128 * 128 + torusPeer (cTray c) r * 8 + cSlot c))

/-- The takeover of a coordinate by the protector, in the order of Table 15.6 (R352). The tray is EXPOSED from then on, and the
acting device reports EV_RISK as each survivor does (R356, R357). -/
def takeOver (s : State) (failed : Coord) : State :=
  let inc := Tbl.get 0 s.fab.inc failed.toNat + 1
  let dsts := (trayOf failed).filter (fun c => c != failed && c != s.sec.coord) ++ torusNeighbours failed
  let s1 := dsts.foldl (fun t d => send t (.takeover d failed inc s.sec.coord)) s
  let s2 := { s1 with fab := { s1.fab with acting := some failed, inc := Tbl.set 0 s1.fab.inc failed.toNat inc } }
  let s3 := report { s2 with res := { s2.res with tstate := 3 } } (devReport Code.evStandin corrected 19 0 [])
  let s4 := ((List.finRange 8).filter (fun p => decide ((getRes s p).state = .prot))).foldl (fun t p => installPart t failed p) s3
  report { s4 with res := { s4.res with tstate := if s4.res.unrebuilt = [] then 5 else 4 } } (devReport Code.evRisk deferred 19 0 [])

/-- The tray has lost its protector: it is EXPOSED, and a free reserve, when there is one, is named and seeded (R351, R357). -/
def exposeTray (s : State) (reserve : Option Coord) : State :=
  let ps := (List.finRange 8).filter (fun p => decide ((getRes s p).state ≠ .off))
  let s1 := ps.foldl (fun t p => setRes t p { getRes t p with state := .exposed }) s
  let s2 := report { s1 with res := { s1.res with tstate := 5 } } (devReport Code.evExposed deferred 19 0 [])
  let s3 := report s2 (devReport Code.evRisk deferred 19 0 [])
  match reserve with
  | none => s3
  | some c =>
    let s4 := ps.foldl (fun t p => setRes t p { getRes t p with state := .seeding, seeded := false }) s3
    { s4 with res := { s4.res with mode := 2, protector := c, tstate := if ps = [] then 5 else 1 } }

/-- A coordinate lies in the device's own tray. -/
def inTray (s : State) (c : Coord) : Bool := c.toNat / 8 == s.sec.coord.toNat / 8

/-- The device's protector: slot 4 of the tray, or the reserve that XD_RES_CTRL names (R336, Table 15.11). -/
def protectorOf (s : State) : Coord := if s.res.mode = 1 then trayStandby s else s.res.protector

/-- The device may take an active over: it protects the active's tray in some partition and serves no other coordinate. A Standby
protects its own tray, a reserve one elsewhere (R336, R357). -/
def mayTake (s : State) (c : Coord) : Bool :=
  s.res.role != 0 && s.res.mode != 0 && s.fab.acting.isNone && decide (cSlot c < 4) && (s.res.role != 1 || inTray s c) &&
  (List.finRange 8).any (fun p => decide ((getRes s p).state = .prot))

/-- A device is declared failed (R351): leases from it end, its protector takes an active over, an active whose protector has failed is
exposed. -/
def declareFailed (s : State) (who : Coord) (reserve : Option Coord) : State :=
  if who = s.sec.coord then s
  else
    let s0 : State := if inTray s who
      then { s with res := { s.res with heard := s.res.heard &&& ~~~(BitVec.ofNat 5 (2 ^ cSlot who)) } } else s
    let s1 := lenderFailed s0 who
    if mayTake s who then takeOver s1 who
    else if s.res.role = 0 ∧ s.res.mode ≠ 0 ∧ who = protectorOf s then exposeTray s1 reserve
    else s1

/-- HEARTBEAT_LOSS: four periods without a heartbeat on either plane. -/
def execHeartbeatLoss (who : Coord) (reserve : Option Coord) (s : State) : Host.Outcome State Fault Refusal :=
  if unitsRun s then .next (declareFailed s who reserve) else .next s

/-- DOWN from a device with a DEVICE_FATAL error. -/
def execDown (who : Coord) (s : State) : Host.Outcome State Fault Refusal :=
  if unitsRun s then .next (declareFailed s who none) else .next s

/-- Every fabric request of the epoch to a coordinate goes again with its original SEQ (R350). -/
def resendEpoch (s : State) (failed : Coord) : State :=
  allCtxs.foldl (fun t c => (List.finRange 4).foldl (fun u q =>
    let x := getFq u c q
    let rs := x.sent ++ x.reqs.filter (fun r => !x.sent.any (fun y => y.sid == r.sid && y.dst == r.dst))
    (rs.filter (fun r => r.dst == failed)).foldl (fun v r => sendReq v c r.dst r.req) u) t) s

/-- A new incarnation of a coordinate is served: copies of its lines are dropped, and the epoch's requests to it go again (R350). -/
def serveNew (s : State) (c : Coord) : State :=
  let lines := [0, 1].flatMap (fun d => ((getXd s d).cache.filter (fun x => x.home == c)).map (·.line))
  resendEpoch (lines.foldl (fun t l => cacheDrop t c l) s) c

/-- The partitions under protection of a survivor: the tray has lost its protector, which rebuilds every parity piece (R356, R357). -/
def surviveTray (s : State) (failed : Coord) : State :=
  let ps := (List.finRange 8).filter (fun p => decide ((getRes s p).state = .prot))
  if s.res.role ≠ 0 ∨ !inTray s failed ∨ ps = [] then s
  else
    let s1 := ps.foldl (fun t p => setRes t p { getRes t p with state := .exposed }) s
    report { s1 with res := { s1.res with tstate := 5, unrebuilt := ps.flatMap (parityKeys s), demand := [] } }
      (devReport Code.evRisk deferred 19 0 [])

/-- An override to a coordinate's new holder: the entry that names the coordinate, else a free one (R357). -/
def writeOverride (s : State) (c holder : Coord) : State :=
  let ov := fun (i : Nat) => Tbl.get ({} : Override) s.res.ovr i
  match ((upto 64).find? (fun i => (ov i).en && (ov i).logical == c)).or ((upto 64).find? (fun i => !(ov i).en)) with
  | some i => { s with res := { s.res with ovr := Tbl.set {} s.res.ovr i { logical := c, physical := holder, en := true } } }
  | none => s

/-- TAKEOVER at a tray peer or torus neighbour: its ports to the failed device go out of service, the new INC is taken, a reserve
that takes over gets its override, a survivor of the tray is exposed, and the new incarnation is served (R350, R352, R357). -/
def execTakeover (failed : Coord) (newInc : BitVec 8) (holder : Coord) (s : State) : Host.Outcome State Fault Refusal :=
  if linksRun s ∧ failed ≠ s.sec.coord then
    let ps := (upto 36).filter (fun p => (wiredPeer s.sec.coord p).any (fun q => q.1 == failed.toNat))
    let s1 := ps.foldl (fun t p => setFp t p { getFp t p with en := false, state := .disabled }) s
    let h := Tbl.get 0 s1.fab.inc failed.toNat
    let s2 := if incNewer newInc h then { s1 with fab := { s1.fab with inc := Tbl.set 0 s1.fab.inc failed.toNat newInc } } else s1
    let s3 := if holder.toNat = failed.toNat / 8 * 8 + 4 then s2 else writeOverride s2 failed holder
    .next (serveNew (lenderFailed (surviveTray s3 failed) failed) failed)
  else .next s

/-- The holder that a packet with a newer INC shows: the incarnation is served; within the tray it is the slot that has taken its
coordinate back, and a survivor's partitions are seeded again (R350, R352, R396; DEDUCED, log 111). -/
def serveRaised (s : State) (c : Coord) : State :=
  let ps := (List.finRange 8).filter (fun p => decide ((getRes s p).state = .exposed))
  if s.res.role = 0 ∧ inTray s c ∧ s.res.mode = 1 ∧ ps ≠ [] then
    let s1 := ps.foldl (fun t p => setRes t p { getRes t p with state := .seeding, seeded := false, dirty := [], old := [] }) s
    serveNew { s1 with res := { s1.res with tstate := 1, unrebuilt := [], demand := [] } } c
  else serveNew s c

/-! ### Rebuild (R355, R356) -/

/-- On a survivor, pieces that the Standby reports rebuilt: their pre-images are released (R356). -/
def releasePieces (s : State) (ks : List Nat) : State :=
  let s1 : State := { s with res := { s.res with unrebuilt := s.res.unrebuilt.filter (fun k => !ks.contains k)
                                                 demand := s.res.demand.filter (fun k => !ks.contains k) } }
  ((List.finRange 8).filter (fun p => decide ((getRes s p).state = .exposed))).foldl (fun t p =>
    let r := getRes t p
    let keep := fun (d : DirtyPiece) => !ks.contains (p.val * 2 ^ 26 + d.piece)
    setRes t p { r with dirty := r.dirty.filter keep, old := r.old.filter keep }) s1

/-- REBUILD_PIECE: the next piece is the XOR of the parity piece and the survivors' copies at the restart mark; pieces that an
access waits for come first, then those that a survivor reports as about to be overwritten, then ascending page index (R355, R356).
`survivors` is the XOR of what the survivors supply, `pieces` those that survivors have reported; on a survivor it is the Standby's
report that `pieces` are rebuilt (the report has no row of its own, DESIGN CHOICE, log 112). -/
def execRebuildPiece (survivors : Bytes) (pieces : List Nat) (s0 : State) : Host.Outcome State Fault Refusal :=
  let wanted := pieces.filter (fun k => s0.res.unrebuilt.contains k && !s0.res.demand.contains k)
  let s : State := { s0 with res := { s0.res with demand := s0.res.demand ++ wanted } }
  if s0.res.role = 0 then (if unitsRun s0 then .next (releasePieces s0 pieces) else .next s0)
  else match (s.res.demand ++ s.res.unrebuilt).head? with
  | none => .next s
  | some k =>
    if unitsRun s ∧ survivors.length = parityPiece then
      let p : PartI := Fin.ofNat 8 (k / 2 ^ 26)
      let piece := k % 2 ^ 26
      match writeHome s p (pieceAddr piece) (xorBytes (pieceBytes s p piece) survivors) with
      | .error _ => .next s
      | .ok t =>
        let left := t.res.unrebuilt.filter (· != k)
        let t1 := { t with res := { t.res with unrebuilt := left, demand := t.res.demand.filter (· != k) } }
        if left = [] then .next (report { t1 with res := { t1.res with tstate := 5 } } (devReport Code.evRebuilt corrected 19 0 []))
        else .next t1
    else .next s0

end Sys2Proof.Machine
end

