-- ==== Sys2Proof/Machine/Deliver.lean ====
section
/-! DEFINITION. What a packet that has reached the device comes to: the command that its unit takes from it (R134, R182, R249-R251,
R262, R265, R280, Tables 6.2, 6.3, 8.2, 11.4, 11.6, 12.4). It undoes what Machine/Wire.lean does for a packet on its way out. -/

namespace Sys2Proof.Machine

/-- A field of a packet's body. -/
def pf (k : Packet) (lo n : Nat) : Nat := bitsOf (leNat k.body) lo n

/-- A field of a packet's body as bits. -/
def pfb (k : Packet) (lo : Nat) (n : Nat) : BitVec n := BitVec.ofNat n (pf k lo n)

/-! ### The Exchange Engine and the Combine unit (UNIT 0) -/

/-- The common part of an exchange message (Table 6.2). -/
def xHdrOf (k : Packet) : XHdr :=
  { jtag := k.jtag, kind := Fin.ofNat 4 (pf k 8 2), plane := Fin.ofNat 2 (pf k 10 1), xid := pfb k 16 16, srcRank := pfb k 32 16
    dstRank := pfb k 48 16, src := k.src }

/-- A count entry of an XCOUNT (Table 5.7). -/
def countEntryOf (k : Packet) (i : Nat) : CountEntry :=
  { localIdx := pfb k (96 + 32 * i) 12, wc := pf k (108 + 32 * i) 1 == 1, countM1 := pfb k (112 + 32 * i) 16 }

/-- The command of an exchange message (Table 6.3); a reserved TYPE is none. -/
def xCommand (k : Packet) : Option Instr :=
  let h := xHdrOf k
  match pf k 0 8 with
  | 1 => some (.xopen h (pfb k 64 16) (pfb k 80 32) (pfb k 112 40) (pfb k 152 14) (pfb k 166 40))
  | 2 => some (.xready h (pfb k 64 16))
  | 3 => some (.xwait h)
  | 4 => some (.xcount h (pfb k 64 16) ((upto (pf k 80 4)).map (countEntryOf k)))
  | 5 => some (.xask h)
  | 6 => some (.xcredit h (pfb k 64 16))
  | 7 => some (.xend h (pfb k 80 40) (pfb k 120 32))
  | 8 => some (.xack h)
  | 9 => some (.xresend h (pfb k 64 40) (pfb k 104 32))
  | _ => none

/-- The inbound stream of a data packet: the one of its tag, KIND, plane and XID from its source. -/
def streamCommand (s : State) (k : Packet) : Option Instr :=
  (s.ins.find? (fun st => st.key.kind.val == bitsOf k.sub.toNat 0 2 && st.key.plane == k.sdie && st.key.xid == k.sid &&
    st.hdr.src == k.src && (msgCtxs s k.jtag).contains st.key.cid)).map (fun st => .streamData st.hdr k.offset k.body)

/-! ### The Collective Engine (UNIT 2) -/

/-- The common part of a collective's message (R182). -/
def cHdrOf (k : Packet) : CHdr :=
  { jtag := k.jtag, tree := Fin.ofNat 2 (pf k 8 1), cid := pfb k 16 16, srcRank := pfb k 32 16, dstRank := pfb k 48 16, src := k.src }

/-- The fields of a CEND. -/
def cendOf (k : Packet) : CEndMsg :=
  { chunk := pfb k 64 32, pass := Fin.ofNat 4 (pf k 96 2), empty := pf k 98 1 == 1, event := pf k 99 1 == 1, compact := pf k 100 1 == 1
    bf16 := pf k 101 1 == 1, bytes := pfb k 102 32, crc := pfb k 134 32, nemp := pfb k 166 17, nanel := pfb k 183 32 }

/-- The command of a collective's message (Table 8.2). The adders of a delivered part work as they should. -/
def cCommand (k : Packet) : Option Instr :=
  let h := cHdrOf k
  match pf k 0 8 with
  | 1 => some (.copen h (pfb k 64 32) (pfb k 96 32))
  | 2 => some (.cready h)
  | 3 => some (.cwait h)
  | 4 => some (.cend h (cendOf k) [] [])
  | 5 => some (.cack h (pfb k 64 32) (Fin.ofNat 4 (pf k 96 2)))
  | 6 => some (.cresend h (pfb k 64 32) (Fin.ofNat 4 (pf k 96 2)))
  | 7 => some (.cabort h (pfb k 64 16) (pfb k 80 8))
  | _ => none

/-- The least of some chunk numbers. -/
def leastChunk : List Nat → Option Nat
  | [] => none
  | c :: cs => some (cs.foldl min c)

/-- The part of a collective to which a data packet belongs. Table 11.4 names its CID, PASS and TREE but no chunk: it is the
lowest chunk that its sender has not closed with CEND (DESIGN CHOICE, log 104). -/
def chunkCommand (s : State) (k : Packet) : Option Instr :=
  let pass := bitsOf k.sub.toNat 0 2
  let tree := bitsOf k.sub.toNat 2 1
  let mine := fun (c : Coll) => c.id == k.sid && !c.done && (msgCtxs s k.jtag).contains c.cid
  (s.colls.find? mine).bind (fun c =>
    let parts := c.ins.filter (fun i => i.pass == pass && treeOf i.chunk == tree && c.coordOf i.peer == k.src && i.fin.isNone && !i.ok)
    (leastChunk (parts.map (·.chunk))).bind (fun n =>
      (parts.find? (fun i => i.chunk == n)).map (fun i =>
        let h : CHdr := { jtag := k.jtag, tree := Fin.ofNat 2 tree, cid := k.sid, srcRank := BitVec.ofNat 16 i.peer
                          dstRank := BitVec.ofNat 16 c.self, src := k.src }
        .chunkData h (BitVec.ofNat 32 n) (Fin.ofNat 4 pass) k.offset k.body [] [])))

/-! ### Agents and gateways (UNIT 3 and 4) -/

/-- The packet's source is a device of this tray. -/
def fromTray (s : State) (k : Packet) : Bool := k.src.toNat / 8 == s.sec.coord.toNat / 8

/-- A request (Table 12.4). Its space is not in the message: UNIT 4 is space 3, UNIT 3 from this tray is space 1, else 2. -/
def reqOf (s : State) (k : Packet) (op : MsfOp) (data : Bytes) : ReqMsg :=
  { src := k.src, jtag := k.jtag, space := if k.unit = 4 then 3 else if fromTray s k then 1 else 2, op := op, sid := pfb k 16 16
    shared := pf k 33 1 == 1, own := pf k 34 1 == 1, addr := pfb k 36 44, operand := if isBulk op then 0 else pfb k 80 64
    operand2 := pfb k 144 64, bmask := pfb k 208 128, len := if isBulk op then pfb k 80 40 else 0, cpn := pf k 336 1 == 1
    cpnPort := Fin.ofNat 2 (pf k 337 1), data := data }

/-- An answer (Table 12.4). -/
def rspOf (k : Packet) (data : Bytes) : RspMsg :=
  { src := k.src, jtag := k.jtag, sid := pfb k 16 16, status := pfb k 33 8, result := pfb k 41 64, cpn := pf k 105 1 == 1
    cpnPort := Fin.ofNat 2 (pf k 106 1), data := data }

/-- The holder that a directory message speaks for, which no field of a message without data names: the tray slot of its source,
or, where the line's entry does not list that slot, the companion that it lists (DESIGN CHOICE, log 96). -/
def holderOf (s : State) (k : Packet) : Holder :=
  let slot : Holder := Fin.ofNat 7 (cSlot k.src)
  let v : BitVec 7 :=
    match dirFind s (pf k 36 44) with
    | some e => (match e.st with | .shared v => v | .modified o => holderBit o)
    | none => 0
  if v.getLsbD slot.val then slot else if v.getLsbD 5 then 5 else if v.getLsbD 6 then 6 else slot

/-- The command of a message of UNIT 3 or 4 with the bytes that follow it (Table 12.4). A RECALL for a companion goes to RL0
(DESIGN CHOICE, log 96). -/
def msfCommand (s : State) (k : Packet) (data : Option Bytes) : Option Instr :=
  let addr : BitVec 44 := pfb k 36 44
  let sid : BitVec 16 := pfb k 16 16
  let bs := data.getD []
  match pf k 0 8 with
  | 1 => (msfOpOf (pf k 8 8)).map (fun op => .req (reqOf s k op bs))
  | 2 => some (.rsp (rspOf k bs))
  | 3 => some (.busy k.src k.jtag sid)
  | 4 => some (.inv (linePlane addr.toNat) k.src addr)
  | 5 => some (.invack (holderOf s k) addr)
  | 6 => some (.recallLine k.src (pf k 35 1 == 1) addr 0)
  | 7 => some (.recallack (holderOf s k) k.dst addr data)
  | 8 => some (.puts (holderOf s k) k.dst addr)
  | 9 => some (.putm (holderOf s k) k.dst addr bs)
  | 10 => some (.bend k.src k.jtag sid (pfb k 32 40) (pfb k 72 32))
  | 11 => some (.bresend k.src k.jtag sid)
  | _ => none

/-- A message of UNIT 3 or 4 that data packets follow. -/
def dataFollows (k : Packet) : Bool :=
  let t := pf k 0 8
  ((t == 1 || t == 2 || t == 7) && pf k 32 1 == 1) || t == 9

/-- A data packet follows a message: the same unit, network, source and tag, and its SID. -/
def goesWith (k d : Packet) : Bool :=
  d.isData && d.unit == k.unit && d.net == k.net && d.src == k.src && d.jtag == k.jtag && d.sid == pfb k 16 16

/-- The BEND of a transfer. -/
def endsRun (k d : Packet) : Bool :=
  !d.isData && d.unit == 4 && pf d 0 8 == 10 && d.src == k.src && d.jtag == k.jtag && pf d 16 16 == pf k 16 16

/-- The payloads of packets, each at its OFFSET. -/
def payload (ds : List Packet) : Bytes :=
  let m := ds.foldl (fun (m : Memory) d => Memory.write m d.offset.toNat d.body) []
  Memory.read m 0 ((ds.map (fun d => d.offset.toNat + d.body.length)).foldl max 0)

/-- The data packets of a message, once they are all there: of a line or record the first, of a transfer those before its BEND. -/
def dataOf (s : State) (k : Packet) : Option (List Packet) :=
  let ds := s.fab.delivered.filter (goesWith k)
  if k.unit = 4 then (if s.fab.delivered.any (endsRun k) then some ds else none)
  else ds.head?.map (fun d => [d])

/-! ### The fabric's own messages (UNIT 6) -/

/-- The first 16 bytes of a packet as a number, without the fields that change on the way. -/
def steadyHead (n : Nat) : Nat := n - 8 * bitsOf n 3 7

/-- The packet that a TAGNAK names, among those this device has sent, its payload in the clear (R262). -/
def refusedPacket (s : State) (k : Packet) : Option Packet :=
  let hit := fun (q : Packet) => forMe s q.src && steadyHead (leNat ((wireHead q).take 16)) == steadyHead (pf k 16 128) &&
    (!q.isData || q.sid.toNat == pf k 144 16)
  (s.out.reverse.findSome? (fun m => match m with | .packet _ q => if hit q then some q else none | _ => none)).bind
    (fun q => if q.isData && q.enc then ((bindOfTag s q.jtag).bind (bindKey s)).bind (openPacket q) else some q)

/-- The command of a fabric message (Table 11.6). -/
def fabCommand (s : State) (k : Packet) : Option Instr :=
  match pf k 0 8 with
  | 1 => (refusedPacket s k).map (fun q => .tagnak (pf k 8 1 == 1) q)
  | 2 => some (.tsync k.src (pfb k 16 16) (pfb k 32 64))
  | 3 => some (.treq k.src (pfb k 16 16) (pfb k 32 64))
  | 4 => some (.tresp (pfb k 16 16) (pfb k 32 64) (pfb k 96 64))
  | _ => none

/-! ### Taking packets up -/

/-- What a packet comes to: nothing yet, or the command that it spells (none where no unit takes it) and the packets that it uses
up. -/
def packetUse (s : State) (k : Packet) : Option (Option Instr × List Packet) :=
  let msf := k.unit == 3 || k.unit == 4
  if k.isData then
    if msf then none
    else if k.unit = 0 then some (streamCommand s k, [k])
    else if k.unit = 2 then some (chunkCommand s k, [k])
    else some (none, [k])
  else if msf then
    if dataFollows k then (dataOf s k).map (fun ds => (msfCommand s k (some (payload ds)), k :: ds))
    else if s.fab.delivered.any (fun d => !d.isData && d.unit == 4 && dataFollows d && endsRun d k) then none
    else some (msfCommand s k none, [k])
  else if k.unit = 0 then some (xCommand k, [k])
  else if k.unit = 2 then some (cCommand k, [k])
  else if k.unit = 6 then some (fabCommand s k, [k])
  else some (none, [k])

/-- Packets leave what has been delivered. -/
def takeUp (s : State) (ks : List Packet) : State :=
  { s with fab := { s.fab with delivered := ks.foldl (fun l k => removeFirst (fun q => q == k) l) s.fab.delivered } }

/-- What the device does of itself before time passes: it serves an incarnation that a packet has raised (R350), then the first
delivered packets that are complete, then a command that waited for lines or pieces (R251; the order is the model's, log 1). -/
def nextOwn (s : State) : Option (Option Instr × State) :=
  match s.fab.raised with
  | c :: t => some (none, serveRaised { s with fab := { s.fab with raised := t } } c)
  | [] =>
  match s.fab.delivered.findSome? (packetUse s) with
  | some (c, ks) => some (c, takeUp s ks)
  | none =>
    match s.late.find? (Late.ready s) with
    | some x => some (some x.cmd, { s with late := removeFirst (fun y => y == x) s.late })
    | none => none

end Sys2Proof.Machine
end

