-- ==== Sys2Proof/Machine/Power.lean ====
section
/-! DEFINITION. The Weir and the brake (R400-R403), the quads' loops (R404-R408), thermal limits and refresh (R409, R410),
self-test and calibration (R413, R414), and the package rails (R450, R451). -/

namespace Sys2Proof.Machine

/-- A report of the power and thermal loops (Table 19.4, unit 18). -/
def pwrReport (code : BitVec 16) (cls : Fin 5) (inst : Nat) (detail : List (BitVec 32)) : Report := devReport code cls 18 inst detail

/-! ### The Weir (R401, R402) -/

/-- The level that the buckets allow (R401). -/
def bucketLevel (w : Pwr) : Nat := if w.h2 then 2400 else if w.h1 then 2650 else 2950

/-- L. -/
def weirLimit (w : Pwr) : Nat := min (bucketLevel w) w.cap.toNat

/-- A bucket after a sample, counted in µJ (R401). -/
def bucketNext (b p level cap : Nat) : Nat := min cap (b + p - level)

/-- The hold of a bucket: set from `hi` up, cleared below `lo` (R401). -/
def bucketHold (h : Bool) (b hi lo : Nat) : Bool := if hi ≤ b then true else if b < lo then false else h

/-- The buckets and their holds after a sample. -/
def weirSample (w : Pwr) (p : Nat) : Pwr :=
  let b1 := bucketNext w.b1 p 2650 3000000
  let b2 := bucketNext w.b2 p 2400 500000000
  { w with
    b1 := b1
    b2 := b2
    h1 := bucketHold w.h1 b1 2625000 1500000
    h2 := bucketHold w.h2 b2 437500000 250000000
    samples := (BitVec.ofNat 16 p :: w.samples).take 1000
    peak := if w.peak.toNat < p then BitVec.ofNat 16 p else w.peak }

/-- The mean of the newest `n` samples. -/
def meanOf (w : Pwr) (n : Nat) : Nat :=
  let l := w.samples.take n
  (l.map (·.toNat)).sum / max 1 l.length

/-- p10. -/
def weirP10 (w : Pwr) : Nat := meanOf w 10

/-- The brake is engaged. -/
def brakeOn (w : Pwr) : Bool := w.brakeInt || w.brakePin

/-- The brake engages: least step and quarter duty, counted and reported (R403). -/
def engageBrake (s : State) (w : Pwr) : State :=
  report { s with pwr := { w with fc := 32, duty := 2, brakeCnt := satAdd w.brakeCnt 1, belowSince := none } }
    (pwrReport Code.ePwrBrake corrected 0 [])

/-- WEIR_SAMPLE: a 1 µs sample of package power; `railOver` is a rail's mean current above its limit (R401, R403). -/
def execWeirSample (p : BitVec 16) (railOver : Bool) (s : State) : Host.Outcome State Fault Refusal :=
  if s.gl.inReset then .next s
  else
    let w := weirSample s.pwr p.toNat
    if (2950 < p.toNat ∨ railOver) ∧ ¬ w.brakeInt then .next (engageBrake s { w with brakeInt := true })
    else .next { s with pwr := w }

/-- FC and D after an update, and whether it limited (R402). -/
def weirStep (w : Pwr) : BitVec 7 × BitVec 2 × Bool :=
  let l := weirLimit w
  let p := weirP10 w
  let fc := w.fc.toNat
  if l < p then
    if 32 < fc then (BitVec.ofNat 7 (max (fc - max 1 ((p - l) / 20)) 32), w.duty, true)
    else if w.duty.toNat < 2 then (w.fc, w.duty + 1, true)
    else (w.fc, w.duty, false)
  else if p + 50 < l ∧ ¬ brakeOn w then
    if w.duty ≠ 0 then (w.fc, w.duty - 1, false) else (BitVec.ofNat 7 (min (fc + 1) 64), w.duty, false)
  else (w.fc, w.duty, false)

/-- WEIR_UPDATE: every 10 µs (R402). -/
def execWeirUpdate (s : State) : Host.Outcome State Fault Refusal :=
  let w := s.pwr
  if s.gl.inReset ∨ w.samples = [] then .next s
  else
    let r := weirStep w
    let below := if weirP10 w < weirLimit w then some (w.belowSince.getD s.now) else none
    .next { s with pwr := { w with fc := r.1, duty := r.2.1, weirCnt := if r.2.2 then satAdd w.weirCnt 1 else w.weirCnt, belowSince := below } }

/-- PWR_BRAKE_N: the board drives the pin low (R403). -/
def execPwrBrakeN (s : State) : Host.Outcome State Fault Refusal :=
  if s.pwr.brakePin then .next s
  else
    let w : Pwr := { s.pwr with brakePin := true }
    if s.gl.inReset then .next { s with pwr := w } else .next (engageBrake s w)

/-- PWR_BRAKE_N_RISE: the pin is high again and its brake ends (R403). -/
def execPwrBrakeNRise (s : State) : Host.Outcome State Fault Refusal := .next { s with pwr := { s.pwr with brakePin := false } }

/-- BRAKE_RELEASE: an internal brake ends once 100 µs have passed with p10 below L (R403). -/
def execBrakeRelease (s : State) : Host.Outcome State Fault Refusal :=
  match s.pwr.belowSince with
  | some t =>
    if s.pwr.brakeInt ∧ t + 100000 ≤ s.now then .next { s with pwr := { s.pwr with brakeInt := false } } else .next s
  | none => .next s

/-! ### Quad voltage and frequency (R404-R408) -/

/-- The voltage of a step, in mV (R404). -/
def quadVolt (x : QuadPwr) (k : Nat) : Int := 620 + 5 * ((k : Int) - 32) + x.age + x.droopOff

/-- AK: the largest step whose voltage stays at or below 900 mV (R406). -/
def quadAk (x : QuadPwr) : Nat := (((upto 33).map (fun i => 64 - i)).find? (fun k => decide (quadVolt x k ≤ 900))).getD 32

/-- The partition that pins a quad (R408). -/
def pinOf (s : State) (q : Nat) : Option Nat :=
  match quadPart s q with
  | some p => if (getPart s p).pinEn then some (getPart s p).pinStep.toNat else none
  | none => none

/-- The quad's step: the lowest ceiling governs (R407). -/
def quadStep (s : State) (q : Nat) : Nat :=
  let x := getQuad s q
  min (min s.pwr.fc.toNat (quadAk x)) (min x.tc.toNat ((pinOf s q).getD 64))

/-- A quad's loop state changes; AK falling below 64 is reported (R406). -/
def quadChange (s : State) (q : Nat) (y : QuadPwr) : State :=
  let t := setQuad s q y
  if 64 ≤ quadAk (getQuad s q) ∧ quadAk y < 64 then report t (pwrReport Code.ePwrAging deferred q []) else t

/-- DROOP_TRIP: a detector trips; the half-rate cycles change timing only (R405). -/
def execDroopTrip (q : QuadI) (_detector : Fin 4) (s : State) : Host.Outcome State Fault Refusal :=
  if s.gl.inReset then .next s
  else
    let x := getQuad s q.val
    .next (setQuad s q.val { x with trips := x.trips + 1, droopCnt := satAdd x.droopCnt 1 })

/-- DROOP_OFF and the windows in a row without a trip, after a window (R405). -/
def droopNext (x : QuadPwr) (pinned : Bool) : QuadPwr :=
  let quiet := if x.trips = 0 then x.quiet + 1 else 0
  if pinned then { x with trips := 0, quiet := quiet, droopOff := 50 }
  else if 16 < x.trips then { x with trips := 0, quiet := quiet, droopOff := min 50 (x.droopOff + 5) }
  else if 64 ≤ quiet then { x with trips := 0, quiet := 0, droopOff := max (-30) (x.droopOff - 5) }
  else { x with trips := 0, quiet := quiet }

/-- DROOP_WINDOW: a 1 ms window ends; one that trips too often at +50 mV is reported (R405). -/
def execDroopWindow (q : QuadI) (s : State) : Host.Outcome State Fault Refusal :=
  if s.gl.inReset then .next s
  else
    let x := getQuad s q.val
    let t := quadChange s q.val (droopNext x (pinOf s q.val).isSome)
    if 16 < x.trips ∧ x.droopOff = 50 then .next (report t (pwrReport Code.ePwrDroop corrected q.val [])) else .next t

/-- AGE of a measurement: 6 mV for each 1,000 ppm, averaged over the pairs (R406). -/
def ageOf (slowdown : List Nat) : Nat := min 127 (slowdown.sum * 6 / (1000 * max 1 slowdown.length))

/-- A quad's AGE after a measurement: the first one sets it, a later one only raises it (R406). -/
def agingSet (s : State) (q : Nat) (slowdown : List Nat) : State :=
  let x := getQuad s q
  let a := ageOf slowdown
  quadChange s q { x with age := if x.aged then max x.age a else a, aged := true }

/-- AGING_MEASURE: every 10 s (R406). -/
def execAgingMeasure (q : QuadI) (slowdown : List Nat) (s : State) : Host.Outcome State Fault Refusal :=
  if s.gl.inReset then .next s else .next (agingSet s q.val slowdown)

/-- A step that a write of PWR_PIN_p holds; outside 32 to 64 the spec states none (a free value in that range). -/
def pinStepOf (s : State) (v : BitVec 32) : BitVec 7 :=
  let k := bitsOf v.toNat 0 7
  if 32 ≤ k ∧ k ≤ 64 then BitVec.ofNat 7 k else BitVec.ofNat 7 (32 + (Config.freeByte s.free).toNat % 33)

/-- A write of PWR_PIN_p: with EN, DROOP_OFF of the partition's quads is held at +50 mV (R408). -/
def pinWrite (s : State) (p : PartI) (v : BitVec 32) : State :=
  let x := getPart s p
  let s1 := setPart (takeFree s 1) p { x with pinStep := pinStepOf s v, pinEn := v.getLsbD 7 }
  if v.getLsbD 7 then
    ((upto 32).filter (fun q => quadPart s1 q == some p)).foldl (fun t q => quadChange t q { getQuad t q with droopOff := 50 }) s1
  else s1

/-- PWR_PIN_WRITE; semaphore 6 + p guards it (R415). -/
def execPwrPinWrite (port : RlPort) (p : PartI) (value : BitVec 32) (s : State) : Host.Outcome State Fault Refusal :=
  .next (guarded s port (6 + p.val) (fun t => pinWrite t p value))

/-! ### Thermal limits (R409, R410) -/

/-- A sensor's throttle, alert and trip thresholds in °C (Table 18.3); exchange dies have no throttle. -/
def thresholds (k : Nat) : Option Int × Int × Int :=
  if k < 32 then (some 95, 100, 110) else if k < 34 then (none, 100, 110) else (some 95, 100, 105)

/-- A condition is set at its threshold and clears 3 °C below it. -/
def hyst (h : Bool) (t th : Int) : Bool := if 16 * th ≤ t then true else if t < 16 * (th - 3) then false else h

/-- A sensor. -/
def getSens (s : State) (k : Nat) : Sens := Tbl.get {} s.pwr.sensors k

/-- Replaces a sensor. -/
def setSens (s : State) (k : Nat) (x : Sens) : State := { s with pwr := { s.pwr with sensors := Tbl.set {} s.pwr.sensors k x } }

/-- THERM_ALERT_N is asserted: by any alert, and held from a trip on (R409). -/
def thermAlert (s : State) : Bool := s.pwr.trip || s.pwr.sensors.any (fun e => e.2.alert)

/-- THERMTRIP_N is driven low, and the device stops (R409, R453). -/
def tripDevice (s : State) (r : Report) : State := report { s with pwr := { s.pwr with trip := true } } r

/-- A sensor's conditions at a temperature. -/
def sensAt (x : Sens) (k : Nat) (temp : BitVec 16) : Sens :=
  let th := thresholds k
  { temp := temp, throttle := (match th.1 with | some v => hyst x.throttle temp.toInt v | none => false), alert := hyst x.alert temp.toInt th.2.1 }

/-- A sensor reads a temperature: its conditions follow, a new alert is reported, and a trip stops the device (R409). -/
def sensed (s : State) (k : Nat) (temp : BitVec 16) : State :=
  let x := getSens s k
  let y := sensAt x k temp
  let s1 := setSens s k y
  let s2 := if y.alert ∧ ¬ x.alert then report s1 (pwrReport Code.ePwrThermal deferred k []) else s1
  if 16 * (thresholds k).2.2 ≤ temp.toInt ∧ ¬ s.pwr.trip then tripDevice s2 (pwrReport Code.ePwrThermtrip deviceFatal k []) else s2

/-- THERMAL_THRESHOLD: a sensor crosses a throttle, alert or trip threshold (R409). -/
def execThermalThreshold (sensor : Sensor) (temp : BitVec 16) (s : State) : Host.Outcome State Fault Refusal :=
  if s.gl.inReset then .next s else .next (sensed s sensor.val temp)

/-- TC after a step of the thermal loop: it falls while the throttle holds and rises below 92 °C (R409). -/
def tcNext (tc : BitVec 7) (x : Sens) : BitVec 7 :=
  if x.throttle then (if 32 < tc.toNat then tc - 1 else tc)
  else if x.temp.toInt < 16 * 92 ∧ tc.toNat < 64 then tc + 1 else tc

/-- THERMAL_CEILING_STEP (R409). -/
def execThermalCeilingStep (q : QuadI) (s : State) : Host.Outcome State Fault Refusal :=
  if s.gl.inReset then .next s
  else
    let x := getQuad s q.val
    .next (setQuad s q.val { x with tc := tcNext x.tc (getSens s q.val) })

/-- The refresh code of a stack after a reading, with 2 °C of hysteresis (R410, Table 18.4). -/
def refreshNext (c : BitVec 2) (t : Int) : BitVec 2 :=
  if 16 * 95 < t ∨ (c = 2 ∧ 16 * 93 < t) then 2
  else if 16 * 85 < t ∨ (c ≠ 0 ∧ 16 * 83 < t) then 1
  else 0

/-- The refresh code of a stack: 1 until its first reading (Table 18.5). -/
def refreshOf (s : State) (k : Nat) : BitVec 2 := Tbl.get 1 s.pwr.refresh k

/-- A stack's reading: its refresh rate, and the thresholds of its sensor (R409, R410). -/
def refreshStack (s : State) (r : BitVec 16 × Nat) : State :=
  let t : State := { s with pwr := { s.pwr with refresh := Tbl.set 1 s.pwr.refresh r.2 (refreshNext (refreshOf s r.2) r.1.toInt) } }
  sensed t (34 + r.2) r.1

/-- REFRESH_UPDATE: every 1 ms each HBM3E controller reads its stack and each LPDDR5X controller MR4 (R410). -/
def execRefreshUpdate (temps : List (BitVec 16)) (mr4 : List (BitVec 8)) (s : State) : Host.Outcome State Fault Refusal :=
  if linksRun s then
    let s1 := (temps.take 12).zipIdx.foldl refreshStack s
    let m := (mr4.take 8).zipIdx.foldl (fun t r => Tbl.set 0 t r.2 r.1) s1.pwr.mr4
    .next { s1 with pwr := { s1.pwr with mr4 := m } }
  else .next s

/-! ### Self-test (R413) -/

/-- An hour in ns. -/
def hourNs : Nat := 3600000000000

/-- When a quad's next test is due. -/
def testDueAt (s : State) (q : Nat) : Nat := (getQuad s q).stStart.getD s.pwr.resetAt + s.pwr.periodH.toNat * hourNs

/-- A quad's test is pending or running (PWR_ST_STAT). -/
def testPending (s : State) (q : Nat) : Bool := (getQuad s q).stPend || decide (testDueAt s q ≤ s.now)

/-- A slice may start on a quad (R413): none runs on its die, a second has passed since its last, its partition is in no
switch, and it is not pinned, or the test is 24 h overdue. The slices that PWR_ST_CMD asks for run back to back, and a pin, which
holds scheduled slices (R408), does not hold them. -/
def sliceMayStart (s : State) (q : Nat) : Bool :=
  let x := getQuad s q
  testPending s q && !((upto 8).any (fun k => (getQuad s (q / 8 * 8 + k)).slice)) &&
  (x.stForced || (match x.stEnd with | some t => decide (t + 1000000000 ≤ s.now) | none => true)) &&
  (match quadPart s q with | some p => (getPart s p).switching.isNone | none => true) &&
  (x.stForced || (pinOf s q).isNone || decide (testDueAt s q + 24 * hourNs ≤ s.now))

/-- The quad's cores of the resident context of its partition. -/
def quadSeqs (s : State) (q : Nat) : List (CtxId × Nat) :=
  match quadPart s q with
  | none => []
  | some p => match (getPart s p).resident with
    | none => []
    | some r => (upto 4).map (fun i => ((⟨p, r⟩ : CtxId), 4 * q + i))

/-- SELFTEST_SLICE_DUE: the quad's cores stop where a context is resident, and once they have stopped the slice starts (R326, R327,
R413). -/
def execSelftestSliceDue (q : QuadI) (s : State) : Host.Outcome State Fault Refusal :=
  if unitsRun s ∧ sliceMayStart s q.val then
    let x := getQuad s q.val
    if (quadSeqs s q.val).all (fun k => coreStopped (getSeq s k.1 k.2)) then
      .next (setQuad s q.val { x with
        slice := true, stopReq := none, stPend := true, stStart := if x.stPend ∧ x.stDone ≠ 0 then x.stStart else some s.now })
    else .next (setQuad s q.val { x with stopReq := some (x.stopReq.getD s.now) })
  else .next s

/-- The commands that a slice has stopped resume (R413). -/
def resumeQuad (s : State) (q : Nat) : State :=
  (quadSeqs s q).foldl (fun t k =>
    let y := getSeq t k.1 k.2
    setSeq t k.1 k.2 { y with inflight := y.inflight.map (fun f => { f with capped := false }) }) s

/-- A slice has ended with the right signature, at once or repeated. -/
def sliceDone (x : QuadPwr) (now : Nat) : QuadPwr :=
  if x.stDone = 63 then { x with slice := false, stDone := 0, stPend := false, stForced := false, stEnd := some now }
  else { x with slice := false, stDone := x.stDone + 1, stEnd := some now }

/-- SELFTEST_SLICE_END: a slice's signature is compared; a mismatch repeats the slice, whose result is `passAgain` (R413). -/
def execSelftestSliceEnd (q : QuadI) (pass passAgain : Bool) (s : State) : Host.Outcome State Fault Refusal :=
  let x := getQuad s q.val
  if unitsRun s ∧ x.slice then
    let s1 := resumeQuad (setQuad s q.val (sliceDone x s.now)) q.val
    if pass then .next s1
    else if passAgain then
      let s2 : State := { s1 with pwr := { s1.pwr with stFail := s1.pwr.stFail ||| BitVec.ofNat 32 (2 ^ q.val) } }
      .next (report s2 (pwrReport Code.ePwrSelftest corrected q.val []))
    else .next (report s1 (pwrReport Code.ePwrSelftest deviceFatal q.val []))
  else .next s

/-- A write of PWR_ST_CMD: the named quads run all 64 slices back to back (R413). -/
def stCmdWrite (s : State) (v : BitVec 32) : State :=
  ((upto 32).filter (fun q => bitAt v.toNat q)).foldl (fun t q => setQuad t q { getQuad t q with stPend := true, stForced := true, stDone := 0 }) s

/-- PWR_ST_CMD; semaphore 1 guards it (R415). -/
def execPwrStCmd (port : RlPort) (value : BitVec 32) (s : State) : Host.Outcome State Fault Refusal :=
  .next (guarded s port 1 (fun t => stCmdWrite t value))

/-- CALIBRATION: each one changes only timing (R414). -/
def execCalibration (_c : Calib) (s : State) : Host.Outcome State Fault Refusal := .next s

/-! ### Rails (R450, R451) -/

/-- A regulator's answer: a set bit, or none, is reported with the address and STATUS_WORD; without an answer the word is
open (R450). -/
def pmReport (s : State) (r : PmReading) : State :=
  let rep := fun (w : Nat) => pwrReport Code.ePwrReg deferred r.rail.val [BitVec.ofNat 32 (0x40 + r.rail.val), BitVec.ofNat 32 w]
  match r.status with
  | some w => if w = 0 then s else report s (rep w.toNat)
  | none => report (takeFree s 2) (rep ((Config.freeByte s.free).toNat + 256 * (Config.freeByte (s.free + 1)).toNat))

/-- Device firmware runs: from stage 3 on (Table 17.2). -/
def firmwareRuns (s : State) : Bool :=
  decide (3 ≤ s.sec.stage.toNat) && decide (s.sec.stage.toNat ≤ 7) && !s.gl.inReset && !s.gl.stopped

/-- A PMBus poll of every address. -/
def pmPoll (s : State) (readings : List PmReading) : State := if firmwareRuns s then readings.foldl pmReport s else s

/-- PMBUS_POLL: every 10 ms (R450). -/
def execPmbusPoll (readings : List PmReading) (s : State) : Host.Outcome State Fault Refusal := .next (pmPoll s readings)

/-- PM_ALERT_N: its falling edge polls at once (R450). -/
def execPmAlertN (readings : List PmReading) (s : State) : Host.Outcome State Fault Refusal := .next (pmPoll s readings)

/-- RAIL_MARGIN: an excursion of more than 3 % has lasted 100 µs; its rail and largest deviation are reported (R451). -/
def execRailMargin (rail : Fin 33) (deviation : BitVec 32) (s : State) : Host.Outcome State Fault Refusal :=
  if s.gl.inReset then .next s
  else .next (report s (pwrReport Code.ePwrMargin deferred rail.val [BitVec.ofNat 32 rail.val, deviation]))

/-- RAIL_EXCURSION: a rail more than 5 % off nominal stops the device and drives THERMTRIP_N low (R451, "When a rail leaves
its tolerance"). -/
def execRailExcursion (rail : Fin 33) (_deviation : BitVec 32) (s : State) : Host.Outcome State Fault Refusal :=
  if s.gl.inReset ∨ s.gl.stopped then .next s
  else .next (tripDevice s (pwrReport Code.ePwrRail deviceFatal rail.val [BitVec.ofNat 32 rail.val]))

end Sys2Proof.Machine
end

