-- ==== Sys2Proof/Machine/Boot.lean ====
section
/-! DEFINITION. Boot (R383-R391): the GO write, the boot objects, the manifest, the image and the stages. -/

namespace Sys2Proof.Machine

/-! ### GO (R386) -/

/-- The fabric port of XD0 that boot takes its objects from, with SOURCE 1: the boot ROM alone brings it up (R386). -/
def setBootPort (s : State) (st : PortState) : State :=
  if s.sec.source then setFp s s.sec.bport.toNat { getFp s s.sec.bport.toNat with state := st, preset := 0 } else s

/-- A write of SEC_BOOT_CMD: the first GO since reset begins boot from the given port, or from a fabric port, which starts in
DETECT (R386). -/
def bootCmdWrite (s : State) (port : RlPort) (v : BitVec 32) : State :=
  if s.sec.stage ≠ 0 ∨ !v.getLsbD 0 then s
  else setBootPort { s with sec := { s.sec with
      stage := 1, bootPort := port, source := v.getLsbD 1
      bport := if v.getLsbD 1 then v.extractLsb' 2 3 else 0 } } .detect

/-- A write to a boot register, which answers from reset on under the guard of semaphore 2 (R386, R437). -/
def guardedBoot (s0 : State) (port : RlPort) (f : State → State) : State :=
  if semAnswers s0 port 2 then
    let s := expireSem s0 2
    if holdsSem s port 2 then f s else guardRefuse s port
  else s0

/-- BOOT_GO. -/
def execBootGo (port : RlPort) (value : BitVec 32) (s : State) : Host.Outcome State Fault Refusal :=
  .next (guardedBoot (noteTie s port 0x3200008) port (fun t => bootCmdWrite t port value))

/-! ### The boot objects -/

/-- The address of boot object `i` in the boot descriptor (R386). -/
def objAddr (s : State) (i : Nat) : Nat := leNat (readComp s s.sec.bootPort (s.sec.bootDesc.toNat + 8 * i) 8)

/-- Bytes of boot object `i`: from the companion's memory, or as they arrived over the fabric port. -/
def objRead (s : State) (objs : BootObjects) (i lo n : Nat) : Bytes :=
  if s.sec.source then
    let b := match i with | 0 => objs.identity | 1 => objs.manifest | _ => objs.image
    cut (b ++ List.replicate (lo + n - b.length) 0) lo n
  else readComp s s.sec.bootPort (objAddr s i + lo) n

/-- Boot object `i` came whole: over a fabric port it is followed by its CRC-32C; nothing is asked of it over Ryutil (R386). -/
def objArrived (s : State) (objs : BootObjects) (i : Nat) : Bool :=
  !s.sec.source || crc32c (match i with | 0 => objs.identity | 1 => objs.manifest | _ => objs.image) == nth 0 objs.crcs i

/-! ### The manifest (R388, R389) -/

/-- Every field of the manifest holds a listed value, and every reserved byte is 0 (Table 17.3). -/
def manifestFields (m : Bytes) : Bool :=
  let who := cutNat m 24 4
  let role := bitsOf who 17 2
  cutNat m 0 4 == 0x4D50594B && cutNat m 4 2 == 1 && cutNat m 6 2 == 0 &&
  decide (who < 2 ^ 19) && decide (who % 8 ≤ 4) && role != 3 && (role != 1 || who % 8 == 4) &&
  decide (cutNat m 28 4 < 2 ^ 17) && decide (cutNat m 28 4 % 8 ≤ 4) && decide (cutNat m 32 2 < 2 ^ 12) &&
  decide (cutNat m 34 5 < 2 ^ 36) && decide (cutNat m 39 5 < 2 ^ 36) &&
  (upto 36).all (fun p => !bitAt (cutNat m 39 5) p || decide (8 ≤ p % 18)) &&
  decide (cutNat m 44 1 ≤ 2) && zeroRun m 46 34 && zeroRun m 352 608

/-- The manifest is accepted (R389). -/
def manifestOk (m : Bytes) : Bool :=
  certOk 0x434F594B (cut m 80 272) && ecdsaVerify (cut m 96 64) (sha256 (m.take 960)) (cut m 960 64) && cut m 16 8 == devId &&
  manifestFields m

/-! ### The image (R391) -/

/-- A component's entry: TARGET, OFFSET, LENGTH and its SHA-256. -/
structure FwComp where
  target : Nat
  offset : Nat
  length : Nat
  hash : Bytes
  deriving DecidableEq, Repr

/-- Entry `i` of the header. -/
def compOf (h : Bytes) (i : Nat) : FwComp :=
  let b := 88 + 64 * i
  { target := cutNat h b 1, offset := cutNat h (b + 8) 8, length := cutNat h (b + 16) 8, hash := cut h (b + 24) 32 }

/-- The components of the header. -/
def compsOf (h : Bytes) : List FwComp := (upto (cutNat h 6 1)).map (compOf h)

/-- Two components overlap or have one TARGET. -/
def compClash (a b : FwComp) : Bool :=
  a.target == b.target || (decide (a.offset < b.offset + b.length) && decide (b.offset < a.offset + a.length))

/-- The image is accepted; `read` gives its bytes (R391). -/
def imageOk (h : Bytes) (read : Nat → Nat → Bytes) : Bool :=
  let l := compsOf h
  cutNat h 0 4 == 0x5746594B && cutNat h 4 2 == 1 && cutNat h 14 2 == 0x00B1 && decide (1 ≤ l.length) && decide (l.length ≤ 8) &&
  decide (cutNat h 16 8 ≤ 2 ^ 28) && sha256 (cut h 24 64) == Config.rootFw &&
  ecdsaVerify (cut h 24 64) (sha256 (h.take 4032)) (cut h 4032 64) &&
  l.all (fun c => decide (c.target ≤ 3) && decide (c.offset % 4096 = 0) && decide (c.offset + c.length ≤ cutNat h 16 8)) &&
  (upto l.length).all (fun i => (upto i).all (fun j => !compClash (nth ⟨0, 0, 0, []⟩ l i) (nth ⟨0, 0, 0, []⟩ l j))) &&
  l.any (fun c => c.target == 0) && l.any (fun c => c.target == 1) &&
  l.all (fun c => sha256 (read c.offset c.length) == c.hash)

/-- The manifest's minima refuse the image (R390). -/
def versionBad (m h : Bytes) : Bool := decide (cutNat h 8 4 < cutNat m 12 4) || decide (cutNat h 12 1 < cutNat m 45 1)

/-! ### The stages (R387) -/

/-- A failed check halts boot: STAGE reads HALTED and ECODE holds the code. -/
def bootHalt (s : State) (code : BitVec 16) : State :=
  let t := if s.sec.stage.toNat ≤ 2 then setBootPort s .disabled else s
  { t with sec := { t.sec with stage := 8, ecode := code } }

/-- The next stage begins. -/
def nextStage (s : State) : State := { s with sec := { s.sec with stage := s.sec.stage + 1 } }

/-- Stage 1: the seed and the identity certificate (R383, R385). A fabric port must have reached ALIGN within 200 ms of GO. -/
def stageKeys (s : State) (objs : BootObjects) (hw : BootHw) : State :=
  if (s.sec.source && !objs.aligned) || !objArrived s objs 0 then bootHalt s Code.eBootImage
  else if !hw.seedOk then bootHalt s Code.eBootPuf
  else if !idCertOk (objRead s objs 0 2048 272) then bootHalt s Code.eBootCert
  else setBootPort (nextStage { s with sec := { s.sec with keysMade := true } }) .align

/-- The values that the manifest and the image give (Tables 17.3 and 17.4). -/
def takeObjects (x : Sec) (m h : Bytes) : Sec :=
  { x with
    coord := BitVec.ofNat 17 (cutNat m 24 4)
    mseq := BitVec.ofNat 32 (cutNat m 8 4)
    tmaster := BitVec.ofNat 17 (cutNat m 28 4)
    preset := BitVec.ofNat 12 (cutNat m 32 2)
    porten := BitVec.ofNat 36 (cutNat m 34 5)
    kfp2 := BitVec.ofNat 36 (cutNat m 39 5)
    lprate := BitVec.ofNat 2 (cutNat m 44 1)
    manHash := sha256 m
    imgHash := sha256 h
    fwver := BitVec.ofNat 32 (cutNat h 8 4)
    kfpMinor := BitVec.ofNat 4 (cutNat h 12 1)
    detrev := BitVec.ofNat 8 (cutNat h 13 1) }

/-- Stage 2: the manifest, the image and the versions (R389-R391). The boot loader's fabric port is DISABLED after it (R386). -/
def stageVerify (s : State) (objs : BootObjects) : State :=
  let m := objRead s objs 1 0 1024
  let h := objRead s objs 2 0 4096
  if !objArrived s objs 1 || !objArrived s objs 2 then bootHalt s Code.eBootImage
  else if !manifestOk m then bootHalt s Code.eBootManifest
  else if !imageOk h (objRead s objs 2) then bootHalt s Code.eBootImage
  else if versionBad m h then bootHalt s Code.eBootVersion
  else
    let role := BitVec.ofNat 2 (cutNat m 24 4 / 2 ^ 17)
    let s1 := setBootPort (nextStage { s with sec := takeObjects s.sec m h }) .disabled
    { s1 with res := { s1.res with role := role } }

/-- The manifest's preset for a port: tray, rack, row or hall (Table 17.3). -/
def presetOf (v : BitVec 12) (p : Nat) : BitVec 3 :=
  let r := fpRole p
  v.extractLsb' (if r < 4 then 0 else if r < 8 then 3 else if r < 16 then 6 else 9) 3

/-- XD_FP_CTRL takes its values from the manifest (R389). -/
def applyManifest (s : State) : State :=
  (upto 36).foldl (fun t p => setFp t p { getFp t p with kfp2 := t.sec.kfp2.getLsbD p, preset := presetOf t.sec.preset p }) s

/-- A row of 17 physical cores has at most one that fails, a Cellar layer at most 8 arrays: the spares suffice (R412). -/
def sparesOk (hw : BootHw) : Bool := hw.badCores.all (fun l => decide (l.eraseDups.length ≤ 1)) && hw.badArrays.all (fun n => decide (n ≤ 8))

/-- The position that a row bypasses; 31 for none. -/
def bypassOf (hw : BootHw) (row : Nat) : Nat := (hw.badCores.getD row []).headD 31

/-- CD_REMAP of a compute die: the bypassed position of each row and the spares used in each Cellar layer (Table 18.7). -/
def remapWord (hw : BootHw) (d : Nat) : Nat :=
  pack ((0, bypassOf hw (2 * d)) :: (5, bypassOf hw (2 * d + 1)) :: (upto 6).map (fun i => (10 + 4 * i, hw.badArrays.getD (6 * d + i) 0)))

/-- The physical core behind a logical core of a die, by the die's CD_REMAP (R412). -/
def physicalCore (remap : BitVec 64) (i : Nat) : Nat :=
  let r := i / 16
  17 * r + i % 16 + b2n (decide (bitsOf remap.toNat (5 * r) 5 ≤ i % 16))

/-- Stage 4: the remap of cores and Cellar arrays, and the first AGE of each quad (R406, R412). -/
def stageSelftest (s : State) (hw : BootHw) : State :=
  let s1 := { s with sec := { s.sec with
    remap := (upto 4).foldl (fun t d => Tbl.set 0 t d (BitVec.ofNat 64 (remapWord hw d))) s.sec.remap } }
  nextStage ((upto 32).foldl (fun t q => agingSet t q [hw.slowdown.getD q 0]) s1)

/-- Stage 5: every byte of the memories is zeroed; then firmware sets EN on the ports of PORTEN (R387). -/
def stageMemory (s : State) : State :=
  let s1 := nextStage { s with uni := [], mem := { s.mem with poison := [] } }
  (upto 36).foldl (fun t p => if t.sec.porten.getLsbD p then fpCtrlWrite t p (1#32 ||| ((getFp t p).swapTh.setWidth 32 <<< 6)) else t) s1

/-- BOOT_STAGE_END: a stage finishes its work and its checks (R387). -/
def execBootStageEnd (objs : BootObjects) (hw : BootHw) (s : State) : Host.Outcome State Fault Refusal :=
  if s.gl.inReset then .next s
  else
    match s.sec.stage.toNat with
    | 1 => .next (stageKeys s objs hw)
    | 2 => .next (stageVerify s objs)
    | 3 => if hw.ok then .next (nextStage (applyManifest s)) else .next (bootHalt s Code.eBootHw)
    | 4 => if hw.ok ∧ sparesOk hw then .next (stageSelftest s hw) else .next (bootHalt s Code.eBootHw)
    | 5 => if hw.ok then .next (stageMemory s) else .next (bootHalt s Code.eBootHw)
    | 6 => .next (nextStage s)
    | _ => .next s

end Sys2Proof.Machine
end

