-- ==== Sys2Proof/Machine/Snapshot.lean ====
section
/-! DEFINITION. OP_SNAPSHOT (R346, R358). -/

namespace Sys2Proof.Machine

/-- MODE, FIRST, NPAGE, DST and RES_ADDR (Table 15.8). -/
def snapMode (d : Desc) : Nat := fld d 64 2
/-- FIRST. -/
def snapFirst (d : Desc) : Nat := fld d 66 20
/-- NPAGE. -/
def snapPages (d : Desc) : List Nat := (upto (fld d 86 20)).map (· + snapFirst d)
/-- DST. -/
def snapDst (d : Desc) : Nat := fld d 106 64
/-- RES_ADDR. -/
def snapRes (d : Desc) : Nat := fld d 170 44

/-- DST is a global fabric address in space 0 (of this device), 2 or 3, 2 MiB aligned. -/
def snapDstOk (s : State) (g : Nat) : Bool :=
  decide (g % pageSize = 0) && !coordBad (gCoord g) &&
  ((gSpace g == 0 && forMe s (gCoord g)) || gSpace g == 2 || gSpace g == 3)

/-- Every page lies in a PARITY range. -/
def allParity (r : ResPart) (l : List Nat) : Bool := l.all (fun i => pageClass r i == 1)

/-- The checks of OP_SNAPSHOT at issue (R358): its shape, then R105. -/
def snapPrep (e : Entry) (s : State) (_core : Nat) : Prep :=
  let d := e.desc
  let p := e.cid.part
  let l := snapPages d
  let r := getRes s p
  if snapMode d = 0 ∧ r.state ≠ .off ∧ !allParity r l then rejectWith Code.eSnapShape
  else if snapMode d = 1 ∧ !snapDstOk s (snapDst d) then rejectWith Code.eSnapShape
  else if l = [] ∨ 712704 < l.length ∨ !l.all (fun i => decide (i < 712704) && (getPte s i).owned && decide ((getPte s i).part = p)) then
    rejectWith Code.eDescOperand
  else if snapRes d ≠ 0 ∧ !uniOk s p (snapRes d) 64 then rejectWith Code.eDescOperand
  else .go []

/-- The result record: pages handled, and the writes held, a figure of the device's timing (a free value). -/
def snapRecord (s : State) (p : PartI) (a n : Nat) : Except (BitVec 16) State :=
  if a = 0 then .ok s
  else writeUni (takeFree s 4) p a (leBytes 4 n ++ freeBytes s.free 4 ++ List.replicate 56 0)

/-- How an OP_SNAPSHOT ends. -/
def snapEnd (s : State) (e : Entry) (core : Nat) : State × Ended :=
  match snapRecord s e.cid.part (snapRes e.desc) (snapPages e.desc).length with
  | .ok t => (t, .ended okOutcome)
  | .error c => (report s (cmdReport c contextFatal e 0 core []), .ended (faultOutcome c))

/-- PRESTREAM: the deltas of the named pages' dirty pieces go before the mark; their content becomes what the protector has. It does
nothing on an unprotected partition (R346). -/
def runPrestream (e : Entry) (s : State) (core : Nat) : State × Ended :=
  let p := e.cid.part
  let r := getRes s p
  if r.state ≠ .prot then snapEnd s e core
  else
    let l := snapPages e.desc
    let named := fun (d : DirtyPiece) => d.dirty && l.contains (d.piece / 32)
    let s1 := (r.dirty.filter named).foldl (fun t d => sendDelta t p d) s
    let r' : ResPart := { r with dirty := r.dirty.map (fun d => if named d then { d with base := some (pieceBytes s p d.piece), dirty := false } else d) }
    snapEnd (setRes s1 p r') e core

/-- One page goes to its place behind DST: into this device's own memory, or to another device. -/
def copyPage (s : State) (p : PartI) (g : Nat) (q : Nat × Nat) : Except (BitVec 16) State :=
  match readUni s p (pageAddr q.1) pageSize with
  | .error c => .error c
  | .ok bs =>
    let a := gAddr g + pageSize * q.2
    if gSpace g = 0 then writeUni s p a bs else .ok (send s (.snapshot (physOf s (gCoord g)) a bs))

/-- COPY: the pages as they stand once the context is quiet go to DST (R358). -/
def runSnapCopy (e : Entry) (s : State) (core : Nat) : State × Ended :=
  let p := e.cid.part
  match ((snapPages e.desc).zipIdx).foldl (fun t q => match t with | .error c => .error c | .ok u => copyPage u p (snapDst e.desc) q)
      (.ok s : Except (BitVec 16) State) with
  | .error c => (report s (cmdReport c contextFatal e 0 core []), .ended (faultOutcome c))
  | .ok t => snapEnd t e core

/-- A row of OP_SNAPSHOT; a reserved MODE is rejected by either. -/
def snapRow (e : Entry) (mode : Nat) (due : Due) (run : State → Nat → State × Ended) : OpRow :=
  let d := e.desc
  { row := opcode d == 0x0204 && (snapMode d == mode || decide (1 < snapMode d))
    reserved := decide (1 < snapMode d) || fld d 214 298 != 0 || (snapMode d == 0 && snapDst d != 0)
    classes := [2]
    prep := snapPrep e
    due := due
    run := run }

/-- OP_SNAPSHOT PRESTREAM. -/
def execOpSnapshotPrestream (e : Entry) (s : State) : Host.Outcome State Fault Refusal :=
  .next (issueCmd s e (snapRow e 0 .now (runPrestream e)))

/-- OP_SNAPSHOT COPY. -/
def execOpSnapshotCopy (e : Entry) (s : State) : Host.Outcome State Fault Refusal :=
  .next (issueCmd s e (snapRow e 1 .ctx (runSnapCopy e)))

end Sys2Proof.Machine
end

