-- ==== Sys2Proof/Machine/Complete.lean ====
section
/-! DEFINITION. COMMAND_COMPLETE: a command in flight completes (R298); one that waits for earlier ones takes its effect
first (R144, R209, R304, R305). -/

namespace Sys2Proof.Machine

/-- The effect of a command that its issue left to a later moment, by its opcode: an OP_EXPERT_PLAN whose count phase has
ended, and the commands that wait for earlier ones. OP_EPOCH_MARK has a command of its own. -/
def laterRun (e : Entry) (due : Due) : Option (State → Nat → State × Ended) :=
  let op := opcode e.desc
  if op = 0x0303 then some (runPlan e (epOf e.desc))
  else if due = .now then none
  else if op = 0x0501 then some (if form e.desc = 1 then runSignalEvent e else runSignalMemory e)
  else if op = 0x0600 then some (runAbsorb e)
  else if op = 0x0203 then some (runRelease e)
  else if op = 0x0204 then some (runSnapCopy e)
  else if op = 0x0601 then some (runSeek e)
  else if op = 0x0602 then some (runStep e)
  else none

/-- The command stands on its core's own engines or names its core's local store: a class-0 or class-1 command, and an
OP_DIGEST over the local store (R325). -/
def onCore (e : Entry) : Bool := decide (fld e.desc 24 2 < 2) || (opcode e.desc == 0x0600 && flag e.desc 70)

/-- A core's engines work for a context: it is resident, its image is not saved, and no self-test slice holds the quad
(R328, R413). -/
def engineRuns (s : State) (c : CtxId) (core : Nat) : Bool :=
  isResident s c && !(getQuad s (core / 4)).slice &&
  (match (getPart s c.part).switching with | some w => !w.saved | none => true)

/-- A command in flight may act: a DETACHED one whether or not its context is resident (R325). -/
def mayAct (s : State) (c : CtxId) (core : Nat) (e : Entry) : Bool := !onCore e || engineRuns s c core

/-- A command in flight completes, or takes its effect when its turn has come. -/
def completeAt (s : State) (core : Nat) (f : InFlight) : State :=
  if f.fin.isSome then finish s core f.entry
  else
    match laterRun f.entry f.due with
    | some run => runDeferred s core f run
    | none => s

/-- The command in flight that a ring and list position name at a core, of the first context that has it there and may
act; a command that R327's cap has stopped does not go on before its context is restored. -/
def namedFlight (s : State) (core : Nat) (pos listPos : BitVec 32) : Option InFlight :=
  (coreCtxs s core).findSome? (fun c =>
    (getSeq s c core).inflight.find? (fun f => isEntry pos listPos f && mayAct s c core f.entry && !f.capped))

/-- A fence at a core whose earlier commands have completed (R305). -/
def fenceEnds (s : State) (core : Nat) (pos : BitVec 32) : Option Entry :=
  match coreBlock s core with
  | some b => if b.kind = .fence ∧ b.entry.pos = pos ∧ blockMet s b.entry.cid core b then some b.entry else none
  | none => none

/-- What COMMAND_COMPLETE completes: a command in flight, or a fence. -/
def completeNamed (s : State) (core : Nat) (pos listPos : BitVec 32) : State :=
  match namedFlight s core pos listPos, fenceEnds s core pos with
  | some f, _ => completeAt s core f
  | none, some e => endBlock s core e okOutcome
  | none, none => s

/-- COMMAND_COMPLETE (R298); a yielded context's fence may find its commands complete (R321). -/
def execCommandComplete (core : CoreI) (pos listPos : BitVec 32) (s : State) : Host.Outcome State Fault Refusal :=
  if !unitsRun s then .next s else .next (regainAt (completeNamed s core.val pos listPos) core.val)

end Sys2Proof.Machine
end

