-- ==== Sys2Proof/Machine/Dma.lean ====
section
/-! DEFINITION. OP_DMA, OP_GATHER and OP_SCATTER (R223-R227). -/

namespace Sys2Proof.Machine

/-! ### Copies -/

/-- The addresses of `rows` rows, `step` bytes apart. -/
def rowAddrs (base rows step : Nat) : List Nat := (upto rows).map (fun r => base + r * step)

/-- Reads runs of `n` bytes from the unified range, or gives the code of the first failure. -/
def readUniRows (s : State) (p : PartI) (n : Nat) : List Nat → Except (BitVec 16) (List Bytes)
  | [] => .ok []
  | a :: t =>
    match readUni s p a n, readUniRows s p n t with
    | .error e, _ => .error e
    | _, .error e => .error e
    | .ok b, .ok l => .ok (b :: l)

/-- A core's copy settles: its writes land in the local store or in the unified range, or it faults with its destination
undefined (R236). -/
def settleCopy (s : State) (core : Nat) (e : Entry) (toLocal : Bool) (areas : List (Nat × Nat))
    (r : Except (BitVec 16) (List (Nat × Bytes))) : State × Ended :=
  if toLocal then
    settleRun s core e false
      (match r with
       | .ok ws => { writes := ws }
       | .error c => { fault := some { code := c, detail := [] }, undef := areas })
  else
    settleUni s e 0 core
      (match r with
       | .ok ws => { writes := ws, areas := areas }
       | .error c => uniFault c [] areas)

/-! ### OP_DMA -/

/-- The fields of OP_DMA (Table 10.5). -/
structure Dm where
  srcLocal : Bool
  dstLocal : Bool
  src : Nat
  dst : Nat
  rows : Nat
  rowb : Nat
  sld : Nat
  dld : Nat
  tr : Bool
  es : Nat
  deriving DecidableEq, Repr

/-- Reads the fields of OP_DMA; a local-store address uses 24 bits. -/
def dmOf (d : Desc) : Dm :=
  let l := fun (b : Bool) (a : Nat) => if b then a % 2 ^ 24 else a
  { srcLocal := flag d 152, dstLocal := flag d 153, src := l (flag d 152) (fld d 64 44), dst := l (flag d 153) (fld d 108 44)
    rows := fld d 154 16, rowb := fld d 170 24, sld := fld d 194 32, dld := fld d 226 32, tr := flag d 258
    es := 2 ^ fld d 259 2 }

/-- Rows of the destination (R224). -/
def Dm.outRows (x : Dm) : Nat := if x.tr then x.rowb / x.es else x.rows

/-- Bytes of a destination row. -/
def Dm.outRowb (x : Dm) : Nat := if x.tr then x.rows * x.es else x.rowb

/-- One side of the transfer is a legal operand (R91, R105). -/
def dmaSideOk (s : State) (p : PartI) (isLocal : Bool) (a rows rowb ld : Nat) : Bool :=
  if isLocal then decide (1 ≤ ld) && decide (ld ≤ 65535) && lsOk 64 a (rowsExtent rows rowb ld)
  else uniOk s p a (rowsExtent rows rowb ld)

/-- The checks of R223 and R224. -/
def dmaOk (s : State) (p : PartI) (x : Dm) : Bool :=
  decide (1 ≤ x.rowb) && decide (x.rowb ≤ 12582912) && decide (ceilDiv x.outRowb 64 ≤ x.dld) &&
  (!x.tr || (x.srcLocal && x.dstLocal && x.rows % 64 == 0 && x.rowb % 64 == 0)) &&
  dmaSideOk s p x.srcLocal x.src x.rows x.rowb x.sld && dmaSideOk s p x.dstLocal x.dst x.outRows x.outRowb x.dld

/-- The scoreboard ranges of the local-store sides. -/
def dmaRanges (x : Dm) : List Range :=
  if x.rows = 0 then []
  else
    (if x.srcLocal then lsRange x.src (rowsExtent x.rows x.rowb x.sld) false else []) ++
    (if x.dstLocal then lsRange x.dst (rowsExtent x.outRows x.outRowb x.dld) true else [])

/-- The source rows. -/
def dmaRead (s : State) (p : PartI) (core : Nat) (x : Dm) : Except (BitVec 16) (List Bytes) :=
  let as := rowAddrs x.src x.rows (64 * x.sld)
  if x.srcLocal then .ok (as.map (fun a => readLs s core a x.rowb)) else readUniRows s p x.rowb as

/-- The destination rows: the source's, or their elements transposed (R224). -/
def dmaOut (x : Dm) (rows : List Bytes) : List Bytes :=
  if x.tr then (upto (x.rowb / x.es)).map (fun c => rows.flatMap (fun r => (r.drop (c * x.es)).take x.es)) else rows

/-- OP_DMA copies its rows (R223, R224). -/
def runDma (e : Entry) (s : State) (core : Nat) : State × Ended :=
  let x := dmOf e.desc
  if x.rows = 0 then (s, .atOnce okOutcome)
  else
    let as := rowAddrs x.dst x.outRows (64 * x.dld)
    settleCopy s core e x.dstLocal (as.map (fun a => (a, x.outRowb)))
      (match dmaRead s e.cid.part core x with
       | .ok rows => .ok (as.zip (dmaOut x rows))
       | .error c => .error c)

/-- The row of OP_DMA. -/
def dmaRow (e : Entry) : OpRow :=
  { row := opcode e.desc == 0x0200
    reserved := fld e.desc 261 251 != 0 || (flag e.desc 258 && fld e.desc 259 2 == 3)
    classes := [0, 1]
    prep := fun t _ =>
      if dmaOk t e.cid.part (dmOf e.desc) then .go (dmaRanges (dmOf e.desc)) else rejectWith Code.eDescOperand
    run := runDma e }

/-- OP_DMA (R223). -/
def execOpDma (e : Entry) (s : State) : Host.Outcome State Fault Refusal :=
  .next (issueCmd s e (dmaRow e))

/-! ### OP_GATHER and OP_SCATTER -/

/-- The fields of OP_GATHER and OP_SCATTER (Table 10.6). -/
structure Ga where
  base : Nat
  ls : Nat
  list : Nat
  form : Nat
  side : Bool
  enrows : Nat
  erb : Nat
  epitch : Nat
  estride : Nat
  lsld : Nat
  kp0 : Nat
  npg : Nat
  kvsel : Nat
  khead : Nat
  nkvh : Nat
  kdh : Nat
  kfmt : Nat
  deriving DecidableEq, Repr

/-- Reads the fields of OP_GATHER and OP_SCATTER. -/
def gaOf (d : Desc) : Ga :=
  { base := fld d 64 44, ls := fld d 108 24, list := fld d 132 24, form := fld d 156 2, side := flag d 158
    enrows := fld d 159 16, erb := fld d 175 20, epitch := fld d 195 32, estride := fld d 227 40, lsld := fld d 267 16
    kp0 := fld d 283 14, npg := fld d 297 5, kvsel := fld d 302 1, khead := fld d 303 7, nkvh := fld d 310 8
    kdh := fld d 318 2, kfmt := fld d 320 4 }

/-- Counts A and B of a list header (R225). -/
def listCounts (s : State) (core a : Nat) : Nat × Nat :=
  let v := leNat (readLs s core a 4)
  (bitsOf v 0 9, bitsOf v 16 9)

/-- The number of entries that a list form takes. -/
def Ga.count (x : Ga) (ab : Nat × Nat) : Nat := if x.form = 0 then ab.1 else ab.2

/-- The rules of the list forms (R225). -/
def gaListOk (x : Ga) (ab : Nat × Nat) : Bool :=
  decide (ab.1 + ab.2 ≤ 256) && decide (1 ≤ x.enrows) && decide (1 ≤ x.erb) && decide (x.erb ≤ x.epitch) &&
  (if x.side then decide (x.count ab * x.erb ≤ x.lsld * 64) else decide (x.erb ≤ x.lsld * 64)) &&
  x.kp0 == 0 && x.npg == 0 && x.kvsel == 0 && x.khead == 0 && x.nkvh == 0 && x.kdh == 0 && x.kfmt == 0

/-- Bytes of a KV row (R226). -/
def Ga.kvRowb (x : Ga) : Nat := ceilDiv (64 * 2 ^ x.kdh * (if x.kfmt ≤ 2 then 2 else 1)) 64 * 64

/-- The rules of the KV form (R225, R227). -/
def gaKvOk (x : Ga) : Bool :=
  decide (x.kp0 + x.npg ≤ 16384) && decide (1 ≤ x.npg) && decide (x.npg ≤ 16) && decide (x.khead < x.nkvh) &&
  decide (x.nkvh ≤ 128) && decide (1 ≤ x.kfmt) && decide (x.kfmt ≤ 4) &&
  x.list == 0 && !x.side && x.enrows == 0 && x.erb == 0 && x.epitch == 0 && x.estride == 0

/-- Rows, bytes of a row, and pitch of the local-store side. -/
def Ga.lsRows (x : Ga) (ab : Nat × Nat) : Nat × Nat :=
  if x.form = 2 then (256 * x.npg, x.kvRowb)
  else if x.side then (x.enrows, x.count ab * x.erb) else (x.count ab * x.enrows, x.erb)

/-- The local-store side is a legal operand (R91). -/
def gaLsOk (x : Ga) (ab : Nat × Nat) (write : Bool) : Bool :=
  let r := x.lsRows ab
  if x.form ≠ 2 ∧ x.count ab = 0 then decide (x.ls % 64 = 0) else stridedOk x.ls r.1 r.2 x.lsld write

/-- The scoreboard range of the local-store side. -/
def gaRange (x : Ga) (ab : Nat × Nat) (write : Bool) : List Range :=
  let r := x.lsRows ab
  if r.2 = 0 then [] else stridedRange x.ls r.1 r.2 x.lsld write

/-- A write in flight on the core reaches a range of its local store. -/
def lsBusy (s : State) (c : CtxId) (core a n : Nat) : Bool :=
  (getSeq s c core).inflight.any (fun f => f.ranges.any (fun r => r.write && (lsRange a n false).any (overlaps r)))

/-- The checks of OP_GATHER and OP_SCATTER. A list header that a command in flight still writes is waited for. -/
def gaPrep (e : Entry) (write : Bool) (s : State) (core : Nat) : Prep :=
  let x := gaOf e.desc
  if x.form = 2 then
    if !gaKvOk x then rejectWith Code.eGatherShape
    else if !gaLsOk x (0, 0) write then rejectWith Code.eDescOperand
    else .go (gaRange x (0, 0) write)
  else if !lsOk 64 x.list 64 then rejectWith Code.eDescOperand
  else if lsBusy s e.cid core x.list 64 then .stall
  else
    let ab := listCounts s core x.list
    if !gaListOk x ab then rejectWith Code.eGatherShape
    else if !lsOk 64 x.list (64 + 2 * (ab.1 + ab.2)) ∨ !gaLsOk x ab write then rejectWith Code.eDescOperand
    else .go (gaRange x ab write ++ lsRange x.list (64 + 2 * (ab.1 + ab.2)) false)

/-- The indices that a list form takes, in list order. -/
def gaIndices (s : State) (core : Nat) (x : Ga) : List Nat :=
  let ab := listCounts s core x.list
  let first := if x.form = 0 then 0 else ab.1
  (upto (x.count ab)).map (fun i => leNat (readLs s core (x.list + 64 + 2 * (first + i)) 2))

/-- The pairs (unified-range address, local-store address) of a list form's rows, in list order (R225). -/
def gaListRows (x : Ga) (ixs : List Nat) : List (Nat × Nat) :=
  (ixs.zipIdx).flatMap (fun q => (upto x.enrows).map (fun r =>
    (x.base + q.1 * x.estride + r * x.epitch,
     if x.side then x.ls + r * x.lsld * 64 + q.2 * x.erb else x.ls + (q.2 * x.enrows + r) * x.lsld * 64)))

/-- An entry of a KV page table: its page's address and FILL (Table 10.7), or the code of its failure (R227). -/
def kvEntry (s : State) (p : PartI) (a : Nat) : Except (BitVec 16) (Nat × Nat) :=
  match readUni s p a 8 with
  | .error c => .error c
  | .ok bs =>
    let v := leNat bs
    if !bitAt v 53 ∨ 256 < bitsOf v 44 9 ∨ bitsOf v 54 10 ≠ 0 ∨ !inPages s p (bitsOf v 0 44) 1 then .error Code.eKvPage
    else .ok (bitsOf v 0 44, bitsOf v 44 9)

/-- The entries that a KV form reaches. -/
def kvEntries (s : State) (p : PartI) (x : Ga) : List Nat → Except (BitVec 16) (List (Nat × Nat))
  | [] => .ok []
  | i :: t =>
    match kvEntry s p (x.base + 8 * (x.kp0 + i)), kvEntries s p x t with
    | .error c, _ => .error c
    | _, .error c => .error c
    | .ok v, .ok l => .ok (v :: l)

/-- The rows of a KV form: unified-range address, local-store address, and whether the row is filled (R226, R227). -/
def kvRows (x : Ga) (es : List (Nat × Nat)) : List (Nat × Nat × Bool) :=
  (es.zipIdx).flatMap (fun q => (upto 256).map (fun j =>
    (q.1.1 + ((x.kvsel * x.nkvh + x.khead) * 256 + j) * x.kvRowb, x.ls + (256 * q.2 + j) * x.lsld * 64, decide (j < q.1.2))))

/-- The rows of a command: unified-range address, local-store address, filled; and the bytes of a row. -/
def gaRows (s : State) (p : PartI) (core : Nat) (x : Ga) : Except (BitVec 16) (List (Nat × Nat × Bool)) :=
  if x.form = 2 then
    match kvEntries s p x (upto x.npg) with
    | .ok es => .ok (kvRows x es)
    | .error c => .error c
  else .ok ((gaListRows x (gaIndices s core x)).map (fun r => (r.1, r.2, true)))

/-- Bytes of a row. -/
def Ga.rowb (x : Ga) : Nat := if x.form = 2 then x.kvRowb else x.erb

/-- What OP_GATHER writes: each row, zeros for an unfilled one (R227). -/
def gatherWrites (s : State) (p : PartI) (n : Nat) : List (Nat × Nat × Bool) → Except (BitVec 16) (List (Nat × Bytes))
  | [] => .ok []
  | r :: t =>
    match (if r.2.2 then readUni s p r.1 n else .ok (List.replicate n 0)), gatherWrites s p n t with
    | .error c, _ => .error c
    | _, .error c => .error c
    | .ok b, .ok l => .ok ((r.2.1, b) :: l)

/-- The local-store side of a command as areas, for an undefined destination. -/
def gaLsAreas (x : Ga) (ab : Nat × Nat) : List (Nat × Nat) :=
  let r := x.lsRows ab
  (rowAddrs x.ls r.1 (64 * x.lsld)).map (fun a => (a, r.2))

/-- A list form with a count of 0 completes at issue (R225). -/
def gaEmpty (s : State) (core : Nat) (x : Ga) : Bool := x.form != 2 && (x.count (listCounts s core x.list) == 0)

/-- OP_GATHER's effect. -/
def runGather (e : Entry) (s : State) (core : Nat) : State × Ended :=
  let x := gaOf e.desc
  if gaEmpty s core x then (s, .atOnce okOutcome)
  else
    settleCopy s core e true (gaLsAreas x (listCounts s core x.list))
      (match gaRows s e.cid.part core x with
       | .ok rs => gatherWrites s e.cid.part x.rowb rs
       | .error c => .error c)

/-- The rows of a KV form whose entries are good: what a command that meets a bad entry leaves undefined (R236). -/
def kvGoodRows (s : State) (p : PartI) (x : Ga) : List (Nat × Nat × Bool) :=
  let good := (upto x.npg).filterMap (fun i => (kvEntry s p (x.base + 8 * (x.kp0 + i))).toOption)
  (kvRows x good).filter (fun r => r.2.2)

/-- OP_SCATTER's effect: filled rows go out in list order (R225, R227). -/
def runScatter (e : Entry) (s : State) (core : Nat) : State × Ended :=
  let x := gaOf e.desc
  if gaEmpty s core x then (s, .atOnce okOutcome)
  else
    match gaRows s e.cid.part core x with
    | .error c => settleCopy s core e false ((kvGoodRows s e.cid.part x).map (fun r => (r.1, x.rowb))) (.error c)
    | .ok rs =>
      let l := rs.filter (fun r => r.2.2)
      settleCopy s core e false (l.map (fun r => (r.1, x.rowb))) (.ok (l.map (fun r => (r.1, readLs s core r.2.1 x.rowb))))

/-- A row of OP_GATHER or OP_SCATTER. -/
def gaRow (e : Entry) (op : Nat) (write : Bool) (run : State → Nat → State × Ended) : OpRow :=
  let d := e.desc
  { row := opcode d == op
    reserved := fld d 324 188 != 0 || fld d 156 2 == 3 || fld d 318 2 == 3 || fmtReserved (fld d 320 4)
    classes := [0, 1]
    prep := gaPrep e write
    run := run }

/-- OP_GATHER (R225). -/
def execOpGather (e : Entry) (s : State) : Host.Outcome State Fault Refusal :=
  .next (issueCmd s e (gaRow e 0x0201 true (runGather e)))

/-- OP_SCATTER (R225). -/
def execOpScatter (e : Entry) (s : State) : Host.Outcome State Fault Refusal :=
  .next (issueCmd s e (gaRow e 0x0202 false (runScatter e)))

end Sys2Proof.Machine
end

