-- ==== Sys2Proof/Machine/Errors.lean ====
section
/-! DEFINITION. The commands of the error rings and the risk estimate (R417-R428). -/

namespace Sys2Proof.Machine

/-- The collectors take reports: boot has reached stage 7 and the device is out of reset (R386). -/
def collects (s : State) : Bool := s.sec.stage == 7 && !s.gl.inReset

/-- ERROR_REPORT: a report reaches the collectors (R417-R426). -/
def execErrorReport (r : Report) (s : State) : Host.Outcome State Fault Refusal :=
  if collects s then .next (report s r) else .next s

/-- COALESCE_EXPIRY: a coalescing entry's time has ended (R424). -/
def execCoalesceExpiry (port : RlPort) (index : Nat) (s : State) : Host.Outcome State Fault Refusal :=
  match (getRing s port).coal[index]? with
  | some c => if collects s ∧ c.endsAt ≤ s.now then .next (coalClose s port c) else .next s
  | none => .next s

/-- HEAD as the companion wrote it on the control line (R421). -/
def ringHeadLine (s : State) (p : RlPort) : BitVec 32 := BitVec.ofNat 32 (leNat (readComp s p (getRing s p).line.toNat 4))

/-- A ring's positions are good: HEAD is not ahead of TAIL and trails it by at most 2^LOG2 (R422). -/
def ringPosOk (g : ErrRing) (head : BitVec 32) : Bool := decide (ahead g.tail head ≤ 2 ^ g.log2.toNat)

/-- A ring is disabled; E_ERR_RING goes to the other ring (R422). -/
def ringBad (s : State) (p : RlPort) : State :=
  report (setRing s p { getRing s p with enabled := false, bad := true })
    { portReport Code.eErrRing (otherPort p) [] with srcInst := BitVec.ofNat 9 p.val }

/-- ERR_RING_HEAD: the companion's store to the control line; freed entries take held records, and bad positions disable
the ring (R421, R422, R426). -/
def execErrRingHead (port : RlPort) (s : State) : Host.Outcome State Fault Refusal :=
  let g := getRing s port
  if collects s ∧ g.enabled ∧ rlUp s port then
    let h := ringHeadLine s port
    if ringPosOk g h then .next (ringDrain g.hold.length (setRing s port { g with head := h }) port) else .next (ringBad s port)
  else .next s

/-- The set-up of a ring is accepted (R422). -/
def ringSetOk (g : ErrRing) : Bool :=
  decide (g.base.toNat % 4096 = 0) && decide (g.line.toNat % 128 = 0) && decide (6 ≤ g.log2.toNat) && decide (g.log2.toNat ≤ 16)

/-- A write of ERR_RING_CFG_p: EN starts the ring from TAIL = HEAD with SEQ 0, or disables it as bad (R422). -/
def ringCfgWrite (s : State) (ring : RlPort) (v : BitVec 32) : State :=
  let g : ErrRing := { getRing s ring with log2 := v.extractLsb' 0 5, en := v.getLsbD 5 }
  if ¬ g.en then setRing s ring { g with enabled := false }
  else if ringSetOk g then
    let h := ringHeadLine (setRing s ring g) ring
    let s1 := setRing s ring { g with enabled := true, bad := false, head := h, tail := h, seq := 0 }
    ringDrain g.hold.length (writeComp s1 ring (g.line.toNat + 64) (leBytes 4 h.toNat)) ring
  else ringBad (setRing s ring g) ring

/-- A ring in use whose base or control line comes to stand misaligned is disabled (R422). -/
def ringRecheck (s : State) (p : RlPort) : State := if (getRing s p).enabled ∧ ¬ ringSetOk (getRing s p) then ringBad s p else s

/-- ERR_RING_CFG; semaphore 4 guards it (R428). -/
def execErrRingCfg (port : RlPort) (ring : RlPort) (value : BitVec 32) (s : State) : Host.Outcome State Fault Refusal :=
  .next (guarded s port 4 (fun t => ringCfgWrite t ring value))

/-- RISK_UPDATE: once a minute S decays and takes the minute's weights; a rise to RISK_TH is reported once until S falls
below half of it (R427). -/
def execRiskUpdate (s : State) : Host.Outcome State Fault Refusal :=
  if unitsRun s then
    let n := min (2 ^ 32 - 1) (s.err.risk.toNat * 7 / 8 + s.err.minute)
    let th := s.err.riskTh.toNat
    let rise : Bool := s.err.riskArmed && decide (0 < th) && decide (th ≤ n)
    let s1 : State := { s with err := { s.err with
      risk := BitVec.ofNat 32 n, minute := 0, riskArmed := !rise && (s.err.riskArmed || decide (2 * n < th)) } }
    if rise then .next (report s1 (devReport Code.evRisk deferred 19 0 [])) else .next s1
  else .next s

end Sys2Proof.Machine
end

