-- ==== Sys2Proof/Machine/Gate.lean ====
section
/-! DEFINITION. OP_GATE and the Gate Scoring Units (R104-R114). -/

namespace Sys2Proof.Machine

/-! ### Ranking (R107-R109) -/

/-- Candidate (ka, a) ranks before (kb, b): NaN last, then the larger key, then the lower index (R107). -/
def gateBefore (ka : Val) (a : Nat) (kb : Val) (b : Nat) : Bool :=
  let na := ka == Val.nan
  let nb := kb == Val.nan
  if na != nb then nb
  else if !na && Val.lt kb ka then true
  else if !na && Val.lt ka kb then false
  else decide (a < b)

/-- One candidate ranks before another. -/
def candBefore (a b : Cand) : Bool := gateBefore (ofF32 a.key) a.expert (ofF32 b.key) b.expert

/-- Candidates in rank order. -/
def candSort (l : List Cand) : List Cand := sortBy candBefore l

/-- Experts in a group: G = NEXP ÷ NGROUP. -/
def GateParams.g (p : GateParams) : Nat := p.nexp / max 1 p.ngroup

/-- The candidates of group `g`, ranked. -/
def groupCands (p : GateParams) (l : List Cand) (g : Nat) : List Cand :=
  candSort (l.filter (fun c => c.expert / max 1 p.g == g))

/-- What a token state keeps of its candidates: those of each group that the selection can still use. -/
def keepCands (p : GateParams) (l : List Cand) : List Cand :=
  (upto p.ngroup).flatMap (fun g => (groupCands p l g).take (max 2 p.topk))

/-- A group's score (R108). -/
def groupScore (p : GateParams) (l : List Cand) (g : Nat) : Val :=
  match groupCands p l g with
  | [] => .nan
  | [a] => ofF32 a.key
  | a :: b :: _ => if p.gtop = 0 then ofF32 a.key else fAdd (ofF32 a.key) (ofF32 b.key)

/-- The groups that are kept: the TOPG first under before() (R108). -/
def keptGroups (p : GateParams) (l : List Cand) : List Nat :=
  let gs := upto p.ngroup
  gs.filter (fun g =>
    decide ((gs.filter (fun h => gateBefore (groupScore p l h) h (groupScore p l g) g)).length < p.topg))

/-- The chosen candidates of a token in rank order (R108). -/
def gateChosen (p : GateParams) (l : List Cand) : List Cand :=
  (candSort ((keptGroups p l).flatMap (groupCands p l))).take p.topk

/-- The gate weights in rank order (R109). -/
def gateWeights (p : GateParams) (cs : List Cand) : List Val :=
  let ss := cs.map (fun c => ofF32 c.score)
  let m := rowMax ss
  let ps := if p.act = 2 then ss.map (fun x => opExp (fAdd x m.neg)) else ss
  let rs := ofF32 p.rscale
  if p.norm ∨ p.act = 2 then
    match ps with
    | [] => []
    | a :: t =>
      let sum := t.foldl fAdd a
      ps.map (fun x => fMul (rndF32 (Val.div x sum)) rs)
  else ps.map (fun x => fMul x rs)

/-! ### The descriptor -/

/-- The fields of OP_GATE beside the session's parameters (Table 5.3). -/
structure Gt where
  x : Nat
  w : Nat
  bias : Nat
  xLd : Nat
  wLd : Nat
  e0 : Nat
  n : Nat
  k : Nat
  fmt : Nat
  sess : Nat
  params : GateParams
  deriving DecidableEq, Repr

/-- The fields of a descriptor. -/
def gtOf (d : Desc) : Gt :=
  { x := fld d 64 24, w := fld d 88 24, bias := fld d 112 24, xLd := fld d 136 16, wLd := fld d 152 16,
    e0 := fld d 197 14, n := fld d 211 15, k := fld d 241 22, fmt := fld d 263 4, sess := fld d 292 4,
    params := { sgen := fld d 296 8, tok0 := fld d 181 16, m := fld d 168 13, nexp := fld d 226 15, topk := fld d 267 5,
                ngroup := fld d 272 7, topg := fld d 279 7, gtop := fld d 286 1, act := fld d 287 2, norm := flag d 289,
                biasNone := flag d 290, watched := flag d 291, rscale := fld d 304 32, asg := fld d 336 44,
                wgt := fld d 380 44 } }

/-- R104, R108 and R113: the shape rules. -/
def gateShapeOk (x : Gt) : Bool :=
  let p := x.params
  isWide x.fmt && x.k != 0 && decide (x.k ≤ 2097152) &&
  x.e0 % 256 == 0 && (x.n % 256 == 0 || x.e0 + x.n == p.nexp) && x.n != 0 && decide (x.e0 + x.n ≤ p.nexp) &&
  decide (p.tok0 + p.m ≤ 65536) && p.m != 0 && decide (p.m ≤ 4096) &&
  p.nexp != 0 && decide (p.nexp ≤ 16384) && p.topk != 0 && decide (p.topk ≤ 16) && decide (p.topk ≤ p.nexp) &&
  p.ngroup != 0 && decide (p.ngroup ≤ 64) && p.nexp % max 1 p.ngroup == 0 &&
  (p.ngroup == 1 || decide (p.topk * p.ngroup ≤ 64)) &&
  p.topg != 0 && decide (p.topg ≤ p.ngroup) && decide (p.topk ≤ p.topg * p.g) && (p.gtop == 0 || decide (2 ≤ p.g)) &&
  (p.ngroup != 1 || p.topg == 1)

/-- The output areas of a session: its assignment records and gate weights (R113). -/
def gateAreas (p : GateParams) : List (Nat × Nat) :=
  [(p.asg + 8 * p.tok0 * p.topk, 8 * p.m * p.topk), (p.wgt + 4 * p.tok0 * p.topk, 4 * p.m * p.topk)]

/-- The key of a context's session on a die. -/
def sessKey (c : CtxId) (sess : Nat) : Nat := 16 * CtxId.key c + sess

/-- An open session. -/
def getSess (d : Die) (c : CtxId) (sess : Nat) : Option GateSess := Tbl.get none d.sessions (sessKey c sess)

/-- The chunks that a command covers. -/
def gateChunks (x : Gt) : List Nat := (upto (ceilDiv x.n 256)).map (· + x.e0 / 256)

/-- The session rules of R110 for a command: the code of its rejection. -/
def sessionCheck (d : Die) (c : CtxId) (x : Gt) : Option (BitVec 16) :=
  match getSess d c x.sess with
  | some g =>
    if g.params ≠ x.params then some Code.eGateSession
    else if (gateChunks x).any (fun k => g.covered.contains k) then some Code.eGateCover
    else none
  | none => if Tbl.get none d.closed (sessKey c x.sess) = some x.params.sgen then some Code.eGateCover else none

/-- The checks of OP_GATE after R10, in the order of R113, then those of R110. -/
def gatePrep (e : Entry) (x : Gt) (s : State) (core : Nat) : Prep :=
  let p := x.params
  let xb := rowBytes' x.fmt x.k
  if !(stridedOk x.x p.m xb x.xLd false && stridedOk x.w x.n xb x.wLd false && (p.biasNone || lsOk 64 x.bias (4 * x.n))) then
    rejectWith Code.eDescOperand
  else if !gateShapeOk x then rejectWith Code.eGateShape
  else if p.asg % 64 ≠ 0 ∨ p.wgt % 64 ≠ 0 ∨ !(gateAreas p).all (fun a => inPages s e.cid.part a.1 a.2) then
    rejectWith Code.eDescOperand
  else
    match sessionCheck (getDie s (dieOf core)) e.cid x with
    | some c => rejectWith c
    | none =>
      .go (stridedRange x.x p.m xb x.xLd false ++ stridedRange x.w x.n xb x.wLd false ++
        (if p.biasNone then [] else lsRange x.bias (4 * x.n) false))
where
  /-- Bytes of a row; a format that R113 refuses counts as FP32. -/
  rowBytes' (f k : Nat) : Nat := if isWide f then packedBytes f k else 4 * k

/-! ### Sessions -/

/-- Token states in use on a die. -/
def statesUsed (d : Die) : Nat :=
  ((d.sessions.map (fun k => match k.2 with | some g => g.params.m | none => 0))).sum

/-- FREE of CD_GSU_STAT (Table 5.14). -/
def statesFree (d : Die) : Nat := 16384 - statesUsed d

/-- The candidates that a command gives token `t` (R106). -/
def gateScores (s : State) (core : Nat) (x : Gt) (t : Nat) : List Cand :=
  let xs := (rowElems s core x.fmt x.x x.xLd x.k t).map (decodeElem x.fmt)
  (upto x.n).map (fun i =>
    let ws := (rowElems s core x.fmt x.w x.wLd x.k i).map (decodeElem x.fmt)
    let z := canonicalDot (xs.zip ws)
    let sc := if x.params.act = 1 then opSigmoid z else z
    let b := if x.params.biasNone then vZero else ofF32 (leNat (readLs s core (x.bias + 4 * i) 4))
    { key := toF32 (Val.add sc b), score := toF32 sc, expert := x.e0 + i })

/-- Merges a command's scores into an open session. -/
def gateMerge (s : State) (core : Nat) (x : Gt) (g : GateSess) : GateSess :=
  { g with
    covered := (gateChunks x).foldl (fun l k => insNat k l) g.covered
    toks := (g.toks.zipIdx).map (fun q => keepCands g.params (q.1 ++ gateScores s core x q.2)) }

/-- Every chunk of the layer is covered. -/
def gateComplete (g : GateSess) : Bool := decide (ceilDiv g.params.nexp 256 ≤ g.covered.length)

/-- The assignment record of rank `j` (Table 5.4). -/
def asgRecord (t j : Nat) (c : Cand) : Bytes :=
  leBytes 8 (pack [(0, t), (16, c.expert), (30, j), (34, b2n (ofF32 c.key == Val.nan))])

/-- What finalising writes: the records and weights of every token of the session (R114). -/
def gateWrites (g : GateSess) : List (Nat × Bytes) :=
  let p := g.params
  (g.toks.zipIdx).flatMap (fun q =>
    let t := p.tok0 + q.2
    let cs := gateChosen p q.1
    [(p.asg + 8 * t * p.topk, (cs.zipIdx).flatMap (fun c => asgRecord t c.2 c.1)),
     (p.wgt + 4 * t * p.topk, (gateWeights p cs).flatMap (fun w => leBytes 4 (toF32 w)))])

/-- Some key that a command scores is NaN (Table 5.3, WATCH). -/
def gateNanScored (s : State) (core : Nat) (x : Gt) : Bool :=
  (upto x.params.m).any (fun t => (gateScores s core x t).any (fun c => ofF32 c.key == Val.nan))

/-- Assignments chosen with a NaN key. -/
def gateNanKeys (g : GateSess) : Nat :=
  (g.toks.map (fun l => ((gateChosen g.params l).filter (fun c => ofF32 c.key == Val.nan)).length)).sum

/-- Some gate weight is NaN or infinite. -/
def gateBadWeight (g : GateSess) : Bool :=
  g.toks.any (fun l => (gateWeights g.params (gateChosen g.params l)).any (fun w => !w.finite))

/-- Replaces or removes a session. -/
def setSess (s : State) (die : CDie) (c : CtxId) (sess : Nat) (g : Option GateSess) : State :=
  let d := getDie s die
  setDie s die { d with sessions := Tbl.set none d.sessions (sessKey c sess) g }

/-- Finalises and closes a session: its writes land, its states are freed and its SGEN is kept (R110). -/
def gateFinal (s : State) (die : CDie) (e : Entry) (x : Gt) (g : GateSess) : State × Ended :=
  let s1 := setSess s die e.cid x.sess none
  let d := getDie s1 die
  let s2 := setDie s1 die { d with
    closed := Tbl.set none d.closed (sessKey e.cid x.sess) (some g.params.sgen)
    nanKey := satAdd d.nanKey (gateNanKeys g) }
  let s3 := watch s2 e.cid (g.params.watched && gateBadWeight g)
  settleUni s3 e 2 die.val { writes := gateWrites g, areas := gateAreas g.params }

/-- A command reaches an open session, or opens it, and completes its coverage or not. Each NaN key that it scores is a watch
event, whether or not its expert is chosen (Table 5.3). -/
def gateEnter (s : State) (core : Nat) (e : Entry) (x : Gt) : State × Ended :=
  let die := dieOf core
  let g0 : GateSess := (getSess (getDie s die) e.cid x.sess).getD
    { params := x.params, covered := [], toks := List.replicate x.params.m [] }
  let g := gateMerge s core x g0
  let s1 := watch s e.cid (x.params.watched && gateNanScored s core x)
  if gateComplete g then gateFinal (setSess s1 die e.cid x.sess (some g)) die e x g
  else (setSess s1 die e.cid x.sess (some g), .ended okOutcome)

/-- OP_GATE runs: a joining command at once, an opening when it is the oldest and its states are free (R112). -/
def runGate (e : Entry) (x : Gt) (s : State) (core : Nat) : State × Ended :=
  let die := dieOf core
  let d := getDie s die
  if (getSess d e.cid x.sess).isSome ∨ (d.waiting = [] ∧ x.params.m ≤ statesFree d) then gateEnter s core e x
  else
    (setDie s die { d with waiting := d.waiting ++ [{ core := Fin.ofNat 128 core, entry := e, since := residentClock s e.cid }] },
     .running)

/-- The row of OP_GATE. -/
def gateRow (e : Entry) : OpRow :=
  let x := gtOf e.desc
  { row := opcode e.desc == 0x0300
    reserved := fld e.desc 424 88 != 0 || fmtReserved x.fmt || x.params.act == 3
    classes := [0, 1]
    prep := gatePrep e x
    run := runGate e x }

/-- OP_GATE (R113). -/
def execOpGate (e : Entry) (s : State) : Host.Outcome State Fault Refusal :=
  .next (issueCmd s e (gateRow e))

/-- The oldest waiting opening is served: its session opens, or is joined when another has opened it meanwhile; a
command that R110 then refuses fails. -/
def serveOpening (s : State) (die : CDie) (w : GateWait) (rest : List GateWait) : State :=
  let x := gtOf w.entry.desc
  let s1 := setDie s die { getDie s die with waiting := rest }
  match sessionCheck (getDie s1 die) w.entry.cid x with
  | some code => faultCmd s1 w.core.val w.entry 2 die.val { code := code, detail := [] }
  | none =>
    let r := gateEnter s1 w.core.val w.entry x
    settleEnd r.1 w.core.val w.entry r.2

/-- The waiting opening's session is open by now, or its states are free. -/
def openingFits (d : Die) (w : GateWait) : Bool :=
  let x := gtOf w.entry.desc
  (getSess d w.entry.cid x.sess).isSome || decide (x.params.m ≤ statesFree d)

/-- GATE_OPENING_SERVED (R112). -/
def execGateOpeningServed (die : CDie) (s : State) : Host.Outcome State Fault Refusal :=
  let d := getDie s die
  match d.waiting with
  | w :: rest => if unitsRun s ∧ openingFits d w then .next (serveOpening s die w rest) else .next s
  | [] => .next s

/-- GATE_HANG: an opening has waited HANG_MS of resident time (R112). -/
def execGateHang (die : CDie) (cid : CtxId) (sess : Fin 16) (s : State) : Host.Outcome State Fault Refusal :=
  let d := getDie s die
  match d.waiting.find? (fun w => w.entry.cid == cid && fld w.entry.desc 292 4 == sess.val) with
  | some w =>
    if unitsRun s ∧ isResident s cid ∧ w.since + hangNs s cid ≤ residentClock s cid then
      let s1 := setDie s die { d with waiting := d.waiting.filter (fun v => v.entry != w.entry) }
      .next (faultCmd s1 w.core.val w.entry 2 die.val { code := Code.eGateHang, detail := [] })
    else .next s
  | none => .next s

end Sys2Proof.Machine
end

