-- ==== Sys2Proof/Machine/Meter.lean ====
section
/-! DEFINITION. The Meter Room: counter frames, quantities, conservation, records, the event counter, the two-wire bus and
the calendar clock (R362-R376), and its mirror on XD0 (R381). -/

namespace Sys2Proof.Machine

/-! ### Counter frames as the dies form them (R364) -/

/-- STATE of a partition as Table 14.8 codes it. -/
def PState.code : PState → Nat
  | .absent => 0
  | .activating => 1
  | .active => 2
  | .dissolving => 3
  | .faulted => 4

/-- ACTIVE or FAULTED. -/
def PState.counts (x : PState) : Bool := x == .active || x == .faulted

/-- The header of a frame (Table 16.2). -/
def frameHead (s : State) (die : Nat) (seq : Nat) (elapsed energy : BitVec 32) : Bytes :=
  let lock := die == 4 && (s.ft.state == .locked || s.ft.state == .master)
  leBytes 32 (pack [(0, if die < 4 then 1 else 2), (8, die), (11, b2n (seq == 0)), (12, b2n lock), (16, seq % 2 ^ 32),
    (48, elapsed.toNat), (80, energy.toNat)])

/-- The partition that a quad counts for: one that is ACTIVE or FAULTED (Table 16.3). -/
def countedPart (s : State) (q : Nat) : Option PartI := (quadPart s q).filter (fun p => PState.counts (getPart s p).state)

/-- A quad entry (Table 16.3). -/
def quadEntry (s : State) (q : Nat) (c : QuadCount) : Bytes :=
  let p := countedPart s q
  leBytes 16 (pack [(0, match p with | some x => x.val | none => 0), (3, b2n p.isSome), (8, c.busy.toNat), (32, c.idle.toNat),
    (56, c.maint.toNat), (80, c.energy.toNat)])

/-- The granules of a partition from one granule index to another. -/
def grainCount (s : State) (p : PartI) (lo hi : Nat) : Nat :=
  (s.gl.grans.filter (fun e => decide (lo ≤ e.1) && decide (e.1 < hi) && e.2.owned && e.2.part == p)).length

/-- A partition entry (Table 16.4). -/
def partEntry (s : State) (p : PartI) : Bytes :=
  let q := getPart s p
  leBytes 32 (pack [(0, PState.code q.state), (8, if q.state = .absent then 0 else q.actSeq.toNat), (40, q.quads.toNat),
    (72, grainCount s p 0 48), (78, grainCount s p 48 624), (88, grainCount s p 624 1136)])

/-- A counter frame with its CRC-32C (R364). -/
def counterFrame (s : State) (die : Fin 6) (elapsed energy : BitVec 32) (counts : List QuadCount) : Bytes :=
  let head := frameHead s die.val (Tbl.get 0 s.frameSeq die.val) elapsed energy
  let body :=
    if die.val < 4 then (upto 8).flatMap (fun j => quadEntry s (8 * die.val + j) (counts.getD j ⟨0, 0, 0, 0⟩))
    else (List.finRange 8).flatMap (partEntry s)
  let f := head ++ body
  f ++ leBytes 4 (crc32c f).toNat

/-- FRAME_SEND: a die out of reset sends its frame of the millisecond (R363, R364). -/
def execFrameSend (die : Fin 6) (elapsed energy : BitVec 32) (counts : List QuadCount) (s : State) :
    Host.Outcome State Fault Refusal :=
  if s.gl.inReset then .next s
  else
    let n := Tbl.get 0 s.frameSeq die.val
    .next (send { s with frameSeq := Tbl.set 0 s.frameSeq die.val (n + 1) }
      (.meterFrame die (counterFrame s die elapsed energy counts)))

/-! ### The calendar (R375, R376) -/

/-- Microseconds in a second and in a day. -/
def secUs : Int := 1000000
/-- A day. -/
def dayUs : Int := 86400 * 1000000

/-- How much of the difference has been slewed away, at 500 ppm (R375). -/
def slewDone (s : State) : Int :=
  let n : Int := (((s.now - s.md.slewAt) / 2000000 : Nat) : Int)
  if 0 ≤ s.md.slew then min s.md.slew n else max s.md.slew (-n)

/-- The calendar in µs, before a leap second is taken out. -/
def calRaw (s : State) : Int := ((s.now / 1000 : Nat) : Int) + s.md.calOff + slewDone s

/-- The start of the repeated second of an announced leap second, in the raw calendar (R376). -/
def leapAt (m : Md) : Option Int := m.leapDay.map (fun d => ((d : Int) + 1) * dayUs)

/-- UTC in µs: the last second of the day of a leap second comes twice (R376). -/
def utcNow (s : State) : Int :=
  match leapAt s.md with
  | some a => if a ≤ calRaw s then calRaw s - secUs else calRaw s
  | none => calRaw s

/-- The repeated second runs (R376). -/
def inLeap (s : State) : Bool :=
  match leapAt s.md with
  | some a => decide (a ≤ calRaw s) && decide (calRaw s < a + secUs)
  | none => false

/-- The calendar runs on from a value; nothing is left to slew. -/
def setCalendar (s : State) (raw : Int) : State :=
  { s with md := { s.md with calOff := raw - ((s.now / 1000 : Nat) : Int), slew := 0, slewAt := s.now } }

/-- Takes what has been slewed, and a leap second that has passed, into the calendar. -/
def foldCalendar (s : State) : State :=
  let s1 := setCalendar s (calRaw s)
  match leapAt s.md with
  | some a =>
    if a + secUs ≤ calRaw s then
      let s2 := setCalendar s (calRaw s - secUs)
      { s2 with md := { s2.md with leapDay := none } }
    else s1
  | none => s1

/-! ### Quantities (R367, R368) -/

/-- A field of a frame. -/
def frameFld (f : Bytes) (lo w : Nat) : Nat := bitsOf (leNat f) lo w

/-- ENERGY_UJ of a frame's die, and ELAPSED. -/
def frameEnergy (f : Bytes) : Nat := frameFld f 80 32
/-- ELAPSED. -/
def frameElapsed (f : Bytes) : Nat := frameFld f 48 32

/-- One field of the quad entry j of a compute-die frame (Table 16.3). -/
def quadFld (f : Bytes) (j lo w : Nat) : Nat := frameFld f (256 + 128 * j + lo) w

/-- One field of the partition entry p of an exchange-die frame (Table 16.4). -/
def partFld (f : Bytes) (p lo w : Nat) : Nat := frameFld f (256 + 256 * p + lo) w

/-- The frames of compute dies among some. -/
def cdFrames (l : List MFrame) : List Bytes := (l.filter (fun x => decide (x.lane.val < 4))).map (·.data)

/-- The frames of XD0 among some. -/
def xd0Frames (l : List MFrame) : List Bytes := (l.filter (fun x => x.lane == 4)).map (·.data)

/-- The sum over the quads of some frames of a value of each. -/
def sumQuads (fs : List Bytes) (g : Bytes → Nat → Nat) : Nat := (fs.map (fun f => ((upto 8).map (g f)).sum)).sum

/-- A quad counts for a partition in a frame. -/
def quadOf (f : Bytes) (j p : Nat) : Bool := quadFld f j 3 1 == 1 && quadFld f j 0 3 == p

/-- ENGINE_CC of a partition over some frames. -/
def engineCc (fs : List Bytes) (p : Nat) : Nat := sumQuads fs (fun f j => if quadOf f j p then quadFld f j 8 24 else 0)

/-- The energy of a partition's own quads. -/
def ownEnergy (fs : List Bytes) (p : Nat) : Nat := sumQuads fs (fun f j => if quadOf f j p then quadFld f j 80 32 else 0)

/-- E_DIES of some frames. -/
def diesEnergy (l : List MFrame) : Nat := (l.map (fun x => frameEnergy x.data)).sum

/-- A partition's energy over some frames: its quads' and its share of the rest (R368). -/
def partEnergy (l : List MFrame) (p : Nat) : Int :=
  let fs := cdFrames l
  let rest : Int := (diesEnergy l : Int) - (sumQuads fs (fun f j => quadFld f j 80 32) : Int)
  let total := ((upto 8).map (engineCc fs)).sum
  (ownEnergy fs p : Int) + (if total = 0 then 0 else (rest * (engineCc fs p : Int)).fdiv (total : Int))

/-- A quantity summed over the XD0 frames in which the partition is ACTIVE or FAULTED (Table 16.6). -/
def xdSum (l : List MFrame) (p : Nat) (g : Bytes → Nat) : Nat :=
  ((xd0Frames l).map (fun f => if partFld f p 0 3 = 2 ∨ partFld f p 0 3 = 4 then g f else 0)).sum

/-- Adds what some frames count for a partition. -/
def addPart (l : List MFrame) (p : Nat) (x : PartAcc) : PartAcc :=
  { cc := x.cc + engineCc (cdFrames l) p
    energy := x.energy + partEnergy l p
    quadMs := x.quadMs + xdSum l p (fun f => popcount (partFld f p 40 32) 32)
    cgran := x.cgran + xdSum l p (fun f => partFld f p 72 6)
    hgran := x.hgran + xdSum l p (fun f => partFld f p 78 10)
    lgran := x.lgran + xdSum l p (fun f => partFld f p 88 10) }

/-- Adds what some frames count to the open record (R367, R368). -/
def foldMeter (a : MAcc) (l : List MFrame) : MAcc :=
  let fs := cdFrames l
  let attributed := ((upto 8).map (partEnergy l)).sum
  { a with
    eDies := a.eDies + diesEnergy l
    eUnattr := a.eUnattr + ((diesEnergy l : Int) - attributed)
    idle := a.idle + sumQuads fs (fun f j => quadFld f j 32 24)
    maint := a.maint + sumQuads fs (fun f j => quadFld f j 56 24)
    elapsed := a.elapsed + (fs.map (fun f => 32 * frameElapsed f)).sum
    parts := (upto 8).foldl (fun t p => Tbl.modify {} t p (addPart l p)) a.parts }

/-- The open record with the frames of the present window that count in it. -/
def openRecord (m : Md) : MAcc := foldMeter m.acc (m.frames.filter (·.counts))

/-! ### Records (R370-R372) -/

/-- Records that the store holds (Table 16.1). -/
def storeRecords : Nat := 30720

/-- FLAGS of a record (Table 16.7). -/
def meterFlags (s : State) (a : MAcc) : Nat :=
  pack [(0, b2n s.gl.es), (1, b2n s.md.freeRun), (2, b2n (decide (0 < a.missing))), (3, b2n s.md.timeInvalid), (4, b2n a.eunver),
    (5, b2n (inLeap s))]

/-- A signed value in 8 bytes. -/
def leInt8 (v : Int) : Bytes := leBytes 8 (v.emod (2 ^ 64)).toNat

/-- The ACTSEQ of a partition in the newest accepted frame of XD0. -/
def latestActSeq (m : Md) (p : Nat) : Nat := partFld (Tbl.get [] m.latest 4) p 8 32

/-- PART[p] of a record. -/
def recordPart (m : Md) (a : MAcc) (p : Nat) : Bytes :=
  let x := Tbl.get {} a.parts p
  leBytes 4 (latestActSeq m p) ++ leBytes 8 x.cc ++ leInt8 x.energy ++ leBytes 4 x.quadMs ++ leBytes 4 x.cgran ++
  leBytes 4 x.hgran ++ leBytes 4 x.lgran

/-- Bytes 0 to 447 of a record (Table 16.7). -/
def recordHead (s : State) (kind : Nat) (check : BitVec 7) (detail : Bytes) (a : MAcc) : Bytes :=
  leBytes 4 0x52544D4B ++ leBytes 2 1 ++ leBytes 1 kind ++ leBytes 1 (meterFlags s a) ++ leBytes 8 (s.md.newest.toNat + 1) ++
  leBytes 4 s.md.evcnt.toNat ++ leBytes 4 0xCA170880 ++ (sha256 meterPub).take 8 ++ leInt8 a.start ++ leInt8 (utcNow s) ++
  leBytes 8 (if s.md.ftlock then (fabricTime s).toNat else 0) ++ leBytes 4 a.missing ++ leBytes 4 check.toNat ++
  leBytes 8 a.eDies ++ leBytes 8 a.eBoard ++ leInt8 a.eUnattr ++ leBytes 8 a.idle ++ leBytes 8 a.maint ++ leBytes 8 a.elapsed ++
  detail ++ (upto 8).flatMap (recordPart s.md a) ++ List.replicate 32 0

/-- A record, signed (R371). -/
def meterRecord (s : State) (kind : Nat) (check : BitVec 7) (detail : Bytes) (a : MAcc) : Bytes :=
  let h := recordHead s kind check detail a
  h ++ ecdsaSign Config.meterKey (sha256 h)

/-- DETAIL of an EVENT record, and of a POWER record. -/
def eventDetail (code value : Nat) : Bytes := leBytes 4 code ++ leBytes 4 value ++ List.replicate 8 0

/-- No detail. -/
def noDetail : Bytes := List.replicate 16 0

/-- The kind ends the open interval: INTERVAL, SPLIT or LONG. -/
def endsInterval (kind : Nat) : Bool := kind == 0 || kind == 1 || kind == 5

/-- A new interval begins. -/
def newInterval (s : State) : State :=
  { s with md := { s.md with
      acc := { start := utcNow s }
      boundFrom := utcNow s
      frames := s.md.frames.map (fun f => { f with counts := false }) } }

/-- Closes a record; a full store closes none (R370-R372). CHECK and EVENT records assert MTR_ALERT_N. -/
def closeRecord (s : State) (kind : Nat) (check : BitVec 7) (detail : Bytes) : State :=
  let alerts := kind == 2 || kind == 3
  if storeRecords ≤ s.md.recs.length then
    { s with md := { s.md with overdue := true, alertFull := s.md.alertFull || alerts } }
  else
    let n := s.md.newest + 1
    let r := meterRecord s kind check detail (openRecord s.md)
    let s1 : State := { s with md := { s.md with
      newest := n
      recs := s.md.recs ++ [(n, r)]
      alerts := if alerts then s.md.alerts ++ [n] else s.md.alerts } }
    let s2 := send s1 (.meterRecord r)
    if endsInterval kind then newInterval s2 else s2

/-- A boundary of RECINT in UTC has come since the last one (R370). -/
def boundaryDue (s : State) : Bool :=
  let r := (s.md.recInt : Int) * secUs
  decide (s.md.boundFrom.fdiv r < (utcNow s).fdiv r)

/-- Bits of failed checks: they join CHECKFAIL of the open record, and bits not yet reported in this interval close one CHECK
record (R369). -/
def checkFailed (s : State) (bits : BitVec 7) : State :=
  let a := s.md.acc
  let fresh := bits &&& ~~~ a.reported
  let s1 : State := { s with md := { s.md with acc := { a with check := a.check ||| bits, reported := a.reported ||| bits } } }
  if fresh = 0 then s1 else closeRecord s1 2 bits noDetail

/-- A metrological event (R373). -/
def meterEvent (s : State) (code value : Nat) : State :=
  closeRecord { s with md := { s.md with evcnt := s.md.evcnt + 1 } } 3 s.md.acc.check (eventDetail code value)

/-! ### Frames at the Meter Room (R365, R366) -/

/-- Bytes of a lane's frame, with its CRC. -/
def frameLen (lane : Nat) : Nat := if lane < 4 then 164 else 292

/-- The reserved bits of a frame are 0. -/
def frameReserved (lane : Nat) (f : Bytes) : Bool :=
  frameFld f 13 3 == 0 && frameFld f 112 144 == 0 &&
  (if lane < 4 then (upto 8).all (fun j => quadFld f j 4 4 == 0 && quadFld f j 112 16 == 0)
    else (upto 8).all (fun p => partFld f p 3 5 == 0 && partFld f p 98 158 == 0))

/-- The integrity check. -/
def frameIntact (lane : Nat) (f : Bytes) : Bool :=
  f.length == frameLen lane && crc32c (f.take (frameLen lane - 4)) == BitVec.ofNat 32 (cutNat f (frameLen lane - 4) 4) &&
  frameReserved lane f

/-- The source check. -/
def frameSource (lane : Nat) (f : Bytes) : Bool := frameFld f 0 8 == (if lane < 4 then 1 else 2) && frameFld f 8 3 == lane

/-- The sequence check: how many frames are missing before this one, `none` when it fails (Table 16.5, R366). -/
def seqMissing (l : MLane) (reset : Bool) (seq : BitVec 32) : Option Nat :=
  if reset then (if seq = 0 then some 0 else none)
  else
    let stale : Bool := match l.last with | some b => decide (seq = b) || decide (2 ^ 31 ≤ ahead seq b) | none => false
    if stale then none
    else
      match l.prev with
      | none => some 0
      | some b => if ahead seq b < 2 ^ 31 then some (ahead seq b - 1) else some 0

/-- Cycle conservation of a compute-die frame. -/
def cyclesOk (f : Bytes) : Bool :=
  (upto 8).all (fun j =>
    quadFld f j 8 24 + quadFld f j 32 24 + quadFld f j 56 24 == 4 * frameElapsed f && (quadFld f j 3 1 == 1 || quadFld f j 8 24 == 0))

/-- The partition of a quad by an exchange-die frame's masks: the ones that are ACTIVE or FAULTED. -/
def maskPart (f : Bytes) (q : Nat) : Option Nat :=
  (upto 8).find? (fun p => (partFld f p 0 3 == 2 || partFld f p 0 3 == 4) && bitAt (partFld f p 40 32) q)

/-- The partition map of a compute-die frame agrees with the newest frames of both exchange dies, and these agree. -/
def partMapOk (m : Md) (lane : Nat) (f : Bytes) : Bool :=
  let a := Tbl.get [] m.latest 4
  let b := Tbl.get [] m.latest 5
  (upto 8).all (fun p => partFld a p 0 256 == partFld b p 0 256) &&
  (upto 8).all (fun j =>
    match maskPart a (8 * lane + j) with
    | some p => quadFld f j 3 1 == 1 && quadFld f j 0 3 == p
    | none => quadFld f j 3 1 == 0 && quadFld f j 0 3 == 0)

/-- A rejected frame counts as missing and its bit is kept for the window's CHECK record. -/
def rejectFrame (s : State) (bit : Nat) : State :=
  let b := BitVec.ofNat 7 (2 ^ bit)
  let a := s.md.acc
  { s with md := { s.md with acc := { a with missing := a.missing + 1, check := a.check ||| b }, winBits := s.md.winBits ||| b } }

/-- ACTSEQ of a partition changes with this frame of XD0 (R370). -/
def actSeqChange (m : Md) (f : Bytes) : Bool := (upto 8).any (fun p => partFld f p 8 32 != latestActSeq m p)

/-- A frame that passes every check counts in the open interval; a new ACTSEQ closes the interval first, and a die's reset closes
a POWER record (R367, R370, Table 16.7). -/
def acceptFrame (s : State) (lane : Fin 6) (f : Bytes) : State :=
  let s1 :=
    if lane = 4 ∧ actSeqChange s.md f then closeRecord s (if boundaryDue s then 0 else 1) s.md.acc.check noDetail else s
  let l := Tbl.get {} s1.md.lanes lane.val
  let latest := if 4 ≤ lane.val then Tbl.set [] s1.md.latest lane.val f else s1.md.latest
  let s2 : State := { s1 with md := { s1.md with
    frames := s1.md.frames ++ [⟨lane, f, true⟩]
    latest := latest
    ftlock := if lane = 4 then frameFld f 12 1 == 1 else s1.md.ftlock
    lanes := Tbl.set {} s1.md.lanes lane.val { l with last := some (BitVec.ofNat 32 (frameFld f 16 32)) } } }
  if frameFld f 11 1 = 1 then closeRecord s2 4 s2.md.acc.check (leBytes 2 (2 + 256 * lane.val) ++ List.replicate 14 0) else s2

/-- METER_FRAME: a counter frame reaches the Meter Room, is checked and counted (R365-R367). -/
def execMeterFrame (lane : Fin 6) (frame : Bytes) (s0 : State) : Host.Outcome State Fault Refusal :=
  if ¬ s0.md.powered then .next s0
  else
    let l := Tbl.get {} s0.md.lanes lane.val
    let s : State := { s0 with md := { s0.md with lanes := Tbl.set {} s0.md.lanes lane.val { l with seen := true } } }
    if !frameIntact lane.val frame || !frameSource lane.val frame then .next (rejectFrame s 0)
    else
      let seq := BitVec.ofNat 32 (frameFld frame 16 32)
      match seqMissing l (frameFld frame 11 1 == 1) seq with
      | none => .next (rejectFrame s 1)
      | some n =>
        let a := s.md.acc
        let s1 : State := { s with md := { s.md with
          acc := { a with missing := a.missing + n }
          lanes := Tbl.set {} s.md.lanes lane.val { l with seen := true, prev := some seq } } }
        if lane.val < 4 ∧ !cyclesOk frame then .next (rejectFrame s1 3)
        else if lane.val < 4 ∧ !partMapOk s1.md lane.val frame then .next (rejectFrame s1 4)
        else .next (acceptFrame s1 lane frame)

/-! ### The second's window (R366, R368, R369) -/

/-- The clock check rejects every frame of a lane in this window (R366). -/
def dropLane (s : State) (k : Nat) : State :=
  let a := s.md.acc
  let n := (s.md.frames.filter (fun f => f.lane.val == k)).length
  { s with md := { s.md with
      frames := s.md.frames.filter (fun f => f.lane.val != k)
      acc := { a with missing := a.missing + n }
      winBits := s.md.winBits ||| 4#7 } }

/-- A second of a lane with no frame at all (R366). -/
def silentLane (s : State) (k : Nat) : State :=
  let a := s.md.acc
  if (Tbl.get {} s.md.lanes k).seen then s
  else { s with md := { s.md with acc := { a with missing := a.missing + 1000 } } }

/-- The cycles of the window's frames add up (R369). -/
def windowCycles (l : List MFrame) : Bool :=
  let fs := cdFrames l
  ((upto 8).map (engineCc fs)).sum + sumQuads fs (fun f j => quadFld f j 32 24) + sumQuads fs (fun f j => quadFld f j 56 24) ==
    (fs.map (fun f => 32 * frameElapsed f)).sum

/-- E_BOARD of the window: the difference of the cumulative values, where the controller has reported in the window and before
it, and the window's report is not void (R369, R374). -/
def boardEnergy (m : Md) : Option Nat :=
  match m.rep, m.winBase with
  | some (_, c), some b => if m.winRep && !m.winVoid then some (c - b).toNat else none
  | _, _ => none

/-- The energy check of R369, in whole numbers. -/
def energyOk (dies board : Nat) : Bool := decide (100 * ((dies : Int) - (board : Int)).natAbs ≤ board + 50000000)

/-- The window's conservation checks. -/
def windowChecks (m : Md) : BitVec 7 :=
  let cyc : BitVec 7 := if windowCycles m.frames then 0 else 8
  match boardEnergy m with
  | some b => cyc ||| (if energyOk (diesEnergy m.frames) b then 0 else 32#7)
  | none => cyc ||| 64#7

/-- Cycles of a lane's fixed clock in a second (R364). -/
def laneHz (k : Nat) : Nat := if k < 4 then 1750000000 else 1400000000

/-- The clock check of a lane: Σ ELAPSED of its frames over the nominal frequency agrees within 300 ppm with the time that `count`
ticks of the 25 MHz oscillator make (Table 16.5). -/
def clockOk (l : List MFrame) (k count : Nat) : Bool :=
  let cycles := ((l.filter (fun f => f.lane.val == k)).map (fun f => frameElapsed f.data)).sum
  decide (1000000 * ((cycles * 25000000 : Int) - (count * laneHz k : Int)).natAbs ≤ 300 * (count * laneHz k))

/-- METER_WINDOW: a second of the Meter Room's count ends: the clock check of each lane, the attribution of energy, the
conservation checks, and the CHECK record (R365, R366, R368, R369). `counts` are the ticks of the 25 MHz oscillator over which each
lane's frames of the second came, `storeBad` the ring offset of an uncorrectable error that the store has shown (R373;
DESIGN CHOICE, log 75). -/
def execMeterWindow (counts : List Nat) (storeBad : Option (BitVec 32)) (s0 : State) : Host.Outcome State Fault Refusal :=
  if ¬ s0.md.powered then .next s0
  else
    let s := match storeBad with | some o => meterEvent s0 7 o.toNat | none => s0
    let bad := (upto 6).filter (fun k => (Tbl.get {} s.md.lanes k).seen && !clockOk s.md.frames k (counts.getD k 25000000))
    let s1 := (upto 6).foldl silentLane (bad.foldl dropLane s)
    let m := s1.md
    let a := openRecord m
    let bits := m.winBits ||| windowChecks m
    let board := boardEnergy m
    let s2 : State := { s1 with md := { m with
      acc := { a with eBoard := a.eBoard + board.getD 0, eunver := a.eunver || board.isNone }
      frames := []
      lanes := (upto 6).foldl (fun t k => Tbl.modify {} t k (fun l => { l with seen := false })) m.lanes
      winBits := 0
      winRep := false
      winVoid := false
      winBase := m.rep.map (·.2) } }
    .next (if bits = 0 then s2 else checkFailed s2 bits)

/-- INTERVAL_CLOSE: a multiple of RECINT in UTC closes an interval record (R370). -/
def execIntervalClose (s : State) : Host.Outcome State Fault Refusal :=
  if s.md.powered ∧ boundaryDue s then .next (closeRecord s 0 s.md.acc.check noDetail) else .next s

/-! ### Events and supplies (R373, R456) -/

/-- SEAL_SENSE: the loop as the backup domain senses it; an opening is a metrological event, held while only the backup supply is
present (R373). -/
def execSealSense (opened : Bool) (s : State) : Host.Outcome State Fault Refusal :=
  let rises := opened && !s.md.sealOpen
  let s1 : State := { s with md := { s.md with sealOpen := opened, openings := s.md.openings + b2n rises } }
  if ¬ rises then .next s1
  else if s.md.powered then .next (meterEvent s1 1 s1.md.openings)
  else .next { s1 with md := { s1.md with heldOpen := s1.md.heldOpen + 1 } }

/-- MTR_VDD_LOSS: the meter processor stops; the backup domain keeps the calendar, the event count and the seal sense, and the
store its contents (R363, R456). Each lane's last SEQ is kept too (DESIGN CHOICE, log 89), so that the frames of the time on the
backup supply count as missing at the first frame after it (R16, R366). -/
def execMtrVddLoss (s : State) : Host.Outcome State Fault Refusal :=
  if ¬ s.md.powered then .next s
  else .next { s with md := { s.md with
    powered := false
    acc := openRecord s.md
    frames := []
    lanes := (upto 6).foldl (fun t k => Tbl.modify {} t k (fun l => { l with seen := false })) s.md.lanes
    ftlock := false
    winBits := 0
    rep := none
    winBase := none
    winRep := false
    winVoid := false } }

/-- BACKUP_SUPPLY_LOW: with the main supply off the calendar is lost, and the event is held for the next power-up (R373, R376). -/
def execBackupSupplyLow (s : State) : Host.Outcome State Fault Refusal :=
  if s.md.powered then .next s
  else
    let s1 := setCalendar s 0
    .next { s1 with md := { s1.md with heldLoss := true, timeInvalid := true, epochOk := false, leapDay := none, boundFrom := 0 } }

/-- The held openings become events, oldest first. -/
def heldOpenings : Nat → State → State
  | 0, s => s
  | n + 1, s => heldOpenings n (meterEvent s 1 (s.md.openings - n))

/-- MTR_POWER_UP: the held events are counted and their records closed in the order of Table 16.8, then a POWER record
(R371, R373). -/
def execMtrPowerUp (s : State) : Host.Outcome State Fault Refusal :=
  if s.md.powered then .next s
  else
    let s1 : State := { s with md := { s.md with powered := true, heldOpen := 0, heldLoss := false } }
    let s2 := heldOpenings s.md.heldOpen s1
    let s3 := if s.md.heldLoss then meterEvent s2 2 0 else s2
    .next (closeRecord s3 4 s3.md.acc.check (leBytes 1 1 ++ List.replicate 15 0))

/-! ### Discipline (R375) -/

/-- CALENDAR_DISCIPLINE: once a second the calendar is compared with EPOCH_UTC + ⌊FT ÷ 1,000⌋ (R375). `rateOff` is that Fabric
Time's rate has been off by more than 100 ppm over 10 s. -/
def execCalendarDiscipline (rateOff : Bool) (s : State) : Host.Outcome State Fault Refusal :=
  match s.md.epoch with
  | none => .next s
  | some ep =>
    if !s.md.powered || !s.md.ftlock || !s.md.epochOk then .next s
    else
      let diff : Int := (ep : Int) + (((fabricTime s).toNat / 1000 : Nat) : Int) - utcNow s
      if rateOff ∨ secUs ≤ diff ∨ diff ≤ -secUs then
        let s1 := foldCalendar s
        .next (checkFailed { s1 with md := { s1.md with freeRun := true } } 4)
      else
        let s1 := foldCalendar s
        .next { s1 with md := { s1.md with slew := diff, slewAt := s.now, freeRun := false } }

/-! ### The two-wire bus (R374) -/

/-- The payload of a write of `n` bytes whose CRC-8 checks, over the address byte, the command byte and the payload. -/
def busWrite (cmd : BitVec 8) (n : Nat) (payload : Bytes) : Option Bytes :=
  if payload.length == n + 1 && crc8 0 ([0x98#8, cmd] ++ payload.take n) == payload.getD n 0 then some (payload.take n) else none

/-- A read's answer, with its CRC-8. -/
def busReply (s : State) (cmd : BitVec 8) (data : Bytes) : State := send s (.meterReply (data ++ [crc8 0 ([0x99#8, cmd] ++ data)]))

/-- A command without a payload. -/
def busRead (s : State) (payload : Bytes) (cmd : BitVec 8) (data : Bytes) : Host.Outcome State Fault Refusal :=
  if s.md.powered && payload.isEmpty then .next (busReply s cmd data) else .next s

/-- A command with a payload of `n` bytes. -/
def busCmd (s : State) (payload : Bytes) (cmd : BitVec 8) (n : Nat) (f : Bytes → State) : Host.Outcome State Fault Refusal :=
  match busWrite cmd n payload with
  | some d => if s.md.powered then .next (f d) else .next s
  | none => .next s

/-- MTR_ALERT_N is asserted (R369, R373). -/
def alertPending (m : Md) : Bool := !m.alerts.isEmpty || m.alertFull

/-- STATUS. -/
def execStatus (payload : Bytes) (s : State) : Host.Outcome State Fault Refusal :=
  busRead s payload 0x00
    (leBytes 8 s.md.newest.toNat ++ leBytes 4 s.md.evcnt.toNat ++ leBytes 1 (meterFlags s (openRecord s.md)) ++
      leBytes 1 (b2n (alertPending s.md)) ++ leBytes 2 1)

/-- A held record by RSEQ. -/
def heldRecord (m : Md) (n : BitVec 64) : Option Bytes := (m.recs.find? (fun r => r.1 == n)).map (·.2)

/-- RECORD; reading a CHECK or EVENT record ends its alert (R369). -/
def execRecord (payload : Bytes) (s : State) : Host.Outcome State Fault Refusal :=
  busCmd s payload 0x01 8 (fun d =>
    let n := BitVec.ofNat 64 (leNat d)
    let s1 : State := { s with md := { s.md with alerts := s.md.alerts.filter (· != n) } }
    busReply s1 0x01 ((heldRecord s.md n).getD (List.replicate 512 0xFF)))

/-- Room in the store closes an interval that it held up, as kind LONG (R372). -/
def closeLong (s : State) : State :=
  if s.md.overdue ∧ s.md.recs.length < storeRecords then
    let full := s.md.alertFull
    let s1 := closeRecord { s with md := { s.md with overdue := false, alertFull := false } } 5 s.md.acc.check noDetail
    if full then { s1 with md := { s1.md with alerts := s1.md.alerts ++ [s1.md.newest] } } else s1
  else s

/-- ACK frees every record up to an RSEQ (R372). -/
def execAck (payload : Bytes) (s : State) : Host.Outcome State Fault Refusal :=
  busCmd s payload 0x02 8 (fun d =>
    let n := leNat d
    closeLong { s with md := { s.md with
      recs := s.md.recs.filter (fun r => decide (n < r.1.toNat))
      alerts := s.md.alerts.filter (fun r => decide (n < r.toNat)) } })

/-- PUBKEY. -/
def execPubkey (payload : Bytes) (s : State) : Host.Outcome State Fault Refusal := busRead s payload 0x03 meterPub

/-- CERT. -/
def execCert (payload : Bytes) (s : State) : Host.Outcome State Fault Refusal :=
  busRead s payload 0x04 (leBytes 2 Config.meterCert.length ++ Config.meterCert)

/-- ENERGY: a report of the package's cumulative energy; a count that does not follow voids the window's report
(R369, R374). -/
def execEnergy (payload : Bytes) (s : State) : Host.Outcome State Fault Refusal :=
  busCmd s payload 0x10 12 (fun d =>
    let n := BitVec.ofNat 32 (leNat (d.take 4))
    let c := BitVec.ofNat 64 (leNat (d.drop 4))
    let follows : Bool := match s.md.rep with | some (k, _) => n == k + 1 | none => true
    let s1 : State := { s with md := { s.md with rep := some (n, c), winRep := true } }
    if follows then s1
    else
      let a := s1.md.acc
      checkFailed { s1 with md := { s1.md with winVoid := true, acc := { a with eunver := true } } } 64)

/-- SETTIME sets the calendar (R374, R376). -/
def execSettime (payload : Bytes) (s : State) : Host.Outcome State Fault Refusal :=
  busCmd s payload 0x11 8 (fun d =>
    let v : Int := (leNat d : Int)
    let step := (v - utcNow s).tdiv secUs
    let s1 := setCalendar s v
    let keep := match leapAt s.md with | some a => decide (v < a) | none => false
    meterEvent { s1 with md := { s1.md with
      timeInvalid := false, boundFrom := v, leapDay := if keep then s1.md.leapDay else none } } 3 (step.emod (2 ^ 32)).toNat)

/-- SETEPOCH sets the UTC of Fabric Time 0; a change is an event (R373, R374). -/
def execSetepoch (payload : Bytes) (s : State) : Host.Outcome State Fault Refusal :=
  busCmd s payload 0x12 8 (fun d =>
    let v := leNat d
    let s1 : State := { s with md := { s.md with epoch := some v, epochOk := true } }
    if s.md.epoch = some v then s1 else meterEvent s1 4 0)

/-- SETRECINT sets RECINT to one of its four values; a change is an event (R373, R374). -/
def execSetrecint (payload : Bytes) (s : State) : Host.Outcome State Fault Refusal :=
  busCmd s payload 0x13 2 (fun d =>
    let v := leNat d
    if [60, 300, 900, 3600].contains v ∧ v ≠ s.md.recInt then
      meterEvent { s with md := { s.md with recInt := v, boundFrom := utcNow s } } 5 v
    else s)

/-- LEAP announces the leap second at the end of a UTC day (R373, R376). -/
def execLeap (payload : Bytes) (s : State) : Host.Outcome State Fault Refusal :=
  busCmd s payload 0x14 4 (fun d =>
    let v := leNat d
    let s1 := foldCalendar s
    let past : Bool := decide (((v : Int) + 1) * dayUs ≤ calRaw s1)
    meterEvent { s1 with md := { s1.md with leapDay := if past then s1.md.leapDay else some v } } 6 v)

/-! ### The mirror on XD0 (R381, R382) -/

/-- A report of the Meter Room mirror. -/
def mirrorReport (s : State) (code : BitVec 16) : State :=
  if collects s then report s (devReport code deferred 17 0 []) else s

/-- MIRROR_RECORD: XD0 holds the last 64 records and reports CHECK and EVENT records (R369, R373, R381, R382). -/
def execMirrorRecord (r : Bytes) (s : State) : Host.Outcome State Fault Refusal :=
  if s.gl.inReset || r.length != 512 then .next s
  else
    let s1 : State := { s with mtr := { s.mtr with recs := (r :: s.mtr.recs).take 64 } }
    match cutNat r 6 1 with
    | 2 => .next (mirrorReport s1 Code.evMtrCheck)
    | 3 => .next (mirrorReport s1 Code.evMtrEvent)
    | _ => .next s1

end Sys2Proof.Machine
end

