-- ==== Sys2Proof/Machine/Predict.lean ====
section
/-! DEFINITION. The Neuron Predictor: OP_PREDICT and OP_MAKEUP (R165-R173). -/

namespace Sys2Proof.Machine

/-! ### Bounds (R165, R167) -/

/-- A dyadic upper bound of the square root of a value that is not negative. -/
def sqrtUp : Val → Val
  | .num _ m e =>
    if m = 0 then vZero
    else
      let k : Int := e - 128 - (if e % 2 = 0 then 0 else 1)
      let n := alignTo m e k
      let r := Nat.sqrt n
      .num false (if r * r = n then r else r + 1) (k / 2)
  | .inf _ => .inf false
  | .nan => .nan

/-- The sum of some values, exactly. -/
def exactSum (vs : List Val) : Val := vs.foldl Val.add vZero

/-- A dyadic upper bound of the Euclidean norm. -/
def normUp (vs : List Val) : Val := sqrtUp (exactSum (vs.map (fun v => Val.mul v v)))

/-- An FP32 value that does not lie below `v`: the least one, moved up by a free number of units in the last place,
since outward rounding leaves open how far above the exact value a bound lies. `salt` tells results apart. -/
def boundUp (salt : Nat) (v : Val) : Val :=
  match v with
  | .nan => .nan
  | w =>
    let b := toF32 w
    let least := if Val.lt (ofF32 b) w then ordOf b + 1 else ordOf b
    ofF32 (ofOrd (least + Config.boundSlack salt (BitVec.ofNat 32 b)))

/-! ### OP_PREDICT -/

/-- The fields of OP_PREDICT (Table 7.1). -/
structure Pd where
  x : Nat
  xsc : Nat
  xref : Nat
  wref : Nat
  v : Nat
  u : Nat
  rho : Nat
  out : Nat
  xLd : Nat
  rows : Nat
  h : Nat
  fb : Nat
  b0 : Nat
  xFmt : Nat
  wFmt : Nat
  bound : Bool
  lossy : Bool
  zfloor : Bool
  xscNone : Bool
  st : Nat
  g0 : Nat
  deriving DecidableEq, Repr

/-- The fields of a descriptor. -/
def pdOf (d : Desc) : Pd :=
  { x := fld d 64 24, xsc := fld d 88 24, xref := fld d 112 24, wref := fld d 136 24, v := fld d 160 24, u := fld d 184 24
    rho := fld d 208 24, out := fld d 232 24, xLd := fld d 256 16, rows := fld d 272 9, h := fld d 281 22, fb := fld d 303 9
    b0 := fld d 312 8, xFmt := fld d 320 4, wFmt := fld d 324 4, bound := flag d 328, lossy := flag d 329
    zfloor := flag d 330, xscNone := flag d 331, st := fld d 332 44, g0 := fld d 376 17 }

/-- Rows of X: token rows, or in BOUND mode the rows of W1. -/
def Pd.xRows (x : Pd) : Nat := if x.bound then 32 * x.fb else x.rows

/-- The first neuron and the number of neurons. -/
def Pd.n0 (x : Pd) : Nat := if x.bound then 32 * x.b0 else 0

/-- Bytes of a row of X; a format that R167 refuses counts as FP8. -/
def Pd.xRow (x : Pd) : Nat := packedBytes (if isNarrow x.xFmt then x.xFmt else 3) x.h

/-- The operands as (aligned address, bytes, written), beside X, which has a pitch. -/
def Pd.operands (x : Pd) : List (Nat × Nat × Bool) :=
  (if x.xscNone then [] else [(x.xsc, x.xRows * (x.h / 32), false)]) ++
  (if x.bound then [] else [(x.xref, 16, false), (x.wref, 16, false)]) ++
  [(x.v, 128 * x.h, false), (x.u + 128 * x.n0, 4096 * x.fb, false), (x.rho + 4 * x.n0, 128 * x.fb, x.bound)] ++
  (if x.bound then [] else [(x.out, 640, true)])

/-- The local-store operands and STATE_ADDR obey R69 and R105. -/
def pdOperandsOk (s : State) (p : PartI) (x : Pd) : Bool :=
  stridedOk x.x x.xRows x.xRow x.xLd false && [x.x, x.v, x.u, x.rho].all (fun a => a % 64 == 0) &&
  x.operands.all (fun o => lsOk 64 o.1 o.2.1) && (x.bound || uniOk s p x.st 64)

/-- The ranges and unused fields of Table 7.1. -/
def pdShapeOk (x : Pd) : Bool :=
  x.h % 32 == 0 && x.fb != 0 && decide (x.fb ≤ 256) && isNarrow x.xFmt && decide (x.b0 + x.fb ≤ 256) &&
  (if x.bound then
    x.rows == 0 && x.wFmt == 0 && !x.lossy && !x.zfloor && x.st == 0 && x.g0 == 0 && x.xref == 0 && x.wref == 0 && x.out == 0
   else x.rows != 0 && decide (x.rows ≤ 256) && isNarrow x.wFmt && x.b0 == 0)

/-- The checks of OP_PREDICT after R10 (R167). Exact mode without ZFLOOR concerns PREDICT, where alone both fields are
used. -/
def pdPrep (e : Entry) (x : Pd) (s : State) (_core : Nat) : Prep :=
  if !pdOperandsOk s e.cid.part x then rejectWith Code.eDescOperand
  else if !pdShapeOk x then rejectWith Code.ePredShape
  else if !x.bound && !x.lossy && !x.zfloor then rejectWith Code.ePredMode
  else .go (stridedRange x.x x.xRows x.xRow x.xLd false ++ x.operands.flatMap (fun o => lsRange o.1 o.2.1 o.2.2))

/-- The values of row `i` of X. -/
def Pd.xVals (x : Pd) (s : State) (core i : Nat) : List Val :=
  rowVals x.xFmt (rowElems s core x.xFmt x.x x.xLd x.h i) (rowCodes s core x.xscNone x.xsc x.h i)

/-- Row `k` of V. -/
def Pd.vRow (x : Pd) (s : State) (core k : Nat) : List Val :=
  (wordsOf 2 (readLs s core (x.v + 2 * x.h * k) (2 * x.h))).map (decodeElem 1)

/-- Row `n` of U. -/
def Pd.uRow (x : Pd) (s : State) (core n : Nat) : List Val :=
  (wordsOf 2 (readLs s core (x.u + 128 * n) 128)).map (decodeElem 1)

/-- The exact dot product. -/
def exactDot (a b : List Val) : Val := exactSum ((a.zip b).map (fun p => Val.mul p.1 p.2))

/-- A zero, of either sign. -/
def isZero : Val → Bool
  | .num _ m _ => m == 0
  | _ => false

/-- The smaller of two values. -/
def Val.least (a b : Val) : Val := if Val.lt b a then b else a

/-- The larger of two values. -/
def Val.most (a b : Val) : Val := if Val.lt a b then b else a

/-- What a block of a token row, of scale code `ca`, may at most lose against the exact product with any block of W1 (R165): all of it
where its own code is flushed (R58); else what a block of W1 with a code below REFX_W − 31 would bring, or the part below one unit of
the accumulator, which truncation takes where some distance of the two codes lets it (R59). -/
def pdLoss (fx fw ra rb ca : Nat) (xs : List Val) : Val :=
  let unit : Val := .num false 1 ((ra : Int) + rb - 254 - accU fx fw)
  let mx := fmtMaxMag fw
  let brings := fun (cb : Int) => Val.mul (exactSum (xs.map Val.abs)) (.num false mx.1 (mx.2 + (cb - 127)))
  if ca + 31 < ra then brings rb
  else
    let trunc : Bool := decide (accU fx fw < fmtQ fx + fmtQ fw + ((ra - ca : Nat) : Int) + ((min 31 rb : Nat) : Int))
    Val.most (if 32 ≤ rb then brings ((rb : Int) - 32) else vZero) (if trunc then Val.least unit (brings rb) else vZero)

/-- The margin μ of a token row (R165), for this row's block codes. -/
def pdMargin (s : State) (core : Nat) (x : Pd) (xs : List Val) (codes : List Nat) : Val :=
  let ra := refxAt s core x.xscNone x.xref
  let rb := refxAt s core false x.wref
  exactSum ((pieces 32 xs.length xs).zipIdx.map (fun q => pdLoss x.xFmt x.wFmt ra rb (nth 0 codes q.2) q.1))

/-- The score and the bound of one neuron for a token row (R165). Interval arithmetic that rounds outward holds both the FP32 score and
the exact one, and of a row of zeros it gives exactly zero. -/
def pdScore (s : State) (core : Nat) (x : Pd) (xs : List Val) (mu norm : Val) (vs : List (List Val)) (r : List Val) (n : Nat) :
    Val × Val :=
  let us := x.uRow s core n
  let sc := segSum (us.zip r)
  let rho := ofF32 (leNat (readLs s core (x.rho + 4 * n) 4))
  let exact := exactDot us (vs.map (exactDot xs))
  let t := if sc == .nan then .nan else Val.add (Val.add (Val.most exact sc) (Val.mul rho norm)) mu
  (sc, if isZero norm && isZero t then vZero else boundUp n t)

/-- What a row says of a block: whether it is active, and whether every bound is certified (R166). -/
def pdRowBlock (s : State) (core : Nat) (x : Pd) (theta : Val) (row b : Nat) : Bool × Bool :=
  let xs := x.xVals s core row
  let mu := pdMargin s core x xs (rowCodes s core x.xscNone x.xsc x.h row)
  let vs := (upto 64).map (x.vRow s core)
  let r := vs.map (fun v => segSum (v.zip xs))
  let ts := (upto 32).map (fun j => pdScore s core x xs mu (normUp xs) vs r (32 * b + j))
  (ts.any (fun t => t.1 == .nan || Val.lt theta t.1),
   ts.all (fun t => t.2 != .nan && !Val.lt vZero t.2))

/-- The class of a block: 0 ACTIVE, 1 CERT, 2 UNCERT (R166). -/
def pdClass (s : State) (core : Nat) (x : Pd) (theta : Val) (b : Nat) : Nat :=
  let rs := (upto x.rows).map (fun i => pdRowBlock s core x theta i b)
  if x.zfloor ∧ rs.all (·.2) then 1 else if rs.any (·.1) then 0 else 2

/-- A predictor state record (Table 7.4). -/
structure PredState where
  q : Int
  warm : Nat
  en : Bool
  examined : Nat
  missed : Nat
  maxdrop : Nat
  missn : Nat
  audited : Nat
  deriving DecidableEq, Repr

/-- Reads a state record; `none` when its Q or a reserved bit is not allowed (R172). -/
def predStateOf (bs : Bytes) : Option PredState :=
  let v := leNat bs
  let q := (BitVec.ofNat 16 v).toInt
  if q < -4096 ∨ 4096 < q ∨ bitsOf v 21 11 ≠ 0 ∨ bitsOf v 192 320 ≠ 0 then none
  else
    some { q := q, warm := bitsOf v 16 4, en := bitAt v 20, examined := bitsOf v 32 32, missed := bitsOf v 64 32
           maxdrop := bitsOf v 96 32, missn := bitsOf v 128 32, audited := bitsOf v 160 32 }

/-- The bytes of a state record. -/
def predStateBytes (r : PredState) : Bytes :=
  leBytes 64 (pack [(0, (BitVec.ofInt 16 r.q).toNat), (16, r.warm), (20, b2n r.en), (32, r.examined), (64, r.missed),
    (96, r.maxdrop), (128, r.missn), (160, r.audited)])

/-- Packs the class map: two bits a block, 3 beyond FB (R168). -/
def classMap (cs : List Nat) : Bytes :=
  leBytes 64 (pack ((upto 256).map (fun b => (2 * b, nth 3 cs b))))

/-- The blocks of a class. -/
def codeBlocks (cs : List Nat) (c : Nat) : List Nat := (upto cs.length).filter (fun b => nth 3 cs b == c)

/-- The audited rows of the group (R170). -/
def auditRows (x : Pd) : List Nat := (upto x.rows).filter (fun i => (x.g0 + i) % 64 == 0)

/-- The output record (R168). -/
def pdRecord (x : Pd) (r : PredState) (cs : List Nat) : Bytes :=
  let main := if r.en then codeBlocks cs 0 else upto x.fb
  let make := if r.en then codeBlocks cs 2 else []
  let aud := auditRows x
  let slots := main ++ make
  leBytes 64 (pack [(0, main.length), (16, make.length), (32, (codeBlocks cs 1).length), (48, (codeBlocks cs 2).length),
    (57, b2n r.en), (58, b2n x.lossy), (64, (BitVec.ofInt 16 r.q).toNat), (80, aud.length), (88, aud.head?.getD 0xFF)]) ++
  (slots ++ List.replicate (256 - slots.length) 0).flatMap (leBytes 2) ++ classMap cs

/-- A command of a predictor unit fails; `s` holds what the failure leaves of its outputs (R172, R175). -/
def predFault (s : State) (core : Nat) (e : Entry) (code : BitVec 16) : State × Ended :=
  (report s (cmdReport code contextFatal e 3 (core / 32) []), .ended (faultOutcome code))

/-- The core remembers how many rows the record at OUT_ADDR is of: OP_MAKEUP is checked against it (R171; DESIGN CHOICE, log 105). -/
def notePred (s : State) (e : Entry) (core : Nat) (x : Pd) : State :=
  let q := getSeq s e.cid core
  setSeq s e.cid core { q with preds := (x.out, x.rows) :: q.preds.filter (fun r => r.1 != x.out) }

/-- PREDICT runs (R166, R168). -/
def runPredict (e : Entry) (x : Pd) (s : State) (core : Nat) : State × Ended :=
  match readUni s e.cid.part x.st 64 with
  | .error c => predFault (havocLs s core x.out 640) core e c
  | .ok bs =>
    match predStateOf bs with
    | none => predFault s core e Code.ePredState
    | some r =>
      let theta : Val := .num (decide (r.q < 0)) r.q.natAbs (-8)
      (notePred (writeLs s core x.out (pdRecord x r ((upto x.fb).map (pdClass s core x theta)))) e core x, .ended okOutcome)

/-- ρ_n of BOUND: an upper bound of the norm of W1_n − U_n·V (R167). -/
def rhoOf (s : State) (core : Nat) (x : Pd) (vs : List (List Val)) (i : Nat) : Nat :=
  let n := x.n0 + i
  let ws := x.xVals s core i
  let us := x.uRow s core n
  let diff := (ws.zipIdx).map (fun q => Val.add q.1 (exactDot us (vs.map (fun v => nth vZero v q.2))).neg)
  toF32 (boundUp n (normUp diff))

/-- BOUND runs. -/
def runBound (_e : Entry) (x : Pd) (s : State) (core : Nat) : State × Ended :=
  let vs := (upto 64).map (x.vRow s core)
  (writeLs s core (x.rho + 4 * x.n0) ((upto (32 * x.fb)).flatMap (fun i => leBytes 4 (rhoOf s core x vs i))), .ended okOutcome)

/-- A row of OP_PREDICT. -/
def pdRow (e : Entry) (bound : Bool) (run : Entry → Pd → State → Nat → State × Ended) : OpRow :=
  let x := pdOf e.desc
  { row := opcode e.desc == 0x0306 && x.bound == bound
    reserved := fld e.desc 393 119 != 0 || fmtReserved x.xFmt || fmtReserved x.wFmt
    classes := [0, 1]
    prep := pdPrep e x
    run := run e x }

/-- OP_PREDICT, PREDICT. -/
def execOpPredictPredict (e : Entry) (s : State) : Host.Outcome State Fault Refusal :=
  .next (issueCmd s e (pdRow e false runPredict))

/-- OP_PREDICT, BOUND. -/
def execOpPredictBound (e : Entry) (s : State) : Host.Outcome State Fault Refusal :=
  .next (issueCmd s e (pdRow e true runBound))

/-! ### OP_MAKEUP (R171, R172) -/

/-- The fields of OP_MAKEUP (Table 7.3). -/
structure Mk where
  pred : Nat
  e : Nat
  esc : Nat
  eLd : Nat
  erows : Nat
  fmt : Nat
  escNone : Bool
  target : Nat
  dexp : Nat
  close : Bool
  st : Nat
  deriving DecidableEq, Repr

/-- The fields of a descriptor. -/
def mkOf (d : Desc) : Mk :=
  { pred := fld d 64 24, e := fld d 88 24, esc := fld d 112 24, eLd := fld d 136 16, erows := fld d 152 9, fmt := fld d 161 4
    escNone := flag d 165, target := fld d 166 10, dexp := fld d 176 8, close := flag d 184, st := fld d 185 44 }

/-- What OP_MAKEUP takes from the group's output record: the columns of E, those of the examined blocks, and the number of audit rows
where those apply and not all rows. -/
structure MkPlan where
  cols : Nat
  starts : List Nat
  rows : Option Nat
  lossy : Bool
  deriving DecidableEq, Repr

/-- The blocks that a record asks to examine (R171). -/
def mkPlan (bs : Bytes) : MkPlan :=
  let h := leNat (bs.take 64)
  let nmain := bitsOf h 0 9
  let nmake := bitsOf h 16 9
  let cs := leNat ((bs.drop 576).take 64)
  if !bitAt h 57 then
    let fb := ((upto 256).filter (fun b => bitsOf cs (2 * b) 2 != 3)).length
    { cols := 32 * fb, starts := ((upto 256).filter (fun b => bitsOf cs (2 * b) 2 == 2)).map (32 * ·), rows := none, lossy := false }
  else if bitAt h 58 then
    { cols := 32 * nmake, starts := (upto nmake).map (32 * ·), rows := some (bitsOf h 80 8), lossy := true }
  else { cols := 32 * (nmain + nmake), starts := (upto nmake).map (fun j => 32 * (nmain + j)), rows := none, lossy := false }

/-- EROWS is the number of rows that applies (R171): the record's audit rows, or the group's ROWS, which are those of the OP_PREDICT that
wrote the record, 1–256; a record that none of this core's wrote does not tell them (DESIGN CHOICE, log 105). -/
def erowsOk (s : State) (e : Entry) (core : Nat) (x : Mk) (m : MkPlan) : Bool :=
  match m.rows with
  | some n => x.erows == n
  | none =>
    match (getSeq s e.cid core).preds.find? (fun r => r.1 == x.pred) with
    | some r => x.erows == r.2
    | none => x.erows != 0

/-- Block scales of E are stored. -/
def Mk.scaled (x : Mk) : Bool := isNarrow x.fmt && !x.escNone

/-- The checks of OP_MAKEUP after R10 (R69, R171). -/
def mkPrep (e : Entry) (x : Mk) (s : State) (core : Nat) : Prep :=
  if !(lsOk 64 x.pred 640 && uniOk s e.cid.part x.st 64) then rejectWith Code.eDescOperand
  else
    let m := mkPlan (readLs s core x.pred 640)
    let rowb := packedBytes x.fmt m.cols
    if !(stridedOk x.e x.erows rowb x.eLd false && (!x.scaled || lsOk 64 x.esc (x.erows * (m.cols / 32)))) then
      rejectWith Code.eDescOperand
    else if 256 < x.erows ∨ 9 < x.fmt ∨ x.target = 0 ∨ !erowsOk s e core x m then rejectWith Code.ePredShape
    else
      .go (lsRange x.pred 640 false ++ stridedRange x.e x.erows rowb x.eLd false ++
        (if x.scaled then lsRange x.esc (x.erows * (m.cols / 32)) false else []))

/-- A neuron is missed (R171). Whether a NaN counts is free: it has no magnitude to compare. -/
def isMissed (dexp : Nat) (v : Val) : Bool :=
  match v with
  | .nan => Config.nanMissed (BitVec.ofNat 8 dexp)
  | .inf _ => true
  | .num _ m e => m != 0 && !Val.lt (.num false m e) (.num false 1 ((dexp : Int) - 127))

/-- What the examined blocks hold: the missed values of each examined row and block. -/
def mkMissed (s : State) (core : Nat) (x : Mk) (m : MkPlan) : List (List Val) :=
  (upto x.erows).flatMap (fun r =>
    let vs := rowVals x.fmt (rowElems s core x.fmt x.e x.eLd m.cols r) (rowCodes s core (!x.scaled) x.esc m.cols r)
    m.starts.map (fun c => ((vs.drop c).take 32).filter (isMissed x.dexp)))

/-- The larger of an FP32 magnitude and some values' magnitudes; a NaN raises nothing. -/
def maxMag (a : Nat) (vs : List Val) : Nat :=
  toF32 (vs.foldl (fun m v => if v == .nan then m else if Val.lt m v.abs then v.abs else m) (ofF32 a))

/-- The tally of R171. -/
def mkTally (x : Mk) (m : MkPlan) (ms : List (List Val)) (r : PredState) : PredState :=
  let n := (ms.map (·.length)).sum
  { r with
    examined := (r.examined + ms.length) % 2 ^ 32
    missed := (r.missed + (ms.filter (fun b => !b.isEmpty)).length) % 2 ^ 32
    missn := min (r.missn + n) 0xFFFFFFFF
    maxdrop := if m.lossy then maxMag r.maxdrop (ms.flatMap id) else r.maxdrop
    audited := if m.lossy then min (r.audited + x.erows) 0xFFFFFFFF else r.audited }

/-- The loop update of CLOSE (R172). -/
def mkClose (target : Nat) (r : PredState) : PredState :=
  let q := if r.examined = 0 then r.q
    else if target * r.examined < r.missed * 1024 then max (r.q - 16) (-4096)
    else if r.missed * 2048 < target * r.examined then min (r.q + 4) 4096
    else r.q
  let r1 := { r with q := q, examined := 0, missed := 0, maxdrop := 0 }
  if r.examined = 0 ∨ r.en then r1
  else if r.warm = 15 then { r1 with en := true, warm := 0 }
  else { r1 with warm := r.warm + 1 }

/-- OP_MAKEUP runs: one atomic change of the record, and the die's counts. -/
def runMakeup (e : Entry) (x : Mk) (s : State) (core : Nat) : State × Ended :=
  match readUni s e.cid.part x.st 64 with
  | .error c => predFault (havocUni s e.cid.part x.st 64) core e c
  | .ok bs =>
    match predStateOf bs with
    | none => predFault s core e Code.ePredState
    | some r =>
      let m := mkPlan (readLs s core x.pred 640)
      let ms := mkMissed s core x m
      let r1 := mkTally x m ms r
      match writeUni s e.cid.part x.st (predStateBytes (if x.close then mkClose x.target r1 else r1)) with
      | .error c => predFault (havocUni s e.cid.part x.st 64) core e c
      | .ok t =>
        let d := getDie t (dieOf core)
        (setDie t (dieOf core) { d with
          npuMissn := satAdd d.npuMissn (ms.map (·.length)).sum
          npuExam := satAdd d.npuExam ms.length }, .ended okOutcome)

/-- The row of OP_MAKEUP. -/
def makeupRow (e : Entry) : OpRow :=
  let x := mkOf e.desc
  { row := opcode e.desc == 0x0307
    reserved := fld e.desc 229 283 != 0 || fmtReserved x.fmt
    classes := [0, 1]
    prep := mkPrep e x
    run := runMakeup e x }

/-- OP_MAKEUP (R171). -/
def execOpMakeup (e : Entry) (s : State) : Host.Outcome State Fault Refusal :=
  .next (issueCmd s e (makeupRow e))

end Sys2Proof.Machine
end

