-- ==== Sys2Proof/Machine/Reset.lean ====
section
/-! DEFINITION. Reset of the device (R440-R442, R452). -/

namespace Sys2Proof.Machine

/-- Records a refused access in GL_ACCESS_ERR (R443). -/
def recordRefusal (s : State) (port : RlPort) (offset : BitVec 26) (write : Bool) (reason : BitVec 4) : State :=
  let a := s.gl.accErr
  { s with gl := { s.gl with
    accErr := { offset := offset, port := port, write := write, reason := reason, count := satAdd a.count 1 } } }

/-- A refused access is recorded and reported on the issuing port's ring (R431, R443). -/
def accessRefused (s : State) (port : RlPort) (offset : BitVec 26) (write : Bool) (reason : BitVec 4) : State :=
  report (recordRefusal s port offset write reason) (portReport Code.eRegAccess port [])

/-- A write of GL_RESET: CONFIRM 0xA5 with KIND 1 asks for a reset 10 µs later; another value is counted (R440). `cause` is 2 or 3
for a port, 4 for device firmware, whose refused write has no port to record (a free value). -/
def resetWrite (s : State) (port : Option RlPort) (v : BitVec 32) : State :=
  if v.extractLsb' 8 8 = 0xA5#8 ∧ v.extractLsb' 0 8 = 1#8 then
    let cause : BitVec 3 := match port with | some p => if p = 0 then 2 else 3 | none => 4
    if s.gl.resetReq.isSome then s else { s with gl := { s.gl with resetReq := some (s.now + 10000, cause) } }
  else match port with
    | some p => accessRefused s p 0x10 true 4
    | none => recordRefusal (takeFree s 1) (Fin.ofNat 2 (Config.freeByte s.free).toNat) 0x10 true 4

/-- DEVICE_RESET_REQUEST; semaphore 0 guards GL_RESET. -/
def execDeviceResetRequest (port : RlPort) (value : BitVec 32) (s : State) : Host.Outcome State Fault Refusal :=
  .next (guarded s port 0 (fun t => resetWrite t (some port) value))

/-- The device in reset: everything is as after reset but the Meter Room, the companions' memory, what has been sent, the
scratch registers, the reset count and the levels of the input pins (R440-R442). -/
def enterReset (s : State) (cause : BitVec 3) : State :=
  let z := State.reset
  { z with
    pending := s.pending
    now := s.now
    free := s.free
    out := s.out
    comp := s.comp
    md := s.md
    gl := { z.gl with
      es := s.gl.es
      cause := cause
      resets := satAdd s.gl.resets 1
      scratch := s.gl.scratch
      inReset := true
      resetLow := s.gl.resetLow }
    pwr := { z.pwr with brakePin := s.pwr.brakePin }
    tap := s.tap }

/-- DEVICE_RESET: 10 µs after the request (R440). -/
def execDeviceReset (s : State) : Host.Outcome State Fault Refusal :=
  match s.gl.resetReq with
  | some (t, cause) => if t ≤ s.now then .next (enterReset s cause) else .next s
  | none => .next s

/-- RESET_N goes low (R452): CAUSE 1, and the scratch registers are cleared (R442). -/
def execResetN (s : State) : Host.Outcome State Fault Refusal :=
  let t := enterReset s 1
  .next { t with gl := { t.gl with scratch := [], resetLow := true } }

/-- An instruction that drives lands (R459). -/
def tapDrives : TapInstr → Bool
  | .extest | .extestPulse | .extestTrain | .clamp => true
  | .bypass | .samplePreload => false

/-- RESET_RELEASE: RESET_N is high, and rails and clocks have been good for 1 ms: the device leaves reset and boot waits for GO. A
boundary-scan instruction that drives lands stops driving (R452, R459). -/
def execResetRelease (s : State) : Host.Outcome State Fault Refusal :=
  if s.gl.inReset then
    .next { s with
      gl := { s.gl with inReset := false, resetLow := false }
      pwr := { s.pwr with resetAt := s.now }
      tap := if tapDrives s.tap then .bypass else s.tap }
  else .next s

/-- TAP_INSTRUCTION: the instructions that drive lands take effect only while RESET_N is low; otherwise they act as BYPASS
(R459). -/
def execTapInstruction (t : TapInstr) (s : State) : Host.Outcome State Fault Refusal :=
  if tapDrives t ∧ !s.gl.resetLow then .next { s with tap := .bypass } else .next { s with tap := t }

end Sys2Proof.Machine
end

