-- ==== Sys2Proof/Machine/Update.lean ====
section
/-! DEFINITION. Rolling update on the tray's Standby (R396, R397), and the completion of epoch marks (R338, R344). -/

namespace Sys2Proof.Machine

/-! ### XD_RES_PLAN (R396) -/

/-- The coordinate of a slot of the device's tray. -/
def trayCoord (s : State) (slot : Nat) : Coord := BitVec.ofNat 17 (s.sec.coord.toNat / 8 * 8 + slot)

/-- The protected contexts of a coordinate, as its mirror's MARK copies hold their descriptors. -/
def mirroredCtxs (s : State) (c : Coord) : List Nat :=
  (List.finRange 8).flatMap (fun p =>
    if (getRes s p).state = .prot then
      ((List.finRange 16).filter (fun x =>
        (Memory.read (getMirror s c p).mark (mirrorAt 2 (128 * CtxId.key ⟨p, x⟩)) 128).any (· != 0))).map (fun x => CtxId.key ⟨p, x⟩)
    else [])

/-- The contexts that run here for the coordinate served, in partitions under protection. -/
def actingCtxs (s : State) : List Nat :=
  (List.finRange 8).flatMap (fun p =>
    if (getRes s p).state = .off then []
    else ((List.finRange 16).filter (fun x => decide ((getCtx s ⟨p, x⟩).state = .ready))).map (fun x => CtxId.key ⟨p, x⟩))

/-- A request that breaks the conditions sets ERR and is reported (R396). -/
def planRefuse (s : State) (cmd : BitVec 2) (slot : BitVec 3) : State :=
  report { s with res := { s.res with plan := { cmd := cmd, slot := slot, err := true, left := s.res.plan.left } } }
    (devReport Code.eUpdatePlan deferred 19 0 [])

/-- The plan is done. -/
def planDone (s : State) : State := { s with res := { s.res with plan := { s.res.plan with done := true, left := none } } }

/-- TAKEOVER's turn has come: the Standby takes the slot's coordinate over with an empty replay. -/
def planTake (s : State) : State := planDone (takeOver s (trayCoord s s.res.plan.slot.toNat))

/-- The PARITY and MIRROR pages under protection: (partition, page). -/
def guardedPages (s : State) : List (PartI × Nat) :=
  (List.finRange 8).flatMap (fun p => ((getRes s p).table.flatMap ProtEntry.pages).map (fun i => (p, i)))

/-- A page's bytes; none where it cannot be read. -/
def pageBytes (s : State) (p : PartI) (i : Nat) : Bytes :=
  match places s p (pageAddr i) pageSize with
  | .ok l => readPlaces s l
  | .error _ => []

/-- HANDBACK copies the coordinate's PARITY and MIRROR pages to the slot. -/
def copyPages (s : State) (dst : Coord) : State :=
  (guardedPages s).foldl (fun t q => send t (.handback dst (pageAddr q.2) (pageBytes t q.1 q.2))) s

/-- The copy of a page that went out last. -/
def lastCopy (s : State) (dst : Coord) (a : Nat) : Bytes :=
  (s.out.filterMap (fun m => match m with | .handback d x bs => if d = dst ∧ x = a then some bs else none | _ => none)).getLastD []

/-- The pieces that have changed since their page was copied go again. -/
def copyDirty (s : State) (dst : Coord) : State :=
  (guardedPages s).foldl (fun t q =>
    let old := lastCopy s dst (pageAddr q.2)
    let new := pageBytes s q.1 q.2
    (upto 32).foldl (fun u j =>
      if cut old (65536 * j) 65536 = cut new (65536 * j) 65536 then u
      else send u (.handback dst (pageAddr q.2 + 65536 * j) (cut new (65536 * j) 65536))) t) s

/-- The contexts of a partition end here: the coordinate runs on in its own slot. -/
def leavePart (s : State) (p : PartI) : State :=
  let s1 := (List.finRange 16).foldl (fun t c =>
    setCtx t ⟨p, c⟩ { weight := (getCtx t ⟨p, c⟩).weight, high := (getCtx t ⟨p, c⟩).high }) s
  let s2 : State := { s1 with seqs := s1.seqs.filter (fun e => e.1 / 2048 != p.val) }
  let r := getRes s2 p
  setRes (setPart s2 p { getPart s2 p with resident := none, switching := none, highReturn := none }) p
    { r with state := .seeding, seeded := false, dirty := [], old := [], shadow := [] }

/-- HANDBACK's turn has come: the dirty pieces are sent, the slot takes the coordinate, and the Standby seeds again (R337, R396). -/
def planHand (s : State) : State :=
  let s1 := copyDirty s (trayCoord s s.res.plan.slot.toNat)
  let s2 : State := { s1 with fab := { s1.fab with acting := none }, res := { s1.res with tstate := 1, unrebuilt := [], demand := [] } }
  planDone (((List.finRange 8).filter (fun p => decide ((getRes s2 p).state ≠ .off))).foldl leavePart s2)

/-- A context's mark has completed: the last one that a plan waits for carries the plan out (R396). -/
def planMark (s : State) (c : CtxId) : State :=
  match s.res.plan.left with
  | none => s
  | some l =>
    let l1 := l.filter (· != CtxId.key c)
    let s1 : State := { s with res := { s.res with plan := { s.res.plan with left := some l1 } } }
    if l1 ≠ [] then s1 else if s.res.plan.cmd = 1 then planTake s1 else planHand s1

/-- A plan is taken on; one with no mark to wait for is carried out at once. -/
def planStart (s : State) (cmd : BitVec 2) (slot : BitVec 3) (left : List Nat) : State :=
  let s1 : State := { s with res := { s.res with plan := { cmd := cmd, slot := slot, left := some left } } }
  if left ≠ [] then s1 else if cmd = 1 then planTake s1 else planHand s1

/-- A write of XD_RES_PLAN. `slotReady` is that the slot's device is READY, `slotDetrev` its DETREV (R396, R397). -/
def planWrite (s : State) (v : BitVec 32) (slotReady : Bool) (slotDetrev : BitVec 8) : State :=
  let cmd := v.extractLsb' 0 2
  let slot := v.extractLsb' 2 3
  let c := trayCoord s slot.toNat
  match cmd.toNat with
  | 1 =>
    if s.res.role = 1 ∧ s.res.tstate = 2 ∧ slot.toNat < 4 ∧ s.fab.acting = none ∧ s.res.plan.left = none then
      planStart s cmd slot (mirroredCtxs s c)
    else planRefuse s cmd slot
  | 2 =>
    if s.fab.acting = some c ∧ slot.toNat < 4 ∧ slotReady ∧ slotDetrev = s.sec.detrev ∧ s.res.plan.left = none then
      planStart (copyPages s c) cmd slot (actingCtxs s)
    else planRefuse s cmd slot
  | _ => { s with res := { s.res with plan := { s.res.plan with cmd := cmd, slot := slot } } }

/-- PLAN_TAKEOVER; semaphore 18 guards the register (R434). -/
def execPlanTakeover (port : RlPort) (value : BitVec 32) (s : State) : Host.Outcome State Fault Refusal :=
  .next (guarded s port 18 (fun t => planWrite t value false 0))

/-- PLAN_HANDBACK: the same register. -/
def execPlanHandback (port : RlPort) (value : BitVec 32) (slotReady : Bool) (slotDetrev : BitVec 8) (s : State) :
    Host.Outcome State Fault Refusal :=
  .next (guarded s port 18 (fun t => planWrite t value slotReady slotDetrev))

/-! ### Completion of epoch marks -/

/-- EPOCH_MARK_AGREED: the agreement's result arrives, and the mark completes on every rank; on the protector, the mark has
completed on the actives (R338, R344; the protector's part has no row of its own, DESIGN CHOICE). A plan may wait for it (R396). -/
def execEpochMarkAgreed (cid : CtxId) (s : State) : Host.Outcome State Fault Refusal :=
  if protects s cid.part then (if unitsRun s then .next (planMark (protectorMark s cid.part) cid) else .next s)
  else
    match (getCtx s cid).markRun, s.colls.find? (fun k => k.cid == cid && decide (k.kind = .mark) && !k.done) with
    | some m, some k =>
      if unitsRun s ∧ (k.resAt 0).isSome then
        let k1 := { k with done := true }
        .next (planMark (progress (finishMark (putColl s k1) cid m) k1) cid)
      else .next s
    | _, _ => .next s

end Sys2Proof.Machine
end

