-- ==== Sys2Proof/Machine/Registers.lean ====
section
/-! DEFINITION. The registers of the set-up window (R430-R444, Table 20.9): where they stand, their access codes and
semaphores, and what a read returns. -/

namespace Sys2Proof.Machine

/-- The registers of Table 20.9. `d` is a compute die, `x` an exchange die, `p` a partition, `f` a fabric port, `r` a Ryutil
port, `i` a word of a long register. -/
inductive Reg where
  | glIdentity | glStepping | glReset | glResetCause | glAccessErr
  | glScratch (n : Fin 8) | glSem (n : Fin 32) | glSemLease | glSemExpired | glGuardErr
  | glGranSel | glGranOwn | glPartCfgErr
  | partCfg (p : PartI) | partCmd (p : PartI) | partStat (p : PartI) | partSave (p : PartI) | partSlice (p : PartI)
  | partBusy (p : PartI) | partIdle (p : PartI)
  | ctxSched (c : CtxId) | ctxCharge (c : CtxId) | ctxOverrun (c : CtxId) | ctxVt (c : CtxId)
  | lsCtrl (core : CoreI) | lsConflict (core : CoreI) | lsSb (core : CoreI) | lsSlotSel (core : CoreI) | lsSlotView (core : CoreI)
  | gsuStat (d : CDie) | gsuNanKey (d : CDie) | npuStat (d : CDie) | npuMissn (d : CDie) | npuExam (d : CDie)
  | memCe (d : CDie) | memUe (d : CDie) | memScrub (d : CDie) | cdRemap (d : CDie)
  | placeLast (x : XDie) | placeCount (x : XDie) | dsLast (x : XDie)
  | xchStat (x : XDie) | xchBp (x : XDie) | bpmFree (x : XDie) | bpmCfgErr (x : XDie) | cmbStat (x : XDie)
  | bpmRes (x : XDie) (p : PartI) | bpmUse (x : XDie) (p : PartI) | bpmSpill (x : XDie) (p : PartI) | bpmSpUse (x : XDie) (p : PartI)
  | colStat (x : XDie) | colResCorr (x : XDie) | colCrcRetry (x : XDie) | colWait (x : XDie)
  | ptSel (x : XDie) | ptView (x : XDie) | memSpill (x : XDie) | lpErr (x : XDie)
  | leaseErr | leaseLend (i : Fin 16) | leaseBorrow (j : Fin 16)
  | fpCtrl (f : FPort) | fpStat (f : FPort) | fpFec (f : FPort) | fpUncorr (f : FPort) | fpRetry (f : FPort)
  | fpLaneSel (f : FPort) | fpLaneView (f : FPort)
  | fabActing (x : XDie) | fabStale (x : XDie) | circErr (x : XDie) | circ (x : XDie) (c : Fin 8)
  | tagSel | tagBind | tagErr
  | msfStat (x : XDie) | msfBusy (x : XDie) | msfBackinv (x : XDie) | msfGw (x : XDie)
  | resCtrl | resHb | resRebuild | resOvrSel | resOvr | resInc | resPlan
  | resPcfg (p : PartI) | resPool (p : PartI) | resEpoch (p : PartI)
  | mtrStat | mtrNewest | mtrEvcnt | mtrSel | mtrRec (i : Fin 64) | mtrPubkey (i : Fin 8)
  | ftNow | ftStat | ftOffset | ftDelay | ftFreq | ftPpsCap | ftSet
  | bootDesc | bootCmd | bootStat | secFwver | secMseq | idPub (i : Fin 8) | tkPub (i : Fin 8)
  | attNonce (i : Fin 4) | attAddr | attCmd | attStat | keySel | keyAddr | keyCmd | keyStat
  | pwrStat | pwrNow | pwrBucket | pwrCap | pwrWeirCnt | pwrBrakeCnt | pwrPeak | pwrPin (p : PartI)
  | pwrQuadSel | pwrQuadView | pwrQuadDroop | pwrTempSel | pwrTempView | pwrRefresh
  | stCtrl | stCmd | stStat | stFail
  | ringBase (r : RlPort) | ringCfg (r : RlPort) | ringLine (r : RlPort) | ringStat (r : RlPort) | errLost (r : RlPort)
  | errSecondary (r : RlPort) | errCoal | errRisk | errRiskTh | errFatal0 | errFatal1
  | rlStat (r : RlPort) | rlCpn (r : RlPort) | rlCtxSel | rlCtxDesc | rlCtxCmd | rlCtxStat | rlCtxPos
  deriving DecidableEq, Repr

/-! ### Where the registers stand (Table 20.9) -/

/-- The registers of a partition's 1 KiB in the GL block (Table 14.6). -/
def partRegAt (p : PartI) (o : Nat) : Option Reg :=
  let c : CtxI := Fin.ofNat 16 (o % 0x80 / 8)
  match o with
  | 0x000 => some (.partCfg p)
  | 0x008 => some (.partCmd p)
  | 0x010 => some (.partStat p)
  | 0x018 => some (.partSave p)
  | 0x020 => some (.partSlice p)
  | 0x028 => some (.partBusy p)
  | 0x030 => some (.partIdle p)
  | _ =>
    if o % 8 ≠ 0 then none
    else if 0x040 ≤ o ∧ o < 0x0C0 then some (.ctxSched ⟨p, Fin.ofNat 16 ((o - 0x040) / 8)⟩)
    else if 0x0C0 ≤ o ∧ o < 0x140 then some (.ctxCharge ⟨p, Fin.ofNat 16 ((o - 0x0C0) / 8)⟩)
    else if 0x140 ≤ o ∧ o < 0x1C0 then some (.ctxOverrun ⟨p, Fin.ofNat 16 ((o - 0x140) / 8)⟩)
    else if 0x1C0 ≤ o ∧ o < 0x240 then some (.ctxVt ⟨p, c⟩)
    else none

/-- The GL block. -/
def glRegAt (o : Nat) : Option Reg :=
  match o with
  | 0x0000 => some .glIdentity
  | 0x0004 => some .glStepping
  | 0x0010 => some .glReset
  | 0x0018 => some .glResetCause
  | 0x0020 => some .glAccessErr
  | 0x0200 => some .glSemLease
  | 0x0208 => some .glSemExpired
  | 0x0210 => some .glGuardErr
  | 0x0400 => some .glGranSel
  | 0x0408 => some .glGranOwn
  | 0x0410 => some .glPartCfgErr
  | _ =>
    if o % 8 = 0 ∧ 0x0040 ≤ o ∧ o < 0x0080 then some (.glScratch (Fin.ofNat 8 ((o - 0x40) / 8)))
    else if o % 8 = 0 ∧ 0x0100 ≤ o ∧ o < 0x0200 then some (.glSem (Fin.ofNat 32 ((o - 0x100) / 8)))
    else if 0x1000 ≤ o ∧ o < 0x3000 then partRegAt (Fin.ofNat 8 ((o - 0x1000) / 0x400)) ((o - 0x1000) % 0x400)
    else none

/-- A compute die's block. -/
def cdRegAt (d : CDie) (o : Nat) : Option Reg :=
  match o with
  | 0xA0000 => some (.gsuStat d)
  | 0xA0008 => some (.gsuNanKey d)
  | 0xB0000 => some (.npuStat d)
  | 0xB0008 => some (.npuMissn d)
  | 0xB0010 => some (.npuExam d)
  | 0xC0000 => some (.memCe d)
  | 0xC0008 => some (.memUe d)
  | 0xC0010 => some (.memScrub d)
  | 0xD0000 => some (.cdRemap d)
  | _ =>
    if 0x80000 ≤ o ∧ o < 0x80800 then
      let core : CoreI := Fin.ofNat 128 (32 * d.val + (o - 0x80000) / 0x40)
      match (o - 0x80000) % 0x40 with
      | 0x00 => some (.lsCtrl core)
      | 0x08 => some (.lsConflict core)
      | 0x10 => some (.lsSb core)
      | 0x18 => some (.lsSlotSel core)
      | 0x20 => some (.lsSlotView core)
      | _ => none
    else none

/-- A fabric port's 256 bytes (Table 11.8). -/
def fpRegAt (f : FPort) (o : Nat) : Option Reg :=
  match o with
  | 0x00 => some (.fpCtrl f)
  | 0x08 => some (.fpStat f)
  | 0x10 => some (.fpFec f)
  | 0x18 => some (.fpUncorr f)
  | 0x20 => some (.fpRetry f)
  | 0x28 => some (.fpLaneSel f)
  | 0x30 => some (.fpLaneView f)
  | _ => none

/-- The registers that stand on XD0 only. -/
def xd0RegAt (o : Nat) : Option Reg :=
  match o with
  | 0x130020 => some .leaseErr
  | 0x143000 => some .tagSel
  | 0x143008 => some .tagBind
  | 0x143010 => some .tagErr
  | 0x160000 => some .resCtrl
  | 0x160008 => some .resHb
  | 0x160010 => some .resRebuild
  | 0x160018 => some .resOvrSel
  | 0x160020 => some .resOvr
  | 0x160028 => some .resInc
  | 0x160030 => some .resPlan
  | _ =>
    if 0x131000 ≤ o ∧ o < 0x131100 ∧ o % 0x10 = 0 then some (.leaseLend (Fin.ofNat 16 ((o - 0x131000) / 0x10)))
    else if 0x131100 ≤ o ∧ o < 0x131200 ∧ o % 0x10 = 0 then some (.leaseBorrow (Fin.ofNat 16 ((o - 0x131100) / 0x10)))
    else if 0x160100 ≤ o ∧ o < 0x160200 then
      let p : PartI := Fin.ofNat 8 ((o - 0x160100) / 0x20)
      match o % 0x20 with
      | 0x00 => some (.resPcfg p)
      | 0x08 => some (.resPool p)
      | 0x10 => some (.resEpoch p)
      | _ => none
    else none

/-- An exchange die's block. -/
def xdRegAt (x : XDie) (o : Nat) : Option Reg :=
  match o with
  | 0x100000 => some (.placeLast x)
  | 0x100008 => some (.placeCount x)
  | 0x100010 => some (.dsLast x)
  | 0x110000 => some (.xchStat x)
  | 0x110008 => some (.xchBp x)
  | 0x110010 => some (.bpmFree x)
  | 0x110018 => some (.bpmCfgErr x)
  | 0x110020 => some (.cmbStat x)
  | 0x120000 => some (.colStat x)
  | 0x120008 => some (.colResCorr x)
  | 0x120010 => some (.colCrcRetry x)
  | 0x120018 => some (.colWait x)
  | 0x130000 => some (.ptSel x)
  | 0x130008 => some (.ptView x)
  | 0x130010 => some (.memSpill x)
  | 0x130018 => some (.lpErr x)
  | 0x142000 => some (.fabActing x)
  | 0x142008 => some (.fabStale x)
  | 0x142010 => some (.circErr x)
  | 0x150000 => some (.msfStat x)
  | 0x150008 => some (.msfBusy x)
  | 0x150010 => some (.msfBackinv x)
  | 0x150018 => some (.msfGw x)
  | _ =>
    if 0x110100 ≤ o ∧ o < 0x110200 then
      let p : PartI := Fin.ofNat 8 ((o - 0x110100) / 0x20)
      match o % 0x20 with
      | 0x00 => some (.bpmRes x p)
      | 0x08 => some (.bpmUse x p)
      | 0x10 => some (.bpmSpill x p)
      | 0x18 => some (.bpmSpUse x p)
      | _ => none
    else if 0x140000 ≤ o ∧ o < 0x141200 then fpRegAt (Fin.ofNat 36 (18 * x.val + (o - 0x140000) / 0x100)) (o % 0x100)
    else if 0x142100 ≤ o ∧ o < 0x142140 ∧ o % 8 = 0 then some (.circ x (Fin.ofNat 8 ((o - 0x142100) / 8)))
    else if x = 0 then xd0RegAt o
    else none

/-- The MTR mirror (Table 16.11). -/
def mtrRegAt (o : Nat) : Option Reg :=
  match o with
  | 0x0000 => some .mtrStat
  | 0x0008 => some .mtrNewest
  | 0x0010 => some .mtrEvcnt
  | 0x0018 => some .mtrSel
  | _ =>
    if 0x200 ≤ o ∧ o < 0x400 ∧ o % 8 = 0 then some (.mtrRec (Fin.ofNat 64 ((o - 0x200) / 8)))
    else if 0x400 ≤ o ∧ o < 0x440 ∧ o % 8 = 0 then some (.mtrPubkey (Fin.ofNat 8 ((o - 0x400) / 8)))
    else none

/-- The FT block. -/
def ftRegAt (o : Nat) : Option Reg :=
  match o with
  | 0x00 => some .ftNow
  | 0x08 => some .ftStat
  | 0x10 => some .ftOffset
  | 0x18 => some .ftDelay
  | 0x20 => some .ftFreq
  | 0x28 => some .ftPpsCap
  | 0x30 => some .ftSet
  | _ => none

/-- The SEC block (Table 17.8). -/
def secRegAt (o : Nat) : Option Reg :=
  match o with
  | 0x0000 => some .bootDesc
  | 0x0008 => some .bootCmd
  | 0x0010 => some .bootStat
  | 0x0018 => some .secFwver
  | 0x0020 => some .secMseq
  | 0x0120 => some .attAddr
  | 0x0128 => some .attCmd
  | 0x0130 => some .attStat
  | 0x0200 => some .keySel
  | 0x0208 => some .keyAddr
  | 0x0210 => some .keyCmd
  | 0x0218 => some .keyStat
  | _ =>
    if o % 8 ≠ 0 then none
    else if 0x40 ≤ o ∧ o < 0x80 then some (.idPub (Fin.ofNat 8 ((o - 0x40) / 8)))
    else if 0x80 ≤ o ∧ o < 0xC0 then some (.tkPub (Fin.ofNat 8 ((o - 0x80) / 8)))
    else if 0x100 ≤ o ∧ o < 0x120 then some (.attNonce (Fin.ofNat 4 ((o - 0x100) / 8)))
    else none

/-- The PWR block (Table 18.7). -/
def pwrRegAt (o : Nat) : Option Reg :=
  match o with
  | 0x0000 => some .pwrStat
  | 0x0008 => some .pwrNow
  | 0x0010 => some .pwrBucket
  | 0x0018 => some .pwrCap
  | 0x0020 => some .pwrWeirCnt
  | 0x0028 => some .pwrBrakeCnt
  | 0x0030 => some .pwrPeak
  | 0x0100 => some .pwrQuadSel
  | 0x0108 => some .pwrQuadView
  | 0x0110 => some .pwrQuadDroop
  | 0x0200 => some .pwrTempSel
  | 0x0208 => some .pwrTempView
  | 0x0210 => some .pwrRefresh
  | 0x0300 => some .stCtrl
  | 0x0308 => some .stCmd
  | 0x0310 => some .stStat
  | 0x0318 => some .stFail
  | _ => if 0x40 ≤ o ∧ o < 0x80 ∧ o % 8 = 0 then some (.pwrPin (Fin.ofNat 8 ((o - 0x40) / 8))) else none

/-- The ERR block (Table 19.7). -/
def errRegAt (o : Nat) : Option Reg :=
  match o with
  | 0x100 => some .errCoal
  | 0x108 => some .errRisk
  | 0x110 => some .errRiskTh
  | 0x118 => some .errFatal0
  | 0x120 => some .errFatal1
  | _ =>
    if o < 0x80 then
      let r : RlPort := Fin.ofNat 2 (o / 0x40)
      match o % 0x40 with
      | 0x00 => some (.ringBase r)
      | 0x08 => some (.ringCfg r)
      | 0x10 => some (.ringLine r)
      | 0x18 => some (.ringStat r)
      | 0x20 => some (.errLost r)
      | 0x28 => some (.errSecondary r)
      | _ => none
    else none

/-- The RL block (Table 13.19). -/
def rlRegAt (o : Nat) : Option Reg :=
  match o with
  | 0x0000 => some (.rlStat 0)
  | 0x0008 => some (.rlStat 1)
  | 0x0010 => some (.rlCpn 0)
  | 0x0018 => some (.rlCpn 1)
  | 0x0100 => some .rlCtxSel
  | 0x0108 => some .rlCtxDesc
  | 0x0110 => some .rlCtxCmd
  | 0x0118 => some .rlCtxStat
  | 0x0120 => some .rlCtxPos
  | _ => none

/-- The register that begins at an offset of the window (Tables 20.1 and 20.9). -/
def regAt (o : Nat) : Option Reg :=
  if o < 0x1000000 then glRegAt o
  else if o < 0x2000000 then cdRegAt (Fin.ofNat 4 ((o - 0x1000000) / 0x400000)) ((o - 0x1000000) % 0x400000)
  else if o < 0x3000000 then xdRegAt (Fin.ofNat 2 ((o - 0x2000000) / 0x800000)) ((o - 0x2000000) % 0x800000)
  else if o < 0x3100000 then mtrRegAt (o - 0x3000000)
  else if o < 0x3200000 then ftRegAt (o - 0x3100000)
  else if o < 0x3300000 then secRegAt (o - 0x3200000)
  else if o < 0x3400000 then pwrRegAt (o - 0x3300000)
  else if o < 0x3500000 then errRegAt (o - 0x3400000)
  else if o < 0x3600000 then rlRegAt (o - 0x3500000)
  else none

/-! ### Widths, access codes and semaphores -/

/-- The register is 64 bits wide (R431). -/
def Reg.wide : Reg → Bool
  | .glAccessErr | .glScratch _ | .glSem _ | .partCfg _ | .partSave _ | .partBusy _ | .partIdle _
  | .ctxCharge _ | .ctxOverrun _ | .ctxVt _ | .lsSlotView _ | .cdRemap _ | .bpmSpill _ _ | .ptView _ | .leaseLend _ | .leaseBorrow _
  | .fpLaneView _ | .tagBind | .resOvr | .resPcfg _ | .resPool _ | .resEpoch _ | .mtrNewest | .mtrRec _ | .mtrPubkey _
  | .ftNow | .ftOffset | .ftFreq | .ftPpsCap | .ftSet | .bootDesc | .idPub _ | .tkPub _ | .attNonce _ | .attAddr | .keyAddr
  | .pwrBucket | .pwrQuadView | .ringBase _ | .ringLine _ | .errLost _ | .errFatal0 | .rlCtxDesc | .rlCtxPos => true
  | _ => false

/-- Access codes (Table 20.2); W1S stands only in fields of RW registers. -/
inductive AccCode where
  | ro | rw | wo | w1c | rc | sem
  deriving DecidableEq, Repr

/-- A register's access code (Table 20.9). -/
def Reg.code : Reg → AccCode
  | .glReset | .partCmd _ | .ftSet | .bootCmd | .attCmd | .keyCmd | .stCmd | .rlCtxCmd => .wo
  | .glSem _ => .sem
  | .glSemExpired => .w1c
  | .glAccessErr | .glGuardErr | .glPartCfgErr | .lsConflict _ | .gsuNanKey _ | .npuMissn _ | .npuExam _ | .memCe _ | .memUe _
  | .xchBp _ | .bpmCfgErr _ | .colResCorr _ | .colCrcRetry _ | .colWait _ | .memSpill _ | .lpErr _ | .leaseErr
  | .fpFec _ | .fpUncorr _ | .fpRetry _ | .fabStale _ | .circErr _ | .tagErr | .msfBusy _ | .msfBackinv _ | .msfGw _
  | .pwrWeirCnt | .pwrBrakeCnt | .pwrPeak | .pwrQuadDroop | .stFail | .errLost _ | .errSecondary _ => .rc
  | .glScratch _ | .glSemLease | .glGranSel | .glGranOwn | .partCfg _ | .partSave _ | .partSlice _ | .ctxSched _ | .lsSlotSel _
  | .bpmRes _ _ | .bpmSpill _ _ | .ptSel _ | .leaseLend _ | .leaseBorrow _ | .fpCtrl _ | .fpLaneSel _ | .circ _ _ | .tagSel | .tagBind
  | .resCtrl | .resOvrSel | .resPlan | .resPcfg _ | .resPool _ | .mtrSel | .bootDesc | .attNonce _ | .attAddr | .keySel | .keyAddr
  | .pwrCap | .pwrPin _ | .pwrQuadSel | .pwrTempSel | .stCtrl | .ringBase _ | .ringCfg _ | .ringLine _ | .errCoal | .errRiskTh
  | .rlCpn _ | .rlCtxSel | .rlCtxDesc => .rw
  | _ => .ro

/-- A 64-bit register whose access has side effects takes 8-byte accesses only (R432). -/
def Reg.sideEffect64 (r : Reg) : Bool := r.wide && (r.code == .rc || r.code == .sem || r.code == .w1c || r.code == .wo)

/-- The semaphore that a write needs (R434, Table 13.1). -/
def Reg.guard (r : Reg) : Option Nat :=
  if r.code = .ro then none
  else
    match r with
    | .glSem _ | .mtrSel => none
    | .partCfg p | .partCmd p | .partSave p | .partSlice p | .bpmRes _ p | .bpmSpill _ p | .resPcfg p | .resPool p | .pwrPin p =>
      some (6 + p.val)
    | .ctxSched c => some (6 + c.part.val)
    | .glReset | .glAccessErr | .glScratch _ | .glSemLease | .glSemExpired | .glGuardErr | .glGranSel | .glGranOwn | .glPartCfgErr => some 0
    | .lsConflict c | .lsSlotSel c => some (14 + c.val / 32)
    | .gsuNanKey d | .npuMissn d | .npuExam d | .memCe d | .memUe d => some (14 + d.val)
    | .xchBp x | .bpmCfgErr x | .colResCorr x | .colCrcRetry x | .colWait x | .ptSel x | .memSpill x | .lpErr x | .fabStale x
    | .circErr x | .circ x _ | .msfBusy x | .msfBackinv x | .msfGw x => some (18 + x.val)
    | .fpCtrl f | .fpFec f | .fpUncorr f | .fpRetry f | .fpLaneSel f => some (fpSem f)
    | .leaseErr | .leaseLend _ | .leaseBorrow _ | .tagSel | .tagBind | .tagErr | .resCtrl | .resOvrSel | .resPlan => some 18
    | .ftSet => some 3
    | .bootDesc | .bootCmd | .attNonce _ | .attAddr | .attCmd | .keySel | .keyAddr | .keyCmd => some 2
    | .pwrCap | .pwrWeirCnt | .pwrBrakeCnt | .pwrPeak | .pwrQuadSel | .pwrQuadDroop | .pwrTempSel | .stCtrl | .stCmd | .stFail => some 1
    | .ringBase _ | .ringCfg _ | .ringLine _ | .errLost _ | .errSecondary _ | .errCoal | .errRiskTh => some 4
    | .rlCpn _ | .rlCtxSel | .rlCtxDesc | .rlCtxCmd => some 5
    | _ => none

/-! ### Values -/

/-- Core-ns charged since the last account, of the resident context (R324). -/
def openCharge (s : State) (p : PartI) : Nat :=
  let q := getPart s p
  if q.resident.isSome then ncores q * (s.now - q.chargeStart) else 0

/-- Core-ns without a resident context since the last account. -/
def openIdle (s : State) (p : PartI) : Nat :=
  let q := getPart s p
  if q.resident.isNone ∧ q.switching.isNone ∧ q.state.counts then ncores q * (s.now - q.resEnd) else 0

/-- The open charge of a context. -/
def ctxOpen (s : State) (c : CtxId) : Nat := if isResident s c then openCharge s c.part else 0

/-- The value of a register of a partition or context (Tables 14.6 to 14.8). -/
def readPartReg (s : State) : Reg → Nat
  | .partCfg p => pack [(0, (getPart s p).quads.toNat), (32, (getPart s p).nctx1.toNat)]
  | .partStat p =>
    let q := getPart s p
    pack [(0, q.state.code), (3, b2n q.resident.isSome), (4, match q.resident with | some c => c.val | none => 0),
      (8, b2n q.switching.isSome), (16, q.ecode.toNat)]
  | .partSave p => (getPart s p).save.toNat
  | .partSlice p => (getPart s p).sliceUs.toNat
  | .partBusy p => (getPart s p).busy.toNat + openCharge s p
  | .partIdle p => (getPart s p).idle.toNat + openIdle s p
  | .ctxSched c => pack [(0, (getCtx s c).weight.toNat), (10, b2n (getCtx s c).high)]
  | .ctxCharge c => (getCtx s c).charge.toNat + ctxOpen s c
  | .ctxOverrun c => (getCtx s c).overrun.toNat
  | .ctxVt c =>
    let w := max 1 (min 1000 (getCtx s c).weight.toNat)
    (getCtx s c).vt.toNat + ctxOpen s c * 1000 / (w * max 1 (ncores (getPart s c.part)))
  | _ => 0

/-- The sequencer of the context resident on a core. -/
def coreSeq (s : State) (core : Nat) : Seq := match coreCtx s core with | some c => getSeq s c core | none => {}

/-- CAUSE of CD_LS_SB (Table 4.6): why the next command has stalled at issue, or that the core stands in a slot wait. -/
def sbCause (q : Seq) : BitVec 2 :=
  match q.block with
  | some b => if b.kind = .slotFull ∨ b.kind = .slotEmpty then 3 else q.stallCause
  | none => q.stallCause

/-- An OP_PREDICT or OP_MAKEUP in flight that has not completed. -/
def npuCmd (f : InFlight) : Bool := f.heldAt.isNone && (opcode f.entry.desc == 0x0306 || opcode f.entry.desc == 0x0307)

/-- Commands of a die's predictor. -/
def npuCount (s : State) (d : CDie) : Nat :=
  ((upto 32).map (fun i => ((coreSeq s (32 * d.val + i)).inflight.filter npuCmd).length)).sum

/-- The value of a compute die's register (Tables 4.4, 5.13, 7.5, 10.11, 18.7). -/
def readCdReg (s : State) : Reg → Nat
  | .lsCtrl core =>
    let d : CtxDesc := match coreCtx s core.val with | some c => (getCtx s c).desc | none => {}
    pack [(0, b2n d.strict), (8, d.confPct.toNat), (16, d.hangMs.toNat)]
  | .lsConflict core => (getCore s core.val).conflict.toNat
  | .lsSb core =>
    let q := coreSeq s core.val
    let cause := sbCause q
    pack [(0, min 63 (q.inflight.map (fun f => f.ranges.length)).sum), (6, min 15 q.flights), (10, b2n (cause != 0)), (11, cause.toNat)]
  | .lsSlotSel core => (getCore s core.val).slotSel.toNat
  | .lsSlotView core =>
    match coreCtx s core.val with
    | some c => slotBits (nth {} (getSeq s c core.val).slots (getCore s core.val).slotSel.toNat)
    | none => 0
  | .gsuStat d =>
    let x := getDie s d
    pack [(0, statesFree x), (15, b2n !x.waiting.isEmpty), (16, min 255 x.sessions.length)]
  | .gsuNanKey d => (getDie s d).nanKey.toNat
  | .npuStat d => pack [(0, b2n (decide (0 < npuCount s d))), (1, min 32 (npuCount s d - 1))]
  | .npuMissn d => (getDie s d).npuMissn.toNat
  | .npuExam d => (getDie s d).npuExam.toNat
  | .memCe d => (getDie s d).memCe.toNat
  | .memUe d => (getDie s d).memUe.toNat
  | .memScrub d => pack [(0, (getDie s d).scrubCellar.toNat), (10, (getDie s d).scrubHbm.toNat)]
  | .cdRemap d => (Tbl.get 0 s.sec.remap d.val).toNat
  | _ => 0

/-- Ranks still missing from the oldest count phase in progress, on a die. -/
def countsPending (s : State) (x : XDie) : Nat :=
  match s.xcmds.find? (fun c => !c.counted && !c.sink && decide (c.mode = .dispatch)) with
  | none => 0
  | some c => ((upto c.ndev).filter (fun r =>
      match findRank c r x with
      | some k => k.seqs.length != ceilDiv k.ncnt 9
      | none => true)).length

/-- A context's queue on some core begins with a command of some kind. -/
def someHead (s : State) (p : Entry → Nat → Bool) : Bool :=
  (upto 128).any (fun k => match (coreSeq s k).queue with | e :: _ => p e k | [] => false)

/-- An OP_COMBINE waits for a range of a die (R155, Table 6.14). -/
def waitsRange (s : State) (die : XDie) (e : Entry) (core : Nat) : Bool :=
  opcode e.desc == 0x0305 && (cmbOf e core).armedOn die.val && cmbWaits s (cmbOf e core)

/-- The kind of a collective command. -/
def collKindOf (op : Nat) : Option CollKind :=
  match op with
  | 0x0400 => some .reduce
  | 0x0401 => some .allreduce
  | 0x0402 => some .bcast
  | 0x0403 => some .allgather
  | _ => none

/-- A collective works on a die: XD0 has the even chunks, XD1 the odd ones (R178). -/
def onDie (die : XDie) (k : Coll) : Bool := die == 0 || decide (1 < k.nchunk)

/-- A collective waits at issue on a die (R193, Table 8.8). -/
def waitsColl (s : State) (die : XDie) (e : Entry) (core : Nat) : Bool :=
  (collKindOf (opcode e.desc)).any (fun k => onDie die (collOf s e core k) && collWaits s (collOf s e core k))

/-- STATE of a lend and of a borrow slot (Tables 10.8 and 10.9). -/
def LendState.code : LendState → Nat
  | .idle => 0
  | .offered => 1
  | .active => 2
  | .ending => 3
/-- STATE of a borrow slot. -/
def BorrowState.code : BorrowState → Nat
  | .idle => 0
  | .waiting => 1
  | .active => 2
  | .revoking => 3

/-- The value of an exchange die's register (Tables 5.13, 6.12, 8.7, 10.11, 12.6). -/
def readXdReg (s : State) : Reg → Nat
  | .placeLast x => pack [(0, (getXd s x).placeBand % 256), (8, (getXd s x).placeQuiet % 16), (16, (getXd s x).placeFlips % 65536)]
  | .placeCount x => pack [(0, (getXd s x).placeDecided % 32768), (15, (getXd s x).placeWc % 32768)]
  | .dsLast x => (getXd s x).dsLast % 2 ^ 21
  | .xchStat x =>
    pack [(0, min 8191 (entriesUsed s x)), (13, b2n (s.outs.any (waitsEntry s x))),
      (14, min 131071 (countsPending s x))]
  | .xchBp x => (getXd s x).xchBp.toNat
  | .bpmFree x => Sys2Proof.Machine.bpmFree (getXd s x)
  | .bpmCfgErr x => (getXd s x).bpmCfgErr.toNat
  | .cmbStat x => pack [(0, min 63 (armedRanges s x.val)), (6, b2n (someHead s (waitsRange s x)))]
  | .bpmRes x p => (bpmResOf (getXd s x) p.val)
  | .bpmUse x p => Tbl.get 0 (getXd s x).used p.val
  | .bpmSpill x p => (Tbl.get (0 : BitVec 64) (getXd s x).bpmSpill p.val).toNat
  | .bpmSpUse x p => Tbl.get 0 (getXd s x).spUsed p.val
  | .colStat x =>
    let n := (s.colls.filter (fun k => !k.done && onDie x k)).length
    let chunks := (s.colls.map (fun k => (k.outs.filter (fun o => o.sent && !o.acked && collDie o.chunk == x)).length)).sum
    pack [(0, min 127 n), (7, b2n (someHead s (waitsColl s x))), (8, min 1023 chunks)]
  | .colResCorr x => (getXd s x).colResCorr.toNat
  | .colCrcRetry x => (getXd s x).colCrcRetry.toNat
  | .colWait x => (getXd s x).colWait.toNat
  | .ptSel x => (Tbl.get (0 : BitVec 20) s.mem.ptSel x.val).toNat
  | .ptView x =>
    let i := (Tbl.get (0 : BitVec 20) s.mem.ptSel x.val).toNat
    if i < 712704 then pteBits (getPte s i) else 0
  | .memSpill x => (getXd s x).memSpill.toNat
  | .lpErr x => pack [(0, (getXd s x).lpRetry.toNat), (16, (getXd s x).lpUncorr.toNat)]
  | .leaseErr => s.mem.leaseErr.toNat
  | .leaseLend i =>
    let y := getLend s i.val
    pack [(0, b2n y.en), (1, b2n y.revoke), (2, y.state.code), (4, b2n y.medium), (8, y.borrower.toNat), (25, y.ngran.toNat),
      (30, y.gran0.toNat), (40, y.termS.toNat)]
  | .leaseBorrow j =>
    let y := getBorrow s j.val
    pack [(0, b2n y.en), (1, y.state.code), (4, y.lender.toNat), (21, y.lslot.val), (25, y.ngran.toNat), (30, y.part.val), (33, y.graceMs.toNat)]
  | .msfStat x => pack [(0, dirCount s x.val), (18, min 2047 (s.msf.order.filter (fun o => o.die == x)).length)]
  | .msfBusy x => (getXd s x).msfBusy.toNat
  | .msfBackinv x => (getXd s x).msfBackinv.toNat
  | .msfGw x => (getXd s x).msfGw.toNat
  | _ => 0

/-- Table 11.2's code of a port's state. -/
def PortState.code : PortState → Nat
  | .disabled => 0
  | .detect => 1
  | .train => 2
  | .align => 3
  | .negotiate => 4
  | .active => 5
  | .retrain => 6

/-- A circuit entry's word (Table 11.12). -/
def circBits (c : Circ) : Nat := pack [(0, b2n c.en), (1, b2n c.width), (2, c.inp.toNat), (7, c.outp.toNat), (12, c.endpt.toNat)]

/-- The value of a fabric register (Tables 11.8 to 11.12). -/
def readFabReg (s : State) : Reg → Nat
  | .fpCtrl f =>
    let x := getFp s f.val
    pack [(0, b2n x.en), (1, b2n x.kfp2), (2, x.preset.toNat), (5, b2n x.retrain), (6, x.swapTh.toNat)]
  | .fpStat f =>
    let x := getFp s f.val
    pack [(0, x.state.code), (3, if x.state = .active then (packetLanes s f.val).toNat else 0), (7, x.spare.toNat), (10, circUse s f.val), (12, x.minor.toNat)]
  | .fpFec f => (getFp s f.val).fec.toNat
  | .fpUncorr f => (getFp s f.val).uncorr.toNat
  | .fpRetry f => (getFp s f.val).retry.toNat
  | .fpLaneSel f => (getFp s f.val).laneSel.toNat
  | .fpLaneView f =>
    let x := getFp s f.val
    if x.laneSel.toNat < 5 then
      let l := Tbl.get ({} : Lane) x.lanes x.laneSel.toNat
      pack [(0, l.ctle.toNat), (4, l.cm2.toNat), (12, l.cm1.toNat), (20, l.cp1.toNat), (32, l.count.toNat)]
    else 0
  | .fabActing _ => match s.fab.acting with | some c => pack [(0, c.toNat), (17, 1)] | none => 0
  | .fabStale x => (getXd s x).fabStale.toNat
  | .circErr x => (getXd s x).circErr.toNat
  | .circ x c => circBits (Tbl.get {} s.fab.circs (8 * x.val + c.val))
  | .tagSel => s.tags.sel.toNat
  | .tagBind => bindBits (Tbl.get {} s.tags.binds s.tags.sel.toNat)
  | .tagErr => b2n s.tags.err
  | _ => 0

/-- STATE of XD_RES_PCFG_p (Table 15.12). -/
def RState.code : RState → Nat
  | .off => 0
  | .seeding => 1
  | .prot => 2
  | .exposed => 3

/-- The value of a resilience register (Tables 15.10 to 15.12, 17.8). -/
def readResReg (s : State) : Reg → Nat
  | .resCtrl =>
    pack [(0, s.res.mode.toNat), (2, s.res.role.toNat), (4, if s.res.mode = 1 then (trayStandby s).toNat else s.res.protector.toNat),
      (21, s.res.tstate.toNat)]
  | .resHb => s.res.heard.toNat
  | .resRebuild => s.res.unrebuilt.length % 2 ^ 24
  | .resOvrSel => s.res.ovrSel.val
  | .resOvr =>
    let o := Tbl.get {} s.res.ovr s.res.ovrSel.val
    pack [(0, o.logical.toNat), (17, o.physical.toNat), (34, b2n o.en)]
  | .resInc => (Tbl.get (0 : BitVec 8) s.fab.inc (servedCoord s).toNat).toNat
  | .resPlan => pack [(0, s.res.plan.cmd.toNat), (2, s.res.plan.slot.toNat), (5, b2n s.res.plan.done), (6, b2n s.res.plan.err)]
  | .resPcfg p => pack [(0, b2n (getRes s p).en), (1, (getRes s p).state.code), (4, (getRes s p).ptab.toNat)]
  | .resPool p => pack [(0, (getRes s p).poolBase.toNat), (44, (getRes s p).poolSize.toNat)]
  | .resEpoch p =>
    let r := getRes s p
    pack [(0, r.epoch.toNat), (32, (r.dirty.filter (·.dirty)).length % 2 ^ 24), (56, b2n r.retainLost)]
  | _ => 0

/-- A word of a long register. -/
def longWord (bs : Bytes) (i : Nat) : Nat := cutNat bs (8 * i) 8

/-- The newest mirrored record. -/
def newestRec (s : State) : Bytes := s.mtr.recs.headD []

/-- The least delay of the last exchanges, in ns. -/
def leastDelayNs (x : Ft) : Nat := (leastDelay x.delays / 65536).toNat

/-- A signed value in a register's bits. -/
def signedBits (w : Nat) (v : Int) : Nat := (v.emod (2 ^ w)).toNat

/-- The value of a register of the MTR mirror and of the FT block (Tables 16.11 to 16.13). -/
def readTimeReg (s : State) : Reg → Nat
  | .mtrStat =>
    let f := cutNat (newestRec s) 7 1
    pack [(0, b2n s.md.powered), (1, b2n (s.md.powered && alertPending s.md)), (2, bitsOf f 1 1), (3, bitsOf f 3 1), (4, b2n s.gl.es)]
  | .mtrNewest => cutNat (newestRec s) 8 8
  | .mtrEvcnt => cutNat (newestRec s) 16 4
  | .mtrSel => s.mtr.sel.toNat
  | .mtrRec i => longWord (s.mtr.recs.getD s.mtr.sel.toNat []) i.val
  | .mtrPubkey i => longWord meterPub i.val
  | .ftNow => s.ft.count.toNat
  | .ftStat => pack [(0, s.ft.state.code), (3, s.ft.plane.val), (4, s.ft.port.toNat), (16, s.ft.reject.toNat)]
  | .ftOffset => signedBits 64 s.ft.e
  | .ftDelay => leastDelayNs s.ft % 2 ^ 32
  | .ftFreq => signedBits 64 s.ft.f
  | .ftPpsCap => s.ft.ppsCap.toNat
  | _ => 0

/-- The value of a register of the SEC block (Tables 17.8 to 17.10). -/
def readSecReg (s : State) : Reg → Nat
  | .bootDesc => s.sec.bootDesc.toNat
  | .bootStat => pack [(0, s.sec.stage.toNat), (4, s.sec.bootPort.val), (5, b2n s.sec.source), (16, s.sec.ecode.toNat)]
  | .secFwver => s.sec.fwver.toNat
  | .secMseq => s.sec.mseq.toNat
  | .idPub i => if s.sec.keysMade then longWord ikPub i.val else 0
  | .tkPub i => if s.sec.keysMade then longWord Sys2Proof.Machine.tkPub i.val else 0
  | .attNonce i => bitsOf s.sec.nonce.toNat (64 * i.val) 64
  | .attAddr => s.sec.attAddr.toNat
  | .attStat => pack [(1, b2n s.sec.attDone), (2, b2n s.sec.attFail)]
  | .keySel => s.sec.keySel.val
  | .keyAddr => s.sec.keyAddr.toNat
  | .keyStat =>
    let k := getKey s s.sec.keySel
    pack [(0, b2n k.valid), (1, k.part.val), (5, s.sec.keyErr.toNat)]
  | _ => 0

/-- LIMIT of PWR_STAT (Table 18.8). -/
def limitCode (w : Pwr) : Nat :=
  if w.cap.toNat < bucketLevel w then 3 else if w.h2 then 2 else if w.h1 then 1 else 0

/-- The value of a register of the PWR block (Tables 18.7 and 18.8). -/
def readPwrReg (s : State) : Reg → Nat
  | .pwrStat =>
    let w := s.pwr
    pack [(0, limitCode w), (2, b2n w.h1), (3, b2n w.h2), (4, b2n w.brakeInt), (5, b2n w.brakePin), (6, w.fc.toNat), (13, w.duty.toNat),
      (15, b2n (thermAlert s))]
  | .pwrNow => meanOf s.pwr 1000 % 65536
  | .pwrBucket => pack [(0, s.pwr.b1 % 2 ^ 32), (32, s.pwr.b2 % 2 ^ 32)]
  | .pwrCap => s.pwr.cap.toNat
  | .pwrWeirCnt => s.pwr.weirCnt.toNat
  | .pwrBrakeCnt => s.pwr.brakeCnt.toNat
  | .pwrPeak => s.pwr.peak.toNat
  | .pwrPin p => pack [(0, (getPart s p).pinStep.toNat), (7, b2n (getPart s p).pinEn)]
  | .pwrQuadSel => s.pwr.quadSel.toNat
  | .pwrQuadView =>
    let q := s.pwr.quadSel.toNat
    let x := getQuad s q
    pack [(0, quadStep s q), (7, x.tc.toNat), (14, signedBits 10 (quadVolt x (quadStep s q))), (24, signedBits 7 x.droopOff), (31, x.age), (38, quadAk x)]
  | .pwrQuadDroop => (getQuad s s.pwr.quadSel.toNat).droopCnt.toNat
  | .pwrTempSel => s.pwr.tempSel.toNat
  | .pwrTempView =>
    let k := s.pwr.tempSel.toNat
    if k < 46 then pack [(0, (getSens s k).temp.toNat), (16, b2n (getSens s k).throttle), (17, b2n (getSens s k).alert)] else 0
  | .pwrRefresh => ((upto 12).map (fun k => (refreshOf s k).toNat * 4 ^ k)).sum
  | .stCtrl => s.pwr.periodH.toNat
  | .stStat => ((upto 32).map (fun q => if testPending s q then 2 ^ q else 0)).sum
  | .stFail => s.pwr.stFail.toNat
  | _ => 0

/-- The value of a register of the ERR and RL blocks (Tables 13.19 to 13.21, 19.7, 19.8). -/
def readErrReg (s : State) : Reg → Nat
  | .ringBase r => (getRing s r).base.toNat
  | .ringCfg r => pack [(0, (getRing s r).log2.toNat), (5, b2n (getRing s r).en)]
  | .ringLine r => (getRing s r).line.toNat
  | .ringStat r =>
    let g := getRing s r
    pack [(0, b2n g.enabled), (1, b2n g.bad), (2, min 255 g.hold.length), (10, min 127 g.coal.length)]
  | .errLost r => pack [(0, (getRing s r).lostCorr.toNat), (32, (getRing s r).lostDef.toNat)]
  | .errSecondary r => (getRing s r).secondary.toNat
  | .errCoal => s.err.coalUs.toNat
  | .errRisk => s.err.risk.toNat
  | .errRiskTh => s.err.riskTh.toNat
  | .errFatal0 => pack [(0, s.err.fatalCode.toNat), (32, s.err.fatalTime.toNat % 2 ^ 32)]
  | .errFatal1 => s.err.fatalTime.toNat / 2 ^ 32
  | .rlStat r =>
    let w := (allCtxs.filter (fun c => (getCtx s c).watched && (getCtx s c).desc.rport == r)).length
    pack [(0, (getRl s r).state.toNat), (2, (getRl s r).lanes.toNat), (6, w)]
  | .rlCpn r => pack [(0, b2n (getRl s r).cpnEn), (1, (getRl s r).cpnJtag.toNat)]
  | .rlCtxSel => s.rl.ctxSel.toNat
  | .rlCtxDesc => s.rl.ctxDesc.toNat
  | .rlCtxStat =>
    let c := selectedCtx s
    let x := getCtx s c
    pack [(0, x.state.code), (3, b2n (isResident s c)), (16, if x.state = .faulted then x.ecode.toNat else 0)]
  | .rlCtxPos => pack [(0, (shownHead s (selectedCtx s)).toNat), (32, (getCtx s (selectedCtx s)).cplTail.toNat)]
  | _ => 0

/-- The value of a global register (Tables 20.4 to 20.7, 13.2, 13.3, 14.6, 14.7). -/
def readGlReg (s : State) (who : Option RlPort) : Reg → Nat
  | .glIdentity => identityWord
  | .glStepping => steppingWord s
  | .glResetCause => pack [(0, s.gl.cause.toNat), (16, s.gl.resets.toNat)]
  | .glAccessErr =>
    let a := s.gl.accErr
    pack [(0, a.offset.toNat), (26, a.port.val), (27, b2n a.write), (28, a.reason.toNat), (32, a.count.toNat)]
  | .glScratch n => (Tbl.get (0 : BitVec 64) s.gl.scratch n.val).toNat
  | .glSem n => semWord s who n.val
  | .glSemLease => s.gl.semLease.toNat
  | .glSemExpired => s.gl.semExpired.toNat
  | .glGuardErr => pack [(0, s.gl.guardErr0.toNat), (16, s.gl.guardErr1.toNat)]
  | .glGranSel => s.gl.granSel.toNat
  | .glGranOwn =>
    if s.gl.granSel.toNat < 1136 then
      let g := getGran s s.gl.granSel.toNat
      pack [(0, g.part.val), (3, b2n g.owned), (4, b2n g.zeroing), (5, b2n g.lent)]
    else 0
  | .glPartCfgErr => s.gl.partCfgErr.toNat
  | _ => 0

/-- The kind of a register: which block's function reads it. -/
inductive RegKind where
  | gl | part | cd | xd | fab | res | time | sec | pwr | err
  deriving DecidableEq, Repr

/-- The kind. -/
def Reg.kind : Reg → RegKind
  | .partCfg _ | .partCmd _ | .partStat _ | .partSave _ | .partSlice _ | .partBusy _ | .partIdle _ | .ctxSched _ | .ctxCharge _
  | .ctxOverrun _ | .ctxVt _ => .part
  | .lsCtrl _ | .lsConflict _ | .lsSb _ | .lsSlotSel _ | .lsSlotView _ | .gsuStat _ | .gsuNanKey _ | .npuStat _ | .npuMissn _ | .npuExam _
  | .memCe _ | .memUe _ | .memScrub _ | .cdRemap _ => .cd
  | .placeLast _ | .placeCount _ | .dsLast _ | .xchStat _ | .xchBp _ | .bpmFree _ | .bpmCfgErr _ | .cmbStat _ | .bpmRes _ _ | .bpmUse _ _
  | .bpmSpill _ _ | .bpmSpUse _ _ | .colStat _ | .colResCorr _ | .colCrcRetry _ | .colWait _ | .ptSel _ | .ptView _ | .memSpill _ | .lpErr _
  | .leaseErr | .leaseLend _ | .leaseBorrow _ | .msfStat _ | .msfBusy _ | .msfBackinv _ | .msfGw _ => .xd
  | .fpCtrl _ | .fpStat _ | .fpFec _ | .fpUncorr _ | .fpRetry _ | .fpLaneSel _ | .fpLaneView _ | .fabActing _ | .fabStale _ | .circErr _
  | .circ _ _ | .tagSel | .tagBind | .tagErr => .fab
  | .resCtrl | .resHb | .resRebuild | .resOvrSel | .resOvr | .resInc | .resPlan | .resPcfg _ | .resPool _ | .resEpoch _ => .res
  | .mtrStat | .mtrNewest | .mtrEvcnt | .mtrSel | .mtrRec _ | .mtrPubkey _ | .ftNow | .ftStat | .ftOffset | .ftDelay | .ftFreq
  | .ftPpsCap | .ftSet => .time
  | .bootDesc | .bootCmd | .bootStat | .secFwver | .secMseq | .idPub _ | .tkPub _ | .attNonce _ | .attAddr | .attCmd | .attStat | .keySel
  | .keyAddr | .keyCmd | .keyStat => .sec
  | .pwrStat | .pwrNow | .pwrBucket | .pwrCap | .pwrWeirCnt | .pwrBrakeCnt | .pwrPeak | .pwrPin _ | .pwrQuadSel | .pwrQuadView
  | .pwrQuadDroop | .pwrTempSel | .pwrTempView | .pwrRefresh | .stCtrl | .stCmd | .stStat | .stFail => .pwr
  | .ringBase _ | .ringCfg _ | .ringLine _ | .ringStat _ | .errLost _ | .errSecondary _ | .errCoal | .errRisk | .errRiskTh | .errFatal0
  | .errFatal1 | .rlStat _ | .rlCpn _ | .rlCtxSel | .rlCtxDesc | .rlCtxCmd | .rlCtxStat | .rlCtxPos => .err
  | _ => .gl

/-- The value of a register, before an access that clears it or takes it. -/
def readReg (s : State) (who : Option RlPort) (r : Reg) : BitVec 64 :=
  BitVec.ofNat 64 (match r.kind with
    | .gl => readGlReg s who r
    | .part => readPartReg s r
    | .cd => readCdReg s r
    | .xd => readXdReg s r
    | .fab => readFabReg s r
    | .res => readResReg s r
    | .time => readTimeReg s r
    | .sec => readSecReg s r
    | .pwr => readPwrReg s r
    | .err => readErrReg s r)

/-- What a read of 4 or 8 bytes at an offset returns (R430-R432). -/
def readWindow (s : State) (who : Option RlPort) (o : Nat) (wide : Bool) : BitVec 64 :=
  let low := fun (k : Nat) => match regAt k with | some r => (readReg s who r).toNat % 2 ^ 32 | none => 0
  let v := match regAt o with
    | some r =>
      if r = .glIdentity ∧ wide then low 0 + 2 ^ 32 * low 4
      else if wide then (readReg s who r).toNat
      else low o
    | none =>
      if wide then 0
      else if o % 8 = 4 then
        match regAt (o - 4) with
        | some r => if r.wide then (readReg s who r).toNat / 2 ^ 32 else 0
        | none => 0
      else 0
  BitVec.ofNat 64 v

end Sys2Proof.Machine
end

