-- ==== Sys2Proof/Machine/RegWrite.lean ====
section
/-! DEFINITION. Writes of the set-up registers, reads that clear, refused accesses, and device firmware's accesses through space 4
(R429-R444). -/

namespace Sys2Proof.Machine

/-! ### The effect of a write -/

/-- An answer from outside that a row of its own carries as an operand and a plain register write does not: a free value. -/
def outsideSays (s : State) : Bool := (Config.freeByte s.free).getLsbD 0

/-- A write of a global register (Tables 20.4, 13.3, 14.6). -/
def writeGlReg (s : State) (who : Option RlPort) (v : BitVec 64) : Reg → State
  | .glReset => resetWrite s who (v.setWidth 32)
  | .glScratch n => { s with gl := { s.gl with scratch := Tbl.set 0 s.gl.scratch n.val v } }
  | .glSem n => match who with | some p => semReleaseWrite s p n.val v | none => s
  | .glSemLease => { s with gl := { s.gl with semLease := BitVec.ofNat 14 (clamp 1 10000 (bitsOf v.toNat 0 14)) } }
  | .glSemExpired => { s with gl := { s.gl with semExpired := s.gl.semExpired &&& ~~~(v.setWidth 32) } }
  | .glGranSel => { s with gl := { s.gl with granSel := v.setWidth 11 } }
  | .glGranOwn => granOwnWrite s (v.setWidth 32)
  | _ => s

/-- A write of a partition's or context's register (Table 14.6, R332). -/
def writePartReg (s : State) (v : BitVec 64) : Reg → State
  | .partCfg p =>
    if (getPart s p).state = .absent then
      setPart s p { getPart s p with quads := v.setWidth 32, nctx1 := v.extractLsb' 32 4 }
    else cfgErr s p
  | .partCmd p =>
    match (v.setWidth 32).toNat with
    | 1 => activate s p
    | 2 => dissolve s p
    | _ => s
  | .partSave p => if (getPart s p).state = .absent then setPart s p { getPart s p with save := v.setWidth 44 } else cfgErr s p
  | .partSlice p => setPart s p { getPart s p with sliceUs := BitVec.ofNat 17 (clamp 100 100000 (bitsOf v.toNat 0 17)) }
  | .ctxSched c => setCtx s c { getCtx s c with weight := v.setWidth 10, high := v.getLsbD 10 }
  | _ => s

/-- A write of a register of a compute or exchange die (Tables 4.4, 6.12, 10.11). -/
def writeDieReg (s : State) (v : BitVec 64) : Reg → State
  | .lsSlotSel c => setCore s c.val { getCore s c.val with slotSel := v.setWidth 6 }
  | .bpmRes x p => writeRes s x p (v.setWidth 32)
  | .bpmSpill x p => writeSpill s x p v
  | .ptSel x => { s with mem := { s.mem with ptSel := Tbl.set 0 s.mem.ptSel x.val (v.setWidth 20) } }
  | .leaseLend i => lendWrite s i.val v
  | .leaseBorrow j => borrowWrite s j v
  | _ => s

/-- A write of a fabric register (Table 11.8). -/
def writeFabReg (s : State) (v : BitVec 64) : Reg → State
  | .fpCtrl f => fpCtrlWrite s f.val (v.setWidth 32)
  | .fpLaneSel f => setFp s f.val { getFp s f.val with laneSel := v.setWidth 3 }
  | .circ x c => circWrite s x c (v.setWidth 32)
  | .tagSel => { s with tags := { s.tags with sel := v.setWidth 7 } }
  | .tagBind => tagWrite s v
  | _ => s

/-- A tray mode that begins enables each partition whose EN was set while the tray was not protected, as a write of EN does. -/
def enableAgain (s : State) (p : PartI) : State :=
  let r := getRes s p
  if r.en ∧ r.state = .off then
    pcfgWrite (takeFree s 1) p (BitVec.ofNat 64 (pack [(0, 1), (4, r.ptab.toNat)])) (outsideSays s) (protectorCert s)
  else s

/-- A write of XD_RES_CTRL: MODE and PROTECTOR (Table 15.11); OFF ends the tray's protection, and the reserved mode is ignored.
A partition keeps EN while the mode is OFF. -/
def resCtrlWrite (s0 : State) (v : BitVec 64) : State :=
  let mode := v.extractLsb' 0 2
  let s : State := { s0 with res := { s0.res with protector := v.extractLsb' 4 17 } }
  if mode = 3 then s
  else if mode = 0 then
    let t := (List.finRange 8).foldl (fun t p => setRes t p { (getRes t p).off with en := (getRes t p).en }) s
    { t with res := { t.res with mode := 0, tstate := 0 } }
  else
    let t : State := { s with res := { s.res with mode := mode } }
    if s.res.mode = 0 then (List.finRange 8).foldl enableAgain t else t

/-- A write of a resilience register (Tables 15.10 and 17.8). XD_RES_OVR is device firmware's to write (R357). -/
def writeResReg (s : State) (who : Option RlPort) (v : BitVec 64) : Reg → State
  | .resCtrl => resCtrlWrite s v
  | .resOvrSel => { s with res := { s.res with ovrSel := Fin.ofNat 64 v.toNat } }
  | .resOvr =>
    match who with
    | some _ => s
    | none =>
      let o : Override := { logical := v.extractLsb' 0 17, physical := v.extractLsb' 17 17, en := v.getLsbD 34 }
      { s with res := { s.res with ovr := Tbl.set {} s.res.ovr s.res.ovrSel.val o } }
  | .resPlan => planWrite (takeFree s 1) (v.setWidth 32) (outsideSays s) s.sec.detrev
  | .resPcfg p => pcfgWrite (takeFree s 1) p v (outsideSays s) (protectorCert s)
  | .resPool p => setRes s p { getRes s p with poolBase := v.extractLsb' 0 44, poolSize := v.extractLsb' 44 20 }
  | _ => s

/-- A write of a register of the MTR, FT and SEC blocks (Tables 16.11 and 17.8). -/
def writeSecReg (s : State) (who : Option RlPort) (v : BitVec 64) : Reg → State
  | .mtrSel => { s with mtr := { s.mtr with sel := v.setWidth 6 } }
  | .ftSet => ftSetWrite s v
  | .bootDesc => { s with sec := { s.sec with bootDesc := v } }
  | .bootCmd => bootCmdWrite s (who.getD 0) (v.setWidth 32)
  | .attNonce i =>
    let n := s.sec.nonce.toNat
    let old := bitsOf n (64 * i.val) 64
    { s with sec := { s.sec with nonce := BitVec.ofNat 256 (n - old * 2 ^ (64 * i.val) + v.toNat * 2 ^ (64 * i.val)) } }
  | .attAddr => { s with sec := { s.sec with attAddr := v } }
  | .attCmd => attCmdWrite (takeFree s 1) (who.getD 0) (v.setWidth 32) (outsideSays s)
  | .keySel => { s with sec := { s.sec with keySel := Fin.ofNat 128 v.toNat } }
  | .keyAddr => { s with sec := { s.sec with keyAddr := v } }
  | .keyCmd => keyCmdWrite s (who.getD 0) (v.setWidth 32)
  | _ => s

/-- A write of a register of the PWR block (Table 18.7). -/
def writePwrReg (s : State) (v : BitVec 64) : Reg → State
  | .pwrCap => { s with pwr := { s.pwr with cap := BitVec.ofNat 12 (clamp 1200 2400 (bitsOf v.toNat 0 12)) } }
  | .pwrPin p => pinWrite s p (v.setWidth 32)
  | .pwrQuadSel => { s with pwr := { s.pwr with quadSel := v.setWidth 5 } }
  | .pwrTempSel => { s with pwr := { s.pwr with tempSel := v.setWidth 6 } }
  | .stCtrl => { s with pwr := { s.pwr with periodH := BitVec.ofNat 8 (clamp 1 168 (bitsOf v.toNat 0 8)) } }
  | .stCmd => stCmdWrite s (v.setWidth 32)
  | _ => s

/-- RL_CPN_p written: EN and the JTAG of the companion's requests (Table 13.19). A new JTAG is a new requester, so the port's sequence
numbers begin again (R275; DESIGN CHOICE, log 102). -/
def cpnWrite (s : State) (r : RlPort) (en : Bool) (jtag : BitVec 16) : State :=
  let seqs := if (getRl s r).cpnJtag = jtag then s.msf.seqs else s.msf.seqs.filter (fun e => e.1 / 2 ^ 19 != 128 + r.val)
  setRl { s with msf := { s.msf with seqs := seqs } } r { getRl s r with cpnEn := en, cpnJtag := jtag }

/-- A write of a register of the ERR and RL blocks (Tables 13.19 and 19.7). -/
def writeErrReg (s : State) (who : Option RlPort) (v : BitVec 64) : Reg → State
  | .ringBase r => ringRecheck (setRing s r { getRing s r with base := v }) r
  | .ringCfg r => ringCfgWrite s r (v.setWidth 32)
  | .ringLine r => ringRecheck (setRing s r { getRing s r with line := v }) r
  | .errCoal => { s with err := { s.err with coalUs := BitVec.ofNat 16 (max 1 (bitsOf v.toNat 0 16)) } }
  | .errRiskTh => { s with err := { s.err with riskTh := v.setWidth 32 } }
  | .rlCpn r => cpnWrite s r (v.getLsbD 0) (v.extractLsb' 1 16)
  | .rlCtxSel => { s with rl := { s.rl with ctxSel := v.setWidth 7 } }
  | .rlCtxDesc => { s with rl := { s.rl with ctxDesc := v } }
  | .rlCtxCmd =>
    match (v.setWidth 32).toNat with
    | 1 => bringup (takeFree s 1) (who.getD 0) (outsideSays s)
    | 2 => teardownReq s
    | _ => s
  | _ => s

/-- A write of a whole register (R433). `who` is the port, none for device firmware. -/
def writeReg (s : State) (who : Option RlPort) (r : Reg) (v : BitVec 64) : State :=
  match r.kind with
  | .gl => writeGlReg s who v r
  | .part => writePartReg s v r
  | .cd | .xd => writeDieReg s v r
  | .fab => writeFabReg s v r
  | .res => writeResReg s who v r
  | .time | .sec => writeSecReg s who v r
  | .pwr => writePwrReg s v r
  | .err => writeErrReg s who v r

/-! ### Accesses -/

/-- An access of 4 or 8 bytes is aligned to its size (R431). -/
def aligned (o : Nat) (wide : Bool) : Bool := if wide then o % 8 == 0 else o % 4 == 0

/-- The register that an aligned access of 4 or 8 bytes reaches, and whether it reaches its upper half only. -/
def regHit (o : Nat) (wide : Bool) : Option (Reg × Bool) :=
  match regAt o with
  | some r => some (r, false)
  | none =>
    if wide ∨ o % 8 ≠ 4 then none
    else match regAt (o - 4) with
      | some r => if r.wide then some (r, true) else none
      | none => none

/-- The value that a write gives the whole register: a narrow write of a wide register changes one half. -/
def mergeValue (s : State) (who : Option RlPort) (r : Reg) (upper wide : Bool) (v : BitVec 64) : BitVec 64 :=
  if !r.wide then v.setWidth 32 |>.setWidth 64
  else if wide then v
  else
    let old := readReg s who r
    let half : BitVec 64 := (v.setWidth 32).setWidth 64
    if upper then (half <<< 32) ||| (old &&& 0xFFFFFFFF#64) else half ||| (old &&& 0xFFFFFFFF00000000#64)

/-- A port's write under the register's guard (R292, R434). -/
def portWrite (s : State) (port : RlPort) (o : Nat) (wide : Bool) (v : BitVec 64) (r : Reg) (upper : Bool) : State :=
  let f := fun (t : State) => writeReg t (some port) r (mergeValue t (some port) r upper wide v)
  if !wide && r.sideEffect64 then accessRefused s port (BitVec.ofNat 26 o) true 2
  else
    match r.guard with
    | some n => guarded s port n f
    | none => if r.code = .ro then s else f s

/-- Before stage 7 only the boot registers and GL_SEM_2 take writes (R386, R437). -/
def bootWrite (s : State) (port : RlPort) (wide : Bool) (v : BitVec 64) (r : Reg) (upper : Bool) : State :=
  match r with
  | .bootDesc | .bootCmd =>
    guardedBoot s port (fun t => writeReg t (some port) r (mergeValue t (some port) r upper wide v))
  | .glSem n => if n = 2 ∧ wide ∧ semAnswers s port 2 then semReleaseWrite s port 2 v else s
  | _ => s

/-- A port's write of 4 or 8 bytes at an offset of the window (R430-R434). -/
def windowWrite (s : State) (port : RlPort) (o : Nat) (wide : Bool) (v : BitVec 64) : State :=
  if windowOpen s port then
    if !aligned o wide then accessRefused s port (BitVec.ofNat 26 o) true 1
    else match regHit o wide with
      | some (r, upper) => portWrite s port o wide v r upper
      | none => s
  else if aligned o wide then
    match regHit o wide with
    | some (r, upper) => bootWrite s port wide v r upper
    | none => s
  else s

/-- REGISTER_WRITE (R433). -/
def execRegisterWrite (port : RlPort) (offset : BitVec 26) (wide : Bool) (value : BitVec 64) (s : State) :
    Host.Outcome State Fault Refusal := .next (windowWrite (noteTie s port offset.toNat) port offset.toNat wide value)

/-! ### Reads that clear (R433, R435) -/

/-- A clearing read of a global or compute-die register leaves what hardware counted in the same cycle. -/
def clearGlReg (s : State) (v : Nat) : Reg → State
  | .glAccessErr =>
    let a : AccErr := { offset := BitVec.ofNat 26 v, port := Fin.ofNat 2 (v / 2 ^ 26), write := bitAt v 27, reason := BitVec.ofNat 4 (v / 2 ^ 28),
                        count := BitVec.ofNat 32 (v / 2 ^ 32) }
    { s with gl := { s.gl with accErr := a } }
  | .glGuardErr => { s with gl := { s.gl with guardErr0 := BitVec.ofNat 16 v, guardErr1 := BitVec.ofNat 16 (v / 2 ^ 16) } }
  | .glPartCfgErr => { s with gl := { s.gl with partCfgErr := BitVec.ofNat 8 v } }
  | .lsConflict c => setCore s c.val { getCore s c.val with conflict := BitVec.ofNat 32 v }
  | .gsuNanKey d => setDie s d { getDie s d with nanKey := BitVec.ofNat 32 v }
  | .npuMissn d => setDie s d { getDie s d with npuMissn := BitVec.ofNat 32 v }
  | .npuExam d => setDie s d { getDie s d with npuExam := BitVec.ofNat 32 v }
  | .memCe d => setDie s d { getDie s d with memCe := BitVec.ofNat 32 v }
  | .memUe d => setDie s d { getDie s d with memUe := BitVec.ofNat 32 v }
  | .leaseErr => { s with mem := { s.mem with leaseErr := BitVec.ofNat 32 v } }
  | .tagErr => { s with tags := { s.tags with err := bitAt v 0 } }
  | _ => s

/-- The same of an exchange die's register, and of a fabric port's. -/
def clearXdReg (s : State) (v : Nat) : Reg → State
  | .xchBp x => setXd s x { getXd s x with xchBp := BitVec.ofNat 32 v }
  | .bpmCfgErr x => setXd s x { getXd s x with bpmCfgErr := BitVec.ofNat 8 v }
  | .colResCorr x => setXd s x { getXd s x with colResCorr := BitVec.ofNat 32 v }
  | .colCrcRetry x => setXd s x { getXd s x with colCrcRetry := BitVec.ofNat 32 v }
  | .colWait x => setXd s x { getXd s x with colWait := BitVec.ofNat 32 v }
  | .memSpill x => setXd s x { getXd s x with memSpill := BitVec.ofNat 32 v }
  | .lpErr x => setXd s x { getXd s x with lpRetry := BitVec.ofNat 16 v, lpUncorr := BitVec.ofNat 16 (v / 2 ^ 16) }
  | .fabStale x => setXd s x { getXd s x with fabStale := BitVec.ofNat 32 v }
  | .circErr x => setXd s x { getXd s x with circErr := BitVec.ofNat 8 v }
  | .msfBusy x => setXd s x { getXd s x with msfBusy := BitVec.ofNat 32 v }
  | .msfBackinv x => setXd s x { getXd s x with msfBackinv := BitVec.ofNat 32 v }
  | .msfGw x => setXd s x { getXd s x with msfGw := BitVec.ofNat 32 v }
  | .fpFec f => setFp s f.val { getFp s f.val with fec := BitVec.ofNat 32 v }
  | .fpUncorr f => setFp s f.val { getFp s f.val with uncorr := BitVec.ofNat 32 v }
  | .fpRetry f => setFp s f.val { getFp s f.val with retry := BitVec.ofNat 32 v }
  | _ => s

/-- The same of a register of the PWR and ERR blocks. -/
def clearPwrReg (s : State) (v : Nat) : Reg → State
  | .pwrWeirCnt => { s with pwr := { s.pwr with weirCnt := BitVec.ofNat 32 v } }
  | .pwrBrakeCnt => { s with pwr := { s.pwr with brakeCnt := BitVec.ofNat 32 v } }
  | .pwrPeak => { s with pwr := { s.pwr with peak := BitVec.ofNat 16 v } }
  | .pwrQuadDroop => setQuad s s.pwr.quadSel.toNat { getQuad s s.pwr.quadSel.toNat with droopCnt := BitVec.ofNat 32 v }
  | .stFail => { s with pwr := { s.pwr with stFail := BitVec.ofNat 32 v } }
  | .errLost r => setRing s r { getRing s r with lostCorr := BitVec.ofNat 32 v, lostDef := BitVec.ofNat 32 (v / 2 ^ 32) }
  | .errSecondary r => setRing s r { getRing s r with secondary := BitVec.ofNat 32 v }
  | _ => s

/-- A clearing read of an RC register. -/
def clearReg (s : State) (r : Reg) (hw : BitVec 64) : State :=
  match r.kind with
  | .pwr | .err => clearPwrReg s hw.toNat r
  | .gl | .cd => clearGlReg s hw.toNat r
  | _ => clearXdReg (clearGlReg s hw.toNat r) hw.toNat r

/-- What a read does to the register it reaches: RC clears, SEM takes or renews; any other changes nothing. -/
def readEffect (s : State) (port : RlPort) (r : Reg) (hw : BitVec 64) : State :=
  match r, r.code with
  | _, .rc => clearReg s r hw
  | .glSem n, _ => semTakeRead s port n.val
  | _, _ => s

/-- A port's read of 4 or 8 bytes at an offset of the window; `hw` is what hardware counts in the cycle of a clearing read. A
semaphore's word is the one after the take. -/
def windowRead (s : State) (port : RlPort) (o : Nat) (wide : Bool) (hw : BitVec 64) : State :=
  if windowOpen s port then
    if !aligned o wide then send (accessRefused s port (BitVec.ofNat 26 o) false 1) (.regValue port 0)
    else match regHit o wide with
      | none => send s (.regValue port 0)
      | some (r, _) =>
        if !wide && r.sideEffect64 then send (accessRefused s port (BitVec.ofNat 26 o) false 2) (.regValue port 0)
        else
          let s1 := readEffect s port r hw
          let from_ := if r.code = .sem then s1 else s
          send s1 (.regValue port (readWindow from_ (some port) o wide))
  else if rlUp s port ∧ !s.gl.inReset then
    match regHit o wide with
    | some (.glIdentity, _) | some (.glStepping, _) | some (.bootDesc, _) | some (.bootStat, _) =>
      send s (.regValue port (if aligned o wide then readWindow s (some port) o wide else 0))
    | some (.glSem n, _) =>
      if n = 2 ∧ wide ∧ aligned o wide then semReturn (semTakeRead s port 2) port 2 else send s (.regValue port 0)
    | _ => send s (.regValue port 0)
  else s

/-- READ_CLEAR (R433, R435). -/
def execReadClear (port : RlPort) (offset : BitVec 26) (wide : Bool) (hw : BitVec 64) (s : State) : Host.Outcome State Fault Refusal :=
  .next (windowRead s port offset.toNat wide hw)

/-- W1C_WRITE: a 1 clears the bit; a bit that hardware sets in the same cycle stays 1 (R433, R435). -/
def execW1cWrite (port : RlPort) (offset : BitVec 26) (value : BitVec 64) (hwSet : BitVec 64) (s : State) :
    Host.Outcome State Fault Refusal :=
  match regAt offset.toNat with
  | some .glSemExpired =>
    if windowOpen s port then
      let t := windowWrite s port offset.toNat false value
      .next { t with gl := { t.gl with semExpired := t.gl.semExpired ||| hwSet.setWidth 32 } }
    else .next s
  | _ => .next s

/-- Why an access is refused (Table 20.7): 0 when it is not. -/
def refusalReason (o size : Nat) (coherent : Bool) : BitVec 4 :=
  if coherent then 3
  else if (size ≠ 4 ∧ size ≠ 8) ∨ o % size ≠ 0 then 1
  else match regHit o (size == 8) with
    | some (r, _) => if size = 4 ∧ r.sideEffect64 then 2 else 0
    | none => 0

/-- REGISTER_ACCESS_REFUSED (R431, R432): a refused read returns 0, a refused write has no effect; both are counted and reported. -/
def execRegisterAccessRefused (port : RlPort) (offset : BitVec 26) (size : Nat) (write coherent : Bool) (s : State) :
    Host.Outcome State Fault Refusal :=
  let why := refusalReason offset.toNat size coherent
  if windowOpen s port ∧ why ≠ 0 then
    let t := accessRefused s port offset write why
    .next (if write then t else send t (.regValue port 0))
  else .next s

/-! ### Device firmware (R438) -/

/-- Device firmware's access to its own window: no semaphore; a refused access is counted, with no port to record (a free
value). -/
def ownWindow (s : State) (o : Nat) (wide write : Bool) (v : BitVec 64) : State :=
  let refuse := fun (why : BitVec 4) =>
    let t := recordRefusal (takeFree s 1) (Fin.ofNat 2 (Config.freeByte s.free).toNat) (BitVec.ofNat 26 o) write why
    if write then t else send t (.fwValue 0)
  if !aligned o wide then refuse 1
  else match regHit o wide with
    | none => if write then s else send s (.fwValue 0)
    | some (r, upper) =>
      if !wide && r.sideEffect64 then refuse 2
      else if write then writeReg s none r (mergeValue s none r upper wide v)
      else send (if r.code = .rc then clearReg s r 0 else s) (.fwValue (readWindow s none o wide))

/-- SPACE4_ACCESS: device firmware reaches its own window, or sends the access to another device's; a reserved slot value is
reported and the access goes nowhere (R6). -/
def execSpace4Access (target : Coord) (offset : BitVec 26) (wide write : Bool) (value : BitVec 64) (s : State) :
    Host.Outcome State Fault Refusal :=
  if !unitsRun s then .next s
  else if coordBad target then .next (badCoord s)
  else if target = s.sec.coord ∨ s.fab.acting = some target then .next (ownWindow s offset.toNat wide write value)
  else .next (send s (.space4 target offset wide write value))

end Sys2Proof.Machine
end

