-- ==== Sys2Proof/Machine/Route.lean ====
section
/-! DEFINITION. OP_DISPATCH (R115-R121, R463) and OP_PLACE (R122-R127). -/

namespace Sys2Proof.Machine

/-! ### The Dispatch Sorters -/

/-- The fields of OP_DISPATCH (Table 5.9). -/
structure Ds where
  pack : Bool
  tokens : Nat
  topk : Nat
  nexp : Nat
  ndev : Nat
  self : Nat
  asg : Nat
  map : Nat
  cnt : Nat
  dec : Nat
  sl0 : Nat
  sl1 : Nat
  wcl : Nat
  deriving DecidableEq, Repr

/-- The fields of a descriptor. -/
def dsOf (d : Desc) : Ds :=
  { pack := fld d 64 2 == 1, tokens := fld d 66 17, topk := fld d 83 5, nexp := fld d 88 15, ndev := fld d 103 17,
    self := fld d 120 16, asg := fld d 136 44, map := fld d 180 44, cnt := fld d 224 44, dec := fld d 268 44,
    sl0 := fld d 312 44, sl1 := fld d 356 44, wcl := fld d 400 44 }

/-- SPLIT: the tokens of XD0's half. -/
def Ds.split (x : Ds) : Nat := ceilDiv x.tokens 2

/-- The areas that COUNT uses, and those that PACK adds (R119, R121). -/
def Ds.areas (x : Ds) : List (Nat × Nat) :=
  let sl := 28 * x.ndev + 12 * x.topk * x.split
  [(x.asg, 8 * x.tokens * x.topk), (x.map, 4 * x.nexp), (x.cnt, 4 * x.nexp)] ++
  (if x.pack then [(x.dec, x.nexp), (x.sl0, sl), (x.sl1, sl), (x.wcl, 16 + 8 * x.nexp + 4 * x.topk * x.tokens)] else [])

/-- The checks of OP_DISPATCH after R10 (R121). -/
def dsPrep (e : Entry) (x : Ds) (s : State) (_core : Nat) : Prep :=
  if x.tokens = 0 ∨ 65536 < x.tokens ∨ x.topk = 0 ∨ 16 < x.topk ∨ x.nexp < x.topk ∨ x.nexp = 0 ∨ 16384 < x.nexp ∨
      x.ndev = 0 ∨ 65536 < x.ndev ∨ x.ndev ≤ x.self then rejectWith Code.eDispatchShape
  else if !areasOk s e.cid.part x.areas then rejectWith Code.eDescOperand
  else .go []

/-- An expert map entry (Table 5.5). -/
structure MapEnt where
  home : Nat
  idx : Nat
  deriving DecidableEq, Repr

/-- An entry's home and local index. -/
def mapEnt (v : Nat) : MapEnt := { home := bitsOf v 0 16, idx := bitsOf v 16 12 }

/-- The whole expert map is valid (R115). -/
def mapOk (ndev : Nat) (ws : List Nat) : Bool :=
  ws.all (fun v => bitAt v 28 && bitsOf v 29 3 == 0 && decide (bitsOf v 0 16 < ndev)) &&
  decide ((ws.map mapEnt).Nodup)

/-- A record at index t × TOPK + j is valid, the token's earlier experts given (R116). -/
def asgOk (x : Ds) (t j v : Nat) (earlier : List Nat) : Bool :=
  bitsOf v 0 16 == t && bitsOf v 30 4 == j && decide (bitsOf v 16 14 < x.nexp) && !earlier.contains (bitsOf v 16 14) &&
  bitsOf v 35 29 == 0

/-- The lowest index of an invalid record (R116). -/
def asgBad (x : Ds) (rs : List Nat) : Option Nat :=
  ((rs.zipIdx).find? (fun q =>
    let t := q.2 / x.topk
    let j := q.2 % x.topk
    !asgOk x t j q.1 (((rs.drop (t * x.topk)).take j).map (fun v => bitsOf v 16 14)))).map (·.2)

/-- The expert of each record, token by token in rank order. -/
def asgExperts (x : Ds) (rs : List Nat) : List (List Nat) := pieces x.topk rs.length (rs.map (fun v => bitsOf v 16 14))

/-- Assignments to an expert among some tokens. -/
def countOf (toks : List (List Nat)) (e : Nat) : Nat := (toks.map (fun r => r.count e)).sum

/-- The map and the records that COUNT and PACK share, or the fault: its unit's die, code and DETAIL. -/
def dsInputs (s : State) (p : PartI) (x : Ds) : Except (Nat × OpErr) (List MapEnt × List (List Nat)) :=
  match readUni s p x.map (4 * x.nexp), readUni s p x.asg (8 * x.tokens * x.topk) with
  | .error c, _ => .error (0, { code := c, detail := [] })
  | _, .error c => .error (0, { code := c, detail := [] })
  | .ok mb, .ok ab =>
    let ms := wordsOf 4 mb
    let rs := wordsOf 8 ab
    if !mapOk x.ndev ms then .error (0, { code := Code.eExpertMap, detail := [] })
    else
      match asgBad x rs with
      | some i => .error (if i / x.topk < x.split then 0 else 1, { code := Code.eAsgRecord, detail := [BitVec.ofNat 32 i] })
      | none => .ok (ms.map mapEnt, asgExperts x rs)

/-- XD_DS_LAST on both dies: the TOKENS × TOPK records that the last COUNT read (R116, Table 5.13). -/
def setDsLast (s : State) (x : Ds) : State :=
  let n := x.tokens * x.topk
  let s1 := setXd s 0 { getXd s 0 with dsLast := n }
  setXd s1 1 { getXd s1 1 with dsLast := n }

/-- COUNT runs (R115, R116). One that faults leaves XD_DS_LAST as it was (DESIGN CHOICE, log 45). -/
def runCount (e : Entry) (x : Ds) (s : State) (_core : Nat) : State × Ended :=
  match dsInputs s e.cid.part x with
  | .error err => settleUni s e 6 err.1 (uniFault err.2.code err.2.detail [(x.cnt, 4 * x.nexp)])
  | .ok q =>
    settleUni (setDsLast s x) e 6 0
      { writes := [(x.cnt, (upto x.nexp).flatMap (fun k => leBytes 4 (countOf q.2 k)))], areas := [(x.cnt, 4 * x.nexp)] }

/-- A send-list block's pairs of one token at destination `d`: (LOCAL_IDX, RANK) in ascending LOCAL_IDX. -/
def tokenPairs (ms : List MapEnt) (dec : List Nat) (d : Nat) (row : List Nat) : List (Nat × Nat) :=
  let ps := (row.zipIdx).filterMap (fun q =>
    let m := nth { home := 0, idx := 0 } ms q.1
    if m.home = d ∧ (nth 0 dec q.1 = 1 ∨ nth 0 dec q.1 = 3) then some (m.idx, q.2) else none)
  sortBy (fun a b => decide (a.1 ≤ b.1)) ps

/-- A token entry with its pairs (Table 5.8), padded to four bytes. -/
def tokenEntry (t : Nat) (ps : List (Nat × Nat)) : Bytes :=
  padTo 4 (leBytes 4 (pack [(0, t), (16, ps.length - 1)]) ++ ps.flatMap (fun q => leBytes 2 (pack [(0, q.1), (12, q.2)])))

/-- The block of destination `d` in a half's send list (R117). `toks` are the half's tokens with their indices. -/
def sendBlock (ms : List MapEnt) (dec : List Nat) (toks : List (Nat × List Nat)) (d : Nat) : Bytes :=
  let rows := toks.map (·.2)
  let ces := sortBy (fun a b => decide (a.1 ≤ b.1)) ((ms.zipIdx).filterMap (fun q =>
    let n := countOf rows q.2
    if q.1.home = d ∧ n ≠ 0 then some (q.1.idx, nth 0 dec q.2, n) else none))
  let tes := toks.filterMap (fun q =>
    let ps := tokenPairs ms dec d q.2
    if ps.isEmpty then none else some (tokenEntry q.1 ps))
  let body := ces.flatMap (fun c => leBytes 4 (pack [(0, c.1), (12, b2n (c.2.1 == 2)), (16, c.2.2 - 1)])) ++ tes.flatMap id
  let len := ceilDiv (16 + body.length) 16 * 16
  padTo 16 (leBytes 16 (pack [(0, d), (16, ces.length), (32, tes.length), (64, len)]) ++ body)

/-- A half's send list (R117). -/
def sendList (x : Ds) (ms : List MapEnt) (dec : List Nat) (toks : List (Nat × List Nat)) : Bytes :=
  (upto x.ndev).flatMap (sendBlock ms dec toks)

/-- The weights-come list (R118). -/
def weightsList (x : Ds) (dec : List Nat) (toks : List (List Nat)) : Bytes :=
  let es := (upto x.nexp).filter (fun k => nth 0 dec k == 2)
  leBytes 16 es.length ++ es.flatMap (fun k =>
    let rs := (toks.zipIdx).flatMap (fun q => (q.1.zipIdx).filterMap (fun r => if r.1 = k then some (q.2, r.2) else none))
    leBytes 8 (pack [(0, k), (16, rs.length)]) ++ rs.flatMap (fun r => leBytes 4 (pack [(0, r.1), (16, r.2)])))

/-- The lowest expert whose count or decision PACK refuses (R463). -/
def packBad (x : Ds) (ms : List MapEnt) (toks : List (List Nat)) (cnt dec : List Nat) : Option (BitVec 16 × Nat) :=
  (upto x.nexp).findSome? (fun k =>
    let n := countOf toks k
    let d := nth 0 dec k
    let fits : Bool := if (nth { home := 0, idx := 0 } ms k).home = x.self then d == 3
      else if n = 0 then d == 0 else d == 1 || d == 2
    if nth 0 cnt k ≠ n then some (Code.eAsgRecord, k)
    else if !fits then some (Code.eDispatchDec, k)
    else none)

/-- PACK runs (R117, R118, R463). -/
def runPack (e : Entry) (x : Ds) (s : State) (_core : Nat) : State × Ended :=
  match dsInputs s e.cid.part x, readUni s e.cid.part x.cnt (4 * x.nexp), readUni s e.cid.part x.dec x.nexp with
  | .error err, _, _ => settleUni s e 6 err.1 (uniFault err.2.code err.2.detail [])
  | _, .error c, _ => settleUni s e 6 0 (uniFault c [] [])
  | _, _, .error c => settleUni s e 6 0 (uniFault c [] [])
  | .ok q, .ok cb, .ok db =>
    let dec := db.map (·.toNat)
    match packBad x q.1 q.2 (wordsOf 4 cb) dec with
    | some f => settleUni s e 6 0 (uniFault f.1 [BitVec.ofNat 32 f.2] [])
    | none =>
      let toks := (q.2.zipIdx).map (fun r => (r.2, r.1))
      settleUni s e 6 0
        { writes := [(x.sl0, sendList x q.1 dec (toks.take x.split)), (x.sl1, sendList x q.1 dec (toks.drop x.split)),
                     (x.wcl, weightsList x dec q.2)]
          areas := x.areas.drop 4 }

/-- A row of OP_DISPATCH. A reserved MODE is rejected by either row. -/
def dsRow (e : Entry) (mode : Nat) (run : Entry → Ds → State → Nat → State × Ended) : OpRow :=
  let x := dsOf e.desc
  { row := opcode e.desc == 0x0301 && (fld e.desc 64 2 == mode || decide (1 < fld e.desc 64 2))
    reserved := fld e.desc 444 68 != 0 || decide (1 < fld e.desc 64 2)
    classes := [2]
    prep := dsPrep e x
    run := run e x }

/-- OP_DISPATCH COUNT (R116). -/
def execOpDispatchCount (e : Entry) (s : State) : Host.Outcome State Fault Refusal := .next (issueCmd s e (dsRow e 0 runCount))

/-- OP_DISPATCH PACK (R117). -/
def execOpDispatchPack (e : Entry) (s : State) : Host.Outcome State Fault Refusal := .next (issueCmd s e (dsRow e 1 runPack))

/-! ### The Placement units -/

/-- The fields of OP_PLACE (Table 5.12). -/
structure Pl where
  cnt : Nat
  map : Nat
  st : Nat
  dec : Nat
  nexp : Nat
  self : Nat
  tokBytes : Nat
  wBytes : Nat
  train : Nat
  force : Nat
  deriving DecidableEq, Repr

/-- The fields of a descriptor. -/
def plOf (d : Desc) : Pl :=
  { cnt := fld d 64 44, map := fld d 108 44, st := fld d 152 44, dec := fld d 196 44, nexp := fld d 240 15,
    self := fld d 255 16, tokBytes := fld d 271 20, wBytes := fld d 291 40, train := fld d 331 1, force := fld d 332 2 }

/-- The checks of OP_PLACE after R10 (R127). -/
def plPrep (e : Entry) (x : Pl) (s : State) (_core : Nat) : Prep :=
  if x.nexp = 0 ∨ 16384 < x.nexp ∨ x.wBytes = 0 ∨ x.tokBytes = 0 then rejectWith Code.eDispatchShape
  else if !areasOk s e.cid.part [(x.cnt, 4 * x.nexp), (x.map, 4 * x.nexp), (x.st, 64 + x.nexp), (x.dec, x.nexp)] then
    rejectWith Code.eDescOperand
  else .go []

/-- The decision of one expert (R122): 0 NONE, 1 TOKENS_GO, 2 WEIGHTS_COME, 3 LOCAL. -/
def placeDec (x : Pl) (band home n prev : Nat) : Nat :=
  let ct := 2 * n * x.tokBytes % 2 ^ 64
  let cw := x.wBytes * (x.train + 1) % 2 ^ 64
  if home = x.self then 3
  else if n = 0 then 0
  else if x.force = 1 then 1
  else if x.force = 2 then 2
  else if prev = 1 then (if cw * (256 + band) % 2 ^ 64 < ct * 256 % 2 ^ 64 then 2 else 1)
  else if prev = 2 then (if ct * (256 + band) % 2 ^ 64 < cw * 256 % 2 ^ 64 then 1 else 2)
  else if cw < ct then 2 else 1

/-- A decision of TOKENS_GO or WEIGHTS_COME. -/
def decided (d : Nat) : Bool := d == 1 || d == 2

/-- BAND and QUIET after a call with FORCE 0 (R123). -/
def placeBand (band quiet f d : Nat) : Nat × Nat :=
  if d < 16 * f then (min (band + 16) 128, 0)
  else if f = 0 then (if quiet + 1 = 16 then (max (band - 8) 8, 0) else (band, quiet + 1))
  else (band, 0)

/-- The placement state table is well formed (R124). -/
def placeStateOk (v : Nat) (prev : List Nat) : Bool :=
  (bitsOf v 0 8 == 0 || (decide (8 ≤ bitsOf v 0 8) && decide (bitsOf v 0 8 ≤ 128))) && bitsOf v 12 4 == 0 &&
  bitsOf v 80 432 == 0 && prev.all (fun b => decide (b ≤ 2))

/-- What the Placement units last did shows in both dies' registers (Tables 5.15 and 5.16). -/
def setPlaceRegs (s : State) (band quiet flips d wc : Nat) : State :=
  (List.finRange 2).foldl (fun t k => setXd t k { getXd t k with
    placeBand := band, placeQuiet := quiet, placeFlips := flips, placeDecided := d, placeWc := wc }) s

/-- OP_PLACE runs (R122-R125). A difference between the two units stops the device, leaves the command without a record and
its output areas undefined (R132). A command that fails leaves XD_PLACE_LAST and XD_PLACE_COUNT as they were (DESIGN CHOICE,
log 45). -/
def runPlace (e : Entry) (x : Pl) (agrees : Bool) (s : State) (_core : Nat) : State × Ended :=
  let p := e.cid.part
  match readUni s p x.st (64 + x.nexp), readUni s p x.cnt (4 * x.nexp), readUni s p x.map (4 * x.nexp) with
  | .error c, _, _ => settleUni s e 6 0 (uniFault c [] [(x.dec, x.nexp), (x.st, 64 + x.nexp)])
  | _, .error c, _ => settleUni s e 6 0 (uniFault c [] [(x.dec, x.nexp), (x.st, 64 + x.nexp)])
  | _, _, .error c => settleUni s e 6 0 (uniFault c [] [(x.dec, x.nexp), (x.st, 64 + x.nexp)])
  | .ok sb, .ok cb, .ok mb =>
    let h := leNat (sb.take 64)
    let prev := (sb.drop 64).map (·.toNat)
    if !placeStateOk h prev then settleUni s e 6 0 (uniFault Code.ePlaceState [] [])
    else if !agrees then
      let areas := (x.dec, x.nexp) :: (if x.force = 0 then [(x.st, 64 + x.nexp)] else [])
      (report (havocAreas s p areas) (cmdReport Code.ePlaceMismatch deviceFatal e 6 1 []), .running)
    else
      let cold : Bool := bitsOf h 0 8 == 0 && x.force == 0
      let band := if cold then 32 else bitsOf h 0 8
      let quiet := if cold then 0 else bitsOf h 8 4
      let cnt := wordsOf 4 cb
      let home := (wordsOf 4 mb).map (fun v => bitsOf v 0 16)
      let ds := (upto x.nexp).map (fun k => placeDec x band (nth 0 home k) (nth 0 cnt k) (nth 0 prev k))
      let d := (ds.filter decided).length
      let wc := (ds.filter (· == 2)).length
      let f := if x.force = 0 then
        ((ds.zip prev).filter (fun q => decided q.1 && q.2 != 0 && q.1 != q.2)).length else 0
      let decW := (x.dec, ds.map (BitVec.ofNat 8))
      if x.force ≠ 0 then
        settleUni (setPlaceRegs s band quiet 0 d wc) e 6 0 { writes := [decW], areas := [(x.dec, x.nexp)] }
      else
        let bq := placeBand band quiet f d
        let calls := (bitsOf h 48 32 + 1) % 2 ^ 32
        let hdr := leBytes 64 (pack [(0, bq.1), (8, bq.2), (16, f), (32, d), (48, calls)])
        let pv := (ds.zip prev).map (fun q => BitVec.ofNat 8 (if decided q.1 then q.1 else q.2))
        settleUni (setPlaceRegs s bq.1 bq.2 f d wc) e 6 0
          { writes := [decW, (x.st, hdr ++ pv)], areas := [(x.dec, x.nexp), (x.st, 64 + x.nexp)] }

/-- The row of OP_PLACE. -/
def placeRow (e : Entry) (xd1Agrees : Bool) : OpRow :=
  let x := plOf e.desc
  { row := opcode e.desc == 0x0302
    reserved := fld e.desc 334 178 != 0 || x.force == 3
    classes := [2]
    prep := plPrep e x
    run := runPlace e x xd1Agrees }

/-- OP_PLACE (R127). `xd1Agrees` is what XD1's comparison finds (R125). -/
def execOpPlace (e : Entry) (xd1Agrees : Bool) (s : State) : Host.Outcome State Fault Refusal :=
  .next (issueCmd s e (placeRow e xd1Agrees))

end Sys2Proof.Machine
end

