-- ==== Sys2Proof/Machine/Scale.lean ====
section
/-! DEFINITION. OP_SCALEPASS (R37-R39, R78) and OP_PRUNE (R76, R77). -/

namespace Sys2Proof.Machine

/-! ### OP_SCALEPASS -/

/-- The fields of OP_SCALEPASS (Table 3.8). -/
structure Sp where
  src : Nat
  ssc : Nat
  reca : Nat
  ld : Nat
  rows : Nat
  cols : Nat
  sf : Nat
  tf : Nat
  sscNone : Bool
  accum : Bool
  deriving DecidableEq, Repr

/-- The fields of a descriptor. -/
def spOf (d : Desc) : Sp :=
  { src := fld d 64 24, ssc := fld d 88 24, reca := fld d 112 24, ld := fld d 136 16, rows := fld d 152 16,
    cols := fld d 168 22, sf := fld d 190 4, tf := fld d 194 4, sscNone := flag d 198, accum := flag d 199 }

/-- The source's scales are read. -/
def Sp.scaled (x : Sp) : Bool := isNarrow x.sf && !x.sscNone

/-- A scale-pass record (Table 2.6): AMAX, REFX, TFMT, NANCOUNT, INFCOUNT. -/
structure ScaleRec where
  amax : Nat
  refx : Nat
  tfmt : Nat
  nans : Nat
  infs : Nat
  deriving DecidableEq, Repr

/-- The bytes of a record. -/
def scaleBytes (r : ScaleRec) : Bytes :=
  leBytes 16 (pack [(0, r.amax), (32, r.refx), (40, r.tfmt), (64, min r.nans (2 ^ 32 - 1)), (96, min r.infs (2 ^ 32 - 1))])

/-- A record from its bytes. -/
def scaleOf (bs : Bytes) : ScaleRec :=
  let v := leNat bs
  { amax := bitsOf v 0 32, refx := bitsOf v 32 8, tfmt := bitsOf v 40 4, nans := bitsOf v 64 32, infs := bitsOf v 96 32 }

/-- AMAX of a list of values (R37). -/
def amaxBits (vs : List Val) : Nat := min (toF32 (amaxOf vs)) 0x7F7FFFFF

/-- The record of some rows of values for a target format (R37, R38). -/
def scaleRec (tf : Nat) (rows : List (List Val)) : ScaleRec :=
  let vs := rows.flatMap id
  { amax := amaxBits vs
    refx := (rows.flatMap (fun r => (pieces 32 r.length r).map (finiteCode tf))).foldl max 0
    tfmt := tf
    nans := (vs.filter (fun v => v == .nan)).length
    infs := (vs.filter (fun v => match v with | .inf _ => true | _ => false)).length }

/-- Merges two records of one target format (R78). -/
def scaleMerge (a b : ScaleRec) : ScaleRec :=
  { amax := max a.amax b.amax, refx := max a.refx b.refx, tfmt := a.tfmt, nans := a.nans + b.nans, infs := a.infs + b.infs }

/-- The checks of OP_SCALEPASS after R10 (R78). -/
def spPrep (x : Sp) : Prep :=
  if x.sf = 0xA ∨ !isNarrow x.tf then rejectWith Code.eFmtPair
  else if isNarrow x.sf ∧ x.cols % 32 ≠ 0 then rejectWith Code.eMmShape
  else if !(stridedOk x.src x.rows (packedBytes x.sf x.cols) x.ld false && lsOk 16 x.reca 16 &&
      (!x.scaled || lsOk 1 x.ssc (x.rows * ceilDiv x.cols 32))) then rejectWith Code.eDescOperand
  else
    let body := if x.rows = 0 ∨ x.cols = 0 then []
      else stridedRange x.src x.rows (packedBytes x.sf x.cols) x.ld false ++
        (if x.scaled then lsRange x.ssc (x.rows * ceilDiv x.cols 32) false else [])
    .go (body ++ lsRange x.reca 16 true)

/-- The rows of the source. -/
def spRows (s : State) (core : Nat) (x : Sp) : List (List Val) :=
  if x.cols = 0 then []
  else (upto x.rows).map (fun r =>
    rowVals x.sf (rowElems s core x.sf x.src x.ld x.cols r) (rowCodes s core (!x.scaled) x.ssc x.cols r))

/-- OP_SCALEPASS runs: its record is written, or merged into the one there; another TFMT there leaves the record
undefined (R78, R86). -/
def runSp (e : Entry) (x : Sp) (s : State) (core : Nat) : State × Ended :=
  let r := scaleRec x.tf (spRows s core x)
  let old := scaleOf (readLs s core x.reca 16)
  if !x.accum then settleRun s core e false { writes := [(x.reca, scaleBytes r)] }
  else if old.tfmt ≠ x.tf then
    settleRun s core e false { fault := some { code := Code.eMmPartial, detail := [] }, undef := [(x.reca, 16)] }
  else settleRun s core e false { writes := [(x.reca, scaleBytes (scaleMerge old r))] }

/-- The row of OP_SCALEPASS. -/
def scaleRow (e : Entry) : OpRow :=
  let x := spOf e.desc
  { row := opcode e.desc == 0x0104
    reserved := fld e.desc 200 312 != 0 || fmtReserved x.sf || fmtReserved x.tf
    classes := [0, 1]
    prep := fun _ _ => spPrep x
    run := runSp e x }

/-- OP_SCALEPASS (R78). -/
def execOpScalepass (e : Entry) (s : State) : Host.Outcome State Fault Refusal :=
  .next (issueCmd s e (scaleRow e))

/-! ### OP_PRUNE -/

/-- The fields of OP_PRUNE (Table 3.7). -/
structure Pr where
  src : Nat
  val : Nat
  md : Nat
  srcLd : Nat
  valLd : Nat
  metaLd : Nat
  rows : Nat
  k : Nat
  fmt : Nat
  sp : Nat
  keepF : Nat
  dropZero : Bool
  deriving DecidableEq, Repr

/-- The fields of a descriptor. -/
def prOf (d : Desc) : Pr :=
  { src := fld d 64 24, val := fld d 88 24, md := fld d 112 24, srcLd := fld d 136 16, valLd := fld d 152 16,
    metaLd := fld d 168 16, rows := fld d 184 16, k := fld d 200 22, fmt := fld d 222 4, sp := fld d 226 2,
    keepF := fld d 228 5, dropZero := flag d 233 }

/-- Elements kept in a group: 2, 4 or KEEP (R76). -/
def Pr.keep (x : Pr) : Nat := nth x.keepF [2, 4] x.sp

/-- The most bytes of values in a row. -/
def Pr.valRow (x : Pr) : Nat := packedBytes x.fmt (x.k / groupSize x.sp * x.keep)

/-- The most bytes of metadata in a row. -/
def Pr.metaRow (x : Pr) : Nat :=
  match x.sp with
  | 0 => ceilDiv (x.k / 4) 2
  | 1 => x.k / 8
  | _ => x.k / 16 * (1 + ceilDiv x.keepF 2)

/-- |x| of one element ranks above |y|: NaN above every number (R76). -/
def magAbove (x y : Val) : Bool :=
  match x, y with
  | .nan, .nan => false
  | .nan, _ => true
  | _, .nan => false
  | a, b => Val.lt b.abs a.abs

/-- The rank of element `i` of a group (R76). -/
def pruneRank (vs : List Val) (i : Nat) : Nat :=
  let x := nth vZero vs i
  ((upto vs.length).filter (fun j =>
    let y := nth vZero vs j
    magAbove y x || (!magAbove x y && !magAbove y x && decide (j < i)))).length

/-- The positions of a group that are kept (R76). -/
def pruneKeep (x : Pr) (vs : List Val) : List Nat :=
  let isZero := fun (v : Val) => match v with | .num _ 0 _ => true | _ => false
  (upto vs.length).filter (fun i =>
    decide (pruneRank vs i < x.keep) && !(x.sp == 2 && x.dropZero && isZero (nth vZero vs i)))

/-- Pairs of nibbles as bytes, the first in the low half. -/
def nibbles : List Nat → Bytes
  | [] => []
  | [a] => [BitVec.ofNat 8 a]
  | a :: b :: t => BitVec.ofNat 8 (a + 16 * b) :: nibbles t

/-- The metadata of a row from its groups' kept positions (R71, R72). -/
def pruneMeta (sp : Nat) (gs : List (List Nat)) : Bytes :=
  match sp with
  | 0 => nibbles (gs.map (fun g => nth 0 g 0 + 4 * nth 0 g 1))
  | 1 => gs.map (fun g => BitVec.ofNat 8 ((g.map (fun p => 2 ^ p)).sum))
  | _ => gs.flatMap (fun g => BitVec.ofNat 8 g.length :: nibbles g)

/-- What a row writes: values and metadata. -/
def pruneRow (s : State) (core : Nat) (x : Pr) (r : Nat) : List (Nat × Bytes) :=
  let es := rowElems s core x.fmt x.src x.srcLd x.k r
  let n := groupSize x.sp
  let gs := (pieces n es.length es).map (fun g => pruneKeep x (g.map (decodeElem x.fmt)))
  let kept := (keptPositions x.sp gs).map (nth 0 es)
  [(x.val + r * x.valLd * 64, packElems x.fmt kept), (x.md + r * x.metaLd * 64, pruneMeta x.sp gs)]

/-- The checks of OP_PRUNE after R10 (R77). -/
def prPrep (x : Pr) : Prep :=
  if x.fmt = 0 ∨ x.fmt = 0xA then rejectWith Code.eSparseFmt
  else if x.k % 16 ≠ 0 then rejectWith Code.eMmShape
  else if !(stridedOk x.src x.rows (packedBytes x.fmt x.k) x.srcLd false && stridedOk x.val x.rows x.valRow x.valLd true &&
      stridedOk x.md x.rows x.metaRow x.metaLd true) then rejectWith Code.eDescOperand
  else .go (stridedRange x.src x.rows (packedBytes x.fmt x.k) x.srcLd false ++
    stridedRange x.val x.rows x.valRow x.valLd true ++ stridedRange x.md x.rows x.metaRow x.metaLd true)

/-- The row of OP_PRUNE. -/
def pruneOpRow (e : Entry) : OpRow :=
  let x := prOf e.desc
  { row := opcode e.desc == 0x0105
    reserved := fld e.desc 234 278 != 0 || fmtReserved x.fmt || x.sp == 3 || (x.sp == 2 && decide (16 < x.keepF))
    classes := [0, 1]
    prep := fun _ _ => prPrep x
    run := fun t core => settleRun t core e false { writes := (upto x.rows).flatMap (pruneRow t core x) } }

/-- OP_PRUNE (R76, R77). -/
def execOpPrune (e : Entry) (s : State) : Host.Outcome State Fault Refusal :=
  .next (issueCmd s e (pruneOpRow e))

end Sys2Proof.Machine
end

