-- ==== Sys2Proof/Machine/Dispatch.lean ====
section
/-! DEFINITION. The meaning of each command: one arm per constructor. -/

namespace Sys2Proof.Machine

/-- The effect of a command on everything but the queue. -/
def exec (i : Instr) (s : State) : Host.Outcome State Fault Refusal :=
  match i with
  | .d2dFlitReceive link sent got crc => Sys2Proof.Machine.execD2dFlitReceive link sent got crc s
  | .registerWrite port offset wide value => Sys2Proof.Machine.execRegisterWrite port offset wide value s
  | .readClear port offset wide hw => Sys2Proof.Machine.execReadClear port offset wide hw s
  | .w1cWrite port offset value hwSet => Sys2Proof.Machine.execW1cWrite port offset value hwSet s
  | .registerAccessRefused port offset size write coherent => Sys2Proof.Machine.execRegisterAccessRefused port offset size write coherent s
  | .space4Access target offset wide write value => Sys2Proof.Machine.execSpace4Access target offset wide write value s
  | .semTake port n => Sys2Proof.Machine.execSemTake port n s
  | .semRelease port n value => Sys2Proof.Machine.execSemRelease port n value s
  | .semLeaseExpiry n => Sys2Proof.Machine.execSemLeaseExpiry n s
  | .deviceResetRequest port value => Sys2Proof.Machine.execDeviceResetRequest port value s
  | .deviceReset => Sys2Proof.Machine.execDeviceReset s
  | .resetN => Sys2Proof.Machine.execResetN s
  | .resetRelease => Sys2Proof.Machine.execResetRelease s
  | .bootGo port value => Sys2Proof.Machine.execBootGo port value s
  | .bootStageEnd objs hw => Sys2Proof.Machine.execBootStageEnd objs hw s
  | .keyLoad port value => Sys2Proof.Machine.execKeyLoad port value s
  | .keyClear port value => Sys2Proof.Machine.execKeyClear port value s
  | .attGo port value canSign => Sys2Proof.Machine.execAttGo port value canSign s
  | .planTakeover port value => Sys2Proof.Machine.execPlanTakeover port value s
  | .planHandback port value slotReady slotDetrev => Sys2Proof.Machine.execPlanHandback port value slotReady slotDetrev s
  | .bringup port readable => Sys2Proof.Machine.execBringup port readable s
  | .teardown port => Sys2Proof.Machine.execTeardown port s
  | .activate port p => Sys2Proof.Machine.execActivate port p s
  | .partitionActivated p => Sys2Proof.Machine.execPartitionActivated p s
  | .dissolve port p => Sys2Proof.Machine.execDissolve port p s
  | .granuleZeroed g => Sys2Proof.Machine.execGranuleZeroed g s
  | .granOwnWrite port value => Sys2Proof.Machine.execGranOwnWrite port value s
  | .rlPortDown port => Sys2Proof.Machine.execRlPortDown port s
  | .rlPortRetrain port lanes => Sys2Proof.Machine.execRlPortRetrain port lanes s
  | .doorbell cid => Sys2Proof.Machine.execDoorbell cid s
  | .sequencerQueueRoom cid => Sys2Proof.Machine.execSequencerQueueRoom cid s
  | .commandComplete core pos listPos => Sys2Proof.Machine.execCommandComplete core pos listPos s
  | .cplFull core pos listPos => Sys2Proof.Machine.execCplFull core pos listPos s
  | .opNop e => Sys2Proof.Machine.execOpNop e s
  | .opMatmul e => Sys2Proof.Machine.execOpMatmul e s
  | .opMatmulSparse e => Sys2Proof.Machine.execOpMatmulSparse e s
  | .opVchain e => Sys2Proof.Machine.execOpVchain e s
  | .opAttnBlock e => Sys2Proof.Machine.execOpAttnBlock e s
  | .opScalepass e => Sys2Proof.Machine.execOpScalepass e s
  | .opPrune e => Sys2Proof.Machine.execOpPrune e s
  | .opDma e => Sys2Proof.Machine.execOpDma e s
  | .opGather e => Sys2Proof.Machine.execOpGather e s
  | .opScatter e => Sys2Proof.Machine.execOpScatter e s
  | .opMigratePlace e => Sys2Proof.Machine.execOpMigratePlace e s
  | .opMigrateMove e => Sys2Proof.Machine.execOpMigrateMove e s
  | .opMigrateSwap e => Sys2Proof.Machine.execOpMigrateSwap e s
  | .opMigrateRelease e => Sys2Proof.Machine.execOpMigrateRelease e s
  | .opMigrateSethint e => Sys2Proof.Machine.execOpMigrateSethint e s
  | .migratePageSwitch page => Sys2Proof.Machine.execMigratePageSwitch page s
  | .opSnapshotPrestream e => Sys2Proof.Machine.execOpSnapshotPrestream e s
  | .opSnapshotCopy e => Sys2Proof.Machine.execOpSnapshotCopy e s
  | .opGate e => Sys2Proof.Machine.execOpGate e s
  | .gateOpeningServed die => Sys2Proof.Machine.execGateOpeningServed die s
  | .gateHang die cid sess => Sys2Proof.Machine.execGateHang die cid sess s
  | .opDispatchCount e => Sys2Proof.Machine.execOpDispatchCount e s
  | .opDispatchPack e => Sys2Proof.Machine.execOpDispatchPack e s
  | .opPlace e xd1Agrees => Sys2Proof.Machine.execOpPlace e xd1Agrees s
  | .opExpertPlan e => Sys2Proof.Machine.execOpExpertPlan e s
  | .opExchangeDispatch e => Sys2Proof.Machine.execOpExchangeDispatch e s
  | .opExchangeReturn e => Sys2Proof.Machine.execOpExchangeReturn e s
  | .opCombine e => Sys2Proof.Machine.execOpCombine e s
  | .opA2a e => Sys2Proof.Machine.execOpA2a e s
  | .opPredictPredict e => Sys2Proof.Machine.execOpPredictPredict e s
  | .opPredictBound e => Sys2Proof.Machine.execOpPredictBound e s
  | .opMakeup e => Sys2Proof.Machine.execOpMakeup e s
  | .opReduce e => Sys2Proof.Machine.execOpReduce e s
  | .opAllreduce e => Sys2Proof.Machine.execOpAllreduce e s
  | .opBcast e => Sys2Proof.Machine.execOpBcast e s
  | .opAllgather e => Sys2Proof.Machine.execOpAllgather e s
  | .opWaitSlotFull e => Sys2Proof.Machine.execOpWaitSlotFull e s
  | .opWaitSlotEmpty e => Sys2Proof.Machine.execOpWaitSlotEmpty e s
  | .opWaitEvent e => Sys2Proof.Machine.execOpWaitEvent e s
  | .opWaitMemory e => Sys2Proof.Machine.execOpWaitMemory e s
  | .opWaitPlan e => Sys2Proof.Machine.execOpWaitPlan e s
  | .waitSatisfied core => Sys2Proof.Machine.execWaitSatisfied core s
  | .syncHang core => Sys2Proof.Machine.execSyncHang core s
  | .opSignalSlotFill e => Sys2Proof.Machine.execOpSignalSlotFill e s
  | .opSignalSlotDrain e => Sys2Proof.Machine.execOpSignalSlotDrain e s
  | .slotWritesLanded core slot => Sys2Proof.Machine.execSlotWritesLanded core slot s
  | .slotReadsDone core slot => Sys2Proof.Machine.execSlotReadsDone core slot s
  | .opSignalEvent e => Sys2Proof.Machine.execOpSignalEvent e s
  | .opSignalMemory e => Sys2Proof.Machine.execOpSignalMemory e s
  | .opFence e => Sys2Proof.Machine.execOpFence e s
  | .opTimedStart e => Sys2Proof.Machine.execOpTimedStart e s
  | .timedStartReached core => Sys2Proof.Machine.execTimedStartReached core s
  | .opEpochMark e => Sys2Proof.Machine.execOpEpochMark e s
  | .epochMarkCapture cid => Sys2Proof.Machine.execEpochMarkCapture cid s
  | .epochMarkAgreed cid => Sys2Proof.Machine.execEpochMarkAgreed cid s
  | .epochLate cid => Sys2Proof.Machine.execEpochLate cid s
  | .opDigestOpen e => Sys2Proof.Machine.execOpDigestOpen e s
  | .opDigestAbsorb e => Sys2Proof.Machine.execOpDigestAbsorb e s
  | .opDigestClose e canSign => Sys2Proof.Machine.execOpDigestClose e canSign s
  | .opRngSeekSet e => Sys2Proof.Machine.execOpRngSeekSet e s
  | .opRngSeekAdd e => Sys2Proof.Machine.execOpRngSeekAdd e s
  | .opRngSeekCheck e => Sys2Proof.Machine.execOpRngSeekCheck e s
  | .opStepStatusBind e => Sys2Proof.Machine.execOpStepStatusBind e s
  | .opStepStatusAgree e => Sys2Proof.Machine.execOpStepStatusAgree e s
  | .stepAgreeResult cid ovf => Sys2Proof.Machine.execStepAgreeResult cid ovf s
  | .opStepStatusCheck e => Sys2Proof.Machine.execOpStepStatusCheck e s
  | .opStepStatusCommit e => Sys2Proof.Machine.execOpStepStatusCommit e s
  | .opStepStatusUnbind e => Sys2Proof.Machine.execOpStepStatusUnbind e s
  | .outsideDelivery core cid addr gen data sender => Sys2Proof.Machine.execOutsideDelivery core cid addr gen data sender s
  | .senderEndMarker core cid slot gen sender => Sys2Proof.Machine.execSenderEndMarker core cid slot gen sender s
  | .slotHang core => Sys2Proof.Machine.execSlotHang core s
  | .xopen h ncnt nent dbytes row64 wbytes => Sys2Proof.Machine.execXopen h ncnt nent dbytes row64 wbytes s
  | .xready h cells => Sys2Proof.Machine.execXready h cells s
  | .xwait h => Sys2Proof.Machine.execXwait h s
  | .xopenRetry h => Sys2Proof.Machine.execXopenRetry h s
  | .xcount h seq counts => Sys2Proof.Machine.execXcount h seq counts s
  | .countPhaseEnd cid xid => Sys2Proof.Machine.execCountPhaseEnd cid xid s
  | .xask h => Sys2Proof.Machine.execXask h s
  | .creditGrant die => Sys2Proof.Machine.execCreditGrant die s
  | .xcredit h cells => Sys2Proof.Machine.execXcredit h cells s
  | .openEntryTaken die => Sys2Proof.Machine.execOpenEntryTaken die s
  | .streamData h offset data => Sys2Proof.Machine.execStreamData h offset data s
  | .xend h dbytes crc => Sys2Proof.Machine.execXend h dbytes crc s
  | .xresend h offset bytes => Sys2Proof.Machine.execXresend h offset bytes s
  | .xack h => Sys2Proof.Machine.execXack h s
  | .xchHang cid xid => Sys2Proof.Machine.execXchHang cid xid s
  | .returnArrival cid xid token rank row => Sys2Proof.Machine.execReturnArrival cid xid token rank row s
  | .landingHang cid xid => Sys2Proof.Machine.execLandingHang cid xid s
  | .cellRelease die unit p ptr => Sys2Proof.Machine.execCellRelease die unit p ptr s
  | .bpmResWrite port die p value => Sys2Proof.Machine.execBpmResWrite port die p value s
  | .bpmSpillWrite port die p value => Sys2Proof.Machine.execBpmSpillWrite port die p value s
  | .copen h pdig gdig => Sys2Proof.Machine.execCopen h pdig gdig s
  | .cready h => Sys2Proof.Machine.execCready h s
  | .cwait h => Sys2Proof.Machine.execCwait h s
  | .copenRetry h => Sys2Proof.Machine.execCopenRetry h s
  | .chunkCellGrant h chunk pass => Sys2Proof.Machine.execChunkCellGrant h chunk pass s
  | .chunkData h chunk pass offset data flaw flaw2 => Sys2Proof.Machine.execChunkData h chunk pass offset data flaw flaw2 s
  | .cend h m flaw flaw2 => Sys2Proof.Machine.execCend h m flaw flaw2 s
  | .cack h chunk pass => Sys2Proof.Machine.execCack h chunk pass s
  | .cresend h chunk pass => Sys2Proof.Machine.execCresend h chunk pass s
  | .cabort h origin reason => Sys2Proof.Machine.execCabort h origin reason s
  | .collHang cid coll => Sys2Proof.Machine.execCollHang cid coll s
  | .fabricQueueRing cid q => Sys2Proof.Machine.execFabricQueueRing cid q s
  | .read cid q => Sys2Proof.Machine.execRead cid q s
  | .write cid q => Sys2Proof.Machine.execWrite cid q s
  | .add64 cid q => Sys2Proof.Machine.execAdd64 cid q s
  | .add32 cid q => Sys2Proof.Machine.execAdd32 cid q s
  | .and64 cid q => Sys2Proof.Machine.execAnd64 cid q s
  | .or64 cid q => Sys2Proof.Machine.execOr64 cid q s
  | .xor64 cid q => Sys2Proof.Machine.execXor64 cid q s
  | .smax64 cid q => Sys2Proof.Machine.execSmax64 cid q s
  | .smin64 cid q => Sys2Proof.Machine.execSmin64 cid q s
  | .umax64 cid q => Sys2Proof.Machine.execUmax64 cid q s
  | .umin64 cid q => Sys2Proof.Machine.execUmin64 cid q s
  | .swap64 cid q => Sys2Proof.Machine.execSwap64 cid q s
  | .cas64 cid q => Sys2Proof.Machine.execCas64 cid q s
  | .addAl48 cid q => Sys2Proof.Machine.execAddAl48 cid q s
  | .bulkGet cid q => Sys2Proof.Machine.execBulkGet cid q s
  | .bulkPut cid q => Sys2Proof.Machine.execBulkPut cid q s
  | .gatewayFlush cid q => Sys2Proof.Machine.execGatewayFlush cid q s
  | .req m => Sys2Proof.Machine.execReq m s
  | .rsp m => Sys2Proof.Machine.execRsp m s
  | .busy src jtag sid => Sys2Proof.Machine.execBusy src jtag sid s
  | .companionRequest port m gaddr => Sys2Proof.Machine.execCompanionRequest port m gaddr s
  | .busyResend src jtag sid => Sys2Proof.Machine.execBusyResend src jtag sid s
  | .orderEntryExpiry die src jtag cpn cpnPort q => Sys2Proof.Machine.execOrderEntryExpiry die src jtag cpn cpnPort q s
  | .msfHang cid q sid => Sys2Proof.Machine.execMsfHang cid q sid s
  | .inv die home addr => Sys2Proof.Machine.execInv die home addr s
  | .invack holder addr => Sys2Proof.Machine.execInvack holder addr s
  | .recallLine home keep addr port => Sys2Proof.Machine.execRecallLine home keep addr port s
  | .recallack holder home addr data => Sys2Proof.Machine.execRecallack holder home addr data s
  | .puts holder home addr => Sys2Proof.Machine.execPuts holder home addr s
  | .putm holder home addr data => Sys2Proof.Machine.execPutm holder home addr data s
  | .bend src jtag sid bytes crc => Sys2Proof.Machine.execBend src jtag sid bytes crc s
  | .bresend src jtag sid => Sys2Proof.Machine.execBresend src jtag sid s
  | .portEnable port fp value => Sys2Proof.Machine.execPortEnable port fp value s
  | .portDetect fp signals => Sys2Proof.Machine.execPortDetect fp signals s
  | .portTrainDone fp => Sys2Proof.Machine.execPortTrainDone fp s
  | .portAlignDone fp => Sys2Proof.Machine.execPortAlignDone fp s
  | .negotiate fp major minor peer peerPort lanes kfp2 => Sys2Proof.Machine.execNegotiate fp major minor peer peerPort lanes kfp2 s
  | .negotiateRetry fp => Sys2Proof.Machine.execNegotiateRetry fp s
  | .retrain port fp value => Sys2Proof.Machine.execRetrain port fp value s
  | .retrainTimeout fp => Sys2Proof.Machine.execRetrainTimeout fp s
  | .eqWindow fp r => Sys2Proof.Machine.execEqWindow fp r s
  | .laneLockLoss fp lane => Sys2Proof.Machine.execLaneLockLoss fp lane s
  | .swap fp lane seq => Sys2Proof.Machine.execSwap fp lane seq s
  | .blockReceive fp good corrected seq ack circuit data => Sys2Proof.Machine.execBlockReceive fp good corrected seq ack circuit data s
  | .nak fp seq => Sys2Proof.Machine.execNak fp seq s
  | .nakRepeat fp => Sys2Proof.Machine.execNakRepeat fp s
  | .ackTimeout fp => Sys2Proof.Machine.execAckTimeout fp s
  | .credit fp net vc slots => Sys2Proof.Machine.execCredit fp net vc slots s
  | .packetReceive fp pkt => Sys2Proof.Machine.execPacketReceive fp pkt s
  | .packetAged index => Sys2Proof.Machine.execPacketAged index s
  | .circuitWrite port die c value => Sys2Proof.Machine.execCircuitWrite port die c value s
  | .tagBind port value => Sys2Proof.Machine.execTagBind port value s
  | .tagRetire port value => Sys2Proof.Machine.execTagRetire port value s
  | .tagnak newer refused => Sys2Proof.Machine.execTagnak newer refused s
  | .tagnakResend index => Sys2Proof.Machine.execTagnakResend index s
  | .tsyncSend child => Sys2Proof.Machine.execTsyncSend child s
  | .tsync parent seq t1 => Sys2Proof.Machine.execTsync parent seq t1 s
  | .treq child seq t3 => Sys2Proof.Machine.execTreq child seq t3 s
  | .tresp seq t4 corr => Sys2Proof.Machine.execTresp seq t4 corr s
  | .ftHoldoverEntry => Sys2Proof.Machine.execFtHoldoverEntry s
  | .ftRange => Sys2Proof.Machine.execFtRange s
  | .ppsIn => Sys2Proof.Machine.execPpsIn s
  | .ftSet port value => Sys2Proof.Machine.execFtSet port value s
  | .scrubPass die finds cellar hbm => Sys2Proof.Machine.execScrubPass die finds cellar hbm s
  | .leaseLendWrite port i1 value => Sys2Proof.Machine.execLeaseLendWrite port i1 value s
  | .leaseBorrowWrite port j value => Sys2Proof.Machine.execLeaseBorrowWrite port j value s
  | .leaseRequest m => Sys2Proof.Machine.execLeaseRequest m s
  | .leaseAnswer j ok => Sys2Proof.Machine.execLeaseAnswer j ok s
  | .leaseRevoke port lender slot => Sys2Proof.Machine.execLeaseRevoke port lender slot s
  | .leaseTermEnd i1 => Sys2Proof.Machine.execLeaseTermEnd i1 s
  | .leaseGraceEnd j => Sys2Proof.Machine.execLeaseGraceEnd j s
  | .leaseRelease lender slot => Sys2Proof.Machine.execLeaseRelease lender slot s
  | .sliceEnd p => Sys2Proof.Machine.execSliceEnd p s
  | .contextYield p => Sys2Proof.Machine.execContextYield p s
  | .switchCoresStopped p => Sys2Proof.Machine.execSwitchCoresStopped p s
  | .switchDone p => Sys2Proof.Machine.execSwitchDone p s
  | .wholeCap core pos listPos => Sys2Proof.Machine.execWholeCap core pos listPos s
  | .protectionEnable port p value peersAgree cert => Sys2Proof.Machine.execProtectionEnable port p value peersAgree cert s
  | .seedingDone p => Sys2Proof.Machine.execSeedingDone p s
  | .parityDelta src p piece whole delta => Sys2Proof.Machine.execParityDelta src p piece whole delta s
  | .mirrorWrite src p addr data => Sys2Proof.Machine.execMirrorWrite src p addr data s
  | .heartbeatSend => Sys2Proof.Machine.execHeartbeatSend s
  | .heartbeatLoss who reserve => Sys2Proof.Machine.execHeartbeatLoss who reserve s
  | .down who => Sys2Proof.Machine.execDown who s
  | .takeover failed newInc holder => Sys2Proof.Machine.execTakeover failed newInc holder s
  | .rebuildPiece survivors pieces => Sys2Proof.Machine.execRebuildPiece survivors pieces s
  | .frameSend die elapsed energy counts => Sys2Proof.Machine.execFrameSend die elapsed energy counts s
  | .meterFrame lane frame => Sys2Proof.Machine.execMeterFrame lane frame s
  | .meterWindow counts storeBad => Sys2Proof.Machine.execMeterWindow counts storeBad s
  | .intervalClose => Sys2Proof.Machine.execIntervalClose s
  | .sealSense opened => Sys2Proof.Machine.execSealSense opened s
  | .mtrVddLoss => Sys2Proof.Machine.execMtrVddLoss s
  | .mtrPowerUp => Sys2Proof.Machine.execMtrPowerUp s
  | .calendarDiscipline rateOff => Sys2Proof.Machine.execCalendarDiscipline rateOff s
  | .status payload => Sys2Proof.Machine.execStatus payload s
  | .record payload => Sys2Proof.Machine.execRecord payload s
  | .ack payload => Sys2Proof.Machine.execAck payload s
  | .pubkey payload => Sys2Proof.Machine.execPubkey payload s
  | .cert payload => Sys2Proof.Machine.execCert payload s
  | .energy payload => Sys2Proof.Machine.execEnergy payload s
  | .settime payload => Sys2Proof.Machine.execSettime payload s
  | .setepoch payload => Sys2Proof.Machine.execSetepoch payload s
  | .setrecint payload => Sys2Proof.Machine.execSetrecint payload s
  | .leap payload => Sys2Proof.Machine.execLeap payload s
  | .mirrorRecord rec => Sys2Proof.Machine.execMirrorRecord rec s
  | .weirSample p railOver => Sys2Proof.Machine.execWeirSample p railOver s
  | .weirUpdate => Sys2Proof.Machine.execWeirUpdate s
  | .pwrBrakeN => Sys2Proof.Machine.execPwrBrakeN s
  | .brakeRelease => Sys2Proof.Machine.execBrakeRelease s
  | .droopTrip q detector => Sys2Proof.Machine.execDroopTrip q detector s
  | .droopWindow q => Sys2Proof.Machine.execDroopWindow q s
  | .agingMeasure q slowdown => Sys2Proof.Machine.execAgingMeasure q slowdown s
  | .thermalThreshold sensor temp => Sys2Proof.Machine.execThermalThreshold sensor temp s
  | .thermalCeilingStep q => Sys2Proof.Machine.execThermalCeilingStep q s
  | .refreshUpdate temps mr4 => Sys2Proof.Machine.execRefreshUpdate temps mr4 s
  | .pwrPinWrite port p value => Sys2Proof.Machine.execPwrPinWrite port p value s
  | .selftestSliceDue q => Sys2Proof.Machine.execSelftestSliceDue q s
  | .selftestSliceEnd q pass passAgain => Sys2Proof.Machine.execSelftestSliceEnd q pass passAgain s
  | .pwrStCmd port value => Sys2Proof.Machine.execPwrStCmd port value s
  | .calibration c => Sys2Proof.Machine.execCalibration c s
  | .errorReport r => Sys2Proof.Machine.execErrorReport r s
  | .coalesceExpiry port index => Sys2Proof.Machine.execCoalesceExpiry port index s
  | .errRingHead port => Sys2Proof.Machine.execErrRingHead port s
  | .errRingCfg port ring value => Sys2Proof.Machine.execErrRingCfg port ring value s
  | .riskUpdate => Sys2Proof.Machine.execRiskUpdate s
  | .pmbusPoll readings => Sys2Proof.Machine.execPmbusPoll readings s
  | .pmAlertN readings => Sys2Proof.Machine.execPmAlertN readings s
  | .railMargin rail deviation => Sys2Proof.Machine.execRailMargin rail deviation s
  | .railExcursion rail deviation => Sys2Proof.Machine.execRailExcursion rail deviation s
  | .pwrBrakeNRise => Sys2Proof.Machine.execPwrBrakeNRise s
  | .backupSupplyLow => Sys2Proof.Machine.execBackupSupplyLow s
  | .protectorAck cid => Sys2Proof.Machine.execProtectorAck cid s
  | .tapInstruction t => Sys2Proof.Machine.execTapInstruction t s

end Sys2Proof.Machine
end

