-- ==== Sys2Proof/Machine/Step.lean ====
section
/-! DEFINITION. One step of the block: the command at the front of the queue, or, with an empty queue, what the device does of itself:
a delivered packet taken up, else one nanosecond of the model's clock. -/

namespace Sys2Proof.Machine

/-- The commands of the table spell no bits, so no word places a command: the state is unchanged. -/
def State.withFetchWord (s : State) (nbits w : Nat) : State :=
  match Sys2Proof.decodeTableWord nbits w with
  | some i => { s with pending := i :: s.pending }
  | none => s

/-- What happens with an empty queue: a packet that has reached the device acts as the command it spells, then a command that waited
for lines or pieces; with neither, time passes (DESIGN CHOICE, log 1). -/
def ownStep (s : State) : Host.Outcome State Fault Refusal :=
  match nextOwn s with
  | some (some c, t) => exec c t
  | some (none, t) => .next t
  | none => .next (tick s)

/-- One step: the front command acts on the state with the queue's rest; with an empty queue the device acts of itself. -/
def step (s : State) : Host.Outcome State Fault Refusal :=
  match s.pending with
  | [] => ownStep s
  | c :: rest => exec c { s with pending := rest }

end Sys2Proof.Machine
end

