-- ==== Sys2Proof/WellFormed.lean ====
section
/-! DEFINITION. Which commands are well formed: the bounds that the spec gives operands whose Lean types do not hold them.
The meanings are total, so an ill-formed command also has an outcome; the spec says nothing of it. -/

namespace Sys2Proof

/-- The data that follows a request at its target: a line for WRITE, a record for ADD_AL48, nothing for the other line
operations (Table 12.4). -/
def ReqMsg.dataOk (m : ReqMsg) : Bool :=
  match m.op with
  | .write => m.data.length == 128
  | .addAl48 => m.data.length == 100
  | .bulkPut => decide (m.data.length ≤ m.len.toNat)
  | _ => m.data.isEmpty

/-- The bytes of a data packet: 1 to 2,048 (R134). -/
def dataLenOk (l : Bytes) : Bool := !l.isEmpty && decide (l.length ≤ 2048)

/-- The bounds of a packet: a control body has 48 bytes, a data payload 1 to 2,048 (R250). -/
def Packet.wellFormed (k : Packet) : Bool := if k.isData then dataLenOk k.body else k.body.length == 48

/-- A command is well formed. -/
def WellFormed : Instr → Bool
  | .registerAccessRefused _ _ size _ _ => size != 0 && decide (size ≤ 128)
  | .bootStageEnd _ hw => hw.badCores.length == 8 && hw.badCores.all (fun l => l.all (fun j => decide (j < 17))) &&
    hw.badArrays.length == 24 && decide (hw.slowdown.length ≤ 32)
  | .outsideDelivery _ _ addr _ data _ => !data.isEmpty && decide (addr.toNat + data.length ≤ 0xC00000)
  | .xcount _ _ counts => !counts.isEmpty && decide (counts.length ≤ 9)
  | .streamData _ _ data => dataLenOk data
  | .returnArrival _ _ _ _ row => !row.isEmpty && row.length % 64 == 0
  | .chunkData _ _ _ _ data _ _ => dataLenOk data
  | .req m => m.dataOk
  | .recallack _ _ _ data => match data with | some l => l.length == 128 | none => true
  | .putm _ _ _ data => data.length == 128
  | .d2dFlitReceive _ sent got _ => sent.length == 256 && got.length == 256
  | .negotiate _ major minor _ peerPort _ _ => decide (major < 256) && decide (minor < 256) && decide (peerPort < 36)
  | .credit _ _ _ slots => slots != 0 && decide (slots ≤ 512)
  | .packetReceive _ pkt => pkt.wellFormed
  | .tagnak _ refused => refused.wellFormed
  | .scrubPass _ finds _ _ => finds.all (fun f => decide (f.piece < 2 ^ 38))
  | .parityDelta _ _ _ _ delta => delta.length == 65536 || delta.isEmpty
  | .mirrorWrite _ _ _ data => !data.isEmpty
  | .rebuildPiece survivors _ => survivors.length == 65536 || survivors.isEmpty
  | .frameSend die _ _ counts => if die.val < 4 then counts.length == 8 else counts.isEmpty
  | .meterFrame lane frame => frame.length == (if lane.val < 4 then 164 else 292)
  | .meterWindow counts _ => counts.length == 6
  | .mirrorRecord rec => rec.length == 512
  | .refreshUpdate temps mr4 => temps.length == 12 && mr4.length == 8
  | .pmbusPoll readings => decide (readings.length ≤ 33)
  | .pmAlertN readings => decide (readings.length ≤ 33)
  | .errorReport r => decide (r.detail.length ≤ 7)
  | .leaseRequest m => m.ngran != 0 && decide (m.ngran.toNat ≤ 16)
  | _ => true

end Sys2Proof
end

