-- ==== Sys2Proof/Safety.lean ====
section
/-! DEFINITION. What a good state is, and the conditions under which a command has its own effect: the predicates over
states and operands in which the statements are written. -/

namespace Sys2Proof.Machine

/-! ### Good states -/

/-- The three memories of the state (local stores, frames, companions' memory) are in canonical form. -/
def State.memWf (s : State) : Bool := Memory.wf s.ls && Memory.wf s.uni && Memory.wf s.comp

/-- Memory of the device and of its companions reads byte by byte as before. -/
def SameMemory (s t : State) : Prop :=
  (∀ a, Memory.readByte t.ls a = Memory.readByte s.ls a) ∧ (∀ a, Memory.readByte t.uni a = Memory.readByte s.uni a) ∧
  ∀ a, Memory.readByte t.comp a = Memory.readByte s.comp a

/-- A frame byte that no run of the list stores to: it lies in none of the runs, nor in a line of lent memory that one touches, nor
in that line's metadata (R230). -/
def Apart (l : List (Nat × Nat)) (x : Nat) : Prop :=
  ∀ fk ∈ l, ¬ (fk.1 ≤ x ∧ x < fk.1 + fk.2) ∧
    ∀ n ∈ lentLines fk.1 fk.2, ¬ (128 * n ≤ x ∧ x < 128 * n + 128) ∧ ¬ (lineMeta n ≤ x ∧ x < lineMeta n + 16)

/-! ### Conditions -/

/-- No line is held elsewhere and no piece is still to be rebuilt: what the device does of itself happens at once (R281, R355). -/
def atRest (s : State) : Bool := nothingHeld s

/-- The port may write a register that semaphore `n` guards: the window is open, and the port holds the semaphore on a lease
that has not run out (R292). -/
def mayWrite (s : State) (p : RlPort) (n : Nat) : Bool :=
  windowOpen s p && holdsSem s p n && decide (s.now < (getSem s n).leaseEnd)

/-- The boot block takes a write from the port: the device is out of reset, the port is up and holds semaphore 2 (R386). -/
def mayBoot (s : State) (p : RlPort) : Bool :=
  !s.gl.inReset && rlUp s p && holdsSem s p 2 && decide (s.now < (getSem s 2).leaseEnd)

/-- A command stands next at `core`'s sequencer as a command of row `r`, and every check of its issue passes: the fields and
class (R10, R327), its own checks with these scoreboard ranges, the scoreboard (R94), the slots (R99), the skip of R44, and
its turn (R209, R304). -/
def issues (s : State) (e : Entry) (r : OpRow) (core : Nat) (ranges : List Range) : Bool :=
  let q := getSeq s e.cid core
  atRest s && decide (issuer s e = some core) && r.row && !r.reserved && !flagsReserved e.desc && pclassOk e r.classes &&
  decide (r.prep s core = .go ranges) && stallCause q ranges == 0 && decide (slotError q.slots ranges = none) &&
  !isSkipped s e && dueNow s core e q.inflight r.due && !q.inflight.any (fun f => f.entry == e)

/-- The state in which an issued command has left its queue and stands in flight: what its effect starts from. -/
def issued (s : State) (e : Entry) (r : OpRow) (core : Nat) (ranges : List Range) : State := putInFlight s core e ranges r.due

/-- A command in flight at a core, and how it stands: `none` while it runs. -/
def flying (t : State) (e : Entry) (core : Nat) (fin : Option Outcome) : Bool :=
  (getSeq t e.cid core).inflight.any (fun f => f.entry == e && decide (f.fin = fin))

/-- No completion record of the command would be held: it needs none, or its ring has room (R298). -/
def recordFree (s : State) (e : Entry) (o : Outcome) : Bool :=
  !(needsRecord e o && rlUp s (getCtx s e.cid).desc.rport && cplRingFull (getCtx s e.cid))

end Sys2Proof.Machine
end

