-- ==== Sys2Proof/Certificates/Slice0/Obligations.lean ====
section
/-! DEFINITION. The statements about the block, for the provers: what each family of commands does,
the rules of the register window, the semaphores and the power limiter, what every step keeps. Each
docstring names the rules of the specification it follows, and the log entries of the model's own
choices. -/

section
open Sys2Proof Sys2Proof.Machine

/-- Die-to-die links and resets (R11, R440-R442, R452, R459). -/
def Obligations.LinksAndResetsAct : Prop :=
  (∀ (link : Fin 12) (sent got : Bytes) (crc : BitVec 32) (s : State), s.gl.inReset = false → s.gl.stopped = false →
    d2dOk got crc = true →
    exec (.d2dFlitReceive link sent got crc) s =
      .next { s with fab := { s.fab with
        d2dFails := Tbl.set 0 s.fab.d2dFails link.val 0
        d2dHeld := Tbl.set [] s.fab.d2dHeld link.val [] } }) ∧
  (∀ (link : Fin 12) (sent got : Bytes) (crc : BitVec 32) (s : State), s.gl.inReset = false → s.gl.stopped = false →
    d2dOk got crc = false → Tbl.get 0 s.fab.d2dFails link.val + 1 ≠ 16 →
    exec (.d2dFlitReceive link sent got crc) s =
      .next { s with fab := { s.fab with
        d2dFails := Tbl.set 0 s.fab.d2dFails link.val (Tbl.get 0 s.fab.d2dFails link.val + 1)
        d2dHeld := Tbl.set [] s.fab.d2dHeld link.val (d2dFlit s link sent) } }) ∧
  (∀ (link : Fin 12) (sent got : Bytes) (crc : BitVec 32) (s : State), s.gl.inReset = false → s.gl.stopped = false →
    d2dOk got crc = false → Tbl.get 0 s.fab.d2dFails link.val = 15 →
    exec (.d2dFlitReceive link sent got crc) s =
      .next (report { s with fab := { s.fab with
          d2dFails := Tbl.set 0 s.fab.d2dFails link.val 16
          d2dHeld := Tbl.set [] s.fab.d2dHeld link.val (d2dFlit s link sent) } }
        (devReport Code.eD2dLink deviceFatal 19 link.val []))) ∧
  (∀ (port : RlPort) (value : BitVec 32) (s : State), mayWrite s port 0 = true → value.extractLsb' 0 8 = 1#8 →
    value.extractLsb' 8 8 = 0xA5#8 → s.gl.resetReq = none →
    exec (.deviceResetRequest port value) s =
      .next { s with gl := { s.gl with resetReq := some (s.now + 10000, (if port = 0 then 2 else 3)) } }) ∧
  (∀ (s : State) (due : Nat) (cause : BitVec 3), s.gl.resetReq = some (due, cause) → due ≤ s.now →
    ∃ t, exec .deviceReset s = .next t ∧ t.gl.inReset = true ∧ t.gl.cause = cause ∧ t.gl.resets = satAdd s.gl.resets 1 ∧
      t.gl.scratch = s.gl.scratch ∧ t.md = s.md ∧ t.comp = s.comp ∧ t.sec = State.reset.sec ∧ t.parts = State.reset.parts ∧
      t.ctxs = State.reset.ctxs ∧ t.fab = State.reset.fab ∧ t.err = State.reset.err) ∧
  (∀ s : State, ∃ t, exec .resetN s = .next t ∧ t.gl.inReset = true ∧ t.gl.cause = 1 ∧ t.gl.scratch = [] ∧
    t.gl.resets = satAdd s.gl.resets 1 ∧ t.md = s.md ∧ t.comp = s.comp ∧ t.sec = State.reset.sec ∧ t.parts = State.reset.parts) ∧
  (∀ s : State, s.gl.inReset = true →
    exec .resetRelease s = .next { s with
      gl := { s.gl with inReset := false, resetLow := false }
      pwr := { s.pwr with resetAt := s.now }
      tap := (if tapDrives s.tap then .bypass else s.tap) }) ∧
  (∀ (i : TapInstr) (s : State), s.gl.resetLow = true → exec (.tapInstruction i) s = .next { s with tap := i }) ∧
  (∀ (i : TapInstr) (s : State), s.gl.resetLow = false →
    exec (.tapInstruction i) s = .next { s with tap := (if tapDrives i then .bypass else i) })

/-- The set-up window (R431-R433, R435, R438). -/
def Obligations.WindowAccessesAct : Prop :=
  (∀ (port : RlPort) (offset : BitVec 26) (wide : Bool) (value : BitVec 64) (s u : State) (r : Reg) (n : Nat),
    regHit offset.toNat wide = some (r, false) → aligned offset.toNat wide = true → r.guard = some n →
    (wide = false → r.sideEffect64 = false) → mayWrite s port n = true → u = noteTie s port offset.toNat →
    exec (.registerWrite port offset wide value) s =
      .next (writeReg u (some port) r (mergeValue u (some port) r false wide value))) ∧
  (∀ (port : RlPort) (value : BitVec 64) (s u : State), mayWrite s port 0 = true → u = noteTie s port 0x200 →
    exec (.registerWrite port 0x200 false value) s =
      .next { u with gl := { u.gl with semLease := BitVec.ofNat 14 (clamp 1 10000 (value.toNat % 2 ^ 14)) } }) ∧
  (∀ (port : RlPort) (offset : BitVec 26) (wide : Bool) (hw : BitVec 64) (s : State) (r : Reg) (upper : Bool),
    windowOpen s port = true → aligned offset.toNat wide = true → regHit offset.toNat wide = some (r, upper) → r.code = .rc →
    (wide = false → r.sideEffect64 = false) →
    exec (.readClear port offset wide hw) s =
      .next (send (clearReg s r hw) (.regValue port (readWindow s (some port) offset.toNat wide)))) ∧
  (∀ (port : RlPort) (hw : BitVec 64) (s : State), windowOpen s port = true →
    exec (.readClear port 0x210 false hw) s =
      .next (send { s with gl := { s.gl with guardErr0 := hw.setWidth 16, guardErr1 := hw.extractLsb' 16 16 } }
        (.regValue port (BitVec.ofNat 64 (s.gl.guardErr0.toNat + 2 ^ 16 * s.gl.guardErr1.toNat))))) ∧
  (∀ (port : RlPort) (value hwSet : BitVec 64) (s : State), mayWrite s port 0 = true →
    exec (.w1cWrite port 0x208 value hwSet) s =
      .next { s with gl := { s.gl with
        semExpired := (s.gl.semExpired &&& ~~~(value.setWidth 32)) ||| hwSet.setWidth 32 } }) ∧
  (∀ (port : RlPort) (offset : BitVec 26) (size : Nat) (write coherent : Bool) (s : State), windowOpen s port = true →
    refusalReason offset.toNat size coherent ≠ 0 →
    exec (.registerAccessRefused port offset size write coherent) s =
      .next (if write then accessRefused s port offset true (refusalReason offset.toNat size coherent)
        else send (accessRefused s port offset false (refusalReason offset.toNat size coherent)) (.regValue port 0))) ∧
  (∀ (target : Coord) (offset : BitVec 26) (wide write : Bool) (value : BitVec 64) (s : State), unitsRun s = true →
    target ≠ s.sec.coord → s.fab.acting ≠ some target → coordBad target = false →
    exec (.space4Access target offset wide write value) s =
      .next { s with out := s.out ++ [.space4 target offset wide write value] }) ∧
  (∀ (target : Coord) (offset : BitVec 26) (wide write : Bool) (value : BitVec 64) (s : State), unitsRun s = true →
    coordBad target = true →
    exec (.space4Access target offset wide write value) s = .next (report s (fabReport Code.eFabCoord deferred 0 []))) ∧
  (∀ (offset : BitVec 26) (wide : Bool) (value : BitVec 64) (s : State) (r : Reg) (upper : Bool), unitsRun s = true →
    coordBad s.sec.coord = false → aligned offset.toNat wide = true → regHit offset.toNat wide = some (r, upper) → (wide = false → r.sideEffect64 = false) →
    exec (.space4Access s.sec.coord offset wide true value) s =
      .next (writeReg s none r (mergeValue s none r upper wide value))) ∧
  (∀ (port : RlPort) (p : PartI) (s : State), mayWrite s port (6 + p.val) = true → (getPart s p).state = .absent →
    activateBad s p (getPart s p) = false →
    ∃ t, exec (.activate port p) s = .next t ∧ (getPart t p).state = .activating ∧ t = { s with parts := t.parts } ∧
      ∀ q, q ≠ p → getPart t q = getPart s q) ∧
  (∀ (port : RlPort) (p : PartI) (s : State), mayWrite s port (6 + p.val) = true →
    ((getPart s p).state = .active ∨ (getPart s p).state = .faulted) →
    exec (.dissolve port p) s = .next (dissolve s p)) ∧
  (∀ (port : RlPort) (value : BitVec 32) (s : State) (g : Nat), mayWrite s port 0 = true → g = s.gl.granSel.toNat → g < 1136 →
    value.getLsbD 3 = true → (getGran s g).owned = false → (getGran s g).zeroing = false → (getGran s g).lent = false →
    (getPart s (Fin.ofNat 8 value.toNat)).state = .absent →
    ∃ t, exec (.granOwnWrite port value) s = .next t ∧ (getGran t g).owned = true ∧
      (getGran t g).part = Fin.ofNat 8 value.toNat ∧ ∀ h, h ≠ g → getGran t h = getGran s h)

/-- Hardware semaphores (R289-R291). -/
def Obligations.SemaphoresTakeAndRelease : Prop :=
  (∀ (port : RlPort) (n : Fin 32) (s : State), semAnswers s port n.val = true → (getSem s n.val).held = false →
    semRival s port n.val = none →
    ∃ t, exec (.semTake port n) s = .next t ∧
      getSem t n.val = { held := true, owner := port, ticket := (getSem s n.val).ticket + 1, leaseEnd := s.now + leaseNs s } ∧
      (∀ m, m ≠ n.val → getSem t m = getSem s m) ∧ t.gl.semExpired = s.gl.semExpired ∧ t.parts = s.parts ∧
      t.gl.lastTie = (if portsMeet s port (0x100 + 8 * n.val) then port else s.gl.lastTie) ∧
      t.out = s.out ++ [.regValue port (BitVec.ofNat 64 (semWord t (some port) n.val))] ∧ semWord t (some port) n.val / 2 % 2 = 1) ∧
  (∀ (port q : RlPort) (n : Fin 32) (s : State), semAnswers s port n.val = true → (getSem s n.val).held = false →
    semRival s port n.val = some q →
    ∃ t, exec (.semTake port n) s = .next t ∧
      getSem t n.val = { held := true, owner := q, ticket := (getSem s n.val).ticket + 1, leaseEnd := s.now + leaseNs s } ∧
      (∀ m, m ≠ n.val → getSem t m = getSem s m) ∧ t.gl.lastTie = q ∧ q ≠ port) ∧
  (∀ (port : RlPort) (n : Fin 32) (s : State), semAnswers s port n.val = true → holdsSem s port n.val = true →
    s.now < (getSem s n.val).leaseEnd →
    ∃ t, exec (.semTake port n) s = .next t ∧
      getSem t n.val = { getSem s n.val with leaseEnd := s.now + leaseNs s } ∧ (∀ m, m ≠ n.val → getSem t m = getSem s m)) ∧
  (∀ (port : RlPort) (n : Fin 32) (s : State), semAnswers s port n.val = true → (getSem s n.val).held = true →
    (getSem s n.val).owner ≠ port → s.now < (getSem s n.val).leaseEnd → semRival s port n.val = none →
    ∃ t, exec (.semTake port n) s = .next t ∧ (∀ m, getSem t m = getSem s m) ∧
      t.out = s.out ++ [.regValue port (BitVec.ofNat 64 (semWord s (some port) n.val))] ∧ semWord s (some port) n.val / 2 % 2 = 0) ∧
  (∀ (port : RlPort) (n : Fin 32) (value : BitVec 64) (s : State), semAnswers s port n.val = true →
    holdsSem s port n.val = true → s.now < (getSem s n.val).leaseEnd → value.getLsbD 0 = true →
    value.extractLsb' 16 16 = (getSem s n.val).ticket →
    exec (.semRelease port n value) s = .next (setSem s n.val { getSem s n.val with held := false })) ∧
  (∀ (port : RlPort) (n : Fin 32) (value : BitVec 64) (s : State),
    ((getSem s n.val).held = false ∨ s.now < (getSem s n.val).leaseEnd) →
    (value.getLsbD 0 = false ∨ holdsSem s port n.val = false ∨ value.extractLsb' 16 16 ≠ (getSem s n.val).ticket) →
    exec (.semRelease port n value) s = .next s) ∧
  (∀ (n : Fin 32) (s : State), (getSem s n.val).held = true → (getSem s n.val).leaseEnd ≤ s.now → s.sec.stage = 7 →
    exec (.semLeaseExpiry n) s =
      .next (report { s with gl := { s.gl with
          sems := Tbl.set {} s.gl.sems n.val { getSem s n.val with held := false, expired := true }
          semExpired := s.gl.semExpired ||| BitVec.ofNat 32 (2 ^ n.val) } }
        (portReport Code.eSemExpired (getSem s n.val).owner []))) ∧
  (∀ (n : Fin 32) (s : State), ((getSem s n.val).held = false ∨ s.now < (getSem s n.val).leaseEnd) →
    exec (.semLeaseExpiry n) s = .next s)

/-- Boot, keys, attestation and the two commands of a rolling update (R386, R387, R393, R395, R396). -/
def Obligations.BootKeysAndAttestationAct : Prop :=
  (∀ (port : RlPort) (value : BitVec 32) (s u : State), mayBoot s port = true → s.sec.stage = 0 → value.getLsbD 0 = true →
    u = noteTie s port 0x3200008 →
    (value.getLsbD 1 = false → exec (.bootGo port value) s = .next { u with sec := { u.sec with
      stage := 1, bootPort := port, source := false, bport := 0 } }) ∧
    (value.getLsbD 1 = true → exec (.bootGo port value) s = .next (
      let t : State := { u with sec := { u.sec with
        stage := 1, bootPort := port, source := true, bport := value.extractLsb' 2 3 } }
      setFp t (value.extractLsb' 2 3).toNat { getFp t (value.extractLsb' 2 3).toNat with state := .detect, preset := 0 }))) ∧
  (∀ (port : RlPort) (value : BitVec 32) (s : State), mayBoot s port = true → s.sec.stage ≠ 0 →
    exec (.bootGo port value) s = .next (noteTie s port 0x3200008)) ∧
  (∀ (objs : BootObjects) (hw : BootHw) (s : State), s.gl.inReset = false → s.sec.stage = 1 →
    ∃ t, exec (.bootStageEnd objs hw) s = .next t ∧ t.sec = (
      if (s.sec.source = true ∧ objs.aligned = false) ∨ objArrived s objs 0 = false
        then { s.sec with stage := 8, ecode := Code.eBootImage }
      else if hw.seedOk = false then { s.sec with stage := 8, ecode := Code.eBootPuf }
      else if idCertOk (objRead s objs 0 2048 272) = false then { s.sec with stage := 8, ecode := Code.eBootCert }
      else { s.sec with keysMade := true, stage := 2 }) ∧ (s.sec.source = false → t = { s with sec := t.sec })) ∧
  (∀ (objs : BootObjects) (hw : BootHw) (s : State) (m h : Bytes), s.gl.inReset = false → s.sec.stage = 2 →
    m = objRead s objs 1 0 1024 → h = objRead s objs 2 0 4096 →
    ∃ t, exec (.bootStageEnd objs hw) s = .next t ∧ t.sec = (
      if objArrived s objs 1 = false ∨ objArrived s objs 2 = false then { s.sec with stage := 8, ecode := Code.eBootImage }
      else if manifestOk m = false then { s.sec with stage := 8, ecode := Code.eBootManifest }
      else if imageOk h (objRead s objs 2) = false then { s.sec with stage := 8, ecode := Code.eBootImage }
      else if versionBad m h = true then { s.sec with stage := 8, ecode := Code.eBootVersion }
      else { takeObjects s.sec m h with stage := 3 }) ∧
      (t.sec.stage = 3 → t.res.role = BitVec.ofNat 2 (cutNat m 24 4 / 2 ^ 17))) ∧
  (∀ (objs : BootObjects) (hw : BootHw) (s : State), s.gl.inReset = false → s.sec.stage = 4 → hw.ok = true → sparesOk hw = true →
    ∃ t, exec (.bootStageEnd objs hw) s = .next t ∧ t.sec.stage = 5) ∧
  (∀ (objs : BootObjects) (hw : BootHw) (s : State), s.gl.inReset = false → 3 ≤ s.sec.stage.toNat → s.sec.stage.toNat ≤ 5 →
    (hw.ok = false ∨ s.sec.stage = 4 ∧ sparesOk hw = false) →
    exec (.bootStageEnd objs hw) s = .next { s with sec := { s.sec with stage := 8, ecode := Code.eBootHw } }) ∧
  (∀ (objs : BootObjects) (hw : BootHw) (s : State), s.gl.inReset = false → s.sec.stage = 3 → hw.ok = true →
    ∃ t, exec (.bootStageEnd objs hw) s = .next t ∧ t.sec = { s.sec with stage := 4 } ∧
      ∀ p : FPort, getFp t p.val = { getFp s p.val with
        kfp2 := s.sec.kfp2.getLsbD p.val, preset := presetOf s.sec.preset p.val }) ∧
  (∀ (objs : BootObjects) (hw : BootHw) (s : State), s.gl.inReset = false → s.sec.stage = 5 → hw.ok = true →
    ∃ t, exec (.bootStageEnd objs hw) s = .next t ∧ t.sec.stage = 6 ∧ t.uni = [] ∧ t.mem.poison = []) ∧
  (∀ (objs : BootObjects) (hw : BootHw) (s : State), s.gl.inReset = false → s.sec.stage = 6 →
    exec (.bootStageEnd objs hw) s = .next { s with sec := { s.sec with stage := 7 } }) ∧
  (∀ (port : RlPort) (value : BitVec 32) (s : State), mayWrite s port 2 = true → value.toNat % 4 = 1 →
    (getKey s s.sec.keySel).valid = false → (getPart s (Fin.ofNat 8 (value.toNat / 4 % 8))).state = .active →
    ∃ t, exec (.keyLoad port value) s = .next t ∧
      (∀ k, openBlob 0 (readComp s port s.sec.keyAddr.toNat 144) = .ok k →
        getKey t s.sec.keySel = { valid := true, part := Fin.ofNat 8 (value.toNat / 4 % 8), key := k } ∧ t.sec.keyErr = 0) ∧
      (∀ c, openBlob 0 (readComp s port s.sec.keyAddr.toNat 144) = .error c →
        t = report { s with sec := { s.sec with keyErr := c } } (devReport Code.eKeyLoad deferred 15 s.sec.keySel.val []))) ∧
  (∀ (port : RlPort) (value : BitVec 32) (s : State), mayWrite s port 2 = true → value.toNat % 4 = 2 →
    keyBound s s.sec.keySel = false →
    ∃ t, exec (.keyClear port value) s = .next t ∧ getKey t s.sec.keySel = {} ∧ t.sec.keyErr = 0 ∧
      ∀ k, k ≠ s.sec.keySel → getKey t k = getKey s k) ∧
  (∀ (port : RlPort) (value : BitVec 32) (s : State), mayWrite s port 2 = true → value.toNat % 4 = 2 →
    keyBound s s.sec.keySel = true →
    exec (.keyClear port value) s = .next { s with sec := { s.sec with keyErr := 6 } }) ∧
  (∀ (port : RlPort) (value : BitVec 32) (s : State), mayWrite s port 2 = true → value.getLsbD 0 = true →
    ∃ t h, exec (.attGo port value true) s = .next t ∧ t.sec = { s.sec with attDone := true, attFail := false } ∧
      h = attHead s (Fin.ofNat 8 (value.toNat / 2 % 8)) (value.getLsbD 4) ∧
      t.comp = Memory.write s.comp (compKey port s.sec.attAddr.toNat) (h ++ ecdsaSign ikScalar (sha256 h)) ∧
      t.ls = s.ls ∧ t.uni = s.uni) ∧
  (∀ (port : RlPort) (value : BitVec 32) (s : State), mayWrite s port 2 = true → value.getLsbD 0 = true →
    exec (.attGo port value false) s =
      .next (report { s with sec := { s.sec with attDone := false, attFail := true } } (devReport Code.eAttFail deferred 15 0 []))) ∧
  (∀ (port : RlPort) (value : BitVec 32) (s : State) (l : List Nat), mayWrite s port 18 = true → value.extractLsb' 0 2 = 1#2 →
    (value.extractLsb' 2 3).toNat < 4 → s.res.role = 1 → s.res.tstate = 2 → s.fab.acting = none → s.res.plan.left = none →
    l = mirroredCtxs s (trayCoord s (value.extractLsb' 2 3).toNat) → l ≠ [] →
    ∃ t, exec (.planTakeover port value) s = .next t ∧ t = { s with res := { s.res with plan := t.res.plan } } ∧
      t.res.plan.cmd = 1 ∧ t.res.plan.slot = value.extractLsb' 2 3 ∧ t.res.plan.left = some l ∧
      t.res.plan.done = false ∧ t.res.plan.err = false) ∧
  (∀ (port : RlPort) (value : BitVec 32) (s u : State) (l : List Nat), mayWrite s port 18 = true →
    value.extractLsb' 0 2 = 2#2 → (value.extractLsb' 2 3).toNat < 4 →
    s.fab.acting = some (trayCoord s (value.extractLsb' 2 3).toNat) → s.res.plan.left = none → l = actingCtxs s → l ≠ [] →
    u = copyPages s (trayCoord s (value.extractLsb' 2 3).toNat) →
    ∃ t, exec (.planHandback port value true s.sec.detrev) s = .next t ∧ t = { u with res := { u.res with plan := t.res.plan } } ∧
      t.res.plan.cmd = 2 ∧ t.res.plan.slot = value.extractLsb' 2 3 ∧ t.res.plan.left = some l ∧
      t.res.plan.done = false ∧ t.res.plan.err = false)

/-- XD_RES_PLAN (R396). -/
def Obligations.UpdatePlansStart : Prop :=
  (∀ (port : RlPort) (value : BitVec 32) (s : State), mayWrite s port 18 = true → value.extractLsb' 0 2 = 1#2 →
    (value.extractLsb' 2 3).toNat < 4 → s.res.role = 1 → s.res.tstate = 2 → s.fab.acting = none → s.res.plan.left = none →
    (mirroredCtxs s (trayCoord s (value.extractLsb' 2 3).toNat) ≠ [] →
      exec (.planTakeover port value) s = .next { s with res := { s.res with plan := {
        cmd := 1, slot := value.extractLsb' 2 3, left := some (mirroredCtxs s (trayCoord s (value.extractLsb' 2 3).toNat)) } } }) ∧
    (mirroredCtxs s (trayCoord s (value.extractLsb' 2 3).toNat) = [] →
      ∃ t, exec (.planTakeover port value) s = .next t ∧ t.res.plan.done = true ∧ t.res.plan.left = none ∧
        t.fab.acting = some (trayCoord s (value.extractLsb' 2 3).toNat) ∧
        t = planDone (takeOver { s with res := { s.res with plan := { cmd := 1, slot := value.extractLsb' 2 3, left := some [] } } }
          (trayCoord s (value.extractLsb' 2 3).toNat)))) ∧
  (∀ (port : RlPort) (value : BitVec 32) (detrev : BitVec 8) (s : State), mayWrite s port 18 = true →
    value.extractLsb' 0 2 = 2#2 → (value.extractLsb' 2 3).toNat < 4 →
    s.fab.acting = some (trayCoord s (value.extractLsb' 2 3).toNat) → detrev = s.sec.detrev → s.res.plan.left = none →
    ∃ t, exec (.planHandback port value true detrev) s = .next t ∧
      t = planStart (copyPages s (trayCoord s (value.extractLsb' 2 3).toNat)) 2 (value.extractLsb' 2 3) (actingCtxs s) ∧
      (actingCtxs s ≠ [] → t.res.plan = { cmd := 2, slot := value.extractLsb' 2 3, left := some (actingCtxs s) } ∧
        t.fab.acting = s.fab.acting) ∧
      (actingCtxs s = [] → t.res.plan.done = true ∧ t.res.plan.left = none ∧ t.fab.acting = none ∧ t.res.tstate = 1)) ∧
  (∀ (cid : CtxId) (s u : State), unitsRun s = true → protects s cid.part = true → u = protectorMark s cid.part →
    u.res.plan.left = some [CtxId.key cid] → u.res.plan.cmd = 1 →
    ∃ t, exec (.epochMarkAgreed cid) s = .next t ∧ t.res.plan.done = true ∧ t.res.plan.left = none ∧
      t.fab.acting = some (trayCoord u u.res.plan.slot.toNat)) ∧
  (∀ (port : RlPort) (value : BitVec 32) (detrev : BitVec 8) (s : State), mayWrite s port 18 = true →
    value.extractLsb' 0 2 = 2#2 → detrev ≠ s.sec.detrev →
    exec (.planHandback port value true detrev) s =
      .next (report { s with res := { s.res with plan := {
          cmd := 2, slot := value.extractLsb' 2 3, err := true, left := s.res.plan.left } } }
        (devReport Code.eUpdatePlan deferred 19 0 [])))

/-- Contexts and their rings (R293-R298, R311, R330). -/
def Obligations.ContextsAndRingsAct : Prop :=
  (∀ (port : RlPort) (s : State) (st rt : Bytes), mayWrite s port 5 = true → bringupRefused s (selectedCtx s) true = false →
    ctxDescOk s (selectedCtx s) (leNat (readComp s port s.rl.ctxDesc.toNat 128))
      (ctxDescOf (leNat (readComp s port s.rl.ctxDesc.toNat 128))) = true →
    readUni s (selectedCtx s).part (ctxDescOf (leNat (readComp s port s.rl.ctxDesc.toNat 128))).slottab.toNat 512 = .ok st →
    (if (ctxDescOf (leNat (readComp s port s.rl.ctxDesc.toNat 128))).rngtab = 0 then .ok [] else
      readUni s (selectedCtx s).part (ctxDescOf (leNat (readComp s port s.rl.ctxDesc.toNat 128))).rngtab.toNat 512) = .ok rt →
    slotTableOk (slotWords st) = true →
    exec (.bringup port true) s =
      .next (bringupDone s (selectedCtx s) (ctxDescOf (leNat (readComp s port s.rl.ctxDesc.toNat 128))) ((slotWords st).map slotOf)
        (if (ctxDescOf (leNat (readComp s port s.rl.ctxDesc.toNat 128))).rngtab = 0 then [] else rngTable rt))) ∧
  (∀ (port : RlPort) (readable : Bool) (s : State), mayWrite s port 5 = true → bringupRefused s (selectedCtx s) readable = true →
    exec (.bringup port readable) s =
      .next (report s { ctxReport Code.eCtxDesc deferred (selectedCtx s) 14 port.val [] with ring := some port })) ∧
  (∀ (port : RlPort) (s : State), mayWrite s port 5 = true → (getCtx s (selectedCtx s)).state ≠ .absent →
    (getCtx s (selectedCtx s)).state ≠ .teardown →
    ∃ t, exec (.teardown port) s = .next t ∧ (getCtx t (selectedCtx s)).state = .absent ∧
      (getCtx t (selectedCtx s)).desc = {} ∧ (getCtx t (selectedCtx s)).weight = (getCtx s (selectedCtx s)).weight ∧
      ∀ k, getSeq t (selectedCtx s) k = {}) ∧
  (∀ (port : RlPort) (s : State), mayWrite s port 5 = true → (getCtx s (selectedCtx s)).state = .absent →
    exec (.teardown port) s = .next s) ∧
  (∀ (cid : CtxId) (s : State) (line : Bytes), lineWatched s cid = true →
    line = readComp s (getCtx s cid).desc.rport (getCtx s cid).desc.dbell.toNat 8 →
    2 ^ (getCtx s cid).desc.clog2.toNat < ahead (BitVec.ofNat 32 (leNat (line.take 4))) (getCtx s cid).cmdHead →
    exec (.doorbell cid) s = .next (report s (ctxReport Code.eRingIndex contextFatal cid 14 (getCtx s cid).desc.rport.val []))) ∧
  (∀ (cid : CtxId) (s : State) (line : Bytes) (tail : BitVec 32), lineWatched s cid = true → (getCtx s cid).state ≠ .ready →
    line = readComp s (getCtx s cid).desc.rport (getCtx s cid).desc.dbell.toNat 8 → tail = BitVec.ofNat 32 (leNat (line.take 4)) →
    ahead tail (getCtx s cid).cmdHead ≤ 2 ^ (getCtx s cid).desc.clog2.toNat →
    (ahead (BitVec.ofNat 32 (leNat (line.drop 4))) (getCtx s cid).cplTail = 0 ∨
      2 ^ 31 ≤ ahead (BitVec.ofNat 32 (leNat (line.drop 4))) (getCtx s cid).cplTail) →
    exec (.doorbell cid) s = .next (setCtx s cid { getCtx s cid with
      cmdTail := tail, cplHead := BitVec.ofNat 32 (leNat (line.drop 4))
      yielded := (getCtx s cid).yielded && !(tail != (getCtx s cid).cmdTail) })) ∧
  (∀ (cid : CtxId) (s : State) (line : Bytes), lineWatched s cid = true → (getCtx s cid).state = .ready → isResident s cid = false →
    line = readComp s (getCtx s cid).desc.rport (getCtx s cid).desc.dbell.toNat 8 →
    ahead (BitVec.ofNat 32 (leNat (line.take 4))) (getCtx s cid).cmdHead ≤ 2 ^ (getCtx s cid).desc.clog2.toNat →
    (ahead (BitVec.ofNat 32 (leNat (line.drop 4))) (getCtx s cid).cplTail = 0 ∨
      2 ^ 31 ≤ ahead (BitVec.ofNat 32 (leNat (line.drop 4))) (getCtx s cid).cplTail) →
    ∃ t, exec (.doorbell cid) s = .next t ∧ (getCtx t cid).cmdTail = BitVec.ofNat 32 (leNat (line.take 4)) ∧
      (getCtx t cid).cplHead = BitVec.ofNat 32 (leNat (line.drop 4)) ∧ (getCtx t cid).cmdHead = (getCtx s cid).cmdHead ∧
      t.seqs = s.seqs ∧ t.ls = s.ls ∧ t.uni = s.uni ∧ t.comp = s.comp) ∧
  (∀ (cid : CtxId) (s t : State), ringLive s cid = true → isResident s cid = true → (getPart s cid.part).switching = none →
    t = handOver (ahead (getCtx s cid).cmdTail (getCtx s cid).cmdHead) s cid →
    exec (.sequencerQueueRoom cid) s =
      .next (if (getCtx s cid).replayed.contains ((getCtx t cid).cmdHead - 1) then t else writeStatus t cid)) ∧
  (∀ (core : CoreI) (pos listPos : BitVec 32) (s : State) (f : InFlight), unitsRun s = true →
    namedFlight s core.val pos listPos = some f → f.fin.isSome = true →
    exec (.commandComplete core pos listPos) s = .next (regainAt (finish s core.val f.entry) core.val)) ∧
  (∀ (core : CoreI) (pos listPos : BitVec 32) (s : State) (e : Entry), unitsRun s = true →
    namedFlight s core.val pos listPos = none → fenceEnds s core.val pos = some e →
    exec (.commandComplete core pos listPos) s = .next (regainAt (endBlock s core.val e okOutcome) core.val)) ∧
  (∀ (core : CoreI) (pos listPos : BitVec 32) (s : State) (c : CtxId) (held : Nat) (f : InFlight), unitsRun s = true →
    coreCtx s core.val = some c →
    (getSeq s c core.val).inflight.find? (fun g => isEntry pos listPos g && g.heldAt.isSome) = some f → f.heldAt = some held →
    cplRingFull (getCtx s c) = true → held + hangNs s c ≤ residentClock s c →
    exec (.cplFull core pos listPos) s = .next (report s (cmdReport Code.eCplFull contextFatal f.entry 0 core.val []))) ∧
  (∀ (p : PartI) (s u : State) (r c : CtxI), (getPart s p).resident = some r → unitsRun s = true → (getPart s p).state = .active →
    (getPart s p).switching = none → (getPart s p).sliceEnd ≤ s.now → u = renewResidency s p →
    bestOf u p ((withWork u p).filter (· != r)) = some c → ranksBefore u p c r = true →
    ∃ t x, exec (.sliceEnd p) s = .next t ∧ t = { u with parts := t.parts } ∧ (getPart t p).switching = some x ∧
      x.incoming = some c ∧ x.stopAt = u.now ∧ x.atSliceEnd = true) ∧
  (∀ (p : PartI) (s : State) (r n : CtxI), (getPart s p).resident = some r →
    bestOf s p ((withWork s p).filter (· != r)) = some n → unitsRun s = true → (getPart s p).state = .active →
    (getPart s p).switching = none → (coresOf (getPart s p)).all (fun k => coreIdles s (getSeq s ⟨p, r⟩ k)) = true →
    ∃ t x, exec (.contextYield p) s = .next t ∧ (getCtx t ⟨p, r⟩).yielded = true ∧ (getPart t p).switching = some x ∧
      x.incoming = some n ∧ x.stopAt = s.now ∧ t.ls = s.ls ∧ t.seqs = s.seqs) ∧
  (∀ (p : PartI) (s : State) (x : Switching) (r : CtxI), (getPart s p).switching = some x → (getPart s p).resident = some r →
    unitsRun s = true → x.saved = false → (coresOf (getPart s p)).all (fun k => coreStopped (getSeq s ⟨p, r⟩ k)) = true →
    ∃ t y, exec (.switchCoresStopped p) s = .next t ∧ (getPart t p).switching = some y ∧ y.saved = true ∧
      y.incoming = x.incoming ∧ s.now ≤ y.savedAt) ∧
  (∀ (p : PartI) (s : State) (x : Switching) (r : CtxI), (getPart s p).switching = some x → unitsRun s = true → x.saved = true →
    x.savedAt ≤ s.now → x.incoming = some r → (getCtx s ⟨p, r⟩).state = .ready →
    exec (.switchDone p) s = .next (makeResident s p x r)) ∧
  (∀ (core : CoreI) (pos listPos : BitVec 32) (s : State) (c : CtxId) (t : Nat) (f : InFlight),
    coreCtx s core.val = some c → stopAsked s c core.val = some t →
    (getSeq s c core.val).inflight.find? (fun f => isEntry pos listPos f && f.heldAt.isNone) = some f → unitsRun s = true →
    fld f.entry.desc 24 2 = 1 → f.capped = false → t + 500000 ≤ s.now →
    ∃ u, exec (.wholeCap core pos listPos) s = .next (report u (cmdReport Code.ePclassCap corrected f.entry 0 core.val [])) ∧
      (∃ g ∈ (getSeq u c core.val).inflight, g.entry = f.entry ∧ g.capped = true) ∧ u.ls = s.ls ∧ u.parts = s.parts)

/-- Building and dissolving partitions (R314, R315, R317). -/
def Obligations.PartitionsBuildAndDissolve : Prop :=
  (∀ (port : RlPort) (p : PartI) (s : State), mayWrite s port (6 + p.val) = true → (getPart s p).state = .absent →
    activateBad s p (getPart s p) = false →
    exec (.activate port p) s = .next (setPart s p { getPart s p with state := .activating })) ∧
  (∀ (port : RlPort) (p : PartI) (s : State), mayWrite s port (6 + p.val) = true → (getPart s p).state = .absent →
    activateBad s p (getPart s p) = true →
    exec (.activate port p) s =
      .next (report (setPart s p { getPart s p with ecode := Code.ePartCfg }) (partReport Code.ePartCfg deferred p 19 0 []))) ∧
  (∀ (port : RlPort) (p : PartI) (s : State), mayWrite s port (6 + p.val) = true → (getPart s p).state ≠ .absent →
    exec (.activate port p) s =
      .next { s with gl := { s.gl with partCfgErr := s.gl.partCfgErr ||| BitVec.ofNat 8 (2 ^ p.val) } }) ∧
  (∀ (p : PartI) (s : State), unitsRun s = true → (getPart s p).state = .activating →
    ∃ t, exec (.partitionActivated p) s = .next t ∧ (getPart t p).state = .active ∧ (getPart t p).resident = none ∧
      (getPart t p).actSeq = s.gl.actCount + 1 ∧ t.gl.actCount = s.gl.actCount + 1 ∧
      (∀ core ∈ coresOf (getPart s p), ∀ a n, a + n ≤ lsSize → ∀ b ∈ readLs t core a n, b = 0) ∧
      (∀ g ∈ ownedGrans s p, ∀ i ∈ granPages g, i ∉ savePages (getPart s p) → getPte t i = homePte p i) ∧
      (∀ i ∈ savePages (getPart s p), (getPte t i).reserved = true) ∧ t.uni = s.uni ∧ t.comp = s.comp) ∧
  (∀ (port : RlPort) (p : PartI) (s : State), mayWrite s port (6 + p.val) = true →
    ((getPart s p).state = .active ∨ (getPart s p).state = .faulted) →
    exec (.dissolve port p) s =
      .next (finishDissolve ((ownedGrans ((coresOf (getPart s p)).foldl zeroLs
          (clearPages (endPartUnits (teardownAll (setPart s p { getPart s p with state := .dissolving }) p) p) p)) p).foldl
            (fun t g => setGran t g { getGran t g with zeroing := true })
          ((coresOf (getPart s p)).foldl zeroLs
            (clearPages (endPartUnits (teardownAll (setPart s p { getPart s p with state := .dissolving }) p) p) p))) p)) ∧
  (∀ (port : RlPort) (p : PartI) (s : State), mayWrite s port (6 + p.val) = true →
    ((getPart s p).state = .active ∨ (getPart s p).state = .faulted) →
    ∃ t, exec (.dissolve port p) s = .next t ∧
      (getPart t p).state = (if ownedGrans s p = [] then .absent else .dissolving) ∧
      (∀ c : CtxI, (getCtx t ⟨p, c⟩).state = .absent) ∧ (∀ i, (getPte t i).owned = true → (getPte t i).part ≠ p) ∧
      (∀ g ∈ ownedGrans s p, (getGran t g).zeroing = true) ∧ (getRes t p).state = .off ∧
      (∀ core ∈ coresOf (getPart s p), ∀ a n, a + n ≤ lsSize → ∀ b ∈ readLs t core a n, b = 0)) ∧
  (∀ (port : RlPort) (p : PartI) (s : State), mayWrite s port (6 + p.val) = true →
    ((getPart s p).state = .activating ∨ (getPart s p).state = .absent ∨ (getPart s p).state = .dissolving) →
    exec (.dissolve port p) s =
      .next { s with gl := { s.gl with partCfgErr := s.gl.partCfgErr ||| BitVec.ofNat 8 (2 ^ p.val) } }) ∧
  (∀ (g : GranI) (s : State), unitsRun s = true → (getGran s g.val).zeroing = true →
    ∃ t, exec (.granuleZeroed g) s = .next t ∧ (getGran t g.val).owned = false ∧ (getGran t g.val).zeroing = false ∧
      (∀ h, h ≠ g.val → getGran t h = getGran s h) ∧
      (∀ a, Memory.readByte t.uni a =
        if granAddr g.val ≤ a ∧ a < granAddr g.val + 2 ^ 30 then 0 else Memory.readByte s.uni a) ∧ t.ls = s.ls ∧ t.comp = s.comp) ∧
  (∀ (port : RlPort) (value : BitVec 32) (s : State), mayWrite s port 0 = true → s.gl.granSel.toNat < 1136 →
    value.getLsbD 3 = true → (getGran s s.gl.granSel.toNat).owned = false → (getGran s s.gl.granSel.toNat).zeroing = false →
    (getGran s s.gl.granSel.toNat).lent = false → (getPart s (Fin.ofNat 8 value.toNat)).state = .absent →
    exec (.granOwnWrite port value) s =
      .next (setGran s s.gl.granSel.toNat { getGran s s.gl.granSel.toNat with part := Fin.ofNat 8 value.toNat, owned := true })) ∧
  (∀ (port : RlPort) (value : BitVec 32) (s : State), mayWrite s port 0 = true → s.gl.granSel.toNat < 1136 →
    value.getLsbD 3 = false → (getGran s s.gl.granSel.toNat).owned = false →
    exec (.granOwnWrite port value) s =
      .next (setGran s s.gl.granSel.toNat { getGran s s.gl.granSel.toNat with part := Fin.ofNat 8 value.toNat, owned := false }))

/-- Ryutil ports and their companions (R284, R288). -/
def Obligations.RyutilPortsAct : Prop :=
  (∀ (port : RlPort) (s : State), rlUp s port = true → s.sec.stage = 7 →
    exec (.rlPortDown port) s =
      .next (report ((upto 32).foldl (fun t n => if holdsSem t port n then loseSem t n else t)
          (setRl s port { getRl s port with state := 0, lanes := 0, retryAt := s.now + 10000000 }))
        (portReport Code.eRlDown (otherPort port) []))) ∧
  (∀ (port : RlPort) (s : State), rlUp s port = true → s.sec.stage ≠ 7 →
    ∃ t, exec (.rlPortDown port) s = .next t ∧ rlUp t port = false ∧
      (∀ n, n < 32 → holdsSem t port n = false) ∧
      (∀ n, n < 32 → holdsSem s port n = true → (getSem t n).expired = true ∧ t.gl.semExpired.getLsbD n = true) ∧
      (∀ n, holdsSem s port n = false → getSem t n = getSem s n)) ∧
  (∀ (port : RlPort) (s : State), rlUp s port = false → s.gl.inReset = false → (getRl s port).retryAt ≤ s.now →
    exec (.rlPortRetrain port 0) s =
      .next (setRl s port { getRl s port with state := 1, lanes := 0, retryAt := s.now + 10000000 })) ∧
  (∀ (port : RlPort) (lanes : Fin 9) (s : State), rlUp s port = false → s.gl.inReset = false →
    (getRl s port).retryAt ≤ s.now → lanes ≠ 0 → (getRing s port).hold = [] → unitsRun s = false →
    exec (.rlPortRetrain port lanes) s =
      .next (setRl s port { getRl s port with state := 2, lanes := BitVec.ofNat 4 lanes.val })) ∧
  (∀ (port : RlPort) (lanes : Fin 9) (s : State), rlUp s port = false → s.gl.inReset = false →
    (getRl s port).retryAt ≤ s.now → lanes ≠ 0 →
    ∃ t, exec (.rlPortRetrain port lanes) s = .next t ∧
      getRl t port = { getRl s port with state := 2, lanes := BitVec.ofNat 4 lanes.val } ∧ getRl t (otherPort port) = getRl s (otherPort port)) ∧
  (∀ (port : RlPort) (m : ReqMsg) (gaddr : BitVec 64) (s : State) (c : CtxId), unitsRun s = true → rlUp s port = true →
    (getRl s port).cpnEn = true → coordBad (gCoord gaddr.toNat) = false → gAligned m.op gaddr.toNat = true →
    (m.op = .write → m.bmask ≠ 0) → inReach s m.op gaddr.toNat = true →
    (isBulk m.op = true → m.len ≠ 0 ∧ m.len.toNat % 64 = 0) → tagCtx s (getRl s port).cpnJtag = some c → atRest s = true →
    (gSpace gaddr.toNat = 3 → exec (.companionRequest port m gaddr) s =
      .next (sendCpn s c port (gCoord gaddr.toNat) (cpnReqs s port (getRl s port).cpnJtag m gaddr.toNat))) ∧
    (gSpace gaddr.toNat ≠ 3 → ∃ (t : State × BitVec 16) (m' : ReqMsg), t = takeSeq s (128 + port.val) 0 (gCoord gaddr.toNat) ∧
      m' = { m with
        src := servedCoord s, jtag := (getRl s port).cpnJtag, space := BitVec.ofNat 3 (gSpace gaddr.toNat), sid := t.2
        addr := BitVec.ofNat 44 (gAddr gaddr.toNat), cpn := true, cpnPort := port
        shared := m.shared && gSpace gaddr.toNat == 1, own := m.own && gSpace gaddr.toNat == 1 } ∧
      exec (.companionRequest port m gaddr) s =
        .next (sendReq { t.1 with msf := { t.1.msf with cpn := t.1.msf.cpn ++
            [{ port := port, sid := t.2, dst := gCoord gaddr.toNat, req := m', retry := none, group := t.2 }] } }
          c (gCoord gaddr.toNat) m'))) ∧
  (∀ (port : RlPort) (m : ReqMsg) (gaddr : BitVec 64) (s : State), unitsRun s = true → rlUp s port = true →
    (getRl s port).cpnEn = true → coordBad (gCoord gaddr.toNat) = true →
    exec (.companionRequest port m gaddr) s = .next (refuseCpn (report s (fabReport Code.eFabCoord deferred 0 [])) port m 2)) ∧
  (∀ (port : RlPort) (m : ReqMsg) (gaddr : BitVec 64) (s : State), unitsRun s = true → rlUp s port = true →
    (getRl s port).cpnEn = false →
    exec (.companionRequest port m gaddr) s = .next (send s (.companion port (.rsp
      { src := servedCoord s, jtag := m.jtag, sid := m.sid, status := 2, result := 0, cpn := true, cpnPort := port, data := [] }))))

/-- The matrix, vector, scale-pass and pruning engines (R52-R86). -/
def Obligations.EnginesWriteTheirResults : Prop :=
  (∀ (e : Entry) (s u : State) (core : Nat) (rs : List Range) (x : Mm) (r : RunResult), x = mmOf false e.desc →
    issues s e (mmRow e 0x0100 false) core rs = true → u = issued s e (mmRow e 0x0100 false) core rs → x.m ≠ 0 → x.n ≠ 0 →
    r = runTiles u core e.cid x (mmPair u core x) (mmTiles x) → r.fault = none →
    exec (.opMatmul e) s =
      .next (endCmd (watch (writeAll (if x.outmode = 0 then advanceRng u e.cid x.rng x.cvt (x.m * x.n) else u) core r.writes)
        e.cid (x.watched && r.event)) core e okOutcome)) ∧
  (∀ (e : Entry) (s u : State) (core : Nat) (rs : List Range) (x : Mm) (r : RunResult), x = mmOf true e.desc →
    issues s e (mmRow e 0x0101 true) core rs = true → u = issued s e (mmRow e 0x0101 true) core rs → x.m ≠ 0 → x.n ≠ 0 →
    r = runTiles u core e.cid x (mmPair u core x) (mmTiles x) → r.fault = none →
    exec (.opMatmulSparse e) s =
      .next (endCmd (watch (writeAll (if x.outmode = 0 then advanceRng u e.cid x.rng x.cvt (x.m * x.n) else u) core r.writes)
        e.cid (x.watched && r.event)) core e okOutcome)) ∧
  (∀ (e : Entry) (s u : State) (core : Nat) (rs : List Range) (x : Vc) (r : RunResult), x = vcOf e.desc →
    issues s e (vchainRow e) core rs = true → u = issued s e (vchainRow e) core rs → x.rows ≠ 0 → x.cols ≠ 0 →
    r = runRows u e.cid core x (upto x.rows) → r.fault = none →
    exec (.opVchain e) s =
      .next (endCmd (watch (writeAll (advanceRng u e.cid x.rng x.cvt x.draws) core r.writes) e.cid (x.watched && r.event))
        core e okOutcome)) ∧
  (∀ (e : Entry) (s u : State) (core : Nat) (rs : List Range) (x : At), x = atOf e.desc →
    issues s e (attnRow e) core rs = true → u = issued s e (attnRow e) core rs →
    exec (.opAttnBlock e) s =
      .next (endCmd (watch (writeAll (advanceRng u e.cid x.rng x.cvt x.draws) core
          (((upto x.mq).map (atRow u e.cid core x)).flatMap (·.1))) e.cid
        (x.watched && ((upto x.mq).map (atRow u e.cid core x)).any (·.2))) core e okOutcome)) ∧
  (∀ (e : Entry) (s u : State) (core : Nat) (rs : List Range) (x : Sp), x = spOf e.desc →
    issues s e (scaleRow e) core rs = true → u = issued s e (scaleRow e) core rs → x.accum = false →
    exec (.opScalepass e) s =
      .next (endCmd (writeLs u core x.reca (scaleBytes (scaleRec x.tf (spRows u core x)))) core e okOutcome)) ∧
  (∀ (e : Entry) (s u : State) (core : Nat) (rs : List Range) (x : Sp), x = spOf e.desc →
    issues s e (scaleRow e) core rs = true → u = issued s e (scaleRow e) core rs → x.accum = true →
    (scaleOf (readLs u core x.reca 16)).tfmt = x.tf →
    exec (.opScalepass e) s =
      .next (endCmd (writeLs u core x.reca
        (scaleBytes (scaleMerge (scaleOf (readLs u core x.reca 16)) (scaleRec x.tf (spRows u core x))))) core e okOutcome)) ∧
  (∀ (e : Entry) (s u : State) (core : Nat) (rs : List Range) (x : Pr), x = prOf e.desc →
    issues s e (pruneOpRow e) core rs = true → u = issued s e (pruneOpRow e) core rs →
    exec (.opPrune e) s =
      .next (endCmd (writeAll u core ((upto x.rows).flatMap (pruneRow u core x))) core e okOutcome))

/-- The DMA engine's copies (R223-R227, R236). -/
def Obligations.CopiesMoveTheirRows : Prop :=
  (∀ (e : Entry) (s u : State) (core : Nat) (rs : List Range) (x : Dm) (rows : List Bytes), x = dmOf e.desc →
    issues s e (dmaRow e) core rs = true → u = issued s e (dmaRow e) core rs → x.rows ≠ 0 → x.dstLocal = true →
    dmaRead u e.cid.part core x = .ok rows →
    exec (.opDma e) s =
      .next (endCmd (writeAll u core ((rowAddrs x.dst x.outRows (64 * x.dld)).zip (dmaOut x rows))) core e okOutcome)) ∧
  (∀ (e : Entry) (s u v : State) (core : Nat) (rs : List Range) (x : Dm) (rows : List Bytes), x = dmOf e.desc →
    issues s e (dmaRow e) core rs = true → u = issued s e (dmaRow e) core rs → x.rows ≠ 0 → x.dstLocal = false →
    dmaRead u e.cid.part core x = .ok rows →
    writeUniAll u e.cid.part ((rowAddrs x.dst x.outRows (64 * x.dld)).zip (dmaOut x rows)) = .ok v →
    exec (.opDma e) s = .next (endCmd v core e okOutcome)) ∧
  (∀ (e : Entry) (s u : State) (core : Nat) (rs : List Range) (x : Ga) (l : List (Nat × Nat × Bool)) (ws : List (Nat × Bytes)),
    x = gaOf e.desc → issues s e (gaRow e 0x0201 true (runGather e)) core rs = true →
    u = issued s e (gaRow e 0x0201 true (runGather e)) core rs → gaEmpty u core x = false →
    gaRows u e.cid.part core x = .ok l → gatherWrites u e.cid.part x.rowb l = .ok ws →
    exec (.opGather e) s = .next (endCmd (writeAll u core ws) core e okOutcome)) ∧
  (∀ (e : Entry) (s u v : State) (core : Nat) (rs : List Range) (x : Ga) (l : List (Nat × Nat × Bool)),
    x = gaOf e.desc → issues s e (gaRow e 0x0202 false (runScatter e)) core rs = true →
    u = issued s e (gaRow e 0x0202 false (runScatter e)) core rs → gaEmpty u core x = false →
    gaRows u e.cid.part core x = .ok l →
    writeUniAll u e.cid.part ((l.filter (fun r => r.2.2)).map (fun r => (r.1, readLs u core r.2.1 x.rowb))) = .ok v →
    exec (.opScatter e) s = .next (endCmd v core e okOutcome))

/-- OP_MIGRATE and the switch of a page (R219-R222). The result record goes to RES when RES is not 0. -/
def Obligations.MigrationsChangeThePageTable : Prop :=
  (∀ (e : Entry) (s u v w : State) (core : Nat) (rs : List Range) (x : Mg) (plan : List (Nat × Frame)) (spilled : Nat),
    x = mgOf e.desc → issues s e (migRow e 0 .now (runMigPlace e)) core rs = true →
    u = issued s e (migRow e 0 .now (runMigPlace e)) core rs → placePlan u e.cid.part x = some plan →
    spilled = (plan.filter (fun q => x.hint != 0 && (tierOrder x.hint).head? != some q.2.1)).length →
    w = countSpill (hintPages (plan.foldl (fun t q => backPage t q.1 q.2) u) (plan.map (·.1)) x.hint x.pin) spilled →
    writeUniAll w e.cid.part
      ((if x.zero then plan.map (fun q => (pageAddr q.1, zeroPage)) else []) ++ migRecord x plan.length spilled) = .ok v →
    exec (.opMigratePlace e) s = .next (endCmd v core e okOutcome)) ∧
  (∀ (e : Entry) (s u : State) (core : Nat) (rs : List Range) (x : Mg) (q : Nat × Frame) (plan : List (Nat × Frame)),
    x = mgOf e.desc → issues s e (migRow e 1 .now (runCopies e)) core rs = true →
    u = issued s e (migRow e 1 .now (runCopies e)) core rs → x.mode = 1 → movePlan u e.cid.part x = some (q :: plan) →
    ∃ t, exec (.opMigrateMove e) s = .next t ∧ (getPte t q.1).moving = true ∧ t.uni = s.uni ∧ t.ls = s.ls ∧
      t.mem.migs = s.mem.migs ++
        [{ entry := e, core := Fin.ofNat 128 core, moves := (q :: plan).map moveOf, changed := plan.length + 1 }]) ∧
  (∀ (e : Entry) (s u : State) (core : Nat) (rs : List Range) (x : Mg) (q : Nat × Frame) (plan : List (Nat × Frame)),
    x = mgOf e.desc → issues s e (migRow e 2 .now (runCopies e)) core rs = true →
    u = issued s e (migRow e 2 .now (runCopies e)) core rs → x.mode = 2 → swapPlan u e.cid.part x = some (q :: plan) →
    ∃ t, exec (.opMigrateSwap e) s = .next t ∧ (getPte t q.1).moving = true ∧ t.uni = s.uni ∧ t.ls = s.ls ∧
      t.mem.migs = s.mem.migs ++
        [{ entry := e, core := Fin.ofNat 128 core, moves := (q :: plan).map moveOf, changed := 2 * x.n }]) ∧
  (∀ (e : Entry) (s u v : State) (core : Nat) (rs : List Range) (x : Mg), x = mgOf e.desc →
    issues s e (migRow e 3 .ctx (runRelease e)) core rs = true → u = issued s e (migRow e 3 .ctx (runRelease e)) core rs →
    writeUniAll (x.pages.foldl (fun t i => setPte t i { getPte t i with backed := false }) u) e.cid.part (migRecord x x.n 0) = .ok v →
    exec (.opMigrateRelease e) s = .next (endCmd v core e okOutcome)) ∧
  (∀ (e : Entry) (s u v : State) (core : Nat) (rs : List Range) (x : Mg), x = mgOf e.desc →
    issues s e (migRow e 4 .now (runSethint e)) core rs = true → u = issued s e (migRow e 4 .now (runSethint e)) core rs →
    writeUniAll (hintPages u x.pages x.hint x.pin) e.cid.part (migRecord x x.n 0) = .ok v →
    exec (.opMigrateSethint e) s = .next (endCmd v core e okOutcome)) ∧
  (∀ (page : Fin 712704) (s u : State) (m : Mig) (v w : PageMove) (rest : List PageMove), unitsRun s = true →
    s.mem.migs.find? (fun m => m.moves.head?.any (fun v => v.page == page.val)) = some m → m.moves = v :: w :: rest →
    (getPte s v.page).backed = true → (v.tier = 3 → (getBorrow s v.lease.val).state ≠ .idle) →
    copyFrame s (frameAddr (getPte s v.page).tier.val (getPte s v.page).lease.val (getPte s v.page).frame.toNat)
      (frameAddr v.tier.val v.lease.val v.frame.toNat) = .ok u → w.page ≠ v.page →
    ∃ t, exec (.migratePageSwitch page) s = .next t ∧
      getPte t v.page = { getPte s v.page with tier := v.tier, lease := v.lease, frame := v.frame, moving := false } ∧
      (getPte t w.page).moving = true ∧ t.uni = u.uni ∧ t.ls = s.ls) ∧
  (∀ (page : Fin 712704) (s u z : State) (m : Mig) (v : PageMove) (x : Pte), unitsRun s = true →
    s.mem.migs.find? (fun m => m.moves.head?.any (fun v => v.page == page.val)) = some m → m.moves = [v] → x = getPte s v.page →
    x.backed = true → (v.tier = 3 → (getBorrow s v.lease.val).state ≠ .idle) →
    copyFrame s (frameAddr x.tier.val x.lease.val x.frame.toNat) (frameAddr v.tier.val v.lease.val v.frame.toNat) = .ok u →
    writeUniAll (putMig (setPte u v.page { x with tier := v.tier, lease := v.lease, frame := v.frame, moving := false })
      { m with moves := [] }) m.entry.cid.part (migRecord (mgOf m.entry.desc) m.changed 0) = .ok z →
    exec (.migratePageSwitch page) s = .next (endCmd z m.core.val m.entry okOutcome)) ∧
  (∀ (p : PartI) (s u v : State), unitsRun s = true → (getPart s p).state = .activating →
    u = ((ownedGrans s p).flatMap granPages).foldl (fun t i => setPte t i (homePte p i)) ((coresOf (getPart s p)).foldl zeroLs s) →
    v = (savePages (getPart s p)).foldl (fun t i => setPte t i { getPte t i with reserved := true }) u →
    exec (.partitionActivated p) s = .next (setPart { v with gl := { v.gl with actCount := s.gl.actCount + 1 } } p { getPart s p with
      state := .active, actSeq := s.gl.actCount + 1, resEnd := s.now, resident := none, switching := none, fatalSeen := false })) ∧
  (∀ (g : GranI) (s u : State), unitsRun s = true → (getGran s g.val).zeroing = true →
    u = clearPoison { s with uni := Memory.zero s.uni (granAddr g.val) (2 ^ 30) } (granAddr g.val) (2 ^ 30) →
    exec (.granuleZeroed g) s =
      .next (finishDissolve (setGran u g.val { getGran s g.val with owned := false, zeroing := false }) (getGran s g.val).part))

/-- OP_SNAPSHOT, the epoch mark, and what the devices that protect one another send (R336-R358). -/
def Obligations.SnapshotsAndMarksAct : Prop :=
  (∀ (e : Entry) (s u : State) (core : Nat) (rs : List Range), issues s e (snapRow e 0 .now (runPrestream e)) core rs = true →
    u = issued s e (snapRow e 0 .now (runPrestream e)) core rs → (getRes s e.cid.part).state ≠ .prot → snapRes e.desc = 0 →
    exec (.opSnapshotPrestream e) s = .next (endCmd u core e okOutcome)) ∧
  (∀ (e : Entry) (s u : State) (core : Nat) (rs : List Range) (r : ResPart) (named : DirtyPiece → Bool),
    issues s e (snapRow e 0 .now (runPrestream e)) core rs = true →
    u = issued s e (snapRow e 0 .now (runPrestream e)) core rs → r = getRes u e.cid.part → r.state = .prot → snapRes e.desc = 0 →
    named = (fun d => d.dirty && (snapPages e.desc).contains (d.piece / 32)) →
    exec (.opSnapshotPrestream e) s =
      .next (endCmd (setRes ((r.dirty.filter named).foldl (fun t d => sendDelta t e.cid.part d) u) e.cid.part
        { r with dirty := r.dirty.map (fun d =>
            if named d then { d with base := some (pieceBytes u e.cid.part d.piece), dirty := false } else d) }) core e okOutcome)) ∧
  (∀ (e : Entry) (s u v : State) (core : Nat) (rs : List Range), issues s e (snapRow e 1 .ctx (runSnapCopy e)) core rs = true →
    u = issued s e (snapRow e 1 .ctx (runSnapCopy e)) core rs → snapRes e.desc = 0 →
    ((snapPages e.desc).zipIdx).foldl (fun t q => match t with
      | .error c => .error c | .ok w => copyPage w e.cid.part (snapDst e.desc) q) (.ok u : Except (BitVec 16) State) = .ok v →
    exec (.opSnapshotCopy e) s = .next (endCmd v core e okOutcome)) ∧
  (∀ (e : Entry) (s : State) (core : Nat) (rs : List Range), issues s e (markRow e) core rs = true →
    exec (.opEpochMark e) s = .next (issued s e (markRow e) core rs)) ∧
  (∀ (cid : CtxId) (s v : State) (core : Nat) (f : InFlight), unitsRun s = true → atRest s = true →
    findMark s cid = some (core, f) → (getCtx s cid).markRun = none →
    dueNow s core f.entry ((getSeq s cid core).inflight.takeWhile (fun g => g.entry != f.entry)) .ctx = true →
    fabQuiet s cid = true → f.entry.cid = cid →
    (if markRec f.entry.desc = 0 then .ok s else writeUni s cid.part (markRec f.entry.desc) (markRecord s f.entry)) = .ok v →
    (getRes v cid.part).state = .prot →
    ∃ t m, exec (.epochMarkCapture cid) s = .next t ∧
      t = mirror (mirrorDigests (sendDeltas (setCtx v cid { getCtx v cid with markRun := some m }) cid.part) cid) cid.part
        (mirrorAt 3 (CtxId.key cid * 2 ^ 32)) (markRecord s f.entry) ∧
      m.entry = f.entry ∧ m.acked = false ∧ m.tails = (List.finRange 4).map (fun q => (getFq v cid q).tail) ∧ (getRes t cid.part).dirty = [] ∧ (getCtx t cid).markRun = some m) ∧
  (∀ (cid : CtxId) (s : State) (m : MarkRun), unitsRun s = true → atRest s = true → (getCtx s cid).markRun = some m →
    exec (.protectorAck cid) s =
      .next (startAgreement (setCtx s cid { getCtx s cid with markRun := some { m with acked := true } }) m.core.val m.entry)) ∧
  (∀ (cid : CtxId) (s : State) (m : MarkRun) (k : Coll), unitsRun s = true → protects s cid.part = false →
    (getCtx s cid).markRun = some m → s.colls.find? (fun k => k.cid == cid && decide (k.kind = .mark) && !k.done) = some k →
    (k.resAt 0).isSome = true →
    exec (.epochMarkAgreed cid) s =
      .next (planMark (progress (finishMark (putColl s { k with done := true }) cid m) { k with done := true }) cid)) ∧
  (∀ (cid : CtxId) (s : State), unitsRun s = true → protects s cid.part = true → s.res.plan.left = none →
    exec (.epochMarkAgreed cid) s = .next (protectorMark s cid.part)) ∧
  (∀ (cid : CtxId) (s : State), unitsRun s = true → (getCtx s cid).state = .ready → (getRes s cid.part).state = .prot →
    (getCtx s cid).epochLate = false → (getCtx s cid).markAt + 200000000 ≤ residentClock s cid →
    exec (.epochLate cid) s =
      .next (report (mirror (setCtx s cid { getCtx s cid with epochLate := true }) cid.part (mirrorAt 11 (CtxId.key cid)) [1])
        (ctxReport Code.eEpochLate deferred cid 19 0 []))) ∧
  (∀ (port : RlPort) (p : PartI) (value : BitVec 64) (cert bs : Bytes) (s : State) (l : List ProtEntry),
    mayWrite s port (6 + p.val) = true → value.getLsbD 0 = true → (getRes s p).en = false → (getRes s p).state = .off →
    (s.res.mode = 1 ∨ s.res.mode = 2) → (getPart s p).state = .active → s.res.role = 0 →
    readUni s p (value.extractLsb' 4 44).toNat 512 = .ok bs → bs.length = 512 → (value.extractLsb' 4 44).toNat % 64 = 0 →
    l = protTable bs → protTableOk s p (protWords bs) l = true →
    poolOk s p { getRes s p with en := true, ptab := value.extractLsb' 4 44 } l = true →
    ∃ t, exec (.protectionEnable port p value true cert) s = .next t ∧ (getRes t p).state = .seeding ∧ (getRes t p).en = true ∧
      (getRes t p).table = l ∧ t.ls = s.ls ∧ t.uni = s.uni) ∧
  (∀ (p : PartI) (s : State), unitsRun s = true → (getRes s p).state = .seeding → (getRes s p).seeded = false →
    ∃ t, exec (.seedingDone p) s = .next t ∧ (getRes t p).seeded = true ∧ (getRes t p).dirty = [] ∧ (getRes t p).old = []) ∧
  (∀ (src : Coord) (p : PartI) (piece : BitVec 32) (whole : Bool) (delta : Bytes) (s : State) (l : List (Nat × Nat)) (x : Nat),
    unitsRun s = true → protects s p = true → delta.length = parityPiece → (getRes s p).state = .seeding →
    places s p (pieceAddr piece.toNat) (xorBytes (pieceBytes s p piece.toNat) delta).length = .ok l → Apart l x →
    ∃ t, exec (.parityDelta src p piece whole delta) s = .next t ∧
      t = writePlaces s l (xorBytes (pieceBytes s p piece.toNat) delta) ∧
      Memory.readByte t.uni x = Memory.readByte s.uni x ∧ t.ls = s.ls) ∧
  (∀ (src : Coord) (p : PartI) (addr : BitVec 64) (data : Bytes) (s : State), unitsRun s = true → protects s p = true →
    ∃ t, exec (.mirrorWrite src p addr data) s = .next t ∧
      (getMirror t src p).live = Memory.write (getMirror s src p).live addr.toNat data ∧
      (getMirror t src p).mark = (getMirror s src p).mark ∧ t.ls = s.ls ∧ t.uni = s.uni) ∧
  (∀ s : State, linksRun s = true → s.res.role ≠ 0 →
    exec .heartbeatSend s = .next ((trayPeers s).foldl (fun t d => sendBeat (sendBeat t d 0) d 1) s)) ∧
  (∀ (who : Coord) (reserve : Option Coord) (s u : State), unitsRun s = true → who ≠ s.sec.coord → s.res.role = 0 →
    s.res.mode = 0 → inTray s who = true →
    u = lenderFailed { s with res := { s.res with heard := s.res.heard &&& ~~~(BitVec.ofNat 5 (2 ^ cSlot who)) } } who →
    exec (.heartbeatLoss who reserve) s = .next u ∧ exec (.down who) s = .next u) ∧
  (∀ (failed : Coord) (inc : BitVec 8) (holder : Coord) (s u : State), linksRun s = true → failed ≠ s.sec.coord →
    holder.toNat = failed.toNat / 8 * 8 + 4 →
    u = ((upto 36).filter (fun p => (wiredPeer s.sec.coord p).any (fun q => q.1 == failed.toNat))).foldl
      (fun t p => setFp t p { getFp t p with en := false, state := .disabled }) s →
    incNewer inc (Tbl.get 0 u.fab.inc failed.toNat) = false →
    exec (.takeover failed inc holder) s = .next (serveNew (lenderFailed (surviveTray u failed) failed) failed)) ∧
  (∀ (survivors : Bytes) (pieces : List Nat) (s : State), s.res.role = 0 → unitsRun s = true →
    ∃ t, exec (.rebuildPiece survivors pieces) s = .next t ∧ t = releasePieces s pieces ∧ t.ls = s.ls ∧ t.uni = s.uni)

/-- The Gate Score Unit (R106, R110, R112, R114). -/
def Obligations.GateSessionsScoreAndFinalise : Prop :=
  (∀ (e : Entry) (s u : State) (core : Nat) (rs : List Range) (x : Gt) (g : GateSess), x = gtOf e.desc →
    issues s e (gateRow e) core rs = true → u = issued s e (gateRow e) core rs →
    getSess (getDie u (dieOf core)) e.cid x.sess = none → (getDie u (dieOf core)).waiting = [] →
    x.params.m ≤ statesFree (getDie u (dieOf core)) →
    g = gateMerge u core x { params := x.params, covered := [], toks := List.replicate x.params.m [] } → gateComplete g = false →
    ∃ t, exec (.opGate e) s = .next t ∧
      t = endCmd (setSess (watch u e.cid (x.params.watched && gateNanScored u core x)) (dieOf core) e.cid x.sess (some g))
        core e okOutcome ∧
      getSess (getDie t (dieOf core)) e.cid x.sess = some g ∧ t.uni = s.uni ∧ t.ls = s.ls) ∧
  (∀ (e : Entry) (s u : State) (core : Nat) (rs : List Range) (x : Gt) (g0 g : GateSess), x = gtOf e.desc →
    issues s e (gateRow e) core rs = true → u = issued s e (gateRow e) core rs →
    getSess (getDie u (dieOf core)) e.cid x.sess = some g0 → g = gateMerge u core x g0 → gateComplete g = true →
    exec (.opGate e) s =
      .next (let r := gateFinal (setSess (watch u e.cid (x.params.watched && gateNanScored u core x)) (dieOf core) e.cid x.sess
          (some g)) (dieOf core) e x g
        settleEnd r.1 core e r.2)) ∧
  (∀ (e : Entry) (s u : State) (core : Nat) (rs : List Range) (x : Gt), x = gtOf e.desc →
    issues s e (gateRow e) core rs = true → u = issued s e (gateRow e) core rs →
    getSess (getDie u (dieOf core)) e.cid x.sess = none → statesFree (getDie u (dieOf core)) < x.params.m →
    exec (.opGate e) s = .next (setDie u (dieOf core) { getDie u (dieOf core) with
      waiting := (getDie u (dieOf core)).waiting ++
        [{ core := Fin.ofNat 128 core, entry := e, since := residentClock u e.cid }] })) ∧
  (∀ (die : CDie) (s : State) (w : GateWait) (rest : List GateWait), unitsRun s = true →
    (getDie s die).waiting = w :: rest → openingFits (getDie s die) w = true →
    exec (.gateOpeningServed die) s = .next (serveOpening s die w rest)) ∧
  (∀ (die : CDie) (cid : CtxId) (sess : Fin 16) (s : State) (w : GateWait), unitsRun s = true → isResident s cid = true →
    (getDie s die).waiting.find? (fun w => w.entry.cid == cid && fld w.entry.desc 292 4 == sess.val) = some w →
    w.since + hangNs s cid ≤ residentClock s cid →
    exec (.gateHang die cid sess) s =
      .next (faultCmd (setDie s die { getDie s die with waiting := (getDie s die).waiting.filter (fun v => v.entry != w.entry) })
        w.core.val w.entry 2 die.val { code := Code.eGateHang, detail := [] }))

/-- The Dispatch Sorters, the Placement units and the control cores (R115-R131, R308, R309, R463). -/
def Obligations.RoutingTablesAreWritten : Prop :=
  (∀ (e : Entry) (s u v : State) (core : Nat) (rs : List Range) (x : Ds) (ms : List MapEnt) (toks : List (List Nat)),
    x = dsOf e.desc → issues s e (dsRow e 0 runCount) core rs = true → u = issued s e (dsRow e 0 runCount) core rs →
    dsInputs u e.cid.part x = .ok (ms, toks) →
    writeUniAll (setDsLast u x) e.cid.part [(x.cnt, (upto x.nexp).flatMap (fun k => leBytes 4 (countOf toks k)))] = .ok v →
    exec (.opDispatchCount e) s = .next (endCmd v core e okOutcome)) ∧
  (∀ (e : Entry) (s u v : State) (core : Nat) (rs : List Range) (x : Ds) (ms : List MapEnt) (toks : List (List Nat))
    (cb db : Bytes) (dec : List Nat),
    x = dsOf e.desc → issues s e (dsRow e 1 runPack) core rs = true → u = issued s e (dsRow e 1 runPack) core rs →
    dsInputs u e.cid.part x = .ok (ms, toks) → readUni u e.cid.part x.cnt (4 * x.nexp) = .ok cb →
    readUni u e.cid.part x.dec x.nexp = .ok db → dec = db.map (·.toNat) → packBad x ms toks (wordsOf 4 cb) dec = none →
    writeUniAll u e.cid.part
      [(x.sl0, sendList x ms dec (((toks.zipIdx).map (fun r => (r.2, r.1))).take x.split)),
       (x.sl1, sendList x ms dec (((toks.zipIdx).map (fun r => (r.2, r.1))).drop x.split)),
       (x.wcl, weightsList x dec toks)] = .ok v →
    exec (.opDispatchPack e) s = .next (endCmd v core e okOutcome)) ∧
  (∀ (e : Entry) (s u v : State) (core : Nat) (rs : List Range) (x : Pl) (sb cb mb : Bytes) (ds prev : List Nat) (d wc band quiet : Nat),
    x = plOf e.desc → issues s e (placeRow e true) core rs = true → u = issued s e (placeRow e true) core rs →
    readUni u e.cid.part x.st (64 + x.nexp) = .ok sb → readUni u e.cid.part x.cnt (4 * x.nexp) = .ok cb →
    readUni u e.cid.part x.map (4 * x.nexp) = .ok mb → x.force ≠ 0 → band = bitsOf (leNat (sb.take 64)) 0 8 →
    quiet = bitsOf (leNat (sb.take 64)) 8 4 → prev = (sb.drop 64).map (·.toNat) → placeStateOk (leNat (sb.take 64)) prev = true →
    ds = (upto x.nexp).map (fun k => placeDec x band (nth 0 ((wordsOf 4 mb).map (fun v => bitsOf v 0 16)) k)
      (nth 0 (wordsOf 4 cb) k) (nth 0 prev k)) →
    d = (ds.filter decided).length → wc = (ds.filter (· == 2)).length →
    writeUniAll (setPlaceRegs u band quiet 0 d wc) e.cid.part [(x.dec, ds.map (BitVec.ofNat 8))] = .ok v →
    exec (.opPlace e true) s = .next (endCmd v core e okOutcome)) ∧
  (∀ (e : Entry) (s u v : State) (core : Nat) (rs : List Range) (x : Pl) (sb cb mb : Bytes) (ds prev : List Nat)
    (h d wc f band quiet : Nat),
    x = plOf e.desc → issues s e (placeRow e true) core rs = true → u = issued s e (placeRow e true) core rs →
    readUni u e.cid.part x.st (64 + x.nexp) = .ok sb → readUni u e.cid.part x.cnt (4 * x.nexp) = .ok cb →
    readUni u e.cid.part x.map (4 * x.nexp) = .ok mb → x.force = 0 → h = leNat (sb.take 64) →
    prev = (sb.drop 64).map (·.toNat) → placeStateOk h prev = true →
    band = (if bitsOf h 0 8 = 0 then 32 else bitsOf h 0 8) → quiet = (if bitsOf h 0 8 = 0 then 0 else bitsOf h 8 4) →
    ds = (upto x.nexp).map (fun k => placeDec x band (nth 0 ((wordsOf 4 mb).map (fun v => bitsOf v 0 16)) k)
      (nth 0 (wordsOf 4 cb) k) (nth 0 prev k)) →
    d = (ds.filter decided).length → wc = (ds.filter (· == 2)).length →
    f = ((ds.zip prev).filter (fun q => decided q.1 && q.2 != 0 && q.1 != q.2)).length →
    writeUniAll (setPlaceRegs u (placeBand band quiet f d).1 (placeBand band quiet f d).2 f d wc) e.cid.part
      [(x.dec, ds.map (BitVec.ofNat 8)),
       (x.st, leBytes 64 (pack [(0, (placeBand band quiet f d).1), (8, (placeBand band quiet f d).2), (16, f), (32, d),
          (48, (bitsOf h 48 32 + 1) % 2 ^ 32)]) ++
        (ds.zip prev).map (fun q => BitVec.ofNat 8 (if decided q.1 then q.1 else q.2)))] = .ok v →
    exec (.opPlace e true) s = .next (endCmd v core e okOutcome)) ∧
  (∀ (e : Entry) (s u : State) (core : Nat) (rs : List Range) (x : Ep), x = epOf e.desc →
    issues s e (planRow e) core rs = true → u = issued s e (planRow e) core rs → planWaits u e.cid x.rxc = true →
    exec (.opExpertPlan e) s = .next u) ∧
  (∀ (e : Entry) (s u v : State) (core n : Nat) (rs : List Range) (x : Ep) (items : List PlanItem) (tpl etpl : Template) (d : Deal)
    (lists : Bytes),
    x = epOf e.desc → issues s e (planRow e) core rs = true → u = issued s e (planRow e) core rs →
    planWaits u e.cid x.rxc = false → planItems u e.cid.part x = .ok items → readTemplate u e.cid.part x.tpl = .ok tpl →
    (if x.etpl = 0 then readTemplate u e.cid.part x.tpl else readTemplate u e.cid.part x.etpl) = .ok etpl →
    templateBad tpl = false → templateBad etpl = false → n = ncores (getPart u e.cid.part) →
    d = items.foldl (dealItem x.chunk (x.etpl != 0)) { loads := List.replicate n 0, seqs := List.replicate n 0, emits := [], chunks := 0 } →
    coreLists u e.cid.part tpl etpl x.chunk d.emits.reverse (upto n) = .ok lists → 64 + lists.length ≤ x.outBytes →
    writeUniAll u e.cid.part [(x.out, planSummary items d lists.length ++ lists)] = .ok v →
    exec (.opExpertPlan e) s = .next (endCmd (handPlan v e (x.out + 64)) core e okOutcome))

/-- OP_EXCHANGE, OP_A2A and OP_COMBINE begin (R140, R143, R150, R152, R155, R162). -/
def Obligations.ExchangesBegin : Prop :=
  (∀ (e : Entry) (s u v : State) (core : Nat) (rs : List Range) (x : Xc) (q : XPar) (wcl : List (Nat × List (Nat × Nat)))
    (b0 b1 : List SendBlock) (o0 o1 : List OutStream),
    x = xcOf e.desc → issues s e (xcRow e 0 runDispatch) core rs = true → u = issued s e (xcRow e 0 runDispatch) core rs →
    q = xParAt u e.cid.part x.pb → readWcl u e.cid.part (wclCount u e.cid.part q.wcl) (q.wcl + 16) = .ok wcl →
    readBlocks u e.cid.part x.ndev q.sl0 = .ok b0 → readBlocks u e.cid.part x.ndev q.sl1 = .ok b1 →
    dispatchOuts u e.cid x q 0 b0.zipIdx = .ok o0 → dispatchOuts u e.cid x q 1 b1.zipIdx = .ok o1 →
    writeUni u e.cid.part q.rdy (List.replicate (4 * (q.nlocal + wclCount u e.cid.part q.wcl)) 0) = .ok v →
    exec (.opExchangeDispatch e) s =
      .next (pushOuts { v with xcmds := v.xcmds ++ [{ newX u core e x .dispatch q with wcl := wcl }] } e.cid (o0 ++ o1))) ∧
  (∀ (e : Entry) (s u : State) (core : Nat) (rs : List Range) (x : Xc) (q : XPar) (hb eb : Bytes) (o : OutStream) (os : List OutStream),
    x = xcOf e.desc → issues s e (xcRow e 1 runReturn) core rs = true → u = issued s e (xcRow e 1 runReturn) core rs →
    q = xParAt u e.cid.part x.pb → readUni u e.cid.part q.rorg 64 = .ok hb →
    readUni u e.cid.part (q.rorg + 64) (8 * leNat (hb.take 4)) = .ok eb →
    retOuts u e.cid x q (wordsOf 8 eb) (retDests (wordsOf 8 eb)) = .ok (o :: os) →
    exec (.opExchangeReturn e) s =
      .next (pushOuts { u with xcmds := u.xcmds ++ [newX u core e x .ret q] } e.cid (o :: os))) ∧
  (∀ (e : Entry) (s u : State) (core : Nat) (rs : List Range) (x : Xc) (q : XPar) (hb eb : Bytes),
    x = xcOf e.desc → issues s e (xcRow e 1 runReturn) core rs = true → u = issued s e (xcRow e 1 runReturn) core rs →
    q = xParAt u e.cid.part x.pb → readUni u e.cid.part q.rorg 64 = .ok hb →
    readUni u e.cid.part (q.rorg + 64) (8 * leNat (hb.take 4)) = .ok eb →
    retOuts u e.cid x q (wordsOf 8 eb) (retDests (wordsOf 8 eb)) = .ok [] →
    exec (.opExchangeReturn e) s = .next (endCmd u core e okOutcome)) ∧
  (∀ (e : Entry) (s u v : State) (core : Nat) (rs : List Range) (x : Cmb),
    issues s e (combineRow e) core rs = true → u = issued s e (combineRow e) core rs →
    x = { cmbOf e core with rng := getRng u e.cid (cmbRng e.desc), since := residentClock u e.cid } →
    writeUni u e.cid.part x.lst (List.replicate (4 * x.ntok) 0) = .ok v →
    exec (.opCombine e) s = .next (advanceRng { v with cmbs := v.cmbs ++ [x] } e.cid (cmbRng e.desc) x.cvt x.draws)) ∧
  (∀ (e : Entry) (s u : State) (core : Nat) (rs : List Range) (a : Aa) (sb : Bytes) (os : List OutStream),
    a = aaOf e.desc → issues s e (a2aRow e) core rs = true → u = issued s e (a2aRow e) core rs →
    readUni u e.cid.part a.stbl (16 * a.x.ndev) = .ok sb →
    aaOuts u e.cid a.x ((aaEntries true sb).map (·.1)).zipIdx = .ok os →
    exec (.opA2a e) s =
      .next (pushOuts { u with xcmds := u.xcmds ++ [{ newX u core e a.x .a2a {} with stbl := a.stbl, rtbl := a.rtbl }] } e.cid os))

/-- The Neuron Predictor (R165-R172). -/
def Obligations.PredictorWritesItsRecords : Prop :=
  (∀ (e : Entry) (s u : State) (core : Nat) (rs : List Range) (x : Pd) (bs : Bytes) (r : PredState), x = pdOf e.desc →
    issues s e (pdRow e false runPredict) core rs = true → u = issued s e (pdRow e false runPredict) core rs →
    readUni u e.cid.part x.st 64 = .ok bs → predStateOf bs = some r →
    exec (.opPredictPredict e) s =
      .next (endCmd (notePred (writeLs u core x.out (pdRecord x r
        ((upto x.fb).map (pdClass u core x (.num (decide (r.q < 0)) r.q.natAbs (-8)))))) e core x) core e okOutcome)) ∧
  (∀ (e : Entry) (s u : State) (core : Nat) (rs : List Range) (x : Pd), x = pdOf e.desc →
    issues s e (pdRow e true runBound) core rs = true → u = issued s e (pdRow e true runBound) core rs →
    exec (.opPredictBound e) s =
      .next (endCmd (writeLs u core (x.rho + 4 * x.n0)
        ((upto (32 * x.fb)).flatMap (fun i => leBytes 4 (rhoOf u core x ((upto 64).map (x.vRow u core)) i)))) core e okOutcome)) ∧
  (∀ (e : Entry) (s u v : State) (core : Nat) (rs : List Range) (x : Mk) (bs : Bytes) (r r1 : PredState) (m : MkPlan)
    (ms : List (List Val)), x = mkOf e.desc →
    issues s e (makeupRow e) core rs = true → u = issued s e (makeupRow e) core rs → readUni u e.cid.part x.st 64 = .ok bs →
    predStateOf bs = some r → m = mkPlan (readLs u core x.pred 640) → ms = mkMissed u core x m → r1 = mkTally x m ms r →
    writeUni u e.cid.part x.st (predStateBytes (if x.close then mkClose x.target r1 else r1)) = .ok v →
    exec (.opMakeup e) s =
      .next (endCmd (setDie v (dieOf core) { getDie v (dieOf core) with
        npuMissn := satAdd (getDie v (dieOf core)).npuMissn (ms.map (·.length)).sum
        npuExam := satAdd (getDie v (dieOf core)).npuExam ms.length }) core e okOutcome))

/-- The collectives begin (R176, R184, R194). -/
def Obligations.CollectivesBegin : Prop :=
  ∀ (e : Entry) (s u : State) (core : Nat) (rs : List Range) (k : Coll) (g : Bytes × List Nat) (src : Bytes) (kind : CollKind) (op : Nat)
    (i : Instr),
    (i, op, kind) ∈ [(Instr.opReduce e, 0x0400, CollKind.reduce), (.opAllreduce e, 0x0401, .allreduce), (.opBcast e, 0x0402, .bcast),
      (.opAllgather e, 0x0403, .allgather)] →
    issues s e (collRow e op kind) core rs = true → u = issued s e (collRow e op kind) core rs → k = collOf u e core kind →
    readGroup u e.cid.part (collGrp e.desc) k.ndev = .ok g → readUni u e.cid.part (collSrc e.desc) k.srcLen = .ok src →
    groupBad g.2 = false → (k.ifmt = 0xA → (al48Groups src).any (fun x => x.gexp == 0xFF) = false) →
    exec i s = .next (startColl u (placeColl { k with src := src, gdig := crc32c g.1 } g.2))

/-- OP_WAIT in its five forms (R97, R302, R310). -/
def Obligations.WaitsStandOrPass : Prop :=
  ∀ (e : Entry) (s u v : State) (core : Nat) (rs : List Range) (q : Seq) (b : Blocked) (i : Instr) (f : Nat) (act : Option Nat)
    (kind : BlockKind),
    (i, f, act, kind) ∈ [(Instr.opWaitSlotFull e, 0, some 0, BlockKind.slotFull), (.opWaitSlotEmpty e, 0, some 1, .slotEmpty),
      (.opWaitEvent e, 1, none, .event), (.opWaitMemory e, 2, none, .memory), (.opWaitPlan e, 3, none, .plan)] →
    issues s e (waitRow e f act kind) core rs = true → u = issued s e (waitRow e f act kind) core rs →
    q = getSeq u e.cid core → b = { entry := e, kind := kind, since := residentClock u e.cid } →
    v = listIssued (setSeq u e.cid core
      { q with inflight := removeFirst (fun g => g.entry == e) q.inflight, block := some b, idleSince := u.now }) e.cid core →
    slotWrong v core b = false → waitFailure v core b = none →
    (blockMet v e.cid core b = false → exec i s = .next v) ∧
    (blockMet v e.cid core b = true → kind ≠ .plan → exec i s = .next (endBlock (claimSlot v core b) core e okOutcome)) ∧
    (blockMet v e.cid core b = true → kind = .plan → (getSeq v e.cid core).list = none → exec i s = .next (takeList v core e))

/-- What ends a blocking command (R97, R101, R302, R303, R306). -/
def Obligations.BlockedCommandsEnd : Prop :=
  (∀ (core : CoreI) (s : State) (b : Blocked), coreBlock s core.val = some b → atRest s = true →
    b.kind = .slotFull ∨ b.kind = .slotEmpty ∨ b.kind = .event ∨ b.kind = .memory → slotWrong s core.val b = false →
    waitFailure s core.val b = none → blockMet s b.entry.cid core.val b = true →
    exec (.waitSatisfied core) s =
      .next (regainAt (endBlock (claimSlot s core.val b) core.val b.entry okOutcome) core.val)) ∧
  (∀ (core : CoreI) (s : State) (b : Blocked), coreBlock s core.val = some b → atRest s = true → b.kind = .plan →
    (getSeq s b.entry.cid core.val).list = none → blockMet s b.entry.cid core.val b = true →
    exec (.waitSatisfied core) s = .next (regainAt (takeList s core.val b.entry) core.val)) ∧
  (∀ (core : CoreI) (s : State) (b : Blocked), coreBlock s core.val = some b → b.kind = .event ∨ b.kind = .memory →
    b.since + hangNs s b.entry.cid ≤ residentClock s b.entry.cid → blockMet s b.entry.cid core.val b = false →
    exec (.syncHang core) s =
      .next (endBlock (report s (cmdReport Code.eSyncHang contextFatal b.entry 0 core.val (syncHangDetail s b))) core.val b.entry
        (faultOutcome Code.eSyncHang))) ∧
  (∀ (core : CoreI) (s : State) (b : Blocked), coreBlock s core.val = some b → b.kind = .timed →
    fld b.entry.desc 64 64 ≤ (fabricTime s).toNat →
    exec (.timedStartReached core) s =
      .next (regainAt (endBlock (keepTimed s core.val b.entry) core.val b.entry okOutcome) core.val)) ∧
  (∀ (core : CoreI) (s : State) (b : Blocked) (i : Nat), coreBlock s core.val = some b → coreCtx s core.val = some b.entry.cid →
    b.kind = .slotFull ∨ b.kind = .slotEmpty → b.since + hangNs s b.entry.cid ≤ residentClock s b.entry.cid →
    blockMet s b.entry.cid core.val b = false → i = fld b.entry.desc 68 6 →
    exec (.slotHang core) s =
      .next (endBlock (report s (cmdReport Code.eSlotHang contextFatal b.entry 0 core.val
        (slotDetail i (nth {} (getSeq s b.entry.cid core.val).slots i) (fld b.entry.desc 74 16)))) core.val b.entry
        (faultOutcome Code.eSlotHang))) ∧
  (∀ (core : CoreI) (s : State) (c : CtxId) (h : Held) (i : Nat), unitsRun s = true → coreBlock s core.val = none →
    hungDelivery s core.val = some (c, h) →
    i = h.marker.getD ((slotsUnder (getSeq s c core.val) h.addr.toNat h.data.length).headD 0) →
    exec (.slotHang core) s =
      .next (report (failTransfer s c core.val h.sender Code.eSlotHang)
        { ctxReport Code.eSlotHang contextFatal h.sender.cid 0 h.sender.core.val
            (slotDetail i (nth {} (getSeq s c core.val).slots i) h.gen.toNat) with
          cmdPos := h.sender.pos, listPos := h.sender.listPos }))

/-- Buffer slots: OP_SIGNAL SLOT, what lands and what leaves (Table 4.3, R97, R98). -/
def Obligations.SlotsFillAndDrain : Prop :=
  (∀ (e : Entry) (s u : State) (core i : Nat) (rs : List Range) (t : Slot),
    issues s e (signalRow e 0 (some 0) .now (runSignalSlot e)) core rs = true →
    u = issued s e (signalRow e 0 (some 0) .now (runSignalSlot e)) core rs → i = fld e.desc 68 6 →
    t = nth {} (getSeq u e.cid core).slots i → fld e.desc 67 1 = 0 → t.state = .filling →
    t.gen = BitVec.ofNat 16 (fld e.desc 74 16) → t.extern = false →
    exec (.opSignalSlotFill e) s =
      .next (finish (endCmd (setSlot u e.cid core i (if slotInUse (getSeq u e.cid core) t true then { t with fillMark := true }
        else { t with state := .full, fillMark := false })) core e okOutcome) core e)) ∧
  (∀ (e : Entry) (s u : State) (core i : Nat) (rs : List Range) (t : Slot),
    issues s e (signalRow e 0 (some 1) .now (runSignalSlot e)) core rs = true →
    u = issued s e (signalRow e 0 (some 1) .now (runSignalSlot e)) core rs → i = fld e.desc 68 6 →
    t = nth {} (getSeq u e.cid core).slots i → fld e.desc 67 1 = 1 → t.state = .full →
    t.gen = BitVec.ofNat 16 (fld e.desc 74 16) →
    exec (.opSignalSlotDrain e) s =
      .next (finish (endCmd (setSlot u e.cid core i (if slotInUse (getSeq u e.cid core) t false then { t with state := .draining }
        else { t with state := .empty, gen := t.gen + 1 })) core e okOutcome) core e)) ∧
  (∀ (core : CoreI) (slot : Fin 64) (s : State) (c : CtxId) (t : Slot), coreCtx s core.val = some c → unitsRun s = true →
    slot.val < (getSeq s c core.val).slots.length → t = nth {} (getSeq s c core.val).slots slot.val → t.state = .filling →
    t.fillMark = true → slotInUse (getSeq s c core.val) t true = false →
    exec (.slotWritesLanded core slot) s =
      .next (setSlot s c core.val slot.val { t with state := .full, fillMark := false, extern := false })) ∧
  (∀ (core : CoreI) (slot : Fin 64) (s : State) (c : CtxId) (t : Slot), coreCtx s core.val = some c → unitsRun s = true →
    slot.val < (getSeq s c core.val).slots.length → t = nth {} (getSeq s c core.val).slots slot.val → t.state = .draining →
    slotInUse (getSeq s c core.val) t false = false →
    exec (.slotReadsDone core slot) s =
      .next (deliverHeld (setSlot s c core.val slot.val { t with state := .empty, gen := t.gen + 1 }) c core.val)) ∧
  (∀ (core : CoreI) (c : CtxId) (addr : BitVec 24) (gen : BitVec 16) (data : Bytes) (sender : CmdName) (s : State) (i : Nat)
    (t : Slot),
    unitsRun s = true → (getCtx s c).state = .ready → isResident s c = true →
    inSlots (getSeq s c core.val) addr.toNat data.length = true →
    slotsUnder (getSeq s c core.val) addr.toNat data.length = [i] → t = nth {} (getSeq s c core.val).slots i →
    t.gen = gen → (t.state = .empty ∨ t.state = .filling ∧ t.extern = true) →
    exec (.outsideDelivery core c addr gen data sender) s =
      .next (setSlot (writeLs s core.val addr.toNat data) c core.val i { t with state := .filling, extern := true })) ∧
  (∀ (core : CoreI) (c : CtxId) (addr : BitVec 24) (gen : BitVec 16) (data : Bytes) (sender : CmdName) (s : State) (l : List Nat),
    unitsRun s = true → (getCtx s c).state = .ready → isResident s c = true →
    inSlots (getSeq s c core.val) addr.toNat data.length = true →
    l = slotsUnder (getSeq s c core.val) addr.toNat data.length →
    (∀ i ∈ l, slotTakes (nth {} (getSeq s c core.val).slots i) gen = .written) →
    exec (.outsideDelivery core c addr gen data sender) s =
      .next (fillSlots (writeLs s core.val addr.toNat data) c core.val l)) ∧
  (∀ (core : CoreI) (c : CtxId) (addr : BitVec 24) (gen : BitVec 16) (data : Bytes) (sender : CmdName) (s : State),
    unitsRun s = true → (getCtx s c).state = .ready → isResident s c = true →
    inSlots (getSeq s c core.val) addr.toNat data.length = false →
    exec (.outsideDelivery core c addr gen data sender) s =
      .next (lsReport (failTransfer s c core.val sender Code.eLsUnslotted) c core.val Code.eLsUnslotted [addr.setWidth 32])) ∧
  (∀ (core : CoreI) (c : CtxId) (slot : Fin 64) (gen : BitVec 16) (sender : CmdName) (s : State) (t : Slot),
    unitsRun s = true → (getCtx s c).state = .ready → isResident s c = true →
    t = nth {} (getSeq s c core.val).slots slot.val → heldInto (getSeq s c core.val) t = false → t.gen = gen →
    t.state = .filling → t.extern = true → slotInUse (getSeq s c core.val) t true = false →
    exec (.senderEndMarker core c slot gen sender) s =
      .next (setSlot s c core.val slot.val { t with state := .full, fillMark := false, extern := false }))

/-- OP_NOP, OP_SIGNAL EVENT and MEMORY, OP_FENCE, OP_TIMED_START (R301, R304-R306). -/
def Obligations.SyncCommandsAct : Prop :=
  (∀ (e : Entry) (s : State) (core : Nat) (rs : List Range), issues s e (nopRow e) core rs = true →
    exec (.opNop e) s = .next (finish (endCmd (issued s e (nopRow e) core rs) core e okOutcome) core e)) ∧
  (∀ (e : Entry) (s u : State) (core i : Nat) (rs : List Range),
    issues s e (signalRow e 1 none .core (runSignalEvent e)) core rs = true →
    u = issued s e (signalRow e 1 none .core (runSignalEvent e)) core rs → i = fld e.desc 68 6 →
    exec (.opSignalEvent e) s =
      .next (finish (endCmd (setCtx u e.cid { getCtx u e.cid with
        events := Tbl.set 0 (getCtx u e.cid).events i (Tbl.get 0 (getCtx u e.cid).events i + BitVec.ofNat 32 (fld e.desc 92 32)) })
        core e okOutcome) core e)) ∧
  (∀ (e : Entry) (s u v : State) (core : Nat) (rs : List Range),
    issues s e (signalRow e 2 none .core (runSignalMemory e)) core rs = true →
    u = issued s e (signalRow e 2 none .core (runSignalMemory e)) core rs →
    writeUni u e.cid.part (fld e.desc 156 44) (leBytes 4 (fld e.desc 92 32)) = .ok v →
    exec (.opSignalMemory e) s = .next (finish (endCmd v core e okOutcome) core e)) ∧
  (∀ (e : Entry) (s u v : State) (core : Nat) (rs : List Range) (q : Seq) (b : Blocked),
    issues s e (fenceRow e) core rs = true → u = issued s e (fenceRow e) core rs → q = getSeq u e.cid core →
    b = { entry := e, kind := .fence, since := residentClock u e.cid } →
    v = listIssued (setSeq u e.cid core
      { q with inflight := removeFirst (fun g => g.entry == e) q.inflight, block := some b, idleSince := u.now }) e.cid core →
    exec (.opFence e) s = .next (if blockMet v e.cid core b then endBlock v core e okOutcome else v)) ∧
  (∀ (e : Entry) (s u v : State) (core : Nat) (rs : List Range) (q : Seq) (b : Blocked),
    issues s e (timedRow e) core rs = true → u = issued s e (timedRow e) core rs → q = getSeq u e.cid core →
    b = { entry := e, kind := .timed, since := residentClock u e.cid } →
    v = listIssued (setSeq u e.cid core
      { q with inflight := removeFirst (fun g => g.entry == e) q.inflight, block := some b, idleSince := u.now }) e.cid core →
    exec (.opTimedStart e) s =
      .next (if fld e.desc 64 64 ≤ (fabricTime v).toNat then endBlock (keepTimed v core e) core e okOutcome else v)) ∧
  (∀ (s : State) (core : Nat) (e : Entry), fld e.desc 128 32 ≠ 0 →
    fld e.desc 64 64 + fld e.desc 128 32 < (fabricTime s).toNat →
    reportLate s core (some e) = report s (cmdReport Code.eTimedLate deferred e 0 core []))

/-- OP_DIGEST (R208-R211). -/
def Obligations.DigestsOpenAbsorbClose : Prop :=
  (∀ (e : Entry) (s u : State) (core : Nat) (rs : List Range), issues s e (digestRow e 0 .now (runDigestOpen e)) core rs = true →
    u = issued s e (digestRow e 0 .now (runDigestOpen e)) core rs →
    exec (.opDigestOpen e) s = .next (finish (endCmd (setDigest u e.cid (digSlot e.desc)
      (some { digid := BitVec.ofNat 16 (fld e.desc 156 16), runs := List.replicate 4 shaStart, counts := List.replicate 4 0 }))
      core e okOutcome) core e)) ∧
  (∀ (e : Entry) (s u : State) (core k : Nat) (rs : List Range) (bs : Bytes) (x : DigestSlot),
    issues s e (digestRow e 1 .ctx (runAbsorb e)) core rs = true → u = issued s e (digestRow e 1 .ctx (runAbsorb e)) core rs →
    absorbBytes u e core = .ok bs → getDigest u e.cid (digSlot e.desc) = some x → k = fld e.desc 68 2 →
    exec (.opDigestAbsorb e) s = .next (endCmd (setDigest u e.cid (digSlot e.desc) (some { x with
      runs := setNth x.runs k (shaAbsorb (nth shaStart x.runs k) (leBytes 8 (digLen e.desc) ++ bs))
      counts := setNth x.counts k (nth 0 x.counts k + digLen e.desc) })) core e okOutcome)) ∧
  (∀ (e : Entry) (s u v : State) (core : Nat) (rs : List Range) (canSign : Bool) (x : DigestSlot),
    issues s e (digestRow e 2 .now (runDigestClose e canSign)) core rs = true →
    u = issued s e (digestRow e 2 .now (runDigestClose e canSign)) core rs → getDigest u e.cid (digSlot e.desc) = some x →
    writeUni u e.cid.part (digAddr e.desc) (digestRecord u e x (flag e.desc 71 && canSign)) = .ok v →
    exec (.opDigestClose e canSign) s =
      .next (endCmd (if flag e.desc 71 = true ∧ canSign = false
        then report (setDigest v e.cid (digSlot e.desc) none) (cmdReport Code.eDigestSign deferred e 15 0 [])
        else setDigest v e.cid (digSlot e.desc) none) core e okOutcome))

/-- OP_RNG_SEEK (R359). -/
def Obligations.RandomCountersSeek : Prop :=
  (∀ (e : Entry) (s u : State) (core i : Nat) (rs : List Range) (r : Rng),
    issues s e (seekRow e 0) core rs = true → u = issued s e (seekRow e 0) core rs → i = fld e.desc 64 4 →
    seekMode e.desc = 0 → r = { key := BitVec.ofNat 64 (fld e.desc 70 64), counter := BitVec.ofNat 128 (fld e.desc 134 128) } →
    exec (.opRngSeekSet e) s = .next (finish (endCmd (
      if (r.counter - (getRng u e.cid i).counter).getLsbD 127
      then report (setRng u e.cid i r) (cmdReport Code.evRngRewind corrected e 0 core []) else setRng u e.cid i r)
      core e okOutcome) core e)) ∧
  (∀ (e : Entry) (s u : State) (core i : Nat) (rs : List Range) (r : Rng),
    issues s e (seekRow e 1) core rs = true → u = issued s e (seekRow e 1) core rs → i = fld e.desc 64 4 →
    seekMode e.desc = 1 →
    r = { key := (getRng u e.cid i).key, counter := (getRng u e.cid i).counter + BitVec.ofNat 128 (fld e.desc 134 128) } →
    exec (.opRngSeekAdd e) s = .next (finish (endCmd (
      if (r.counter - (getRng u e.cid i).counter).getLsbD 127
      then report (setRng u e.cid i r) (cmdReport Code.evRngRewind corrected e 0 core []) else setRng u e.cid i r)
      core e okOutcome) core e)) ∧
  (∀ (e : Entry) (s u : State) (core : Nat) (rs : List Range),
    issues s e (seekRow e 2) core rs = true → u = issued s e (seekRow e 2) core rs → seekMode e.desc = 2 →
    exec (.opRngSeekCheck e) s = .next (finish (
      if (getRng u e.cid (fld e.desc 64 4)).counter = BitVec.ofNat 128 (fld e.desc 134 128) then endCmd u core e okOutcome
      else endCmd (report u (cmdReport Code.eRngCheck contextFatal e 0 core [])) core e (faultOutcome Code.eRngCheck)) core e))

/-- OP_STEP_STATUS (R42-R46). -/
def Obligations.StepStatusActs : Prop :=
  (∀ (e : Entry) (s u : State) (core : Nat) (rs : List Range) (w : Bytes) (g : Bytes × List Nat),
    issues s e (stepRow e 0) core rs = true → u = issued s e (stepRow e 0) core rs → stepMode e.desc = 0 →
    bindShapeOk u e.cid e.desc = true → readUni u e.cid.part (fld e.desc 64 64) 8 = .ok w →
    readGroup u e.cid.part (fld e.desc 164 44) (fld e.desc 131 17) = .ok g → stepWordBad (leNat w) = false →
    groupBad g.2 = false → fld e.desc 131 17 ≤ 65536 → (getCtx u e.cid).step = none →
    exec (.opStepStatusBind e) s = .next (finish (endCmd (setBind u e.cid (some
      { word := stepWordOf (leNat w), addr := BitVec.ofNat 44 (fld e.desc 64 64), ndev := BitVec.ofNat 17 (fld e.desc 131 17)
        self := BitVec.ofNat 16 (fld e.desc 148 16), cid := BitVec.ofNat 16 (fld e.desc 208 16)
        grpAddr := BitVec.ofNat 44 (fld e.desc 164 44), gcrc := crc32c g.1 }) (getCtx u e.cid).skipOpen) core e okOutcome)
      core e)) ∧
  (∀ (e : Entry) (s u : State) (core : Nat) (rs : List Range) (b : StepBind) (k : Coll) (g : Bytes × List Nat),
    issues s e (stepRow e 1) core rs = true → u = issued s e (stepRow e 1) core rs → stepMode e.desc = 1 →
    (getCtx u e.cid).step = some b → agreeing u e = false → k = agreeColl u e core b → collWaits u k = false →
    readGroup u e.cid.part b.grpAddr.toNat b.ndev.toNat = .ok g → groupBad g.2 = false →
    exec (.opStepStatusAgree e) s =
      .next (startColl (setBind u e.cid (some { b with agreed := true }) (getCtx u e.cid).skipOpen) (placeColl k g.2))) ∧
  (∀ (cid : CtxId) (ovf : Bool) (s : State) (k : Coll) (r : CollRes),
    s.colls.find? (fun k => k.cid == cid && decide (k.kind = .agree) && !k.done) = some k → k.resAt 0 = some r →
    unitsRun s = true → (leNat r.bytes != 0) = ovf →
    exec (.stepAgreeResult cid ovf) s =
      .next (progress (endCmd (putColl (modStep s cid (fun b => { b with word := { b.word with ovfJob := ovf } }))
        { k with done := true }) k.core.val k.entry okOutcome) { k with done := true })) ∧
  (∀ (e : Entry) (s u : State) (core : Nat) (rs : List Range) (b : StepBind),
    issues s e (stepRow e 2) core rs = true → u = issued s e (stepRow e 2) core rs → stepMode e.desc = 2 →
    (getCtx u e.cid).step = some b →
    exec (.opStepStatusCheck e) s = .next (finish (endCmd (
      if b.word.ovfJob then setBind u e.cid (some b) true else u) core e okOutcome) core e)) ∧
  (∀ (e : Entry) (s u v : State) (core : Nat) (rs : List Range) (b c : StepBind),
    issues s e (stepRow e 3) core rs = true → u = issued s e (stepRow e 3) core rs → stepMode e.desc = 3 →
    (getCtx u e.cid).step = some b → c = { b with word := commitWord b.word, agreed := false } →
    writeBack (setBind u e.cid (some c) false) e.cid c = .ok v →
    exec (.opStepStatusCommit e) s = .next (finish (endCmd (
      if b.word.ovfJob = true ∧ c.word.floor = true then report v (cmdReport Code.eScaleFloor deferred e 0 core []) else v)
      core e okOutcome) core e)) ∧
  (∀ (e : Entry) (s u v : State) (core : Nat) (rs : List Range) (b : StepBind),
    issues s e (stepRow e 4) core rs = true → u = issued s e (stepRow e 4) core rs → stepMode e.desc = 4 →
    (getCtx u e.cid).step = some b → writeBack u e.cid b = .ok v →
    exec (.opStepStatusUnbind e) s =
      .next (finish (endCmd (setBind v e.cid none (getCtx u e.cid).skipOpen) core e okOutcome) core e)) ∧
  (∀ (s : State) (c : CtxId) (b : Option StepBind) (skip : Bool) (t : State), t = setBind s c b skip →
    (getCtx t c).step = b ∧ (getCtx t c).skipOpen = skip ∧ t.uni = s.uni ∧ t.ls = s.ls ∧ t.seqs = s.seqs) ∧
  (∀ (e : Entry) (s u : State) (core : Nat) (rs : List Range) (m : Nat) (i : Instr),
    (i, m) ∈ [(Instr.opStepStatusAgree e, 1), (.opStepStatusCheck e, 2), (.opStepStatusCommit e, 3)] →
    issues s e (stepRow e m) core rs = true → u = issued s e (stepRow e m) core rs → stepMode e.desc = m →
    (getCtx u e.cid).step = none →
    exec i s = .next (finish (endCmd (report u (cmdReport Code.eStepStatus contextFatal e 0 core [])) core e
      (faultOutcome Code.eStepStatus)) core e))

/-- The exchange's streams open (R135, R136, R139, R149). -/
def Obligations.StreamsOpen : Prop :=
  (∀ (h : XHdr) (ncnt : BitVec 16) (nent : BitVec 32) (dbytes : BitVec 40) (row64 : BitVec 14) (wbytes : BitVec 40) (s : State)
    (c : CtxId), unitsRun s = true → atRest s = true → findIn s h = none → xCtx s h = some c → h.kind = 0 →
    xAccept s c h row64.toNat wbytes.toNat = .ok →
    exec (.xopen h ncnt nent dbytes row64 wbytes) s =
      .next (modX (sendX { s with ins := s.ins ++ [newIn c h dbytes.toNat row64.toNat false] } h (.ready 0)) c h.xid
        (fun x => { x with ranks := x.ranks ++ [{ rank := h.srcRank.toNat, plane := h.plane, ncnt := ncnt.toNat, seqs := [] }] }))) ∧
  (∀ (h : XHdr) (ncnt : BitVec 16) (nent : BitVec 32) (dbytes : BitVec 40) (row64 : BitVec 14) (wbytes : BitVec 40) (s : State)
    (c : CtxId), unitsRun s = true → atRest s = true → findIn s h = none → xCtx s h = some c →
    xAccept s c h row64.toNat wbytes.toNat = .none → isRetained s c h = false →
    exec (.xopen h ncnt nent dbytes row64 wbytes) s = .next (sendX s h .wait)) ∧
  (∀ (h : XHdr) (cells : BitVec 16) (s : State) (o : OutStream), findOut s h (· == .opened) = some o → unitsRun s = true →
    o.key.kind = 0 → o.dbytes ≠ 0 →
    exec (.xready h cells) s =
      .next (sendCounts (putOut s { o with st := .waitAsk, counted := true, entry := false }) o)) ∧
  (∀ (h : XHdr) (cells : BitVec 16) (s : State) (o : OutStream), findOut s h (· == .opened) = some o → unitsRun s = true →
    o.key.kind ≠ 0 → exec (.xready h cells) s = .next (feedOut s { o with st := .sending, credit := o.credit + cells.toNat })) ∧
  (∀ (h : XHdr) (s : State) (o : OutStream),
    findOut s h (fun st => st == .opened || st == .sending || st == .ended) = some o → unitsRun s = true →
    exec (.xwait h) s = .next (putOut s
      { o with st := .waitRetry (s.now + 8000), entry := false, counted := false, credit := 0, sent := 0 })) ∧
  (∀ (h : XHdr) (s u : State) (o : OutStream), findOut s h (retryDue s.now) = some o → unitsRun s = true →
    u = putOut s { o with st := .waitOpen } →
    exec (.xopenRetry h) s = .next (
      if (openOrder u h.plane).head? = some { o with st := .waitOpen } ∧ entriesUsed u h.plane < 4096
      then sendOpen u { o with st := .waitOpen } else u)) ∧
  (∀ (die : XDie) (s : State) (o : OutStream) (rest : List OutStream), openOrder s die = o :: rest → unitsRun s = true →
    entriesUsed s die < 4096 →
    exec (.openEntryTaken die) s = .next (
      if o.st = .waitAsk then sendX (putOut s { o with st := .sending, entry := true }) (outHdr s o) .ask
      else sendX (putOut s { o with st := .opened, entry := true }) (outHdr s o)
        (.opening o.counts.length o.nent o.dbytes o.row64 o.wbytes))) ∧
  (∀ (h : XHdr) (s : State) (o : OutStream), findOut s h (· == .ended) = some o → unitsRun s = true →
    exec (.xack h) s = .next (checkX { s with outs := s.outs.filter (fun y => y.key != o.key) } o.key.cid o.key.xid))

/-- Counts and credit (R136-R138). -/
def Obligations.CountsAndCreditMove : Prop :=
  (∀ (h : XHdr) (seq : BitVec 16) (counts : List CountEntry) (s : State) (c : CtxId) (x : XCmd) (k : XRank),
    unitsRun s = true → atRest s = true → xCtx s h = some c → findX s c h.xid = some x →
    findRank x h.srcRank.toNat h.plane = some k → h.kind = 0 → x.sink = false → seq.toNat < ceilDiv k.ncnt 9 → k.seqs.contains seq.toNat = false →
    counts.any (fun e => decide (x.par.nlocal ≤ e.localIdx.toNat)) = false →
    exec (.xcount h seq counts) s = .next (modX s c h.xid (fun y => addCounts y h.srcRank.toNat h.plane seq.toNat counts))) ∧
  (∀ (h : XHdr) (seq : BitVec 16) (counts : List CountEntry) (s : State) (c : CtxId) (x : XCmd) (k : XRank),
    atRest s = true → xCtx s h = some c → findX s c h.xid = some x → findRank x h.srcRank.toNat h.plane = some k →
    k.seqs.contains seq.toNat = true → exec (.xcount h seq counts) s = .next s) ∧
  (∀ (cid : CtxId) (xid : BitVec 16) (s u v : State) (x : XCmd) (ws : List (Nat × Bytes)) (os : List OutStream),
    findX s cid xid = some x → unitsRun s = true → atRest s = true → x.mode = .dispatch → x.counted = false → x.sink = false → countsIn x = true →
    writeUni s x.cid.part x.par.rxc (rxcBytes x) = .ok u → countFault { x with counted := true } = none →
    allWclWrites u { x with counted := true } x.wcl.zipIdx = .ok ws →
    homeStreams u { x with counted := true } (servedExperts { x with counted := true }) = .ok os →
    writeUniAll u x.cid.part ((x.par.rorg, leBytes 64 x.p) :: ws) = .ok v →
    exec (.countPhaseEnd cid xid) s = .next (
      let w := modX (pushOuts v x.cid os) x.cid x.xid (fun y => { y with counted := true })
      startPlans (checkX (writeReady ((insOf w { x with counted := true }).foldl settleIn w) x.cid x.xid) x.cid x.xid) x.cid
        x.par.rxc)) ∧
  (∀ (h : XHdr) (s : State) (st : InStream), findIn s h = some st → unitsRun s = true → wantsCredit st = true →
    (getXd s st.key.plane).asks.contains st.key = false →
    exec (.xask h) s = .next (setXd s st.key.plane { getXd s st.key.plane with asks := (getXd s st.key.plane).asks ++ [st.key] })) ∧
  (∀ (die : XDie) (s u : State) (st : InStream), nextGrant s (getXd s die).asks = some (u, st) → unitsRun s = true →
    exec (.creditGrant die) s = .next (sendX (
      if wantsCredit st then joinAsks (leaveAsks (putIn u st) st.key) st.key else leaveAsks (putIn u st) st.key)
      st.hdr (.credit 256))) ∧
  (∀ (h : XHdr) (cells : BitVec 16) (s : State) (o : OutStream), findOut s h (· == .sending) = some o → unitsRun s = true →
    exec (.xcredit h cells) s = .next (feedOut s { o with credit := o.credit + cells.toNat }))

/-- Data, ends and hangs of the exchange, and the Combine units (R138, R148, R149, R153-R155). -/
def Obligations.StreamsLandAndEnd : Prop :=
  (∀ (h : XHdr) (offset : BitVec 40) (data : Bytes) (s u : State) (st : InStream), findIn s h = some st → unitsRun s = true →
    atRest s = true →
    st.done = false → data.length ≠ 0 → data.length ≤ 2048 → offset.toNat + data.length ≤ min st.dbytes (256 * st.granted) →
    ivHas st.landed offset.toNat (offset.toNat + data.length) = false → (h.kind ≠ 3 ∨ st.discard = true) →
    u = spillData s (getXd s st.key.plane) st.cells (offset.toNat - 256 * st.freed) (data.drop (256 * st.freed - offset.toNat)) →
    exec (.streamData h offset data) s =
      .next (settleIn (putIn u { st with
        buf := Memory.write st.buf offset.toNat data
        landed := addIv offset.toNat (offset.toNat + data.length) st.landed }) st.key)) ∧
  (∀ (h : XHdr) (offset : BitVec 40) (data : Bytes) (s : State) (st : InStream), findIn s h = some st →
    ivHas st.landed offset.toNat (offset.toNat + data.length) = true → exec (.streamData h offset data) s = .next s) ∧
  (∀ (h : XHdr) (dbytes : BitVec 40) (crc : BitVec 32) (s : State) (st : InStream), findIn s h = some st → unitsRun s = true →
    atRest s = true → st.done = false → st.ended = none →
    exec (.xend h dbytes crc) s = .next (settleIn (putIn s { st with ended := some crc }) st.key)) ∧
  (∀ (h : XHdr) (offset : BitVec 40) (bytes : BitVec 32) (s u : State) (o : OutStream) (run : Bytes) (dst : Coord) (n : Nat)
    (ps : List Bytes),
    findOut s h (fun st => st == .sending || st == .ended) = some o → unitsRun s = true →
    run = (o.data.drop offset.toNat).take bytes.toNat → dst = rankDst s (outHdr s o) → n = packetBytes s dst o.key.plane →
    ps = pieces n run.length run → dataRefused s o.key.cid dst o.key.plane ps.length = none →
    u = (ps.zipIdx).foldl (fun t q => sendData t o.key.cid dst o.key.plane (outHead o) (offset.toNat + n * q.2)
      (offset.toNat + run.length == o.dbytes && q.2 + 1 == ps.length) q.1) s →
    exec (.xresend h offset bytes) s = .next (if o.key.kind ≠ 2 ∧ o.st = .ended then sendEnd u o else u)) ∧
  (∀ (cid : CtxId) (xid : BitVec 16) (s : State) (x : XCmd), findX s cid xid = some x → unitsRun s = true → atRest s = true →
    x.sink = false → isResident s cid = true → x.since + hangNs s cid ≤ residentClock s cid →
    exec (.xchHang cid xid) s = .next (stopX s x 0 { code := Code.eXchHang, detail := xHangDetail s x })) ∧
  (∀ (cid : CtxId) (xid : BitVec 16) (token : BitVec 16) (rank : BitVec 4) (row : Bytes) (s : State) (x : Cmb) (st : InStream)
    (k : Nat), unitsRun s = true → atRest s = true → findCmb s cid xid = some x →
    returnSource s cid xid token.toNat rank.toNat row = some (st, k) →
    exec (.returnArrival cid xid token rank row) s = .next (
      let f := freeRec s st k
      settleIn (arriveRow (putIn f.1 { f.2 with arrived := f.2.arrived ++ [k] }) x token.toNat rank.toNat row) st.key)) ∧
  (∀ (cid : CtxId) (xid : BitVec 16) (s : State) (x : Cmb) (u : Nat) (ws : List Nat), findCmb s cid xid = some x →
    unitsRun s = true → atRest s = true → isResident s cid = true → x.since + hangNs s cid ≤ residentClock s cid →
    stateWords s x = .ok ws → u < ws.length → bitAt (nth 0 ws u) 21 = false → (∀ v, v < u → bitAt (nth 0 ws v) 21 = true) →
    exec (.landingHang cid xid) s = .next (stopCmb s x (x.die (x.tok0 + u))
      { code := Code.eLandingHang, detail := [BitVec.ofNat 32 (x.tok0 + u), BitVec.ofNat 32 (nth 0 ws u)] }))

/-- The cells of the exchange's pools (R157-R160). -/
def Obligations.CellPoolsAreConfigured : Prop :=
  (∀ (die : XDie) (unit : Fin 64) (p : PartI) (ptr : BitVec 32) (s : State) (x : XdSt), unitsRun s = true →
    releaseCell (getXd s die) unit.val p.val ptr = .keeps x → exec (.cellRelease die unit p ptr) s = .next (setXd s die x)) ∧
  (∀ (die : XDie) (unit : Fin 64) (p : PartI) (ptr : BitVec 32) (s u : State) (h : Chain), unitsRun s = true →
    releaseCell (getXd s die) unit.val p.val ptr = .frees h → freeChain s die h = (u, true) →
    exec (.cellRelease die unit p ptr) s = .next u) ∧
  (∀ (die : XDie) (unit : Fin 64) (p : PartI) (ptr : BitVec 32) (s u : State) (h : Chain), unitsRun s = true →
    releaseCell (getXd s die) unit.val p.val ptr = .frees h → freeChain s die h = (u, false) →
    exec (.cellRelease die unit p ptr) s = .next (report s (devReport Code.eCellPtr deviceFatal 9 die.val []))) ∧
  (∀ (die : XDie) (unit : Fin 64) (p : PartI) (ptr : BitVec 32) (s : State) (c : BitVec 16), unitsRun s = true →
    releaseCell (getXd s die) unit.val p.val ptr = .fails c →
    exec (.cellRelease die unit p ptr) s = .next (report s (partReport c partitionFatal p 9 die.val []))) ∧
  (∀ (port : RlPort) (die : XDie) (p : PartI) (value : BitVec 32) (s : State) (n : Nat), mayWrite s port (6 + p.val) = true →
    n = bitsOf value.toNat 0 20 → ((upto 8).map (fun q => if q = p.val then 0 else bpmResOf (getXd s die) q)).sum + n ≤ 983040 →
    exec (.bpmResWrite port die p value) s = .next (setXd s die { getXd s die with
      bpmRes := Tbl.set 4096 (getXd s die).bpmRes p.val (BitVec.ofNat 20 n) })) ∧
  (∀ (port : RlPort) (die : XDie) (p : PartI) (value : BitVec 32) (s : State), mayWrite s port (6 + p.val) = true →
    983040 < ((upto 8).map (fun q => if q = p.val then 0 else bpmResOf (getXd s die) q)).sum + bitsOf value.toNat 0 20 →
    exec (.bpmResWrite port die p value) s = .next (setXd s die { getXd s die with
      bpmCfgErr := (getXd s die).bpmCfgErr ||| BitVec.ofNat 8 (2 ^ p.val) })) ∧
  (∀ (port : RlPort) (die : XDie) (p : PartI) (value : BitVec 64) (s : State), mayWrite s port (6 + p.val) = true →
    bitsOf value.toNat 44 11 ≤ 1024 → Tbl.get 0 (getXd s die).spUsed p.val = 0 →
    hbmOwned s p (bitsOf value.toNat 16 28 * 65536) (bitsOf value.toNat 44 11 * 266240) = true →
    exec (.bpmSpillWrite port die p value) s = .next (setXd s die { getXd s die with
      bpmSpill := Tbl.set 0 (getXd s die).bpmSpill p.val
        (BitVec.ofNat 64 (pack [(16, bitsOf value.toNat 16 28), (44, bitsOf value.toNat 44 11)])) })) ∧
  (∀ (port : RlPort) (die : XDie) (p : PartI) (value : BitVec 64) (s : State), mayWrite s port (6 + p.val) = true →
    1024 < bitsOf value.toNat 44 11 ∨ Tbl.get 0 (getXd s die).spUsed p.val ≠ 0 →
    exec (.bpmSpillWrite port die p value) s = .next (setXd s die { getXd s die with
      bpmCfgErr := (getXd s die).bpmCfgErr ||| BitVec.ofNat 8 (2 ^ p.val) }))

/-- The collectives' edges (R180-R182, R196). -/
def Obligations.CollectiveEdgesOpen : Prop :=
  (∀ (h : CHdr) (pdig gdig : BitVec 32) (s : State), unitsRun s = true → msgCtxs s h.jtag ≠ [] → findColl s h h.dstRank = none →
    exec (.copen h pdig gdig) s =
      .next (sendCMsg s { h with srcRank := h.dstRank, dstRank := h.srcRank } h.src .wait)) ∧
  (∀ (h : CHdr) (pdig gdig : BitVec 32) (s : State) (k : Coll), unitsRun s = true → msgCtxs s h.jtag ≠ [] →
    findColl s h h.dstRank = some k → k.over = false → k.pdig = pdig → k.gdig = gdig →
    exec (.copen h pdig gdig) s = .next (sendC s k h.tree.val h.srcRank.toNat .ready)) ∧
  (∀ (h : CHdr) (pdig gdig : BitVec 32) (s : State) (k : Coll), unitsRun s = true → msgCtxs s h.jtag ≠ [] →
    findColl s h h.dstRank = some k → k.over = false → (k.pdig ≠ pdig ∨ k.gdig ≠ gdig) →
    exec (.copen h pdig gdig) s = .next (stopColl s k { code := Code.eCollPeer, detail := [] } k.self 0)) ∧
  (∀ (h : CHdr) (s : State) (k : Coll), unitsRun s = true → atRest s = true → findColl s h h.dstRank = some k →
    k.edgeSt h.tree.val h.srcRank.toNat = .asked →
    exec (.cready h) s = .next (progress s (k.setEdge h.tree.val h.srcRank.toNat .opened))) ∧
  (∀ (h : CHdr) (s : State) (k : Coll), unitsRun s = true → findColl s h h.dstRank = some k →
    (k.edgeSt h.tree.val h.srcRank.toNat = .asked ∨ k.edgeSt h.tree.val h.srcRank.toNat = .opened) →
    exec (.cwait h) s = .next (putColl s
      ((k.resendTo h.tree.val h.srcRank.toNat).setEdge h.tree.val h.srcRank.toNat (.waitRetry (s.now + 8000))))) ∧
  (∀ (h : CHdr) (s : State) (k : Coll) (due : Nat), unitsRun s = true → findColl s h h.srcRank = some k →
    k.edgeSt h.tree.val h.dstRank.toNat = .waitRetry due → due ≤ s.now →
    exec (.copenRetry h) s = .next (sendC (putColl s (k.setEdge h.tree.val h.dstRank.toNat .asked)) k h.tree.val h.dstRank.toNat
      (.opening k.pdig k.gdig))) ∧
  (∀ (h : CHdr) (chunk : BitVec 32) (pass : Fin 4) (s u : State) (k : Coll) (hit : CollOut → Bool), unitsRun s = true →
    atRest s = true → findColl s h h.dstRank = some k →
    hit = (fun o => o.chunk == chunk.toNat && o.pass == pass.val && o.peer == h.srcRank.toNat && o.sent && !o.acked) →
    k.outs.any hit = true → u = (k.outs.filter hit).foldl (fun t o => dropPart t k o) s →
    exec (.cack h chunk pass) s =
      .next (progress u { k with outs := k.outs.map (fun o => if hit o then { o with acked := true, chain := none } else o) })) ∧
  (∀ (h : CHdr) (chunk : BitVec 32) (pass : Fin 4) (s : State) (k : Coll) (o : CollOut), unitsRun s = true →
    findColl s h h.dstRank = some k →
    k.outs.find? (fun o => o.chunk == chunk.toNat && o.pass == pass.val && o.peer == h.srcRank.toNat && o.sent && !o.acked) = some o →
    exec (.cresend h chunk pass) s = .next (sendPart s k o))

/-- The collectives' chunks (R157, R161, R180, R181, R185, R186, R196). -/
def Obligations.CollectiveChunksMove : Prop :=
  (∀ (h : CHdr) (chunk : BitVec 32) (pass : Fin 4) (s : State) (k : Coll) (x : XdSt) (cells : List CellRun) (a : ChunkAsk)
    (c : Nat), unitsRun s = true → c = chunk.toNat → h.tree.val = treeOf c → findColl s h h.srcRank = some k →
    k.expects c pass.val h.dstRank.toNat = true → k.findIn c pass.val h.dstRank.toNat = none →
    a = k.askOf c pass.val h.dstRank.toNat → takeCells a.cells (getXd s (collDie c)) k.cid.part.val [] = some (x, cells) →
    exec (.chunkCellGrant h chunk pass) s =
      .next (putColl (setXd s (collDie c) { x with chunkAsks := x.chunkAsks.filter (· != a) })
        { k with ins := k.ins ++ [newCollIn c pass.val h.dstRank.toNat cells] })) ∧
  (∀ (h : CHdr) (chunk : BitVec 32) (pass : Fin 4) (s : State) (k : Coll) (o : CollOut), unitsRun s = true →
    h.tree.val = treeOf chunk.toNat → findColl s h h.srcRank = none → findColl s h h.dstRank = some k →
    k.outs.find? (fun o => o.chunk == chunk.toNat && o.pass == pass.val && o.peer == h.srcRank.toNat && !o.sent && !o.msg.empty) =
      some o → k.edgeOpen (treeOf chunk.toNat) h.srcRank.toNat = true →
    exec (.chunkCellGrant h chunk pass) s =
      .next (putColl (sendPart s k o) { k with outs := k.outs.map (fun x => if samePart x o then { x with sent := true } else x) })) ∧
  (∀ (h : CHdr) (chunk : BitVec 32) (pass : Fin 4) (offset : BitVec 40) (data : Bytes) (flaw flaw2 : List (BitVec 48)) (s : State)
    (k : Coll) (i : CollIn), unitsRun s = true → atRest s = true → findColl s h h.dstRank = some k → k.findIn chunk.toNat pass.val h.srcRank.toNat = some i → i.ok = false →
    i.fin = none → data ≠ [] → data.length ≤ 2048 → offset.toNat + data.length ≤ k.partMax chunk.toNat pass.val →
    exec (.chunkData h chunk pass offset data flaw flaw2) s =
      .next (putColl (spillData s (getXd s (collDie i.chunk)) i.cells offset.toNat data) (k.putIn { i with
        buf := Memory.write i.buf offset.toNat data
        landed := addIv offset.toNat (offset.toNat + data.length) i.landed }))) ∧
  (∀ (h : CHdr) (m : CEndMsg) (r r2 : List (BitVec 48)) (s : State) (k : Coll) (i j : CollIn), unitsRun s = true →
    atRest s = true → findColl s h h.dstRank = some k → m.empty = false → k.findIn m.chunk.toNat m.pass.val h.srcRank.toNat = some i → i.ok = false →
    i.fin = none → h.tree.val = treeOf m.chunk.toNat → j = { i with fin := some m } →
    exec (.cend h m r r2) s = .next (match checkPart (putColl s (k.putIn j)) (k.putIn j) j with
      | some (t, some k2) =>
        if k2.isSum && (k.sumUp m.chunk.toNat).isNone && (k2.sumUp m.chunk.toNat).isSome
        then residue t k2 m.chunk.toNat r r2 else progress t k2
      | some (t, none) => t
      | none => putColl s (k.putIn j))) ∧
  (∀ (h : CHdr) (origin : BitVec 16) (reason : BitVec 8) (s : State) (k : Coll), unitsRun s = true →
    findColl s h h.dstRank = some k → k.done = false →
    exec (.cabort h origin reason) s =
      .next (stopColl s k { code := Code.eCollAbort, detail := [origin.setWidth 32, reason.setWidth 32] } origin.toNat
        reason.toNat)) ∧
  (∀ (cid : CtxId) (coll : BitVec 16) (s : State) (k : Coll) (m : Nat) (ms : List Nat), unitsRun s = true →
    s.colls.find? (fun k => k.cid == cid && k.id == coll && !k.done) = some k → isResident s cid = true →
    k.since + hangNs s cid ≤ residentClock s cid → (upto k.nchunk).flatMap k.missing = m :: ms →
    exec (.collHang cid coll) s =
      .next (stopColl s k { code := Code.eCollHang, detail := [BitVec.ofNat 32 (ms.foldl min m)] } k.self 2))

/-- A fabric queue's records start (R269-R272, R283). -/
def Obligations.FabricRecordsStart : Prop :=
  (∀ (c : CtxId) (q : Fin 4) (s : State) (v n : Nat) (i : Instr) (op : MsfOp),
    (i, n, op) ∈ [(Instr.add64 c q, 0x10, MsfOp.add64), (.add32 c q, 0x11, .add32), (.and64 c q, 0x12, .and64),
      (.or64 c q, 0x13, .or64), (.xor64 c q, 0x14, .xor64), (.smax64 c q, 0x15, .smax64), (.smin64 c q, 0x16, .smin64),
      (.umax64 c q, 0x17, .umax64), (.umin64 c q, 0x18, .umin64), (.swap64 c q, 0x19, .swap64), (.cas64 c q, 0x1A, .cas64),
      (.bulkGet c q, 0x20, .bulkGet)] →
    nextRec s c q = some (.ok v) → bitsOf v 0 8 = n → atRest s = true → (getFq s c q).run = none →
    (bitAt v 8 = false ∨ (getFq s c q).reqs = []) → startStatus s c v = 0 →
    exec i s = .next (
      let u := setFq s c q { getFq s c q with next := (getFq s c q).next + 1 }
      issueReq u c q (gCoord (bitsOf v 32 64)) [(getFq s c q).next] (bitsOf v 96 44)
        { blankReq u c op (bitsOf v 32 64) with
          operand := BitVec.ofNat 64 (bitsOf v 144 64), operand2 := BitVec.ofNat 64 (bitsOf v 208 64)
          bmask := BitVec.ofNat 128 (bitsOf v 272 128), len := BitVec.ofNat 40 (bitsOf v 400 40) })) ∧
  (∀ (c : CtxId) (q : Fin 4) (s u : State) (v n k : Nat) (bs : Bytes) (i : Instr) (op : MsfOp),
    (i, n, op, k) ∈ [(Instr.write c q, 0x02, MsfOp.write, 128), (.addAl48 c q, 0x1C, .addAl48, 100),
      (.bulkPut c q, 0x21, .bulkPut, bitsOf v 400 40)] →
    nextRec s c q = some (.ok v) → bitsOf v 0 8 = n → atRest s = true → (getFq s c q).run = none →
    (bitAt v 8 = false ∨ (getFq s c q).reqs = []) → startStatus s c v = 0 → (n = 2 → gSpace (bitsOf v 32 64) ≠ 3) →
    u = setFq s c q { getFq s c q with next := (getFq s c q).next + 1 } → readUni u c.part (bitsOf v 96 44) k = .ok bs →
    exec i s = .next (
      issueReq u c q (gCoord (bitsOf v 32 64)) [(getFq s c q).next] (bitsOf v 96 44)
        { blankReq u c op (bitsOf v 32 64) with
          operand := BitVec.ofNat 64 (bitsOf v 144 64), operand2 := BitVec.ofNat 64 (bitsOf v 208 64)
          bmask := BitVec.ofNat 128 (bitsOf v 272 128), len := BitVec.ofNat 40 (bitsOf v 400 40), data := bs })) ∧
  (∀ (c : CtxId) (q : Fin 4) (s u : State) (v : Nat) (dst : Coord) (m : ReqMsg), nextRec s c q = some (.ok v) →
    bitsOf v 0 8 = 0x01 → atRest s = true → (getFq s c q).run = none → (bitAt v 8 = false ∨ (getFq s c q).reqs = []) →
    startStatus s c v = 0 → u = setFq s c q { getFq s c q with next := (getFq s c q).next + 1 } → dst = gCoord (bitsOf v 32 64) →
    m = { blankReq u c .read (bitsOf v 32 64) with
          operand := BitVec.ofNat 64 (bitsOf v 144 64), operand2 := BitVec.ofNat 64 (bitsOf v 208 64)
          bmask := BitVec.ofNat 128 (bitsOf v 272 128), len := BitVec.ofNat 40 (bitsOf v 400 40) } →
    (gSpace (bitsOf v 32 64) = 3 →
      exec (.read c q) s =
        .next (issueReq u c q dst [(getFq s c q).next] (bitsOf v 96 44) { m with op := .bulkGet, len := 128 })) ∧
    (gSpace (bitsOf v 32 64) ≠ 3 → (gSpace (bitsOf v 32 64) ≠ 1 ∨ forMe u dst = true) →
      exec (.read c q) s = .next (issueReq u c q dst [(getFq s c q).next] (bitsOf v 96 44) m)) ∧
    (gSpace (bitsOf v 32 64) = 1 → forMe u dst = false → cacheFind u dst (gAddr (bitsOf v 32 64) / 128) = none →
      exec (.read c q) s = .next (issueReq u c q dst [(getFq s c q).next] (bitsOf v 96 44) { m with shared := true })) ∧
    (∀ x w, gSpace (bitsOf v 32 64) = 1 → forMe u dst = false → cacheFind u dst (gAddr (bitsOf v 32 64) / 128) = some x →
      writeUni (cacheKeep u dst x.line x.data) c.part (bitsOf v 96 44) x.data = .ok w →
      exec (.read c q) s = .next (doneRecs w c q [(getFq s c q).next] 0 0))) ∧
  (∀ (c : CtxId) (q : Fin 4) (s u : State) (v : Nat) (bs : Bytes), nextRec s c q = some (.ok v) → bitsOf v 0 8 = 0x02 →
    atRest s = true → (bitAt v 8 = false ∨ (getFq s c q).reqs = [] ∧ (getFq s c q).run = none) → startStatus s c v = 0 →
    reqsOut (getFq s c q) + maskPieces (BitVec.ofNat 128 (bitsOf v 272 128)) ≤ 64 → gSpace (bitsOf v 32 64) = 3 → u = setFq s c q { getFq s c q with next := (getFq s c q).next + 1 } →
    readUni u c.part (bitsOf v 96 44) 128 = .ok bs →
    exec (.write c q) s = .next (gather u c q (getFq s c q).next (gCoord (bitsOf v 32 64)) (bitsOf v 32 64 % 2 ^ 61)
      (BitVec.ofNat 128 (bitsOf v 272 128)) bs)) ∧
  (∀ (c : CtxId) (q : Fin 4) (s : State) (v n : Nat) (i : Instr),
    (i, n) ∈ [(Instr.read c q, 0x01), (.write c q, 0x02), (.add64 c q, 0x10), (.add32 c q, 0x11), (.and64 c q, 0x12),
      (.or64 c q, 0x13), (.xor64 c q, 0x14), (.smax64 c q, 0x15), (.smin64 c q, 0x16), (.umax64 c q, 0x17), (.umin64 c q, 0x18),
      (.swap64 c q, 0x19), (.cas64 c q, 0x1A), (.addAl48 c q, 0x1C), (.bulkGet c q, 0x20), (.bulkPut c q, 0x21)] →
    nextRec s c q = some (.ok v) → bitsOf v 0 8 = n → atRest s = true → (getFq s c q).run = none →
    (bitAt v 8 = false ∨ (getFq s c q).reqs = []) → startStatus s c v ≠ 0 →
    exec i s = .next (doneRecs (
      let u := setFq s c q { getFq s c q with next := (getFq s c q).next + 1 }
      if coordBad (gCoord (bitsOf v 32 64)) then badCoord u else u) c q [(getFq s c q).next] (startStatus s c v) 0)) ∧
  (∀ (c : CtxId) (q : Fin 4) (s u : State) (base log2 : Nat) (bs : Bytes), unitsRun s = true → (getCtx s c).state = .ready →
    atRest s = true → fqDecl s c q = some (base, log2) → readUni s c.part base 4 = .ok bs →
    u = setFq s c q { getFq s c q with tail := BitVec.ofNat 32 (leNat bs) } →
    (nextRec u c q = none ∨ ∃ v, nextRec u c q = some (.ok v) ∧ (msfOpOf (bitsOf v 0 8)).isSome = true) →
    exec (.fabricQueueRing c q) s = .next u) ∧
  (∀ (c : CtxId) (q : Fin 4) (s : State) (g : GwRun), (getFq s c q).run = some g → unitsRun s = true → atRest s = true →
    g.lastAt + 2000 ≤ s.now → exec (.gatewayFlush c q) s = .next (flushRun s c q))

/-- Requests and answers of the memory-semantic fabric (R270, R275-R279). -/
def Obligations.RequestsAreAnswered : Prop :=
  (∀ (m : ReqMsg) (s : State) (c : CtxId), unitsRun s = true → atRest s = true → tagCtx s m.jtag = some c →
    exec (.req m) s = .next (targetReq s c m)) ∧
  (∀ (m : ReqMsg) (s : State) (c : CtxId) (o : OrdEnt) (r : RspMsg), unitsRun s = true → atRest s = true →
    tagCtx s m.jtag = some c → findOrd s (ordKey m) = some o → sidSeq m.sid = o.high.getD 0 → o.rsps.find? (fun r => r.sid == m.sid) = some r →
    exec (.req m) s = .next (answer (putOrd s { o with lastAt := s.now }) o.cid o.key (reqDie s m) r m.op)) ∧
  (∀ (m : RspMsg) (s : State) (c : CtxId), unitsRun s = true → atRest s = true → m.cpn = false → tagCtx s m.jtag = some c →
    exec (.rsp m) s = .next (ctxRsp s c m)) ∧
  (∀ (src : Coord) (jtag sid : BitVec 16) (s : State) (c : CtxId) (r : FReq), unitsRun s = true → tagCtx s jtag = some c →
    findReq s c src sid = some r →
    exec (.busy src jtag sid) s = .next (putReq s c (sidQ sid) { r with retry := some (s.now + 8000) })) ∧
  (∀ (src : Coord) (jtag sid : BitVec 16) (s : State) (c : CtxId) (r : FReq) (due : Nat), unitsRun s = true → atRest s = true →
    tagCtx s jtag = some c → findReq s c src sid = some r → r.retry = some due → due ≤ s.now →
    exec (.busyResend src jtag sid) s = .next (sendReq (putReq s c (sidQ sid) { r with retry := none }) c r.dst r.req)) ∧
  (∀ (die : XDie) (src : Coord) (jtag : BitVec 16) (cpn : Bool) (port : Fin 2) (q : Fin 4) (s : State) (due : OrdEnt → Bool),
    unitsRun s = true →
    due = (fun o => o.key == { src := src, jtag := jtag, cpn := cpn, port := port, q := q } && o.die == die && o.cur.isNone &&
      decide (o.lastAt + 500000000 ≤ s.now)) →
    exec (.orderEntryExpiry die src jtag cpn port q) s = .next ((s.msf.order.filter due).foldl dropOrd { s with msf := { s.msf with
      order := s.msf.order.filter (fun o => !due o)
      highs := s.msf.highs ++ (s.msf.order.filter due).map (fun o => (o.key.num, o.high.getD 0)) } })) ∧
  (∀ (c : CtxId) (q : Fin 4) (sid : BitVec 16) (s : State) (r : FReq), (getFq s c q).reqs.find? (fun r => r.sid == sid) = some r →
    unitsRun s = true → atRest s = true → r.since + hangNs s c ≤ residentClock s c →
    exec (.msfHang c q sid) s = .next (endReq s c q r 7 0))

/-- The coherence directory and the ends of bulk transfers (R281, R283). -/
def Obligations.DirectoryMessagesAct : Prop :=
  (∀ (die : XDie) (home : Coord) (addr : BitVec 44) (s : State), unitsRun s = true → addr.toNat / 128 % 2 = die.val →
    exec (.inv die home addr) s =
      .next (sendMsf (cacheDrop s home (addr.toNat / 128)) 3 die home (.invack addr.toNat))) ∧
  (∀ (h : Holder) (addr : BitVec 44) (s : State), unitsRun s = true → atRest s = true →
    exec (.invack h addr) s = .next (serveWaiting (ackInv s h addr.toNat))) ∧
  (∀ (h : Holder) (addr : BitVec 44) (s : State) (e : DirEnt) (v : BitVec 7), unitsRun s = true → s.msf.wait = none →
    s.msf.coh = false → s.msf.waiting = [] → dirFind s addr.toNat = some e → e.st = .shared v →
    exec (.invack h addr) s = .next (sweepDir (putDir s
      { e with st := .shared (v &&& ~~~(holderBit h)), acks := e.acks &&& ~~~(holderBit h) }))) ∧
  (∀ (home : Coord) (keep : Bool) (addr : BitVec 44) (port : RlPort) (s : State), unitsRun s = true → rlUp s port = true →
    exec (.recallLine home keep addr port) s =
      .next { s with out := s.out ++ [.companion port (.recallLine home keep addr.toNat)] }) ∧
  (∀ (h : Holder) (home : Coord) (addr : BitVec 44) (data : Option Bytes) (s : State), unitsRun s = true → atRest s = true →
    (forMe s home = true → exec (.recallack h home addr data) s = .next (serveWaiting (ackRecall s h addr.toNat data))) ∧
    (forMe s home = false →
      exec (.recallack h home addr data) s = .next (passHolder s h home addr.toNat (.recallack addr.toNat data) data))) ∧
  (∀ (h : Holder) (home : Coord) (addr : BitVec 44) (bs : Bytes) (s u : State) (e : DirEnt) (keep : Bool), unitsRun s = true →
    s.msf.wait = none → s.msf.waiting = [] → forMe s home = true → dirFind s addr.toNat = some e → e.st = .modified h →
    e.recalling = some keep →
    u = sweepDir (putDir (lineBack { s with msf := { s.msf with coh := true } } addr.toNat bs)
      { e with st := .shared (if keep then holderBit h else 0), recalling := none }) →
    exec (.recallack h home addr (some bs)) s = .next { u with msf := { u.msf with coh := false } }) ∧
  (∀ (h : Holder) (home : Coord) (addr : BitVec 44) (s : State), unitsRun s = true → atRest s = true →
    (forMe s home = true → exec (.puts h home addr) s = .next (serveWaiting (takePuts s h addr.toNat))) ∧
    (forMe s home = false → exec (.puts h home addr) s = .next (passHolder s h home addr.toNat (.puts addr.toNat) none))) ∧
  (∀ (h : Holder) (home : Coord) (addr : BitVec 44) (s : State) (e : DirEnt) (v : BitVec 7), unitsRun s = true →
    s.msf.wait = none → s.msf.coh = false → s.msf.waiting = [] → forMe s home = true → dirFind s addr.toNat = some e → e.st = .shared v →
    exec (.puts h home addr) s = .next (sweepDir (putDir s { e with st := .shared (v &&& ~~~(holderBit h)) }))) ∧
  (∀ (h : Holder) (home : Coord) (addr : BitVec 44) (data : Bytes) (s : State), unitsRun s = true → atRest s = true →
    (forMe s home = true → exec (.putm h home addr data) s = .next (serveWaiting (takePutm s h addr.toNat data))) ∧
    (forMe s home = false →
      exec (.putm h home addr data) s = .next (passHolder s h home addr.toNat (.putm addr.toNat data) (some data)))) ∧
  (∀ (h : Holder) (home : Coord) (addr : BitVec 44) (data : Bytes) (s u : State) (e : DirEnt), unitsRun s = true →
    s.msf.wait = none → s.msf.waiting = [] → forMe s home = true → dirFind s addr.toNat = some e → e.st = .modified h →
    u = sweepDir (putDir (lineBack { s with msf := { s.msf with coh := true } } addr.toNat data)
      { e with st := .shared (if e.recalling.getD false then holderBit h else 0), recalling := none }) →
    exec (.putm h home addr data) s = .next { u with msf := { u.msf with coh := false } }) ∧
  (∀ (src : Coord) (jtag sid : BitVec 16) (bytes : BitVec 40) (crc : BitVec 32) (s : State) (c : CtxId) (r : FReq),
    unitsRun s = true → atRest s = true → tagCtx s jtag = some c → findReq s c src sid = some r → r.req.op = .bulkGet → r.bend = none →
    exec (.bend src jtag sid bytes crc) s = .next (checkGet s c (sidQ sid) { r with bend := some (bytes, crc) })) ∧
  (∀ (src : Coord) (jtag sid : BitVec 16) (s : State) (c : CtxId) (r : FReq), unitsRun s = true → atRest s = true →
    tagCtx s jtag = some c → findReq s c src sid = some r → r.req.op = .bulkPut → exec (.bresend src jtag sid) s = .next (sendReq s c r.dst r.req))

/-- A fabric port comes up (R238-R240, R245). -/
def Obligations.PortsComeUp : Prop :=
  (∀ (port : RlPort) (fp : FPort) (value : BitVec 32) (s : State), mayWrite s port (fpSem fp) = true →
    (getFp s fp.val).state = .disabled → value.getLsbD 0 = true →
    exec (.portEnable port fp value) s = .next (setFp s fp.val { getFp s fp.val with
      en := true, swapTh := value.extractLsb' 6 8, state := .detect, since := s.now, next := s.now })) ∧
  (∀ (port : RlPort) (fp : FPort) (value : BitVec 32) (s : State), mayWrite s port (fpSem fp) = true →
    (getFp s fp.val).state = .active → value.getLsbD 0 = true → value.getLsbD 5 = true →
    ∃ t, exec (.retrain port fp value) s = .next t ∧ getFp t fp.val = { getFp s fp.val with
      en := true, swapTh := value.extractLsb' 6 8, retrain := true, state := .retrain, since := s.now, trained := false, nakAt := none }) ∧
  (∀ (fp : FPort) (sig : BitVec 5) (s : State), linksRun s = true → (getFp s fp.val).state = .detect →
    (getFp s fp.val).next ≤ s.now →
    exec (.portDetect fp sig) s = .next (setFp s fp.val (
      if 4 ≤ laneCount sig then startTaps { getFp s fp.val with state := .train, since := s.now, sig := sig }
      else { getFp s fp.val with next := s.now + 10000000 }))) ∧
  (∀ (fp : FPort) (s : State), linksRun s = true → (getFp s fp.val).state = .train →
    exec (.portTrainDone fp) s = .next (setFp s fp.val { getFp s fp.val with state := .align, since := s.now, warm := true })) ∧
  (∀ (fp : FPort) (s : State), linksRun s = true → (getFp s fp.val).state = .align →
    exec (.portAlignDone fp) s = .next (send (setFp s fp.val { getFp s fp.val with
      state := .negotiate, since := s.now, next := s.now + 100000000 })
      (.linkNegotiate fp s.sec.kfpMinor s.sec.coord (getFp s fp.val).sig (getFp s fp.val).kfp2))) ∧
  (∀ (fp : FPort) (major minor : Nat) (peer : Coord) (peerPort : Nat) (lanes : BitVec 5) (s : State), linksRun s = true →
    (getFp s fp.val).state = .negotiate → (getFp s fp.val).kfp2 = false → versionOk s.sec.kfpMinor.toNat major minor = true →
    wiringOk s fp.val peer peerPort = true →
    exec (.negotiate fp major minor peer peerPort lanes false) s =
      .next (offerBufs (activatePort s fp.val (min s.sec.kfpMinor.toNat minor) lanes))) ∧
  (∀ (fp : FPort) (major minor : Nat) (peer : Coord) (peerPort : Nat) (lanes : BitVec 5) (s : State), linksRun s = true →
    (getFp s fp.val).state = .negotiate → (getFp s fp.val).kfp2 = false → wiringOk s fp.val peer peerPort = true →
    versionOk s.sec.kfpMinor.toNat major minor = false →
    exec (.negotiate fp major minor peer peerPort lanes false) s =
      .next (report s (fabReport Code.eFabVersion deferred fp.val []))) ∧
  (∀ (fp : FPort) (major minor : Nat) (peer : Coord) (peerPort : Nat) (lanes : BitVec 5) (s : State), linksRun s = true →
    (getFp s fp.val).state = .negotiate → (getFp s fp.val).kfp2 = false → wiringOk s fp.val peer peerPort = false →
    versionOk s.sec.kfpMinor.toNat major minor = true →
    exec (.negotiate fp major minor peer peerPort lanes false) s =
      .next (report s (fabReport Code.eFabWiring deferred fp.val []))) ∧
  (∀ (fp : FPort) (s : State), linksRun s = true → (getFp s fp.val).state = .negotiate → (getFp s fp.val).next ≤ s.now →
    exec (.negotiateRetry fp) s =
      .next (send (setFp s fp.val { getFp s fp.val with next := s.now + 100000000 })
        (.linkNegotiate fp s.sec.kfpMinor s.sec.coord (getFp s fp.val).sig (getFp s fp.val).kfp2))) ∧
  (∀ (fp : FPort) (s : State) (x : FPortSt), x = getFp s fp.val → linksRun s = true → x.state = .retrain →
    x.since + 10000000 ≤ s.now →
    exec (.retrainTimeout fp) s = .next (report ((blockPackets x.unacked).foldl
      (fun u k => forward u none (some fp.val) { k with hops := k.hops - 1 })
      (setFp s fp.val { x with state := .detect, since := s.now, next := s.now, unacked := [], retrain := false, credits := [] }))
      (fabReport Code.eFabLinkDown deferred fp.val [])))

/-- Lanes, blocks and retry (R241-R244). -/
def Obligations.LanesAndBlocksAct : Prop :=
  (∀ (fp : FPort) (r : EqReading) (s : State) (x : FPortSt), x = getFp s fp.val → linksRun s = true → x.state = .active →
    r.count.toNat ≤ x.swapTh.toNat * 1024 →
    exec (.eqWindow fp r) s = .next (setFp (takeFree s 1) fp.val { x with
      lanes := Tbl.set {} x.lanes r.lane.val
        { laneWindow (Tbl.get {} x.lanes r.lane.val) r.count s.free with above := 0 } })) ∧
  (∀ (fp : FPort) (r : EqReading) (s : State) (x : FPortSt), x = getFp s fp.val → linksRun s = true → x.state = .active →
    x.swapTh.toNat * 1024 < r.count.toNat → (Tbl.get ({} : Lane) x.lanes r.lane.val).above = 2 →
    exec (.eqWindow fp r) s = .next (laneFail (setFp (takeFree s 1) fp.val { x with
      lanes := Tbl.set {} x.lanes r.lane.val
        { laneWindow (Tbl.get {} x.lanes r.lane.val) r.count s.free with above := 0 } }) fp.val r.lane.val)) ∧
  (∀ (fp : FPort) (lane : Fin 5) (s : State), linksRun s = true → fpUp s fp.val = true →
    exec (.laneLockLoss fp lane) s = .next (laneFail s fp.val lane.val)) ∧
  (∀ (fp : FPort) (lane : Fin 4) (s : State) (x : FPortSt), linksRun s = true → fpUp s fp.val = true → x = getFp s fp.val →
    x.spare = 4 → x.swapRx = none → x.dead.getLsbD lane.val = false →
    exec (.laneLockLoss fp lane.castSucc) s = .next (send (setFp s fp.val { x with swapRx := some (lane, x.rxSeq + 16) })
      (.linkSwap fp lane.val (x.rxSeq + 16)))) ∧
  (∀ (fp : FPort) (lane : Fin 4) (seq : BitVec 10) (s : State), linksRun s = true → fpUp s fp.val = true →
    (getFp s fp.val).spare = 4 →
    exec (.swap fp lane seq) s = .next (setFp s fp.val (if ((getFp s fp.val).txSeq - seq).toNat < 512
      then { getFp s fp.val with spare := BitVec.ofNat 3 lane.val, swapTx := none }
      else { getFp s fp.val with swapTx := some (lane, seq) }))) ∧
  (∀ (fp : FPort) (corrected : Nat) (seq ack : BitVec 10) (data : Bytes) (s u : State) (x : FPortSt), linksRun s = true →
    fpUp s fp.val = true → x = ackBlocks { getFp s fp.val with fec := satAdd (getFp s fp.val).fec corrected } ack s.now →
    seq = x.rxSeq → x.swapRx = none → u = setFp s fp.val { x with rxSeq := x.rxSeq + 1, nakAt := none } →
    exec (.blockReceive fp true corrected seq ack none data) s =
      .next (offerBufs (if x.unacked.length < 512 then beginBlocks u fp.val 1 10 [] else u))) ∧
  (∀ (fp : FPort) (corrected : Nat) (seq ack : BitVec 10) (data : Bytes) (s : State), linksRun s = true → fpUp s fp.val = true →
    (getFp s fp.val).nakAt = none →
    exec (.blockReceive fp false corrected seq ack none data) s =
      .next (send (setFp s fp.val { getFp s fp.val with
        uncorr := satAdd (getFp s fp.val).uncorr 1, nakAt := some (s.now + 1000) }) (.linkNak fp (getFp s fp.val).rxSeq))) ∧
  (∀ (fp : FPort) (corrected : Nat) (seq ack : BitVec 10) (data : Bytes) (s : State) (t : Nat), linksRun s = true →
    fpUp s fp.val = true → (getFp s fp.val).nakAt = some t →
    exec (.blockReceive fp false corrected seq ack none data) s =
      .next (setFp s fp.val { getFp s fp.val with uncorr := satAdd (getFp s fp.val).uncorr 1 })) ∧
  (∀ (fp : FPort) (good : Bool) (corrected : Nat) (seq ack : BitVec 10) (c : Fin 8) (data : Bytes) (s : State) (x : Circ),
    linksRun s = true → fpUp s fp.val = true →
    x = Tbl.get {} s.fab.circs (8 * (Fin.ofNat 2 (fpPlane fp.val) : XDie).val + c.val) → x.en = true →
    x.inp.toNat = fpRole fp.val → x.outp = 24 →
    ∃ t, exec (.blockReceive fp good corrected seq ack (some c) data) s = .next t ∧
      t.fab.circIn = s.fab.circIn ++ [(Fin.ofNat 2 (fpPlane fp.val), c, good, data)] ∧
      getFp t fp.val = (if good then { getFp s fp.val with fec := satAdd (getFp s fp.val).fec corrected }
        else { getFp s fp.val with uncorr := satAdd (getFp s fp.val).uncorr 1 })) ∧
  (∀ (fp : FPort) (seq : BitVec 10) (s : State), linksRun s = true → fpUp s fp.val = true →
    exec (.nak fp seq) s = .next (resendFrom s fp.val seq)) ∧
  (∀ (fp : FPort) (s : State) (t : Nat), linksRun s = true → fpUp s fp.val = true → (getFp s fp.val).nakAt = some t → t ≤ s.now →
    exec (.nakRepeat fp) s = .next (send (setFp s fp.val { getFp s fp.val with nakAt := some (s.now + 1000) })
      (.linkNak fp (getFp s fp.val).rxSeq))) ∧
  (∀ (fp : FPort) (s : State) (b : Block) (l : List Block), linksRun s = true → fpUp s fp.val = true →
    (getFp s fp.val).unacked = b :: l → (getFp s fp.val).lastAck + 4000 ≤ s.now →
    exec (.ackTimeout fp) s = .next (resendFrom s fp.val b.seq))

/-- Packets, circuits and tags (R247, R252, R253, R258-R262, R352). -/
def Obligations.PacketsAndTagsAct : Prop :=
  (∀ (fp : FPort) (net vc : Fin 2) (slots : Nat) (s : State), linksRun s = true → fpUp s fp.val = true →
    exec (.credit fp net vc slots) s = .next (offerBufs (setFp s fp.val { getFp s fp.val with
      credits := Tbl.set 0 (getFp s fp.val).credits (creditKey net vc)
        (min 512 (Tbl.get 0 (getFp s fp.val).credits (creditKey net vc) + slots)) }))) ∧
  (∀ (fp : FPort) (k : Packet) (s : State), linksRun s = true → fpUp s fp.val = true →
    bufUsed s fp k.net k.vc + packetSlots k ≤ 512 → coordBad k.dst = false →
    coordBad k.src = false → forMe s k.dst = true → exec (.packetReceive fp k) s = .next (arrive s fp.val k)) ∧
  (∀ (fp : FPort) (k q : Packet) (s : State) (b : TagBind), linksRun s = true → fpUp s fp.val = true →
    bufUsed s fp k.net k.vc + packetSlots k ≤ 512 → coordBad k.dst = false → coordBad k.src = false → forMe s k.dst = true →
    crcBad k = false → k.isData = false → k.jtag ≠ 0 → bindOfTag s k.jtag = some b → k.tepoch = b.tepoch →
    (bindKey s b).bind (openPacket k) = some q →
    exec (.packetReceive fp k) s = .next (deliverPacket (giveCredit s (some fp.val) k.net k.vc (packetSlots k)) q)) ∧
  (∀ (fp : FPort) (k : Packet) (s : State), linksRun s = true → fpUp s fp.val = true →
    bufUsed s fp k.net k.vc + packetSlots k ≤ 512 → (coordBad k.dst = true ∨ coordBad k.src = true) →
    exec (.packetReceive fp k) s =
      .next (report (giveCredit s (some fp.val) k.net k.vc (packetSlots k)) (fabReport Code.eFabCoord deferred fp.val []))) ∧
  (∀ (fp : FPort) (k : Packet) (s : State), linksRun s = true → fpUp s fp.val = true →
    bufUsed s fp k.net k.vc + packetSlots k ≤ 512 → coordBad k.dst = false →
    coordBad k.src = false → forMe s k.dst = false → k.hops ≠ 15 →
    exec (.packetReceive fp k) s = .next (forward s (some fp.val) (some fp.val) k)) ∧
  (∀ (fp : FPort) (k : Packet) (s : State), linksRun s = true → fpUp s fp.val = true →
    bufUsed s fp k.net k.vc + packetSlots k ≤ 512 → coordBad k.dst = false →
    coordBad k.src = false → forMe s k.dst = false → k.hops = 15 →
    exec (.packetReceive fp k) s =
      .next (report (giveCredit s (some fp.val) k.net k.vc (packetSlots k)) (fabReport Code.eFabHops deferred fp.val []))) ∧
  (∀ (i : Nat) (s : State) (b : BufPkt), s.fab.bufs[i]? = some b → linksRun s = true → b.since + 50000 < s.now →
    exec (.packetAged i) s = .next (report (giveCredit { s with fab := { s.fab with bufs := s.fab.bufs.eraseIdx i } }
      (b.fp.map Fin.val) b.pkt.net b.pkt.vc (packetSlots b.pkt))
      (fabReport Code.eFabAged deferred ((b.fp.map Fin.val).getD 0) []))) ∧
  (∀ (port : RlPort) (die : XDie) (c : Fin 8) (value : BitVec 32) (s : State), mayWrite s port (18 + die.val) = true →
    circBad s die.val c.val (circOf value) = false →
    exec (.circuitWrite port die c value) s =
      .next { s with fab := { s.fab with circs := Tbl.set {} s.fab.circs (8 * die.val + c.val) (circOf value) } }) ∧
  (∀ (port : RlPort) (die : XDie) (c : Fin 8) (value : BitVec 32) (s : State), mayWrite s port (18 + die.val) = true →
    circBad s die.val c.val (circOf value) = true →
    exec (.circuitWrite port die c value) s =
      .next (setXd s die { getXd s die with circErr := (getXd s die).circErr ||| BitVec.ofNat 8 (2 ^ c.val) })) ∧
  (∀ (port : RlPort) (value : BitVec 64) (s : State), mayWrite s port 18 = true →
    (Tbl.get ({} : TagBind) s.tags.binds s.tags.sel.toNat).en = false → value.getLsbD 0 = true → bindBad s (bindFields value) = false →
    exec (.tagBind port value) s = .next (makeBind s s.tags.sel.toNat (bindFields value))) ∧
  (∀ (port : RlPort) (value : BitVec 64) (s : State), mayWrite s port 18 = true →
    (Tbl.get ({} : TagBind) s.tags.binds s.tags.sel.toNat).en = false → value.getLsbD 0 = true → bindBad s (bindFields value) = true →
    exec (.tagBind port value) s = .next { s with tags := { s.tags with err := true } }) ∧
  (∀ (port : RlPort) (value : BitVec 64) (s : State), mayWrite s port 18 = true →
    (Tbl.get ({} : TagBind) s.tags.binds s.tags.sel.toNat).en = true → value.getLsbD 0 = false →
    exec (.tagRetire port value) s = .next (retireBind s s.tags.sel.toNat)) ∧
  (∀ (newer : Bool) (k : Packet) (s : State), linksRun s = true → forMe s k.src = true →
    exec (.tagnak newer k) s = .next { s with fab := { s.fab with naks := s.fab.naks ++ [(k, s.now + 8000)] } }) ∧
  (∀ (i : Nat) (s u : State) (k : Packet) (due : Nat) (b : TagBind), s.fab.naks[i]? = some (k, due) → linksRun s = true →
    due ≤ s.now → u = { s with fab := { s.fab with naks := s.fab.naks.eraseIdx i } } → bindOfTag u k.jtag = some b →
    exec (.tagnakResend i) s = .next (if k.isData then resendNaked u b k
      else sendPkt u (sealPacket { k with tepoch := b.tepoch, hops := 0, standin := false, vc := 0 } none)))

/-- Fabric Time (R264, R265, R377-R381). -/
def Obligations.FabricTimeActs : Prop :=
  (∀ (child : Coord) (s : State), linksRun s = true → (timeParent s.sec.tmaster child).any (fun q => forMe s q.1) = true →
    exec (.tsyncSend child) s = .next (sendFab { s with ft := { s.ft with seq := s.ft.seq + 1 } } child (timePlane s child)
      (.tsync s.ft.seq s.ft.count))) ∧
  (∀ (parent : Coord) (seq : BitVec 16) (t1 : BitVec 64) (s : State), linksRun s = true →
    (myParent s).any (fun q => q.1 == parent) = true →
    exec (.tsync parent seq t1) s = .next (sendFab
      { s with ft := { s.ft with sync := some { seq := seq, t1 := t1, t2 := s.ft.count, t3 := s.ft.count } } }
      parent (timePlane s parent) (.treq seq s.ft.count))) ∧
  (∀ (child : Coord) (seq : BitVec 16) (t3 : BitVec 64) (s : State), linksRun s = true →
    (timeParent s.sec.tmaster child).any (fun q => forMe s q.1) = true →
    exec (.treq child seq t3) s = .next (sendFab s child (timePlane s child) (.tresp seq s.ft.count 0))) ∧
  (∀ (seq : BitVec 16) (t4 corr : BitVec 64) (s : State) (y : FtSync) (a b e d : Int) (p : Nat), s.ft.sync = some y →
    linksRun s = true → y.seq = seq → a = (y.t2 - y.t1).toInt * 65536 → b = (t4 - y.t3).toInt * 65536 →
    e = (a - b - corr.toInt) / 2 → d = (a + b - corr.toInt) / 2 → timePort s = some p →
    d ≤ leastDelay ((d :: s.ft.delays).take 64) + 16 * 65536 →
    exec (.tresp seq t4 corr) s =
      .next { s with ft := ftAccept { s.ft with delays := (d :: s.ft.delays).take 64, sync := none } e s.now p }) ∧
  (∀ (seq : BitVec 16) (t4 corr : BitVec 64) (s : State) (y : FtSync) (a b d : Int), s.ft.sync = some y →
    linksRun s = true → y.seq = seq → a = (y.t2 - y.t1).toInt * 65536 → b = (t4 - y.t3).toInt * 65536 →
    d = (a + b - corr.toInt) / 2 → leastDelay ((d :: s.ft.delays).take 64) + 16 * 65536 < d →
    exec (.tresp seq t4 corr) s = .next { s with ft := { s.ft with
      delays := (d :: s.ft.delays).take 64, sync := none, reject := satAdd s.ft.reject 1 } }) ∧
  (∀ s : State, linksRun s = true → (s.ft.state = .acquire ∨ s.ft.state = .locked) →
    (s.ft.lastAccept + 1000000 ≤ s.now ∨ timePort s = none) →
    exec .ftHoldoverEntry s =
      .next (report { s with ft := { s.ft with state := .holdover, r := s.ft.f, good := 0, farSince := none } }
        (devReport Code.eFtHoldover deferred 16 0 []))) ∧
  (∀ (s : State) (t : Nat), s.ft.farSince = some t → linksRun s = true → s.ft.state = .locked → t + 100000000 ≤ s.now →
    exec .ftRange s = .next (report { s with ft := { s.ft with farSince := none } } (devReport Code.eFtRange deferred 16 0 []))) ∧
  (∀ s : State, linksRun s = true → isTimeMaster s = true → (s.ft.state = .master ∨ s.ft.locked = true) →
    exec .ppsIn s = .next { s with ft := { servo { s.ft with state := .master } (ppsOffset s.ft.count.toNat) 1000 with
      e := ppsOffset s.ft.count.toNat, ppsCap := s.ft.count, lastAccept := s.now } }) ∧
  (∀ s : State, linksRun s = true → isTimeMaster s = true → s.ft.state ≠ .master → s.ft.locked = false →
    exec .ppsIn s = .next { s with ft := ppsFirst s.ft }) ∧
  (∀ (port : RlPort) (value : BitVec 64) (s : State), mayWrite s port 3 = true → isTimeMaster s = true → s.ft.state = .free →
    exec (.ftSet port value) s = .next { s with ft := { s.ft with set := some value } }) ∧
  (∀ (port : RlPort) (value : BitVec 64) (s : State), mayWrite s port 3 = true → (isTimeMaster s = false ∨ s.ft.state ≠ .free) →
    exec (.ftSet port value) s = .next s)

/-- Memory leases and patrol scrubbing (R228-R231, R233, R234). -/
def Obligations.LeasesRunTheirCourse : Prop :=
  (∀ (die : CDie) (finds : List ScrubFind) (cellar hbm : BitVec 10) (s : State), unitsRun s = true →
    exec (.scrubPass die finds cellar hbm) s =
      .next (finds.foldl foundError (setDie s die { getDie s die with scrubCellar := cellar, scrubHbm := hbm }))) ∧
  (∀ (port : RlPort) (i : Fin 16) (value : BitVec 64) (s : State), mayWrite s port 18 = true → (getLend s i.val).state = .idle →
    lendBad s i.val (lendOf value) = false → value.getLsbD 0 = true → (getLend s i.val).asked = none →
    exec (.leaseLendWrite port i value) s =
      .next (markLent (setLend s i.val { lendOf value with state := .offered, asked := none }) (lendOf value).grans true)) ∧
  (∀ (port : RlPort) (i : Fin 16) (value : BitVec 64) (s : State), mayWrite s port 18 = true →
    lendBad s i.val (lendOf value) = true →
    exec (.leaseLendWrite port i value) s =
      .next { s with mem := { s.mem with leaseErr := s.mem.leaseErr ||| BitVec.ofNat 32 (2 ^ i.val) } }) ∧
  (∀ (port : RlPort) (j : Fin 16) (value : BitVec 64) (s : State) (y : Borrow), mayWrite s port 18 = true → y = borrowOf value →
    (getBorrow s j.val).state = .idle → borrowBad s y = false → value.getLsbD 0 = true →
    exec (.leaseBorrowWrite port j value) s = .next (send (send
      (noteLease (takeFree s 2) j.val { y with state := .waiting, key := Config.randomKey s.free })
      (.mirrorWrite y.part (leaseRecord j.val) (sealBlob 1 (protectorCert s) (s.free + 1) (Config.randomKey s.free))))
      (.leaseRequest y.lender { borrower := s.sec.coord, bslot := j, lslot := y.lslot, ngran := y.ngran }))) ∧
  (∀ (m : LeaseMsg) (s : State) (x : Lend), unitsRun s = true → x = getLend s m.lslot.val → x.state = .offered →
    x.borrower = m.borrower → x.ngran = m.ngran → x.revoke = false →
    exec (.leaseRequest m) s = .next (send (setLend (zeroGrans s x.grans) m.lslot.val { x with
      state := .active, asked := none, bslot := m.bslot
      termEnd := if x.termS = 0 then none else some (s.now + x.termS.toNat * 1000000000) }) (.leaseAnswer m.borrower m.bslot true))) ∧
  (∀ (m : LeaseMsg) (s : State) (x : Lend), unitsRun s = true → x = getLend s m.lslot.val → x.state = .offered →
    (x.borrower ≠ m.borrower ∨ x.ngran ≠ m.ngran) →
    exec (.leaseRequest m) s = .next (report (send (setLend s m.lslot.val { x with asked := none })
      (.leaseAnswer m.borrower m.bslot false)) (devReport Code.eLeaseSetup deferred 19 m.lslot.val []))) ∧
  (∀ (j : Fin 16) (s : State), unitsRun s = true → (getBorrow s j.val).state = .waiting →
    exec (.leaseAnswer j true) s = .next ((windowPages j.val (getBorrow s j.val).ngran.toNat).foldl (fun t i => setPte t i
        { frame := BitVec.ofNat 19 ((i - 581632) % 8192), tier := 3, lease := j, part := (getBorrow s j.val).part
          owned := true, backed := true })
      (noteLease { s with uni := Memory.zero (Memory.zero s.uni (2 ^ 44 + j.val * 2 ^ 34) (2 ^ 34)) (2 ^ 45 + j.val * 2 ^ 31) (2 ^ 31) }
        j.val { getBorrow s j.val with state := .active, carried := false }))) ∧
  (∀ (j : Fin 16) (s : State), unitsRun s = true → (getBorrow s j.val).state = .waiting →
    exec (.leaseAnswer j false) s = .next (report s (devReport Code.eLeaseSetup deferred 19 j.val []))) ∧
  (∀ (port : RlPort) (i : Fin 16) (s : State), mayWrite s port 18 = true → (getLend s i.val).state = .active →
    exec (.leaseRevoke port true i) s = .next (send (setLend s i.val { getLend s i.val with state := .ending, revoke := true })
      (.leaseRevoke (getLend s i.val).borrower (getLend s i.val).bslot))) ∧
  (∀ (port : RlPort) (i : Fin 16) (s : State), mayWrite s port 18 = true →
    ((getLend s i.val).state = .offered ∨ (getLend s i.val).state = .ending) →
    exec (.leaseRevoke port true i) s = .next (setLend s i.val { getLend s i.val with revoke := true })) ∧
  (∀ (port : RlPort) (j : Fin 16) (s : State) (x : Borrow), unitsRun s = true → x = getBorrow s j.val → x.state = .active →
    exec (.leaseRevoke port false j) s = .next (report (noteLease s j.val { x with
      state := .revoking, graceEnd := s.now + x.graceMs.toNat * 1000000, left := false })
      (partReport Code.evLeaseRevoke deferred x.part 19 j.val []))) ∧
  (∀ (i : Fin 16) (s : State) (t : Nat), (getLend s i.val).termEnd = some t → unitsRun s = true → t ≤ s.now →
    (getLend s i.val).state = .active →
    exec (.leaseTermEnd i) s = .next (send (setLend s i.val { getLend s i.val with state := .ending })
      (.leaseRevoke (getLend s i.val).borrower (getLend s i.val).bslot))) ∧
  (∀ (j : Fin 16) (s : State), unitsRun s = true → (getBorrow s j.val).state = .revoking → (getBorrow s j.val).left = false →
    (getBorrow s j.val).graceEnd ≤ s.now →
    exec (.leaseGraceEnd j) s = .next (setBorrow (unbackLease s j.val) j.val { getBorrow s j.val with left := true })) ∧
  (∀ (i : Fin 16) (s : State) (x : Lend), unitsRun s = true → x = getLend s i.val → (x.state = .active ∨ x.state = .ending) →
    exec (.leaseRelease true i) s = .next (setLend (markLent (zeroGrans s x.grans) x.grans false) i.val
      { x with state := .idle, revoke := false, termEnd := none, asked := none, bslot := 0 })) ∧
  (∀ (j : Fin 16) (s : State), unitsRun s = true → (getBorrow s j.val).left = true → leaseBusy s j.val = false →
    exec (.leaseRelease false j) s = .next (send (borrowDrop s j.val)
      (.leaseRelease (getBorrow s j.val).lender (getBorrow s j.val).lslot))) ∧
  (∀ (s t : State) (j i : Nat), t = borrowDrop s j → j < 16 → 581632 + 8192 * j ≤ i → i < 581632 + 8192 * (j + 1) →
    (getBorrow t j).state = .idle ∧ (getBorrow t j).key = 0 ∧ (getPte t i).owned = false ∧ (getPte t i).backed = false ∧
    t.ls = s.ls ∧ t.seqs = s.seqs)

/-- Slices and switches of a partition's cores (R322-R329). -/
def Obligations.CoresSwitchContexts : Prop :=
  (∀ (p : PartI) (s u : State) (r : CtxI), (getPart s p).resident = some r → unitsRun s = true → (getPart s p).state = .active →
    (getPart s p).switching = none → (getPart s p).sliceEnd ≤ s.now → u = renewResidency s p →
    bestOf u p ((withWork u p).filter (· != r)) = none → exec (.sliceEnd p) s = .next u) ∧
  (∀ (p : PartI) (s u : State) (r c : CtxI), (getPart s p).resident = some r → unitsRun s = true → (getPart s p).state = .active →
    (getPart s p).switching = none → (getPart s p).sliceEnd ≤ s.now → u = renewResidency s p →
    bestOf u p ((withWork u p).filter (· != r)) = some c → ranksBefore u p c r = false → hasWork u ⟨p, r⟩ = true →
    exec (.sliceEnd p) s = .next u) ∧
  (∀ (p : PartI) (s u : State) (r c : CtxI), (getPart s p).resident = some r → unitsRun s = true → (getPart s p).state = .active →
    (getPart s p).switching = none → (getPart s p).sliceEnd ≤ s.now → u = renewResidency s p →
    bestOf u p ((withWork u p).filter (· != r)) = some c → (ranksBefore u p c r = true ∨ hasWork u ⟨p, r⟩ = false) →
    exec (.sliceEnd p) s =
      .next (beginSwitch u p (some c) ((getCtx u ⟨p, c⟩).high && !(getCtx u ⟨p, r⟩).high) true)) ∧
  (∀ (p : PartI) (s : State) (r n : CtxI), (getPart s p).resident = some r →
    bestOf s p ((withWork s p).filter (· != r)) = some n → unitsRun s = true → (getPart s p).state = .active →
    (getPart s p).switching = none → (coresOf (getPart s p)).all (fun k => coreIdles s (getSeq s ⟨p, r⟩ k)) = true →
    exec (.contextYield p) s =
      .next (beginSwitch (setCtx s ⟨p, r⟩ { getCtx s ⟨p, r⟩ with yielded := true }) p (some n) false false)) ∧
  (∀ (p : PartI) (s u v : State) (x : Switching) (r : CtxI) (late ends : Nat), (getPart s p).switching = some x →
    (getPart s p).resident = some r → unitsRun s = true → x.saved = false →
    (coresOf (getPart s p)).all (fun k => coreStopped (getSeq s ⟨p, r⟩ k)) = true →
    u = withdrawOpenings ((coresOf (getPart s p)).foldl (fun t k => saveCore t ⟨p, r⟩ k) s) ⟨p, r⟩ →
    late = (if x.atSliceEnd then s.now - x.stopAt else 0) → ends = s.now + (if x.high then 0 else Config.saveNs u.free) →
    v = endResidencyAt (setCtx (takeFree u 1) ⟨p, r⟩ { getCtx u ⟨p, r⟩ with
      overrun := (getCtx u ⟨p, r⟩).overrun + BitVec.ofNat 64 late, lastOverrun := late, savedOnce := true }) p ends →
    exec (.switchCoresStopped p) s = .next (setPart v p { getPart v p with
      switching := some { x with saved := true, savedAt := ends }
      highReturn := if x.high then x.incoming else (if (getPart s p).highReturn = some r then some r else none) })) ∧
  (∀ (p : PartI) (s : State) (x : Switching) (r : CtxI), (getPart s p).switching = some x → unitsRun s = true → x.saved = true →
    x.savedAt ≤ s.now → x.incoming = some r → (getCtx s ⟨p, r⟩).state = .ready →
    exec (.switchDone p) s = .next (makeResident s p x r)) ∧
  (∀ (p : PartI) (s : State) (x : Switching) (r : CtxI), (getPart s p).switching = some x → unitsRun s = true → x.saved = true →
    x.savedAt ≤ s.now → x.incoming = some r → (getCtx s ⟨p, r⟩).state = .ready →
    (restoreCores s ⟨p, r⟩ (coresOf (getPart s p))).2 = false →
    ∃ t, exec (.switchDone p) s = .next t ∧ t.ls = (restoreCores s ⟨p, r⟩ (coresOf (getPart s p))).1.ls) ∧
  (∀ (p : PartI) (s : State) (x : Switching), (getPart s p).switching = some x → unitsRun s = true → x.saved = true →
    x.savedAt ≤ s.now → (x.incoming = none ∨ ∃ r, x.incoming = some r ∧ (getCtx s ⟨p, r⟩).state ≠ .ready) →
    exec (.switchDone p) s = .next (onLose (setPart s p { getPart s p with switching := none }) p)) ∧
  (∀ (core : CoreI) (pos listPos : BitVec 32) (s : State) (c : CtxId) (t : Nat) (f : InFlight),
    coreCtx s core.val = some c → stopAsked s c core.val = some t →
    (getSeq s c core.val).inflight.find? (fun f => isEntry pos listPos f && f.heldAt.isNone) = some f → unitsRun s = true →
    fld f.entry.desc 24 2 = 1 → f.capped = false → t + 500000 ≤ s.now →
    exec (.wholeCap core pos listPos) s = .next (report (setSeq s c core.val { getSeq s c core.val with
      inflight := replaceFirst (fun g => g.entry == f.entry) (fun g => { g with capped := true }) (getSeq s c core.val).inflight })
      (cmdReport Code.ePclassCap corrected f.entry 0 core.val [])))

/-- Protection by a Standby: seeding, parity, mirrors, heartbeats, takeover and rebuild (R336, R337, R344-R357). -/
def Obligations.ProtectionActs : Prop :=
  (∀ (port : RlPort) (p : PartI) (value : BitVec 64) (agree : Bool) (cert : Bytes) (s w u : State) (bs : Bytes) (r : ResPart)
    (l : List ProtEntry),
    mayWrite s port (6 + p.val) = true → value.getLsbD 0 = true → r = getRes s p → r.en = false → r.state = .off →
    (s.res.mode = 1 ∨ s.res.mode = 2) → agree = true → (getPart s p).state = .active →
    readUni s p (value.extractLsb' 4 44).toNat 512 = .ok bs → bs.length = 512 → (value.extractLsb' 4 44).toNat % 64 = 0 →
    l = protTable bs → protTableOk s p (protWords bs) l = true →
    poolOk s p { r with en := true, ptab := value.extractLsb' 4 44 } l = true →
    w = (if s.res.role = 0 then takeCert s cert else zeroParity s p l) →
    u = sealKeys (setRes w p { r with
      en := true, ptab := value.extractLsb' 4 44, state := .seeding, table := l, seeded := false, dirty := [], old := []
      shadow := [] }) p →
    exec (.protectionEnable port p value agree cert) s =
      .next { u with res := { u.res with tstate := if u.res.tstate = 0 ∨ u.res.tstate = 5 then 1 else u.res.tstate } }) ∧
  (∀ (port : RlPort) (p : PartI) (value : BitVec 64) (cert : Bytes) (s : State), mayWrite s port (6 + p.val) = true →
    value.getLsbD 0 = true → (getRes s p).en = false → (getRes s p).state = .off → (s.res.mode = 1 ∨ s.res.mode = 2) →
    exec (.protectionEnable port p value false cert) s =
      .next (report (setRes s p { getRes s p with en := true, ptab := value.extractLsb' 4 44 })
        (partReport Code.eResCfg deferred p 19 0 []))) ∧
  (∀ (p : PartI) (s u : State), unitsRun s = true → (getRes s p).state = .seeding → (getRes s p).seeded = false →
    u = (if s.res.role = 0 then sendMirrors (seedParity s p) p else s) →
    exec (.seedingDone p) s = .next (setRes u p { getRes u p with seeded := true, dirty := [], old := [] })) ∧
  (∀ (src : Coord) (p : PartI) (piece : BitVec 32) (whole : Bool) (delta : Bytes) (s t : State) (l : List (Nat × Nat)),
    unitsRun s = true → protects s p = true → delta.length = parityPiece → (getRes s p).state = .seeding →
    places s p (pieceAddr piece.toNat) (xorBytes (pieceBytes s p piece.toNat) delta).length = .ok l →
    t = writePlaces s l (xorBytes (pieceBytes s p piece.toNat) delta) →
    exec (.parityDelta src p piece whole delta) s = .next t) ∧
  (∀ (src : Coord) (p : PartI) (piece : BitVec 32) (delta : Bytes) (s : State), unitsRun s = true →
    protects s p = true → delta.length = parityPiece → (getRes s p).state ≠ .seeding →
    (∀ h ∈ (getRes s p).shadow, h.piece ≠ piece.toNat) →
    exec (.parityDelta src p piece false delta) s = .next (keepBytes (setRes s p { getRes s p with
      shadow := (getRes s p).shadow ++ [{ piece := piece.toNat, frame := freeFrame (getRes s p), whole := false }] }) p
      (shadowAddr s p (freeFrame (getRes s p))) (xorBytes (pieceBytes s p piece.toNat) delta))) ∧
  (∀ (src : Coord) (p : PartI) (piece : BitVec 32) (delta : Bytes) (s : State) (h : Shadow), unitsRun s = true →
    protects s p = true → delta.length = parityPiece → (getRes s p).state ≠ .seeding →
    (getRes s p).shadow.find? (fun h => h.piece == piece.toNat) = some h → h.whole = false →
    ∃ t, exec (.parityDelta src p piece false delta) s = .next t ∧
      t = keepBytes (setRes s p { getRes s p with
        shadow := (getRes s p).shadow.filter (fun h => h.piece != piece.toNat) ++ [h] }) p
        (shadowAddr s p h.frame) (xorBytes (shadowBytes s p h) delta)) ∧
  (∀ (src : Coord) (p : PartI) (piece : BitVec 32) (s : State), unitsRun s = true → s.res.role = 0 →
    (getRes s p).state = .prot → exec (.parityDelta src p piece true []) s = .next (resyncPiece s p piece.toNat)) ∧
  (∀ (src : Coord) (p : PartI) (addr : BitVec 64) (data : Bytes) (s : State) (m : Mirror) (live : Memory), unitsRun s = true →
    (protects s p = true ∨ addr.toNat / 2 ^ 60 = 12) → m = getMirror s src p → live = Memory.write m.live addr.toNat data →
    exec (.mirrorWrite src p addr data) s = .next { s with res := { s.res with mirrors :=
      (Tbl.set {} s.res.mirrors (mirrorKey src p)
        { m with live := live, pend := if addr.toNat / 2 ^ 60 = 3 then live else m.pend }) } }) ∧
  (∀ s : State, linksRun s = true →
    exec .heartbeatSend s = .next ((trayPeers s ++ (if s.res.mode = 2 ∧ s.res.role = 0 then [s.res.protector] else [])).foldl
      (fun t d => sendBeat (sendBeat t d 0) d 1) s)) ∧
  (∀ (who : Coord) (reserve : Option Coord) (s u : State), unitsRun s = true → who ≠ s.sec.coord →
    u = lenderFailed (if inTray s who
      then { s with res := { s.res with heard := s.res.heard &&& ~~~(BitVec.ofNat 5 (2 ^ cSlot who)) } } else s) who →
    (mayTake s who = true →
      exec (.heartbeatLoss who reserve) s = .next (takeOver u who) ∧ exec (.down who) s = .next (takeOver u who)) ∧
    (s.res.role = 0 → s.res.mode ≠ 0 → who = protectorOf s →
      exec (.heartbeatLoss who reserve) s = .next (exposeTray u reserve) ∧ exec (.down who) s = .next (exposeTray u none)) ∧
    (mayTake s who = false → (s.res.role ≠ 0 ∨ s.res.mode = 0 ∨ who ≠ protectorOf s) →
      exec (.heartbeatLoss who reserve) s = .next u ∧ exec (.down who) s = .next u)) ∧
  (∀ (who : Coord) (reserve : Option Coord) (s : State), unitsRun s = true → who ≠ s.sec.coord → mayTake s who = true →
    ∃ t, exec (.heartbeatLoss who reserve) s = .next t ∧ t.fab.acting = some who ∧
      Tbl.get 0 t.fab.inc who.toNat = Tbl.get 0 s.fab.inc who.toNat + 1 ∧ (t.res.tstate = 4 ∨ t.res.tstate = 5)) ∧
  (∀ (who : Coord) (s : State), unitsRun s = true → who ≠ s.sec.coord → mayTake s who = true →
    ∃ t, exec (.down who) s = .next t ∧ t.fab.acting = some who ∧
      Tbl.get 0 t.fab.inc who.toNat = Tbl.get 0 s.fab.inc who.toNat + 1 ∧ (t.res.tstate = 4 ∨ t.res.tstate = 5)) ∧
  (∀ (failed : Coord) (inc : BitVec 8) (holder : Coord) (s t u v : State), linksRun s = true → failed ≠ s.sec.coord →
    t = ((upto 36).filter (fun p => (wiredPeer s.sec.coord p).any (fun q => q.1 == failed.toNat))).foldl
      (fun t p => setFp t p { getFp t p with en := false, state := .disabled }) s →
    u = (if incNewer inc (Tbl.get 0 t.fab.inc failed.toNat)
      then { t with fab := { t.fab with inc := Tbl.set 0 t.fab.inc failed.toNat inc } } else t) →
    v = (if holder.toNat = failed.toNat / 8 * 8 + 4 then u else writeOverride u failed holder) →
    exec (.takeover failed inc holder) s = .next (serveNew (lenderFailed (surviveTray v failed) failed) failed)) ∧
  (∀ (survivors : Bytes) (pieces wanted : List Nat) (s w t u : State) (k : Nat) (p : PartI), s.res.role ≠ 0 →
    wanted = pieces.filter (fun k => s.res.unrebuilt.contains k && !s.res.demand.contains k) →
    w = { s with res := { s.res with demand := s.res.demand ++ wanted } } →
    (w.res.demand ++ w.res.unrebuilt).head? = some k →
    unitsRun s = true → survivors.length = parityPiece → p = Fin.ofNat 8 (k / 2 ^ 26) →
    writeHome w p (pieceAddr (k % 2 ^ 26)) (xorBytes (pieceBytes w p (k % 2 ^ 26)) survivors) = .ok t →
    u = { t with res := { t.res with
      unrebuilt := t.res.unrebuilt.filter (· != k), demand := t.res.demand.filter (· != k) } } →
    exec (.rebuildPiece survivors pieces) s = .next (if u.res.unrebuilt = []
      then report { u with res := { u.res with tstate := 5 } } (devReport Code.evRebuilt corrected 19 0 []) else u)) ∧
  (∀ (survivors : Bytes) (pieces : List Nat) (s : State), s.res.role = 0 → unitsRun s = true →
    exec (.rebuildPiece survivors pieces) s = .next (releasePieces s pieces))

/-- The Meter's frames, windows and supplies (R363-R373, R456). -/
def Obligations.MeterFramesAndSupplies : Prop :=
  (∀ (die : Fin 6) (elapsed energy : BitVec 32) (counts : List QuadCount) (s : State), s.gl.inReset = false →
    exec (.frameSend die elapsed energy counts) s = .next { s with
      frameSeq := Tbl.set 0 s.frameSeq die.val (Tbl.get 0 s.frameSeq die.val + 1)
      out := s.out ++ [.meterFrame die (counterFrame s die elapsed energy counts)] }) ∧
  (∀ (lane : Fin 6) (f : Bytes) (s t : State) (l : MLane) (n : Nat), s.md.powered = true → l = Tbl.get {} s.md.lanes lane.val →
    frameIntact lane.val f = true → frameSource lane.val f = true →
    seqMissing l (frameFld f 11 1 == 1) (BitVec.ofNat 32 (frameFld f 16 32)) = some n →
    (lane.val < 4 → cyclesOk f = true ∧ partMapOk s.md lane.val f = true) →
    t = { s with md := { s.md with
      acc := { s.md.acc with missing := s.md.acc.missing + n }
      lanes := Tbl.set {} (Tbl.set {} s.md.lanes lane.val { l with seen := true }) lane.val
        { l with seen := true, prev := some (BitVec.ofNat 32 (frameFld f 16 32)) } } } →
    exec (.meterFrame lane f) s = .next (acceptFrame t lane f)) ∧
  (∀ (lane : Fin 6) (f : Bytes) (s : State), s.md.powered = true →
    (frameIntact lane.val f = false ∨ frameSource lane.val f = false) →
    exec (.meterFrame lane f) s = .next { s with md := { s.md with
      lanes := Tbl.set {} s.md.lanes lane.val { Tbl.get {} s.md.lanes lane.val with seen := true }
      acc := { s.md.acc with missing := s.md.acc.missing + 1, check := s.md.acc.check ||| 1#7 }
      winBits := s.md.winBits ||| 1#7 } }) ∧
  (∀ (counts : List Nat) (storeBad : Option (BitVec 32)) (s0 s u : State) (bits : BitVec 7), s0.md.powered = true →
    s = (match storeBad with | some o => meterEvent s0 7 o.toNat | none => s0) →
    u = (upto 6).foldl silentLane (((upto 6).filter (fun k => (Tbl.get {} s.md.lanes k).seen
      && !clockOk s.md.frames k (counts.getD k 25000000))).foldl dropLane s) →
    bits = u.md.winBits ||| windowChecks u.md →
    exec (.meterWindow counts storeBad) s0 = .next (
      let t : State := { u with md := { u.md with
        acc := { openRecord u.md with
          eBoard := (openRecord u.md).eBoard + (boardEnergy u.md).getD 0
          eunver := (openRecord u.md).eunver || (boardEnergy u.md).isNone }
        frames := []
        lanes := (upto 6).foldl (fun t k => Tbl.modify {} t k (fun l => { l with seen := false })) u.md.lanes
        winBits := 0, winRep := false, winVoid := false, winBase := u.md.rep.map (·.2) } }
      if bits = 0 then t else checkFailed t bits)) ∧
  (∀ s : State, s.md.powered = true → boundaryDue s = true →
    exec .intervalClose s = .next (closeRecord s 0 s.md.acc.check noDetail)) ∧
  (∀ s : State, s.md.powered = true → s.md.sealOpen = false →
    exec (.sealSense true) s = .next (meterEvent { s with md := { s.md with sealOpen := true, openings := s.md.openings + 1 } } 1
      (s.md.openings + 1))) ∧
  (∀ s : State, s.md.powered = false → s.md.sealOpen = false →
    exec (.sealSense true) s = .next { s with md := { s.md with
      sealOpen := true, openings := s.md.openings + 1, heldOpen := s.md.heldOpen + 1 } }) ∧
  (∀ s : State, s.md.powered = true →
    exec .mtrVddLoss s = .next { s with md := { s.md with
      powered := false, acc := openRecord s.md, frames := []
      lanes := (upto 6).foldl (fun t k => Tbl.modify {} t k (fun l => { l with seen := false })) s.md.lanes
      ftlock := false, winBits := 0, rep := none
      winBase := none, winRep := false, winVoid := false } }) ∧
  (∀ (s t u : State), s.md.powered = false →
    t = heldOpenings s.md.heldOpen { s with md := { s.md with powered := true, heldOpen := 0, heldLoss := false } } →
    u = (if s.md.heldLoss then meterEvent t 2 0 else t) →
    exec .mtrPowerUp s = .next (closeRecord u 4 u.md.acc.check (leBytes 1 1 ++ List.replicate 15 0))) ∧
  (∀ (s t : State), s.md.powered = false → t = setCalendar s 0 →
    exec .backupSupplyLow s = .next { t with md := { t.md with
      heldLoss := true, timeInvalid := true, epochOk := false, leapDay := none, boundFrom := 0 } })

/-- The Meter's calendar (R374-R376). -/
def Obligations.CalendarCommandsAct : Prop :=
  (∀ (off : Bool) (s u : State) (ep : Nat) (diff : Int), s.md.powered = true → s.md.ftlock = true → s.md.epochOk = true →
    s.md.epoch = some ep → diff = (ep : Int) + (((fabricTime s).toNat / 1000 : Nat) : Int) - utcNow s → u = foldCalendar s →
    (off = false → -secUs < diff → diff < secUs →
      exec (.calendarDiscipline off) s =
        .next { u with md := { u.md with slew := diff, slewAt := s.now, freeRun := false } }) ∧
    (off = true ∨ secUs ≤ diff ∨ diff ≤ -secUs →
      exec (.calendarDiscipline off) s = .next (checkFailed { u with md := { u.md with freeRun := true } } 4))) ∧
  (∀ (payload d : Bytes) (s u : State), s.md.powered = true → busWrite 0x11 8 payload = some d →
    u = setCalendar s (leNat d : Int) →
    exec (.settime payload) s = .next (meterEvent { u with md := { u.md with
        timeInvalid := false, boundFrom := (leNat d : Int)
        leapDay := if (match leapAt s.md with | some a => decide ((leNat d : Int) < a) | none => false) then u.md.leapDay
          else none } } 3
      ((((leNat d : Int) - utcNow s).tdiv secUs).emod (2 ^ 32)).toNat)) ∧
  (∀ (payload d : Bytes) (s : State), s.md.powered = true → busWrite 0x12 8 payload = some d →
    exec (.setepoch payload) s = .next (
      let t : State := { s with md := { s.md with epoch := some (leNat d), epochOk := true } }
      if s.md.epoch = some (leNat d) then t else meterEvent t 4 0)) ∧
  (∀ (payload d : Bytes) (s : State), s.md.powered = true → busWrite 0x13 2 payload = some d →
    exec (.setrecint payload) s = .next (if leNat d ∈ [60, 300, 900, 3600] ∧ leNat d ≠ s.md.recInt
      then meterEvent { s with md := { s.md with recInt := leNat d, boundFrom := utcNow s } } 5 (leNat d) else s)) ∧
  (∀ (payload d : Bytes) (s u : State), s.md.powered = true → busWrite 0x14 4 payload = some d → u = foldCalendar s →
    exec (.leap payload) s = .next (meterEvent { u with md := { u.md with
      leapDay := if ((leNat d : Int) + 1) * dayUs ≤ calRaw u then u.md.leapDay else some (leNat d) } } 6 (leNat d))) ∧
  (∀ (payload : Bytes) (s : State), busWrite 0x11 8 payload = none → exec (.settime payload) s = .next s)

/-- The Meter's bus and its mirror (R372, R374, R381, R382). -/
def Obligations.MeterBusAnswers : Prop :=
  (∀ s : State, s.md.powered = true →
    exec (.status []) s = .next (busReply s 0x00 (leBytes 8 s.md.newest.toNat ++ leBytes 4 s.md.evcnt.toNat ++
      leBytes 1 (meterFlags s (openRecord s.md)) ++ leBytes 1 (b2n (alertPending s.md)) ++ leBytes 2 1))) ∧
  (∀ (payload d : Bytes) (s : State), s.md.powered = true → busWrite 0x01 8 payload = some d →
    exec (.record payload) s = .next (busReply { s with md := { s.md with
        alerts := s.md.alerts.filter (· != BitVec.ofNat 64 (leNat d)) } } 0x01
      ((heldRecord s.md (BitVec.ofNat 64 (leNat d))).getD (List.replicate 512 0xFF)))) ∧
  (∀ (payload d : Bytes) (s : State), s.md.powered = true → busWrite 0x02 8 payload = some d →
    exec (.ack payload) s = .next (closeLong { s with md := { s.md with
      recs := s.md.recs.filter (fun r => decide (leNat d < r.1.toNat))
      alerts := s.md.alerts.filter (fun r => decide (leNat d < r.toNat)) } })) ∧
  (∀ s : State, s.md.powered = true → exec (.pubkey []) s = .next (busReply s 0x03 meterPub)) ∧
  (∀ s : State, s.md.powered = true →
    exec (.cert []) s = .next (busReply s 0x04 (leBytes 2 Config.meterCert.length ++ Config.meterCert))) ∧
  (∀ (payload d : Bytes) (s : State) (n : BitVec 32) (c : BitVec 64), s.md.powered = true → busWrite 0x10 12 payload = some d →
    n = BitVec.ofNat 32 (leNat (d.take 4)) → c = BitVec.ofNat 64 (leNat (d.drop 4)) →
    (∀ k e, s.md.rep = some (k, e) → n = k + 1) →
    exec (.energy payload) s = .next { s with md := { s.md with rep := some (n, c), winRep := true } }) ∧
  (∀ (payload d : Bytes) (s : State) (n k : BitVec 32) (c e : BitVec 64), s.md.powered = true →
    busWrite 0x10 12 payload = some d → n = BitVec.ofNat 32 (leNat (d.take 4)) → c = BitVec.ofNat 64 (leNat (d.drop 4)) →
    s.md.rep = some (k, e) → n ≠ k + 1 →
    exec (.energy payload) s = .next (checkFailed { s with md := { s.md with
      rep := some (n, c), winRep := true, winVoid := true, acc := { s.md.acc with eunver := true } } } 64)) ∧
  (∀ (r : Bytes) (s t : State), s.gl.inReset = false → r.length = 512 →
    t = { s with mtr := { s.mtr with recs := (r :: s.mtr.recs).take 64 } } →
    exec (.mirrorRecord r) s = .next (
      if cutNat r 6 1 = 2 then mirrorReport t Code.evMtrCheck
      else if cutNat r 6 1 = 3 then mirrorReport t Code.evMtrEvent else t))

/-- The power limits and the brake (R401-R403). -/
def Obligations.PowerLimitsAct : Prop :=
  (∀ (p : BitVec 16) (over_ : Bool) (s : State) (w : Pwr), s.gl.inReset = false → w = weirSample s.pwr p.toNat →
    exec (.weirSample p over_) s = .next (if (2950 < p.toNat ∨ over_ = true) ∧ s.pwr.brakeInt = false
      then engageBrake s { w with brakeInt := true } else { s with pwr := w })) ∧
  (∀ (s : State) (r : BitVec 7 × BitVec 2 × Bool), s.gl.inReset = false → s.pwr.samples ≠ [] → r = weirStep s.pwr →
    exec .weirUpdate s = .next { s with pwr := { s.pwr with
      fc := r.1, duty := r.2.1, weirCnt := if r.2.2 then satAdd s.pwr.weirCnt 1 else s.pwr.weirCnt
      belowSince := if weirP10 s.pwr < weirLimit s.pwr then some (s.pwr.belowSince.getD s.now) else none } }) ∧
  (∀ s : State, s.gl.inReset = false → s.pwr.brakePin = false →
    exec .pwrBrakeN s = .next (report { s with pwr := { s.pwr with
      brakePin := true, fc := 32, duty := 2, brakeCnt := satAdd s.pwr.brakeCnt 1, belowSince := none } }
      (pwrReport Code.ePwrBrake corrected 0 []))) ∧
  (∀ s : State, exec .pwrBrakeNRise s = .next { s with pwr := { s.pwr with brakePin := false } }) ∧
  (∀ (s : State) (t : Nat), s.pwr.belowSince = some t → s.pwr.brakeInt = true → t + 100000 ≤ s.now →
    exec .brakeRelease s = .next { s with pwr := { s.pwr with brakeInt := false } })

/-- Quad voltage and frequency, thermal limits, refresh (R404-R410). -/
def Obligations.QuadAndThermalLoopsAct : Prop :=
  (∀ (q : QuadI) (k : Fin 4) (s : State), s.gl.inReset = false →
    exec (.droopTrip q k) s = .next (setQuad s q.val { getQuad s q.val with
      trips := (getQuad s q.val).trips + 1, droopCnt := satAdd (getQuad s q.val).droopCnt 1 })) ∧
  (∀ (q : QuadI) (s t : State), s.gl.inReset = false →
    t = quadChange s q.val (droopNext (getQuad s q.val) (pinOf s q.val).isSome) →
    exec (.droopWindow q) s = .next (if 16 < (getQuad s q.val).trips ∧ (getQuad s q.val).droopOff = 50
      then report t (pwrReport Code.ePwrDroop corrected q.val []) else t)) ∧
  (∀ (q : QuadI) (slow : List Nat) (s : State), s.gl.inReset = false →
    exec (.agingMeasure q slow) s = .next (quadChange s q.val { getQuad s q.val with
      age := if (getQuad s q.val).aged then max (getQuad s q.val).age (ageOf slow) else ageOf slow, aged := true })) ∧
  (∀ (k : Sensor) (temp : BitVec 16) (s t u : State) (y : Sens), s.gl.inReset = false → y = sensAt (getSens s k.val) k.val temp →
    t = setSens s k.val y →
    u = (if y.alert = true ∧ (getSens s k.val).alert = false then report t (pwrReport Code.ePwrThermal deferred k.val []) else t) →
    exec (.thermalThreshold k temp) s = .next (if 16 * (thresholds k.val).2.2 ≤ temp.toInt ∧ s.pwr.trip = false
      then report { u with pwr := { u.pwr with trip := true } } (pwrReport Code.ePwrThermtrip deviceFatal k.val []) else u)) ∧
  (∀ (q : QuadI) (s : State), s.gl.inReset = false →
    exec (.thermalCeilingStep q) s =
      .next (setQuad s q.val { getQuad s q.val with tc := tcNext (getQuad s q.val).tc (getSens s q.val) })) ∧
  (∀ (temps : List (BitVec 16)) (mr4 : List (BitVec 8)) (s t : State), linksRun s = true →
    t = (temps.take 12).zipIdx.foldl refreshStack s →
    exec (.refreshUpdate temps mr4) s =
      .next { t with pwr := { t.pwr with mr4 := (mr4.take 8).zipIdx.foldl (fun l r => Tbl.set 0 l r.2 r.1) t.pwr.mr4 } }) ∧
  (∀ (port : RlPort) (p : PartI) (value : BitVec 32) (s : State), mayWrite s port (6 + p.val) = true → value.getLsbD 7 = false →
    32 ≤ bitsOf value.toNat 0 7 → bitsOf value.toNat 0 7 ≤ 64 →
    exec (.pwrPinWrite port p value) s = .next (setPart (takeFree s 1) p { getPart s p with
      pinStep := BitVec.ofNat 7 (bitsOf value.toNat 0 7), pinEn := false })) ∧
  (∀ (port : RlPort) (p : PartI) (value : BitVec 32) (s t : State), mayWrite s port (6 + p.val) = true → value.getLsbD 7 = true →
    32 ≤ bitsOf value.toNat 0 7 → bitsOf value.toNat 0 7 ≤ 64 →
    t = setPart (takeFree s 1) p { getPart s p with pinStep := BitVec.ofNat 7 (bitsOf value.toNat 0 7), pinEn := true } →
    exec (.pwrPinWrite port p value) s = .next (((upto 32).filter (fun q => quadPart t q == some p)).foldl
      (fun u q => quadChange u q { getQuad u q with droopOff := 50 }) t))

/-- Self-test and rails (R413, R414, R450, R451). -/
def Obligations.SelfTestsAndRailsAct : Prop :=
  (∀ (q : QuadI) (s : State) (x : QuadPwr), unitsRun s = true → sliceMayStart s q.val = true → x = getQuad s q.val →
    exec (.selftestSliceDue q) s = .next (setQuad s q.val (
      if (quadSeqs s q.val).all (fun k => coreStopped (getSeq s k.1 k.2)) then { x with
        slice := true, stopReq := none, stPend := true
        stStart := if x.stPend ∧ x.stDone ≠ 0 then x.stStart else some s.now }
      else { x with stopReq := some (x.stopReq.getD s.now) }))) ∧
  (∀ (q : QuadI) (pass again : Bool) (s t : State), unitsRun s = true → (getQuad s q.val).slice = true →
    t = resumeQuad (setQuad s q.val (sliceDone (getQuad s q.val) s.now)) q.val →
    exec (.selftestSliceEnd q pass again) s = .next (
      if pass then t
      else if again then report { t with pwr := { t.pwr with stFail := t.pwr.stFail ||| BitVec.ofNat 32 (2 ^ q.val) } }
        (pwrReport Code.ePwrSelftest corrected q.val [])
      else report t (pwrReport Code.ePwrSelftest deviceFatal q.val []))) ∧
  (∀ (port : RlPort) (value : BitVec 32) (s : State), mayWrite s port 1 = true →
    exec (.pwrStCmd port value) s = .next (((upto 32).filter (fun q => bitAt value.toNat q)).foldl
      (fun t q => setQuad t q { getQuad t q with stPend := true, stForced := true, stDone := 0 }) s)) ∧
  (∀ (c : Calib) (s : State), exec (.calibration c) s = .next s) ∧
  (∀ (l : List PmReading) (s : State), firmwareRuns s = true →
    exec (.pmbusPoll l) s = .next (l.foldl pmReport s) ∧ exec (.pmAlertN l) s = .next (l.foldl pmReport s)) ∧
  (∀ (rail : Fin 33) (dev : BitVec 32) (s : State), s.gl.inReset = false →
    exec (.railMargin rail dev) s =
      .next (report s (pwrReport Code.ePwrMargin deferred rail.val [BitVec.ofNat 32 rail.val, dev]))) ∧
  (∀ (rail : Fin 33) (dev : BitVec 32) (s : State), s.gl.inReset = false → s.gl.stopped = false →
    exec (.railExcursion rail dev) s = .next (report { s with pwr := { s.pwr with trip := true } }
      (pwrReport Code.ePwrRail deviceFatal rail.val [BitVec.ofNat 32 rail.val])))

/-- Reports, rings and the risk estimate (R417-R428). -/
def Obligations.ErrorsAreCollected : Prop :=
  (∀ (r : Report) (s : State), collects s = true → exec (.errorReport r) s = .next (report s r)) ∧
  (∀ (port : RlPort) (i : Nat) (s : State) (c : Coal), (getRing s port).coal[i]? = some c → collects s = true → c.endsAt ≤ s.now →
    exec (.coalesceExpiry port i) s = .next (coalClose s port c)) ∧
  (∀ (port : RlPort) (s : State), collects s = true → (getRing s port).enabled = true → rlUp s port = true →
    ringPosOk (getRing s port) (ringHeadLine s port) = true →
    exec (.errRingHead port) s = .next (ringDrain (getRing s port).hold.length
      (setRing s port { getRing s port with head := ringHeadLine s port }) port)) ∧
  (∀ (port : RlPort) (s : State), collects s = true → (getRing s port).enabled = true → rlUp s port = true →
    ringPosOk (getRing s port) (ringHeadLine s port) = false →
    exec (.errRingHead port) s = .next (report (setRing s port { getRing s port with enabled := false, bad := true })
      { portReport Code.eErrRing (otherPort port) [] with srcInst := BitVec.ofNat 9 port.val })) ∧
  (∀ (port ring : RlPort) (value : BitVec 32) (s : State), mayWrite s port 4 = true → value.getLsbD 5 = false →
    exec (.errRingCfg port ring value) s = .next (setRing s ring { getRing s ring with
      log2 := value.extractLsb' 0 5, en := false, enabled := false })) ∧
  (∀ (port ring : RlPort) (value : BitVec 32) (s : State) (g : ErrRing) (h : BitVec 32), mayWrite s port 4 = true →
    value.getLsbD 5 = true → g = { getRing s ring with log2 := value.extractLsb' 0 5, en := true } → ringSetOk g = true →
    h = ringHeadLine (setRing s ring g) ring →
    exec (.errRingCfg port ring value) s = .next (ringDrain g.hold.length
      (writeComp (setRing s ring { g with enabled := true, bad := false, head := h, tail := h, seq := 0 }) ring
        (g.line.toNat + 64) (leBytes 4 h.toNat)) ring)) ∧
  (∀ (s : State) (n : Nat) (rise : Bool), unitsRun s = true → n = min (2 ^ 32 - 1) (s.err.risk.toNat * 7 / 8 + s.err.minute) →
    rise = (s.err.riskArmed && decide (0 < s.err.riskTh.toNat) && decide (s.err.riskTh.toNat ≤ n)) →
    exec .riskUpdate s = .next (
      let t : State := { s with err := { s.err with
        risk := BitVec.ofNat 32 n, minute := 0
        riskArmed := !rise && (s.err.riskArmed || decide (2 * n < s.err.riskTh.toNat)) } }
      if rise then report t (devReport Code.evRisk deferred 19 0 []) else t))

/-- The queue is served first in, first out: a step gives the front command its effect on the state with the queue's rest. With
nothing waiting the device acts of itself: a delivered packet acts as the command it spells, and with nothing of its own to do
one nanosecond passes (the model's choice: assumption 1). -/
def Obligations.StepRunsTheFrontCommand : Prop :=
  (∀ (c : Instr) (rest : List Instr) (s : State), s.pending = c :: rest → step s = exec c { s with pending := rest }) ∧
  (∀ s : State, s.pending = [] → nextOwn s = none → ∃ t, step s = .next t ∧ t = tick s ∧ t.now = s.now + 1 ∧ t.pending = []) ∧
  (∀ (s t : State) (c : Option Instr) (ks : List Packet), s.pending = [] → s.fab.raised = [] →
    s.fab.delivered.findSome? (packetUse s) = some (c, ks) → t = takeUp s ks →
    t = { s with fab := { s.fab with delivered := t.fab.delivered } } ∧
    step s = match c with
      | some i => exec i t
      | none => .next t)

/-- A command changes everything but the queue and the clock: what waits behind it stands, and time passes only in idle steps
(the model's clock: assumption 1). -/
def Obligations.CommandsLeaveQueueAndClock : Prop :=
  ∀ (i : Instr) (s t : State), exec i s = .next t → t.pending = s.pending ∧ t.now = s.now

/-- The reset values that the spec gives (R291, R401, R421-R424, Tables 4.4, 14.6, 18.10, 20.4). -/
def Obligations.ResetGivesTheSpecsValues : Prop :=
  State.reset.pending = [] ∧ State.reset.sec.stage = 0 ∧ State.reset.gl.semLease = 100 ∧ State.reset.pwr.cap = 2400 ∧
  (∀ n : Fin 32, (getSem State.reset n.val).held = false ∧ (getSem State.reset n.val).expired = false) ∧
  (∀ p : PartI, (getPart State.reset p).state = .absent) ∧ (∀ k : Fin 128, (getKey State.reset k).valid = false) ∧
  (∀ p : RlPort, (getRing State.reset p).enabled = false) ∧ State.reset.gl.guardErr0 = 0 ∧ State.reset.gl.guardErr1 = 0 ∧
  State.reset.sec.ecode = 0 ∧ State.reset.ls = [] ∧ State.reset.uni = []

/-- Reset leaves every memory in canonical form. -/
def Obligations.ResetMemoriesAreCanonical : Prop := State.reset.memWf = true

/-- Every step keeps the three memories in canonical form: addresses rise strictly, no listed byte is what an unlisted one
reads as. -/
def Obligations.StepKeepsMemoriesCanonical : Prop :=
  ∀ s t : State, s.memWf = true → step s = .next t → t.memWf = true

/-- Every command answers a next state in every state: what goes wrong is reported (R420-R426), and stops nothing here. -/
def Obligations.EveryCommandAnswers : Prop := ∀ (i : Instr) (s : State), ∃ t, exec i s = .next t

/-- A write of GL_SEM_n frees the semaphore only with RELEASE 1, from the holder, with the current TICKET (R290). -/
def Obligations.ReleaseNeedsHolderAndTicket : Prop :=
  (∀ (port : RlPort) (n : Fin 32) (value : BitVec 64) (s : State), semAnswers s port n.val = true →
    ((getSem s n.val).held = false ∨ s.now < (getSem s n.val).leaseEnd) →
    exec (.semRelease port n value) s = .next (
      if value.getLsbD 0 = true ∧ holdsSem s port n.val = true ∧ value.extractLsb' 16 16 = (getSem s n.val).ticket then
        setSem s n.val { getSem s n.val with held := false }
      else s)) ∧
  (∀ (port : RlPort) (n : Fin 32) (value : BitVec 64) (s : State), semAnswers s port n.val = true →
    (getSem s n.val).held = true → (getSem s n.val).leaseEnd ≤ s.now →
    exec (.semRelease port n value) s = exec (.semLeaseExpiry n) s) ∧
  (∀ (port : RlPort) (n : Fin 32) (value : BitVec 64) (s : State), semAnswers s port n.val = false →
    exec (.semRelease port n value) s = .next s)

/-- The length of leases and their end (R291); which of two ports that ask in one cycle takes a free semaphore is assumption 14. -/
def Obligations.LeasesLastAndRunOut : Prop :=
  State.reset.gl.semLease = 100 ∧
  (∀ (port : RlPort) (value : BitVec 64) (s u : State), mayWrite s port 0 = true → u = noteTie s port 0x200 →
    ∃ t, exec (.registerWrite port 0x200 false value) s = .next t ∧
      t = { u with gl := { u.gl with semLease := BitVec.ofNat 14 (max 1 (min 10000 (value.toNat % 2 ^ 14))) } } ∧
      u = { s with gl := { s.gl with lastTie := u.gl.lastTie } } ∧
      ∀ who, (readReg t who .glSemLease).toNat = max 1 (min 10000 (value.toNat % 2 ^ 14))) ∧
  (∀ (port : RlPort) (n : Fin 32) (s : State), semAnswers s port n.val = true →
    ((getSem s n.val).held = false ∨ (getSem s n.val).owner = port ∧ s.now < (getSem s n.val).leaseEnd) →
    ∃ t, exec (.semTake port n) s = .next t ∧ (getSem t n.val).held = true ∧
      (getSem t n.val).owner = (if (getSem s n.val).held then port else (semRival s port n.val).getD port) ∧
      (getSem t n.val).leaseEnd = s.now + s.gl.semLease.toNat * 1000000 ∧
      ((getSem s n.val).held = false → (getSem t n.val).expired = false)) ∧
  (∀ (n : Fin 32) (s : State), (getSem s n.val).held = true → (getSem s n.val).leaseEnd ≤ s.now → s.sec.stage = 7 →
    ∃ u, exec (.semLeaseExpiry n) s = .next (report u (portReport Code.eSemExpired (getSem s n.val).owner [])) ∧
      u = { s with gl := { s.gl with
        sems := Tbl.set {} s.gl.sems n.val { getSem s n.val with held := false, expired := true }
        semExpired := s.gl.semExpired ||| BitVec.ofNat 32 (2 ^ n.val) } } ∧
      (∀ m, getSem u m = if m = n.val then { getSem s n.val with held := false, expired := true } else getSem s m) ∧
      u.gl.semExpired.getLsbD n.val = true ∧
      (portReport Code.eSemExpired (getSem s n.val).owner []).cls = deferred ∧
      reportRings u (portReport Code.eSemExpired (getSem s n.val).owner []) = [(getSem s n.val).owner] ∧
      ∀ who r, r.code = .rw → readReg u who r = readReg s who r)

/-- The two buckets, their holds and L at every sample, and CAP_W (R401). -/
def Obligations.WeirBucketsAndLevel : Prop :=
  (∀ (p : BitVec 16) (railOver : Bool) (s : State), s.gl.inReset = false →
    ∃ t, exec (.weirSample p railOver) s = .next t ∧
      (t.pwr.b1 : Int) = max 0 (min 3000000 ((s.pwr.b1 : Int) + p.toNat - 2650)) ∧
      (t.pwr.b2 : Int) = max 0 (min 500000000 ((s.pwr.b2 : Int) + p.toNat - 2400)) ∧
      t.pwr.h1 = (if 2625000 ≤ t.pwr.b1 then true else if t.pwr.b1 < 1500000 then false else s.pwr.h1) ∧
      t.pwr.h2 = (if 437500000 ≤ t.pwr.b2 then true else if t.pwr.b2 < 250000000 then false else s.pwr.h2) ∧
      weirLimit t.pwr = min (if t.pwr.h2 = true then 2400 else if t.pwr.h1 = true then 2650 else 2950) t.pwr.cap.toNat ∧
      t.pwr.cap = s.pwr.cap) ∧
  State.reset.pwr.cap = 2400 ∧
  (∀ (port : RlPort) (value : BitVec 64) (s u : State), mayWrite s port 1 = true → u = noteTie s port 0x3300018 →
    ∃ t, exec (.registerWrite port 0x3300018 false value) s = .next t ∧
      t = { u with pwr := { u.pwr with cap := BitVec.ofNat 12 (max 1200 (min 2400 (value.toNat % 2 ^ 12))) } } ∧
      u = { s with gl := { s.gl with lastTie := u.gl.lastTie } } ∧
      ∀ who, (readReg t who .pwrCap).toNat = max 1200 (min 2400 (value.toNat % 2 ^ 12)))

/-- A write to a guarded register from a port that does not hold its semaphore has no effect but the count and the report;
semaphores 20 to 31 guard nothing (R292). -/
def Obligations.GuardedWritesNeedTheirSemaphore : Prop :=
  (∀ (port : RlPort) (offset : BitVec 26) (wide : Bool) (value : BitVec 64) (s u : State) (r : Reg) (upper : Bool) (n : Nat),
    windowOpen s port = true → aligned offset.toNat wide = true → regHit offset.toNat wide = some (r, upper) →
    (wide = true ∨ r.sideEffect64 = false) → r.guard = some n → holdsSem s port n = false →
    ((getSem s n).held = false ∨ s.now < (getSem s n).leaseEnd) → u = noteTie s port offset.toNat →
    u = { s with gl := { s.gl with lastTie := u.gl.lastTie } } ∧
    exec (.registerWrite port offset wide value) s = .next (report
      { u with gl := (
        if port = 0 then { u.gl with guardErr0 := satAdd u.gl.guardErr0 1 }
        else { u.gl with guardErr1 := satAdd u.gl.guardErr1 1 }) }
      (portReport Code.eSemGuard port []))) ∧
  (∀ (r : Reg) (n : Nat), r.guard = some n → n < 20) ∧
  (∀ (s : State) (port : RlPort), reportRings s (portReport Code.eSemGuard port []) = [port])

/-- The Meter Room stands alone: its commands change nothing outside it, and what they send only adds to what was sent. -/
def Obligations.MeterRoomStandsAlone : Prop :=
  ∀ (i : Instr) (s t : State),
    (match i with
      | .meterFrame _ _ | .meterWindow _ _ | .intervalClose | .sealSense _ | .mtrVddLoss | .mtrPowerUp
      | .calendarDiscipline _ | .backupSupplyLow | .status _ | .record _ | .ack _ | .pubkey _ | .cert _
      | .energy _ | .settime _ | .setepoch _ | .setrecint _ | .leap _ => True
      | _ => False) →
    exec i s = .next t → t = { s with md := t.md, out := t.out } ∧ ∃ l, t.out = s.out ++ l

/-- The commands of the power and thermal loops store nothing and touch no partition, context, key, fabric port or Meter
Room state. -/
def Obligations.PowerLoopsKeepTheRest : Prop :=
  ∀ (i : Instr) (s t : State),
    (match i with
      | .weirSample _ _ | .weirUpdate | .pwrBrakeN | .brakeRelease | .pwrBrakeNRise | .droopTrip _ _ | .droopWindow _
      | .agingMeasure _ _ | .thermalThreshold _ _ | .thermalCeilingStep _ | .refreshUpdate _ _
      | .calibration _ | .railMargin _ _ | .railExcursion _ _ | .pmbusPoll _ | .pmAlertN _ => True
      | _ => False) →
    exec i s = .next t →
    t.ls = s.ls ∧ t.uni = s.uni ∧ t.parts = s.parts ∧ t.ctxs = s.ctxs ∧ t.seqs = s.seqs ∧ t.cores = s.cores ∧ t.mem = s.mem ∧
    t.dies = s.dies ∧ t.xds = s.xds ∧ t.fab = s.fab ∧ t.tags = s.tags ∧ t.sec = s.sec ∧ t.ft = s.ft ∧ t.res = s.res ∧
    t.md = s.md ∧ t.mtr = s.mtr ∧ t.now = s.now ∧ t.pending = s.pending

/-- Where stores land: a write of the unified range changes the translated bytes (of lent memory the lines they lie in, R230) and no
other frame byte or local store (R216, R233), but for the copies that protection keeps first, each in its own slot of the pool
(R343, assumption 109); a write of a local store changes its own run (R87). -/
def Obligations.StoresLandWhereTheyShould : Prop :=
  (∀ (s t u : State) (p : PartI) (a : Nat) (bs : Bytes) (l : List (Nat × Nat)), places s p a bs.length = .ok l →
    writeUni s p a bs = .ok t → u = protectRun (bs.length / pageSize + 2) s p a bs →
    t.ls = s.ls ∧ (∀ x, Apart l x → Memory.readByte t.uni x = Memory.readByte u.uni x) ∧
    ((getRes s p).state = .off ∨ s.res.role ≠ 0 → u.uni = s.uni)) ∧
  (∀ (s : State) (p : PartI) (k x : Nat),
    (∀ l, places s p ((getRes s p).poolBase.toNat + parityPiece * poolFree (getRes s p)) parityPiece = .ok l → Apart l x) →
    (touchPiece s p k).ls = s.ls ∧ Memory.readByte (touchPiece s p k).uni x = Memory.readByte s.uni x) ∧
  (∀ (s t : State) (p : PartI) (a : Nat) (bs : Bytes) (f : Nat), places s p a bs.length = .ok [(f, bs.length)] →
    f < 2 ^ 44 → writeUni s p a bs = .ok t → Memory.read t.uni f bs.length = bs) ∧
  (∀ (s : State) (f l : Nat) (bs : Bytes), 2 ^ 37 ≤ l → l < 2 ^ 38 → lineCtr s l < 2 ^ 32 - 1 →
    lineCtr (writeLine s f bs l) l = lineCtr s l + 1 ∧
    openLine (writeLine s f bs l) l = some ((upto 128).map (fun i =>
      if f ≤ 128 * l + i ∧ 128 * l + i < f + bs.length then nth 0 bs (128 * l + i - f) else nth 0 ((openLine s l).getD []) i))) ∧
  (∀ (s : State) (core a : Nat) (bs : Bytes),
    readLs (writeLs s core a bs) core a bs.length = bs ∧ (writeLs s core a bs).uni = s.uni ∧
    ∀ x, ¬ (lsKey core a ≤ x ∧ x < lsKey core a + bs.length) →
      Memory.readByte (writeLs s core a bs).ls x = Memory.readByte s.ls x)

end
end

