-- ==== Sys2Proof/Laws/Exec.lean ====
section
/-! SUPPORT. Which meaning each command calls: one lemma for each arm of `exec`. -/

namespace Sys2Proof.Machine

@[simp] theorem exec_d2dFlitReceive (s : State) {link} {sent} {got} {crc} :
    exec (.d2dFlitReceive link sent got crc) s = execD2dFlitReceive link sent got crc s := rfl
@[simp] theorem exec_registerWrite (s : State) {port} {offset} {wide} {value} :
    exec (.registerWrite port offset wide value) s = execRegisterWrite port offset wide value s := rfl
@[simp] theorem exec_readClear (s : State) {port} {offset} {wide} {hw} :
    exec (.readClear port offset wide hw) s = execReadClear port offset wide hw s := rfl
@[simp] theorem exec_w1cWrite (s : State) {port} {offset} {value} {hwSet} :
    exec (.w1cWrite port offset value hwSet) s = execW1cWrite port offset value hwSet s := rfl
@[simp] theorem exec_registerAccessRefused (s : State) {port} {offset} {size} {write} {coherent} :
    exec (.registerAccessRefused port offset size write coherent) s = execRegisterAccessRefused port offset size write coherent s := rfl
@[simp] theorem exec_space4Access (s : State) {target} {offset} {wide} {write} {value} :
    exec (.space4Access target offset wide write value) s = execSpace4Access target offset wide write value s := rfl
@[simp] theorem exec_semTake (s : State) {port} {n} :
    exec (.semTake port n) s = execSemTake port n s := rfl
@[simp] theorem exec_semRelease (s : State) {port} {n} {value} :
    exec (.semRelease port n value) s = execSemRelease port n value s := rfl
@[simp] theorem exec_semLeaseExpiry (s : State) {n} :
    exec (.semLeaseExpiry n) s = execSemLeaseExpiry n s := rfl
@[simp] theorem exec_deviceResetRequest (s : State) {port} {value} :
    exec (.deviceResetRequest port value) s = execDeviceResetRequest port value s := rfl
@[simp] theorem exec_deviceReset (s : State) :
    exec .deviceReset s = execDeviceReset s := rfl
@[simp] theorem exec_resetN (s : State) :
    exec .resetN s = execResetN s := rfl
@[simp] theorem exec_resetRelease (s : State) :
    exec .resetRelease s = execResetRelease s := rfl
@[simp] theorem exec_bootGo (s : State) {port} {value} :
    exec (.bootGo port value) s = execBootGo port value s := rfl
@[simp] theorem exec_bootStageEnd (s : State) {objs} {hw} :
    exec (.bootStageEnd objs hw) s = execBootStageEnd objs hw s := rfl
@[simp] theorem exec_keyLoad (s : State) {port} {value} :
    exec (.keyLoad port value) s = execKeyLoad port value s := rfl
@[simp] theorem exec_keyClear (s : State) {port} {value} :
    exec (.keyClear port value) s = execKeyClear port value s := rfl
@[simp] theorem exec_attGo (s : State) {port} {value} {canSign} :
    exec (.attGo port value canSign) s = execAttGo port value canSign s := rfl
@[simp] theorem exec_planTakeover (s : State) {port} {value} :
    exec (.planTakeover port value) s = execPlanTakeover port value s := rfl
@[simp] theorem exec_planHandback (s : State) {port} {value} {slotReady} {slotDetrev} :
    exec (.planHandback port value slotReady slotDetrev) s = execPlanHandback port value slotReady slotDetrev s := rfl
@[simp] theorem exec_bringup (s : State) {port} {readable} :
    exec (.bringup port readable) s = execBringup port readable s := rfl
@[simp] theorem exec_teardown (s : State) {port} :
    exec (.teardown port) s = execTeardown port s := rfl
@[simp] theorem exec_activate (s : State) {port} {p} :
    exec (.activate port p) s = execActivate port p s := rfl
@[simp] theorem exec_partitionActivated (s : State) {p} :
    exec (.partitionActivated p) s = execPartitionActivated p s := rfl
@[simp] theorem exec_dissolve (s : State) {port} {p} :
    exec (.dissolve port p) s = execDissolve port p s := rfl
@[simp] theorem exec_granuleZeroed (s : State) {g} :
    exec (.granuleZeroed g) s = execGranuleZeroed g s := rfl
@[simp] theorem exec_granOwnWrite (s : State) {port} {value} :
    exec (.granOwnWrite port value) s = execGranOwnWrite port value s := rfl
@[simp] theorem exec_rlPortDown (s : State) {port} :
    exec (.rlPortDown port) s = execRlPortDown port s := rfl
@[simp] theorem exec_rlPortRetrain (s : State) {port} {lanes} :
    exec (.rlPortRetrain port lanes) s = execRlPortRetrain port lanes s := rfl
@[simp] theorem exec_doorbell (s : State) {cid} :
    exec (.doorbell cid) s = execDoorbell cid s := rfl
@[simp] theorem exec_sequencerQueueRoom (s : State) {cid} :
    exec (.sequencerQueueRoom cid) s = execSequencerQueueRoom cid s := rfl
@[simp] theorem exec_commandComplete (s : State) {core} {pos} {listPos} :
    exec (.commandComplete core pos listPos) s = execCommandComplete core pos listPos s := rfl
@[simp] theorem exec_cplFull (s : State) {core} {pos} {listPos} :
    exec (.cplFull core pos listPos) s = execCplFull core pos listPos s := rfl
@[simp] theorem exec_opNop (s : State) {e} :
    exec (.opNop e) s = execOpNop e s := rfl
@[simp] theorem exec_opMatmul (s : State) {e} :
    exec (.opMatmul e) s = execOpMatmul e s := rfl
@[simp] theorem exec_opMatmulSparse (s : State) {e} :
    exec (.opMatmulSparse e) s = execOpMatmulSparse e s := rfl
@[simp] theorem exec_opVchain (s : State) {e} :
    exec (.opVchain e) s = execOpVchain e s := rfl
@[simp] theorem exec_opAttnBlock (s : State) {e} :
    exec (.opAttnBlock e) s = execOpAttnBlock e s := rfl
@[simp] theorem exec_opScalepass (s : State) {e} :
    exec (.opScalepass e) s = execOpScalepass e s := rfl
@[simp] theorem exec_opPrune (s : State) {e} :
    exec (.opPrune e) s = execOpPrune e s := rfl
@[simp] theorem exec_opDma (s : State) {e} :
    exec (.opDma e) s = execOpDma e s := rfl
@[simp] theorem exec_opGather (s : State) {e} :
    exec (.opGather e) s = execOpGather e s := rfl
@[simp] theorem exec_opScatter (s : State) {e} :
    exec (.opScatter e) s = execOpScatter e s := rfl
@[simp] theorem exec_opMigratePlace (s : State) {e} :
    exec (.opMigratePlace e) s = execOpMigratePlace e s := rfl
@[simp] theorem exec_opMigrateMove (s : State) {e} :
    exec (.opMigrateMove e) s = execOpMigrateMove e s := rfl
@[simp] theorem exec_opMigrateSwap (s : State) {e} :
    exec (.opMigrateSwap e) s = execOpMigrateSwap e s := rfl
@[simp] theorem exec_opMigrateRelease (s : State) {e} :
    exec (.opMigrateRelease e) s = execOpMigrateRelease e s := rfl
@[simp] theorem exec_opMigrateSethint (s : State) {e} :
    exec (.opMigrateSethint e) s = execOpMigrateSethint e s := rfl
@[simp] theorem exec_migratePageSwitch (s : State) {page} :
    exec (.migratePageSwitch page) s = execMigratePageSwitch page s := rfl
@[simp] theorem exec_opSnapshotPrestream (s : State) {e} :
    exec (.opSnapshotPrestream e) s = execOpSnapshotPrestream e s := rfl
@[simp] theorem exec_opSnapshotCopy (s : State) {e} :
    exec (.opSnapshotCopy e) s = execOpSnapshotCopy e s := rfl
@[simp] theorem exec_opGate (s : State) {e} :
    exec (.opGate e) s = execOpGate e s := rfl
@[simp] theorem exec_gateOpeningServed (s : State) {die} :
    exec (.gateOpeningServed die) s = execGateOpeningServed die s := rfl
@[simp] theorem exec_gateHang (s : State) {die} {cid} {sess} :
    exec (.gateHang die cid sess) s = execGateHang die cid sess s := rfl
@[simp] theorem exec_opDispatchCount (s : State) {e} :
    exec (.opDispatchCount e) s = execOpDispatchCount e s := rfl
@[simp] theorem exec_opDispatchPack (s : State) {e} :
    exec (.opDispatchPack e) s = execOpDispatchPack e s := rfl
@[simp] theorem exec_opPlace (s : State) {e} {xd1Agrees} :
    exec (.opPlace e xd1Agrees) s = execOpPlace e xd1Agrees s := rfl
@[simp] theorem exec_opExpertPlan (s : State) {e} :
    exec (.opExpertPlan e) s = execOpExpertPlan e s := rfl
@[simp] theorem exec_opExchangeDispatch (s : State) {e} :
    exec (.opExchangeDispatch e) s = execOpExchangeDispatch e s := rfl
@[simp] theorem exec_opExchangeReturn (s : State) {e} :
    exec (.opExchangeReturn e) s = execOpExchangeReturn e s := rfl
@[simp] theorem exec_opCombine (s : State) {e} :
    exec (.opCombine e) s = execOpCombine e s := rfl
@[simp] theorem exec_opA2a (s : State) {e} :
    exec (.opA2a e) s = execOpA2a e s := rfl
@[simp] theorem exec_opPredictPredict (s : State) {e} :
    exec (.opPredictPredict e) s = execOpPredictPredict e s := rfl
@[simp] theorem exec_opPredictBound (s : State) {e} :
    exec (.opPredictBound e) s = execOpPredictBound e s := rfl
@[simp] theorem exec_opMakeup (s : State) {e} :
    exec (.opMakeup e) s = execOpMakeup e s := rfl
@[simp] theorem exec_opReduce (s : State) {e} :
    exec (.opReduce e) s = execOpReduce e s := rfl
@[simp] theorem exec_opAllreduce (s : State) {e} :
    exec (.opAllreduce e) s = execOpAllreduce e s := rfl
@[simp] theorem exec_opBcast (s : State) {e} :
    exec (.opBcast e) s = execOpBcast e s := rfl
@[simp] theorem exec_opAllgather (s : State) {e} :
    exec (.opAllgather e) s = execOpAllgather e s := rfl
@[simp] theorem exec_opWaitSlotFull (s : State) {e} :
    exec (.opWaitSlotFull e) s = execOpWaitSlotFull e s := rfl
@[simp] theorem exec_opWaitSlotEmpty (s : State) {e} :
    exec (.opWaitSlotEmpty e) s = execOpWaitSlotEmpty e s := rfl
@[simp] theorem exec_opWaitEvent (s : State) {e} :
    exec (.opWaitEvent e) s = execOpWaitEvent e s := rfl
@[simp] theorem exec_opWaitMemory (s : State) {e} :
    exec (.opWaitMemory e) s = execOpWaitMemory e s := rfl
@[simp] theorem exec_opWaitPlan (s : State) {e} :
    exec (.opWaitPlan e) s = execOpWaitPlan e s := rfl
@[simp] theorem exec_waitSatisfied (s : State) {core} :
    exec (.waitSatisfied core) s = execWaitSatisfied core s := rfl
@[simp] theorem exec_syncHang (s : State) {core} :
    exec (.syncHang core) s = execSyncHang core s := rfl
@[simp] theorem exec_opSignalSlotFill (s : State) {e} :
    exec (.opSignalSlotFill e) s = execOpSignalSlotFill e s := rfl
@[simp] theorem exec_opSignalSlotDrain (s : State) {e} :
    exec (.opSignalSlotDrain e) s = execOpSignalSlotDrain e s := rfl
@[simp] theorem exec_slotWritesLanded (s : State) {core} {slot} :
    exec (.slotWritesLanded core slot) s = execSlotWritesLanded core slot s := rfl
@[simp] theorem exec_slotReadsDone (s : State) {core} {slot} :
    exec (.slotReadsDone core slot) s = execSlotReadsDone core slot s := rfl
@[simp] theorem exec_opSignalEvent (s : State) {e} :
    exec (.opSignalEvent e) s = execOpSignalEvent e s := rfl
@[simp] theorem exec_opSignalMemory (s : State) {e} :
    exec (.opSignalMemory e) s = execOpSignalMemory e s := rfl
@[simp] theorem exec_opFence (s : State) {e} :
    exec (.opFence e) s = execOpFence e s := rfl
@[simp] theorem exec_opTimedStart (s : State) {e} :
    exec (.opTimedStart e) s = execOpTimedStart e s := rfl
@[simp] theorem exec_timedStartReached (s : State) {core} :
    exec (.timedStartReached core) s = execTimedStartReached core s := rfl
@[simp] theorem exec_opEpochMark (s : State) {e} :
    exec (.opEpochMark e) s = execOpEpochMark e s := rfl
@[simp] theorem exec_epochMarkCapture (s : State) {cid} :
    exec (.epochMarkCapture cid) s = execEpochMarkCapture cid s := rfl
@[simp] theorem exec_epochMarkAgreed (s : State) {cid} :
    exec (.epochMarkAgreed cid) s = execEpochMarkAgreed cid s := rfl
@[simp] theorem exec_epochLate (s : State) {cid} :
    exec (.epochLate cid) s = execEpochLate cid s := rfl
@[simp] theorem exec_opDigestOpen (s : State) {e} :
    exec (.opDigestOpen e) s = execOpDigestOpen e s := rfl
@[simp] theorem exec_opDigestAbsorb (s : State) {e} :
    exec (.opDigestAbsorb e) s = execOpDigestAbsorb e s := rfl
@[simp] theorem exec_opDigestClose (s : State) {e} {canSign} :
    exec (.opDigestClose e canSign) s = execOpDigestClose e canSign s := rfl
@[simp] theorem exec_opRngSeekSet (s : State) {e} :
    exec (.opRngSeekSet e) s = execOpRngSeekSet e s := rfl
@[simp] theorem exec_opRngSeekAdd (s : State) {e} :
    exec (.opRngSeekAdd e) s = execOpRngSeekAdd e s := rfl
@[simp] theorem exec_opRngSeekCheck (s : State) {e} :
    exec (.opRngSeekCheck e) s = execOpRngSeekCheck e s := rfl
@[simp] theorem exec_opStepStatusBind (s : State) {e} :
    exec (.opStepStatusBind e) s = execOpStepStatusBind e s := rfl
@[simp] theorem exec_opStepStatusAgree (s : State) {e} :
    exec (.opStepStatusAgree e) s = execOpStepStatusAgree e s := rfl
@[simp] theorem exec_stepAgreeResult (s : State) {cid} {ovf} :
    exec (.stepAgreeResult cid ovf) s = execStepAgreeResult cid ovf s := rfl
@[simp] theorem exec_opStepStatusCheck (s : State) {e} :
    exec (.opStepStatusCheck e) s = execOpStepStatusCheck e s := rfl
@[simp] theorem exec_opStepStatusCommit (s : State) {e} :
    exec (.opStepStatusCommit e) s = execOpStepStatusCommit e s := rfl
@[simp] theorem exec_opStepStatusUnbind (s : State) {e} :
    exec (.opStepStatusUnbind e) s = execOpStepStatusUnbind e s := rfl
@[simp] theorem exec_outsideDelivery (s : State) {core} {cid} {addr} {gen} {data} {sender} :
    exec (.outsideDelivery core cid addr gen data sender) s = execOutsideDelivery core cid addr gen data sender s := rfl
@[simp] theorem exec_senderEndMarker (s : State) {core} {cid} {slot} {gen} {sender} :
    exec (.senderEndMarker core cid slot gen sender) s = execSenderEndMarker core cid slot gen sender s := rfl
@[simp] theorem exec_slotHang (s : State) {core} :
    exec (.slotHang core) s = execSlotHang core s := rfl
@[simp] theorem exec_xopen (s : State) {h} {ncnt} {nent} {dbytes} {row64} {wbytes} :
    exec (.xopen h ncnt nent dbytes row64 wbytes) s = execXopen h ncnt nent dbytes row64 wbytes s := rfl
@[simp] theorem exec_xready (s : State) {h} {cells} :
    exec (.xready h cells) s = execXready h cells s := rfl
@[simp] theorem exec_xwait (s : State) {h} :
    exec (.xwait h) s = execXwait h s := rfl
@[simp] theorem exec_xopenRetry (s : State) {h} :
    exec (.xopenRetry h) s = execXopenRetry h s := rfl
@[simp] theorem exec_xcount (s : State) {h} {seq} {counts} :
    exec (.xcount h seq counts) s = execXcount h seq counts s := rfl
@[simp] theorem exec_countPhaseEnd (s : State) {cid} {xid} :
    exec (.countPhaseEnd cid xid) s = execCountPhaseEnd cid xid s := rfl
@[simp] theorem exec_xask (s : State) {h} :
    exec (.xask h) s = execXask h s := rfl
@[simp] theorem exec_creditGrant (s : State) {die} :
    exec (.creditGrant die) s = execCreditGrant die s := rfl
@[simp] theorem exec_xcredit (s : State) {h} {cells} :
    exec (.xcredit h cells) s = execXcredit h cells s := rfl
@[simp] theorem exec_openEntryTaken (s : State) {die} :
    exec (.openEntryTaken die) s = execOpenEntryTaken die s := rfl
@[simp] theorem exec_streamData (s : State) {h} {offset} {data} :
    exec (.streamData h offset data) s = execStreamData h offset data s := rfl
@[simp] theorem exec_xend (s : State) {h} {dbytes} {crc} :
    exec (.xend h dbytes crc) s = execXend h dbytes crc s := rfl
@[simp] theorem exec_xresend (s : State) {h} {offset} {bytes} :
    exec (.xresend h offset bytes) s = execXresend h offset bytes s := rfl
@[simp] theorem exec_xack (s : State) {h} :
    exec (.xack h) s = execXack h s := rfl
@[simp] theorem exec_xchHang (s : State) {cid} {xid} :
    exec (.xchHang cid xid) s = execXchHang cid xid s := rfl
@[simp] theorem exec_returnArrival (s : State) {cid} {xid} {token} {rank} {row} :
    exec (.returnArrival cid xid token rank row) s = execReturnArrival cid xid token rank row s := rfl
@[simp] theorem exec_landingHang (s : State) {cid} {xid} :
    exec (.landingHang cid xid) s = execLandingHang cid xid s := rfl
@[simp] theorem exec_cellRelease (s : State) {die} {unit} {p} {ptr} :
    exec (.cellRelease die unit p ptr) s = execCellRelease die unit p ptr s := rfl
@[simp] theorem exec_bpmResWrite (s : State) {port} {die} {p} {value} :
    exec (.bpmResWrite port die p value) s = execBpmResWrite port die p value s := rfl
@[simp] theorem exec_bpmSpillWrite (s : State) {port} {die} {p} {value} :
    exec (.bpmSpillWrite port die p value) s = execBpmSpillWrite port die p value s := rfl
@[simp] theorem exec_copen (s : State) {h} {pdig} {gdig} :
    exec (.copen h pdig gdig) s = execCopen h pdig gdig s := rfl
@[simp] theorem exec_cready (s : State) {h} :
    exec (.cready h) s = execCready h s := rfl
@[simp] theorem exec_cwait (s : State) {h} :
    exec (.cwait h) s = execCwait h s := rfl
@[simp] theorem exec_copenRetry (s : State) {h} :
    exec (.copenRetry h) s = execCopenRetry h s := rfl
@[simp] theorem exec_chunkCellGrant (s : State) {h} {chunk} {pass} :
    exec (.chunkCellGrant h chunk pass) s = execChunkCellGrant h chunk pass s := rfl
@[simp] theorem exec_chunkData (s : State) {h} {chunk} {pass} {offset} {data} {flaw} {flaw2} :
    exec (.chunkData h chunk pass offset data flaw flaw2) s = execChunkData h chunk pass offset data flaw flaw2 s := rfl
@[simp] theorem exec_cend (s : State) {h} {m} {flaw} {flaw2} :
    exec (.cend h m flaw flaw2) s = execCend h m flaw flaw2 s := rfl
@[simp] theorem exec_cack (s : State) {h} {chunk} {pass} :
    exec (.cack h chunk pass) s = execCack h chunk pass s := rfl
@[simp] theorem exec_cresend (s : State) {h} {chunk} {pass} :
    exec (.cresend h chunk pass) s = execCresend h chunk pass s := rfl
@[simp] theorem exec_cabort (s : State) {h} {origin} {reason} :
    exec (.cabort h origin reason) s = execCabort h origin reason s := rfl
@[simp] theorem exec_collHang (s : State) {cid} {coll} :
    exec (.collHang cid coll) s = execCollHang cid coll s := rfl
@[simp] theorem exec_fabricQueueRing (s : State) {cid} {q} :
    exec (.fabricQueueRing cid q) s = execFabricQueueRing cid q s := rfl
@[simp] theorem exec_read (s : State) {cid} {q} :
    exec (.read cid q) s = execRead cid q s := rfl
@[simp] theorem exec_write (s : State) {cid} {q} :
    exec (.write cid q) s = execWrite cid q s := rfl
@[simp] theorem exec_add64 (s : State) {cid} {q} :
    exec (.add64 cid q) s = execAdd64 cid q s := rfl
@[simp] theorem exec_add32 (s : State) {cid} {q} :
    exec (.add32 cid q) s = execAdd32 cid q s := rfl
@[simp] theorem exec_and64 (s : State) {cid} {q} :
    exec (.and64 cid q) s = execAnd64 cid q s := rfl
@[simp] theorem exec_or64 (s : State) {cid} {q} :
    exec (.or64 cid q) s = execOr64 cid q s := rfl
@[simp] theorem exec_xor64 (s : State) {cid} {q} :
    exec (.xor64 cid q) s = execXor64 cid q s := rfl
@[simp] theorem exec_smax64 (s : State) {cid} {q} :
    exec (.smax64 cid q) s = execSmax64 cid q s := rfl
@[simp] theorem exec_smin64 (s : State) {cid} {q} :
    exec (.smin64 cid q) s = execSmin64 cid q s := rfl
@[simp] theorem exec_umax64 (s : State) {cid} {q} :
    exec (.umax64 cid q) s = execUmax64 cid q s := rfl
@[simp] theorem exec_umin64 (s : State) {cid} {q} :
    exec (.umin64 cid q) s = execUmin64 cid q s := rfl
@[simp] theorem exec_swap64 (s : State) {cid} {q} :
    exec (.swap64 cid q) s = execSwap64 cid q s := rfl
@[simp] theorem exec_cas64 (s : State) {cid} {q} :
    exec (.cas64 cid q) s = execCas64 cid q s := rfl
@[simp] theorem exec_addAl48 (s : State) {cid} {q} :
    exec (.addAl48 cid q) s = execAddAl48 cid q s := rfl
@[simp] theorem exec_bulkGet (s : State) {cid} {q} :
    exec (.bulkGet cid q) s = execBulkGet cid q s := rfl
@[simp] theorem exec_bulkPut (s : State) {cid} {q} :
    exec (.bulkPut cid q) s = execBulkPut cid q s := rfl
@[simp] theorem exec_gatewayFlush (s : State) {cid} {q} :
    exec (.gatewayFlush cid q) s = execGatewayFlush cid q s := rfl
@[simp] theorem exec_req (s : State) {m} :
    exec (.req m) s = execReq m s := rfl
@[simp] theorem exec_rsp (s : State) {m} :
    exec (.rsp m) s = execRsp m s := rfl
@[simp] theorem exec_busy (s : State) {src} {jtag} {sid} :
    exec (.busy src jtag sid) s = execBusy src jtag sid s := rfl
@[simp] theorem exec_companionRequest (s : State) {port} {m} {gaddr} :
    exec (.companionRequest port m gaddr) s = execCompanionRequest port m gaddr s := rfl
@[simp] theorem exec_busyResend (s : State) {src} {jtag} {sid} :
    exec (.busyResend src jtag sid) s = execBusyResend src jtag sid s := rfl
@[simp] theorem exec_orderEntryExpiry (s : State) {die} {src} {jtag} {cpn} {cpnPort} {q} :
    exec (.orderEntryExpiry die src jtag cpn cpnPort q) s = execOrderEntryExpiry die src jtag cpn cpnPort q s := rfl
@[simp] theorem exec_msfHang (s : State) {cid} {q} {sid} :
    exec (.msfHang cid q sid) s = execMsfHang cid q sid s := rfl
@[simp] theorem exec_inv (s : State) {die} {home} {addr} :
    exec (.inv die home addr) s = execInv die home addr s := rfl
@[simp] theorem exec_invack (s : State) {holder} {addr} :
    exec (.invack holder addr) s = execInvack holder addr s := rfl
@[simp] theorem exec_recallLine (s : State) {home} {keep} {addr} {port} :
    exec (.recallLine home keep addr port) s = execRecallLine home keep addr port s := rfl
@[simp] theorem exec_recallack (s : State) {holder} {home} {addr} {data} :
    exec (.recallack holder home addr data) s = execRecallack holder home addr data s := rfl
@[simp] theorem exec_puts (s : State) {holder} {home} {addr} :
    exec (.puts holder home addr) s = execPuts holder home addr s := rfl
@[simp] theorem exec_putm (s : State) {holder} {home} {addr} {data} :
    exec (.putm holder home addr data) s = execPutm holder home addr data s := rfl
@[simp] theorem exec_bend (s : State) {src} {jtag} {sid} {bytes} {crc} :
    exec (.bend src jtag sid bytes crc) s = execBend src jtag sid bytes crc s := rfl
@[simp] theorem exec_bresend (s : State) {src} {jtag} {sid} :
    exec (.bresend src jtag sid) s = execBresend src jtag sid s := rfl
@[simp] theorem exec_portEnable (s : State) {port} {fp} {value} :
    exec (.portEnable port fp value) s = execPortEnable port fp value s := rfl
@[simp] theorem exec_portDetect (s : State) {fp} {signals} :
    exec (.portDetect fp signals) s = execPortDetect fp signals s := rfl
@[simp] theorem exec_portTrainDone (s : State) {fp} :
    exec (.portTrainDone fp) s = execPortTrainDone fp s := rfl
@[simp] theorem exec_portAlignDone (s : State) {fp} :
    exec (.portAlignDone fp) s = execPortAlignDone fp s := rfl
@[simp] theorem exec_negotiate (s : State) {fp} {major} {minor} {peer} {peerPort} {lanes} {kfp2} :
    exec (.negotiate fp major minor peer peerPort lanes kfp2) s = execNegotiate fp major minor peer peerPort lanes kfp2 s := rfl
@[simp] theorem exec_negotiateRetry (s : State) {fp} :
    exec (.negotiateRetry fp) s = execNegotiateRetry fp s := rfl
@[simp] theorem exec_retrain (s : State) {port} {fp} {value} :
    exec (.retrain port fp value) s = execRetrain port fp value s := rfl
@[simp] theorem exec_retrainTimeout (s : State) {fp} :
    exec (.retrainTimeout fp) s = execRetrainTimeout fp s := rfl
@[simp] theorem exec_eqWindow (s : State) {fp} {r} :
    exec (.eqWindow fp r) s = execEqWindow fp r s := rfl
@[simp] theorem exec_laneLockLoss (s : State) {fp} {lane} :
    exec (.laneLockLoss fp lane) s = execLaneLockLoss fp lane s := rfl
@[simp] theorem exec_swap (s : State) {fp} {lane} {seq} :
    exec (.swap fp lane seq) s = execSwap fp lane seq s := rfl
@[simp] theorem exec_blockReceive (s : State) {fp} {good} {corrected} {seq} {ack} {circuit} {data} :
    exec (.blockReceive fp good corrected seq ack circuit data) s = execBlockReceive fp good corrected seq ack circuit data s := rfl
@[simp] theorem exec_nak (s : State) {fp} {seq} :
    exec (.nak fp seq) s = execNak fp seq s := rfl
@[simp] theorem exec_nakRepeat (s : State) {fp} :
    exec (.nakRepeat fp) s = execNakRepeat fp s := rfl
@[simp] theorem exec_ackTimeout (s : State) {fp} :
    exec (.ackTimeout fp) s = execAckTimeout fp s := rfl
@[simp] theorem exec_credit (s : State) {fp} {net} {vc} {slots} :
    exec (.credit fp net vc slots) s = execCredit fp net vc slots s := rfl
@[simp] theorem exec_packetReceive (s : State) {fp} {pkt} :
    exec (.packetReceive fp pkt) s = execPacketReceive fp pkt s := rfl
@[simp] theorem exec_packetAged (s : State) {index} :
    exec (.packetAged index) s = execPacketAged index s := rfl
@[simp] theorem exec_circuitWrite (s : State) {port} {die} {c} {value} :
    exec (.circuitWrite port die c value) s = execCircuitWrite port die c value s := rfl
@[simp] theorem exec_tagBind (s : State) {port} {value} :
    exec (.tagBind port value) s = execTagBind port value s := rfl
@[simp] theorem exec_tagRetire (s : State) {port} {value} :
    exec (.tagRetire port value) s = execTagRetire port value s := rfl
@[simp] theorem exec_tagnak (s : State) {newer} {refused} :
    exec (.tagnak newer refused) s = execTagnak newer refused s := rfl
@[simp] theorem exec_tagnakResend (s : State) {index} :
    exec (.tagnakResend index) s = execTagnakResend index s := rfl
@[simp] theorem exec_tsyncSend (s : State) {child} :
    exec (.tsyncSend child) s = execTsyncSend child s := rfl
@[simp] theorem exec_tsync (s : State) {parent} {seq} {t1} :
    exec (.tsync parent seq t1) s = execTsync parent seq t1 s := rfl
@[simp] theorem exec_treq (s : State) {child} {seq} {t3} :
    exec (.treq child seq t3) s = execTreq child seq t3 s := rfl
@[simp] theorem exec_tresp (s : State) {seq} {t4} {corr} :
    exec (.tresp seq t4 corr) s = execTresp seq t4 corr s := rfl
@[simp] theorem exec_ftHoldoverEntry (s : State) :
    exec .ftHoldoverEntry s = execFtHoldoverEntry s := rfl
@[simp] theorem exec_ftRange (s : State) :
    exec .ftRange s = execFtRange s := rfl
@[simp] theorem exec_ppsIn (s : State) :
    exec .ppsIn s = execPpsIn s := rfl
@[simp] theorem exec_ftSet (s : State) {port} {value} :
    exec (.ftSet port value) s = execFtSet port value s := rfl
@[simp] theorem exec_scrubPass (s : State) {die} {finds} {cellar} {hbm} :
    exec (.scrubPass die finds cellar hbm) s = execScrubPass die finds cellar hbm s := rfl
@[simp] theorem exec_leaseLendWrite (s : State) {port} {i1} {value} :
    exec (.leaseLendWrite port i1 value) s = execLeaseLendWrite port i1 value s := rfl
@[simp] theorem exec_leaseBorrowWrite (s : State) {port} {j} {value} :
    exec (.leaseBorrowWrite port j value) s = execLeaseBorrowWrite port j value s := rfl
@[simp] theorem exec_leaseRequest (s : State) {m} :
    exec (.leaseRequest m) s = execLeaseRequest m s := rfl
@[simp] theorem exec_leaseAnswer (s : State) {j} {ok} :
    exec (.leaseAnswer j ok) s = execLeaseAnswer j ok s := rfl
@[simp] theorem exec_leaseRevoke (s : State) {port} {lender} {slot} :
    exec (.leaseRevoke port lender slot) s = execLeaseRevoke port lender slot s := rfl
@[simp] theorem exec_leaseTermEnd (s : State) {i1} :
    exec (.leaseTermEnd i1) s = execLeaseTermEnd i1 s := rfl
@[simp] theorem exec_leaseGraceEnd (s : State) {j} :
    exec (.leaseGraceEnd j) s = execLeaseGraceEnd j s := rfl
@[simp] theorem exec_leaseRelease (s : State) {lender} {slot} :
    exec (.leaseRelease lender slot) s = execLeaseRelease lender slot s := rfl
@[simp] theorem exec_sliceEnd (s : State) {p} :
    exec (.sliceEnd p) s = execSliceEnd p s := rfl
@[simp] theorem exec_contextYield (s : State) {p} :
    exec (.contextYield p) s = execContextYield p s := rfl
@[simp] theorem exec_switchCoresStopped (s : State) {p} :
    exec (.switchCoresStopped p) s = execSwitchCoresStopped p s := rfl
@[simp] theorem exec_switchDone (s : State) {p} :
    exec (.switchDone p) s = execSwitchDone p s := rfl
@[simp] theorem exec_wholeCap (s : State) {core} {pos} {listPos} :
    exec (.wholeCap core pos listPos) s = execWholeCap core pos listPos s := rfl
@[simp] theorem exec_protectionEnable (s : State) {port} {p} {value} {peersAgree} {cert} :
    exec (.protectionEnable port p value peersAgree cert) s = execProtectionEnable port p value peersAgree cert s := rfl
@[simp] theorem exec_seedingDone (s : State) {p} :
    exec (.seedingDone p) s = execSeedingDone p s := rfl
@[simp] theorem exec_parityDelta (s : State) {src} {p} {piece} {whole} {delta} :
    exec (.parityDelta src p piece whole delta) s = execParityDelta src p piece whole delta s := rfl
@[simp] theorem exec_mirrorWrite (s : State) {src} {p} {addr} {data} :
    exec (.mirrorWrite src p addr data) s = execMirrorWrite src p addr data s := rfl
@[simp] theorem exec_heartbeatSend (s : State) :
    exec .heartbeatSend s = execHeartbeatSend s := rfl
@[simp] theorem exec_heartbeatLoss (s : State) {who} {reserve} :
    exec (.heartbeatLoss who reserve) s = execHeartbeatLoss who reserve s := rfl
@[simp] theorem exec_down (s : State) {who} :
    exec (.down who) s = execDown who s := rfl
@[simp] theorem exec_takeover (s : State) {failed} {newInc} {holder} :
    exec (.takeover failed newInc holder) s = execTakeover failed newInc holder s := rfl
@[simp] theorem exec_rebuildPiece (s : State) {survivors} {pieces} :
    exec (.rebuildPiece survivors pieces) s = execRebuildPiece survivors pieces s := rfl
@[simp] theorem exec_frameSend (s : State) {die} {elapsed} {energy} {counts} :
    exec (.frameSend die elapsed energy counts) s = execFrameSend die elapsed energy counts s := rfl
@[simp] theorem exec_meterFrame (s : State) {lane} {frame} :
    exec (.meterFrame lane frame) s = execMeterFrame lane frame s := rfl
@[simp] theorem exec_meterWindow (s : State) {counts} {storeBad} :
    exec (.meterWindow counts storeBad) s = execMeterWindow counts storeBad s := rfl
@[simp] theorem exec_intervalClose (s : State) :
    exec .intervalClose s = execIntervalClose s := rfl
@[simp] theorem exec_sealSense (s : State) {opened} :
    exec (.sealSense opened) s = execSealSense opened s := rfl
@[simp] theorem exec_mtrVddLoss (s : State) :
    exec .mtrVddLoss s = execMtrVddLoss s := rfl
@[simp] theorem exec_mtrPowerUp (s : State) :
    exec .mtrPowerUp s = execMtrPowerUp s := rfl
@[simp] theorem exec_calendarDiscipline (s : State) {rateOff} :
    exec (.calendarDiscipline rateOff) s = execCalendarDiscipline rateOff s := rfl
@[simp] theorem exec_status (s : State) {payload} :
    exec (.status payload) s = execStatus payload s := rfl
@[simp] theorem exec_record (s : State) {payload} :
    exec (.record payload) s = execRecord payload s := rfl
@[simp] theorem exec_ack (s : State) {payload} :
    exec (.ack payload) s = execAck payload s := rfl
@[simp] theorem exec_pubkey (s : State) {payload} :
    exec (.pubkey payload) s = execPubkey payload s := rfl
@[simp] theorem exec_cert (s : State) {payload} :
    exec (.cert payload) s = execCert payload s := rfl
@[simp] theorem exec_energy (s : State) {payload} :
    exec (.energy payload) s = execEnergy payload s := rfl
@[simp] theorem exec_settime (s : State) {payload} :
    exec (.settime payload) s = execSettime payload s := rfl
@[simp] theorem exec_setepoch (s : State) {payload} :
    exec (.setepoch payload) s = execSetepoch payload s := rfl
@[simp] theorem exec_setrecint (s : State) {payload} :
    exec (.setrecint payload) s = execSetrecint payload s := rfl
@[simp] theorem exec_leap (s : State) {payload} :
    exec (.leap payload) s = execLeap payload s := rfl
@[simp] theorem exec_mirrorRecord (s : State) {rec} :
    exec (.mirrorRecord rec) s = execMirrorRecord rec s := rfl
@[simp] theorem exec_weirSample (s : State) {p} {railOver} :
    exec (.weirSample p railOver) s = execWeirSample p railOver s := rfl
@[simp] theorem exec_weirUpdate (s : State) :
    exec .weirUpdate s = execWeirUpdate s := rfl
@[simp] theorem exec_pwrBrakeN (s : State) :
    exec .pwrBrakeN s = execPwrBrakeN s := rfl
@[simp] theorem exec_brakeRelease (s : State) :
    exec .brakeRelease s = execBrakeRelease s := rfl
@[simp] theorem exec_droopTrip (s : State) {q} {detector} :
    exec (.droopTrip q detector) s = execDroopTrip q detector s := rfl
@[simp] theorem exec_droopWindow (s : State) {q} :
    exec (.droopWindow q) s = execDroopWindow q s := rfl
@[simp] theorem exec_agingMeasure (s : State) {q} {slowdown} :
    exec (.agingMeasure q slowdown) s = execAgingMeasure q slowdown s := rfl
@[simp] theorem exec_thermalThreshold (s : State) {sensor} {temp} :
    exec (.thermalThreshold sensor temp) s = execThermalThreshold sensor temp s := rfl
@[simp] theorem exec_thermalCeilingStep (s : State) {q} :
    exec (.thermalCeilingStep q) s = execThermalCeilingStep q s := rfl
@[simp] theorem exec_refreshUpdate (s : State) {temps} {mr4} :
    exec (.refreshUpdate temps mr4) s = execRefreshUpdate temps mr4 s := rfl
@[simp] theorem exec_pwrPinWrite (s : State) {port} {p} {value} :
    exec (.pwrPinWrite port p value) s = execPwrPinWrite port p value s := rfl
@[simp] theorem exec_selftestSliceDue (s : State) {q} :
    exec (.selftestSliceDue q) s = execSelftestSliceDue q s := rfl
@[simp] theorem exec_selftestSliceEnd (s : State) {q} {pass} {passAgain} :
    exec (.selftestSliceEnd q pass passAgain) s = execSelftestSliceEnd q pass passAgain s := rfl
@[simp] theorem exec_pwrStCmd (s : State) {port} {value} :
    exec (.pwrStCmd port value) s = execPwrStCmd port value s := rfl
@[simp] theorem exec_calibration (s : State) {c} :
    exec (.calibration c) s = execCalibration c s := rfl
@[simp] theorem exec_errorReport (s : State) {r} :
    exec (.errorReport r) s = execErrorReport r s := rfl
@[simp] theorem exec_coalesceExpiry (s : State) {port} {index} :
    exec (.coalesceExpiry port index) s = execCoalesceExpiry port index s := rfl
@[simp] theorem exec_errRingHead (s : State) {port} :
    exec (.errRingHead port) s = execErrRingHead port s := rfl
@[simp] theorem exec_errRingCfg (s : State) {port} {ring} {value} :
    exec (.errRingCfg port ring value) s = execErrRingCfg port ring value s := rfl
@[simp] theorem exec_riskUpdate (s : State) :
    exec .riskUpdate s = execRiskUpdate s := rfl
@[simp] theorem exec_pmbusPoll (s : State) {readings} :
    exec (.pmbusPoll readings) s = execPmbusPoll readings s := rfl
@[simp] theorem exec_pmAlertN (s : State) {readings} :
    exec (.pmAlertN readings) s = execPmAlertN readings s := rfl
@[simp] theorem exec_railMargin (s : State) {rail} {deviation} :
    exec (.railMargin rail deviation) s = execRailMargin rail deviation s := rfl
@[simp] theorem exec_railExcursion (s : State) {rail} {deviation} :
    exec (.railExcursion rail deviation) s = execRailExcursion rail deviation s := rfl
@[simp] theorem exec_pwrBrakeNRise (s : State) :
    exec .pwrBrakeNRise s = execPwrBrakeNRise s := rfl
@[simp] theorem exec_backupSupplyLow (s : State) :
    exec .backupSupplyLow s = execBackupSupplyLow s := rfl
@[simp] theorem exec_protectorAck (s : State) {cid} :
    exec (.protectorAck cid) s = execProtectorAck cid s := rfl
@[simp] theorem exec_tapInstruction (s : State) {t} :
    exec (.tapInstruction t) s = execTapInstruction t s := rfl

end Sys2Proof.Machine
end

