-- ==== Sys2Proof/Laws/Tables.lean ====
section
/-! SUPPORT. Laws of tables and memories: reading what was set, other keys unchanged, and the canonical form. -/

namespace Sys2Proof.Machine

/-! ### Tables -/

theorem Tbl.get_erase {α : Type} (d : α) (t : Tbl α) (i j : Nat) :
    Tbl.get d (Tbl.erase t i) j = if j = i then d else Tbl.get d t j := by
  induction t with
  | nil => simp [Tbl.erase, Tbl.get]
  | cons p t ih =>
    obtain ⟨k, v⟩ := p
    by_cases hki : k = i
    · simp only [Tbl.erase, if_pos hki, ih, Tbl.get]
      by_cases hji : j = i
      · simp only [if_pos hji]
      · have : ¬ k = j := fun h => hji (h.symm.trans hki)
        simp only [if_neg hji, if_neg this]
    · simp only [Tbl.erase, if_neg hki, Tbl.get, ih]
      by_cases hkj : k = j
      · have : ¬ j = i := fun h => hki (hkj.trans h)
        simp only [if_pos hkj, if_neg this]
      · simp only [if_neg hkj]

theorem Tbl.get_insert {α : Type} (d : α) (t : Tbl α) (i j : Nat) (x : α) (hn : ∀ p ∈ t, p.1 ≠ i) : Tbl.get d (Tbl.insert i x t) j = if j = i then x else Tbl.get d t j := by
  induction t with
  | nil =>
    by_cases hj : j = i
    · simp [Tbl.insert, Tbl.get, hj]
    · have : ¬ i = j := fun e => hj e.symm
      simp [Tbl.insert, Tbl.get, hj, this]
  | cons p t ih =>
    obtain ⟨k, v⟩ := p
    have hk : k ≠ i := hn (k, v) (by simp)
    have ht := ih (fun q hq => hn q (by simp [hq]))
    by_cases hik : i < k
    · by_cases hj : j = i
      · simp [Tbl.insert, Tbl.get, hik, hj]
      · have : ¬ i = j := fun e => hj e.symm
        simp [Tbl.insert, Tbl.get, hik, hj, this]
    · by_cases hkj : k = j
      · have : ¬ j = i := fun e => hk (hkj.trans e)
        simp only [Tbl.insert, if_neg hik, Tbl.get, if_pos hkj, if_neg this]
      · simp only [Tbl.insert, if_neg hik, Tbl.get, if_neg hkj, ht]

theorem Tbl.erase_key {α : Type} (t : Tbl α) (i : Nat) : ∀ p ∈ Tbl.erase t i, p.1 ≠ i := by
  induction t with
  | nil => simp [Tbl.erase]
  | cons p t ih =>
    obtain ⟨k, v⟩ := p
    by_cases hki : k = i
    · simpa [Tbl.erase, hki] using ih
    · intro q hq
      simp only [Tbl.erase, hki, if_false, List.mem_cons] at hq
      rcases hq with rfl | hq
      · exact hki
      · exact ih q hq

/-- A table reads what was set, and every other key as before. -/
@[simp] theorem Tbl.get_set {α : Type} [DecidableEq α] (d : α) (t : Tbl α) (i j : Nat) (x : α) :
    Tbl.get d (Tbl.set d t i x) j = if j = i then x else Tbl.get d t j := by
  unfold Tbl.set
  by_cases hx : x = d
  · rw [if_pos hx, Tbl.get_erase, hx]
  · rw [if_neg hx, Tbl.get_insert d _ i j x (Tbl.erase_key t i), Tbl.get_erase]
    by_cases hj : j = i <;> simp [hj]

end Sys2Proof.Machine
end

