-- ==== Sys2Proof/Laws/State.lean ====
section
/-! SUPPORT. One lemma for each field and each named update of the state: what an accessor reads after it. -/

namespace Sys2Proof.Machine

variable (s : State)

/-! ### An accessor reads what its own update wrote -/

@[simp] theorem getPart_setPart (p q : PartI) (x : Part) : getPart (setPart s p x) q = if q = p then x else getPart s q := by
  simp [getPart, setPart, Fin.ext_iff]

theorem ctxKey_inj {a b : CtxId} : CtxId.key a = CtxId.key b ↔ a = b := by
  obtain ⟨⟨p, hp⟩, ⟨c, hc⟩⟩ := a
  obtain ⟨⟨q, hq⟩, ⟨d, hd⟩⟩ := b
  simp only [CtxId.key, CtxId.mk.injEq, Fin.mk.injEq]
  omega

@[simp] theorem getCtx_setCtx (c d : CtxId) (x : Ctx) : getCtx (setCtx s c x) d = if d = c then x else getCtx s d := by
  simp [getCtx, setCtx, ctxKey_inj]

@[simp] theorem getSeq_setSeq_same (c : CtxId) (k : Nat) (x : Seq) : getSeq (setSeq s c k x) c k = x := by
  simp [getSeq, setSeq]

@[simp] theorem getSem_setSem (n m : Nat) (x : Sem) : getSem (setSem s n x) m = if m = n then x else getSem s m := by
  simp [getSem, setSem]

@[simp] theorem getKey_setKey (k j : Fin 128) (x : KeySlot) : getKey (setKey s k x) j = if j = k then x else getKey s j := by
  simp [getKey, setKey, Fin.ext_iff]

@[simp] theorem getFp_setFp (p q : Nat) (x : FPortSt) : getFp (setFp s p x) q = if q = p then x else getFp s q := by
  simp [getFp, setFp]

@[simp] theorem getRl_setRl (p q : RlPort) (x : RlPortSt) : getRl (setRl s p x) q = if q = p then x else getRl s q := by
  simp [getRl, setRl, Fin.ext_iff]

@[simp] theorem getRing_setRing (p q : RlPort) (x : ErrRing) : getRing (setRing s p x) q = if q = p then x else getRing s q := by
  simp [getRing, setRing, Fin.ext_iff]

@[simp] theorem getDie_setDie (d e : CDie) (x : Die) : getDie (setDie s d x) e = if e = d then x else getDie s e := by
  simp [getDie, setDie, Fin.ext_iff]

@[simp] theorem getXd_setXd (d e : XDie) (x : XdSt) : getXd (setXd s d x) e = if e = d then x else getXd s e := by
  simp [getXd, setXd, Fin.ext_iff]

@[simp] theorem getQuad_setQuad (q r : Nat) (x : QuadPwr) : getQuad (setQuad s q x) r = if r = q then x else getQuad s r := by
  simp [getQuad, setQuad]

@[simp] theorem getRes_setRes (p q : PartI) (x : ResPart) : getRes (setRes s p x) q = if q = p then x else getRes s q := by
  simp [getRes, setRes, Fin.ext_iff]

@[simp] theorem getGran_setGran (g h : Nat) (x : Gran) : getGran (setGran s g x) h = if h = g then x else getGran s h := by
  simp [getGran, setGran]

end Sys2Proof.Machine
end

