-- ==== Sys2Proof/Laws/Guard.lean ====
section
/-! SUPPORT. What the guard of register writes, the semaphores and the issue of a command do when their conditions hold. -/

namespace Sys2Proof.Machine

/-- A lease that has not run out stands. -/
theorem expireSem_of_live {s : State} {n : Nat} (h : (getSem s n).held = false ∨ s.now < (getSem s n).leaseEnd) :
    expireSem s n = s := by
  unfold expireSem
  rcases h with h | h
  · simp [h]
  · have : ¬ (getSem s n).leaseEnd ≤ s.now := by omega
    simp [this]

/-- A port that may write has its write's effect (R292). -/
theorem guarded_of_mayWrite {s : State} {p : RlPort} {n : Nat} {f : State → State} (h : mayWrite s p n = true) :
    guarded s p n f = f s := by
  simp only [mayWrite, Bool.and_eq_true, decide_eq_true_eq] at h
  simp [guarded, h.1.1, expireSem_of_live (Or.inr h.2), h.1.2]

/-- A port that may boot has its write's effect (R386). -/
theorem guardedBoot_of_mayBoot {s : State} {p : RlPort} {f : State → State} (h : mayBoot s p = true) :
    guardedBoot s p f = f s := by
  simp only [mayBoot, Bool.and_eq_true, Bool.not_eq_true', decide_eq_true_eq] at h
  simp [guardedBoot, semAnswers, h.1.1.1, h.1.1.2, expireSem_of_live (Or.inr h.2), h.1.2]

/-- The record of ties bears on no guard. -/
@[simp] theorem mayWrite_noteTie {s : State} {p q : RlPort} {n o : Nat} : mayWrite (noteTie s q o) p n = mayWrite s p n := by
  unfold noteTie; split <;> rfl

@[simp] theorem mayBoot_noteTie {s : State} {p q : RlPort} {o : Nat} : mayBoot (noteTie s q o) p = mayBoot s p := by
  unfold noteTie; split <;> rfl

@[simp] theorem windowOpen_noteTie {s : State} {p q : RlPort} {o : Nat} : windowOpen (noteTie s q o) p = windowOpen s p := by
  unfold noteTie; split <;> rfl

/-- A port that meets no other leaves the record of ties. -/
theorem noteTie_of_apart {s : State} {p : RlPort} {o : Nat} (h : portsMeet s p o = false) : noteTie s p o = s := by simp [noteTie, h]

/-- Nothing of R281 or R355 stands in the way: what the device does of itself happens at once. -/
theorem coherentOr_of_atRest {s : State} {f : State → State} {held : State → List Nat → List Nat → State} (h : atRest s = true) :
    coherentOr held f s = f s := by
  have h' : nothingHeld s = true := h
  simp [coherentOr, h']

theorem coherent_of_atRest {s : State} {f : State → State} (h : atRest s = true) : coherent f s = f s := coherentOr_of_atRest h

/-- So does what a command from outside brings once only. -/
theorem coherentLate_of_atRest {c : Sys2Proof.Instr} {s : State} {f : State → State} (h : atRest s = true) : coherentLate c f s = f s :=
  coherentOr_of_atRest h

/-- A command that passes every check of its issue stands in flight, takes its row's effect and is settled. -/
theorem issueCmd_of_issues {s : State} {e : Entry} {r : OpRow} {core : Nat} {ranges : List Range}
    (h : issues s e r core ranges = true) :
    issueCmd s e r = settleEnd (r.run (issued s e r core ranges) core).1 core e (r.run (issued s e r core ranges) core).2 := by
  simp only [issues, Bool.and_eq_true, Bool.not_eq_true', decide_eq_true_eq, beq_iff_eq] at h
  obtain ⟨⟨⟨⟨⟨⟨⟨⟨⟨⟨⟨h1, h2⟩, h3⟩, h4⟩, h5⟩, h6⟩, h7⟩, h8⟩, h9⟩, h10⟩, h11⟩, h12⟩ := h
  simp [issueCmd, coherent_of_atRest h1, issueAt, h2, h3, h4, h5, h6, h7, issueGo, h8, h9, h10, h11, issued]

end Sys2Proof.Machine
end

