-- ==== Sys2Proof/Laws/Memory.lean ====
section
/-! SUPPORT. Laws of memory: the canonical form is kept by every memory operation, a run reads back as written, and bytes
outside a run stand. -/

namespace Sys2Proof.Machine

/-! ### The canonical form of tables -/

/-- Every key of a table lies above a bound. -/
theorem Tbl.rising_some {α : Type} {t : Tbl α} {b : Nat} (h : Tbl.rising (some b) t = true) :
    Tbl.rising none t = true ∧ ∀ p ∈ t, b < p.1 := by
  induction t generalizing b with
  | nil => simp [Tbl.rising]
  | cons p t ih =>
    obtain ⟨k, v⟩ := p
    simp only [Tbl.rising, Bool.and_eq_true, decide_eq_true_eq] at h
    refine ⟨h.2, fun q hq => ?_⟩
    rcases List.mem_cons.1 hq with rfl | hq
    · exact h.1
    · exact lt_trans h.1 ((ih h.2).2 q hq)

theorem Tbl.rising_of {α : Type} {t : Tbl α} {b : Nat} (h : Tbl.rising none t = true) (hb : ∀ p ∈ t, b < p.1) :
    Tbl.rising (some b) t = true := by
  cases t with
  | nil => rfl
  | cons p t => simpa [Tbl.rising, hb p (by simp)] using h

/-- Keys rise along a table exactly when its head lies below its tail and the tail rises. -/
theorem Tbl.rising_cons {α : Type} {k : Nat} {v : α} {t : Tbl α} :
    Tbl.rising none ((k, v) :: t) = true ↔ Tbl.rising none t = true ∧ ∀ p ∈ t, k < p.1 :=
  ⟨fun h => Tbl.rising_some h, fun h => Tbl.rising_of h.1 h.2⟩

theorem Tbl.rising_filter {α : Type} (f : Nat × α → Bool) {t : Tbl α} (h : Tbl.rising none t = true) :
    Tbl.rising none (t.filter f) = true := by
  induction t with
  | nil => exact h
  | cons p t ih =>
    obtain ⟨k, v⟩ := p
    rw [Tbl.rising_cons] at h
    rw [List.filter_cons]
    split
    · exact Tbl.rising_cons.2 ⟨ih h.1, fun q hq => h.2 q (List.mem_of_mem_filter hq)⟩
    · exact ih h.1

theorem Tbl.erase_eq_filter {α : Type} (t : Tbl α) (i : Nat) : Tbl.erase t i = t.filter (fun p => decide (p.1 ≠ i)) := by
  induction t with
  | nil => rfl
  | cons p t ih =>
    obtain ⟨k, v⟩ := p
    by_cases h : k = i <;> simp [Tbl.erase, h, ih]

theorem Tbl.mem_insert {α : Type} {i : Nat} {x : α} {t : Tbl α} {p : Nat × α} (h : p ∈ Tbl.insert i x t) :
    p = (i, x) ∨ p ∈ t := by
  induction t with
  | nil => simpa [Tbl.insert] using h
  | cons q t ih =>
    obtain ⟨k, v⟩ := q
    simp only [Tbl.insert] at h
    split at h
    · simpa using h
    · rcases List.mem_cons.1 h with h | h
      · exact .inr (by simp [h])
      · rcases ih h with h | h
        · exact .inl h
        · exact .inr (by simp [h])

theorem Tbl.rising_insert {α : Type} {i : Nat} {x : α} {t : Tbl α} (h : Tbl.rising none t = true) (hi : ∀ p ∈ t, p.1 ≠ i) :
    Tbl.rising none (Tbl.insert i x t) = true := by
  induction t with
  | nil => rfl
  | cons q t ih =>
    obtain ⟨k, v⟩ := q
    have hk : k ≠ i := hi (k, v) (by simp)
    rw [Tbl.rising_cons] at h
    simp only [Tbl.insert]
    split
    · rename_i hlt
      refine Tbl.rising_cons.2 ⟨Tbl.rising_cons.2 h, fun p hp => ?_⟩
      rcases List.mem_cons.1 hp with rfl | hp
      · exact hlt
      · exact lt_trans hlt (h.2 p hp)
    · refine Tbl.rising_cons.2 ⟨ih h.1 (fun p hp => hi p (by simp [hp])), fun p hp => ?_⟩
      rcases Tbl.mem_insert hp with rfl | hp
      · show k < i
        omega
      · exact h.2 p hp

/-- Setting a value keeps the canonical form. -/
theorem Tbl.wf_set {α : Type} [DecidableEq α] {d : α} {t : Tbl α} (i : Nat) (x : α) (h : Tbl.wf d t = true) :
    Tbl.wf d (Tbl.set d t i x) = true := by
  simp only [Tbl.wf, Bool.and_eq_true, List.all_eq_true, decide_eq_true_eq] at h ⊢
  have he : Tbl.rising none (Tbl.erase t i) = true := by rw [Tbl.erase_eq_filter]; exact Tbl.rising_filter _ h.1
  have hm : ∀ p ∈ Tbl.erase t i, p.2 ≠ d := by
    rw [Tbl.erase_eq_filter]; exact fun p hp => h.2 p (List.mem_of_mem_filter hp)
  unfold Tbl.set
  split
  · exact ⟨he, hm⟩
  · rename_i hx
    refine ⟨Tbl.rising_insert he (Tbl.erase_key t i), fun p hp => ?_⟩
    rcases Tbl.mem_insert hp with rfl | hp
    · exact hx
    · exact hm p hp

/-! ### The canonical form of memories -/

theorem Memory.wf_writeByte {m : Memory} (a : Nat) (b : Byte) (h : Memory.wf m = true) :
    Memory.wf (Memory.writeByte m a b) = true := Tbl.wf_set a b h

theorem Memory.wf_write {m : Memory} (a : Nat) (bs : Bytes) (h : Memory.wf m = true) :
    Memory.wf (Memory.write m a bs) = true := by
  induction bs generalizing m a with
  | nil => exact h
  | cons b bs ih => exact ih (a + 1) (Memory.wf_writeByte a b h)

theorem Memory.wf_zero {m : Memory} (a n : Nat) (h : Memory.wf m = true) : Memory.wf (Memory.zero m a n) = true := by
  simp only [Memory.wf, Tbl.wf, Bool.and_eq_true, List.all_eq_true, decide_eq_true_eq] at h ⊢
  exact ⟨Tbl.rising_filter _ h.1, fun p hp => h.2 p (List.mem_of_mem_filter hp)⟩

/-! ### Reading back -/

@[simp] theorem Memory.readByte_writeByte (m : Memory) (a c : Nat) (b : Byte) :
    Memory.readByte (Memory.writeByte m a b) c = if c = a then b else Memory.readByte m c := Tbl.get_set _ _ _ _ _

/-- A byte outside the run of a write stands. -/
theorem Memory.readByte_write_other {m : Memory} {a c : Nat} {bs : Bytes} (h : ¬ (a ≤ c ∧ c < a + bs.length)) :
    Memory.readByte (Memory.write m a bs) c = Memory.readByte m c := by
  induction bs generalizing m a with
  | nil => rfl
  | cons b bs ih =>
    simp only [List.length_cons] at h
    rw [Memory.write, ih (by omega), Memory.readByte_writeByte, if_neg (by omega)]

/-- A byte of the run of a write reads as written. -/
theorem Memory.readByte_write {m : Memory} {a i : Nat} {bs : Bytes} (h : i < bs.length) :
    Memory.readByte (Memory.write m a bs) (a + i) = bs[i] := by
  induction bs generalizing m a i with
  | nil => simp at h
  | cons b bs ih =>
    cases i with
    | zero => rw [Memory.write, Memory.readByte_write_other (by omega)]; simp
    | succ i =>
      have := ih (m := Memory.writeByte m a b) (a := a + 1) (i := i) (by simpa using h)
      rw [Memory.write, show a + (i + 1) = a + 1 + i from by omega, this]
      rfl

@[simp] theorem Memory.length_read (m : Memory) (a n : Nat) : (Memory.read m a n).length = n := by
  induction n generalizing a with
  | zero => rfl
  | succ n ih => simp [Memory.read, ih]

theorem Memory.getElem_read {m : Memory} {a n i : Nat} (h : i < (Memory.read m a n).length) :
    (Memory.read m a n)[i] = Memory.readByte m (a + i) := by
  induction n generalizing a i with
  | zero => simp [Memory.read] at h
  | succ n ih =>
    cases i with
    | zero => rfl
    | succ i =>
      have := ih (a := a + 1) (i := i) (by simpa [Memory.read] using h)
      simp only [Memory.read, List.getElem_cons_succ, this]
      congr 1
      omega

/-- A run reads back as written. -/
@[simp] theorem Memory.read_write (m : Memory) (a : Nat) (bs : Bytes) : Memory.read (Memory.write m a bs) a bs.length = bs := by
  apply List.ext_getElem (by simp)
  intro i h1 h2
  rw [Memory.getElem_read, Memory.readByte_write h2]

end Sys2Proof.Machine
end

