-- ==== Sys2Proof/Laws/KeptBase.lean ====
section
/-! SUPPORT. What operations keep: the canonical form of the memories, the queue of commands and the clock. The files that
follow say it of every operation and of every command. -/

namespace Sys2Proof.Machine

/-- From `org` on, the memories have kept their canonical form, and the queue and the clock stand. -/
structure Kept (org t : State) : Prop where
  wf : org.memWf = true → t.memWf = true
  pending : t.pending = org.pending
  now : t.now = org.now

/-- The same of an outcome's next state. -/
structure KeptO (org : State) (r : Host.Outcome State Fault Refusal) : Prop where
  get : ∀ t, r = .next t → Kept org t

/-- The same of an operation that may fail. -/
structure KeptE {ε : Type} (org : State) (r : Except ε State) : Prop where
  get : ∀ t, r = .ok t → Kept org t

/-- The same of one that answers a state and a value. -/
structure KeptE2 {ε α : Type} (org : State) (r : Except ε (State × α)) : Prop where
  get : ∀ t, r = .ok t → Kept org t.1

/-- The same of a state that may be absent. -/
structure KeptM (org : State) (r : Option State) : Prop where
  get : ∀ t, r = some t → Kept org t

/-- The same of one with a value. -/
structure KeptM2 {α : Type} (org : State) (r : Option (State × α)) : Prop where
  get : ∀ t, r = some t → Kept org t.1

/-- A row's effect, and what a skipped command of it still does, keep. -/
def KeptRow (org : State) (r : OpRow) : Prop :=
  (∀ t c, Kept org t → Kept org (r.skip t c)) ∧ ∀ t c, Kept org t → Kept org (r.run t c).1

variable {org : State}

theorem kept_refl : Kept org org := ⟨id, rfl, rfl⟩

/-! ### Results -/

theorem kept_next {s : State} (h : Kept org s) : KeptO org (.next s) := ⟨by rintro t ⟨⟩; exact h⟩

theorem kept_ok {ε : Type} {s : State} (h : Kept org s) : KeptE org (.ok s : Except ε State) := ⟨by rintro t ⟨⟩; exact h⟩

theorem kept_err {ε : Type} {c : ε} : KeptE org (.error c) := ⟨by rintro t ⟨⟩⟩

theorem kept_ok2 {ε α : Type} {s : State × α} (h : Kept org s.1) : KeptE2 org (.ok s : Except ε (State × α)) :=
  ⟨by rintro t ⟨⟩; exact h⟩

theorem kept_err2 {ε α : Type} {c : ε} : KeptE2 (α := α) org (.error c) := ⟨by rintro t ⟨⟩⟩

theorem kept_some {s : State} (h : Kept org s) : KeptM org (some s) := ⟨by rintro t ⟨⟩; exact h⟩

theorem kept_none : KeptM org none := ⟨by rintro t ⟨⟩⟩

theorem kept_some2 {α : Type} {s : State × α} (h : Kept org s.1) : KeptM2 org (some s) := ⟨by rintro t ⟨⟩; exact h⟩

theorem kept_none2 {α : Type} : KeptM2 (α := α) org none := ⟨by rintro t ⟨⟩⟩

theorem kept_get {ε : Type} {s : State} (h : KeptE org (.ok s : Except ε State)) : Kept org s := h.get _ rfl

theorem kept_fst {α : Type} {p : State × α} {x : State} {y : α} (e : p = (x, y)) (h : Kept org p.1) : Kept org x := by
  rw [e] at h; exact h

theorem kept_of_ok {ε : Type} {p : Except ε State} {x : State} (e : p = .ok x) (h : KeptE org p) : Kept org x := h.get _ e

theorem kept_of_ok2 {ε α : Type} {p : Except ε (State × α)} {x : State × α} (e : p = .ok x) (h : KeptE2 org p) :
    Kept org x.1 := h.get _ e

theorem kept_of_ok2' {ε α : Type} {p : Except ε (State × α)} {x : State} {y : α} (e : p = .ok (x, y)) (h : KeptE2 org p) :
    Kept org x := h.get _ e

theorem kept_of_some {p : Option State} {x : State} (e : p = some x) (h : KeptM org p) : Kept org x := h.get _ e

theorem kept_of_some2 {α : Type} {p : Option (State × α)} {x : State × α} (e : p = some x) (h : KeptM2 org p) :
    Kept org x.1 := h.get _ e

theorem kept_of_some2' {α : Type} {p : Option (State × α)} {x : State} {y : α} (e : p = some (x, y)) (h : KeptM2 org p) :
    Kept org x := h.get _ e

/-! ### Control -/

theorem kept_ite {c : Prop} [Decidable c] {a b : State} (h1 : c → Kept org a) (h2 : ¬ c → Kept org b) :
    Kept org (if c then a else b) := by
  split
  · exact h1 ‹_›
  · exact h2 ‹_›

theorem kept_ite1 {α : Type} {c : Prop} [Decidable c] {a b : State × α} (h1 : c → Kept org a.1)
    (h2 : ¬ c → Kept org b.1) : Kept org (if c then a else b).1 := by
  split
  · exact h1 ‹_›
  · exact h2 ‹_›

theorem kept_foldl {α : Type} {f : State → α → State} (hf : ∀ t x, Kept org t → Kept org (f t x)) {l : List α} {s : State}
    (h : Kept org s) : Kept org (l.foldl f s) := by
  induction l generalizing s with
  | nil => exact h
  | cons x l ih => exact ih (hf s x h)

theorem kept_foldl1 {α β : Type} {f : State × β → α → State × β} (hf : ∀ t x, Kept org t.1 → Kept org (f t x).1)
    {l : List α} {s : State × β} (h : Kept org s.1) : Kept org (l.foldl f s).1 := by
  induction l generalizing s with
  | nil => exact h
  | cons x l ih => exact ih (hf s x h)

theorem kept_foldlE {ε α : Type} {f : Except ε State → α → Except ε State} (hf : ∀ t x, KeptE org t → KeptE org (f t x))
    {l : List α} {s : Except ε State} (h : KeptE org s) : KeptE org (l.foldl f s) := by
  induction l generalizing s with
  | nil => exact h
  | cons x l ih => exact ih (hf s x h)

/-- An update of any field but the memories, the queue and the clock keeps. -/
theorem kept_upd {s : State} (h : Kept org s) {free out gl parts ctxs seqs cores mem dies xds xcmds ins outs kept cmbs colls rl
    ft sec tags fab msf res err mtr md pwr frameSeq tap late} :
    Kept org (State.mk s.pending s.now free out gl parts ctxs seqs cores s.ls s.uni s.comp mem dies xds xcmds ins outs kept
      cmbs colls rl ft sec tags fab msf res err mtr md pwr frameSeq tap late) := ⟨h.wf, h.pending, h.now⟩

/-! ### Writes of the memories -/

theorem kept_lsWrite {s : State} (h : Kept org s) {a : Nat} {bs : Bytes} : Kept org { s with ls := Memory.write s.ls a bs } :=
  ⟨fun w => by have := h.wf w; simp_all [State.memWf, Memory.wf_write], h.pending, h.now⟩

theorem kept_lsZero {s : State} (h : Kept org s) {a n : Nat} : Kept org { s with ls := Memory.zero s.ls a n } :=
  ⟨fun w => by have := h.wf w; simp_all [State.memWf, Memory.wf_zero], h.pending, h.now⟩

theorem kept_uniWrite {s : State} (h : Kept org s) {a : Nat} {bs : Bytes} : Kept org { s with uni := Memory.write s.uni a bs } :=
  ⟨fun w => by have := h.wf w; simp_all [State.memWf, Memory.wf_write], h.pending, h.now⟩

theorem kept_uniZero {s : State} (h : Kept org s) {a n : Nat} : Kept org { s with uni := Memory.zero s.uni a n } :=
  ⟨fun w => by have := h.wf w; simp_all [State.memWf, Memory.wf_zero], h.pending, h.now⟩

theorem kept_compWrite {s : State} (h : Kept org s) {a : Nat} {bs : Bytes} : Kept org { s with comp := Memory.write s.comp a bs } :=
  ⟨fun w => by have := h.wf w; simp_all [State.memWf, Memory.wf_write], h.pending, h.now⟩

end Sys2Proof.Machine
end

