-- ==== Sys2Proof/Laws/KeptShared.lean ====
section
/-! SUPPORT. What is kept by the shared operations: state, memory, teardown, reports, writes and the issue of a command. -/

set_option linter.unusedTactic false
set_option linter.unreachableTactic false
set_option linter.unusedVariables false

namespace Sys2Proof.Machine

variable {org : State}

/-! ### Ops -/

theorem kept_setPart {s : State} {p : PartI} {x : Part} (hs : Kept org s) : Kept org (setPart s p x) := kept_upd hs

theorem kept_setCtx {s : State} {c : CtxId} {x : Ctx} (hs : Kept org s) : Kept org (setCtx s c x) := kept_upd hs

theorem kept_setSeq {s : State} {c : CtxId} {core : Nat} {x : Seq} (hs : Kept org s) : Kept org (setSeq s c core x) :=
  kept_upd hs

theorem kept_setCore {s : State} {core : Nat} {x : Core} (hs : Kept org s) : Kept org (setCore s core x) := kept_upd hs

theorem kept_setGran {s : State} {g : Nat} {x : Gran} (hs : Kept org s) : Kept org (setGran s g x) := kept_upd hs

theorem kept_setRes {s : State} {p : PartI} {x : ResPart} (hs : Kept org s) : Kept org (setRes s p x) := kept_upd hs

theorem kept_mirror {s : State} {p : PartI} {a : Nat} {bs : Bytes} (hs : Kept org s) : Kept org (mirror s p a bs) := by
  unfold mirror
  repeat' first
    | with_reducible first
      | assumption | apply kept_ite | apply kept_ite1 | fail_if_no_progress apply kept_upd
    | intro _ | split

theorem kept_setPte {s : State} {i : Nat} {x : Pte} (hs : Kept org s) : Kept org (setPte s i x) := by
  unfold setPte
  repeat' with_reducible first
    | assumption | apply kept_mirror | fail_if_no_progress apply kept_upd

theorem kept_setRing {s : State} {p : RlPort} {x : ErrRing} (hs : Kept org s) : Kept org (setRing s p x) := kept_upd hs

theorem kept_setRl {s : State} {p : RlPort} {x : RlPortSt} (hs : Kept org s) : Kept org (setRl s p x) := kept_upd hs

theorem kept_setDie {s : State} {d : CDie} {x : Die} (hs : Kept org s) : Kept org (setDie s d x) := kept_upd hs

theorem kept_setXd {s : State} {x : XDie} {y : XdSt} (hs : Kept org s) : Kept org (setXd s x y) := kept_upd hs

theorem kept_setKey {s : State} {k : Fin 128} {x : KeySlot} (hs : Kept org s) : Kept org (setKey s k x) := kept_upd hs

theorem kept_setQuad {s : State} {q : Nat} {x : QuadPwr} (hs : Kept org s) : Kept org (setQuad s q x) := kept_upd hs

theorem kept_send {s : State} {m : Sent} (hs : Kept org s) : Kept org (send s m) := kept_upd hs

theorem kept_takeFree {s : State} {n : Nat} (hs : Kept org s) : Kept org (takeFree s n) := kept_upd hs

theorem kept_writeLs {s : State} {core a : Nat} {bs : Bytes} (hs : Kept org s) : Kept org (writeLs s core a bs) := by
  unfold writeLs
  apply kept_setCore
  exact kept_lsWrite hs

theorem kept_zeroLs {s : State} {core : Nat} (hs : Kept org s) : Kept org (zeroLs s core) := by
  unfold zeroLs
  apply kept_setCore
  exact kept_lsZero hs

theorem kept_writeComp {s : State} {p : RlPort} {a : Nat} {bs : Bytes} (hs : Kept org s) :
    Kept org (writeComp s p a bs) := by
  unfold writeComp
  split
  · exact kept_compWrite hs
  · exact hs

theorem kept_clearPoison {s : State} {f n : Nat} (hs : Kept org s) : Kept org (clearPoison s f n) := kept_upd hs

theorem kept_setBorrow {s : State} {j : Nat} {x : Borrow} (hs : Kept org s) : Kept org (setBorrow s j x) := kept_upd hs

theorem kept_writeLine {s : State} {f : Nat} {bs : Bytes} {l : Nat} (hs : Kept org s) : Kept org (writeLine s f bs l) := by
  unfold writeLine
  exact kept_uniWrite (s := { s with uni := _ }) (kept_uniWrite hs)

theorem kept_writeFrame {s : State} {f : Nat} {bs : Bytes} (hs : Kept org s) : Kept org (writeFrame s f bs) := by
  unfold writeFrame
  split
  · exact kept_uniWrite hs
  · exact kept_foldl (fun t x h => kept_writeLine h) hs

theorem kept_writePlaces {s : State} {z0 : List (Nat × Nat)} {z1 : Bytes} (hs : Kept org s) :
    Kept org (writePlaces s z0 z1) := by
  induction z0 generalizing s z1 with
  | nil => exact hs
  | cons x l ih =>
    obtain ⟨f, k⟩ := x
    exact ih (kept_clearPoison (kept_writeFrame hs))

/-! ### Lines -/

theorem kept_writeStatus {s : State} {c : CtxId} (hs : Kept org s) : Kept org (writeStatus s c) := by
  unfold writeStatus
  repeat' with_reducible first
    | assumption | apply kept_writeComp | fail_if_no_progress apply kept_upd

theorem kept_writeCpl {s0 : State} {e : Entry} {o : Outcome} (hs0 : Kept org s0) : Kept org (writeCpl s0 e o) := by
  unfold writeCpl
  repeat' first
    | with_reducible first
      | assumption | apply kept_mirror | apply kept_setCtx | apply kept_writeComp | apply kept_writeStatus | apply kept_ite
      | apply kept_ite1 | fail_if_no_progress apply kept_upd
    | intro _ | split | dsimp only

/-! ### Sched -/

theorem kept_beginSwitch {s : State} {p : PartI} {inc : Option CtxI} {high atEnd : Bool} (hs : Kept org s) :
    Kept org (beginSwitch s p inc high atEnd) := kept_upd hs

theorem kept_onGain {s : State} {p : PartI} (hs : Kept org s) : Kept org (onGain s p) := by
  unfold onGain
  repeat' first
    | with_reducible first
      | assumption | apply kept_beginSwitch | apply kept_ite | apply kept_ite1 | fail_if_no_progress apply kept_upd
    | intro _ | split | dsimp only

theorem kept_onLose {s : State} {p : PartI} (hs : Kept org s) : Kept org (onLose s p) := by
  unfold onLose
  repeat' first
    | with_reducible first
      | assumption | apply kept_beginSwitch | apply kept_ite | apply kept_ite1 | fail_if_no_progress apply kept_upd
    | intro _ | split | dsimp only

theorem kept_raiseVt {s : State} {c : CtxId} (hs : Kept org s) : Kept org (raiseVt s c) := by
  unfold raiseVt
  repeat' first
    | with_reducible first
      | assumption | apply kept_setCtx | apply kept_ite | apply kept_ite1 | fail_if_no_progress apply kept_upd
    | intro _ | split | dsimp only

theorem kept_regainWork {s : State} {c : CtxId} (hs : Kept org s) : Kept org (regainWork s c) := by
  unfold regainWork
  repeat' with_reducible first
    | assumption | apply kept_raiseVt | apply kept_setCtx | fail_if_no_progress apply kept_upd

theorem kept_regainAt {s : State} {core : Nat} (hs : Kept org s) : Kept org (regainAt s core) := by
  unfold regainAt
  repeat' first
    | with_reducible first
      | assumption | apply kept_onGain | apply kept_regainWork | fail_if_no_progress apply kept_upd | apply kept_foldl
    | intro _ | split | dsimp only

/-! ### Fabric -/

theorem kept_setFp {s : State} {p : Nat} {x : FPortSt} (hs : Kept org s) : Kept org (setFp s p x) := kept_upd hs

theorem kept_beginBlocks {s : State} {p n fill : Nat} {pkts : List Packet} (hs : Kept org s) :
    Kept org (beginBlocks s p n fill pkts) := by
  unfold beginBlocks
  repeat' first
    | with_reducible first
      | assumption | apply kept_send | apply kept_setFp | apply kept_ite | apply kept_ite1
      | fail_if_no_progress apply kept_upd | apply kept_foldl
    | intro _ | split | dsimp only

theorem kept_leave {s : State} {p : Nat} {k0 : Packet} (hs : Kept org s) : Kept org (leave s p k0) := by
  unfold leave
  repeat' first
    | with_reducible first
      | assumption | apply kept_setFp | apply kept_beginBlocks | apply kept_send | apply kept_ite | apply kept_ite1
      | fail_if_no_progress apply kept_upd
    | intro _ | split | dsimp only

theorem kept_giveCredit {s : State} {fp : Option Nat} {net vc : Fin 2} {slots : Nat} (hs : Kept org s) :
    Kept org (giveCredit s fp net vc slots) := by
  unfold giveCredit
  repeat' first
    | with_reducible first
      | assumption | apply kept_send | fail_if_no_progress apply kept_upd
    | split

theorem kept_forward {s : State} {credit via : Option Nat} {k : Packet} (hs : Kept org s) :
    Kept org (forward s credit via k) := by
  unfold forward
  repeat' first
    | with_reducible first
      | assumption | apply kept_giveCredit | apply kept_leave | apply kept_ite | apply kept_ite1
      | fail_if_no_progress apply kept_upd
    | intro _ | split | dsimp only

theorem kept_sendPkt {s : State} {k : Packet} (hs : Kept org s) : Kept org (sendPkt s k) := by
  unfold sendPkt
  repeat' first
    | with_reducible first
      | assumption | apply kept_forward | apply kept_ite | apply kept_ite1 | fail_if_no_progress apply kept_upd
    | intro _ | split

theorem kept_sendCtl {s : State} {jtag : BitVec 16} {unit : BitVec 4} {reply : Bool} {dst : Coord} {plane : XDie}
    {body : Bytes}
    (hs : Kept org s) :
    Kept org (sendCtl s jtag unit reply dst plane body) := by
  unfold sendCtl
  repeat' first
    | with_reducible first
      | assumption | apply kept_sendPkt | apply kept_ite1 | fail_if_no_progress apply kept_upd
    | intro _ | split

theorem kept_sendCMsg {s : State} {h : CHdr} {dst : Coord} {m : CMsg} (hs : Kept org s) :
    Kept org (sendCMsg s h dst m) := by
  unfold sendCMsg
  repeat' first
    | with_reducible first
      | assumption | apply kept_sendCtl | fail_if_no_progress apply kept_upd
    | split

theorem kept_sendFab {s : State} {dst : Coord} {plane : XDie} {m : FabMsg} (hs : Kept org s) :
    Kept org (sendFab s dst plane m) := by
  unfold sendFab
  repeat' with_reducible first
    | assumption | apply kept_sendCtl | fail_if_no_progress apply kept_upd

/-! ### Cells -/

theorem kept_setLink {s : State} {die : XDie} {ptr next : BitVec 32} (hs : Kept org s) :
    Kept org (setLink s die ptr next) := by
  unfold setLink
  dsimp only
  split
  · exact kept_setXd hs
  · exact kept_uniWrite hs

theorem kept_linkCells {s : State} {die : XDie} {z0 : List (BitVec 32)} (hs : Kept org s) :
    Kept org (linkCells s die z0) := by
  induction z0 generalizing s with
  | nil => exact hs
  | cons p l ih =>
    cases l with
    | nil => exact kept_setLink hs
    | cons q t => exact ih (kept_setLink hs)

theorem kept_newChain {s : State} {die : XDie} {cid : CtxId} {cells : List CellRun} {mode : ChainMode} (hs : Kept org s) :
    KeptM2 org (newChain s die cid cells mode) := by
  unfold newChain
  repeat' first
    | with_reducible first
      | assumption | apply kept_linkCells | apply kept_setXd | fail_if_no_progress apply kept_upd | apply kept_some2
      | apply kept_none2
    | split | dsimp only

theorem kept_freeChain {s : State} {die : XDie} {h : Chain} (hs : Kept org s) : Kept org (freeChain s die h).1 := kept_upd hs

theorem kept_spillData {s : State} {x : XdSt} {z0 : List CellRun} {z1 : Nat} {z2 : Bytes} (hs : Kept org s) :
    Kept org (spillData s x z0 z1 z2) := by
  induction z0 generalizing s z1 z2 with
  | nil => exact hs
  | cons r l ih =>
    unfold spillData
    dsimp only
    split
    · exact ih hs
    · refine ih ?_
      split
      · exact hs
      · exact kept_uniWrite hs

/-! ### Teardown -/

theorem kept_endResidencyAt {s : State} {p : PartI} {stop : Nat} (hs : Kept org s) :
    Kept org (endResidencyAt s p stop) := by
  unfold endResidencyAt
  repeat' first
    | with_reducible first
      | assumption | apply kept_setPart | apply kept_setCtx | fail_if_no_progress apply kept_upd
    | split | dsimp only

theorem kept_endResidency {s : State} {p : PartI} (hs : Kept org s) : Kept org (endResidency s p) := by
  unfold endResidency
  repeat' with_reducible first
    | assumption | apply kept_endResidencyAt | fail_if_no_progress apply kept_upd

theorem kept_dropTag {s : State} {jtag : BitVec 16} (hs : Kept org s) : Kept org (dropTag s jtag) := by
  unfold dropTag
  repeat' first
    | with_reducible first
      | assumption | apply kept_giveCredit | fail_if_no_progress apply kept_upd | apply kept_foldl
    | intro _ | dsimp only

theorem kept_retireBind {s : State} {i : Nat} (hs : Kept org s) : Kept org (retireBind s i) := by
  unfold retireBind
  repeat' first
    | with_reducible first
      | assumption | apply kept_mirror | apply kept_dropTag | apply kept_ite | apply kept_ite1
      | fail_if_no_progress apply kept_upd
    | intro _ | split | dsimp only

theorem kept_mapDies {s : State} {f : Die → Die} (hs : Kept org s) : Kept org (mapDies s f) := kept_upd hs

theorem kept_withdrawOpenings {s : State} {c : CtxId} (hs : Kept org s) : Kept org (withdrawOpenings s c) := kept_upd hs

theorem kept_rejoinOpenings {s : State} {c : CtxId} (hs : Kept org s) : Kept org (rejoinOpenings s c) := kept_upd hs

theorem kept_clearPool {c : CtxId} {s : State} {die : XDie} (hs : Kept org s) : Kept org (clearPool c s die) := by
  unfold clearPool
  repeat' first
    | with_reducible first
      | assumption | apply kept_setXd | apply kept_freeChain | fail_if_no_progress apply kept_upd | apply kept_foldl
      | apply kept_foldl1
    | intro _ | dsimp only

theorem kept_clearExchange {c : CtxId} {s : State} (hs : Kept org s) : Kept org (clearExchange c s) := by
  unfold clearExchange
  repeat' with_reducible first
    | assumption | apply kept_clearPool | fail_if_no_progress apply kept_upd

theorem kept_endColl {s : State} {k : Coll} (hs : Kept org s) : Kept org (endColl s k) := by
  unfold endColl
  repeat' first
    | with_reducible first
      | assumption | apply kept_sendCMsg | apply kept_setXd | apply kept_ite | apply kept_ite1
      | fail_if_no_progress apply kept_upd | apply kept_foldl
    | intro _ | split | dsimp only

theorem kept_clearColls {c : CtxId} {s : State} (hs : Kept org s) : Kept org (clearColls c s) := by
  unfold clearColls
  repeat' with_reducible first
    | assumption | apply kept_endColl | fail_if_no_progress apply kept_upd | apply kept_foldl

theorem kept_clearMigs {c : CtxId} {s : State} (hs : Kept org s) : Kept org (clearMigs c s) := by
  unfold clearMigs
  repeat' first
    | with_reducible first
      | assumption | apply kept_setPte | fail_if_no_progress apply kept_upd | apply kept_foldl
    | intro _ | dsimp only

theorem kept_clearMsf {c : CtxId} {s : State} (hs : Kept org s) : Kept org (clearMsf c s) := kept_upd hs

theorem kept_stopUnits {s : State} {c : CtxId} (hs : Kept org s) : Kept org (stopUnits s c) := by
  unfold stopUnits
  repeat' with_reducible first
    | assumption | apply kept_clearMsf | apply kept_clearMigs | apply kept_clearColls | apply kept_clearExchange
    | apply kept_mapDies | fail_if_no_progress apply kept_upd

theorem kept_clearSeqs {s : State} {c : CtxId} (hs : Kept org s) : Kept org (clearSeqs s c) := kept_upd hs

theorem kept_teardownCtx {s : State} {c : CtxId} (hs : Kept org s) : Kept org (teardownCtx s c) := by
  unfold teardownCtx
  repeat' first
    | with_reducible first
      | assumption | apply kept_writeStatus | apply kept_setCtx | apply kept_retireBind | apply kept_stopUnits
      | apply kept_endResidency | apply kept_zeroLs | apply kept_setPart | apply kept_clearSeqs | apply kept_mirror
      | apply kept_ite | apply kept_ite1 | fail_if_no_progress apply kept_upd | apply kept_foldl
    | intro _ | split | dsimp only

theorem kept_teardownAll {s : State} {p : PartI} (hs : Kept org s) : Kept org (teardownAll s p) := by
  unfold teardownAll
  repeat' first
    | with_reducible first
      | assumption | apply kept_teardownCtx | fail_if_no_progress apply kept_upd | apply kept_foldl
    | intro _ | dsimp only

/-! ### Report -/

theorem kept_ringWrite {s : State} {p : RlPort} {r : ErrRec} (hs : Kept org s) : Kept org (ringWrite s p r) := by
  unfold ringWrite
  repeat' with_reducible first
    | assumption | apply kept_writeComp | apply kept_setRing | fail_if_no_progress apply kept_upd

theorem kept_ringDrop {s : State} {p : RlPort} {cls : Fin 5} {n : Nat} (hs : Kept org s) :
    Kept org (ringDrop s p cls n) := kept_upd hs

theorem kept_ringOffer {s : State} {p : RlPort} {r : ErrRec} (hs : Kept org s) : Kept org (ringOffer s p r) := by
  unfold ringOffer
  repeat' first
    | with_reducible first
      | assumption | apply kept_ringWrite | apply kept_ringDrop | apply kept_ite | apply kept_ite1
      | fail_if_no_progress apply kept_upd
    | intro _ | split

theorem kept_ringFatal {s : State} {p : RlPort} {r : ErrRec} (hs : Kept org s) : Kept org (ringFatal s p r) := by
  unfold ringFatal
  repeat' first
    | with_reducible first
      | assumption | apply kept_ringWrite | apply kept_setRing | apply kept_ite | apply kept_ite1
      | fail_if_no_progress apply kept_upd
    | intro _ | split

theorem kept_ringDrain {z0 : Nat} {z1 : State} {z2 : RlPort} (hz1 : Kept org z1) : Kept org (ringDrain z0 z1 z2) := by
  induction z0 generalizing z1 with
  | zero => exact hz1
  | succ n ih =>
    unfold ringDrain
    split
    · exact hz1
    · split
      · exact ih (kept_ringWrite (kept_setRing hz1))
      · exact hz1

theorem kept_coalClose {s : State} {p : RlPort} {c : Coal} (hs : Kept org s) : Kept org (coalClose s p c) := by
  unfold coalClose
  repeat' first
    | with_reducible first
      | assumption | apply kept_setRing | apply kept_ringOffer | apply kept_ite | apply kept_ite1
      | fail_if_no_progress apply kept_upd
    | intro _ | split | dsimp only

theorem kept_coalExpire {s : State} {p : RlPort} (hs : Kept org s) : Kept org (coalExpire s p) := by
  unfold coalExpire
  repeat' first
    | with_reducible first
      | assumption | apply kept_coalClose | fail_if_no_progress apply kept_upd | apply kept_foldl
    | intro _ | dsimp only

theorem kept_ringReport {s0 : State} {p : RlPort} {r : ErrRec} (hs0 : Kept org s0) : Kept org (ringReport s0 p r) := by
  unfold ringReport
  repeat' first
    | with_reducible first
      | assumption | apply kept_coalExpire | apply kept_ringFatal | apply kept_setRing | apply kept_ringDrop
      | apply kept_ringOffer | apply kept_ite | apply kept_ite1 | fail_if_no_progress apply kept_upd
    | intro _ | split | dsimp only

theorem kept_toRings {s : State} {r : Report} (hs : Kept org s) : Kept org (toRings s r) := by
  unfold toRings
  repeat' first
    | with_reducible first
      | assumption | apply kept_ringReport | fail_if_no_progress apply kept_upd | apply kept_foldl
    | intro _ | dsimp only

theorem kept_toSecondary {s : State} {r : Report} (hs : Kept org s) : Kept org (toSecondary s r) := by
  unfold toSecondary
  repeat' first
    | with_reducible first
      | assumption | apply kept_setRing | fail_if_no_progress apply kept_upd | apply kept_foldl
    | intro _ | dsimp only

theorem kept_faultCtx {s : State} {c : CtxId} {code : BitVec 16} {rej : Option (BitVec 32)} (hs : Kept org s) :
    Kept org (faultCtx s c code rej) := by
  unfold faultCtx
  repeat' first
    | with_reducible first
      | assumption | apply kept_bringup | apply kept_setCtx | apply kept_onLose | apply kept_writeStatus | apply kept_ite
      | apply kept_ite1 | fail_if_no_progress apply kept_upd
    | intro _ | split | dsimp only

theorem kept_faultPart {s : State} {p : PartI} (hs : Kept org s) : Kept org (faultPart s p) := by
  unfold faultPart
  repeat' with_reducible first
    | assumption | apply kept_setPart | apply kept_teardownAll | fail_if_no_progress apply kept_upd

theorem kept_stopDevice {s : State} {code : BitVec 16} (hs : Kept org s) : Kept org (stopDevice s code) := by
  unfold stopDevice
  repeat' first
    | with_reducible first
      | assumption | apply kept_send | apply kept_ite | apply kept_ite1 | fail_if_no_progress apply kept_upd
    | intro _ | split

theorem kept_reportReal {s0 : State} {r : Report} {rej : Option (BitVec 32)} (hs0 : Kept org s0) :
    Kept org (reportReal s0 r rej) := by
  unfold reportReal
  repeat' first
    | with_reducible first
      | assumption | apply kept_toSecondary | apply kept_faultCtx | apply kept_toRings | apply kept_setCtx
      | apply kept_faultPart | apply kept_setPart | apply kept_stopDevice | apply kept_ite | apply kept_ite1
      | fail_if_no_progress apply kept_upd
    | intro _ | split | dsimp only

theorem kept_reportRej {s : State} {r : Report} {rej : Option (BitVec 32)} (hs : Kept org s) :
    Kept org (reportRej s r rej) := by
  unfold reportRej
  repeat' first
    | with_reducible first
      | assumption | apply kept_reportReal | apply kept_ite | apply kept_ite1 | fail_if_no_progress apply kept_upd
    | intro _ | split

theorem kept_report {s : State} {r : Report} (hs : Kept org s) : Kept org (report s r) := by
  unfold report
  repeat' with_reducible first
    | assumption | apply kept_reportRej | fail_if_no_progress apply kept_upd

/-! ### FabData -/

theorem kept_badCoord {s : State} (hs : Kept org s) : Kept org (badCoord s) := by
  unfold badCoord
  repeat' with_reducible first
    | assumption | apply kept_report | fail_if_no_progress apply kept_upd

theorem kept_sendData {s : State} {c : CtxId} {dst : Coord} {plane : XDie} {h : DataHead} {offset : Nat} {last : Bool}
    {body : Bytes}
    (hs : Kept org s) :
    Kept org (sendData s c dst plane h offset last body) := by
  unfold sendData
  repeat' first
    | with_reducible first
      | assumption | apply kept_sendPkt | apply kept_ite | apply kept_ite1 | fail_if_no_progress apply kept_upd
    | intro _ | split | dsimp only

theorem kept_sendRun {s : State} {c : CtxId} {dst : Coord} {plane : XDie} {h : DataHead} {offset : Nat} {closes : Bool}
    {bytes : Bytes}
    (hs : Kept org s) :
    Kept org (sendRun s c dst plane h offset closes bytes) := by
  unfold sendRun
  repeat' first
    | with_reducible first
      | assumption | apply kept_report | apply kept_sendData | fail_if_no_progress apply kept_upd | apply kept_foldl
      | apply kept_foldl1
    | intro _ | split | dsimp only

/-! ### UniWrite -/

theorem kept_keepBytes {s : State} {p : PartI} {a : Nat} {bs : Bytes} (hs : Kept org s) :
    Kept org (keepBytes s p a bs) := by
  unfold keepBytes
  repeat' first
    | with_reducible first
      | assumption | apply kept_writePlaces | fail_if_no_progress apply kept_upd
    | split

theorem kept_poolWrite {s : State} {p : PartI} {slot : Nat} {bs : Bytes} (hs : Kept org s) :
    Kept org (poolWrite s p slot bs) := by
  unfold poolWrite
  repeat' with_reducible first
    | assumption | apply kept_keepBytes | fail_if_no_progress apply kept_upd

theorem kept_sendResync {s : State} {p : PartI} {k : Nat} (hs : Kept org s) : Kept org (sendResync s p k) := by
  unfold sendResync
  repeat' first
    | with_reducible first
      | assumption | apply kept_send | fail_if_no_progress apply kept_upd | apply kept_foldl
    | intro _ | dsimp only

theorem kept_tellStandby {s : State} {p : PartI} {k : Nat} (hs : Kept org s) : Kept org (tellStandby s p k) := by
  unfold tellStandby
  repeat' first
    | with_reducible first
      | assumption | apply kept_send | apply kept_ite | apply kept_ite1 | fail_if_no_progress apply kept_upd
    | intro _ | split

theorem kept_touchPiece {s : State} {p : PartI} {k : Nat} (hs : Kept org s) : Kept org (touchPiece s p k) := by
  unfold touchPiece
  repeat' first
    | with_reducible first
      | assumption | apply kept_setRes | apply kept_tellStandby | apply kept_poolWrite | apply kept_report
      | apply kept_sendResync | apply kept_ite | apply kept_ite1 | fail_if_no_progress apply kept_upd
    | intro _ | split | dsimp only

theorem kept_protectWrite {s : State} {p : PartI} {a : Nat} {bs : Bytes} (hs : Kept org s) :
    Kept org (protectWrite s p a bs) := by
  unfold protectWrite
  repeat' first
    | with_reducible first
      | assumption | apply kept_touchPiece | apply kept_send | apply kept_ite | apply kept_ite1
      | fail_if_no_progress apply kept_upd | apply kept_foldl
    | intro _ | split | dsimp only

theorem kept_protectRun {z0 : Nat} {z1 : State} {z2 : PartI} {z3 : Nat} {z4 : Bytes} (hz1 : Kept org z1) :
    Kept org (protectRun z0 z1 z2 z3 z4) := by
  induction z0 generalizing z1 z3 z4 with
  | zero => exact hz1
  | succ n ih =>
    unfold protectRun
    split
    · exact hz1
    · exact ih (kept_protectWrite hz1)

theorem kept_toHolder {s : State} {h line : Nat} {m : MsfMsg} (hs : Kept org s) : Kept org (toHolder s h line m) := by
  unfold toHolder
  repeat' first
    | with_reducible first
      | assumption | apply kept_sendCtl | apply kept_send | apply kept_ite | apply kept_ite1
      | fail_if_no_progress apply kept_upd
    | intro _ | split

theorem kept_dirLocalWrite {s : State} {a n : Nat} (hs : Kept org s) : Kept org (dirLocalWrite s a n) := by
  unfold dirLocalWrite
  repeat' first
    | with_reducible first
      | assumption | apply kept_toHolder | apply kept_ite | apply kept_ite1 | fail_if_no_progress apply kept_upd
      | apply kept_foldl
    | intro _ | split | dsimp only

theorem kept_writeHome {s : State} {p : PartI} {a : Nat} {bs : Bytes} (hs : Kept org s) :
    KeptE org (writeHome s p a bs) := by
  unfold writeHome
  repeat' first
    | with_reducible first
      | assumption | apply kept_writePlaces | apply kept_protectRun | fail_if_no_progress apply kept_upd | apply kept_ok
      | apply kept_err
    | split

theorem kept_writeUni {s : State} {p : PartI} {a : Nat} {bs : Bytes} (hs : Kept org s) : KeptE org (writeUni s p a bs) := by
  unfold writeUni
  repeat' first
    | with_reducible first
      | assumption | apply kept_writeHome | apply kept_dirLocalWrite | apply kept_ite | fail_if_no_progress apply kept_upd
      | apply kept_ok | apply kept_err
    | intro _ | refine kept_of_ok (by with_reducible assumption) ?_ | refine kept_fst (by with_reducible assumption) ?_
    | split

theorem kept_havocUni {s : State} {p : PartI} {a n : Nat} (hs : Kept org s) : Kept org (havocUni s p a n) := by
  unfold havocUni
  repeat' first
    | with_reducible first
      | assumption | apply kept_writeHome | apply kept_takeFree | apply kept_dirLocalWrite
      | fail_if_no_progress apply kept_upd
    | refine kept_of_ok (by with_reducible assumption) ?_ | refine kept_fst (by with_reducible assumption) ?_ | split

theorem kept_havocLs {s : State} {core a n : Nat} (hs : Kept org s) : Kept org (havocLs s core a n) := by
  unfold havocLs
  repeat' with_reducible first
    | assumption | apply kept_writeLs | apply kept_takeFree | fail_if_no_progress apply kept_upd

/-! ### Issue -/

theorem kept_retain {s : State} {e : Entry} (hs : Kept org s) : Kept org (retain s e) := by
  unfold retain
  repeat' first
    | with_reducible first
      | assumption | apply kept_setCtx | apply kept_mirror | apply kept_setRes | apply kept_report | apply kept_ite
      | apply kept_ite1 | fail_if_no_progress apply kept_upd
    | intro _ | split | dsimp only

theorem kept_countConflicts {s : State} {core : Nat} {f : InFlight} (hs : Kept org s) :
    Kept org (countConflicts s core f) := by
  unfold countConflicts
  repeat' first
    | with_reducible first
      | assumption | apply kept_setCore | apply kept_takeFree | apply kept_report | apply kept_ite | apply kept_ite1
      | fail_if_no_progress apply kept_upd
    | intro _ | split | dsimp only

theorem kept_leaveSeq {s : State} {core : Nat} {e : Entry} (hs : Kept org s) : Kept org (leaveSeq s core e) := kept_upd hs

theorem kept_finish {s : State} {core : Nat} {e : Entry} (hs : Kept org s) : Kept org (finish s core e) := by
  unfold finish
  repeat' first
    | with_reducible first
      | assumption | apply kept_setSeq | apply kept_leaveSeq | apply kept_countConflicts | apply kept_writeCpl
      | apply kept_onLose | apply kept_retain | apply kept_ite | apply kept_ite1 | fail_if_no_progress apply kept_upd
    | intro _ | split | dsimp only

theorem kept_endCmd {s : State} {core : Nat} {e : Entry} {o : Outcome} (hs : Kept org s) :
    Kept org (endCmd s core e o) := kept_upd hs

theorem kept_faultCmd {s : State} {core : Nat} {e : Entry} {unit : BitVec 7} {inst : Nat} {err : OpErr} (hs : Kept org s) :
    Kept org (faultCmd s core e unit inst err) := by
  unfold faultCmd
  repeat' with_reducible first
    | assumption | apply kept_endCmd | apply kept_report | fail_if_no_progress apply kept_upd

theorem kept_rejectCmd {s : State} {core : Nat} {e : Entry} {err : OpErr} (hs : Kept org s) :
    Kept org (rejectCmd s core e err) := by
  unfold rejectCmd
  repeat' first
    | with_reducible first
      | assumption | apply kept_setSeq | apply kept_reportRej | apply kept_finish | apply kept_ite | apply kept_ite1
      | fail_if_no_progress apply kept_upd
    | intro _ | split | dsimp only

theorem kept_reportLate {s : State} {core : Nat} {z0 : Option Entry} (hs : Kept org s) :
    Kept org (reportLate s core z0) := by
  unfold reportLate
  repeat' first
    | with_reducible first
      | assumption | apply kept_report | apply kept_ite | apply kept_ite1 | fail_if_no_progress apply kept_upd
    | intro _ | split | dsimp only

theorem kept_putInFlight {s : State} {core : Nat} {e : Entry} {ranges : List Range} {due : Due} (hs : Kept org s) :
    Kept org (putInFlight s core e ranges due) := by
  unfold putInFlight
  repeat' with_reducible first
    | assumption | apply kept_reportLate | apply kept_setSeq | fail_if_no_progress apply kept_upd

theorem kept_settleEnd {s : State} {core : Nat} {e : Entry} {z0 : Ended} (hs : Kept org s) :
    Kept org (settleEnd s core e z0) := by
  unfold settleEnd
  repeat' first
      | with_reducible first
        | assumption | apply kept_endCmd | apply kept_finish | apply kept_ite | apply kept_ite1
        | fail_if_no_progress apply kept_upd | apply kept_foldl | apply kept_foldl1 | apply kept_foldlE | apply kept_next
        | apply kept_ok | apply kept_err | apply kept_ok2 | apply kept_err2 | apply kept_some | apply kept_none
        | apply kept_some2 | apply kept_none2
      | intro _ | refine kept_of_ok (by with_reducible assumption) ?_ | refine kept_fst (by with_reducible assumption) ?_
      | refine kept_of_ok2 (by with_reducible assumption) ?_ | refine kept_of_ok2' (by with_reducible assumption) ?_
      | refine kept_of_some (by with_reducible assumption) ?_ | refine kept_of_some2 (by with_reducible assumption) ?_
      | refine kept_of_some2' (by with_reducible assumption) ?_ | refine kept_get (by with_reducible assumption) | split
      | dsimp only | with_reducible apply_assumption

theorem kept_issueGo {s : State} {core : Nat} {e : Entry} {ranges : List Range} {due : Due} {skip : State → State}
    {run : State → State × Ended}
    (hs : Kept org s) (hskip : (∀ t, Kept org t → Kept org (skip t))) (hrun : (∀ t, Kept org t → Kept org (run t).1)) :
    Kept org (issueGo s core e ranges due skip run) := by
  unfold issueGo
  repeat' first
    | with_reducible first
      | assumption | apply hskip | apply hrun | apply kept_setSeq | apply kept_rejectCmd | apply kept_report
      | apply kept_putInFlight | apply kept_settleEnd | apply kept_ite | apply kept_ite1
      | fail_if_no_progress apply kept_upd
    | intro _ | split | dsimp only

theorem kept_issueAt {s : State} {e : Entry} {r : OpRow} (hs : Kept org s) (hr : KeptRow org r) :
    Kept org (issueAt s e r) := by
  unfold issueAt
  split
  · exact hs
  split
  · exact hs
  split
  · exact kept_rejectCmd hs
  split
  · exact kept_rejectCmd hs
  split
  · exact kept_rejectCmd hs
  · exact hs
  · exact kept_issueGo hs (fun t h => hr.1 t _ h) (fun t h => hr.2 t _ h)

theorem kept_startRecall {s : State} {e : DirEnt} {keep : Bool} (hs : Kept org s) : Kept org (startRecall s e keep) := by
  unfold startRecall
  repeat' first
    | with_reducible first
      | assumption | apply kept_toHolder | apply kept_ite | apply kept_ite1 | fail_if_no_progress apply kept_upd
      | apply kept_foldl
    | intro _ | split | dsimp only

theorem kept_onlyLine {s : State} {l : Nat} (hs : Kept org s) : Kept org (onlyLine s l) := kept_upd hs

theorem kept_onlyPiece {s : State} {k : Nat} (hs : Kept org s) : Kept org (onlyPiece s k) := kept_upd hs

theorem kept_askBack {s : State} {ls : List (DirEnt × Bool)} {ks : List Nat} (hs : Kept org s) :
    Kept org (askBack s ls ks) := by
  unfold askBack
  repeat' first
    | with_reducible first
      | assumption | apply kept_startRecall | apply kept_send | apply kept_ite | apply kept_ite1
      | fail_if_no_progress apply kept_upd | apply kept_foldl | apply kept_foldl1
    | intro _ | split | dsimp only

theorem kept_coherentOr {held : State → List Nat → List Nat → State} {f : State → State} {s : State}
    (hheld : (∀ t l m, Kept org t → Kept org (held t l m))) (hf : (∀ t, Kept org t → Kept org (f t))) (hs : Kept org s) :
    Kept org (coherentOr held f s) := by
  unfold coherentOr
  split
  · exact hf _ hs
  · dsimp only
    split
    · exact hheld _ _ _ (kept_askBack hs)
    · exact kept_upd (hf _ (kept_upd hs))

theorem kept_coherent {f : State → State} {s : State} (hf : (∀ t, Kept org t → Kept org (f t))) (hs : Kept org s) :
    Kept org (coherent f s) := by
  unfold coherent
  repeat' first
    | with_reducible first
      | assumption | apply hf | apply kept_coherentOr | fail_if_no_progress apply kept_upd
    | intro _ | dsimp only

theorem kept_coherentLate {c : Instr} {f : State → State} {s : State}
    (hf : (∀ t, Kept org t → Kept org (f t))) (hs : Kept org s) :
    Kept org (coherentLate c f s) := by
  unfold coherentLate
  repeat' first
    | with_reducible first
      | assumption | apply hf | apply kept_coherentOr | fail_if_no_progress apply kept_upd
    | intro _ | dsimp only

theorem kept_issueCmd {s : State} {e : Entry} {r : OpRow} (hs : Kept org s) (hr : KeptRow org r) :
    Kept org (issueCmd s e r) := by
  unfold issueCmd
  exact kept_coherent (fun t h => kept_issueAt h hr) hs

theorem kept_deferAt {s : State} {core : Nat} {f : InFlight} {run : State → Nat → State × Ended}
    (hs : Kept org s) (hrun : (∀ t k, Kept org t → Kept org (run t k).1)) :
    Kept org (deferAt s core f run) := by
  unfold deferAt
  repeat' first
    | with_reducible first
      | assumption | apply hrun | apply kept_settleEnd | apply kept_ite | apply kept_ite1
      | fail_if_no_progress apply kept_upd
    | intro _ | split | dsimp only

theorem kept_runDeferred {s : State} {core : Nat} {f : InFlight} {run : State → Nat → State × Ended}
    (hs : Kept org s) (hrun : (∀ t k, Kept org t → Kept org (run t k).1)) :
    Kept org (runDeferred s core f run) := by
  unfold runDeferred
  repeat' first
    | with_reducible first
      | assumption | apply hrun | apply kept_coherent | apply kept_deferAt | fail_if_no_progress apply kept_upd
    | intro _ | dsimp only

end Sys2Proof.Machine
end

