-- ==== Sys2Proof/Laws/KeptLinks.lean ====
section
/-! SUPPORT. What is kept by synchronisation, semaphores, packets, ports, keys, power, boot and Fabric Time. -/

set_option linter.unusedTactic false
set_option linter.unreachableTactic false
set_option linter.unusedVariables false

namespace Sys2Proof.Machine

variable {org : State}

/-! ### Sync -/

theorem kept_endBlock {s : State} {core : Nat} {e : Entry} {o : Outcome} (hs : Kept org s) :
    Kept org (endBlock s core e o) := by
  unfold endBlock
  repeat' with_reducible first
    | assumption | apply kept_finish | apply kept_setSeq | apply kept_ite | apply kept_ite1
    | fail_if_no_progress apply kept_upd

theorem kept_setSlot {s : State} {c : CtxId} {core i : Nat} {t : Slot} (hs : Kept org s) :
    Kept org (setSlot s c core i t) := kept_upd hs

theorem kept_takeList {s : State} {core : Nat} {e : Entry} (hs : Kept org s) : Kept org (takeList s core e) := by
  unfold takeList
  repeat' first
    | with_reducible first
      | assumption | apply kept_endBlock | apply kept_report | apply kept_setCtx | apply kept_setSeq | apply kept_ite
      | apply kept_ite1 | fail_if_no_progress apply kept_upd
    | intro _ | split | dsimp only

theorem kept_claimSlot {s : State} {core : Nat} {b : Blocked} (hs : Kept org s) : Kept org (claimSlot s core b) := by
  unfold claimSlot
  repeat' first
    | with_reducible first
      | assumption | apply kept_setSlot | fail_if_no_progress apply kept_upd
    | split | dsimp only

theorem kept_keepTimed {s : State} {core : Nat} {e : Entry} (hs : Kept org s) : Kept org (keepTimed s core e) := kept_upd hs

theorem kept_passBlock {s : State} {core : Nat} {b : Blocked} (hs : Kept org s) : Kept org (passBlock s core b) := by
  unfold passBlock
  repeat' first
    | with_reducible first
      | assumption | apply kept_takeList | apply kept_endBlock | apply kept_keepTimed | apply kept_claimSlot
      | fail_if_no_progress apply kept_upd
    | split

theorem kept_tryBlock {s : State} {core : Nat} {b : Blocked} (hs : Kept org s) : Kept org (tryBlock s core b) := by
  unfold tryBlock
  repeat' first
    | with_reducible first
      | assumption | apply kept_endBlock | apply kept_report | apply kept_passBlock | apply kept_ite | apply kept_ite1
      | fail_if_no_progress apply kept_upd
    | intro _ | split | dsimp only

theorem kept_listIssued {s : State} {c : CtxId} {core : Nat} (hs : Kept org s) : Kept org (listIssued s c core) := by
  unfold listIssued
  repeat' first
    | with_reducible first
      | assumption | apply kept_finish | apply kept_setSeq | apply kept_ite | apply kept_ite1
      | fail_if_no_progress apply kept_upd
    | intro _ | split | dsimp only

theorem kept_startBlock {kind : BlockKind} {e : Entry} {s : State} {core : Nat} (hs : Kept org s) :
    Kept org (startBlock kind e s core).1 := by
  unfold startBlock
  repeat' with_reducible first
    | assumption | apply kept_tryBlock | apply kept_listIssued | apply kept_setSeq | fail_if_no_progress apply kept_upd

theorem kept_execOpWaitSlotFull {e : Entry} {s : State} (hs : Kept org s) : KeptO org (execOpWaitSlotFull e s) := by
  unfold execOpWaitSlotFull
  apply kept_next
  apply kept_issueCmd hs
  refine ⟨fun t c h => ?_, fun t c h => ?_⟩ <;> dsimp only [waitRow]
  all_goals repeat' with_reducible first
    | assumption | apply kept_issueCmd | apply kept_startBlock | fail_if_no_progress apply kept_upd

theorem kept_execOpWaitSlotEmpty {e : Entry} {s : State} (hs : Kept org s) : KeptO org (execOpWaitSlotEmpty e s) := by
  unfold execOpWaitSlotEmpty
  apply kept_next
  apply kept_issueCmd hs
  refine ⟨fun t c h => ?_, fun t c h => ?_⟩ <;> dsimp only [waitRow]
  all_goals repeat' with_reducible first
    | assumption | apply kept_issueCmd | apply kept_startBlock | fail_if_no_progress apply kept_upd

theorem kept_execOpWaitEvent {e : Entry} {s : State} (hs : Kept org s) : KeptO org (execOpWaitEvent e s) := by
  unfold execOpWaitEvent
  apply kept_next
  apply kept_issueCmd hs
  refine ⟨fun t c h => ?_, fun t c h => ?_⟩ <;> dsimp only [waitRow]
  all_goals repeat' with_reducible first
    | assumption | apply kept_issueCmd | apply kept_startBlock | fail_if_no_progress apply kept_upd

theorem kept_execOpWaitMemory {e : Entry} {s : State} (hs : Kept org s) : KeptO org (execOpWaitMemory e s) := by
  unfold execOpWaitMemory
  apply kept_next
  apply kept_issueCmd hs
  refine ⟨fun t c h => ?_, fun t c h => ?_⟩ <;> dsimp only [waitRow]
  all_goals repeat' with_reducible first
    | assumption | apply kept_issueCmd | apply kept_startBlock | fail_if_no_progress apply kept_upd

theorem kept_execOpWaitPlan {e : Entry} {s : State} (hs : Kept org s) : KeptO org (execOpWaitPlan e s) := by
  unfold execOpWaitPlan
  apply kept_next
  apply kept_issueCmd hs
  refine ⟨fun t c h => ?_, fun t c h => ?_⟩ <;> dsimp only [waitRow]
  all_goals repeat' with_reducible first
    | assumption | apply kept_issueCmd | apply kept_startBlock | fail_if_no_progress apply kept_upd

theorem kept_lookAgain {s : State} {core : Nat} (hs : Kept org s) : Kept org (lookAgain s core) := by
  unfold lookAgain
  repeat' first
    | with_reducible first
      | assumption | apply kept_coherent | apply kept_tryBlock | fail_if_no_progress apply kept_upd
    | intro _ | split | dsimp only

theorem kept_execWaitSatisfied {core : CoreI} {s : State} (hs : Kept org s) : KeptO org (execWaitSatisfied core s) := by
  unfold execWaitSatisfied
  repeat' first
    | with_reducible first
      | assumption | apply kept_regainAt | apply kept_lookAgain | apply kept_ite | apply kept_ite1
      | fail_if_no_progress apply kept_upd | apply kept_next
    | intro _ | split

theorem kept_execSyncHang {core : CoreI} {s : State} (hs : Kept org s) : KeptO org (execSyncHang core s) := by
  unfold execSyncHang
  repeat' first
    | with_reducible first
      | assumption | apply kept_endBlock | apply kept_report | apply kept_ite | apply kept_ite1
      | fail_if_no_progress apply kept_upd | apply kept_next
    | intro _ | split | dsimp only

theorem kept_signalFault {s : State} {core : Nat} {e : Entry} {i : Nat} {t : Slot} (hs : Kept org s) :
    Kept org (signalFault s core e i t).1 := by
  unfold signalFault
  repeat' with_reducible first
    | assumption | apply kept_report | fail_if_no_progress apply kept_upd

theorem kept_runSignalSlot {e : Entry} {s : State} {core : Nat} (hs : Kept org s) :
    Kept org (runSignalSlot e s core).1 := by
  unfold runSignalSlot
  repeat' first
    | with_reducible first
      | assumption | apply kept_setSlot | apply kept_signalFault | apply kept_ite | apply kept_ite1
      | fail_if_no_progress apply kept_upd
    | intro _ | split | dsimp only

theorem kept_runSignalEvent {e : Entry} {s : State} {_core : Nat} (hs : Kept org s) :
    Kept org (runSignalEvent e s _core).1 := kept_upd hs

theorem kept_runSignalMemory {e : Entry} {s : State} {core : Nat} (hs : Kept org s) :
    Kept org (runSignalMemory e s core).1 := by
  unfold runSignalMemory
  repeat' first
    | with_reducible first
      | assumption | apply kept_writeUni | apply kept_report | fail_if_no_progress apply kept_upd
    | refine kept_of_ok (by with_reducible assumption) ?_ | refine kept_fst (by with_reducible assumption) ?_ | split

theorem kept_execOpSignalSlotFill {e : Entry} {s : State} (hs : Kept org s) : KeptO org (execOpSignalSlotFill e s) := by
  unfold execOpSignalSlotFill
  apply kept_next
  apply kept_issueCmd hs
  refine ⟨fun t c h => ?_, fun t c h => ?_⟩ <;> dsimp only [signalRow]
  all_goals repeat' with_reducible first
    | assumption | apply kept_issueCmd | apply kept_runSignalSlot | fail_if_no_progress apply kept_upd

theorem kept_execOpSignalSlotDrain {e : Entry} {s : State} (hs : Kept org s) : KeptO org (execOpSignalSlotDrain e s) := by
  unfold execOpSignalSlotDrain
  apply kept_next
  apply kept_issueCmd hs
  refine ⟨fun t c h => ?_, fun t c h => ?_⟩ <;> dsimp only [signalRow]
  all_goals repeat' with_reducible first
    | assumption | apply kept_issueCmd | apply kept_runSignalSlot | fail_if_no_progress apply kept_upd

theorem kept_execOpSignalEvent {e : Entry} {s : State} (hs : Kept org s) : KeptO org (execOpSignalEvent e s) := by
  unfold execOpSignalEvent
  apply kept_next
  apply kept_issueCmd hs
  refine ⟨fun t c h => ?_, fun t c h => ?_⟩ <;> dsimp only [signalRow]
  all_goals repeat' with_reducible first
    | assumption | apply kept_issueCmd | apply kept_runSignalEvent | fail_if_no_progress apply kept_upd

theorem kept_execOpSignalMemory {e : Entry} {s : State} (hs : Kept org s) : KeptO org (execOpSignalMemory e s) := by
  unfold execOpSignalMemory
  apply kept_next
  apply kept_issueCmd hs
  refine ⟨fun t c h => ?_, fun t c h => ?_⟩ <;> dsimp only [signalRow]
  all_goals repeat' with_reducible first
    | assumption | apply kept_issueCmd | apply kept_runSignalMemory | fail_if_no_progress apply kept_upd

theorem kept_execOpNop {e : Entry} {s : State} (hs : Kept org s) : KeptO org (execOpNop e s) := by
  unfold execOpNop
  apply kept_next
  apply kept_issueCmd hs
  refine ⟨fun t c h => ?_, fun t c h => ?_⟩ <;> dsimp only [nopRow]
  all_goals repeat' with_reducible first
    | assumption | apply kept_issueCmd | fail_if_no_progress apply kept_upd

theorem kept_execOpFence {e : Entry} {s : State} (hs : Kept org s) : KeptO org (execOpFence e s) := by
  unfold execOpFence
  apply kept_next
  apply kept_issueCmd hs
  refine ⟨fun t c h => ?_, fun t c h => ?_⟩ <;> dsimp only [fenceRow]
  all_goals repeat' with_reducible first
    | assumption | apply kept_issueCmd | apply kept_startBlock | fail_if_no_progress apply kept_upd

theorem kept_execOpTimedStart {e : Entry} {s : State} (hs : Kept org s) : KeptO org (execOpTimedStart e s) := by
  unfold execOpTimedStart
  apply kept_next
  apply kept_issueCmd hs
  refine ⟨fun t c h => ?_, fun t c h => ?_⟩ <;> dsimp only [timedRow]
  all_goals repeat' with_reducible first
    | assumption | apply kept_issueCmd | apply kept_startBlock | apply kept_ite | apply kept_ite1
    | fail_if_no_progress apply kept_upd

theorem kept_timedEnds {s : State} {core : Nat} (hs : Kept org s) : Kept org (timedEnds s core) := by
  unfold timedEnds
  repeat' first
    | with_reducible first
      | assumption | apply kept_passBlock | apply kept_ite | apply kept_ite1 | fail_if_no_progress apply kept_upd
    | intro _ | split

theorem kept_execTimedStartReached {core : CoreI} {s : State} (hs : Kept org s) :
    KeptO org (execTimedStartReached core s) := by
  unfold execTimedStartReached
  repeat' first
    | with_reducible first
      | assumption | apply kept_regainAt | apply kept_timedEnds | apply kept_ite | apply kept_ite1
      | fail_if_no_progress apply kept_upd | apply kept_next
    | intro _ | split

theorem kept_holdBack {s : State} {c : CtxId} {core : Nat} {h : Held} (hs : Kept org s) :
    Kept org (holdBack s c core h) := kept_upd hs

theorem kept_lsReport {s : State} {c : CtxId} {core : Nat} {code : BitVec 16} {detail : List (BitVec 32)} (hs : Kept org s) :
    Kept org (lsReport s c core code detail) := by
  unfold lsReport
  repeat' with_reducible first
    | assumption | apply kept_report | fail_if_no_progress apply kept_upd

theorem kept_failTransfer {s : State} {c : CtxId} {core : Nat} {n : CmdName} {code : BitVec 16} (hs : Kept org s) :
    Kept org (failTransfer s c core n code) := kept_upd hs

theorem kept_fillSlots {s : State} {c : CtxId} {core : Nat} {l : List Nat} (hs : Kept org s) :
    Kept org (fillSlots s c core l) := by
  unfold fillSlots
  repeat' first
    | with_reducible first
      | assumption | apply kept_setSlot | fail_if_no_progress apply kept_upd | apply kept_foldl
    | intro _ | dsimp only

theorem kept_deliver {s : State} {c : CtxId} {core : Nat} {h : Held} (hs : Kept org s) : Kept org (deliver s c core h) := by
  unfold deliver
  repeat' first
    | with_reducible first
      | assumption | apply kept_holdBack | apply kept_lsReport | apply kept_failTransfer | apply kept_fillSlots
      | apply kept_writeLs | apply kept_ite | apply kept_ite1 | fail_if_no_progress apply kept_upd
    | intro _ | split | dsimp only

theorem kept_markEnd {s : State} {c : CtxId} {core i : Nat} {h : Held} (hs : Kept org s) :
    Kept org (markEnd s c core i h) := by
  unfold markEnd
  repeat' first
    | with_reducible first
      | assumption | apply kept_holdBack | apply kept_setSlot | apply kept_ite | apply kept_ite1
      | fail_if_no_progress apply kept_upd
    | intro _ | split | dsimp only

theorem kept_deliverHeld {s : State} {c : CtxId} {core : Nat} (hs : Kept org s) : Kept org (deliverHeld s c core) := by
  unfold deliverHeld
  repeat' first
    | with_reducible first
      | assumption | apply kept_markEnd | apply kept_deliver | apply kept_setSeq | fail_if_no_progress apply kept_upd
      | apply kept_foldl
    | intro _ | split | dsimp only

theorem kept_execOutsideDelivery {core : CoreI} {cid : CtxId} {addr : BitVec 24} {gen : BitVec 16} {data : Bytes} {sender : CmdName}
    {s : State}
    (hs : Kept org s) :
    KeptO org (execOutsideDelivery core cid addr gen data sender s) := by
  unfold execOutsideDelivery
  repeat' first
    | with_reducible first
      | assumption | apply kept_deliver | apply kept_ite | apply kept_ite1 | fail_if_no_progress apply kept_upd
      | apply kept_next
    | intro _ | split

theorem kept_execSenderEndMarker {core : CoreI} {cid : CtxId} {slot : Fin 64} {gen : BitVec 16} {sender : CmdName} {s : State}
    (hs : Kept org s) :
    KeptO org (execSenderEndMarker core cid slot gen sender s) := by
  unfold execSenderEndMarker
  repeat' first
    | with_reducible first
      | assumption | apply kept_markEnd | apply kept_ite | apply kept_ite1 | fail_if_no_progress apply kept_upd
      | apply kept_next
    | intro _ | split

theorem kept_execSlotWritesLanded {core : CoreI} {slot : Fin 64} {s : State} (hs : Kept org s) :
    KeptO org (execSlotWritesLanded core slot s) := by
  unfold execSlotWritesLanded
  repeat' first
    | with_reducible first
      | assumption | apply kept_setSlot | apply kept_ite | apply kept_ite1 | fail_if_no_progress apply kept_upd
      | apply kept_next
    | intro _ | split | dsimp only

theorem kept_execSlotReadsDone {core : CoreI} {slot : Fin 64} {s : State} (hs : Kept org s) :
    KeptO org (execSlotReadsDone core slot s) := by
  unfold execSlotReadsDone
  repeat' first
    | with_reducible first
      | assumption | apply kept_deliverHeld | apply kept_setSlot | apply kept_ite | apply kept_ite1
      | fail_if_no_progress apply kept_upd | apply kept_next
    | intro _ | split | dsimp only

theorem kept_deliveryHangs {s : State} {core : Nat} {c : CtxId} {h : Held} (hs : Kept org s) :
    Kept org (deliveryHangs s core c h) := by
  unfold deliveryHangs
  repeat' with_reducible first
    | assumption | apply kept_failTransfer | apply kept_report | fail_if_no_progress apply kept_upd

theorem kept_execSlotHang {core : CoreI} {s : State} (hs : Kept org s) : KeptO org (execSlotHang core s) := by
  unfold execSlotHang
  repeat' first
    | with_reducible first
      | assumption | apply kept_report | apply kept_endBlock | apply kept_deliveryHangs | apply kept_ite | apply kept_ite1
      | fail_if_no_progress apply kept_upd | apply kept_next
    | intro _ | split | dsimp only

/-! ### Guard -/

theorem kept_setSem {s : State} {n : Nat} {x : Sem} (hs : Kept org s) : Kept org (setSem s n x) := kept_upd hs

theorem kept_loseSem {s : State} {n : Nat} (hs : Kept org s) : Kept org (loseSem s n) := kept_upd hs

theorem kept_semReport {s : State} {r : Report} (hs : Kept org s) : Kept org (semReport s r) := by
  unfold semReport
  repeat' first
    | with_reducible first
      | assumption | apply kept_report | apply kept_ite | apply kept_ite1 | fail_if_no_progress apply kept_upd
    | intro _ | split

theorem kept_expireSem {s : State} {n : Nat} (hs : Kept org s) : Kept org (expireSem s n) := by
  unfold expireSem
  repeat' first
    | with_reducible first
      | assumption | apply kept_semReport | apply kept_loseSem | apply kept_ite | apply kept_ite1
      | fail_if_no_progress apply kept_upd
    | intro _ | split | dsimp only

theorem kept_noteTie {s : State} {port : RlPort} {o : Nat} (hs : Kept org s) : Kept org (noteTie s port o) := by
  unfold noteTie
  repeat' first
    | with_reducible first
      | assumption | apply kept_ite | apply kept_ite1 | fail_if_no_progress apply kept_upd
    | intro _ | split

theorem kept_guardRefuse {s : State} {p : RlPort} (hs : Kept org s) : Kept org (guardRefuse s p) := by
  unfold guardRefuse
  repeat' with_reducible first
    | assumption | apply kept_semReport | apply kept_ite | apply kept_ite1 | fail_if_no_progress apply kept_upd

theorem kept_guarded {s0 : State} {p : RlPort} {n : Nat} {f : State → State}
    (hs0 : Kept org s0) (hf : (∀ t, Kept org t → Kept org (f t))) :
    Kept org (guarded s0 p n f) := by
  unfold guarded
  repeat' first
    | with_reducible first
      | assumption | apply hf | apply kept_expireSem | apply kept_guardRefuse | apply kept_ite | apply kept_ite1
      | fail_if_no_progress apply kept_upd
    | intro _ | split | dsimp only

theorem kept_semTakeRead {s0 : State} {port : RlPort} {n : Nat} (hs0 : Kept org s0) : Kept org (semTakeRead s0 port n) := by
  unfold semTakeRead
  repeat' first
    | with_reducible first
      | assumption | apply kept_expireSem | apply kept_setSem | apply kept_ite | apply kept_ite1
      | fail_if_no_progress apply kept_upd
    | intro _ | split | dsimp only

theorem kept_semReturn {s : State} {port : RlPort} {n : Nat} (hs : Kept org s) : Kept org (semReturn s port n) := kept_upd hs

theorem kept_semTakeTied {s : State} {port : RlPort} {n : Nat} (hs : Kept org s) : Kept org (semTakeTied s port n) := by
  unfold semTakeTied
  repeat' first
    | with_reducible first
      | assumption | apply kept_semTakeRead | apply kept_noteTie | fail_if_no_progress apply kept_upd
    | split

theorem kept_execSemTake {port : RlPort} {n : Fin 32} {s : State} (hs : Kept org s) : KeptO org (execSemTake port n s) := by
  unfold execSemTake
  repeat' first
    | with_reducible first
      | assumption | apply kept_semReturn | apply kept_semTakeTied | apply kept_send | apply kept_ite | apply kept_ite1
      | fail_if_no_progress apply kept_upd | apply kept_next
    | intro _ | split

theorem kept_semReleaseWrite {s0 : State} {port : RlPort} {n : Nat} {value : BitVec 64} (hs0 : Kept org s0) :
    Kept org (semReleaseWrite s0 port n value) := by
  unfold semReleaseWrite
  repeat' first
    | with_reducible first
      | assumption | apply kept_expireSem | apply kept_setSem | apply kept_ite | apply kept_ite1
      | fail_if_no_progress apply kept_upd
    | intro _ | split | dsimp only

theorem kept_execSemRelease {port : RlPort} {n : Fin 32} {value : BitVec 64} {s : State} (hs : Kept org s) :
    KeptO org (execSemRelease port n value s) := by
  unfold execSemRelease
  repeat' first
    | with_reducible first
      | assumption | apply kept_semReleaseWrite | apply kept_ite | apply kept_ite1 | fail_if_no_progress apply kept_upd
      | apply kept_next
    | intro _ | split

theorem kept_execSemLeaseExpiry {n : Fin 32} {s : State} (hs : Kept org s) : KeptO org (execSemLeaseExpiry n s) := by
  unfold execSemLeaseExpiry
  repeat' with_reducible first
    | assumption | apply kept_expireSem | fail_if_no_progress apply kept_upd | apply kept_next

/-! ### Packets -/

theorem kept_checkInc {s : State} {k : Packet} (hs : Kept org s) : KeptM org (checkInc s k) := by
  unfold checkInc
  repeat' first
    | with_reducible first
      | assumption | apply kept_ite | fail_if_no_progress apply kept_upd | apply kept_some | apply kept_none
    | intro _ | split | dsimp only

theorem kept_deliverPacket {s : State} {k : Packet} (hs : Kept org s) : Kept org (deliverPacket s k) := kept_upd hs

theorem kept_heardFrom {s : State} {k : Packet} (hs : Kept org s) : Kept org (heardFrom s k) := by
  unfold heardFrom
  repeat' first
    | with_reducible first
      | assumption | apply kept_ite | apply kept_ite1 | fail_if_no_progress apply kept_upd
    | intro _ | split

theorem kept_badPacket {s : State} {fp : Nat} (hs : Kept org s) : Kept org (badPacket s fp) := by
  unfold badPacket
  repeat' with_reducible first
    | assumption | apply kept_report | fail_if_no_progress apply kept_upd

theorem kept_deliverBound {s : State} {fp : Nat} {b : TagBind} {k : Packet} (hs : Kept org s) :
    Kept org (deliverBound s fp b k) := by
  unfold deliverBound
  repeat' first
    | with_reducible first
      | assumption | apply kept_badPacket | apply kept_deliverPacket | apply kept_ite | apply kept_ite1
      | fail_if_no_progress apply kept_upd
    | intro _ | split

theorem kept_arrive {s0 : State} {fp : Nat} {k : Packet} (hs0 : Kept org s0) : Kept org (arrive s0 fp k) := by
  unfold arrive
  repeat' first
    | with_reducible first
      | assumption | apply kept_giveCredit | apply kept_badPacket | apply kept_checkInc | apply kept_deliverPacket
      | apply kept_heardFrom | apply kept_deliver | apply kept_deliverBound | apply kept_sendFab | apply kept_setXd
      | apply kept_ite | apply kept_ite1 | fail_if_no_progress apply kept_upd
    | intro _ | refine kept_fst (by with_reducible assumption) ?_ | refine kept_of_some (by with_reducible assumption) ?_
    | split | dsimp only

theorem kept_offerPacket {s : State} {b : BufPkt} (hs : Kept org s) : Kept org (offerPacket s b) := by
  unfold offerPacket
  repeat' first
    | with_reducible first
      | assumption | apply kept_arrive | apply kept_giveCredit | apply kept_leave | apply kept_ite | apply kept_ite1
      | fail_if_no_progress apply kept_upd
    | intro _ | split | dsimp only

theorem kept_offerBufs {s : State} (hs : Kept org s) : Kept org (offerBufs s) := by
  unfold offerBufs
  repeat' first
    | with_reducible first
      | assumption | apply kept_offerPacket | fail_if_no_progress apply kept_upd | apply kept_foldl
    | intro _

theorem kept_execPacketReceive {fp : FPort} {pkt : Packet} {s : State} (hs : Kept org s) :
    KeptO org (execPacketReceive fp pkt s) := by
  unfold execPacketReceive
  repeat' first
    | with_reducible first
      | assumption | apply kept_report | apply kept_giveCredit | apply kept_arrive | apply kept_forward | apply kept_ite
      | apply kept_ite1 | fail_if_no_progress apply kept_upd | apply kept_next
    | intro _ | split

theorem kept_execPacketAged {index : Nat} {s : State} (hs : Kept org s) : KeptO org (execPacketAged index s) := by
  unfold execPacketAged
  repeat' first
    | with_reducible first
      | assumption | apply kept_report | apply kept_giveCredit | apply kept_ite | apply kept_ite1
      | fail_if_no_progress apply kept_upd | apply kept_next
    | intro _ | split | dsimp only

theorem kept_execCredit {fp : FPort} {net vc : Fin 2} {slots : Nat} {s : State} (hs : Kept org s) :
    KeptO org (execCredit fp net vc slots s) := by
  unfold execCredit
  repeat' first
    | with_reducible first
      | assumption | apply kept_offerBufs | apply kept_setFp | apply kept_ite | apply kept_ite1
      | fail_if_no_progress apply kept_upd | apply kept_next
    | intro _ | split | dsimp only

theorem kept_execTagnak {_newer : Bool} {refused : Packet} {s : State} (hs : Kept org s) :
    KeptO org (execTagnak _newer refused s) := by
  unfold execTagnak
  repeat' first
    | with_reducible first
      | assumption | apply kept_ite | apply kept_ite1 | fail_if_no_progress apply kept_upd | apply kept_next
    | intro _ | split

theorem kept_resendNaked {s : State} {b : TagBind} {k : Packet} (hs : Kept org s) : Kept org (resendNaked s b k) := by
  unfold resendNaked
  repeat' first
    | with_reducible first
      | assumption | apply kept_sendPkt | apply kept_ite | apply kept_ite1 | fail_if_no_progress apply kept_upd
    | intro _ | split | dsimp only

theorem kept_execTagnakResend {index : Nat} {s : State} (hs : Kept org s) : KeptO org (execTagnakResend index s) := by
  unfold execTagnakResend
  repeat' first
    | with_reducible first
      | assumption | apply kept_resendNaked | apply kept_ite | apply kept_ite1 | fail_if_no_progress apply kept_upd
      | apply kept_next
    | intro _ | split | dsimp only

/-! ### Agent -/

theorem kept_setFq {s : State} {c : CtxId} {q : Fin 4} {x : FQueue} (hs : Kept org s) : Kept org (setFq s c q x) :=
  kept_upd hs

theorem kept_sendMsf {s : State} {unit : BitVec 4} {plane : XDie} {dst : Coord} {m : MsfMsg} (hs : Kept org s) :
    Kept org (sendMsf s unit plane dst m) := by
  unfold sendMsf
  repeat' with_reducible first
    | assumption | apply kept_sendCtl | fail_if_no_progress apply kept_upd

theorem kept_sendWith {s : State} {c : CtxId} {plane : XDie} {dst : Coord} {h : DataHead} {m : MsfMsg} {data : Bytes}
    {tail : Option MsfMsg}
    (hs : Kept org s) :
    Kept org (sendWith s c plane dst h m data tail) := by
  unfold sendWith
  repeat' first
    | with_reducible first
      | assumption | apply kept_report | apply kept_sendRun | apply kept_sendMsf | apply kept_ite | apply kept_ite1
      | fail_if_no_progress apply kept_upd
    | intro _ | split | dsimp only

theorem kept_noteSeq {s : State} {c : CtxId} {key : Nat} {seq : BitVec 14} (hs : Kept org s) :
    Kept org (noteSeq s c key seq) := by
  unfold noteSeq
  repeat' with_reducible first
    | assumption | apply kept_mirror | fail_if_no_progress apply kept_upd

theorem kept_cacheKeep {s : State} {home : Coord} {line : Nat} {data : Bytes} (hs : Kept org s) :
    Kept org (cacheKeep s home line data) := by
  unfold cacheKeep
  repeat' first
    | with_reducible first
      | assumption | apply kept_setXd | apply kept_sendMsf | apply kept_ite | apply kept_ite1
      | fail_if_no_progress apply kept_upd
    | intro _ | split | dsimp only

theorem kept_cacheDrop {s : State} {home : Coord} {line : Nat} (hs : Kept org s) : Kept org (cacheDrop s home line) :=
  kept_upd hs

theorem kept_execInv {die : XDie} {home : Coord} {addr : BitVec 44} {s : State} (hs : Kept org s) :
    KeptO org (execInv die home addr s) := by
  unfold execInv
  repeat' first
    | with_reducible first
      | assumption | apply kept_sendMsf | apply kept_cacheDrop | apply kept_ite | apply kept_ite1
      | fail_if_no_progress apply kept_upd | apply kept_next
    | intro _ | split

theorem kept_agentWrite {s : State} {c : CtxId} {a : Nat} {bs : Bytes} (hs : Kept org s) :
    Kept org (agentWrite s c a bs) := by
  unfold agentWrite
  repeat' first
    | with_reducible first
      | assumption | apply kept_writeUni | apply kept_report | fail_if_no_progress apply kept_upd
    | refine kept_of_ok (by with_reducible assumption) ?_ | refine kept_fst (by with_reducible assumption) ?_ | split

theorem kept_markDone {s : State} {c : CtxId} {q : Fin 4} {i : BitVec 32} {status : BitVec 8} {result : BitVec 64}
    (hs : Kept org s) :
    Kept org (markDone s c q i status result) := by
  unfold markDone
  repeat' first
    | with_reducible first
      | assumption | apply kept_agentWrite | apply kept_report | apply kept_ite | apply kept_ite1
      | fail_if_no_progress apply kept_upd
    | intro _ | split | dsimp only

theorem kept_advanceHead {s : State} {c : CtxId} {q : Fin 4} (hs : Kept org s) : Kept org (advanceHead s c q) := by
  unfold advanceHead
  repeat' first
    | with_reducible first
      | assumption | apply kept_setFq | apply kept_agentWrite | apply kept_ite | apply kept_ite1
      | fail_if_no_progress apply kept_upd
    | intro _ | split | dsimp only

theorem kept_doneRecs {s : State} {c : CtxId} {q : Fin 4} {recs : List (BitVec 32)} {status : BitVec 8} {result : BitVec 64}
    (hs : Kept org s) :
    Kept org (doneRecs s c q recs status result) := by
  unfold doneRecs
  repeat' first
    | with_reducible first
      | assumption | apply kept_setFq | apply kept_markDone | apply kept_advanceHead | apply kept_report | apply kept_ite
      | apply kept_ite1 | fail_if_no_progress apply kept_upd | apply kept_foldl
    | intro _ | split | dsimp only

theorem kept_endReq {s : State} {c : CtxId} {q : Fin 4} {r : FReq} {status : BitVec 8} {result : BitVec 64}
    (hs : Kept org s) :
    Kept org (endReq s c q r status result) := by
  unfold endReq
  repeat' with_reducible first
    | assumption | apply kept_doneRecs | apply kept_setFq | apply kept_ite | apply kept_ite1
    | fail_if_no_progress apply kept_upd

theorem kept_landReq {s : State} {c : CtxId} {q : Fin 4} {r : FReq} {data : Bytes} (hs : Kept org s) :
    Kept org (landReq s c q r data) := by
  unfold landReq
  repeat' first
    | with_reducible first
      | assumption | apply kept_writeUni | apply kept_report | apply kept_endReq | fail_if_no_progress apply kept_upd
    | refine kept_of_ok (by with_reducible assumption) ?_ | refine kept_fst (by with_reducible assumption) ?_ | split

theorem kept_putReq {s : State} {c : CtxId} {q : Fin 4} {r : FReq} (hs : Kept org s) : Kept org (putReq s c q r) :=
  kept_upd hs

theorem kept_checkGet {s : State} {c : CtxId} {q : Fin 4} {r : FReq} (hs : Kept org s) : Kept org (checkGet s c q r) := by
  unfold checkGet
  repeat' first
    | with_reducible first
      | assumption | apply kept_landReq | apply kept_endReq | apply kept_sendMsf | apply kept_putReq | apply kept_ite
      | apply kept_ite1 | fail_if_no_progress apply kept_upd
    | intro _ | split

theorem kept_ctxRsp {s : State} {c : CtxId} {m : RspMsg} (hs : Kept org s) : Kept org (ctxRsp s c m) := by
  unfold ctxRsp
  repeat' first
    | with_reducible first
      | assumption | apply kept_endReq | apply kept_checkGet | apply kept_cacheKeep | apply kept_landReq | apply kept_ite
      | apply kept_ite1 | fail_if_no_progress apply kept_upd
    | intro _ | split | dsimp only

theorem kept_cpnRsp {s : State} {m : RspMsg} (hs : Kept org s) : Kept org (cpnRsp s m) := by
  unfold cpnRsp
  repeat' first
    | with_reducible first
      | assumption | apply kept_send | apply kept_ite | apply kept_ite1 | fail_if_no_progress apply kept_upd
    | intro _ | split | dsimp only

theorem kept_execRsp {m : RspMsg} {s : State} (hs : Kept org s) : KeptO org (execRsp m s) := by
  unfold execRsp
  repeat' first
    | with_reducible first
      | assumption | apply kept_cpnRsp | apply kept_coherentLate | apply kept_ctxRsp | apply kept_ite | apply kept_ite1
      | fail_if_no_progress apply kept_upd | apply kept_next
    | intro _ | split | dsimp only

theorem kept_acceptBusy {s : State} {c : Option CtxId} {src : Coord} {sid : BitVec 16} (hs : Kept org s) :
    Kept org (acceptBusy s c src sid) := by
  unfold acceptBusy
  repeat' first
    | with_reducible first
      | assumption | apply kept_putReq | fail_if_no_progress apply kept_upd
    | intro _ | split | dsimp only

theorem kept_execBusy {src : Coord} {jtag sid : BitVec 16} {s : State} (hs : Kept org s) :
    KeptO org (execBusy src jtag sid s) := by
  unfold execBusy
  repeat' first
    | with_reducible first
      | assumption | apply kept_acceptBusy | apply kept_ite | apply kept_ite1 | fail_if_no_progress apply kept_upd
      | apply kept_next
    | intro _ | split

theorem kept_execMsfHang {cid : CtxId} {q : Fin 4} {sid : BitVec 16} {s : State} (hs : Kept org s) :
    KeptO org (execMsfHang cid q sid s) := by
  unfold execMsfHang
  repeat' first
    | with_reducible first
      | assumption | apply kept_coherentLate | apply kept_endReq | apply kept_ite | apply kept_ite1
      | fail_if_no_progress apply kept_upd | apply kept_next
    | intro _ | split | dsimp only

/-! ### Ports -/

theorem kept_enterRetrain {s : State} {p : Nat} (hs : Kept org s) : Kept org (enterRetrain s p) := kept_upd hs

theorem kept_laneFail {s : State} {p lane : Nat} (hs : Kept org s) : Kept org (laneFail s p lane) := by
  unfold laneFail
  repeat' first
    | with_reducible first
      | assumption | apply kept_report | apply kept_setFp | apply kept_enterRetrain | apply kept_send | apply kept_ite
      | apply kept_ite1 | fail_if_no_progress apply kept_upd
    | intro _ | split | dsimp only

theorem kept_fpCtrlWrite {s : State} {p : Nat} {v : BitVec 32} (hs : Kept org s) : Kept org (fpCtrlWrite s p v) := by
  unfold fpCtrlWrite
  repeat' first
    | with_reducible first
      | assumption | apply kept_setFp | apply kept_enterRetrain | apply kept_ite | apply kept_ite1
      | fail_if_no_progress apply kept_upd
    | intro _ | split | dsimp only

theorem kept_execPortEnable {port : RlPort} {fp : FPort} {value : BitVec 32} {s : State} (hs : Kept org s) :
    KeptO org (execPortEnable port fp value s) := by
  unfold execPortEnable
  repeat' first
    | with_reducible first
      | assumption | apply kept_guarded | apply kept_fpCtrlWrite | fail_if_no_progress apply kept_upd | apply kept_next
    | intro _ | dsimp only

theorem kept_execRetrain {port : RlPort} {fp : FPort} {value : BitVec 32} {s : State} (hs : Kept org s) :
    KeptO org (execRetrain port fp value s) := by
  unfold execRetrain
  repeat' first
    | with_reducible first
      | assumption | apply kept_guarded | apply kept_fpCtrlWrite | fail_if_no_progress apply kept_upd | apply kept_next
    | intro _ | dsimp only

theorem kept_execPortDetect {fp : FPort} {signals : BitVec 5} {s : State} (hs : Kept org s) :
    KeptO org (execPortDetect fp signals s) := by
  unfold execPortDetect
  repeat' first
    | with_reducible first
      | assumption | apply kept_setFp | apply kept_ite | apply kept_ite1 | fail_if_no_progress apply kept_upd
      | apply kept_next
    | intro _ | split | dsimp only

theorem kept_execPortTrainDone {fp : FPort} {s : State} (hs : Kept org s) : KeptO org (execPortTrainDone fp s) := by
  unfold execPortTrainDone
  repeat' first
    | with_reducible first
      | assumption | apply kept_setFp | apply kept_ite | apply kept_ite1 | fail_if_no_progress apply kept_upd
      | apply kept_next
    | intro _ | split | dsimp only

theorem kept_sendNegotiate {s : State} {fp : FPort} (hs : Kept org s) : Kept org (sendNegotiate s fp) := kept_upd hs

theorem kept_execPortAlignDone {fp : FPort} {s : State} (hs : Kept org s) : KeptO org (execPortAlignDone fp s) := by
  unfold execPortAlignDone
  repeat' first
    | with_reducible first
      | assumption | apply kept_sendNegotiate | apply kept_setFp | apply kept_offerBufs | apply kept_ite | apply kept_ite1
      | fail_if_no_progress apply kept_upd | apply kept_next
    | intro _ | split | dsimp only

theorem kept_activatePort {s : State} {p minor : Nat} {lanes : BitVec 5} (hs : Kept org s) :
    Kept org (activatePort s p minor lanes) := kept_upd hs

theorem kept_execNegotiate {fp : FPort} {major minor : Nat} {peer : Coord} {peerPort : Nat} {lanes : BitVec 5} {kfp2 : Bool}
    {s : State}
    (hs : Kept org s) :
    KeptO org (execNegotiate fp major minor peer peerPort lanes kfp2 s) := by
  unfold execNegotiate
  repeat' first
    | with_reducible first
      | assumption | apply kept_offerBufs | apply kept_activatePort | apply kept_report | apply kept_ite | apply kept_ite1
      | fail_if_no_progress apply kept_upd | apply kept_foldl | apply kept_next
    | intro _ | split | dsimp only

theorem kept_execNegotiateRetry {fp : FPort} {s : State} (hs : Kept org s) : KeptO org (execNegotiateRetry fp s) := by
  unfold execNegotiateRetry
  repeat' first
    | with_reducible first
      | assumption | apply kept_sendNegotiate | apply kept_setFp | apply kept_ite | apply kept_ite1
      | fail_if_no_progress apply kept_upd | apply kept_next
    | intro _ | split | dsimp only

theorem kept_execRetrainTimeout {fp : FPort} {s : State} (hs : Kept org s) : KeptO org (execRetrainTimeout fp s) := by
  unfold execRetrainTimeout
  repeat' first
    | with_reducible first
      | assumption | apply kept_setFp | apply kept_report | apply kept_forward | apply kept_ite | apply kept_ite1
      | fail_if_no_progress apply kept_upd | apply kept_foldl | apply kept_next
    | intro _ | split | dsimp only

theorem kept_execEqWindow {fp : FPort} {r : EqReading} {s : State} (hs : Kept org s) : KeptO org (execEqWindow fp r s) := by
  unfold execEqWindow
  repeat' first
    | with_reducible first
      | assumption | apply kept_setFp | apply kept_takeFree | apply kept_laneFail | apply kept_ite | apply kept_ite1
      | fail_if_no_progress apply kept_upd | apply kept_next
    | intro _ | split | dsimp only

theorem kept_execLaneLockLoss {fp : FPort} {lane : Fin 5} {s : State} (hs : Kept org s) :
    KeptO org (execLaneLockLoss fp lane s) := by
  unfold execLaneLockLoss
  repeat' first
    | with_reducible first
      | assumption | apply kept_laneFail | apply kept_ite | apply kept_ite1 | fail_if_no_progress apply kept_upd
      | apply kept_next
    | intro _ | split

theorem kept_execSwap {fp : FPort} {lane : Fin 4} {seq : BitVec 10} {s : State} (hs : Kept org s) :
    KeptO org (execSwap fp lane seq s) := by
  unfold execSwap
  repeat' first
    | with_reducible first
      | assumption | apply kept_setFp | apply kept_ite | apply kept_ite1 | fail_if_no_progress apply kept_upd
      | apply kept_next
    | intro _ | split | dsimp only

theorem kept_resendFrom {s : State} {p : Nat} {seq : BitVec 10} (hs : Kept org s) : Kept org (resendFrom s p seq) := by
  unfold resendFrom
  repeat' first
    | with_reducible first
      | assumption | apply kept_send | apply kept_setFp | apply kept_enterRetrain | apply kept_ite | apply kept_ite1
      | fail_if_no_progress apply kept_upd
    | intro _ | split | dsimp only

theorem kept_idleBlock {s : State} {p : Nat} (hs : Kept org s) : Kept org (idleBlock s p) := by
  unfold idleBlock
  repeat' first
    | with_reducible first
      | assumption | apply kept_beginBlocks | apply kept_ite | apply kept_ite1 | fail_if_no_progress apply kept_upd
    | intro _ | split

theorem kept_discardBlock {s : State} {p : Nat} {x : FPortSt} (hs : Kept org s) : Kept org (discardBlock s p x) := by
  unfold discardBlock
  repeat' first
    | with_reducible first
      | assumption | apply kept_setFp | apply kept_send | apply kept_ite | apply kept_ite1
      | fail_if_no_progress apply kept_upd
    | intro _ | split

theorem kept_swapArrived {s : State} {p : Nat} (hs : Kept org s) : Kept org (swapArrived s p) := by
  unfold swapArrived
  repeat' first
    | with_reducible first
      | assumption | apply kept_report | apply kept_setFp | apply kept_ite | apply kept_ite1
      | fail_if_no_progress apply kept_upd
    | intro _ | split | dsimp only

theorem kept_circuitBlock {s : State} {p : Nat} {c : Fin 8} {good : Bool} {corrected : Nat} {data : Bytes} (hs : Kept org s) :
    Kept org (circuitBlock s p c good corrected data) := by
  unfold circuitBlock
  repeat' first
    | with_reducible first
      | assumption | apply kept_setFp | apply kept_send | apply kept_ite | apply kept_ite1
      | fail_if_no_progress apply kept_upd
    | intro _ | split | dsimp only

theorem kept_execBlockReceive {fp : FPort} {good : Bool} {corrected : Nat} {seq ack : BitVec 10} {circuit : Option (Fin 8)} {data : Bytes}
    {s : State}
    (hs : Kept org s) :
    KeptO org (execBlockReceive fp good corrected seq ack circuit data s) := by
  unfold execBlockReceive
  repeat' first
    | with_reducible first
      | assumption | apply kept_circuitBlock | apply kept_offerBufs | apply kept_idleBlock | apply kept_swapArrived
      | apply kept_setFp | apply kept_discardBlock | apply kept_ite | apply kept_ite1 | fail_if_no_progress apply kept_upd
      | apply kept_next
    | intro _ | split | dsimp only

theorem kept_execNak {fp : FPort} {seq : BitVec 10} {s : State} (hs : Kept org s) : KeptO org (execNak fp seq s) := by
  unfold execNak
  repeat' first
    | with_reducible first
      | assumption | apply kept_resendFrom | apply kept_ite | apply kept_ite1 | fail_if_no_progress apply kept_upd
      | apply kept_next
    | intro _ | split

theorem kept_execNakRepeat {fp : FPort} {s : State} (hs : Kept org s) : KeptO org (execNakRepeat fp s) := by
  unfold execNakRepeat
  repeat' first
    | with_reducible first
      | assumption | apply kept_send | apply kept_setFp | apply kept_ite | apply kept_ite1
      | fail_if_no_progress apply kept_upd | apply kept_next
    | intro _ | split | dsimp only

theorem kept_execAckTimeout {fp : FPort} {s : State} (hs : Kept org s) : KeptO org (execAckTimeout fp s) := by
  unfold execAckTimeout
  repeat' first
    | with_reducible first
      | assumption | apply kept_resendFrom | apply kept_ite | apply kept_ite1 | fail_if_no_progress apply kept_upd
      | apply kept_next
    | intro _ | split | dsimp only

theorem kept_circWrite {s : State} {die : XDie} {c : Fin 8} {v : BitVec 32} (hs : Kept org s) :
    Kept org (circWrite s die c v) := by
  unfold circWrite
  repeat' first
    | with_reducible first
      | assumption | apply kept_setXd | apply kept_ite | apply kept_ite1 | fail_if_no_progress apply kept_upd
    | intro _ | split | dsimp only

theorem kept_execCircuitWrite {port : RlPort} {die : XDie} {c : Fin 8} {value : BitVec 32} {s : State} (hs : Kept org s) :
    KeptO org (execCircuitWrite port die c value s) := by
  unfold execCircuitWrite
  repeat' first
    | with_reducible first
      | assumption | apply kept_guarded | apply kept_circWrite | fail_if_no_progress apply kept_upd | apply kept_next
    | intro _ | dsimp only

theorem kept_makeBind {s : State} {i : Nat} {b : TagBind} (hs : Kept org s) : Kept org (makeBind s i b) := by
  unfold makeBind
  repeat' with_reducible first
    | assumption | apply kept_mirror | apply kept_ite | apply kept_ite1 | fail_if_no_progress apply kept_upd

theorem kept_tagWrite {s : State} {v : BitVec 64} (hs : Kept org s) : Kept org (tagWrite s v) := by
  unfold tagWrite
  repeat' first
    | with_reducible first
      | assumption | apply kept_retireBind | apply kept_makeBind | apply kept_ite | apply kept_ite1
      | fail_if_no_progress apply kept_upd
    | intro _ | split | dsimp only

theorem kept_execTagBind {port : RlPort} {value : BitVec 64} {s : State} (hs : Kept org s) :
    KeptO org (execTagBind port value s) := by
  unfold execTagBind
  repeat' first
    | with_reducible first
      | assumption | apply kept_guarded | apply kept_tagWrite | fail_if_no_progress apply kept_upd | apply kept_next
    | intro _ | dsimp only

theorem kept_execTagRetire {port : RlPort} {value : BitVec 64} {s : State} (hs : Kept org s) :
    KeptO org (execTagRetire port value s) := by
  unfold execTagRetire
  repeat' first
    | with_reducible first
      | assumption | apply kept_guarded | apply kept_tagWrite | fail_if_no_progress apply kept_upd | apply kept_next
    | intro _ | dsimp only

theorem kept_execD2dFlitReceive {link : Fin 12} {sent got : Bytes} {crc : BitVec 32} {s : State} (hs : Kept org s) :
    KeptO org (execD2dFlitReceive link sent got crc s) := by
  unfold execD2dFlitReceive
  repeat' first
    | with_reducible first
      | assumption | apply kept_report | apply kept_ite | apply kept_ite1 | fail_if_no_progress apply kept_upd
      | apply kept_next
    | intro _ | split | dsimp only

/-! ### Keys -/

theorem kept_takeCert {s : State} {cert : Bytes} (hs : Kept org s) : Kept org (takeCert s cert) := by
  unfold takeCert
  repeat' first
    | with_reducible first
      | assumption | apply kept_ite | apply kept_ite1 | fail_if_no_progress apply kept_upd
    | intro _ | split

theorem kept_sealKey {s : State} {k : Fin 128} (hs : Kept org s) : Kept org (sealKey s k) := by
  unfold sealKey
  repeat' first
    | with_reducible first
      | assumption | apply kept_mirror | apply kept_takeFree | apply kept_ite | apply kept_ite1
      | fail_if_no_progress apply kept_upd
    | intro _ | split | dsimp only

theorem kept_sealKeys {s : State} {p : PartI} (hs : Kept org s) : Kept org (sealKeys s p) := by
  unfold sealKeys
  repeat' first
    | with_reducible first
      | assumption | apply kept_sealKey | apply kept_ite | apply kept_ite1 | fail_if_no_progress apply kept_upd
      | apply kept_foldl
    | intro _ | split | dsimp only

theorem kept_loadMirrored {s : State} {m : Memory} {p : PartI} (hs : Kept org s) : Kept org (loadMirrored s m p) := by
  unfold loadMirrored
  refine kept_foldl (fun t x h => ?_) hs
  generalize openBlob 0 (Memory.read m (mirrorAt 5 (256 * x.val)) 144) = b
  cases b with
  | ok k => exact kept_setKey h
  | error c => exact h

theorem kept_keyEnd {s : State} {err : BitVec 3} (hs : Kept org s) : Kept org (keyEnd s err) := kept_upd hs

theorem kept_keyLoad {s : State} {port : RlPort} {p : PartI} (hs : Kept org s) : Kept org (keyLoad s port p) := by
  unfold keyLoad
  dsimp only
  generalize openBlob 0 (readComp s port s.sec.keyAddr.toNat 144) = b
  cases b with
  | error c => exact kept_report (kept_keyEnd hs)
  | ok k =>
    dsimp only
    split
    · exact kept_report (kept_keyEnd hs)
    split
    · exact kept_report (kept_keyEnd hs)
    · refine kept_sealKey (kept_keyEnd ?_)
      exact kept_upd (kept_setKey hs)

theorem kept_keyClear {s : State} (hs : Kept org s) : Kept org (keyClear s) := by
  unfold keyClear
  repeat' first
    | with_reducible first
      | assumption | apply kept_keyEnd | apply kept_setKey | apply kept_mirror | apply kept_ite | apply kept_ite1
      | fail_if_no_progress apply kept_upd
    | intro _ | split | dsimp only

theorem kept_keyCmdWrite {s : State} {port : RlPort} {v : BitVec 32} (hs : Kept org s) :
    Kept org (keyCmdWrite s port v) := by
  unfold keyCmdWrite
  repeat' first
    | with_reducible first
      | assumption | apply kept_keyLoad | apply kept_keyClear | fail_if_no_progress apply kept_upd
    | split

theorem kept_execKeyLoad {port : RlPort} {value : BitVec 32} {s : State} (hs : Kept org s) :
    KeptO org (execKeyLoad port value s) := by
  unfold execKeyLoad
  repeat' first
    | with_reducible first
      | assumption | apply kept_guarded | apply kept_keyCmdWrite | fail_if_no_progress apply kept_upd | apply kept_next
    | intro _ | dsimp only

theorem kept_execKeyClear {port : RlPort} {value : BitVec 32} {s : State} (hs : Kept org s) :
    KeptO org (execKeyClear port value s) := by
  unfold execKeyClear
  repeat' first
    | with_reducible first
      | assumption | apply kept_guarded | apply kept_keyCmdWrite | fail_if_no_progress apply kept_upd | apply kept_next
    | intro _ | dsimp only

theorem kept_attCmdWrite {s : State} {port : RlPort} {v : BitVec 32} {canSign : Bool} (hs : Kept org s) :
    Kept org (attCmdWrite s port v canSign) := by
  unfold attCmdWrite
  repeat' first
    | with_reducible first
      | assumption | apply kept_report | apply kept_writeComp | apply kept_ite | apply kept_ite1
      | fail_if_no_progress apply kept_upd
    | intro _ | split | dsimp only

theorem kept_execAttGo {port : RlPort} {value : BitVec 32} {canSign : Bool} {s : State} (hs : Kept org s) :
    KeptO org (execAttGo port value canSign s) := by
  unfold execAttGo
  repeat' first
    | with_reducible first
      | assumption | apply kept_guarded | apply kept_attCmdWrite | fail_if_no_progress apply kept_upd | apply kept_next
    | intro _ | dsimp only

/-! ### Power -/

theorem kept_engageBrake {s : State} {w : Pwr} (hs : Kept org s) : Kept org (engageBrake s w) := by
  unfold engageBrake
  repeat' with_reducible first
    | assumption | apply kept_report | fail_if_no_progress apply kept_upd

theorem kept_execWeirSample {p : BitVec 16} {railOver : Bool} {s : State} (hs : Kept org s) :
    KeptO org (execWeirSample p railOver s) := by
  unfold execWeirSample
  repeat' first
    | with_reducible first
      | assumption | apply kept_engageBrake | apply kept_ite | apply kept_ite1 | fail_if_no_progress apply kept_upd
      | apply kept_next
    | intro _ | split | dsimp only

theorem kept_execWeirUpdate {s : State} (hs : Kept org s) : KeptO org (execWeirUpdate s) := by
  unfold execWeirUpdate
  repeat' first
    | with_reducible first
      | assumption | apply kept_ite | apply kept_ite1 | fail_if_no_progress apply kept_upd | apply kept_next
    | intro _ | split | dsimp only

theorem kept_execPwrBrakeN {s : State} (hs : Kept org s) : KeptO org (execPwrBrakeN s) := by
  unfold execPwrBrakeN
  repeat' first
    | with_reducible first
      | assumption | apply kept_engageBrake | apply kept_ite | apply kept_ite1 | fail_if_no_progress apply kept_upd
      | apply kept_next
    | intro _ | split | dsimp only

theorem kept_execPwrBrakeNRise {s : State} (hs : Kept org s) : KeptO org (execPwrBrakeNRise s) := by
  unfold execPwrBrakeNRise
  repeat' with_reducible first
    | assumption | fail_if_no_progress apply kept_upd | apply kept_next

theorem kept_execBrakeRelease {s : State} (hs : Kept org s) : KeptO org (execBrakeRelease s) := by
  unfold execBrakeRelease
  repeat' first
    | with_reducible first
      | assumption | apply kept_ite | apply kept_ite1 | fail_if_no_progress apply kept_upd | apply kept_next
    | intro _ | split

theorem kept_quadChange {s : State} {q : Nat} {y : QuadPwr} (hs : Kept org s) : Kept org (quadChange s q y) := by
  unfold quadChange
  repeat' first
    | with_reducible first
      | assumption | apply kept_setQuad | apply kept_report | apply kept_ite | apply kept_ite1
      | fail_if_no_progress apply kept_upd
    | intro _ | split | dsimp only

theorem kept_execDroopTrip {q : QuadI} {d_ : Fin 4} {s : State} (hs : Kept org s) : KeptO org (execDroopTrip q d_ s) := by
  unfold execDroopTrip
  repeat' first
    | with_reducible first
      | assumption | apply kept_setQuad | apply kept_ite | apply kept_ite1 | fail_if_no_progress apply kept_upd
      | apply kept_next
    | intro _ | split | dsimp only

theorem kept_execDroopWindow {q : QuadI} {s : State} (hs : Kept org s) : KeptO org (execDroopWindow q s) := by
  unfold execDroopWindow
  repeat' first
    | with_reducible first
      | assumption | apply kept_quadChange | apply kept_report | apply kept_ite | apply kept_ite1
      | fail_if_no_progress apply kept_upd | apply kept_next
    | intro _ | split | dsimp only

theorem kept_agingSet {s : State} {q : Nat} {slowdown : List Nat} (hs : Kept org s) : Kept org (agingSet s q slowdown) := by
  unfold agingSet
  repeat' with_reducible first
    | assumption | apply kept_quadChange | apply kept_ite | apply kept_ite1 | fail_if_no_progress apply kept_upd

theorem kept_execAgingMeasure {q : QuadI} {slowdown : List Nat} {s : State} (hs : Kept org s) :
    KeptO org (execAgingMeasure q slowdown s) := by
  unfold execAgingMeasure
  repeat' first
    | with_reducible first
      | assumption | apply kept_agingSet | apply kept_ite | apply kept_ite1 | fail_if_no_progress apply kept_upd
      | apply kept_next
    | intro _ | split

theorem kept_pinWrite {s : State} {p : PartI} {v : BitVec 32} (hs : Kept org s) : Kept org (pinWrite s p v) := by
  unfold pinWrite
  repeat' first
    | with_reducible first
      | assumption | apply kept_setPart | apply kept_takeFree | apply kept_quadChange | apply kept_ite | apply kept_ite1
      | fail_if_no_progress apply kept_upd | apply kept_foldl
    | intro _ | split | dsimp only

theorem kept_execPwrPinWrite {port : RlPort} {p : PartI} {value : BitVec 32} {s : State} (hs : Kept org s) :
    KeptO org (execPwrPinWrite port p value s) := by
  unfold execPwrPinWrite
  repeat' first
    | with_reducible first
      | assumption | apply kept_guarded | apply kept_pinWrite | fail_if_no_progress apply kept_upd | apply kept_next
    | intro _ | dsimp only

theorem kept_setSens {s : State} {k : Nat} {x : Sens} (hs : Kept org s) : Kept org (setSens s k x) := kept_upd hs

theorem kept_tripDevice {s : State} {r : Report} (hs : Kept org s) : Kept org (tripDevice s r) := by
  unfold tripDevice
  repeat' with_reducible first
    | assumption | apply kept_report | fail_if_no_progress apply kept_upd

theorem kept_sensed {s : State} {k : Nat} {temp : BitVec 16} (hs : Kept org s) : Kept org (sensed s k temp) := by
  unfold sensed
  repeat' first
    | with_reducible first
      | assumption | apply kept_setSens | apply kept_report | apply kept_tripDevice | apply kept_ite | apply kept_ite1
      | fail_if_no_progress apply kept_upd
    | intro _ | split | dsimp only

theorem kept_execThermalThreshold {sensor : Sensor} {temp : BitVec 16} {s : State} (hs : Kept org s) :
    KeptO org (execThermalThreshold sensor temp s) := by
  unfold execThermalThreshold
  repeat' first
    | with_reducible first
      | assumption | apply kept_sensed | apply kept_ite | apply kept_ite1 | fail_if_no_progress apply kept_upd
      | apply kept_next
    | intro _ | split

theorem kept_execThermalCeilingStep {q : QuadI} {s : State} (hs : Kept org s) : KeptO org (execThermalCeilingStep q s) := by
  unfold execThermalCeilingStep
  repeat' first
    | with_reducible first
      | assumption | apply kept_setQuad | apply kept_ite | apply kept_ite1 | fail_if_no_progress apply kept_upd
      | apply kept_next
    | intro _ | split | dsimp only

theorem kept_refreshStack {s : State} {r : BitVec 16 × Nat} (hs : Kept org s) : Kept org (refreshStack s r) := by
  unfold refreshStack
  repeat' with_reducible first
    | assumption | apply kept_sensed | fail_if_no_progress apply kept_upd

theorem kept_execRefreshUpdate {temps : List (BitVec 16)} {mr4 : List (BitVec 8)} {s : State} (hs : Kept org s) :
    KeptO org (execRefreshUpdate temps mr4 s) := by
  unfold execRefreshUpdate
  repeat' first
    | with_reducible first
      | assumption | apply kept_refreshStack | apply kept_ite | apply kept_ite1 | fail_if_no_progress apply kept_upd
      | apply kept_foldl | apply kept_foldl1 | apply kept_next
    | intro _ | split | dsimp only

theorem kept_execSelftestSliceDue {q : QuadI} {s : State} (hs : Kept org s) : KeptO org (execSelftestSliceDue q s) := by
  unfold execSelftestSliceDue
  repeat' first
    | with_reducible first
      | assumption | apply kept_setQuad | apply kept_ite | apply kept_ite1 | fail_if_no_progress apply kept_upd
      | apply kept_next
    | intro _ | split | dsimp only

theorem kept_resumeQuad {s : State} {q : Nat} (hs : Kept org s) : Kept org (resumeQuad s q) := by
  unfold resumeQuad
  repeat' first
    | with_reducible first
      | assumption | apply kept_setSeq | fail_if_no_progress apply kept_upd | apply kept_foldl | apply kept_foldl1
    | intro _ | dsimp only

theorem kept_execSelftestSliceEnd {q : QuadI} {pass passAgain : Bool} {s : State} (hs : Kept org s) :
    KeptO org (execSelftestSliceEnd q pass passAgain s) := by
  unfold execSelftestSliceEnd
  repeat' first
    | with_reducible first
      | assumption | apply kept_resumeQuad | apply kept_setQuad | apply kept_report | apply kept_ite | apply kept_ite1
      | fail_if_no_progress apply kept_upd | apply kept_next
    | intro _ | split | dsimp only

theorem kept_stCmdWrite {s : State} {v : BitVec 32} (hs : Kept org s) : Kept org (stCmdWrite s v) := by
  unfold stCmdWrite
  repeat' first
    | with_reducible first
      | assumption | apply kept_setQuad | fail_if_no_progress apply kept_upd | apply kept_foldl
    | intro _ | dsimp only

theorem kept_execPwrStCmd {port : RlPort} {value : BitVec 32} {s : State} (hs : Kept org s) :
    KeptO org (execPwrStCmd port value s) := by
  unfold execPwrStCmd
  repeat' first
    | with_reducible first
      | assumption | apply kept_guarded | apply kept_stCmdWrite | fail_if_no_progress apply kept_upd | apply kept_next
    | intro _ | dsimp only

theorem kept_execCalibration {c_ : Calib} {s : State} (hs : Kept org s) : KeptO org (execCalibration c_ s) := by
  unfold execCalibration
  repeat' with_reducible first
    | assumption | fail_if_no_progress apply kept_upd | apply kept_next

theorem kept_pmReport {s : State} {r : PmReading} (hs : Kept org s) : Kept org (pmReport s r) := by
  unfold pmReport
  repeat' first
    | with_reducible first
      | assumption | apply kept_report | apply kept_takeFree | apply kept_ite | apply kept_ite1
      | fail_if_no_progress apply kept_upd
    | intro _ | split | dsimp only

theorem kept_pmPoll {s : State} {readings : List PmReading} (hs : Kept org s) : Kept org (pmPoll s readings) := by
  unfold pmPoll
  repeat' first
    | with_reducible first
      | assumption | apply kept_pmReport | apply kept_ite | apply kept_ite1 | fail_if_no_progress apply kept_upd
      | apply kept_foldl
    | intro _ | split

theorem kept_execPmbusPoll {readings : List PmReading} {s : State} (hs : Kept org s) :
    KeptO org (execPmbusPoll readings s) := by
  unfold execPmbusPoll
  repeat' with_reducible first
    | assumption | apply kept_pmPoll | fail_if_no_progress apply kept_upd | apply kept_next

theorem kept_execPmAlertN {readings : List PmReading} {s : State} (hs : Kept org s) :
    KeptO org (execPmAlertN readings s) := by
  unfold execPmAlertN
  repeat' with_reducible first
    | assumption | apply kept_pmPoll | fail_if_no_progress apply kept_upd | apply kept_next

theorem kept_execRailMargin {rail : Fin 33} {deviation : BitVec 32} {s : State} (hs : Kept org s) :
    KeptO org (execRailMargin rail deviation s) := by
  unfold execRailMargin
  repeat' first
    | with_reducible first
      | assumption | apply kept_report | apply kept_ite | apply kept_ite1 | fail_if_no_progress apply kept_upd
      | apply kept_next
    | intro _ | split

theorem kept_execRailExcursion {rail : Fin 33} {d_ : BitVec 32} {s : State} (hs : Kept org s) :
    KeptO org (execRailExcursion rail d_ s) := by
  unfold execRailExcursion
  repeat' first
    | with_reducible first
      | assumption | apply kept_tripDevice | apply kept_ite | apply kept_ite1 | fail_if_no_progress apply kept_upd
      | apply kept_next
    | intro _ | split

/-! ### Boot -/

theorem kept_setBootPort {s : State} {st : PortState} (hs : Kept org s) : Kept org (setBootPort s st) := by
  unfold setBootPort
  repeat' first
    | with_reducible first
      | assumption | apply kept_setFp | apply kept_ite | apply kept_ite1 | fail_if_no_progress apply kept_upd
    | intro _ | split

theorem kept_bootCmdWrite {s : State} {port : RlPort} {v : BitVec 32} (hs : Kept org s) :
    Kept org (bootCmdWrite s port v) := by
  unfold bootCmdWrite
  repeat' first
    | with_reducible first
      | assumption | apply kept_setBootPort | apply kept_ite | apply kept_ite1 | fail_if_no_progress apply kept_upd
    | intro _ | split

theorem kept_guardedBoot {s0 : State} {port : RlPort} {f : State → State}
    (hs0 : Kept org s0) (hf : (∀ t, Kept org t → Kept org (f t))) :
    Kept org (guardedBoot s0 port f) := by
  unfold guardedBoot
  repeat' first
    | with_reducible first
      | assumption | apply hf | apply kept_expireSem | apply kept_guardRefuse | apply kept_ite | apply kept_ite1
      | fail_if_no_progress apply kept_upd
    | intro _ | split | dsimp only

theorem kept_execBootGo {port : RlPort} {value : BitVec 32} {s : State} (hs : Kept org s) :
    KeptO org (execBootGo port value s) := by
  unfold execBootGo
  repeat' first
    | with_reducible first
      | assumption | apply kept_guardedBoot | apply kept_noteTie | apply kept_bootCmdWrite
      | fail_if_no_progress apply kept_upd | apply kept_next
    | intro _ | dsimp only

theorem kept_bootHalt {s : State} {code : BitVec 16} (hs : Kept org s) : Kept org (bootHalt s code) := by
  unfold bootHalt
  repeat' first
    | with_reducible first
      | assumption | apply kept_setBootPort | apply kept_ite | apply kept_ite1 | fail_if_no_progress apply kept_upd
    | intro _ | split | dsimp only

theorem kept_nextStage {s : State} (hs : Kept org s) : Kept org (nextStage s) := kept_upd hs

theorem kept_stageKeys {s : State} {objs : BootObjects} {hw : BootHw} (hs : Kept org s) :
    Kept org (stageKeys s objs hw) := by
  unfold stageKeys
  repeat' first
    | with_reducible first
      | assumption | apply kept_bootHalt | apply kept_setBootPort | apply kept_nextStage | apply kept_ite | apply kept_ite1
      | fail_if_no_progress apply kept_upd
    | intro _ | split

theorem kept_stageVerify {s : State} {objs : BootObjects} (hs : Kept org s) : Kept org (stageVerify s objs) := by
  unfold stageVerify
  repeat' first
    | with_reducible first
      | assumption | apply kept_bootHalt | apply kept_setBootPort | apply kept_nextStage | apply kept_ite | apply kept_ite1
      | fail_if_no_progress apply kept_upd
    | intro _ | split | dsimp only

theorem kept_applyManifest {s : State} (hs : Kept org s) : Kept org (applyManifest s) := by
  unfold applyManifest
  repeat' first
    | with_reducible first
      | assumption | apply kept_setFp | fail_if_no_progress apply kept_upd | apply kept_foldl
    | intro _ | dsimp only

theorem kept_stageSelftest {s : State} {hw : BootHw} (hs : Kept org s) : Kept org (stageSelftest s hw) := by
  unfold stageSelftest
  repeat' first
    | with_reducible first
      | assumption | apply kept_nextStage | apply kept_agingSet | fail_if_no_progress apply kept_upd | apply kept_foldl
    | intro _ | dsimp only

theorem kept_stageMemory {s : State} (hs : Kept org s) : Kept org (stageMemory s) := by
  unfold stageMemory
  refine kept_foldl (fun t x h => ?_) (kept_nextStage ?_)
  · split
    · exact kept_fpCtrlWrite h
    · exact h
  · exact ⟨fun w => by have := hs.wf w; simp_all [State.memWf, show Memory.wf [] = true from rfl], hs.pending, hs.now⟩

theorem kept_execBootStageEnd {objs : BootObjects} {hw : BootHw} {s : State} (hs : Kept org s) :
    KeptO org (execBootStageEnd objs hw s) := by
  unfold execBootStageEnd
  repeat' first
    | with_reducible first
      | assumption | apply kept_stageKeys | apply kept_stageVerify | apply kept_nextStage | apply kept_applyManifest
      | apply kept_bootHalt | apply kept_stageSelftest | apply kept_stageMemory | apply kept_ite | apply kept_ite1
      | fail_if_no_progress apply kept_upd | apply kept_next
    | intro _ | split

/-! ### FabricTime -/

theorem kept_ftExchange {s : State} {e d : Int} (hs : Kept org s) : Kept org (ftExchange s e d) := by
  unfold ftExchange
  repeat' first
    | with_reducible first
      | assumption | apply kept_ite | apply kept_ite1 | fail_if_no_progress apply kept_upd
    | intro _ | split | dsimp only

theorem kept_execTsyncSend {child : Coord} {s : State} (hs : Kept org s) : KeptO org (execTsyncSend child s) := by
  unfold execTsyncSend
  repeat' first
    | with_reducible first
      | assumption | apply kept_sendFab | apply kept_ite | apply kept_ite1 | fail_if_no_progress apply kept_upd
      | apply kept_next
    | intro _ | split | dsimp only

theorem kept_execTsync {parent : Coord} {seq : BitVec 16} {t1 : BitVec 64} {s : State} (hs : Kept org s) :
    KeptO org (execTsync parent seq t1 s) := by
  unfold execTsync
  repeat' first
    | with_reducible first
      | assumption | apply kept_sendFab | apply kept_ite | apply kept_ite1 | fail_if_no_progress apply kept_upd
      | apply kept_next
    | intro _ | split | dsimp only

theorem kept_execTreq {child : Coord} {seq : BitVec 16} {_t3 : BitVec 64} {s : State} (hs : Kept org s) :
    KeptO org (execTreq child seq _t3 s) := by
  unfold execTreq
  repeat' first
    | with_reducible first
      | assumption | apply kept_sendFab | apply kept_ite | apply kept_ite1 | fail_if_no_progress apply kept_upd
      | apply kept_next
    | intro _ | split | dsimp only

theorem kept_execTresp {seq : BitVec 16} {t4 corr : BitVec 64} {s : State} (hs : Kept org s) :
    KeptO org (execTresp seq t4 corr s) := by
  unfold execTresp
  repeat' first
    | with_reducible first
      | assumption | apply kept_ftExchange | apply kept_ite | apply kept_ite1 | fail_if_no_progress apply kept_upd
      | apply kept_next
    | intro _ | split | dsimp only

theorem kept_execFtHoldoverEntry {s : State} (hs : Kept org s) : KeptO org (execFtHoldoverEntry s) := by
  unfold execFtHoldoverEntry
  repeat' first
    | with_reducible first
      | assumption | apply kept_report | apply kept_ite | apply kept_ite1 | fail_if_no_progress apply kept_upd
      | apply kept_next
    | intro _ | split | dsimp only

theorem kept_execFtRange {s : State} (hs : Kept org s) : KeptO org (execFtRange s) := by
  unfold execFtRange
  repeat' first
    | with_reducible first
      | assumption | apply kept_report | apply kept_ite | apply kept_ite1 | fail_if_no_progress apply kept_upd
      | apply kept_next
    | intro _ | split

theorem kept_execPpsIn {s : State} (hs : Kept org s) : KeptO org (execPpsIn s) := by
  unfold execPpsIn
  repeat' first
    | with_reducible first
      | assumption | apply kept_ite | apply kept_ite1 | fail_if_no_progress apply kept_upd | apply kept_next
    | intro _ | split | dsimp only

theorem kept_ftSetWrite {s : State} {v : BitVec 64} (hs : Kept org s) : Kept org (ftSetWrite s v) := by
  unfold ftSetWrite
  repeat' first
    | with_reducible first
      | assumption | apply kept_ite | apply kept_ite1 | fail_if_no_progress apply kept_upd
    | intro _ | split

theorem kept_execFtSet {port : RlPort} {value : BitVec 64} {s : State} (hs : Kept org s) :
    KeptO org (execFtSet port value s) := by
  unfold execFtSet
  repeat' first
    | with_reducible first
      | assumption | apply kept_guarded | apply kept_ftSetWrite | fail_if_no_progress apply kept_upd | apply kept_next
    | intro _ | dsimp only

/-! ### Flags -/

theorem kept_modStep {s : State} {c : CtxId} {f : StepBind → StepBind} (hs : Kept org s) : Kept org (modStep s c f) :=
  kept_upd hs

theorem kept_watch {s : State} {c : CtxId} {event : Bool} (hs : Kept org s) : Kept org (watch s c event) := by
  unfold watch
  repeat' first
    | with_reducible first
      | assumption | apply kept_modStep | apply kept_ite | apply kept_ite1 | fail_if_no_progress apply kept_upd
    | intro _ | split | dsimp only

theorem kept_setRng {s : State} {c : CtxId} {i : Nat} {r : Rng} (hs : Kept org s) : Kept org (setRng s c i r) := kept_upd hs

theorem kept_advanceRng {s : State} {c : CtxId} {i cvt n : Nat} (hs : Kept org s) : Kept org (advanceRng s c i cvt n) := by
  unfold advanceRng
  repeat' first
    | with_reducible first
      | assumption | apply kept_setRng | apply kept_ite | apply kept_ite1 | fail_if_no_progress apply kept_upd
    | intro _ | split | dsimp only

theorem kept_writeAll {s : State} {core : Nat} {ws : List (Nat × Bytes)} (hs : Kept org s) :
    Kept org (writeAll s core ws) := by
  unfold writeAll
  repeat' first
    | with_reducible first
      | assumption | apply kept_writeLs | fail_if_no_progress apply kept_upd | apply kept_foldl | apply kept_foldl1
    | intro _ | dsimp only

theorem kept_settleRun {s : State} {core : Nat} {e : Entry} {watched : Bool} {r : RunResult} (hs : Kept org s) :
    Kept org (settleRun s core e watched r).1 := by
  unfold settleRun
  repeat' first
    | with_reducible first
      | assumption | apply kept_watch | apply kept_writeAll | apply kept_havocLs | apply kept_report
      | fail_if_no_progress apply kept_upd | apply kept_foldl | apply kept_foldl1
    | intro _ | split | dsimp only

end Sys2Proof.Machine
end

