-- ==== Sys2Proof/Laws/KeptUnits.lean ====
section
/-! SUPPORT. What is kept by the engines, rings, pages and partitions. -/

set_option linter.unusedTactic false
set_option linter.unreachableTactic false
set_option linter.unusedVariables false

namespace Sys2Proof.Machine

variable {org : State}

/-! ### Matrix -/

theorem kept_runMm {e : Entry} {x : Mm} {s : State} {core : Nat} (hs : Kept org s) : Kept org (runMm e x s core).1 := by
  unfold runMm
  repeat' first
    | with_reducible first
      | assumption | apply kept_advanceRng | apply kept_settleRun | apply kept_ite | apply kept_ite1
      | fail_if_no_progress apply kept_upd
    | intro _ | split | dsimp only

theorem kept_skipMm {e : Entry} {x : Mm} {s : State} {_core : Nat} (hs : Kept org s) : Kept org (skipMm e x s _core) := by
  unfold skipMm
  repeat' first
    | with_reducible first
      | assumption | apply kept_advanceRng | apply kept_ite | apply kept_ite1 | fail_if_no_progress apply kept_upd
    | intro _ | split

theorem kept_execOpMatmul {e : Entry} {s : State} (hs : Kept org s) : KeptO org (execOpMatmul e s) := by
  unfold execOpMatmul
  apply kept_next
  apply kept_issueCmd hs
  refine ⟨fun t c h => ?_, fun t c h => ?_⟩ <;> dsimp only [mmRow]
  all_goals repeat' with_reducible first
    | assumption | apply kept_issueCmd | apply kept_skipMm | apply kept_runMm | fail_if_no_progress apply kept_upd

theorem kept_execOpMatmulSparse {e : Entry} {s : State} (hs : Kept org s) : KeptO org (execOpMatmulSparse e s) := by
  unfold execOpMatmulSparse
  apply kept_next
  apply kept_issueCmd hs
  refine ⟨fun t c h => ?_, fun t c h => ?_⟩ <;> dsimp only [mmRow]
  all_goals repeat' with_reducible first
    | assumption | apply kept_issueCmd | apply kept_skipMm | apply kept_runMm | fail_if_no_progress apply kept_upd

/-! ### Vector -/

theorem kept_runVc {e : Entry} {x : Vc} {s : State} {core : Nat} (hs : Kept org s) : Kept org (runVc e x s core).1 := by
  unfold runVc
  repeat' first
    | with_reducible first
      | assumption | apply kept_settleRun | apply kept_advanceRng | apply kept_ite | apply kept_ite1
      | fail_if_no_progress apply kept_upd
    | intro _ | split

theorem kept_execOpVchain {e : Entry} {s : State} (hs : Kept org s) : KeptO org (execOpVchain e s) := by
  unfold execOpVchain
  apply kept_next
  apply kept_issueCmd hs
  refine ⟨fun t c h => ?_, fun t c h => ?_⟩ <;> dsimp only [vchainRow]
  all_goals repeat' with_reducible first
    | assumption | apply kept_issueCmd | apply kept_advanceRng | apply kept_runVc | fail_if_no_progress apply kept_upd

theorem kept_runAt {e : Entry} {x : At} {s : State} {core : Nat} (hs : Kept org s) : Kept org (runAt e x s core).1 := by
  unfold runAt
  repeat' with_reducible first
    | assumption | apply kept_settleRun | apply kept_advanceRng | fail_if_no_progress apply kept_upd

theorem kept_execOpAttnBlock {e : Entry} {s : State} (hs : Kept org s) : KeptO org (execOpAttnBlock e s) := by
  unfold execOpAttnBlock
  apply kept_next
  apply kept_issueCmd hs
  refine ⟨fun t c h => ?_, fun t c h => ?_⟩ <;> dsimp only [attnRow]
  all_goals repeat' with_reducible first
    | assumption | apply kept_issueCmd | apply kept_advanceRng | apply kept_runAt | fail_if_no_progress apply kept_upd

/-! ### UniRun -/

theorem kept_writeUniAll {s : State} {p : PartI} {z0 : List (Nat × Bytes)} (hs : Kept org s) :
    KeptE org (writeUniAll s p z0) := by
  induction z0 generalizing s with
  | nil => exact kept_ok hs
  | cons w l ih =>
    unfold writeUniAll
    split
    · exact kept_err
    · rename_i u hu
      exact ih (kept_of_ok hu (kept_writeUni hs))

theorem kept_havocAreas {s : State} {p : PartI} {l : List (Nat × Nat)} (hs : Kept org s) : Kept org (havocAreas s p l) := by
  unfold havocAreas
  repeat' first
    | with_reducible first
      | assumption | apply kept_havocUni | fail_if_no_progress apply kept_upd | apply kept_foldl | apply kept_foldl1
    | intro _ | dsimp only

theorem kept_faultUni {s : State} {e : Entry} {unit : BitVec 7} {inst : Nat} {err : OpErr} {areas : List (Nat × Nat)}
    (hs : Kept org s) :
    Kept org (faultUni s e unit inst err areas).1 := by
  unfold faultUni
  repeat' with_reducible first
    | assumption | apply kept_report | apply kept_havocAreas | fail_if_no_progress apply kept_upd

theorem kept_settleUni {s : State} {e : Entry} {unit : BitVec 7} {inst : Nat} {r : UniRun} (hs : Kept org s) :
    Kept org (settleUni s e unit inst r).1 := by
  unfold settleUni
  repeat' first
    | with_reducible first
      | assumption | apply kept_faultUni | apply kept_writeUniAll | fail_if_no_progress apply kept_upd
    | refine kept_of_ok (by with_reducible assumption) ?_ | refine kept_fst (by with_reducible assumption) ?_
    | refine kept_of_some (by with_reducible assumption) ?_ | split

/-! ### Host -/

theorem kept_handOver {z0 : Nat} {z1 : State} {z2 : CtxId} (hz1 : Kept org z1) : Kept org (handOver z0 z1 z2) := by
  induction z0 generalizing z1 with
  | zero => exact hz1
  | succ n ih =>
    unfold handOver
    dsimp only
    split
    · exact hz1
    split
    · exact kept_reportRej hz1
    split
    · exact hz1
    · exact ih (kept_setSeq (kept_setCtx hz1))

theorem kept_feed {s : State} {c : CtxId} (hs : Kept org s) : Kept org (feed s c) := by
  unfold feed
  repeat' first
    | with_reducible first
      | assumption | apply kept_handOver | apply kept_writeStatus | apply kept_ite | apply kept_ite1
      | fail_if_no_progress apply kept_upd
    | intro _ | split | dsimp only

theorem kept_readDoorbell {s : State} {c : CtxId} (hs : Kept org s) : Kept org (readDoorbell s c) := by
  unfold readDoorbell
  repeat' first
    | with_reducible first
      | assumption | apply kept_report | apply kept_setCtx | apply kept_raiseVt | apply kept_onGain | apply kept_feed
      | apply kept_ite | apply kept_ite1 | fail_if_no_progress apply kept_upd
    | intro _ | split | dsimp only

theorem kept_execDoorbell {cid : CtxId} {s : State} (hs : Kept org s) : KeptO org (execDoorbell cid s) := by
  unfold execDoorbell
  repeat' first
    | with_reducible first
      | assumption | apply kept_readDoorbell | apply kept_ite | apply kept_ite1 | fail_if_no_progress apply kept_upd
      | apply kept_next
    | intro _ | split

theorem kept_execSequencerQueueRoom {cid : CtxId} {s : State} (hs : Kept org s) :
    KeptO org (execSequencerQueueRoom cid s) := by
  unfold execSequencerQueueRoom
  repeat' first
    | with_reducible first
      | assumption | apply kept_feed | apply kept_ite | apply kept_ite1 | fail_if_no_progress apply kept_upd
      | apply kept_next
    | intro _ | split

theorem kept_execCplFull {core : CoreI} {pos listPos : BitVec 32} {s : State} (hs : Kept org s) :
    KeptO org (execCplFull core pos listPos s) := by
  unfold execCplFull
  repeat' first
    | with_reducible first
      | assumption | apply kept_report | apply kept_ite | apply kept_ite1 | fail_if_no_progress apply kept_upd
      | apply kept_next
    | intro _ | split | dsimp only

theorem kept_bringupFail {s : State} {c : CtxId} {d : CtxDesc} {code : BitVec 16} (hs : Kept org s) :
    Kept org (bringupFail s c d code) := by
  unfold bringupFail
  repeat' with_reducible first
    | assumption | apply kept_report | apply kept_setCtx | apply kept_bringup | fail_if_no_progress apply kept_upd

theorem kept_bringupDone {s : State} {c : CtxId} {d : CtxDesc} {slots : List Slot} {rng : Tbl Rng} (hs : Kept org s) :
    Kept org (bringupDone s c d slots rng) := by
  unfold bringupDone
  repeat' first
    | with_reducible first
      | assumption | apply kept_setCtx | apply kept_setSeq | apply kept_readDoorbell | apply kept_writeStatus
      | apply kept_mirror | fail_if_no_progress apply kept_upd | apply kept_foldl
    | intro _ | dsimp only

theorem kept_bringup {s : State} {port : RlPort} {readable : Bool} (hs : Kept org s) :
    Kept org (bringup s port readable) := by
  unfold bringup
  repeat' first
    | with_reducible first
      | assumption | apply kept_report | apply kept_bringupFail | apply kept_bringupDone | apply kept_ite | apply kept_ite1
      | fail_if_no_progress apply kept_upd
    | intro _ | split | dsimp only

theorem kept_execBringup {port : RlPort} {readable : Bool} {s : State} (hs : Kept org s) :
    KeptO org (execBringup port readable s) := by
  unfold execBringup
  repeat' first
    | with_reducible first
      | assumption | apply kept_guarded | apply kept_bringup | fail_if_no_progress apply kept_upd | apply kept_next
    | intro _ | dsimp only

theorem kept_teardownReq {s : State} (hs : Kept org s) : Kept org (teardownReq s) := by
  unfold teardownReq
  repeat' first
    | with_reducible first
      | assumption | apply kept_onLose | apply kept_teardownCtx | apply kept_ite | apply kept_ite1
      | fail_if_no_progress apply kept_upd
    | intro _ | split | dsimp only

theorem kept_execTeardown {port : RlPort} {s : State} (hs : Kept org s) : KeptO org (execTeardown port s) := by
  unfold execTeardown
  repeat' with_reducible first
    | assumption | apply kept_guarded | apply kept_teardownReq | fail_if_no_progress apply kept_upd | apply kept_next

theorem kept_execRlPortDown {port : RlPort} {s : State} (hs : Kept org s) : KeptO org (execRlPortDown port s) := by
  unfold execRlPortDown
  repeat' first
    | with_reducible first
      | assumption | apply kept_setRl | apply kept_loseSem | apply kept_report | apply kept_ite | apply kept_ite1
      | fail_if_no_progress apply kept_upd | apply kept_foldl | apply kept_next
    | intro _ | split | dsimp only

theorem kept_execRlPortRetrain {port : RlPort} {lanes : Fin 9} {s : State} (hs : Kept org s) :
    KeptO org (execRlPortRetrain port lanes s) := by
  unfold execRlPortRetrain
  repeat' first
    | with_reducible first
      | assumption | apply kept_setRl | apply kept_ringDrain | apply kept_readDoorbell | apply kept_ite | apply kept_ite1
      | fail_if_no_progress apply kept_upd | apply kept_foldl | apply kept_next
    | intro _ | split | dsimp only

/-! ### Migrate -/

theorem kept_migEnd {s : State} {e : Entry} {core changed spilled : Nat} (hs : Kept org s) :
    Kept org (migEnd s e core changed spilled).1 := by
  unfold migEnd
  repeat' with_reducible first
    | assumption | apply kept_settleUni | fail_if_no_progress apply kept_upd

theorem kept_backPage {s : State} {i : Nat} {f : Frame} (hs : Kept org s) : Kept org (backPage s i f) := by
  unfold backPage
  repeat' with_reducible first
    | assumption | apply kept_setPte | fail_if_no_progress apply kept_upd

theorem kept_hintPages {s : State} {l : List Nat} {hint : Nat} {pin : Bool} (hs : Kept org s) :
    Kept org (hintPages s l hint pin) := by
  unfold hintPages
  repeat' first
    | with_reducible first
      | assumption | apply kept_setPte | fail_if_no_progress apply kept_upd | apply kept_foldl
    | intro _ | dsimp only

theorem kept_zeroPages {s : State} {p : PartI} {l : List Nat} (hs : Kept org s) : KeptE org (zeroPages s p l) := by
  unfold zeroPages
  repeat' first
      | with_reducible first
        | assumption | apply kept_writeUni | apply kept_ite | apply kept_ite1 | fail_if_no_progress apply kept_upd
        | apply kept_foldl | apply kept_foldl1 | apply kept_foldlE | apply kept_next | apply kept_ok | apply kept_err
        | apply kept_ok2 | apply kept_err2 | apply kept_some | apply kept_none | apply kept_some2 | apply kept_none2
      | intro _ | refine kept_of_ok (by with_reducible assumption) ?_ | refine kept_fst (by with_reducible assumption) ?_
      | refine kept_of_ok2 (by with_reducible assumption) ?_ | refine kept_of_ok2' (by with_reducible assumption) ?_
      | refine kept_of_some (by with_reducible assumption) ?_ | refine kept_of_some2 (by with_reducible assumption) ?_
      | refine kept_of_some2' (by with_reducible assumption) ?_ | refine kept_get (by with_reducible assumption) | split
      | dsimp only | with_reducible apply_assumption

theorem kept_countSpill {s : State} {n : Nat} (hs : Kept org s) : Kept org (countSpill s n) := kept_upd hs

theorem kept_runMigPlace {e : Entry} {s : State} {core : Nat} (hs : Kept org s) : Kept org (runMigPlace e s core).1 := by
  unfold runMigPlace
  repeat' first
      | with_reducible first
        | assumption | apply kept_countSpill | apply kept_hintPages | apply kept_backPage | apply kept_zeroPages
        | apply kept_migEnd | apply kept_faultUni | apply kept_ite | apply kept_ite1 | fail_if_no_progress apply kept_upd
        | apply kept_foldl | apply kept_foldl1 | apply kept_foldlE | apply kept_next | apply kept_ok | apply kept_err
        | apply kept_ok2 | apply kept_err2 | apply kept_some | apply kept_none | apply kept_some2 | apply kept_none2
      | intro _ | refine kept_of_ok (by with_reducible assumption) ?_ | refine kept_fst (by with_reducible assumption) ?_
      | refine kept_of_ok2 (by with_reducible assumption) ?_ | refine kept_of_ok2' (by with_reducible assumption) ?_
      | refine kept_of_some (by with_reducible assumption) ?_ | refine kept_of_some2 (by with_reducible assumption) ?_
      | refine kept_of_some2' (by with_reducible assumption) ?_ | refine kept_get (by with_reducible assumption) | split
      | dsimp only | with_reducible apply_assumption

theorem kept_setMoving {s : State} {i : Nat} {b : Bool} (hs : Kept org s) : Kept org (setMoving s i b) := by
  unfold setMoving
  repeat' with_reducible first
    | assumption | apply kept_setPte | fail_if_no_progress apply kept_upd

theorem kept_runCopies {e : Entry} {s : State} {core : Nat} (hs : Kept org s) : Kept org (runCopies e s core).1 := by
  unfold runCopies
  repeat' first
    | with_reducible first
      | assumption | apply kept_migEnd | apply kept_setMoving | apply kept_ite | apply kept_ite1
      | fail_if_no_progress apply kept_upd
    | intro _ | split | dsimp only

theorem kept_runRelease {e : Entry} {s : State} {core : Nat} (hs : Kept org s) : Kept org (runRelease e s core).1 := by
  unfold runRelease
  repeat' first
    | with_reducible first
      | assumption | apply kept_migEnd | apply kept_setPte | fail_if_no_progress apply kept_upd | apply kept_foldl
      | apply kept_foldl1
    | intro _ | dsimp only

theorem kept_runSethint {e : Entry} {s : State} {core : Nat} (hs : Kept org s) : Kept org (runSethint e s core).1 := by
  unfold runSethint
  repeat' with_reducible first
    | assumption | apply kept_migEnd | apply kept_hintPages | fail_if_no_progress apply kept_upd

theorem kept_execOpMigratePlace {e : Entry} {s : State} (hs : Kept org s) : KeptO org (execOpMigratePlace e s) := by
  unfold execOpMigratePlace
  apply kept_next
  apply kept_issueCmd hs
  refine ⟨fun t c h => ?_, fun t c h => ?_⟩ <;> dsimp only [migRow]
  all_goals repeat' with_reducible first
    | assumption | apply kept_issueCmd | apply kept_runMigPlace | fail_if_no_progress apply kept_upd

theorem kept_execOpMigrateMove {e : Entry} {s : State} (hs : Kept org s) : KeptO org (execOpMigrateMove e s) := by
  unfold execOpMigrateMove
  apply kept_next
  apply kept_issueCmd hs
  refine ⟨fun t c h => ?_, fun t c h => ?_⟩ <;> dsimp only [migRow]
  all_goals repeat' with_reducible first
    | assumption | apply kept_issueCmd | apply kept_runCopies | fail_if_no_progress apply kept_upd

theorem kept_execOpMigrateSwap {e : Entry} {s : State} (hs : Kept org s) : KeptO org (execOpMigrateSwap e s) := by
  unfold execOpMigrateSwap
  apply kept_next
  apply kept_issueCmd hs
  refine ⟨fun t c h => ?_, fun t c h => ?_⟩ <;> dsimp only [migRow]
  all_goals repeat' with_reducible first
    | assumption | apply kept_issueCmd | apply kept_runCopies | fail_if_no_progress apply kept_upd

theorem kept_execOpMigrateRelease {e : Entry} {s : State} (hs : Kept org s) : KeptO org (execOpMigrateRelease e s) := by
  unfold execOpMigrateRelease
  apply kept_next
  apply kept_issueCmd hs
  refine ⟨fun t c h => ?_, fun t c h => ?_⟩ <;> dsimp only [migRow]
  all_goals repeat' with_reducible first
    | assumption | apply kept_issueCmd | apply kept_runRelease | fail_if_no_progress apply kept_upd

theorem kept_execOpMigrateSethint {e : Entry} {s : State} (hs : Kept org s) : KeptO org (execOpMigrateSethint e s) := by
  unfold execOpMigrateSethint
  apply kept_next
  apply kept_issueCmd hs
  refine ⟨fun t c h => ?_, fun t c h => ?_⟩ <;> dsimp only [migRow]
  all_goals repeat' with_reducible first
    | assumption | apply kept_issueCmd | apply kept_runSethint | fail_if_no_progress apply kept_upd

theorem kept_copyFrame {s : State} {src dst : Nat} (hs : Kept org s) : KeptE org (copyFrame s src dst) := by
  unfold copyFrame
  repeat' first
    | with_reducible first
      | assumption | apply kept_writePlaces | fail_if_no_progress apply kept_upd | apply kept_ok | apply kept_err
    | split

theorem kept_putMig {s : State} {m : Mig} (hs : Kept org s) : Kept org (putMig s m) := kept_upd hs

theorem kept_switchPage {s : State} {m : Mig} {v : PageMove} {rest : List PageMove} (hs : Kept org s) :
    Kept org (switchPage s m v rest) := by
  unfold switchPage
  repeat' first
      | with_reducible first
        | assumption | apply kept_copyFrame | apply kept_faultCmd | apply kept_putMig | apply kept_setMoving
        | apply kept_setPte | apply kept_migEnd | apply kept_settleEnd | apply kept_ite | apply kept_ite1
        | fail_if_no_progress apply kept_upd | apply kept_foldl | apply kept_foldl1 | apply kept_foldlE | apply kept_next
        | apply kept_ok | apply kept_err | apply kept_ok2 | apply kept_err2 | apply kept_some | apply kept_none
        | apply kept_some2 | apply kept_none2
      | intro _ | refine kept_of_ok (by with_reducible assumption) ?_ | refine kept_fst (by with_reducible assumption) ?_
      | refine kept_of_ok2 (by with_reducible assumption) ?_ | refine kept_of_ok2' (by with_reducible assumption) ?_
      | refine kept_of_some (by with_reducible assumption) ?_ | refine kept_of_some2 (by with_reducible assumption) ?_
      | refine kept_of_some2' (by with_reducible assumption) ?_ | refine kept_get (by with_reducible assumption) | split
      | dsimp only | with_reducible apply_assumption

theorem kept_execMigratePageSwitch {page : Fin 712704} {s : State} (hs : Kept org s) :
    KeptO org (execMigratePageSwitch page s) := by
  unfold execMigratePageSwitch
  repeat' first
    | with_reducible first
      | assumption | apply kept_switchPage | apply kept_ite | apply kept_ite1 | fail_if_no_progress apply kept_upd
      | apply kept_next
    | intro _ | split | dsimp only

theorem kept_zeroLease {s : State} {j : Nat} (hs : Kept org s) : Kept org (zeroLease s j) := by
  unfold zeroLease
  exact kept_uniZero (s := { s with uni := _ }) (kept_uniZero hs)

theorem kept_unbackPages {s : State} {l : List Nat} (hs : Kept org s) : Kept org (unbackPages s l) := by
  unfold unbackPages
  repeat' first
    | with_reducible first
      | assumption | apply kept_setPte | fail_if_no_progress apply kept_upd | apply kept_foldl
    | intro _ | dsimp only

theorem kept_unbackLease {s : State} {j : Nat} (hs : Kept org s) : Kept org (unbackLease s j) := by
  unfold unbackLease
  repeat' first
    | with_reducible first
      | assumption | apply kept_unbackPages | fail_if_no_progress apply kept_upd
    | intro _ | dsimp only

theorem kept_noteLease {s : State} {j : Nat} {x : Borrow} (hs : Kept org s) : Kept org (noteLease s j x) := kept_upd hs

theorem kept_borrowDrop {s : State} {j : Nat} (hs : Kept org s) : Kept org (borrowDrop s j) := by
  unfold borrowDrop
  repeat' with_reducible first
    | assumption | apply kept_unbackPages | apply kept_noteLease | apply kept_zeroLease | fail_if_no_progress apply kept_upd
    | apply kept_foldl

theorem kept_borrowRelease {s : State} {j : Nat} (hs : Kept org s) : Kept org (borrowRelease s j) := by
  unfold borrowRelease
  repeat' with_reducible first
    | assumption | apply kept_send | apply kept_borrowDrop | fail_if_no_progress apply kept_upd

theorem kept_endLeases {s : State} {p : PartI} (hs : Kept org s) : Kept org (endLeases s p) := by
  unfold endLeases
  repeat' first
    | with_reducible first
      | assumption | apply kept_borrowRelease | apply kept_ite | apply kept_ite1 | fail_if_no_progress apply kept_upd
      | apply kept_foldl
    | intro _ | split | dsimp only

/-! ### Partition -/

theorem kept_cfgErr {s : State} {p : PartI} (hs : Kept org s) : Kept org (cfgErr s p) := kept_upd hs

theorem kept_activate {s : State} {p : PartI} (hs : Kept org s) : Kept org (activate s p) := by
  unfold activate
  repeat' first
    | with_reducible first
      | assumption | apply kept_cfgErr | apply kept_report | apply kept_setPart | apply kept_ite | apply kept_ite1
      | fail_if_no_progress apply kept_upd
    | intro _ | split | dsimp only

theorem kept_execActivate {port : RlPort} {p : PartI} {s : State} (hs : Kept org s) :
    KeptO org (execActivate port p s) := by
  unfold execActivate
  repeat' first
    | with_reducible first
      | assumption | apply kept_guarded | apply kept_activate | fail_if_no_progress apply kept_upd | apply kept_next
    | intro _ | dsimp only

theorem kept_execPartitionActivated {p : PartI} {s : State} (hs : Kept org s) : KeptO org (execPartitionActivated p s) := by
  unfold execPartitionActivated
  repeat' first
    | with_reducible first
      | assumption | apply kept_zeroLs | apply kept_setPte | apply kept_setPart | apply kept_ite | apply kept_ite1
      | fail_if_no_progress apply kept_upd | apply kept_foldl | apply kept_next
    | intro _ | split | dsimp only

theorem kept_clearPages {s : State} {p : PartI} (hs : Kept org s) : Kept org (clearPages s p) := kept_upd hs

theorem kept_dropPartKeys {s : State} {p : PartI} (hs : Kept org s) : Kept org (dropPartKeys s p) := kept_upd hs

theorem kept_endPartUnits {s : State} {p : PartI} (hs : Kept org s) : Kept org (endPartUnits s p) := by
  unfold endPartUnits
  repeat' with_reducible first
    | assumption | apply kept_dropPartKeys | apply kept_endLeases | apply kept_setRes | fail_if_no_progress apply kept_upd

theorem kept_finishDissolve {s : State} {p : PartI} (hs : Kept org s) : Kept org (finishDissolve s p) := by
  unfold finishDissolve
  repeat' first
    | with_reducible first
      | assumption | apply kept_setPart | apply kept_ite | apply kept_ite1 | fail_if_no_progress apply kept_upd
    | intro _ | split | dsimp only

theorem kept_dissolve {s : State} {p : PartI} (hs : Kept org s) : Kept org (dissolve s p) := by
  unfold dissolve
  repeat' first
    | with_reducible first
      | assumption | apply kept_cfgErr | apply kept_teardownAll | apply kept_setPart | apply kept_clearPages
      | apply kept_endPartUnits | apply kept_zeroLs | apply kept_finishDissolve | apply kept_setGran | apply kept_ite
      | apply kept_ite1 | fail_if_no_progress apply kept_upd | apply kept_foldl
    | intro _ | split | dsimp only

theorem kept_execDissolve {port : RlPort} {p : PartI} {s : State} (hs : Kept org s) :
    KeptO org (execDissolve port p s) := by
  unfold execDissolve
  repeat' first
    | with_reducible first
      | assumption | apply kept_guarded | apply kept_dissolve | fail_if_no_progress apply kept_upd | apply kept_next
    | intro _ | dsimp only

theorem kept_execGranuleZeroed {g : GranI} {s : State} (hs : Kept org s) : KeptO org (execGranuleZeroed g s) := by
  unfold execGranuleZeroed
  dsimp only
  split
  · exact kept_next (kept_finishDissolve (kept_setGran (kept_clearPoison (kept_uniZero hs))))
  · exact kept_next hs

theorem kept_granOwnWrite {s : State} {value : BitVec 32} (hs : Kept org s) : Kept org (granOwnWrite s value) := by
  unfold granOwnWrite
  repeat' first
    | with_reducible first
      | assumption | apply kept_cfgErr | apply kept_setGran | apply kept_ite | apply kept_ite1
      | fail_if_no_progress apply kept_upd
    | intro _ | split | dsimp only

theorem kept_execGranOwnWrite {port : RlPort} {value : BitVec 32} {s : State} (hs : Kept org s) :
    KeptO org (execGranOwnWrite port value s) := by
  unfold execGranOwnWrite
  repeat' first
    | with_reducible first
      | assumption | apply kept_guarded | apply kept_granOwnWrite | fail_if_no_progress apply kept_upd | apply kept_next
    | intro _ | dsimp only

theorem kept_renewResidency {s : State} {p : PartI} (hs : Kept org s) : Kept org (renewResidency s p) := by
  unfold renewResidency
  repeat' first
    | with_reducible first
      | assumption | apply kept_endResidency | apply kept_setCtx | apply kept_setPart | fail_if_no_progress apply kept_upd
    | split | dsimp only

theorem kept_execSliceEnd {p : PartI} {s : State} (hs : Kept org s) : KeptO org (execSliceEnd p s) := by
  unfold execSliceEnd
  repeat' first
    | with_reducible first
      | assumption | apply kept_renewResidency | apply kept_beginSwitch | apply kept_ite | apply kept_ite1
      | fail_if_no_progress apply kept_upd | apply kept_next
    | intro _ | split | dsimp only

theorem kept_execContextYield {p : PartI} {s : State} (hs : Kept org s) : KeptO org (execContextYield p s) := by
  unfold execContextYield
  repeat' first
    | with_reducible first
      | assumption | apply kept_beginSwitch | apply kept_setCtx | apply kept_ite | apply kept_ite1
      | fail_if_no_progress apply kept_upd | apply kept_next
    | intro _ | split | dsimp only

theorem kept_saveGranule {s : State} {base core g : Nat} (hs : Kept org s) : Kept org (saveGranule s base core g) := by
  unfold saveGranule
  exact kept_clearPoison (kept_uniWrite hs)

theorem kept_saveSwitch {s : State} {base : Nat} (hs : Kept org s) : Kept org (saveSwitch s base) := by
  unfold saveSwitch
  exact kept_clearPoison (kept_uniWrite (kept_takeFree hs))

theorem kept_saveCore {s : State} {c : CtxId} {core : Nat} (hs : Kept org s) : Kept org (saveCore s c core) := by
  unfold saveCore
  repeat' first
    | with_reducible first
      | assumption | apply kept_saveSwitch | apply kept_saveGranule | apply kept_setCtx | apply kept_setCore
      | fail_if_no_progress apply kept_upd | apply kept_foldl
    | intro _ | dsimp only

theorem kept_execSwitchCoresStopped {p : PartI} {s : State} (hs : Kept org s) : KeptO org (execSwitchCoresStopped p s) := by
  unfold execSwitchCoresStopped
  repeat' first
    | with_reducible first
      | assumption | apply kept_withdrawOpenings | apply kept_saveCore | apply kept_endResidencyAt | apply kept_setCtx
      | apply kept_takeFree | apply kept_setPart | apply kept_ite | apply kept_ite1 | fail_if_no_progress apply kept_upd
      | apply kept_foldl | apply kept_next
    | intro _ | split | dsimp only

theorem kept_restoreGranules {s : State} {base core : Nat} {z0 : List Nat} (hs : Kept org s) :
    Kept org (restoreGranules s base core z0).1 := by
  induction z0 generalizing s with
  | nil => exact hs
  | cons g l ih =>
    unfold restoreGranules
    dsimp only
    split
    · exact kept_writeLs hs
    · exact ih (kept_writeLs hs)

theorem kept_restoreCore {s : State} {c : CtxId} {core : Nat} (hs : Kept org s) : Kept org (restoreCore s c core).1 := by
  unfold restoreCore
  repeat' with_reducible first
    | assumption | apply kept_restoreGranules | apply kept_zeroLs | apply kept_setCore | fail_if_no_progress apply kept_upd

theorem kept_restoreCores {s : State} {c : CtxId} {z0 : List Nat} (hs : Kept org s) : Kept org (restoreCores s c z0).1 := by
  induction z0 generalizing s with
  | nil => exact hs
  | cons g l ih =>
    unfold restoreCores
    dsimp only
    split
    · exact ih (kept_restoreCore hs)
    · exact kept_foldl (fun t x h => kept_zeroLs h) (kept_restoreCore hs)

theorem kept_chargeOther {s : State} {c : CtxId} {n ns : Nat} (hs : Kept org s) : Kept org (chargeOther s c n ns) :=
  kept_upd hs

theorem kept_resumeSeq {s : State} {c : CtxId} {core : Nat} (hs : Kept org s) : Kept org (resumeSeq s c core) := kept_upd hs

theorem kept_makeResident {s : State} {p : PartI} {w : Switching} {r : CtxI} (hs : Kept org s) :
    Kept org (makeResident s p w r) := by
  unfold makeResident
  repeat' first
    | with_reducible first
      | assumption | apply kept_restoreCores | apply kept_resumeSeq | apply kept_chargeOther | apply kept_setCtx
      | apply kept_setPart | apply kept_deliverHeld | apply kept_feed | apply kept_rejoinOpenings | apply kept_onGain
      | apply kept_report | apply kept_ite | apply kept_ite1 | fail_if_no_progress apply kept_upd | apply kept_foldl
      | apply kept_foldl1
    | intro _ | split | dsimp only

theorem kept_execSwitchDone {p : PartI} {s : State} (hs : Kept org s) : KeptO org (execSwitchDone p s) := by
  unfold execSwitchDone
  repeat' first
    | with_reducible first
      | assumption | apply kept_makeResident | apply kept_onLose | apply kept_setPart | apply kept_ite | apply kept_ite1
      | fail_if_no_progress apply kept_upd | apply kept_next
    | intro _ | split | dsimp only

theorem kept_execWholeCap {core : CoreI} {pos listPos : BitVec 32} {s : State} (hs : Kept org s) :
    KeptO org (execWholeCap core pos listPos s) := by
  unfold execWholeCap
  repeat' first
    | with_reducible first
      | assumption | apply kept_report | apply kept_setSeq | apply kept_ite | apply kept_ite1
      | fail_if_no_progress apply kept_upd | apply kept_next
    | intro _ | split | dsimp only

/-! ### Pool -/

theorem kept_dropChain {s : State} {die : XDie} {h : Chain} (hs : Kept org s) : Kept org (dropChain s die h) := by
  unfold dropChain
  repeat' first
    | with_reducible first
      | assumption | apply kept_freeChain | apply kept_report | apply kept_ite | apply kept_ite1
      | fail_if_no_progress apply kept_upd
    | intro _ | split | dsimp only

theorem kept_releaseAt {s : State} {die : XDie} {unit : Nat} {p : PartI} {ptr : BitVec 32} (hs : Kept org s) :
    Kept org (releaseAt s die unit p ptr) := by
  unfold releaseAt
  repeat' first
    | with_reducible first
      | assumption | apply kept_setXd | apply kept_dropChain | apply kept_report | fail_if_no_progress apply kept_upd
    | split

theorem kept_execCellRelease {die : XDie} {unit : Fin 64} {p : PartI} {ptr : BitVec 32} {s : State} (hs : Kept org s) :
    KeptO org (execCellRelease die unit p ptr s) := by
  unfold execCellRelease
  repeat' first
    | with_reducible first
      | assumption | apply kept_releaseAt | apply kept_ite | apply kept_ite1 | fail_if_no_progress apply kept_upd
      | apply kept_next
    | intro _ | split

theorem kept_bpmRefuse {s : State} {die : XDie} {p : PartI} (hs : Kept org s) : Kept org (bpmRefuse s die p) := kept_upd hs

theorem kept_writeRes {s : State} {die : XDie} {p : PartI} {v : BitVec 32} (hs : Kept org s) :
    Kept org (writeRes s die p v) := by
  unfold writeRes
  repeat' first
    | with_reducible first
      | assumption | apply kept_bpmRefuse | apply kept_setXd | apply kept_ite | apply kept_ite1
      | fail_if_no_progress apply kept_upd
    | intro _ | split | dsimp only

theorem kept_execBpmResWrite {port : RlPort} {die : XDie} {p : PartI} {value : BitVec 32} {s : State} (hs : Kept org s) :
    KeptO org (execBpmResWrite port die p value s) := by
  unfold execBpmResWrite
  repeat' first
    | with_reducible first
      | assumption | apply kept_guarded | apply kept_writeRes | fail_if_no_progress apply kept_upd | apply kept_next
    | intro _ | dsimp only

theorem kept_writeSpill {s : State} {die : XDie} {p : PartI} {v : BitVec 64} (hs : Kept org s) :
    Kept org (writeSpill s die p v) := by
  unfold writeSpill
  repeat' first
    | with_reducible first
      | assumption | apply kept_bpmRefuse | apply kept_setXd | apply kept_ite | apply kept_ite1
      | fail_if_no_progress apply kept_upd
    | intro _ | split | dsimp only

theorem kept_execBpmSpillWrite {port : RlPort} {die : XDie} {p : PartI} {value : BitVec 64} {s : State} (hs : Kept org s) :
    KeptO org (execBpmSpillWrite port die p value s) := by
  unfold execBpmSpillWrite
  repeat' first
    | with_reducible first
      | assumption | apply kept_guarded | apply kept_writeSpill | fail_if_no_progress apply kept_upd | apply kept_next
    | intro _ | dsimp only

end Sys2Proof.Machine
end

