-- ==== Sys2Proof/Laws/KeptStreams.lean ====
section
/-! SUPPORT. What is kept by streams, collectives, the step status, the directory, fabric queues and marks. -/

set_option linter.unusedTactic false
set_option linter.unreachableTactic false
set_option linter.unusedVariables false

namespace Sys2Proof.Machine

variable {org : State}

/-! ### XStream -/

theorem kept_sendX {s : State} {h : XHdr} {m : XMsg} (hs : Kept org s) : Kept org (sendX s h m) := by
  unfold sendX
  repeat' first
    | with_reducible first
      | assumption | apply kept_sendCtl | apply kept_ite | apply kept_ite1 | fail_if_no_progress apply kept_upd
    | intro _ | split

theorem kept_putOut {s : State} {o : OutStream} (hs : Kept org s) : Kept org (putOut s o) := kept_upd hs

theorem kept_modX {s : State} {c : CtxId} {xid : BitVec 16} {f : XCmd → XCmd} (hs : Kept org s) :
    Kept org (modX s c xid f) := kept_upd hs

theorem kept_pushOuts {s : State} {c : CtxId} {os : List OutStream} (hs : Kept org s) : Kept org (pushOuts s c os) :=
  kept_upd hs

theorem kept_sendOpen {s : State} {o : OutStream} (hs : Kept org s) : Kept org (sendOpen s o) := by
  unfold sendOpen
  repeat' with_reducible first
    | assumption | apply kept_putOut | apply kept_sendX | fail_if_no_progress apply kept_upd

theorem kept_takeEntry {s : State} {o : OutStream} (hs : Kept org s) : Kept org (takeEntry s o) := by
  unfold takeEntry
  repeat' first
    | with_reducible first
      | assumption | apply kept_sendX | apply kept_putOut | apply kept_sendOpen | apply kept_ite | apply kept_ite1
      | fail_if_no_progress apply kept_upd
    | intro _ | split

theorem kept_execOpenEntryTaken {die : XDie} {s : State} (hs : Kept org s) : KeptO org (execOpenEntryTaken die s) := by
  unfold execOpenEntryTaken
  repeat' first
    | with_reducible first
      | assumption | apply kept_takeEntry | apply kept_ite | apply kept_ite1 | fail_if_no_progress apply kept_upd
      | apply kept_next
    | intro _ | split

theorem kept_sendEnd {s : State} {o : OutStream} (hs : Kept org s) : Kept org (sendEnd s o) := by
  unfold sendEnd
  repeat' with_reducible first
    | assumption | apply kept_sendX | apply kept_putOut | apply kept_ite1 | fail_if_no_progress apply kept_upd

theorem kept_turnOut {s : State} {k : OutKey} (hs : Kept org s) : Kept org (turnOut s k).1 := by
  unfold turnOut
  repeat' first
    | with_reducible first
      | assumption | apply kept_sendEnd | apply kept_report | apply kept_putOut | apply kept_sendData | apply kept_ite
      | apply kept_ite1 | fail_if_no_progress apply kept_upd
    | intro _ | split | dsimp only

theorem kept_roundOut {s : State} {ks : List OutKey} (hs : Kept org s) : Kept org (roundOut s ks).1 := by
  unfold roundOut
  repeat' first
    | with_reducible first
      | assumption | apply kept_turnOut | apply kept_ite | apply kept_ite1 | fail_if_no_progress apply kept_upd
      | apply kept_foldl | apply kept_foldl1
    | intro _ | split | dsimp only

theorem kept_turnsOut {z0 : Nat} {z1 : State} {z2 : List OutKey} (hz1 : Kept org z1) : Kept org (turnsOut z0 z1 z2) := by
  induction z0 generalizing z1 z2 with
  | zero => exact hz1
  | succ n ih =>
    cases z2 with
    | nil => exact hz1
    | cons k t => exact ih (kept_roundOut hz1)

theorem kept_feedOuts {s : State} {os : List OutStream} (hs : Kept org s) : Kept org (feedOuts s os) := by
  unfold feedOuts
  repeat' with_reducible first
    | assumption | apply kept_turnsOut | apply kept_putOut | fail_if_no_progress apply kept_upd | apply kept_foldl

theorem kept_feedOut {s : State} {o : OutStream} (hs : Kept org s) : Kept org (feedOut s o) := by
  unfold feedOut
  repeat' with_reducible first
    | assumption | apply kept_feedOuts | fail_if_no_progress apply kept_upd

theorem kept_sendCounts {s : State} {o : OutStream} (hs : Kept org s) : Kept org (sendCounts s o) := by
  unfold sendCounts
  repeat' first
    | with_reducible first
      | assumption | apply kept_sendX | fail_if_no_progress apply kept_upd | apply kept_foldl | apply kept_foldl1
    | intro _ | dsimp only

theorem kept_execXready {h : XHdr} {cells : BitVec 16} {s : State} (hs : Kept org s) :
    KeptO org (execXready h cells s) := by
  unfold execXready
  repeat' first
    | with_reducible first
      | assumption | apply kept_sendCounts | apply kept_putOut | apply kept_sendEnd | apply kept_feedOut | apply kept_ite
      | apply kept_ite1 | fail_if_no_progress apply kept_upd | apply kept_next
    | intro _ | split | dsimp only

theorem kept_backOff {s : State} {o : OutStream} (hs : Kept org s) : Kept org (backOff s o) := kept_upd hs

theorem kept_execXwait {h : XHdr} {s : State} (hs : Kept org s) : KeptO org (execXwait h s) := by
  unfold execXwait
  repeat' first
    | with_reducible first
      | assumption | apply kept_backOff | apply kept_ite | apply kept_ite1 | fail_if_no_progress apply kept_upd
      | apply kept_next
    | intro _ | split | dsimp only

theorem kept_execXopenRetry {h : XHdr} {s : State} (hs : Kept org s) : KeptO org (execXopenRetry h s) := by
  unfold execXopenRetry
  repeat' first
    | with_reducible first
      | assumption | apply kept_putOut | apply kept_sendOpen | apply kept_ite | apply kept_ite1
      | fail_if_no_progress apply kept_upd | apply kept_next
    | intro _ | split | dsimp only

theorem kept_execXcredit {h : XHdr} {cells : BitVec 16} {s : State} (hs : Kept org s) :
    KeptO org (execXcredit h cells s) := by
  unfold execXcredit
  repeat' first
    | with_reducible first
      | assumption | apply kept_feedOut | apply kept_ite | apply kept_ite1 | fail_if_no_progress apply kept_upd
      | apply kept_next
    | intro _ | split

theorem kept_execXresend {h : XHdr} {offset : BitVec 40} {bytes : BitVec 32} {s : State} (hs : Kept org s) :
    KeptO org (execXresend h offset bytes s) := by
  unfold execXresend
  repeat' first
    | with_reducible first
      | assumption | apply kept_sendRun | apply kept_sendEnd | apply kept_ite | apply kept_ite1
      | fail_if_no_progress apply kept_upd | apply kept_next
    | intro _ | split | dsimp only

/-! ### Collective -/

theorem kept_holdPart {s : State} {k : Coll} {o : CollOut} (hs : Kept org s) : KeptM2 org (holdPart s k o) := by
  unfold holdPart
  split
  · exact kept_some2 hs
  · refine ⟨fun t h => ?_⟩
    obtain ⟨q, -, h⟩ := Option.bind_eq_some_iff.1 h
    obtain ⟨r, hr, rfl⟩ := Option.map_eq_some_iff.1 h
    exact (kept_newChain (kept_spillData (kept_setXd hs))).get _ hr

theorem kept_addOut {q : State × Coll} {o : CollOut} (hq : (Kept org q.1)) : Kept org (addOut q o).1 := by
  unfold addOut
  dsimp only
  split
  · exact hq
  split
  · rename_i r hr
    exact (kept_of_some2 hr (kept_holdPart hq) :)
  · exact hq

theorem kept_addOuts {s : State} {k : Coll} (hs : Kept org s) : Kept org (addOuts s k).1 := by
  unfold addOuts
  repeat' first
    | with_reducible first
      | assumption | apply kept_addOut | fail_if_no_progress apply kept_upd | apply kept_foldl | apply kept_foldl1
    | intro _ | dsimp only

theorem kept_dropPart {s : State} {k : Coll} {o : CollOut} (hs : Kept org s) : Kept org (dropPart s k o) := by
  unfold dropPart
  repeat' first
    | with_reducible first
      | assumption | apply kept_releaseAt | fail_if_no_progress apply kept_upd
    | split

theorem kept_sendC {s : State} {k : Coll} {tree peer : Nat} {m : CMsg} (hs : Kept org s) :
    Kept org (sendC s k tree peer m) := by
  unfold sendC
  repeat' first
    | with_reducible first
      | assumption | apply kept_sendCMsg | apply kept_ite | apply kept_ite1 | fail_if_no_progress apply kept_upd
    | intro _ | split

theorem kept_putColl {s : State} {k : Coll} (hs : Kept org s) : Kept org (putColl s k) := kept_upd hs

theorem kept_dropColl {s : State} {k : Coll} (hs : Kept org s) : Kept org (dropColl s k) := kept_upd hs

theorem kept_sendPart {s : State} {k : Coll} {o : CollOut} (hs : Kept org s) : Kept org (sendPart s k o) := by
  unfold sendPart
  repeat' first
    | with_reducible first
      | assumption | apply kept_sendC | apply kept_sendRun | fail_if_no_progress apply kept_upd
    | dsimp only

theorem kept_sendMarkers {s : State} {k : Coll} (hs : Kept org s) : Kept org (sendMarkers s k).1 := by
  unfold sendMarkers
  repeat' first
    | with_reducible first
      | assumption | apply kept_sendPart | apply kept_ite | apply kept_ite1 | fail_if_no_progress apply kept_upd
      | apply kept_foldl | apply kept_foldl1
    | intro _ | split | dsimp only

theorem kept_freePart {s : State} {k : Coll} {i : CollIn} (hs : Kept org s) : Kept org (freePart s k i) := kept_upd hs

theorem kept_freeUsed {s : State} {k : Coll} (hs : Kept org s) : Kept org (freeUsed s k).1 := by
  unfold freeUsed
  repeat' first
    | with_reducible first
      | assumption | apply kept_freePart | apply kept_ite | apply kept_ite1 | fail_if_no_progress apply kept_upd
      | apply kept_foldl | apply kept_foldl1
    | intro _ | split | dsimp only

theorem kept_abortAll {s : State} {k : Coll} {origin reason : Nat} (hs : Kept org s) :
    Kept org (abortAll s k origin reason) := by
  unfold abortAll
  repeat' first
    | with_reducible first
      | assumption | apply kept_sendC | fail_if_no_progress apply kept_upd | apply kept_foldl
    | intro _ | dsimp only

theorem kept_stopColl {s : State} {k : Coll} {err : OpErr} {origin reason : Nat} (hs : Kept org s) :
    Kept org (stopColl s k err origin reason) := by
  unfold stopColl
  repeat' first
    | with_reducible first
      | assumption | apply kept_dropPart | apply kept_freePart | apply kept_abortAll | apply kept_faultCmd
      | apply kept_havocAreas | apply kept_dropColl | fail_if_no_progress apply kept_upd | apply kept_foldl
    | intro _ | dsimp only

theorem kept_writeResults {s : State} {k : Coll} {z0 : List Nat} (hs : Kept org s) : KeptE2 org (writeResults s k z0) := by
  induction z0 generalizing s k with
  | nil => exact kept_ok2 hs
  | cons c l ih =>
    unfold writeResults
    split
    · exact ih hs
    · split
      · exact kept_err2
      · rename_i u hu
        exact ih (kept_of_ok hu (kept_writeUniAll hs))

theorem kept_finishColl {s : State} {k : Coll} (hs : Kept org s) : Kept org (finishColl s k) := by
  unfold finishColl
  repeat' first
    | with_reducible first
      | assumption | apply kept_dropColl | apply kept_watch | apply kept_advanceRng | apply kept_writeUni
      | apply kept_stopColl | apply kept_endCmd | apply kept_putColl | apply kept_ite | apply kept_ite1
      | fail_if_no_progress apply kept_upd
    | intro _ | refine kept_of_ok (by with_reducible assumption) ?_ | refine kept_fst (by with_reducible assumption) ?_
    | refine kept_of_some (by with_reducible assumption) ?_ | split | dsimp only

theorem kept_progress {s : State} {k0 : Coll} (hs : Kept org s) : Kept org (progress s k0) := by
  unfold progress
  repeat' first
      | with_reducible first
        | assumption | apply kept_addOuts | apply kept_writeResults | apply kept_stopColl | apply kept_sendMarkers
        | apply kept_freeUsed | apply kept_putColl | apply kept_finishColl | apply kept_ite | apply kept_ite1
        | fail_if_no_progress apply kept_upd | apply kept_foldl | apply kept_foldl1 | apply kept_foldlE | apply kept_next
        | apply kept_ok | apply kept_err | apply kept_ok2 | apply kept_err2 | apply kept_some | apply kept_none
        | apply kept_some2 | apply kept_none2
      | intro _ | refine kept_of_ok (by with_reducible assumption) ?_ | refine kept_fst (by with_reducible assumption) ?_
      | refine kept_of_ok2 (by with_reducible assumption) ?_ | refine kept_of_ok2' (by with_reducible assumption) ?_
      | refine kept_of_some (by with_reducible assumption) ?_ | refine kept_of_some2 (by with_reducible assumption) ?_
      | refine kept_of_some2' (by with_reducible assumption) ?_ | refine kept_get (by with_reducible assumption) | split
      | dsimp only | with_reducible apply_assumption

theorem kept_reopenEdge {s : State} {k : Coll} {tree peer : Nat} (hs : Kept org s) :
    Kept org (reopenEdge s k tree peer) := by
  unfold reopenEdge
  repeat' first
    | with_reducible first
      | assumption | apply kept_sendC | apply kept_putColl | apply kept_ite | apply kept_ite1
      | fail_if_no_progress apply kept_upd
    | intro _ | split | dsimp only

theorem kept_answerWait {s : State} {h : CHdr} (hs : Kept org s) : Kept org (answerWait s h) := by
  unfold answerWait
  repeat' with_reducible first
    | assumption | apply kept_sendCMsg | fail_if_no_progress apply kept_upd

theorem kept_noEdge {s : State} {h : CHdr} (hs : Kept org s) : Kept org (noEdge s h) := by
  unfold noEdge
  repeat' first
    | with_reducible first
      | assumption | apply kept_answerWait | apply kept_ite | apply kept_ite1 | fail_if_no_progress apply kept_upd
    | intro _ | split

theorem kept_execCopen {h : CHdr} {pdig gdig : BitVec 32} {s : State} (hs : Kept org s) :
    KeptO org (execCopen h pdig gdig s) := by
  unfold execCopen
  repeat' first
    | with_reducible first
      | assumption | apply kept_answerWait | apply kept_reopenEdge | apply kept_sendC | apply kept_stopColl | apply kept_ite
      | apply kept_ite1 | fail_if_no_progress apply kept_upd | apply kept_next
    | intro _ | split

theorem kept_execCready {h : CHdr} {s : State} (hs : Kept org s) : KeptO org (execCready h s) := by
  unfold execCready
  repeat' first
    | with_reducible first
      | assumption | apply kept_coherentLate | apply kept_progress | apply kept_ite | apply kept_ite1
      | fail_if_no_progress apply kept_upd | apply kept_next
    | intro _ | split | dsimp only

theorem kept_execCwait {h : CHdr} {s : State} (hs : Kept org s) : KeptO org (execCwait h s) := by
  unfold execCwait
  repeat' first
    | with_reducible first
      | assumption | apply kept_putColl | apply kept_ite | apply kept_ite1 | fail_if_no_progress apply kept_upd
      | apply kept_next
    | intro _ | split | dsimp only

theorem kept_execCopenRetry {h : CHdr} {s : State} (hs : Kept org s) : KeptO org (execCopenRetry h s) := by
  unfold execCopenRetry
  repeat' first
    | with_reducible first
      | assumption | apply kept_sendC | apply kept_putColl | apply kept_ite | apply kept_ite1
      | fail_if_no_progress apply kept_upd | apply kept_next
    | intro _ | split | dsimp only

theorem kept_grantChunk {s : State} {k : Coll} {c pass peer : Nat} (hs : Kept org s) :
    Kept org (grantChunk s k c pass peer) := by
  unfold grantChunk
  repeat' first
    | with_reducible first
      | assumption | apply kept_putColl | apply kept_setXd | apply kept_ite | apply kept_ite1
      | fail_if_no_progress apply kept_upd
    | intro _ | split | dsimp only

theorem kept_sendReady {s : State} {k : Coll} {c pass peer : Nat} (hs : Kept org s) :
    Kept org (sendReady s k c pass peer) := by
  unfold sendReady
  repeat' first
    | with_reducible first
      | assumption | apply kept_putColl | apply kept_sendPart | apply kept_ite | apply kept_ite1
      | fail_if_no_progress apply kept_upd
    | intro _ | split | dsimp only

theorem kept_sendGranted {s : State} {k : Coll} {c pass peer : Nat} (hs : Kept org s) :
    Kept org (sendGranted s k c pass peer) := by
  unfold sendGranted
  repeat' first
    | with_reducible first
      | assumption | apply kept_sendReady | apply kept_addOuts | apply kept_putColl | apply kept_ite | apply kept_ite1
      | fail_if_no_progress apply kept_upd
    | intro _ | split | dsimp only

theorem kept_execChunkCellGrant {h : CHdr} {chunk : BitVec 32} {pass : Fin 4} {s : State} (hs : Kept org s) :
    KeptO org (execChunkCellGrant h chunk pass s) := by
  unfold execChunkCellGrant
  repeat' first
    | with_reducible first
      | assumption | apply kept_grantChunk | apply kept_sendGranted | apply kept_ite | apply kept_ite1
      | fail_if_no_progress apply kept_upd | apply kept_next
    | intro _ | split

theorem kept_countRetry {s : State} {c : Nat} (hs : Kept org s) : Kept org (countRetry s c) := kept_upd hs

theorem kept_checkPart {s : State} {k : Coll} {i : CollIn} (hs : Kept org s) : KeptM2 org (checkPart s k i) := by
  unfold checkPart
  repeat' first
    | with_reducible first
      | assumption | apply kept_stopColl | apply kept_sendC | apply kept_putColl | apply kept_report | apply kept_countRetry
      | apply kept_ite | fail_if_no_progress apply kept_upd | apply kept_some2 | apply kept_none2
    | intro _ | split | dsimp only

theorem kept_residue {s : State} {k : Coll} {c : Nat} {flaw flaw2 : List (BitVec 48)} (hs : Kept org s) :
    Kept org (residue s k c flaw flaw2) := by
  unfold residue
  repeat' first
    | with_reducible first
      | assumption | apply kept_progress | apply kept_setXd | apply kept_report | apply kept_putColl | apply kept_ite
      | apply kept_ite1 | fail_if_no_progress apply kept_upd
    | intro _ | split | dsimp only

theorem kept_takePart {k : Coll} {i : CollIn} {flaw flaw2 : List (BitVec 48)} {s : State} (hs : Kept org s) :
    Kept org (takePart k i flaw flaw2 s) := by
  unfold takePart
  repeat' first
      | with_reducible first
        | assumption | apply kept_checkPart | apply kept_putColl | apply kept_residue | apply kept_progress | apply kept_ite
        | apply kept_ite1 | fail_if_no_progress apply kept_upd | apply kept_foldl | apply kept_foldl1 | apply kept_foldlE
        | apply kept_next | apply kept_ok | apply kept_err | apply kept_ok2 | apply kept_err2 | apply kept_some
        | apply kept_none | apply kept_some2 | apply kept_none2
      | intro _ | refine kept_of_ok (by with_reducible assumption) ?_ | refine kept_fst (by with_reducible assumption) ?_
      | refine kept_of_ok2 (by with_reducible assumption) ?_ | refine kept_of_ok2' (by with_reducible assumption) ?_
      | refine kept_of_some (by with_reducible assumption) ?_ | refine kept_of_some2 (by with_reducible assumption) ?_
      | refine kept_of_some2' (by with_reducible assumption) ?_ | refine kept_get (by with_reducible assumption) | split
      | dsimp only | with_reducible apply_assumption

theorem kept_execChunkData {h : CHdr} {chunk : BitVec 32} {pass : Fin 4} {offset : BitVec 40} {data : Bytes} {flaw flaw2 : List (BitVec 48)}
    {s : State}
    (hs : Kept org s) :
    KeptO org (execChunkData h chunk pass offset data flaw flaw2 s) := by
  unfold execChunkData
  repeat' first
      | with_reducible first
        | assumption | apply kept_noEdge | apply kept_coherentLate | apply kept_takePart | apply kept_spillData
        | apply kept_ite | apply kept_ite1 | fail_if_no_progress apply kept_upd | apply kept_foldl | apply kept_foldl1
        | apply kept_foldlE | apply kept_next | apply kept_ok | apply kept_err | apply kept_ok2 | apply kept_err2
        | apply kept_some | apply kept_none | apply kept_some2 | apply kept_none2
      | intro _ | refine kept_of_ok (by with_reducible assumption) ?_ | refine kept_fst (by with_reducible assumption) ?_
      | refine kept_of_ok2 (by with_reducible assumption) ?_ | refine kept_of_ok2' (by with_reducible assumption) ?_
      | refine kept_of_some (by with_reducible assumption) ?_ | refine kept_of_some2 (by with_reducible assumption) ?_
      | refine kept_of_some2' (by with_reducible assumption) ?_ | refine kept_get (by with_reducible assumption) | split
      | dsimp only | with_reducible apply_assumption

theorem kept_execCend {h : CHdr} {m : CEndMsg} {flaw flaw2 : List (BitVec 48)} {s : State} (hs : Kept org s) :
    KeptO org (execCend h m flaw flaw2 s) := by
  unfold execCend
  repeat' first
      | with_reducible first
        | assumption | apply kept_noEdge | apply kept_coherentLate | apply kept_takePart | apply kept_sendC | apply kept_ite
        | apply kept_ite1 | fail_if_no_progress apply kept_upd | apply kept_foldl | apply kept_foldl1 | apply kept_foldlE
        | apply kept_next | apply kept_ok | apply kept_err | apply kept_ok2 | apply kept_err2 | apply kept_some
        | apply kept_none | apply kept_some2 | apply kept_none2
      | intro _ | refine kept_of_ok (by with_reducible assumption) ?_ | refine kept_fst (by with_reducible assumption) ?_
      | refine kept_of_ok2 (by with_reducible assumption) ?_ | refine kept_of_ok2' (by with_reducible assumption) ?_
      | refine kept_of_some (by with_reducible assumption) ?_ | refine kept_of_some2 (by with_reducible assumption) ?_
      | refine kept_of_some2' (by with_reducible assumption) ?_ | refine kept_get (by with_reducible assumption) | split
      | dsimp only | with_reducible apply_assumption

theorem kept_ackPart {k : Coll} {hit : CollOut → Bool} {s : State} (hs : Kept org s) : Kept org (ackPart k hit s) := by
  unfold ackPart
  repeat' first
    | with_reducible first
      | assumption | apply kept_dropPart | apply kept_progress | apply kept_ite | apply kept_ite1
      | fail_if_no_progress apply kept_upd | apply kept_foldl
    | intro _ | split | dsimp only

theorem kept_execCack {h : CHdr} {chunk : BitVec 32} {pass : Fin 4} {s : State} (hs : Kept org s) :
    KeptO org (execCack h chunk pass s) := by
  unfold execCack
  repeat' first
    | with_reducible first
      | assumption | apply kept_coherentLate | apply kept_ackPart | apply kept_ite | apply kept_ite1
      | fail_if_no_progress apply kept_upd | apply kept_next
    | intro _ | split

theorem kept_execCresend {h : CHdr} {chunk : BitVec 32} {pass : Fin 4} {s : State} (hs : Kept org s) :
    KeptO org (execCresend h chunk pass s) := by
  unfold execCresend
  repeat' first
    | with_reducible first
      | assumption | apply kept_sendPart | apply kept_ite | apply kept_ite1 | fail_if_no_progress apply kept_upd
      | apply kept_next
    | intro _ | split | dsimp only

theorem kept_execCabort {h : CHdr} {origin : BitVec 16} {reason : BitVec 8} {s : State} (hs : Kept org s) :
    KeptO org (execCabort h origin reason s) := by
  unfold execCabort
  repeat' first
    | with_reducible first
      | assumption | apply kept_stopColl | apply kept_ite | apply kept_ite1 | fail_if_no_progress apply kept_upd
      | apply kept_next
    | intro _ | split

theorem kept_execCollHang {cid : CtxId} {coll : BitVec 16} {s : State} (hs : Kept org s) :
    KeptO org (execCollHang cid coll s) := by
  unfold execCollHang
  repeat' first
    | with_reducible first
      | assumption | apply kept_stopColl | apply kept_ite | apply kept_ite1 | fail_if_no_progress apply kept_upd
      | apply kept_foldl | apply kept_next
    | intro _ | split | dsimp only

theorem kept_startColl {s : State} {k : Coll} (hs : Kept org s) : Kept org (startColl s k) := by
  unfold startColl
  repeat' first
    | with_reducible first
      | assumption | apply kept_sendC | apply kept_progress | fail_if_no_progress apply kept_upd | apply kept_foldl
    | intro _ | dsimp only

theorem kept_runColl {e : Entry} {kind : CollKind} {s : State} {core : Nat} (hs : Kept org s) :
    Kept org (runColl e kind s core).1 := by
  unfold runColl
  repeat' first
    | with_reducible first
      | assumption | apply kept_settleUni | apply kept_startColl | apply kept_ite | apply kept_ite1
      | fail_if_no_progress apply kept_upd
    | intro _ | split | dsimp only

theorem kept_execOpReduce {e : Entry} {s : State} (hs : Kept org s) : KeptO org (execOpReduce e s) := by
  unfold execOpReduce
  apply kept_next
  apply kept_issueCmd hs
  refine ⟨fun t c h => ?_, fun t c h => ?_⟩ <;> dsimp only [collRow]
  all_goals repeat' first
    | with_reducible first
      | assumption | apply kept_issueCmd | apply kept_advanceRng | apply kept_runColl | apply kept_ite | apply kept_ite1
      | fail_if_no_progress apply kept_upd
    | intro _ | split | dsimp only

theorem kept_execOpAllreduce {e : Entry} {s : State} (hs : Kept org s) : KeptO org (execOpAllreduce e s) := by
  unfold execOpAllreduce
  apply kept_next
  apply kept_issueCmd hs
  refine ⟨fun t c h => ?_, fun t c h => ?_⟩ <;> dsimp only [collRow]
  all_goals repeat' first
    | with_reducible first
      | assumption | apply kept_issueCmd | apply kept_advanceRng | apply kept_runColl | apply kept_ite | apply kept_ite1
      | fail_if_no_progress apply kept_upd
    | intro _ | split | dsimp only

theorem kept_execOpBcast {e : Entry} {s : State} (hs : Kept org s) : KeptO org (execOpBcast e s) := by
  unfold execOpBcast
  apply kept_next
  apply kept_issueCmd hs
  refine ⟨fun t c h => ?_, fun t c h => ?_⟩ <;> dsimp only [collRow]
  all_goals repeat' first
    | with_reducible first
      | assumption | apply kept_issueCmd | apply kept_advanceRng | apply kept_runColl | apply kept_ite | apply kept_ite1
      | fail_if_no_progress apply kept_upd
    | intro _ | split | dsimp only

theorem kept_execOpAllgather {e : Entry} {s : State} (hs : Kept org s) : KeptO org (execOpAllgather e s) := by
  unfold execOpAllgather
  apply kept_next
  apply kept_issueCmd hs
  refine ⟨fun t c h => ?_, fun t c h => ?_⟩ <;> dsimp only [collRow]
  all_goals repeat' first
    | with_reducible first
      | assumption | apply kept_issueCmd | apply kept_advanceRng | apply kept_runColl | apply kept_ite | apply kept_ite1
      | fail_if_no_progress apply kept_upd
    | intro _ | split | dsimp only

/-! ### StepStatus -/

theorem kept_stepOk {s : State} (hs : Kept org s) : Kept org (stepOk s).1 := kept_upd hs

theorem kept_stepFail {s : State} {e : Entry} {core : Nat} {code : BitVec 16} (hs : Kept org s) :
    Kept org (stepFail s e core code).1 := by
  unfold stepFail
  repeat' with_reducible first
    | assumption | apply kept_report | fail_if_no_progress apply kept_upd

theorem kept_mirrorBind {s : State} {c : CtxId} (hs : Kept org s) : Kept org (mirrorBind s c) := by
  unfold mirrorBind
  repeat' with_reducible first
    | assumption | apply kept_mirror | fail_if_no_progress apply kept_upd

theorem kept_setBind {s : State} {c : CtxId} {b : Option StepBind} {skip : Bool} (hs : Kept org s) :
    Kept org (setBind s c b skip) := by
  unfold setBind
  repeat' with_reducible first
    | assumption | apply kept_mirrorBind | apply kept_setCtx | apply kept_step | fail_if_no_progress apply kept_upd

theorem kept_writeBack {s : State} {c : CtxId} {b : StepBind} (hs : Kept org s) : KeptE org (writeBack s c b) := by
  unfold writeBack
  repeat' with_reducible first
    | assumption | apply kept_writeUni | fail_if_no_progress apply kept_upd | apply kept_ok | apply kept_err

theorem kept_runBind {e : Entry} {s : State} {core : Nat} (hs : Kept org s) : Kept org (runBind e s core).1 := by
  unfold runBind
  repeat' first
    | with_reducible first
      | assumption | apply kept_stepFail | apply kept_step | apply kept_stepOk | apply kept_setBind | apply kept_writeBack
      | apply kept_ite | apply kept_ite1 | fail_if_no_progress apply kept_upd
    | intro _ | refine kept_of_ok (by with_reducible assumption) ?_ | refine kept_fst (by with_reducible assumption) ?_
    | refine kept_of_some (by with_reducible assumption) ?_ | split | dsimp only

theorem kept_runUnbind {e : Entry} {s : State} {core : Nat} (hs : Kept org s) : Kept org (runUnbind e s core).1 := by
  unfold runUnbind
  repeat' first
    | with_reducible first
      | assumption | apply kept_step | apply kept_stepOk | apply kept_writeBack | apply kept_setBind | apply kept_stepFail
      | fail_if_no_progress apply kept_upd
    | refine kept_of_ok (by with_reducible assumption) ?_ | refine kept_fst (by with_reducible assumption) ?_
    | refine kept_of_some (by with_reducible assumption) ?_ | split

theorem kept_runAgree {e : Entry} {s : State} {core : Nat} (hs : Kept org s) : Kept org (runAgree e s core).1 := by
  unfold runAgree
  repeat' first
    | with_reducible first
      | assumption | apply kept_step | apply kept_stepFail | apply kept_startColl | apply kept_setBind | apply kept_ite
      | apply kept_ite1 | fail_if_no_progress apply kept_upd
    | intro _ | split | dsimp only

theorem kept_runCheck {e : Entry} {s : State} {core : Nat} (hs : Kept org s) : Kept org (runCheck e s core).1 := by
  unfold runCheck
  repeat' first
    | with_reducible first
      | assumption | apply kept_step | apply kept_stepFail | apply kept_stepOk | apply kept_setBind | apply kept_ite
      | apply kept_ite1 | fail_if_no_progress apply kept_upd
    | intro _ | split

theorem kept_runCommit {e : Entry} {s : State} {core : Nat} (hs : Kept org s) : Kept org (runCommit e s core).1 := by
  unfold runCommit
  repeat' first
    | with_reducible first
      | assumption | apply kept_step | apply kept_stepFail | apply kept_setBind | apply kept_writeBack | apply kept_stepOk
      | apply kept_report | apply kept_ite | apply kept_ite1 | fail_if_no_progress apply kept_upd
    | intro _ | refine kept_of_ok (by with_reducible assumption) ?_ | refine kept_fst (by with_reducible assumption) ?_
    | refine kept_of_some (by with_reducible assumption) ?_ | split | dsimp only

theorem kept_runStep {e : Entry} {z0 : State} {z1 : Nat} (hz0 : Kept org z0) : Kept org (runStep e z0 z1).1 := by
  unfold runStep
  generalize stepMode e.desc = m
  match m with
  | 0 => exact kept_runBind hz0
  | 1 => exact kept_runAgree hz0
  | 2 => exact kept_runCheck hz0
  | 3 => exact kept_runCommit hz0
  | _ + 4 => exact kept_runUnbind hz0

theorem kept_execOpStepStatusBind {e : Entry} {s : State} (hs : Kept org s) : KeptO org (execOpStepStatusBind e s) := by
  unfold execOpStepStatusBind
  apply kept_next
  apply kept_issueCmd hs
  refine ⟨fun t c h => ?_, fun t c h => ?_⟩ <;> dsimp only [stepRow]
  all_goals repeat' with_reducible first
    | assumption | apply kept_issueCmd | apply kept_runStep | fail_if_no_progress apply kept_upd

theorem kept_execOpStepStatusAgree {e : Entry} {s : State} (hs : Kept org s) : KeptO org (execOpStepStatusAgree e s) := by
  unfold execOpStepStatusAgree
  apply kept_next
  apply kept_issueCmd hs
  refine ⟨fun t c h => ?_, fun t c h => ?_⟩ <;> dsimp only [stepRow]
  all_goals repeat' with_reducible first
    | assumption | apply kept_issueCmd | apply kept_runStep | fail_if_no_progress apply kept_upd

theorem kept_execOpStepStatusCheck {e : Entry} {s : State} (hs : Kept org s) : KeptO org (execOpStepStatusCheck e s) := by
  unfold execOpStepStatusCheck
  apply kept_next
  apply kept_issueCmd hs
  refine ⟨fun t c h => ?_, fun t c h => ?_⟩ <;> dsimp only [stepRow]
  all_goals repeat' with_reducible first
    | assumption | apply kept_issueCmd | apply kept_runStep | fail_if_no_progress apply kept_upd

theorem kept_execOpStepStatusCommit {e : Entry} {s : State} (hs : Kept org s) : KeptO org (execOpStepStatusCommit e s) := by
  unfold execOpStepStatusCommit
  apply kept_next
  apply kept_issueCmd hs
  refine ⟨fun t c h => ?_, fun t c h => ?_⟩ <;> dsimp only [stepRow]
  all_goals repeat' with_reducible first
    | assumption | apply kept_issueCmd | apply kept_runStep | fail_if_no_progress apply kept_upd

theorem kept_execOpStepStatusUnbind {e : Entry} {s : State} (hs : Kept org s) : KeptO org (execOpStepStatusUnbind e s) := by
  unfold execOpStepStatusUnbind
  apply kept_next
  apply kept_issueCmd hs
  refine ⟨fun t c h => ?_, fun t c h => ?_⟩ <;> dsimp only [stepRow]
  all_goals repeat' with_reducible first
    | assumption | apply kept_issueCmd | apply kept_runStep | fail_if_no_progress apply kept_upd

theorem kept_execStepAgreeResult {cid : CtxId} {ovf : Bool} {s : State} (hs : Kept org s) :
    KeptO org (execStepAgreeResult cid ovf s) := by
  unfold execStepAgreeResult
  repeat' first
    | with_reducible first
      | assumption | apply kept_modStep | apply kept_progress | apply kept_endCmd | apply kept_putColl | apply kept_ite
      | apply kept_ite1 | fail_if_no_progress apply kept_upd | apply kept_next
    | intro _ | split | dsimp only

/-! ### Digest -/

theorem kept_setDigest {s : State} {c : CtxId} {i : Nat} {x : Option DigestSlot} (hs : Kept org s) :
    Kept org (setDigest s c i x) := kept_upd hs

theorem kept_runDigestOpen {e : Entry} {s : State} {_core : Nat} (hs : Kept org s) :
    Kept org (runDigestOpen e s _core).1 := kept_upd hs

theorem kept_runAbsorb {e : Entry} {s : State} {core : Nat} (hs : Kept org s) : Kept org (runAbsorb e s core).1 := by
  unfold runAbsorb
  repeat' first
    | with_reducible first
      | assumption | apply kept_report | apply kept_setDigest | fail_if_no_progress apply kept_upd
    | split | dsimp only

theorem kept_runDigestClose {e : Entry} {canSign : Bool} {s : State} {_core : Nat} (hs : Kept org s) :
    Kept org (runDigestClose e canSign s _core).1 := by
  unfold runDigestClose
  repeat' first
    | with_reducible first
      | assumption | apply kept_writeUni | apply kept_report | apply kept_setDigest | apply kept_ite1
      | fail_if_no_progress apply kept_upd
    | intro _ | refine kept_of_ok (by with_reducible assumption) ?_ | refine kept_fst (by with_reducible assumption) ?_
    | refine kept_of_some (by with_reducible assumption) ?_ | split | dsimp only

theorem kept_execOpDigestOpen {e : Entry} {s : State} (hs : Kept org s) : KeptO org (execOpDigestOpen e s) := by
  unfold execOpDigestOpen
  apply kept_next
  apply kept_issueCmd hs
  refine ⟨fun t c h => ?_, fun t c h => ?_⟩ <;> dsimp only [digestRow]
  all_goals repeat' with_reducible first
    | assumption | apply kept_issueCmd | apply kept_runDigestOpen | fail_if_no_progress apply kept_upd

theorem kept_execOpDigestAbsorb {e : Entry} {s : State} (hs : Kept org s) : KeptO org (execOpDigestAbsorb e s) := by
  unfold execOpDigestAbsorb
  apply kept_next
  apply kept_issueCmd hs
  refine ⟨fun t c h => ?_, fun t c h => ?_⟩ <;> dsimp only [digestRow]
  all_goals repeat' with_reducible first
    | assumption | apply kept_issueCmd | apply kept_runAbsorb | fail_if_no_progress apply kept_upd

theorem kept_execOpDigestClose {e : Entry} {canSign : Bool} {s : State} (hs : Kept org s) :
    KeptO org (execOpDigestClose e canSign s) := by
  unfold execOpDigestClose
  apply kept_next
  apply kept_issueCmd hs
  refine ⟨fun t c h => ?_, fun t c h => ?_⟩ <;> dsimp only [digestRow]
  all_goals repeat' with_reducible first
    | assumption | apply kept_issueCmd | apply kept_runDigestClose | fail_if_no_progress apply kept_upd

theorem kept_runSeek {e : Entry} {s : State} {core : Nat} (hs : Kept org s) : Kept org (runSeek e s core).1 := by
  unfold runSeek
  repeat' first
    | with_reducible first
      | assumption | apply kept_report | apply kept_setRng | apply kept_ite | apply kept_ite1
      | fail_if_no_progress apply kept_upd
    | intro _ | split | dsimp only

theorem kept_execOpRngSeekSet {e : Entry} {s : State} (hs : Kept org s) : KeptO org (execOpRngSeekSet e s) := by
  unfold execOpRngSeekSet
  apply kept_next
  apply kept_issueCmd hs
  refine ⟨fun t c h => ?_, fun t c h => ?_⟩ <;> dsimp only [seekRow]
  all_goals repeat' with_reducible first
    | assumption | apply kept_issueCmd | apply kept_runSeek | fail_if_no_progress apply kept_upd

theorem kept_execOpRngSeekAdd {e : Entry} {s : State} (hs : Kept org s) : KeptO org (execOpRngSeekAdd e s) := by
  unfold execOpRngSeekAdd
  apply kept_next
  apply kept_issueCmd hs
  refine ⟨fun t c h => ?_, fun t c h => ?_⟩ <;> dsimp only [seekRow]
  all_goals repeat' with_reducible first
    | assumption | apply kept_issueCmd | apply kept_runSeek | fail_if_no_progress apply kept_upd

theorem kept_execOpRngSeekCheck {e : Entry} {s : State} (hs : Kept org s) : KeptO org (execOpRngSeekCheck e s) := by
  unfold execOpRngSeekCheck
  apply kept_next
  apply kept_issueCmd hs
  refine ⟨fun t c h => ?_, fun t c h => ?_⟩ <;> dsimp only [seekRow]
  all_goals repeat' with_reducible first
    | assumption | apply kept_issueCmd | apply kept_runSeek | fail_if_no_progress apply kept_upd

/-! ### Directory -/

theorem kept_sweepDir {s : State} (hs : Kept org s) : Kept org (sweepDir s) := kept_upd hs

theorem kept_putDir {s : State} {e : DirEnt} (hs : Kept org s) : Kept org (putDir s e) := kept_upd hs

theorem kept_freshDir {s : State} {e : DirEnt} (hs : Kept org s) : Kept org (freshDir s e) := kept_upd hs

theorem kept_invSharers {s : State} {e : DirEnt} {v : BitVec 7} (hs : Kept org s) : Kept org (invSharers s e v) := by
  unfold invSharers
  repeat' first
    | with_reducible first
      | assumption | apply kept_putDir | apply kept_toHolder | fail_if_no_progress apply kept_upd | apply kept_foldl
    | intro _ | dsimp only

theorem kept_dirStart {s : State} {e : DirEnt} {a : Access} (hs : Kept org s) : Kept org (dirStart s e a).1 := by
  unfold dirStart
  repeat' first
    | with_reducible first
      | assumption | apply kept_invSharers | apply kept_startRecall | apply kept_ite | apply kept_ite1
      | fail_if_no_progress apply kept_upd
    | intro _ | split | dsimp only

theorem kept_evictDir {s : State} {die : Nat} (hs : Kept org s) : Kept org (evictDir s die) := by
  unfold evictDir
  repeat' first
    | with_reducible first
      | assumption | apply kept_setXd | apply kept_invSharers | apply kept_startRecall | fail_if_no_progress apply kept_upd
    | intro _ | split | dsimp only

theorem kept_dirReady {s : State} {a n : Nat} {k : Access} (hs : Kept org s) : Kept org (dirReady s a n k).1 := by
  unfold dirReady
  repeat' first
    | with_reducible first
      | assumption | apply kept_dirStart | apply kept_evictDir | apply kept_ite | apply kept_ite1
      | fail_if_no_progress apply kept_upd | apply kept_foldl | apply kept_foldl1
    | intro _ | split | dsimp only

theorem kept_dirAfter {s : State} {a n : Nat} {k : Access} (hs : Kept org s) : Kept org (dirAfter s a n k) := by
  unfold dirAfter
  repeat' first
    | with_reducible first
      | assumption | apply kept_freshDir | fail_if_no_progress apply kept_upd
    | intro _ | split | dsimp only

theorem kept_passHolder {s : State} {h : Holder} {home : Coord} {addr : Nat} {m : MsfMsg} {data : Option Bytes}
    (hs : Kept org s) :
    Kept org (passHolder s h home addr m data) := by
  unfold passHolder
  repeat' first
    | with_reducible first
      | assumption | apply kept_sendMsf | apply kept_sendPkt | apply kept_ite1 | fail_if_no_progress apply kept_upd
    | intro _ | split | dsimp only

theorem kept_lineBack {s : State} {addr : Nat} {data : Bytes} (hs : Kept org s) : Kept org (lineBack s addr data) := by
  unfold lineBack
  repeat' first
    | with_reducible first
      | assumption | apply kept_writeHome | fail_if_no_progress apply kept_upd
    | refine kept_of_ok (by with_reducible assumption) ?_ | refine kept_fst (by with_reducible assumption) ?_
    | refine kept_of_some (by with_reducible assumption) ?_ | split | dsimp only

theorem kept_ackInv {s : State} {h : Holder} {addr : Nat} (hs : Kept org s) : Kept org (ackInv s h addr) := by
  unfold ackInv
  repeat' first
    | with_reducible first
      | assumption | apply kept_putDir | fail_if_no_progress apply kept_upd
    | split

theorem kept_endRecall {s : State} {e : DirEnt} {keep : Bool} {o : Holder} {addr : Nat} {data : Bytes} (hs : Kept org s) :
    Kept org (endRecall s e keep o addr data) := by
  unfold endRecall
  repeat' with_reducible first
    | assumption | apply kept_putDir | apply kept_lineBack | apply kept_ite1 | fail_if_no_progress apply kept_upd

theorem kept_ackRecall {s : State} {h : Holder} {addr : Nat} {data : Option Bytes} (hs : Kept org s) :
    Kept org (ackRecall s h addr data) := by
  unfold ackRecall
  repeat' first
    | with_reducible first
      | assumption | apply kept_endRecall | apply kept_ite | apply kept_ite1 | fail_if_no_progress apply kept_upd
    | intro _ | split

theorem kept_takePuts {s : State} {h : Holder} {addr : Nat} (hs : Kept org s) : Kept org (takePuts s h addr) := by
  unfold takePuts
  repeat' first
    | with_reducible first
      | assumption | apply kept_putDir | fail_if_no_progress apply kept_upd
    | split

theorem kept_takePutm {s : State} {h : Holder} {addr : Nat} {data : Bytes} (hs : Kept org s) :
    Kept org (takePutm s h addr data) := by
  unfold takePutm
  repeat' first
    | with_reducible first
      | assumption | apply kept_endRecall | apply kept_ite | apply kept_ite1 | fail_if_no_progress apply kept_upd
    | intro _ | split

/-! ### Target -/

theorem kept_deny {s : State} {c : CtxId} {m : ReqMsg} {code : BitVec 16} (hs : Kept org s) :
    Kept org (deny s c m code).1 := by
  unfold deny
  repeat' first
    | with_reducible first
      | assumption | apply kept_report | apply kept_ite | apply kept_ite1 | fail_if_no_progress apply kept_upd
    | intro _ | split | dsimp only

theorem kept_writeRuns {s : State} {p : PartI} {a : Nat} {l : List (Nat × Bytes)} (hs : Kept org s) :
    KeptE org (writeRuns s p a l) := by
  unfold writeRuns
  repeat' first
      | with_reducible first
        | assumption | apply kept_writeHome | apply kept_ite | apply kept_ite1 | fail_if_no_progress apply kept_upd
        | apply kept_foldl | apply kept_foldl1 | apply kept_foldlE | apply kept_next | apply kept_ok | apply kept_err
        | apply kept_ok2 | apply kept_err2 | apply kept_some | apply kept_none | apply kept_some2 | apply kept_none2
      | intro _ | refine kept_of_ok (by with_reducible assumption) ?_ | refine kept_fst (by with_reducible assumption) ?_
      | refine kept_of_ok2 (by with_reducible assumption) ?_ | refine kept_of_ok2' (by with_reducible assumption) ?_
      | refine kept_of_some (by with_reducible assumption) ?_ | refine kept_of_some2 (by with_reducible assumption) ?_
      | refine kept_of_some2' (by with_reducible assumption) ?_ | refine kept_get (by with_reducible assumption) | split
      | dsimp only | with_reducible apply_assumption

theorem kept_applyReq {s : State} {c : CtxId} {m : ReqMsg} (hs : Kept org s) : Kept org (applyReq s c m).1 := by
  unfold applyReq
  repeat' first
    | with_reducible first
      | assumption | apply kept_deny | apply kept_writeRuns | apply kept_writeHome | apply kept_ite | apply kept_ite1
      | fail_if_no_progress apply kept_upd
    | intro _ | refine kept_of_ok (by with_reducible assumption) ?_ | refine kept_fst (by with_reducible assumption) ?_
    | refine kept_of_some (by with_reducible assumption) ?_ | split | dsimp only

theorem kept_putOrd {s : State} {o : OrdEnt} (hs : Kept org s) : Kept org (putOrd s o) := kept_upd hs

theorem kept_answer {s : State} {c : CtxId} {k : OrdKey} {plane : XDie} {m : RspMsg} {op : MsfOp} (hs : Kept org s) :
    Kept org (answer s c k plane m op) := by
  unfold answer
  repeat' first
    | with_reducible first
      | assumption | apply kept_sendWith | apply kept_cpnRsp | apply kept_ctxRsp | apply kept_putReq | apply kept_ite
      | apply kept_ite1 | fail_if_no_progress apply kept_upd
    | intro _ | split | dsimp only

theorem kept_noteOrd {s : State} {o : OrdEnt} (hs : Kept org s) : Kept org (noteOrd s o) := by
  unfold noteOrd
  repeat' with_reducible first
    | assumption | apply kept_mirror | fail_if_no_progress apply kept_upd

theorem kept_dropOrd {s : State} {o : OrdEnt} (hs : Kept org s) : Kept org (dropOrd s o) := by
  unfold dropOrd
  repeat' with_reducible first
    | assumption | apply kept_mirror | fail_if_no_progress apply kept_upd

theorem kept_settleOrd {s : State} {o : OrdEnt} {m : ReqMsg} {x : Answer} (hs : Kept org s) :
    Kept org (settleOrd s o m x) := by
  unfold settleOrd
  repeat' with_reducible first
    | assumption | apply kept_putOrd | apply kept_answer | apply kept_noteOrd | fail_if_no_progress apply kept_upd

theorem kept_serveKey {z0 : Nat} {z1 : State} {z2 : OrdKey} (hz1 : Kept org z1) : Kept org (serveKey z0 z1 z2) := by
  induction z0 generalizing z1 with
  | zero => exact hz1
  | succ n ih =>
    unfold serveKey
    split
    · exact hz1
    split
    · exact hz1
    dsimp only
    split
    · exact ih (kept_settleOrd hz1)
    split
    · exact hz1
    split
    · exact kept_upd hz1
    have hd : ∀ a n b w, Kept org w → Kept org (dirReady w a n b).1 := fun _ _ _ _ h => kept_dirReady h
    refine kept_ite (fun _ => ?_) (fun _ => ?_)
    · refine ih (kept_settleOrd ?_)
      refine kept_ite (fun _ => ?_) (fun _ => ?_)
      · exact kept_dirAfter (kept_applyReq (kept_dirReady (kept_upd hz1)))
      · exact kept_applyReq (kept_dirReady (kept_upd hz1))
    · exact kept_dirReady (kept_upd hz1)

theorem kept_serveWaiting {s : State} (hs : Kept org s) : Kept org (serveWaiting s) := by
  unfold serveWaiting
  repeat' with_reducible first
    | assumption | apply kept_sweepDir | apply kept_serveKey | fail_if_no_progress apply kept_upd | apply kept_foldl

theorem kept_answerBusy {s : State} {m : ReqMsg} {die : XDie} (hs : Kept org s) : Kept org (answerBusy s m die) := by
  unfold answerBusy
  repeat' first
    | with_reducible first
      | assumption | apply kept_setXd | apply kept_acceptBusy | apply kept_sendMsf | apply kept_ite | apply kept_ite1
      | fail_if_no_progress apply kept_upd
    | intro _ | split | dsimp only

theorem kept_ordTake {s : State} {o : OrdEnt} {m : ReqMsg} (hs : Kept org s) : Kept org (ordTake s o m) := by
  unfold ordTake
  repeat' first
    | with_reducible first
      | assumption | apply kept_putOrd | apply kept_answer | apply kept_serveWaiting | apply kept_serveKey | apply kept_ite
      | apply kept_ite1 | fail_if_no_progress apply kept_upd
    | intro _ | split | dsimp only

theorem kept_targetReq {s : State} {c : CtxId} {m : ReqMsg} (hs : Kept org s) : Kept org (targetReq s c m) := by
  unfold targetReq
  repeat' first
    | with_reducible first
      | assumption | apply kept_ordTake | apply kept_answerBusy | apply kept_ite | apply kept_ite1
      | fail_if_no_progress apply kept_upd
    | intro _ | split | dsimp only

theorem kept_execReq {m : ReqMsg} {s : State} (hs : Kept org s) : KeptO org (execReq m s) := by
  unfold execReq
  repeat' first
    | with_reducible first
      | assumption | apply kept_coherentLate | apply kept_targetReq | apply kept_ite | apply kept_ite1
      | fail_if_no_progress apply kept_upd | apply kept_next
    | intro _ | split | dsimp only

theorem kept_execOrderEntryExpiry {die : XDie} {src : Coord} {jtag : BitVec 16} {cpn : Bool} {cpnPort : Fin 2} {q : Fin 4}
    {s : State}
    (hs : Kept org s) :
    KeptO org (execOrderEntryExpiry die src jtag cpn cpnPort q s) := by
  unfold execOrderEntryExpiry
  repeat' first
    | with_reducible first
      | assumption | apply kept_dropOrd | apply kept_ite | apply kept_ite1 | fail_if_no_progress apply kept_upd
      | apply kept_foldl | apply kept_next
    | intro _ | split | dsimp only

theorem kept_execInvack {holder : Holder} {addr : BitVec 44} {s : State} (hs : Kept org s) :
    KeptO org (execInvack holder addr s) := by
  unfold execInvack
  repeat' first
    | with_reducible first
      | assumption | apply kept_coherentLate | apply kept_serveWaiting | apply kept_ackInv | apply kept_ite
      | apply kept_ite1 | fail_if_no_progress apply kept_upd | apply kept_next
    | intro _ | split | dsimp only

theorem kept_execRecallack {holder : Holder} {home : Coord} {addr : BitVec 44} {data : Option Bytes} {s : State}
    (hs : Kept org s) :
    KeptO org (execRecallack holder home addr data s) := by
  unfold execRecallack
  repeat' first
    | with_reducible first
      | assumption | apply kept_coherentLate | apply kept_serveWaiting | apply kept_ackRecall | apply kept_passHolder
      | apply kept_ite | apply kept_ite1 | fail_if_no_progress apply kept_upd | apply kept_next
    | intro _ | split | dsimp only

theorem kept_execPuts {holder : Holder} {home : Coord} {addr : BitVec 44} {s : State} (hs : Kept org s) :
    KeptO org (execPuts holder home addr s) := by
  unfold execPuts
  repeat' first
    | with_reducible first
      | assumption | apply kept_coherentLate | apply kept_serveWaiting | apply kept_takePuts | apply kept_passHolder
      | apply kept_ite | apply kept_ite1 | fail_if_no_progress apply kept_upd | apply kept_next
    | intro _ | split | dsimp only

theorem kept_execPutm {holder : Holder} {home : Coord} {addr : BitVec 44} {data : Bytes} {s : State} (hs : Kept org s) :
    KeptO org (execPutm holder home addr data s) := by
  unfold execPutm
  repeat' first
    | with_reducible first
      | assumption | apply kept_coherentLate | apply kept_serveWaiting | apply kept_takePutm | apply kept_passHolder
      | apply kept_ite | apply kept_ite1 | fail_if_no_progress apply kept_upd | apply kept_next
    | intro _ | split | dsimp only

theorem kept_execRecallLine {home : Coord} {keep : Bool} {addr : BitVec 44} {port : RlPort} {s : State} (hs : Kept org s) :
    KeptO org (execRecallLine home keep addr port s) := by
  unfold execRecallLine
  repeat' first
    | with_reducible first
      | assumption | apply kept_send | apply kept_ite | apply kept_ite1 | fail_if_no_progress apply kept_upd
      | apply kept_next
    | intro _ | split

theorem kept_endPut {s : State} {o : OrdEnt} {m : ReqMsg} {n : Nat} {crc : BitVec 32} (hs : Kept org s) :
    Kept org (endPut s o m n crc) := by
  unfold endPut
  repeat' first
    | with_reducible first
      | assumption | apply kept_serveWaiting | apply kept_serveKey | apply kept_putOrd | apply kept_sendMsf | apply kept_ite
      | apply kept_ite1 | fail_if_no_progress apply kept_upd
    | intro _ | split

theorem kept_execBend {src : Coord} {jtag sid : BitVec 16} {bytes : BitVec 40} {crc : BitVec 32} {s : State}
    (hs : Kept org s) :
    KeptO org (execBend src jtag sid bytes crc s) := by
  unfold execBend
  repeat' first
    | with_reducible first
      | assumption | apply kept_coherentLate | apply kept_checkGet | apply kept_send | apply kept_endPut | apply kept_ite
      | apply kept_ite1 | fail_if_no_progress apply kept_upd | apply kept_next
    | intro _ | split | dsimp only

/-! ### FabQueue -/

theorem kept_takeSeq {s : State} {owner q : Nat} {dst : Coord} (hs : Kept org s) : Kept org (takeSeq s owner q dst).1 :=
  kept_upd hs

theorem kept_sendReq {s : State} {c : CtxId} {dst : Coord} {m : ReqMsg} (hs : Kept org s) :
    Kept org (sendReq s c dst m) := by
  unfold sendReq
  repeat' first
    | with_reducible first
      | assumption | apply kept_targetReq | apply kept_sendWith | apply kept_ite | apply kept_ite1
      | fail_if_no_progress apply kept_upd
    | intro _ | split | dsimp only

theorem kept_issueReq {s : State} {c : CtxId} {q : Fin 4} {dst : Coord} {recs : List (BitVec 32)} {laddr : Nat} {m : ReqMsg}
    (hs : Kept org s) :
    Kept org (issueReq s c q dst recs laddr m) := by
  unfold issueReq
  repeat' with_reducible first
    | assumption | apply kept_takeSeq | apply kept_setFq | apply kept_sendReq | apply kept_noteSeq | apply kept_ite
    | apply kept_ite1 | fail_if_no_progress apply kept_upd

theorem kept_flushRun {s : State} {c : CtxId} {q : Fin 4} (hs : Kept org s) : Kept org (flushRun s c q) := by
  unfold flushRun
  repeat' first
    | with_reducible first
      | assumption | apply kept_setFq | apply kept_setXd | apply kept_issueReq | fail_if_no_progress apply kept_upd
      | apply kept_foldl | apply kept_foldl1
    | intro _ | split | dsimp only

theorem kept_gather {s : State} {c : CtxId} {q : Fin 4} {i : BitVec 32} {dst : Coord} {addr : Nat} {mask : BitVec 128}
    {data : Bytes}
    (hs : Kept org s) :
    Kept org (gather s c q i dst addr mask data) := by
  unfold gather
  repeat' first
    | with_reducible first
      | assumption | apply kept_flushRun | apply kept_setFq | apply kept_ite | apply kept_ite1
      | fail_if_no_progress apply kept_upd
    | intro _ | split | dsimp only

theorem kept_execGatewayFlush {cid : CtxId} {q : Fin 4} {s : State} (hs : Kept org s) :
    KeptO org (execGatewayFlush cid q s) := by
  unfold execGatewayFlush
  repeat' first
    | with_reducible first
      | assumption | apply kept_coherent | apply kept_flushRun | apply kept_ite | apply kept_ite1
      | fail_if_no_progress apply kept_upd | apply kept_next
    | intro _ | split | dsimp only

theorem kept_passRec {s : State} {c : CtxId} {q : Fin 4} (hs : Kept org s) : Kept org (passRec s c q) := kept_upd hs

theorem kept_beginRec {s : State} {c : CtxId} {q : Fin 4} {i : BitVec 32} {op : MsfOp} {v : Nat} (hs : Kept org s) :
    Kept org (beginRec s c q i op v) := by
  unfold beginRec
  repeat' first
    | with_reducible first
      | assumption | apply kept_issueReq | apply kept_cacheKeep | apply kept_writeUni | apply kept_doneRecs
      | apply kept_report | apply kept_gather | apply kept_ite | apply kept_ite1 | fail_if_no_progress apply kept_upd
    | intro _ | refine kept_of_ok (by with_reducible assumption) ?_ | refine kept_fst (by with_reducible assumption) ?_
    | refine kept_of_some (by with_reducible assumption) ?_ | split | dsimp only

theorem kept_startRec {s : State} {c : CtxId} {q : Fin 4} {named : Nat → Bool} (hs : Kept org s) :
    Kept org (startRec s c q named) := by
  unfold startRec
  repeat' first
    | with_reducible first
      | assumption | apply kept_report | apply kept_flushRun | apply kept_passRec | apply kept_doneRecs
      | apply kept_badCoord | apply kept_beginRec | apply kept_ite | apply kept_ite1 | fail_if_no_progress apply kept_upd
    | intro _ | split | dsimp only

theorem kept_startOp {c : CtxId} {q : Fin 4} {op : Nat} {s : State} (hs : Kept org s) : Kept org (startOp c q op s) := by
  unfold startOp
  repeat' first
    | with_reducible first
      | assumption | apply kept_coherent | apply kept_startRec | fail_if_no_progress apply kept_upd
    | intro _ | dsimp only

theorem kept_readTail {s : State} {c : CtxId} {q : Fin 4} (hs : Kept org s) : Kept org (readTail s c q) := by
  unfold readTail
  repeat' first
    | with_reducible first
      | assumption | apply kept_setFq | apply kept_report | fail_if_no_progress apply kept_upd
    | split

theorem kept_execFabricQueueRing {cid : CtxId} {q : Fin 4} {s : State} (hs : Kept org s) :
    KeptO org (execFabricQueueRing cid q s) := by
  unfold execFabricQueueRing
  repeat' first
    | with_reducible first
      | assumption | apply kept_coherent | apply kept_startRec | apply kept_readTail | apply kept_ite | apply kept_ite1
      | fail_if_no_progress apply kept_upd | apply kept_next
    | intro _ | split | dsimp only

theorem kept_execRead {cid : CtxId} {q : Fin 4} {s : State} (hs : Kept org s) : KeptO org (execRead cid q s) := by
  unfold execRead
  repeat' with_reducible first
    | assumption | apply kept_startOp | fail_if_no_progress apply kept_upd | apply kept_next

theorem kept_execWrite {cid : CtxId} {q : Fin 4} {s : State} (hs : Kept org s) : KeptO org (execWrite cid q s) := by
  unfold execWrite
  repeat' with_reducible first
    | assumption | apply kept_startOp | fail_if_no_progress apply kept_upd | apply kept_next

theorem kept_execAdd64 {cid : CtxId} {q : Fin 4} {s : State} (hs : Kept org s) : KeptO org (execAdd64 cid q s) := by
  unfold execAdd64
  repeat' with_reducible first
    | assumption | apply kept_startOp | fail_if_no_progress apply kept_upd | apply kept_next

theorem kept_execAdd32 {cid : CtxId} {q : Fin 4} {s : State} (hs : Kept org s) : KeptO org (execAdd32 cid q s) := by
  unfold execAdd32
  repeat' with_reducible first
    | assumption | apply kept_startOp | fail_if_no_progress apply kept_upd | apply kept_next

theorem kept_execAnd64 {cid : CtxId} {q : Fin 4} {s : State} (hs : Kept org s) : KeptO org (execAnd64 cid q s) := by
  unfold execAnd64
  repeat' with_reducible first
    | assumption | apply kept_startOp | fail_if_no_progress apply kept_upd | apply kept_next

theorem kept_execOr64 {cid : CtxId} {q : Fin 4} {s : State} (hs : Kept org s) : KeptO org (execOr64 cid q s) := by
  unfold execOr64
  repeat' with_reducible first
    | assumption | apply kept_startOp | fail_if_no_progress apply kept_upd | apply kept_next

theorem kept_execXor64 {cid : CtxId} {q : Fin 4} {s : State} (hs : Kept org s) : KeptO org (execXor64 cid q s) := by
  unfold execXor64
  repeat' with_reducible first
    | assumption | apply kept_startOp | fail_if_no_progress apply kept_upd | apply kept_next

theorem kept_execSmax64 {cid : CtxId} {q : Fin 4} {s : State} (hs : Kept org s) : KeptO org (execSmax64 cid q s) := by
  unfold execSmax64
  repeat' with_reducible first
    | assumption | apply kept_startOp | fail_if_no_progress apply kept_upd | apply kept_next

theorem kept_execSmin64 {cid : CtxId} {q : Fin 4} {s : State} (hs : Kept org s) : KeptO org (execSmin64 cid q s) := by
  unfold execSmin64
  repeat' with_reducible first
    | assumption | apply kept_startOp | fail_if_no_progress apply kept_upd | apply kept_next

theorem kept_execUmax64 {cid : CtxId} {q : Fin 4} {s : State} (hs : Kept org s) : KeptO org (execUmax64 cid q s) := by
  unfold execUmax64
  repeat' with_reducible first
    | assumption | apply kept_startOp | fail_if_no_progress apply kept_upd | apply kept_next

theorem kept_execUmin64 {cid : CtxId} {q : Fin 4} {s : State} (hs : Kept org s) : KeptO org (execUmin64 cid q s) := by
  unfold execUmin64
  repeat' with_reducible first
    | assumption | apply kept_startOp | fail_if_no_progress apply kept_upd | apply kept_next

theorem kept_execSwap64 {cid : CtxId} {q : Fin 4} {s : State} (hs : Kept org s) : KeptO org (execSwap64 cid q s) := by
  unfold execSwap64
  repeat' with_reducible first
    | assumption | apply kept_startOp | fail_if_no_progress apply kept_upd | apply kept_next

theorem kept_execCas64 {cid : CtxId} {q : Fin 4} {s : State} (hs : Kept org s) : KeptO org (execCas64 cid q s) := by
  unfold execCas64
  repeat' with_reducible first
    | assumption | apply kept_startOp | fail_if_no_progress apply kept_upd | apply kept_next

theorem kept_execAddAl48 {cid : CtxId} {q : Fin 4} {s : State} (hs : Kept org s) : KeptO org (execAddAl48 cid q s) := by
  unfold execAddAl48
  repeat' with_reducible first
    | assumption | apply kept_startOp | fail_if_no_progress apply kept_upd | apply kept_next

theorem kept_execBulkGet {cid : CtxId} {q : Fin 4} {s : State} (hs : Kept org s) : KeptO org (execBulkGet cid q s) := by
  unfold execBulkGet
  repeat' with_reducible first
    | assumption | apply kept_startOp | fail_if_no_progress apply kept_upd | apply kept_next

theorem kept_execBulkPut {cid : CtxId} {q : Fin 4} {s : State} (hs : Kept org s) : KeptO org (execBulkPut cid q s) := by
  unfold execBulkPut
  repeat' with_reducible first
    | assumption | apply kept_startOp | fail_if_no_progress apply kept_upd | apply kept_next

theorem kept_execBusyResend {src : Coord} {jtag sid : BitVec 16} {s : State} (hs : Kept org s) :
    KeptO org (execBusyResend src jtag sid s) := by
  unfold execBusyResend
  repeat' first
    | with_reducible first
      | assumption | apply kept_coherentLate | apply kept_sendReq | apply kept_putReq | apply kept_ite | apply kept_ite1
      | fail_if_no_progress apply kept_upd | apply kept_next
    | intro _ | split | dsimp only

theorem kept_execBresend {src : Coord} {jtag sid : BitVec 16} {s : State} (hs : Kept org s) :
    KeptO org (execBresend src jtag sid s) := by
  unfold execBresend
  repeat' first
    | with_reducible first
      | assumption | apply kept_coherentLate | apply kept_sendReq | apply kept_answer | apply kept_ite | apply kept_ite1
      | fail_if_no_progress apply kept_upd | apply kept_next
    | intro _ | split | dsimp only

theorem kept_refuseCpn {s : State} {port : RlPort} {m : ReqMsg} {status : BitVec 8} (hs : Kept org s) :
    Kept org (refuseCpn s port m status) := kept_upd hs

theorem kept_sendCpn {s : State} {c : CtxId} {port : RlPort} {dst : Coord} {ms : List ReqMsg} (hs : Kept org s) :
    Kept org (sendCpn s c port dst ms) := by
  unfold sendCpn
  repeat' first
    | with_reducible first
      | assumption | apply kept_takeSeq | apply kept_sendReq | fail_if_no_progress apply kept_upd | apply kept_foldl
      | apply kept_foldl1
    | intro _ | dsimp only

theorem kept_execCompanionRequest {port : RlPort} {m : ReqMsg} {gaddr : BitVec 64} {s : State} (hs : Kept org s) :
    KeptO org (execCompanionRequest port m gaddr s) := by
  unfold execCompanionRequest
  repeat' first
    | with_reducible first
      | assumption | apply kept_refuseCpn | apply kept_badCoord | apply kept_coherentLate | apply kept_sendCpn
      | apply kept_ite | apply kept_ite1 | fail_if_no_progress apply kept_upd | apply kept_next
    | intro _ | split | dsimp only

/-! ### Mark -/

theorem kept_sendDelta {s : State} {p : PartI} {d : DirtyPiece} (hs : Kept org s) : Kept org (sendDelta s p d) := by
  unfold sendDelta
  repeat' first
    | with_reducible first
      | assumption | apply kept_send | fail_if_no_progress apply kept_upd
    | split | dsimp only

theorem kept_sendDeltas {s : State} {p : PartI} (hs : Kept org s) : Kept org (sendDeltas s p) := by
  unfold sendDeltas
  repeat' first
    | with_reducible first
      | assumption | apply kept_sendDelta | apply kept_setRes | fail_if_no_progress apply kept_upd | apply kept_foldl
    | intro _ | dsimp only

theorem kept_execOpEpochMark {e : Entry} {s : State} (hs : Kept org s) : KeptO org (execOpEpochMark e s) := by
  unfold execOpEpochMark
  apply kept_next
  apply kept_issueCmd hs
  refine ⟨fun t c h => ?_, fun t c h => ?_⟩ <;> dsimp only [markRow]
  all_goals repeat' with_reducible first
    | assumption | apply kept_issueCmd | fail_if_no_progress apply kept_upd

theorem kept_startAgreement {s : State} {core : Nat} {e : Entry} (hs : Kept org s) :
    Kept org (startAgreement s core e) := by
  unfold startAgreement
  repeat' first
    | with_reducible first
      | assumption | apply kept_faultCmd | apply kept_startColl | apply kept_ite | apply kept_ite1
      | fail_if_no_progress apply kept_upd
    | intro _ | split | dsimp only

theorem kept_mirrorDigests {s : State} {c : CtxId} (hs : Kept org s) : Kept org (mirrorDigests s c) := by
  unfold mirrorDigests
  repeat' first
    | with_reducible first
      | assumption | apply kept_mirror | fail_if_no_progress apply kept_upd | apply kept_foldl
    | intro _ | split | dsimp only

theorem kept_captureMark {s : State} {core : Nat} {e : Entry} (hs : Kept org s) : Kept org (captureMark s core e) := by
  unfold captureMark
  repeat' first
    | with_reducible first
      | assumption | apply kept_writeUni | apply kept_faultCmd | apply kept_setCtx | apply kept_startAgreement
      | apply kept_mirror | apply kept_mirrorDigests | apply kept_sendDeltas | apply kept_ite | apply kept_ite1
      | fail_if_no_progress apply kept_upd
    | intro _ | refine kept_of_ok (by with_reducible assumption) ?_ | refine kept_fst (by with_reducible assumption) ?_
    | refine kept_of_some (by with_reducible assumption) ?_ | split | dsimp only

theorem kept_execEpochMarkCapture {cid : CtxId} {s : State} (hs : Kept org s) : KeptO org (execEpochMarkCapture cid s) := by
  unfold execEpochMarkCapture
  repeat' first
    | with_reducible first
      | assumption | apply kept_coherent | apply kept_startAgreement | apply kept_captureMark | apply kept_ite
      | apply kept_ite1 | fail_if_no_progress apply kept_upd | apply kept_next
    | intro _ | split | dsimp only

theorem kept_execProtectorAck {cid : CtxId} {s : State} (hs : Kept org s) : KeptO org (execProtectorAck cid s) := by
  unfold execProtectorAck
  repeat' first
    | with_reducible first
      | assumption | apply kept_setCtx | apply kept_coherent | apply kept_startAgreement | apply kept_ite | apply kept_ite1
      | fail_if_no_progress apply kept_upd | apply kept_next
    | intro _ | split | dsimp only

theorem kept_releaseMark {s : State} {c : CtxId} {m : MarkRun} (hs : Kept org s) : Kept org (releaseMark s c m) := by
  unfold releaseMark
  repeat' first
    | with_reducible first
      | assumption | apply kept_setCtx | apply kept_mirror | apply kept_setRes | apply kept_ite | apply kept_ite1
      | fail_if_no_progress apply kept_upd
    | intro _ | split | dsimp only

theorem kept_markQueues {s : State} {c : CtxId} {m : MarkRun} (hs : Kept org s) : Kept org (markQueues s c m) := by
  unfold markQueues
  repeat' first
    | with_reducible first
      | assumption | apply kept_advanceHead | apply kept_setFq | apply kept_ite | apply kept_ite1
      | fail_if_no_progress apply kept_upd | apply kept_foldl
    | intro _ | split | dsimp only

theorem kept_finishMark {s : State} {c : CtxId} {m : MarkRun} (hs : Kept org s) : Kept org (finishMark s c m) := by
  unfold finishMark
  repeat' first
    | with_reducible first
      | assumption | apply kept_report | apply kept_markQueues | apply kept_releaseMark | apply kept_writeStatus
      | apply kept_endCmd | apply kept_ite | apply kept_ite1 | fail_if_no_progress apply kept_upd
    | intro _ | split | dsimp only

theorem kept_protectorMark {s : State} {p : PartI} (hs : Kept org s) : Kept org (protectorMark s p) := by
  unfold protectorMark
  repeat' first
    | with_reducible first
      | assumption | apply kept_keepBytes | apply kept_setRes | apply kept_ite | apply kept_ite1
      | fail_if_no_progress apply kept_upd | apply kept_foldl | apply kept_foldl1
    | intro _ | refine kept_fst (by with_reducible assumption) ?_ | split | dsimp only

theorem kept_execEpochLate {cid : CtxId} {s : State} (hs : Kept org s) : KeptO org (execEpochLate cid s) := by
  unfold execEpochLate
  repeat' first
    | with_reducible first
      | assumption | apply kept_mirror | apply kept_setCtx | apply kept_report | apply kept_ite | apply kept_ite1
      | fail_if_no_progress apply kept_upd | apply kept_next
    | intro _ | split | dsimp only

theorem kept_engineTick {s : State} (hs : Kept org s) : Kept org (engineTick s) := by
  unfold engineTick
  repeat' first
    | with_reducible first
      | assumption | apply kept_setCtx | apply kept_ite | apply kept_ite1 | fail_if_no_progress apply kept_upd
      | apply kept_foldl | apply kept_foldl1
    | intro _ | split | dsimp only

/-! ### XIn -/

theorem kept_putIn {s : State} {st : InStream} (hs : Kept org s) : Kept org (putIn s st) := kept_upd hs

theorem kept_drainTo {s : State} {st : InStream} {n : Nat} (hs : Kept org s) : Kept org (drainTo s st n).1 := kept_upd hs

theorem kept_freeTo {s : State} {st : InStream} {n : Nat} (hs : Kept org s) : Kept org (freeTo s st n).1 := by
  unfold freeTo
  repeat' first
      | with_reducible first
        | assumption | apply kept_newChain | apply kept_releaseAt | apply kept_ite | apply kept_ite1
        | fail_if_no_progress apply kept_upd | apply kept_foldl | apply kept_foldl1 | apply kept_foldlE | apply kept_next
        | apply kept_ok | apply kept_err | apply kept_ok2 | apply kept_err2 | apply kept_some | apply kept_none
        | apply kept_some2 | apply kept_none2
      | intro _ | refine kept_of_ok (by with_reducible assumption) ?_ | refine kept_fst (by with_reducible assumption) ?_
      | refine kept_of_ok2 (by with_reducible assumption) ?_ | refine kept_of_ok2' (by with_reducible assumption) ?_
      | refine kept_of_some (by with_reducible assumption) ?_ | refine kept_of_some2 (by with_reducible assumption) ?_
      | refine kept_of_some2' (by with_reducible assumption) ?_ | refine kept_get (by with_reducible assumption) | split
      | dsimp only | with_reducible apply_assumption

theorem kept_freeRest {s : State} {st : InStream} (hs : Kept org s) : Kept org (freeRest s st).1 := kept_upd hs

theorem kept_grantCells {s : State} {st : InStream} (hs : Kept org s) : KeptM2 org (grantCells s st) := by
  unfold grantCells
  repeat' first
    | with_reducible first
      | assumption | apply kept_setXd | apply kept_ite | fail_if_no_progress apply kept_upd | apply kept_some2
      | apply kept_none2
    | intro _ | split | dsimp only

theorem kept_joinAsks {s : State} {k : InKey} (hs : Kept org s) : Kept org (joinAsks s k) := by
  unfold joinAsks
  repeat' first
    | with_reducible first
      | assumption | apply kept_setXd | apply kept_ite | apply kept_ite1 | fail_if_no_progress apply kept_upd
    | intro _ | split | dsimp only

theorem kept_leaveAsks {s : State} {k : InKey} (hs : Kept org s) : Kept org (leaveAsks s k) := kept_upd hs

theorem kept_nextGrant {s : State} {z0 : List InKey} (hs : Kept org s) : KeptM2 org (nextGrant s z0) := by
  induction z0 with
  | nil => exact kept_none2
  | cons k l ih =>
    unfold nextGrant
    split
    · rename_i q hq
      refine kept_some2 ?_
      cases hg : getIn s k with
      | none => simp [hg] at hq
      | some st =>
        simp only [hg, Option.bind_some] at hq
        exact kept_of_some2 hq (kept_grantCells hs)
    · exact ih

theorem kept_execCreditGrant {die : XDie} {s : State} (hs : Kept org s) : KeptO org (execCreditGrant die s) := by
  unfold execCreditGrant
  repeat' first
      | with_reducible first
        | assumption | apply kept_nextGrant | apply kept_leaveAsks | apply kept_putIn | apply kept_joinAsks
        | apply kept_sendX | apply kept_ite | apply kept_ite1 | fail_if_no_progress apply kept_upd | apply kept_foldl
        | apply kept_foldl1 | apply kept_foldlE | apply kept_next | apply kept_ok | apply kept_err | apply kept_ok2
        | apply kept_err2 | apply kept_some | apply kept_none | apply kept_some2 | apply kept_none2
      | intro _ | refine kept_of_ok (by with_reducible assumption) ?_ | refine kept_fst (by with_reducible assumption) ?_
      | refine kept_of_ok2 (by with_reducible assumption) ?_ | refine kept_of_ok2' (by with_reducible assumption) ?_
      | refine kept_of_some (by with_reducible assumption) ?_ | refine kept_of_some2 (by with_reducible assumption) ?_
      | refine kept_of_some2' (by with_reducible assumption) ?_ | refine kept_get (by with_reducible assumption) | split
      | dsimp only | with_reducible apply_assumption

theorem kept_chainRec {s : State} {st : InStream} {k : Nat} (hs : Kept org s) : Kept org (chainRec s st k).1 := by
  unfold chainRec
  repeat' first
      | with_reducible first
        | assumption | apply kept_newChain | apply kept_ite | apply kept_ite1 | fail_if_no_progress apply kept_upd
        | apply kept_foldl | apply kept_foldl1 | apply kept_foldlE | apply kept_next | apply kept_ok | apply kept_err
        | apply kept_ok2 | apply kept_err2 | apply kept_some | apply kept_none | apply kept_some2 | apply kept_none2
      | intro _ | refine kept_of_ok (by with_reducible assumption) ?_ | refine kept_fst (by with_reducible assumption) ?_
      | refine kept_of_ok2 (by with_reducible assumption) ?_ | refine kept_of_ok2' (by with_reducible assumption) ?_
      | refine kept_of_some (by with_reducible assumption) ?_ | refine kept_of_some2 (by with_reducible assumption) ?_
      | refine kept_of_some2' (by with_reducible assumption) ?_ | refine kept_get (by with_reducible assumption) | split
      | dsimp only | with_reducible apply_assumption

theorem kept_landChains {s : State} {st : InStream} (hs : Kept org s) : Kept org (landChains s st).1 := by
  unfold landChains
  repeat' first
    | with_reducible first
      | assumption | apply kept_chainRec | fail_if_no_progress apply kept_upd | apply kept_foldl | apply kept_foldl1
    | intro _ | dsimp only

theorem kept_freeRec {s : State} {st : InStream} {k : Nat} (hs : Kept org s) : Kept org (freeRec s st k).1 := by
  unfold freeRec
  repeat' first
    | with_reducible first
      | assumption | apply kept_releaseAt | fail_if_no_progress apply kept_upd | apply kept_foldl | apply kept_foldl1
    | intro _ | split | dsimp only

theorem kept_freeBig {s : State} {st : InStream} (hs : Kept org s) : Kept org (freeBig s st).1 := by
  unfold freeBig
  repeat' first
    | with_reducible first
      | assumption | apply kept_freeTo | apply kept_ite | apply kept_ite1 | fail_if_no_progress apply kept_upd
    | intro _ | split

theorem kept_settleDiscard {s : State} {st : InStream} (hs : Kept org s) : Kept org (settleDiscard s st) := by
  unfold settleDiscard
  repeat' first
    | with_reducible first
      | assumption | apply kept_drainTo | apply kept_freeRest | apply kept_sendX | apply kept_leaveAsks | apply kept_putIn
      | apply kept_ite | apply kept_ite1 | fail_if_no_progress apply kept_upd
    | intro _ | split | dsimp only

theorem kept_discardIns {s : State} {p : InStream → Bool} (hs : Kept org s) : Kept org (discardIns s p) := by
  unfold discardIns
  repeat' with_reducible first
    | assumption | apply kept_settleDiscard | apply kept_ite | apply kept_ite1 | fail_if_no_progress apply kept_upd
    | apply kept_foldl

theorem kept_dropOuts {s : State} {x : XCmd} (hs : Kept org s) : Kept org (dropOuts s x) := kept_upd hs

theorem kept_stopXOn {s : State} {x : XCmd} {areas : List (Nat × Nat)} {inst : Nat} {err : OpErr} (hs : Kept org s) :
    Kept org (stopXOn s x areas inst err) := by
  unfold stopXOn
  repeat' with_reducible first
    | assumption | apply kept_faultCmd | apply kept_havocAreas | apply kept_dropOuts | apply kept_modX
    | apply kept_discardIns | fail_if_no_progress apply kept_upd

theorem kept_stopX {s : State} {x : XCmd} {inst : Nat} {err : OpErr} (hs : Kept org s) : Kept org (stopX s x inst err) := by
  unfold stopX
  repeat' with_reducible first
    | assumption | apply kept_stopXOn | fail_if_no_progress apply kept_upd

theorem kept_stopCmb {s : State} {x : Cmb} {inst : Nat} {err : OpErr} (hs : Kept org s) :
    Kept org (stopCmb s x inst err) := by
  unfold stopCmb
  repeat' with_reducible first
    | assumption | apply kept_faultCmd | apply kept_havocAreas | apply kept_discardIns | fail_if_no_progress apply kept_upd

theorem kept_stopFor {s : State} {st : InStream} {err : OpErr} (hs : Kept org s) : Kept org (stopFor s st err) := by
  unfold stopFor
  repeat' first
    | with_reducible first
      | assumption | apply kept_stopCmb | apply kept_stopX | apply kept_ite | apply kept_ite1
      | fail_if_no_progress apply kept_upd
    | intro _ | split

theorem kept_checkX {s : State} {c : CtxId} {xid : BitVec 16} (hs : Kept org s) : Kept org (checkX s c xid) := by
  unfold checkX
  repeat' first
    | with_reducible first
      | assumption | apply kept_endCmd | apply kept_ite | apply kept_ite1 | fail_if_no_progress apply kept_upd
    | intro _ | split | dsimp only

theorem kept_writeReady {s : State} {c : CtxId} {xid : BitVec 16} (hs : Kept org s) : Kept org (writeReady s c xid) := by
  unfold writeReady
  repeat' first
    | with_reducible first
      | assumption | apply kept_writeUniAll | apply kept_modX | apply kept_stopX | apply kept_ite | apply kept_ite1
      | fail_if_no_progress apply kept_upd
    | intro _ | refine kept_of_ok (by with_reducible assumption) ?_ | refine kept_fst (by with_reducible assumption) ?_
    | refine kept_of_some (by with_reducible assumption) ?_ | split | dsimp only

theorem kept_mismatch {s : State} {st : InStream} {off len : Nat} (hs : Kept org s) : Kept org (mismatch s st off len) := by
  unfold mismatch
  repeat' first
    | with_reducible first
      | assumption | apply kept_stopFor | apply kept_sendX | apply kept_putIn | apply kept_ite | apply kept_ite1
      | fail_if_no_progress apply kept_upd
    | intro _ | split | dsimp only

theorem kept_replaceRows {s : State} {x : Cmb} {st : InStream} (hs : Kept org s) : KeptE2 org (replaceRows s x st) := by
  unfold replaceRows
  generalize st.arrived = l
  generalize hr : (Except.ok (s, { st with arrived := [] }) : Except (BitVec 16) (State × InStream)) = r
  have h : KeptE2 org r := by subst hr; exact kept_ok2 hs
  clear hr
  induction l generalizing r with
  | nil => exact h
  | cons k l ih =>
    refine ih _ ?_
    dsimp only
    split
    · exact kept_err2
    · have hq := h.get _ rfl
      split
      · exact kept_ok2 hq
      split
      · exact kept_err2
      split
      · exact kept_ok2 hq
      split
      · exact kept_ok2 hq
      split
      · exact kept_err2
      · exact kept_ok2 (kept_of_ok (by assumption) (kept_writeUni hq))

theorem kept_ackIn {s : State} {st : InStream} (hs : Kept org s) : Kept org (ackIn s st) := by
  unfold ackIn
  repeat' first
    | with_reducible first
      | assumption | apply kept_freeRest | apply kept_sendX | apply kept_leaveAsks | apply kept_putIn | apply kept_checkX
      | apply kept_ite | apply kept_ite1 | fail_if_no_progress apply kept_upd
    | intro _ | split | dsimp only

theorem kept_finishIn {s : State} {st : InStream} {placed : Bool} (hs : Kept org s) : Kept org (finishIn s st placed) := by
  unfold finishIn
  repeat' first
      | with_reducible first
        | assumption | apply kept_putIn | apply kept_mismatch | apply kept_ackIn | apply kept_replaceRows
        | apply kept_stopCmb | apply kept_ite | apply kept_ite1 | fail_if_no_progress apply kept_upd | apply kept_foldl
        | apply kept_foldl1 | apply kept_foldlE | apply kept_next | apply kept_ok | apply kept_err | apply kept_ok2
        | apply kept_err2 | apply kept_some | apply kept_none | apply kept_some2 | apply kept_none2
      | intro _ | refine kept_of_ok (by with_reducible assumption) ?_ | refine kept_fst (by with_reducible assumption) ?_
      | refine kept_of_ok2 (by with_reducible assumption) ?_ | refine kept_of_ok2' (by with_reducible assumption) ?_
      | refine kept_of_some (by with_reducible assumption) ?_ | refine kept_of_some2 (by with_reducible assumption) ?_
      | refine kept_of_some2' (by with_reducible assumption) ?_ | refine kept_get (by with_reducible assumption) | split
      | dsimp only | with_reducible apply_assumption

theorem kept_placeRecs {z0 : Nat} {z1 : State} {z2 : XCmd} {z3 : InStream} (hz1 : Kept org z1) :
    KeptE2 org (placeRecs z0 z1 z2 z3) := by
  induction z0 generalizing z1 z3 with
  | zero => exact kept_ok2 hz1
  | succ n ih =>
    unfold placeRecs
    split
    · split
      · exact kept_err2
      · rename_i u hu
        exact ih (kept_freeRec (kept_of_ok hu (kept_writeUniAll hz1)))
    · exact kept_ok2 hz1

theorem kept_settleDispatch {s : State} {x : XCmd} {st : InStream} (hs : Kept org s) :
    Kept org (settleDispatch s x st) := by
  unfold settleDispatch
  repeat' first
      | with_reducible first
        | assumption | apply kept_landChains | apply kept_placeRecs | apply kept_stopX | apply kept_putIn
        | apply kept_freeBig | apply kept_finishIn | apply kept_writeReady | apply kept_ite | apply kept_ite1
        | fail_if_no_progress apply kept_upd | apply kept_foldl | apply kept_foldl1 | apply kept_foldlE | apply kept_next
        | apply kept_ok | apply kept_err | apply kept_ok2 | apply kept_err2 | apply kept_some | apply kept_none
        | apply kept_some2 | apply kept_none2
      | intro _ | refine kept_of_ok (by with_reducible assumption) ?_ | refine kept_fst (by with_reducible assumption) ?_
      | refine kept_of_ok2 (by with_reducible assumption) ?_ | refine kept_of_ok2' (by with_reducible assumption) ?_
      | refine kept_of_some (by with_reducible assumption) ?_ | refine kept_of_some2 (by with_reducible assumption) ?_
      | refine kept_of_some2' (by with_reducible assumption) ?_ | refine kept_get (by with_reducible assumption) | split
      | dsimp only | with_reducible apply_assumption

theorem kept_settleReturn {s : State} {st : InStream} (hs : Kept org s) : Kept org (settleReturn s st) := by
  unfold settleReturn
  repeat' with_reducible first
    | assumption | apply kept_landChains | apply kept_freeBig | apply kept_finishIn | fail_if_no_progress apply kept_upd

theorem kept_openForwards {s : State} {x : XCmd} {st : InStream} {h : WHead} (hs : Kept org s) :
    KeptE org (openForwards s x st h) := by
  unfold openForwards
  repeat' first
    | with_reducible first
      | assumption | apply kept_pushOuts | apply kept_ite | fail_if_no_progress apply kept_upd | apply kept_ok
      | apply kept_err
    | intro _ | split | dsimp only

theorem kept_takeChunk {s : State} {x : XCmd} {k : InKey} {h : WHead} {j : Nat} (hs : Kept org s) :
    Kept org (takeChunk s x k h j) := by
  unfold takeChunk
  repeat' first
    | with_reducible first
      | assumption | apply kept_mismatch | apply kept_writeUni | apply kept_stopX | apply kept_putIn | apply kept_ite
      | apply kept_ite1 | fail_if_no_progress apply kept_upd
    | intro _ | refine kept_of_ok (by with_reducible assumption) ?_ | refine kept_fst (by with_reducible assumption) ?_
    | refine kept_of_some (by with_reducible assumption) ?_ | split | dsimp only

theorem kept_feedForwards {s : State} {x : XCmd} {st : InStream} {h : WHead} (hs : Kept org s) :
    Kept org (feedForwards s x st h) := by
  unfold feedForwards
  repeat' first
    | with_reducible first
      | assumption | apply kept_feedOuts | fail_if_no_progress apply kept_upd
    | intro _ | dsimp only

theorem kept_settleWeights {s : State} {x : XCmd} {st : InStream} (hs : Kept org s) : Kept org (settleWeights s x st) := by
  unfold settleWeights
  repeat' first
    | with_reducible first
      | assumption | apply kept_finishIn | apply kept_openForwards | apply kept_stopX | apply kept_takeChunk
      | apply kept_putIn | apply kept_freeTo | apply kept_feedForwards | apply kept_writeReady | apply kept_modX
      | apply kept_ite | apply kept_ite1 | fail_if_no_progress apply kept_upd | apply kept_foldl | apply kept_foldl1
      | apply kept_foldlE
    | intro _ | refine kept_of_ok (by with_reducible assumption) ?_ | refine kept_fst (by with_reducible assumption) ?_
    | refine kept_of_some (by with_reducible assumption) ?_ | split | dsimp only

theorem kept_settleA2a {s : State} {x : XCmd} {st : InStream} (hs : Kept org s) : Kept org (settleA2a s x st) := by
  unfold settleA2a
  repeat' first
    | with_reducible first
      | assumption | apply kept_freeTo | apply kept_writeUni | apply kept_stopX | apply kept_putIn | apply kept_finishIn
      | apply kept_ite | apply kept_ite1 | fail_if_no_progress apply kept_upd
    | intro _ | refine kept_of_ok (by with_reducible assumption) ?_ | refine kept_fst (by with_reducible assumption) ?_
    | split | dsimp only

theorem kept_settleIn {s : State} {k : InKey} (hs : Kept org s) : Kept org (settleIn s k) := by
  unfold settleIn
  repeat' first
    | with_reducible first
      | assumption | apply kept_settleDiscard | apply kept_settleReturn | apply kept_settleDispatch
      | apply kept_settleWeights | apply kept_settleA2a | apply kept_ite | apply kept_ite1
      | fail_if_no_progress apply kept_upd
    | intro _ | split

theorem kept_acceptIn {s : State} {st : InStream} (hs : Kept org s) : Kept org (acceptIn s st) := by
  unfold acceptIn
  repeat' first
      | with_reducible first
        | assumption | apply kept_sendX | apply kept_grantCells | apply kept_putIn | apply kept_joinAsks | apply kept_ite
        | apply kept_ite1 | fail_if_no_progress apply kept_upd | apply kept_foldl | apply kept_foldl1 | apply kept_foldlE
        | apply kept_next | apply kept_ok | apply kept_err | apply kept_ok2 | apply kept_err2 | apply kept_some
        | apply kept_none | apply kept_some2 | apply kept_none2
      | intro _ | refine kept_of_ok (by with_reducible assumption) ?_ | refine kept_fst (by with_reducible assumption) ?_
      | refine kept_of_ok2 (by with_reducible assumption) ?_ | refine kept_of_ok2' (by with_reducible assumption) ?_
      | refine kept_of_some (by with_reducible assumption) ?_ | refine kept_of_some2 (by with_reducible assumption) ?_
      | refine kept_of_some2' (by with_reducible assumption) ?_ | refine kept_get (by with_reducible assumption) | split
      | dsimp only | with_reducible apply_assumption

theorem kept_addRank {s : State} {c : CtxId} {h : XHdr} {ncnt : Nat} (hs : Kept org s) : Kept org (addRank s c h ncnt) := by
  unfold addRank
  repeat' first
    | with_reducible first
      | assumption | apply kept_modX | apply kept_ite | apply kept_ite1 | fail_if_no_progress apply kept_upd
    | intro _ | split | dsimp only

theorem kept_reopenKept {s : State} {c : CtxId} {h : XHdr} (hs : Kept org s) : Kept org (reopenKept s c h) := kept_upd hs

theorem kept_noRecord {s : State} {h : XHdr} (hs : Kept org s) : Kept org (noRecord s h) := by
  unfold noRecord
  repeat' first
    | with_reducible first
      | assumption | apply kept_sendX | apply kept_ite | apply kept_ite1 | fail_if_no_progress apply kept_upd
    | intro _ | split

theorem kept_dropDone {s : State} {h : XHdr} (hs : Kept org s) : Kept org (dropDone s h) := by
  unfold dropDone
  repeat' first
    | with_reducible first
      | assumption | fail_if_no_progress apply kept_upd
    | intro _ | split | dsimp only

theorem kept_rejectIn {s : State} {st : InStream} {code : BitVec 16} (hs : Kept org s) : Kept org (rejectIn s st code) := by
  unfold rejectIn
  repeat' with_reducible first
    | assumption | apply kept_stopFor | apply kept_acceptIn | fail_if_no_progress apply kept_upd

theorem kept_openIn {h : XHdr} {ncnt dbytes row64 wbytes : Nat} {s : State} (hs : Kept org s) :
    Kept org (openIn h ncnt dbytes row64 wbytes s) := by
  unfold openIn
  repeat' first
    | with_reducible first
      | assumption | apply kept_sendX | apply kept_dropDone | apply kept_reopenKept | apply kept_acceptIn
      | apply kept_rejectIn | apply kept_addRank | apply kept_ite | apply kept_ite1 | fail_if_no_progress apply kept_upd
    | intro _ | split | dsimp only

theorem kept_execXopen {h : XHdr} {ncnt : BitVec 16} {nent : BitVec 32} {dbytes : BitVec 40} {row64 : BitVec 14} {wbytes : BitVec 40}
    {s : State}
    (hs : Kept org s) :
    KeptO org (execXopen h ncnt nent dbytes row64 wbytes s) := by
  unfold execXopen
  repeat' first
    | with_reducible first
      | assumption | apply kept_coherentLate | apply kept_openIn | apply kept_ite | apply kept_ite1
      | fail_if_no_progress apply kept_upd | apply kept_next
    | intro _ | split

theorem kept_execXask {h : XHdr} {s : State} (hs : Kept org s) : KeptO org (execXask h s) := by
  unfold execXask
  repeat' first
    | with_reducible first
      | assumption | apply kept_joinAsks | apply kept_noRecord | apply kept_ite | apply kept_ite1
      | fail_if_no_progress apply kept_upd | apply kept_next
    | intro _ | split

theorem kept_landBytes {s : State} {st : InStream} {a : Nat} {data : Bytes} (hs : Kept org s) :
    Kept org (landBytes s st a data) := by
  unfold landBytes
  repeat' with_reducible first
    | assumption | apply kept_putIn | apply kept_spillData | fail_if_no_progress apply kept_upd

theorem kept_landA2a {s : State} {x : XCmd} {st : InStream} {a : Nat} {data : Bytes} (hs : Kept org s) :
    Kept org (landA2a s x st a data) := by
  unfold landA2a
  repeat' first
    | with_reducible first
      | assumption | apply kept_landBytes | apply kept_stopX | apply kept_writeUni | apply kept_settleIn
      | fail_if_no_progress apply kept_upd
    | refine kept_of_ok (by with_reducible assumption) ?_ | refine kept_fst (by with_reducible assumption) ?_ | split
    | dsimp only

theorem kept_landIn {st : InStream} {a : Nat} {data : Bytes} {s : State} (hs : Kept org s) :
    Kept org (landIn st a data s) := by
  unfold landIn
  repeat' first
    | with_reducible first
      | assumption | apply kept_landA2a | apply kept_settleIn | apply kept_landBytes | apply kept_ite1
      | fail_if_no_progress apply kept_upd
    | intro _ | split

theorem kept_execStreamData {h : XHdr} {offset : BitVec 40} {data : Bytes} {s : State} (hs : Kept org s) :
    KeptO org (execStreamData h offset data s) := by
  unfold execStreamData
  repeat' first
    | with_reducible first
      | assumption | apply kept_noRecord | apply kept_coherentLate | apply kept_landIn | apply kept_ite | apply kept_ite1
      | fail_if_no_progress apply kept_upd | apply kept_next
    | intro _ | refine kept_fst (by with_reducible assumption) ?_ | refine kept_of_some (by with_reducible assumption) ?_
    | split

theorem kept_execXend {h : XHdr} {dbytes : BitVec 40} {crc : BitVec 32} {s : State} (hs : Kept org s) :
    KeptO org (execXend h dbytes crc s) := by
  unfold execXend
  repeat' first
    | with_reducible first
      | assumption | apply kept_noRecord | apply kept_coherentLate | apply kept_settleIn | apply kept_putIn | apply kept_ite
      | apply kept_ite1 | fail_if_no_progress apply kept_upd | apply kept_next
    | intro _ | split | dsimp only

theorem kept_execXack {h : XHdr} {s : State} (hs : Kept org s) : KeptO org (execXack h s) := by
  unfold execXack
  repeat' first
    | with_reducible first
      | assumption | apply kept_checkX | apply kept_ite | apply kept_ite1 | fail_if_no_progress apply kept_upd
      | apply kept_next
    | intro _ | split | dsimp only

/-! ### Clock -/

theorem kept_countWaits {s : State} {die : XDie} (hs : Kept org s) : Kept org (countWaits s die) := kept_upd hs

theorem kept_blockTick {s : State} (hs : Kept org s) : Kept org (blockTick s) := by
  unfold blockTick
  repeat' first
    | with_reducible first
      | assumption | apply kept_countWaits | apply kept_engineTick | apply kept_ite | apply kept_ite1
      | fail_if_no_progress apply kept_upd
    | intro _ | split | dsimp only

end Sys2Proof.Machine
end

