-- ==== Sys2Proof/Laws/KeptDevice.lean ====
section
/-! SUPPORT. What is kept by exchanges, the predictor, leases, the Meter Room, protection, reset, updates and registers. -/

set_option linter.unusedTactic false
set_option linter.unreachableTactic false
set_option linter.unusedVariables false

namespace Sys2Proof.Machine

variable {org : State}

/-! ### Plan -/

theorem kept_handPlan {s : State} {e : Entry} {out : Nat} (hs : Kept org s) : Kept org (handPlan s e out) := kept_upd hs

theorem kept_planFail {s : State} {e : Entry} {core : Nat} {x : Ep} {items : List PlanItem} {d : Deal} {code : BitVec 16}
    (hs : Kept org s) :
    Kept org (planFail s e core x items d code).1 := by
  unfold planFail
  repeat' first
    | with_reducible first
      | assumption | apply kept_settleUni | apply kept_writeUni | fail_if_no_progress apply kept_upd
    | refine kept_of_ok (by with_reducible assumption) ?_ | refine kept_fst (by with_reducible assumption) ?_ | split

theorem kept_makePlan {e : Entry} {x : Ep} {s : State} {core : Nat} (hs : Kept org s) :
    Kept org (makePlan e x s core).1 := by
  unfold makePlan
  repeat' first
    | with_reducible first
      | assumption | apply kept_settleUni | apply kept_planFail | apply kept_handPlan | apply kept_ite | apply kept_ite1
      | fail_if_no_progress apply kept_upd | apply kept_foldl | apply kept_foldl1 | apply kept_foldlE
    | intro _ | split | dsimp only

theorem kept_runPlan {e : Entry} {x : Ep} {s : State} {core : Nat} (hs : Kept org s) : Kept org (runPlan e x s core).1 := by
  unfold runPlan
  repeat' first
    | with_reducible first
      | assumption | apply kept_makePlan | apply kept_ite | apply kept_ite1 | fail_if_no_progress apply kept_upd
    | intro _ | split

theorem kept_skipPlan {e : Entry} {s : State} {_core : Nat} (hs : Kept org s) : Kept org (skipPlan e s _core) := kept_upd hs

theorem kept_execOpExpertPlan {e : Entry} {s : State} (hs : Kept org s) : KeptO org (execOpExpertPlan e s) := by
  unfold execOpExpertPlan
  apply kept_next
  apply kept_issueCmd hs
  refine ⟨fun t c h => ?_, fun t c h => ?_⟩ <;> dsimp only [planRow]
  all_goals repeat' with_reducible first
    | assumption | apply kept_issueCmd | apply kept_skipPlan | apply kept_runPlan | fail_if_no_progress apply kept_upd

theorem kept_startPlans {s : State} {c : CtxId} {rxc : Nat} (hs : Kept org s) : Kept org (startPlans s c rxc) := by
  unfold startPlans
  repeat' first
    | with_reducible first
      | assumption | apply kept_runPlan | apply kept_settleEnd | fail_if_no_progress apply kept_upd | apply kept_foldl
      | apply kept_foldl1
    | intro _ | dsimp only

/-! ### Exchange -/

theorem kept_xStartFault {s : State} {e : Entry} {c : BitVec 16} (hs : Kept org s) : Kept org (xStartFault s e c).1 := by
  unfold xStartFault
  repeat' with_reducible first
    | assumption | apply kept_settleUni | fail_if_no_progress apply kept_upd

theorem kept_runDispatch {e : Entry} {x : Xc} {s : State} {core : Nat} (hs : Kept org s) :
    Kept org (runDispatch e x s core).1 := by
  unfold runDispatch
  repeat' first
    | with_reducible first
      | assumption | apply kept_writeUni | apply kept_pushOuts | apply kept_xStartFault | fail_if_no_progress apply kept_upd
    | refine kept_of_ok (by with_reducible assumption) ?_ | refine kept_fst (by with_reducible assumption) ?_ | split
    | dsimp only

theorem kept_runReturn {e : Entry} {x : Xc} {s : State} {core : Nat} (hs : Kept org s) :
    Kept org (runReturn e x s core).1 := by
  unfold runReturn
  repeat' first
    | with_reducible first
      | assumption | apply kept_xStartFault | apply kept_pushOuts | fail_if_no_progress apply kept_upd
    | split | dsimp only

theorem kept_execOpExchangeDispatch {e : Entry} {s : State} (hs : Kept org s) : KeptO org (execOpExchangeDispatch e s) := by
  unfold execOpExchangeDispatch
  apply kept_next
  apply kept_issueCmd hs
  refine ⟨fun t c h => ?_, fun t c h => ?_⟩ <;> dsimp only [xcRow]
  all_goals repeat' with_reducible first
    | assumption | apply kept_issueCmd | apply kept_runDispatch | fail_if_no_progress apply kept_upd

theorem kept_execOpExchangeReturn {e : Entry} {s : State} (hs : Kept org s) : KeptO org (execOpExchangeReturn e s) := by
  unfold execOpExchangeReturn
  apply kept_next
  apply kept_issueCmd hs
  refine ⟨fun t c h => ?_, fun t c h => ?_⟩ <;> dsimp only [xcRow]
  all_goals repeat' with_reducible first
    | assumption | apply kept_issueCmd | apply kept_runReturn | fail_if_no_progress apply kept_upd

theorem kept_countIn {h : XHdr} {seq : Nat} {counts : List CountEntry} {s : State} (hs : Kept org s) :
    Kept org (countIn h seq counts s) := by
  unfold countIn
  repeat' first
    | with_reducible first
      | assumption | apply kept_stopX | apply kept_modX | apply kept_ite | apply kept_ite1
      | fail_if_no_progress apply kept_upd
    | intro _ | split | dsimp only

theorem kept_execXcount {h : XHdr} {seq : BitVec 16} {counts : List CountEntry} {s : State} (hs : Kept org s) :
    KeptO org (execXcount h seq counts s) := by
  unfold execXcount
  repeat' first
    | with_reducible first
      | assumption | apply kept_coherentLate | apply kept_countIn | apply kept_ite | apply kept_ite1
      | fail_if_no_progress apply kept_upd | apply kept_next
    | intro _ | split

theorem kept_endCounts {s : State} {x0 : XCmd} (hs : Kept org s) : Kept org (endCounts s x0) := by
  unfold endCounts
  repeat' first
    | with_reducible first
      | assumption | apply kept_stopX | apply kept_writeUni | apply kept_stopXOn | apply kept_writeUniAll | apply kept_modX
      | apply kept_pushOuts | apply kept_settleIn | apply kept_startPlans | apply kept_checkX | apply kept_writeReady
      | fail_if_no_progress apply kept_upd | apply kept_foldl | apply kept_foldl1 | apply kept_foldlE
    | intro _ | refine kept_of_ok (by with_reducible assumption) ?_ | refine kept_fst (by with_reducible assumption) ?_
    | refine kept_of_some (by with_reducible assumption) ?_ | split | dsimp only

theorem kept_execCountPhaseEnd {cid : CtxId} {xid : BitVec 16} {s : State} (hs : Kept org s) :
    KeptO org (execCountPhaseEnd cid xid s) := by
  unfold execCountPhaseEnd
  repeat' first
    | with_reducible first
      | assumption | apply kept_coherentLate | apply kept_endCounts | apply kept_ite | apply kept_ite1
      | fail_if_no_progress apply kept_upd | apply kept_next
    | intro _ | split | dsimp only

theorem kept_execXchHang {cid : CtxId} {xid : BitVec 16} {s : State} (hs : Kept org s) :
    KeptO org (execXchHang cid xid s) := by
  unfold execXchHang
  repeat' first
    | with_reducible first
      | assumption | apply kept_coherentLate | apply kept_stopX | apply kept_ite | apply kept_ite1
      | fail_if_no_progress apply kept_upd | apply kept_next
    | intro _ | split | dsimp only

theorem kept_runA2a {e : Entry} {a : Aa} {s : State} {core : Nat} (hs : Kept org s) : Kept org (runA2a e a s core).1 := by
  unfold runA2a
  repeat' first
    | with_reducible first
      | assumption | apply kept_xStartFault | apply kept_pushOuts | fail_if_no_progress apply kept_upd
    | split | dsimp only

theorem kept_execOpA2a {e : Entry} {s : State} (hs : Kept org s) : KeptO org (execOpA2a e s) := by
  unfold execOpA2a
  apply kept_next
  apply kept_issueCmd hs
  refine ⟨fun t c h => ?_, fun t c h => ?_⟩ <;> dsimp only [a2aRow]
  all_goals repeat' with_reducible first
    | assumption | apply kept_issueCmd | apply kept_runA2a | fail_if_no_progress apply kept_upd

/-! ### Combine -/

theorem kept_runCombine {e : Entry} {s : State} {core : Nat} (hs : Kept org s) : Kept org (runCombine e s core).1 := by
  unfold runCombine
  repeat' first
    | with_reducible first
      | assumption | apply kept_writeUni | apply kept_settleUni | apply kept_advanceRng | fail_if_no_progress apply kept_upd
    | refine kept_of_ok (by with_reducible assumption) ?_ | refine kept_fst (by with_reducible assumption) ?_ | split
    | dsimp only

theorem kept_execOpCombine {e : Entry} {s : State} (hs : Kept org s) : KeptO org (execOpCombine e s) := by
  unfold execOpCombine
  apply kept_next
  apply kept_issueCmd hs
  refine ⟨fun t c h => ?_, fun t c h => ?_⟩ <;> dsimp only [combineRow]
  all_goals repeat' with_reducible first
    | assumption | apply kept_issueCmd | apply kept_advanceRng | apply kept_runCombine | fail_if_no_progress apply kept_upd

theorem kept_combineFire {s : State} {x : Cmb} {t word : Nat} (hs : Kept org s) : KeptE org (combineFire s x t word) := by
  unfold combineFire
  repeat' first
    | with_reducible first
      | assumption | apply kept_writeUniAll | apply kept_watch | fail_if_no_progress apply kept_upd | apply kept_ok
      | apply kept_err
    | refine kept_of_ok (by with_reducible assumption) ?_ | refine kept_fst (by with_reducible assumption) ?_ | split
    | dsimp only

theorem kept_checkCmb {s : State} {x : Cmb} (hs : Kept org s) : Kept org (checkCmb s x) := by
  unfold checkCmb
  repeat' first
    | with_reducible first
      | assumption | apply kept_stopCmb | apply kept_endCmd | apply kept_ite | apply kept_ite1
      | fail_if_no_progress apply kept_upd
    | intro _ | split | dsimp only

theorem kept_arriveRow {s : State} {x : Cmb} {token rank : Nat} {row : Bytes} (hs : Kept org s) :
    Kept org (arriveRow s x token rank row) := by
  unfold arriveRow
  repeat' first
    | with_reducible first
      | assumption | apply kept_stopCmb | apply kept_writeUniAll | apply kept_combineFire | apply kept_checkCmb
      | apply kept_ite | apply kept_ite1 | fail_if_no_progress apply kept_upd
    | intro _ | refine kept_of_ok (by with_reducible assumption) ?_ | refine kept_fst (by with_reducible assumption) ?_
    | split | dsimp only

theorem kept_arriveRec {x : Cmb} {st : InStream} {k token rank : Nat} {row : Bytes} {s : State} (hs : Kept org s) :
    Kept org (arriveRec x st k token rank row s) := by
  unfold arriveRec
  repeat' with_reducible first
    | assumption | apply kept_freeRec | apply kept_settleIn | apply kept_arriveRow | apply kept_putIn
    | fail_if_no_progress apply kept_upd

theorem kept_execReturnArrival {cid : CtxId} {xid token : BitVec 16} {rank : BitVec 4} {row : Bytes} {s : State}
    (hs : Kept org s) :
    KeptO org (execReturnArrival cid xid token rank row s) := by
  unfold execReturnArrival
  repeat' first
    | with_reducible first
      | assumption | apply kept_coherentLate | apply kept_arriveRec | apply kept_ite | apply kept_ite1
      | fail_if_no_progress apply kept_upd | apply kept_next
    | intro _ | split | dsimp only

theorem kept_hangCmb {x : Cmb} {s : State} (hs : Kept org s) : Kept org (hangCmb x s) := by
  unfold hangCmb
  repeat' first
    | with_reducible first
      | assumption | apply kept_stopCmb | fail_if_no_progress apply kept_upd
    | intro _ | split | dsimp only

theorem kept_execLandingHang {cid : CtxId} {xid : BitVec 16} {s : State} (hs : Kept org s) :
    KeptO org (execLandingHang cid xid s) := by
  unfold execLandingHang
  repeat' first
    | with_reducible first
      | assumption | apply kept_coherentLate | apply kept_hangCmb | apply kept_ite | apply kept_ite1
      | fail_if_no_progress apply kept_upd | apply kept_next
    | intro _ | split

/-! ### Snapshot -/

theorem kept_snapRecord {s : State} {p : PartI} {a n : Nat} (hs : Kept org s) : KeptE org (snapRecord s p a n) := by
  unfold snapRecord
  repeat' first
    | with_reducible first
      | assumption | apply kept_writeUni | apply kept_takeFree | apply kept_ite | fail_if_no_progress apply kept_upd
      | apply kept_ok | apply kept_err
    | intro _ | split

theorem kept_snapEnd {s : State} {e : Entry} {core : Nat} (hs : Kept org s) : Kept org (snapEnd s e core).1 := by
  unfold snapEnd
  repeat' first
    | with_reducible first
      | assumption | apply kept_snapRecord | apply kept_report | fail_if_no_progress apply kept_upd
    | refine kept_of_ok (by with_reducible assumption) ?_ | refine kept_fst (by with_reducible assumption) ?_ | split

theorem kept_runPrestream {e : Entry} {s : State} {core : Nat} (hs : Kept org s) : Kept org (runPrestream e s core).1 := by
  unfold runPrestream
  repeat' first
    | with_reducible first
      | assumption | apply kept_snapEnd | apply kept_sendDelta | apply kept_setRes | apply kept_ite | apply kept_ite1
      | fail_if_no_progress apply kept_upd | apply kept_foldl | apply kept_foldl1
    | intro _ | split | dsimp only

theorem kept_copyPage {s : State} {p : PartI} {g : Nat} {q : Nat × Nat} (hs : Kept org s) :
    KeptE org (copyPage s p g q) := by
  unfold copyPage
  repeat' first
    | with_reducible first
      | assumption | apply kept_writeUni | apply kept_send | apply kept_ite | fail_if_no_progress apply kept_upd
      | apply kept_ok | apply kept_err
    | intro _ | split | dsimp only

theorem kept_runSnapCopy {e : Entry} {s : State} {core : Nat} (hs : Kept org s) : Kept org (runSnapCopy e s core).1 := by
  unfold runSnapCopy
  repeat' first
      | with_reducible first
        | assumption | apply kept_copyPage | apply kept_report | apply kept_snapEnd | apply kept_ite | apply kept_ite1
        | fail_if_no_progress apply kept_upd | apply kept_foldl | apply kept_foldl1 | apply kept_foldlE | apply kept_next
        | apply kept_ok | apply kept_err | apply kept_ok2 | apply kept_err2 | apply kept_some | apply kept_none
        | apply kept_some2 | apply kept_none2
      | intro _ | refine kept_of_ok (by with_reducible assumption) ?_ | refine kept_fst (by with_reducible assumption) ?_
      | refine kept_of_ok2 (by with_reducible assumption) ?_ | refine kept_of_ok2' (by with_reducible assumption) ?_
      | refine kept_of_some (by with_reducible assumption) ?_ | refine kept_of_some2 (by with_reducible assumption) ?_
      | refine kept_of_some2' (by with_reducible assumption) ?_ | refine kept_get (by with_reducible assumption) | split
      | dsimp only | with_reducible apply_assumption

theorem kept_execOpSnapshotPrestream {e : Entry} {s : State} (hs : Kept org s) :
    KeptO org (execOpSnapshotPrestream e s) := by
  unfold execOpSnapshotPrestream
  apply kept_next
  apply kept_issueCmd hs
  refine ⟨fun t c h => ?_, fun t c h => ?_⟩ <;> dsimp only [snapRow]
  all_goals repeat' with_reducible first
    | assumption | apply kept_issueCmd | apply kept_runPrestream | fail_if_no_progress apply kept_upd

theorem kept_execOpSnapshotCopy {e : Entry} {s : State} (hs : Kept org s) : KeptO org (execOpSnapshotCopy e s) := by
  unfold execOpSnapshotCopy
  apply kept_next
  apply kept_issueCmd hs
  refine ⟨fun t c h => ?_, fun t c h => ?_⟩ <;> dsimp only [snapRow]
  all_goals repeat' with_reducible first
    | assumption | apply kept_issueCmd | apply kept_runSnapCopy | fail_if_no_progress apply kept_upd

/-! ### Complete -/

theorem kept_completeAt {s : State} {core : Nat} {f : InFlight} (hs : Kept org s) : Kept org (completeAt s core f) := by
  have hl : ∀ run, laterRun f.entry f.due = some run → ∀ t k, Kept org t → Kept org (run t k).1 := by
    intro run hr t k ht
    unfold laterRun at hr
    dsimp only at hr
    repeat' split at hr
    all_goals (first | (simp only [Option.some.injEq] at hr; subst hr) | (exact absurd hr (by simp)))
    all_goals first
      | exact kept_runPlan ht
      | exact kept_runSignalEvent ht
      | exact kept_runSignalMemory ht
      | exact kept_runAbsorb ht
      | exact kept_runRelease ht
      | exact kept_runSnapCopy ht
      | exact kept_runSeek ht
      | exact kept_runStep ht
  unfold completeAt
  split
  · exact kept_finish hs
  split
  · rename_i run hr
    exact kept_runDeferred hs (hl run hr)
  · exact hs

theorem kept_completeNamed {s : State} {core : Nat} {pos listPos : BitVec 32} (hs : Kept org s) :
    Kept org (completeNamed s core pos listPos) := by
  unfold completeNamed
  repeat' first
    | with_reducible first
      | assumption | apply kept_completeAt | apply kept_endBlock | fail_if_no_progress apply kept_upd
    | split

theorem kept_execCommandComplete {core : CoreI} {pos listPos : BitVec 32} {s : State} (hs : Kept org s) :
    KeptO org (execCommandComplete core pos listPos s) := by
  unfold execCommandComplete
  split
  · exact kept_next hs
  · exact kept_next (kept_regainAt (kept_completeNamed hs))

/-! ### Dma -/

theorem kept_settleCopy {s : State} {core : Nat} {e : Entry} {toLocal : Bool} {areas : List (Nat × Nat)}
    {r : Except (BitVec 16) (List (Nat × Bytes))}
    (hs : Kept org s) :
    Kept org (settleCopy s core e toLocal areas r).1 := by
  unfold settleCopy
  repeat' first
    | with_reducible first
      | assumption | apply kept_settleRun | apply kept_settleUni | apply kept_ite | apply kept_ite1
      | fail_if_no_progress apply kept_upd
    | intro _ | split

theorem kept_runDma {e : Entry} {s : State} {core : Nat} (hs : Kept org s) : Kept org (runDma e s core).1 := by
  unfold runDma
  repeat' first
    | with_reducible first
      | assumption | apply kept_settleCopy | apply kept_ite | apply kept_ite1 | fail_if_no_progress apply kept_upd
    | intro _ | split | dsimp only

theorem kept_execOpDma {e : Entry} {s : State} (hs : Kept org s) : KeptO org (execOpDma e s) := by
  unfold execOpDma
  apply kept_next
  apply kept_issueCmd hs
  refine ⟨fun t c h => ?_, fun t c h => ?_⟩ <;> dsimp only [dmaRow]
  all_goals repeat' with_reducible first
    | assumption | apply kept_issueCmd | apply kept_runDma | apply kept_ite | apply kept_ite1
    | fail_if_no_progress apply kept_upd

theorem kept_runGather {e : Entry} {s : State} {core : Nat} (hs : Kept org s) : Kept org (runGather e s core).1 := by
  unfold runGather
  repeat' first
    | with_reducible first
      | assumption | apply kept_settleCopy | apply kept_ite | apply kept_ite1 | fail_if_no_progress apply kept_upd
    | intro _ | split | dsimp only

theorem kept_runScatter {e : Entry} {s : State} {core : Nat} (hs : Kept org s) : Kept org (runScatter e s core).1 := by
  unfold runScatter
  repeat' first
    | with_reducible first
      | assumption | apply kept_settleCopy | apply kept_ite | apply kept_ite1 | fail_if_no_progress apply kept_upd
    | intro _ | split | dsimp only

theorem kept_execOpGather {e : Entry} {s : State} (hs : Kept org s) : KeptO org (execOpGather e s) := by
  unfold execOpGather
  apply kept_next
  apply kept_issueCmd hs
  refine ⟨fun t c h => ?_, fun t c h => ?_⟩ <;> dsimp only [gaRow]
  all_goals repeat' with_reducible first
    | assumption | apply kept_issueCmd | apply kept_runGather | fail_if_no_progress apply kept_upd

theorem kept_execOpScatter {e : Entry} {s : State} (hs : Kept org s) : KeptO org (execOpScatter e s) := by
  unfold execOpScatter
  apply kept_next
  apply kept_issueCmd hs
  refine ⟨fun t c h => ?_, fun t c h => ?_⟩ <;> dsimp only [gaRow]
  all_goals repeat' with_reducible first
    | assumption | apply kept_issueCmd | apply kept_runScatter | fail_if_no_progress apply kept_upd

/-! ### Errors -/

theorem kept_execErrorReport {r : Report} {s : State} (hs : Kept org s) : KeptO org (execErrorReport r s) := by
  unfold execErrorReport
  repeat' first
    | with_reducible first
      | assumption | apply kept_report | apply kept_ite | apply kept_ite1 | fail_if_no_progress apply kept_upd
      | apply kept_next
    | intro _ | split

theorem kept_execCoalesceExpiry {port : RlPort} {index : Nat} {s : State} (hs : Kept org s) :
    KeptO org (execCoalesceExpiry port index s) := by
  unfold execCoalesceExpiry
  repeat' first
    | with_reducible first
      | assumption | apply kept_coalClose | apply kept_ite | apply kept_ite1 | fail_if_no_progress apply kept_upd
      | apply kept_next
    | intro _ | split

theorem kept_ringBad {s : State} {p : RlPort} (hs : Kept org s) : Kept org (ringBad s p) := by
  unfold ringBad
  repeat' with_reducible first
    | assumption | apply kept_report | apply kept_setRing | fail_if_no_progress apply kept_upd

theorem kept_execErrRingHead {port : RlPort} {s : State} (hs : Kept org s) : KeptO org (execErrRingHead port s) := by
  unfold execErrRingHead
  repeat' first
    | with_reducible first
      | assumption | apply kept_ringDrain | apply kept_setRing | apply kept_ringBad | apply kept_ite | apply kept_ite1
      | fail_if_no_progress apply kept_upd | apply kept_next
    | intro _ | split | dsimp only

theorem kept_ringCfgWrite {s : State} {ring : RlPort} {v : BitVec 32} (hs : Kept org s) :
    Kept org (ringCfgWrite s ring v) := by
  unfold ringCfgWrite
  repeat' first
    | with_reducible first
      | assumption | apply kept_setRing | apply kept_ringDrain | apply kept_writeComp | apply kept_ringBad | apply kept_ite
      | apply kept_ite1 | fail_if_no_progress apply kept_upd
    | intro _ | split | dsimp only

theorem kept_ringRecheck {s : State} {p : RlPort} (hs : Kept org s) : Kept org (ringRecheck s p) := by
  unfold ringRecheck
  repeat' first
    | with_reducible first
      | assumption | apply kept_ringBad | apply kept_ite | apply kept_ite1 | fail_if_no_progress apply kept_upd
    | intro _ | split

theorem kept_execErrRingCfg {port ring : RlPort} {value : BitVec 32} {s : State} (hs : Kept org s) :
    KeptO org (execErrRingCfg port ring value s) := by
  unfold execErrRingCfg
  repeat' first
    | with_reducible first
      | assumption | apply kept_guarded | apply kept_ringCfgWrite | fail_if_no_progress apply kept_upd | apply kept_next
    | intro _ | dsimp only

theorem kept_execRiskUpdate {s : State} (hs : Kept org s) : KeptO org (execRiskUpdate s) := by
  unfold execRiskUpdate
  repeat' first
    | with_reducible first
      | assumption | apply kept_report | apply kept_ite | apply kept_ite1 | fail_if_no_progress apply kept_upd
      | apply kept_next
    | intro _ | split | dsimp only

/-! ### Gate -/

theorem kept_setSess {s : State} {die : CDie} {c : CtxId} {sess : Nat} {g : Option GateSess} (hs : Kept org s) :
    Kept org (setSess s die c sess g) := kept_upd hs

theorem kept_gateFinal {s : State} {die : CDie} {e : Entry} {x : Gt} {g : GateSess} (hs : Kept org s) :
    Kept org (gateFinal s die e x g).1 := by
  unfold gateFinal
  repeat' with_reducible first
    | assumption | apply kept_setSess | apply kept_setDie | apply kept_watch | apply kept_settleUni
    | fail_if_no_progress apply kept_upd

theorem kept_gateEnter {s : State} {core : Nat} {e : Entry} {x : Gt} (hs : Kept org s) :
    Kept org (gateEnter s core e x).1 := by
  unfold gateEnter
  repeat' first
    | with_reducible first
      | assumption | apply kept_watch | apply kept_gateFinal | apply kept_setSess | apply kept_ite | apply kept_ite1
      | fail_if_no_progress apply kept_upd
    | intro _ | split | dsimp only

theorem kept_runGate {e : Entry} {x : Gt} {s : State} {core : Nat} (hs : Kept org s) : Kept org (runGate e x s core).1 := by
  unfold runGate
  repeat' first
    | with_reducible first
      | assumption | apply kept_gateEnter | apply kept_setDie | apply kept_ite | apply kept_ite1
      | fail_if_no_progress apply kept_upd
    | intro _ | split | dsimp only

theorem kept_execOpGate {e : Entry} {s : State} (hs : Kept org s) : KeptO org (execOpGate e s) := by
  unfold execOpGate
  apply kept_next
  apply kept_issueCmd hs
  refine ⟨fun t c h => ?_, fun t c h => ?_⟩ <;> dsimp only [gateRow]
  all_goals repeat' with_reducible first
    | assumption | apply kept_issueCmd | apply kept_runGate | fail_if_no_progress apply kept_upd

theorem kept_serveOpening {s : State} {die : CDie} {w : GateWait} {rest : List GateWait} (hs : Kept org s) :
    Kept org (serveOpening s die w rest) := by
  unfold serveOpening
  repeat' first
    | with_reducible first
      | assumption | apply kept_setDie | apply kept_faultCmd | apply kept_gateEnter | apply kept_settleEnd
      | fail_if_no_progress apply kept_upd
    | split | dsimp only

theorem kept_execGateOpeningServed {die : CDie} {s : State} (hs : Kept org s) :
    KeptO org (execGateOpeningServed die s) := by
  unfold execGateOpeningServed
  repeat' first
    | with_reducible first
      | assumption | apply kept_serveOpening | apply kept_ite | apply kept_ite1 | fail_if_no_progress apply kept_upd
      | apply kept_next
    | intro _ | split | dsimp only

theorem kept_execGateHang {die : CDie} {cid : CtxId} {sess : Fin 16} {s : State} (hs : Kept org s) :
    KeptO org (execGateHang die cid sess s) := by
  unfold execGateHang
  repeat' first
    | with_reducible first
      | assumption | apply kept_setDie | apply kept_faultCmd | apply kept_ite | apply kept_ite1
      | fail_if_no_progress apply kept_upd | apply kept_next
    | intro _ | split | dsimp only

/-! ### Lease -/

theorem kept_setLend {s : State} {i : Nat} {x : Lend} (hs : Kept org s) : Kept org (setLend s i x) := kept_upd hs

theorem kept_markLent {s : State} {l : List Nat} {b : Bool} (hs : Kept org s) : Kept org (markLent s l b) := by
  unfold markLent
  repeat' first
    | with_reducible first
      | assumption | apply kept_setGran | fail_if_no_progress apply kept_upd | apply kept_foldl
    | intro _ | dsimp only

theorem kept_zeroGrans {s : State} {l : List Nat} (hs : Kept org s) : Kept org (zeroGrans s l) := by
  unfold zeroGrans
  refine kept_foldl (fun t g h => ?_) hs
  exact kept_clearPoison (kept_uniZero h)

theorem kept_leaseRefuse {s : State} {bit : Nat} (hs : Kept org s) : Kept org (leaseRefuse s bit) := kept_upd hs

theorem kept_leaseSetup {s : State} {slot : Nat} (hs : Kept org s) : Kept org (leaseSetup s slot) := by
  unfold leaseSetup
  repeat' with_reducible first
    | assumption | apply kept_report | fail_if_no_progress apply kept_upd

theorem kept_lendActivate {s : State} {i : Nat} {m : LeaseMsg} (hs : Kept org s) : Kept org (lendActivate s i m) := by
  unfold lendActivate
  repeat' first
    | with_reducible first
      | assumption | apply kept_zeroGrans | apply kept_setLend | apply kept_send | apply kept_ite | apply kept_ite1
      | fail_if_no_progress apply kept_upd
    | intro _ | split | dsimp only

theorem kept_lendServe {s : State} {i : Nat} {m : LeaseMsg} (hs : Kept org s) : Kept org (lendServe s i m) := by
  unfold lendServe
  repeat' first
    | with_reducible first
      | assumption | apply kept_lendActivate | apply kept_leaseSetup | apply kept_send | apply kept_setLend | apply kept_ite
      | apply kept_ite1 | fail_if_no_progress apply kept_upd
    | intro _ | split | dsimp only

theorem kept_lendRevoke {s : State} {i : Nat} {bit : Bool} (hs : Kept org s) : Kept org (lendRevoke s i bit) := by
  unfold lendRevoke
  repeat' first
    | with_reducible first
      | assumption | apply kept_send | apply kept_setLend | apply kept_ite | apply kept_ite1
      | fail_if_no_progress apply kept_upd
    | intro _ | split | dsimp only

theorem kept_lendWrite {s : State} {i : Nat} {v : BitVec 64} (hs : Kept org s) : Kept org (lendWrite s i v) := by
  unfold lendWrite
  repeat' first
    | with_reducible first
      | assumption | apply kept_leaseRefuse | apply kept_markLent | apply kept_setLend | apply kept_lendServe
      | apply kept_lendRevoke | apply kept_ite | apply kept_ite1 | fail_if_no_progress apply kept_upd
    | intro _ | split | dsimp only

theorem kept_execLeaseLendWrite {port : RlPort} {i : Fin 16} {value : BitVec 64} {s : State} (hs : Kept org s) :
    KeptO org (execLeaseLendWrite port i value s) := by
  unfold execLeaseLendWrite
  repeat' first
    | with_reducible first
      | assumption | apply kept_guarded | apply kept_lendWrite | fail_if_no_progress apply kept_upd | apply kept_next
    | intro _ | dsimp only

theorem kept_execLeaseRequest {m : LeaseMsg} {s : State} (hs : Kept org s) : KeptO org (execLeaseRequest m s) := by
  unfold execLeaseRequest
  repeat' first
    | with_reducible first
      | assumption | apply kept_setLend | apply kept_lendServe | apply kept_leaseSetup | apply kept_send | apply kept_ite
      | apply kept_ite1 | fail_if_no_progress apply kept_upd | apply kept_next
    | intro _ | split | dsimp only

theorem kept_execLeaseTermEnd {i : Fin 16} {s : State} (hs : Kept org s) : KeptO org (execLeaseTermEnd i s) := by
  unfold execLeaseTermEnd
  repeat' first
    | with_reducible first
      | assumption | apply kept_lendRevoke | apply kept_ite | apply kept_ite1 | fail_if_no_progress apply kept_upd
      | apply kept_next
    | intro _ | split

theorem kept_lendIdle {s : State} {i : Nat} (hs : Kept org s) : Kept org (lendIdle s i) := by
  unfold lendIdle
  repeat' with_reducible first
    | assumption | apply kept_setLend | apply kept_markLent | apply kept_zeroGrans | fail_if_no_progress apply kept_upd

theorem kept_borrowAsk {s : State} {j : Fin 16} {y : Borrow} (hs : Kept org s) : Kept org (borrowAsk s j y) := kept_upd hs

theorem kept_borrowWrite {s : State} {j : Fin 16} {v : BitVec 64} (hs : Kept org s) : Kept org (borrowWrite s j v) := by
  unfold borrowWrite
  repeat' first
    | with_reducible first
      | assumption | apply kept_leaseRefuse | apply kept_borrowAsk | apply kept_setBorrow | apply kept_ite | apply kept_ite1
      | fail_if_no_progress apply kept_upd
    | intro _ | split | dsimp only

theorem kept_execLeaseBorrowWrite {port : RlPort} {j : Fin 16} {value : BitVec 64} {s : State} (hs : Kept org s) :
    KeptO org (execLeaseBorrowWrite port j value s) := by
  unfold execLeaseBorrowWrite
  repeat' first
    | with_reducible first
      | assumption | apply kept_guarded | apply kept_borrowWrite | fail_if_no_progress apply kept_upd | apply kept_next
    | intro _ | dsimp only

theorem kept_borrowActivate {s : State} {j : Nat} (hs : Kept org s) : Kept org (borrowActivate s j) := by
  unfold borrowActivate
  exact kept_foldl (fun t g h => kept_setPte h) (kept_noteLease (kept_zeroLease hs))

theorem kept_execLeaseAnswer {j : Fin 16} {ok : Bool} {s : State} (hs : Kept org s) :
    KeptO org (execLeaseAnswer j ok s) := by
  unfold execLeaseAnswer
  repeat' first
    | with_reducible first
      | assumption | apply kept_borrowActivate | apply kept_leaseSetup | apply kept_ite | apply kept_ite1
      | fail_if_no_progress apply kept_upd | apply kept_next
    | intro _ | split

theorem kept_borrowRevoke {s : State} {j : Nat} (hs : Kept org s) : Kept org (borrowRevoke s j) := by
  unfold borrowRevoke
  repeat' first
    | with_reducible first
      | assumption | apply kept_report | apply kept_noteLease | apply kept_ite | apply kept_ite1
      | fail_if_no_progress apply kept_upd
    | intro _ | split | dsimp only

theorem kept_execLeaseRevoke {port : RlPort} {lender : Bool} {slot : Fin 16} {s : State} (hs : Kept org s) :
    KeptO org (execLeaseRevoke port lender slot s) := by
  unfold execLeaseRevoke
  repeat' first
    | with_reducible first
      | assumption | apply kept_guarded | apply kept_lendRevoke | apply kept_borrowRevoke | apply kept_ite | apply kept_ite1
      | fail_if_no_progress apply kept_upd | apply kept_next
    | intro _ | split | dsimp only

theorem kept_execLeaseGraceEnd {j : Fin 16} {s : State} (hs : Kept org s) : KeptO org (execLeaseGraceEnd j s) := by
  unfold execLeaseGraceEnd
  repeat' first
    | with_reducible first
      | assumption | apply kept_setBorrow | apply kept_unbackLease | apply kept_ite | apply kept_ite1
      | fail_if_no_progress apply kept_upd | apply kept_next
    | intro _ | split | dsimp only

theorem kept_execLeaseRelease {lender : Bool} {slot : Fin 16} {s : State} (hs : Kept org s) :
    KeptO org (execLeaseRelease lender slot s) := by
  unfold execLeaseRelease
  repeat' first
    | with_reducible first
      | assumption | apply kept_lendIdle | apply kept_borrowRelease | apply kept_ite | apply kept_ite1
      | fail_if_no_progress apply kept_upd | apply kept_next
    | intro _ | split | dsimp only

theorem kept_lenderFailed {s : State} {c : Coord} (hs : Kept org s) : Kept org (lenderFailed s c) := by
  unfold lenderFailed
  repeat' first
    | with_reducible first
      | assumption | apply kept_report | apply kept_borrowDrop | apply kept_ite | apply kept_ite1
      | fail_if_no_progress apply kept_upd | apply kept_foldl
    | intro _ | split | dsimp only

theorem kept_foundError {s : State} {f : ScrubFind} (hs : Kept org s) : Kept org (foundError s f) := by
  unfold foundError
  repeat' first
    | with_reducible first
      | assumption | apply kept_setXd | apply kept_setDie | apply kept_report | apply kept_ite | apply kept_ite1
      | fail_if_no_progress apply kept_upd
    | intro _ | split | dsimp only

theorem kept_execScrubPass {die : CDie} {finds : List ScrubFind} {cellar hbm : BitVec 10} {s : State} (hs : Kept org s) :
    KeptO org (execScrubPass die finds cellar hbm s) := by
  unfold execScrubPass
  repeat' first
    | with_reducible first
      | assumption | apply kept_setDie | apply kept_foundError | apply kept_ite | apply kept_ite1
      | fail_if_no_progress apply kept_upd | apply kept_foldl | apply kept_next
    | intro _ | split | dsimp only

/-! ### Meter -/

theorem kept_execFrameSend {die : Fin 6} {elapsed energy : BitVec 32} {counts : List QuadCount} {s : State}
    (hs : Kept org s) :
    KeptO org (execFrameSend die elapsed energy counts s) := by
  unfold execFrameSend
  repeat' first
    | with_reducible first
      | assumption | apply kept_send | apply kept_ite | apply kept_ite1 | fail_if_no_progress apply kept_upd
      | apply kept_next
    | intro _ | split | dsimp only

theorem kept_setCalendar {s : State} {raw : Int} (hs : Kept org s) : Kept org (setCalendar s raw) := kept_upd hs

theorem kept_foldCalendar {s : State} (hs : Kept org s) : Kept org (foldCalendar s) := by
  unfold foldCalendar
  repeat' first
    | with_reducible first
      | assumption | apply kept_setCalendar | apply kept_ite | apply kept_ite1 | fail_if_no_progress apply kept_upd
    | intro _ | split | dsimp only

theorem kept_newInterval {s : State} (hs : Kept org s) : Kept org (newInterval s) := kept_upd hs

theorem kept_closeRecord {s : State} {kind : Nat} {check : BitVec 7} {detail : Bytes} (hs : Kept org s) :
    Kept org (closeRecord s kind check detail) := by
  unfold closeRecord
  repeat' first
    | with_reducible first
      | assumption | apply kept_send | apply kept_newInterval | apply kept_ite | apply kept_ite1
      | fail_if_no_progress apply kept_upd
    | intro _ | split | dsimp only

theorem kept_checkFailed {s : State} {bits : BitVec 7} (hs : Kept org s) : Kept org (checkFailed s bits) := by
  unfold checkFailed
  repeat' first
    | with_reducible first
      | assumption | apply kept_closeRecord | apply kept_ite | apply kept_ite1 | fail_if_no_progress apply kept_upd
    | intro _ | split | dsimp only

theorem kept_meterEvent {s : State} {code value : Nat} (hs : Kept org s) : Kept org (meterEvent s code value) := by
  unfold meterEvent
  repeat' with_reducible first
    | assumption | apply kept_closeRecord | fail_if_no_progress apply kept_upd

theorem kept_rejectFrame {s : State} {bit : Nat} (hs : Kept org s) : Kept org (rejectFrame s bit) := kept_upd hs

theorem kept_acceptFrame {s : State} {lane : Fin 6} {f : Bytes} (hs : Kept org s) : Kept org (acceptFrame s lane f) := by
  unfold acceptFrame
  repeat' first
    | with_reducible first
      | assumption | apply kept_closeRecord | apply kept_ite | apply kept_ite1 | fail_if_no_progress apply kept_upd
    | intro _ | split | dsimp only

theorem kept_execMeterFrame {lane : Fin 6} {frame : Bytes} {s0 : State} (hs0 : Kept org s0) :
    KeptO org (execMeterFrame lane frame s0) := by
  unfold execMeterFrame
  repeat' first
    | with_reducible first
      | assumption | apply kept_rejectFrame | apply kept_acceptFrame | apply kept_ite | apply kept_ite1
      | fail_if_no_progress apply kept_upd | apply kept_next
    | intro _ | split | dsimp only

theorem kept_dropLane {s : State} {k : Nat} (hs : Kept org s) : Kept org (dropLane s k) := kept_upd hs

theorem kept_silentLane {s : State} {k : Nat} (hs : Kept org s) : Kept org (silentLane s k) := by
  unfold silentLane
  repeat' first
    | with_reducible first
      | assumption | apply kept_ite | apply kept_ite1 | fail_if_no_progress apply kept_upd
    | intro _ | split | dsimp only

theorem kept_execMeterWindow {counts : List Nat} {storeBad : Option (BitVec 32)} {s0 : State} (hs0 : Kept org s0) :
    KeptO org (execMeterWindow counts storeBad s0) := by
  unfold execMeterWindow
  repeat' first
    | with_reducible first
      | assumption | apply kept_meterEvent | apply kept_silentLane | apply kept_dropLane | apply kept_checkFailed
      | apply kept_ite | apply kept_ite1 | fail_if_no_progress apply kept_upd | apply kept_foldl | apply kept_next
    | intro _ | split | dsimp only

theorem kept_execIntervalClose {s : State} (hs : Kept org s) : KeptO org (execIntervalClose s) := by
  unfold execIntervalClose
  repeat' first
    | with_reducible first
      | assumption | apply kept_closeRecord | apply kept_ite | apply kept_ite1 | fail_if_no_progress apply kept_upd
      | apply kept_next
    | intro _ | split

theorem kept_execSealSense {opened : Bool} {s : State} (hs : Kept org s) : KeptO org (execSealSense opened s) := by
  unfold execSealSense
  repeat' first
    | with_reducible first
      | assumption | apply kept_meterEvent | apply kept_ite | apply kept_ite1 | fail_if_no_progress apply kept_upd
      | apply kept_next
    | intro _ | split | dsimp only

theorem kept_execMtrVddLoss {s : State} (hs : Kept org s) : KeptO org (execMtrVddLoss s) := by
  unfold execMtrVddLoss
  repeat' first
    | with_reducible first
      | assumption | apply kept_ite | apply kept_ite1 | fail_if_no_progress apply kept_upd | apply kept_foldl
      | apply kept_next
    | intro _ | split | dsimp only

theorem kept_execBackupSupplyLow {s : State} (hs : Kept org s) : KeptO org (execBackupSupplyLow s) := by
  unfold execBackupSupplyLow
  repeat' first
    | with_reducible first
      | assumption | apply kept_setCalendar | apply kept_ite | apply kept_ite1 | fail_if_no_progress apply kept_upd
      | apply kept_next
    | intro _ | split | dsimp only

theorem kept_heldOpenings {z0 : Nat} {z1 : State} (hz1 : Kept org z1) : Kept org (heldOpenings z0 z1) := by
  induction z0 generalizing z1 with
  | zero => exact hz1
  | succ n ih => exact ih (kept_meterEvent hz1)

theorem kept_execMtrPowerUp {s : State} (hs : Kept org s) : KeptO org (execMtrPowerUp s) := by
  unfold execMtrPowerUp
  repeat' first
    | with_reducible first
      | assumption | apply kept_heldOpenings | apply kept_meterEvent | apply kept_closeRecord | apply kept_ite
      | apply kept_ite1 | fail_if_no_progress apply kept_upd | apply kept_next
    | intro _ | split | dsimp only

theorem kept_execCalendarDiscipline {rateOff : Bool} {s : State} (hs : Kept org s) :
    KeptO org (execCalendarDiscipline rateOff s) := by
  unfold execCalendarDiscipline
  repeat' first
    | with_reducible first
      | assumption | apply kept_foldCalendar | apply kept_checkFailed | apply kept_ite | apply kept_ite1
      | fail_if_no_progress apply kept_upd | apply kept_next
    | intro _ | split | dsimp only

theorem kept_busReply {s : State} {cmd : BitVec 8} {data : Bytes} (hs : Kept org s) : Kept org (busReply s cmd data) :=
  kept_upd hs

theorem kept_busRead {s : State} {payload : Bytes} {cmd : BitVec 8} {data : Bytes} (hs : Kept org s) :
    KeptO org (busRead s payload cmd data) := by
  unfold busRead
  repeat' first
    | with_reducible first
      | assumption | apply kept_busReply | apply kept_ite | apply kept_ite1 | fail_if_no_progress apply kept_upd
      | apply kept_next
    | intro _ | split

theorem kept_busCmd {s : State} {payload : Bytes} {cmd : BitVec 8} {n : Nat} {f : Bytes → State}
    (hs : Kept org s) (hf : (∀ d, Kept org (f d))) :
    KeptO org (busCmd s payload cmd n f) := by
  unfold busCmd
  repeat' first
    | with_reducible first
      | assumption | apply hf | apply kept_ite | apply kept_ite1 | fail_if_no_progress apply kept_upd | apply kept_next
    | intro _ | split

theorem kept_execStatus {payload : Bytes} {s : State} (hs : Kept org s) : KeptO org (execStatus payload s) := by
  unfold execStatus
  repeat' with_reducible first
    | assumption | apply kept_busRead | fail_if_no_progress apply kept_upd | apply kept_next

theorem kept_execRecord {payload : Bytes} {s : State} (hs : Kept org s) : KeptO org (execRecord payload s) := by
  unfold execRecord
  repeat' first
    | with_reducible first
      | assumption | apply kept_busCmd | apply kept_busReply | fail_if_no_progress apply kept_upd | apply kept_next
    | intro _ | dsimp only

theorem kept_closeLong {s : State} (hs : Kept org s) : Kept org (closeLong s) := by
  unfold closeLong
  repeat' first
    | with_reducible first
      | assumption | apply kept_closeRecord | apply kept_ite | apply kept_ite1 | fail_if_no_progress apply kept_upd
    | intro _ | split | dsimp only

theorem kept_execAck {payload : Bytes} {s : State} (hs : Kept org s) : KeptO org (execAck payload s) := by
  unfold execAck
  repeat' first
    | with_reducible first
      | assumption | apply kept_busCmd | apply kept_closeLong | fail_if_no_progress apply kept_upd | apply kept_next
    | intro _ | dsimp only

theorem kept_execPubkey {payload : Bytes} {s : State} (hs : Kept org s) : KeptO org (execPubkey payload s) := by
  unfold execPubkey
  repeat' with_reducible first
    | assumption | apply kept_busRead | fail_if_no_progress apply kept_upd | apply kept_next

theorem kept_execCert {payload : Bytes} {s : State} (hs : Kept org s) : KeptO org (execCert payload s) := by
  unfold execCert
  repeat' with_reducible first
    | assumption | apply kept_busRead | fail_if_no_progress apply kept_upd | apply kept_next

theorem kept_execEnergy {payload : Bytes} {s : State} (hs : Kept org s) : KeptO org (execEnergy payload s) := by
  unfold execEnergy
  repeat' first
    | with_reducible first
      | assumption | apply kept_busCmd | apply kept_checkFailed | apply kept_ite | apply kept_ite1
      | fail_if_no_progress apply kept_upd | apply kept_next
    | intro _ | split | dsimp only

theorem kept_execSettime {payload : Bytes} {s : State} (hs : Kept org s) : KeptO org (execSettime payload s) := by
  unfold execSettime
  repeat' first
    | with_reducible first
      | assumption | apply kept_busCmd | apply kept_step | apply kept_setCalendar | apply kept_meterEvent | apply kept_ite
      | apply kept_ite1 | fail_if_no_progress apply kept_upd | apply kept_next
    | intro _ | split | dsimp only

theorem kept_execSetepoch {payload : Bytes} {s : State} (hs : Kept org s) : KeptO org (execSetepoch payload s) := by
  unfold execSetepoch
  repeat' first
    | with_reducible first
      | assumption | apply kept_busCmd | apply kept_meterEvent | apply kept_ite | apply kept_ite1
      | fail_if_no_progress apply kept_upd | apply kept_next
    | intro _ | split | dsimp only

theorem kept_execSetrecint {payload : Bytes} {s : State} (hs : Kept org s) : KeptO org (execSetrecint payload s) := by
  unfold execSetrecint
  repeat' first
    | with_reducible first
      | assumption | apply kept_busCmd | apply kept_meterEvent | apply kept_ite | apply kept_ite1
      | fail_if_no_progress apply kept_upd | apply kept_next
    | intro _ | split | dsimp only

theorem kept_execLeap {payload : Bytes} {s : State} (hs : Kept org s) : KeptO org (execLeap payload s) := by
  unfold execLeap
  repeat' first
    | with_reducible first
      | assumption | apply kept_busCmd | apply kept_foldCalendar | apply kept_meterEvent | apply kept_ite | apply kept_ite1
      | fail_if_no_progress apply kept_upd | apply kept_next
    | intro _ | split | dsimp only

theorem kept_mirrorReport {s : State} {code : BitVec 16} (hs : Kept org s) : Kept org (mirrorReport s code) := by
  unfold mirrorReport
  repeat' first
    | with_reducible first
      | assumption | apply kept_report | apply kept_ite | apply kept_ite1 | fail_if_no_progress apply kept_upd
    | intro _ | split

theorem kept_execMirrorRecord {r : Bytes} {s : State} (hs : Kept org s) : KeptO org (execMirrorRecord r s) := by
  unfold execMirrorRecord
  repeat' first
    | with_reducible first
      | assumption | apply kept_mirrorReport | apply kept_ite | apply kept_ite1 | fail_if_no_progress apply kept_upd
      | apply kept_next
    | intro _ | split | dsimp only

/-! ### Predict -/

theorem kept_predFault {s : State} {core : Nat} {e : Entry} {code : BitVec 16} (hs : Kept org s) :
    Kept org (predFault s core e code).1 := by
  unfold predFault
  repeat' with_reducible first
    | assumption | apply kept_report | fail_if_no_progress apply kept_upd

theorem kept_notePred {s : State} {e : Entry} {core : Nat} {x : Pd} (hs : Kept org s) : Kept org (notePred s e core x) :=
  kept_upd hs

theorem kept_runPredict {e : Entry} {x : Pd} {s : State} {core : Nat} (hs : Kept org s) :
    Kept org (runPredict e x s core).1 := by
  unfold runPredict
  repeat' first
    | with_reducible first
      | assumption | apply kept_predFault | apply kept_havocLs | apply kept_notePred | apply kept_writeLs
      | fail_if_no_progress apply kept_upd
    | split | dsimp only

theorem kept_runBound {_e : Entry} {x : Pd} {s : State} {core : Nat} (hs : Kept org s) :
    Kept org (runBound _e x s core).1 := by
  unfold runBound
  repeat' with_reducible first
    | assumption | apply kept_writeLs | fail_if_no_progress apply kept_upd

theorem kept_execOpPredictPredict {e : Entry} {s : State} (hs : Kept org s) : KeptO org (execOpPredictPredict e s) := by
  unfold execOpPredictPredict
  apply kept_next
  apply kept_issueCmd hs
  refine ⟨fun t c h => ?_, fun t c h => ?_⟩ <;> dsimp only [pdRow]
  all_goals repeat' with_reducible first
    | assumption | apply kept_issueCmd | apply kept_runPredict | fail_if_no_progress apply kept_upd

theorem kept_execOpPredictBound {e : Entry} {s : State} (hs : Kept org s) : KeptO org (execOpPredictBound e s) := by
  unfold execOpPredictBound
  apply kept_next
  apply kept_issueCmd hs
  refine ⟨fun t c h => ?_, fun t c h => ?_⟩ <;> dsimp only [pdRow]
  all_goals repeat' with_reducible first
    | assumption | apply kept_issueCmd | apply kept_runBound | fail_if_no_progress apply kept_upd

theorem kept_runMakeup {e : Entry} {x : Mk} {s : State} {core : Nat} (hs : Kept org s) :
    Kept org (runMakeup e x s core).1 := by
  unfold runMakeup
  repeat' first
    | with_reducible first
      | assumption | apply kept_predFault | apply kept_havocUni | apply kept_writeUni | apply kept_setDie | apply kept_ite1
      | fail_if_no_progress apply kept_upd
    | intro _ | refine kept_of_ok (by with_reducible assumption) ?_ | refine kept_fst (by with_reducible assumption) ?_
    | refine kept_of_some (by with_reducible assumption) ?_ | split | dsimp only

theorem kept_execOpMakeup {e : Entry} {s : State} (hs : Kept org s) : KeptO org (execOpMakeup e s) := by
  unfold execOpMakeup
  apply kept_next
  apply kept_issueCmd hs
  refine ⟨fun t c h => ?_, fun t c h => ?_⟩ <;> dsimp only [makeupRow]
  all_goals repeat' with_reducible first
    | assumption | apply kept_issueCmd | apply kept_runMakeup | fail_if_no_progress apply kept_upd

/-! ### Protect -/

theorem kept_zeroParity {s : State} {p : PartI} {l : List ProtEntry} (hs : Kept org s) : Kept org (zeroParity s p l) := by
  unfold zeroParity
  refine kept_foldl (fun t i h => ?_) hs
  split
  · split
    · exact kept_uniZero h
    · exact kept_writeFrame h
  · exact h

theorem kept_pcfgWrite {s : State} {p : PartI} {v : BitVec 64} {peersAgree : Bool} {cert : Bytes} (hs : Kept org s) :
    Kept org (pcfgWrite s p v peersAgree cert) := by
  unfold pcfgWrite
  repeat' first
    | with_reducible first
      | assumption | apply kept_setRes | apply kept_takeCert | apply kept_zeroParity | apply kept_sealKeys
      | apply kept_report | apply kept_ite | apply kept_ite1 | fail_if_no_progress apply kept_upd
    | intro _ | split | dsimp only

theorem kept_execProtectionEnable {port : RlPort} {p : PartI} {value : BitVec 64} {peersAgree : Bool} {cert : Bytes}
    {s : State}
    (hs : Kept org s) :
    KeptO org (execProtectionEnable port p value peersAgree cert s) := by
  unfold execProtectionEnable
  repeat' first
    | with_reducible first
      | assumption | apply kept_guarded | apply kept_pcfgWrite | fail_if_no_progress apply kept_upd | apply kept_next
    | intro _ | dsimp only

theorem kept_sendSeqs {s : State} {p : PartI} (hs : Kept org s) : Kept org (sendSeqs s p) := by
  unfold sendSeqs
  repeat' first
    | with_reducible first
      | assumption | apply kept_mirror | apply kept_noteOrd | fail_if_no_progress apply kept_upd | apply kept_foldl
      | apply kept_foldl1
    | intro _ | dsimp only

theorem kept_sendMirrors {s : State} {p : PartI} (hs : Kept org s) : Kept org (sendMirrors s p) := by
  unfold sendMirrors
  repeat' first
    | with_reducible first
      | assumption | apply kept_mirror | apply kept_mirrorBind | apply kept_sendSeqs | apply kept_ite | apply kept_ite1
      | fail_if_no_progress apply kept_upd | apply kept_foldl | apply kept_foldl1 | apply kept_foldlE
    | intro _ | split | dsimp only

theorem kept_seedParity {s : State} {p : PartI} (hs : Kept org s) : Kept org (seedParity s p) := by
  unfold seedParity
  repeat' first
    | with_reducible first
      | assumption | apply kept_send | fail_if_no_progress apply kept_upd | apply kept_foldl
    | intro _ | dsimp only

theorem kept_execSeedingDone {p : PartI} {s : State} (hs : Kept org s) : KeptO org (execSeedingDone p s) := by
  unfold execSeedingDone
  repeat' first
    | with_reducible first
      | assumption | apply kept_sendMirrors | apply kept_seedParity | apply kept_setRes | apply kept_ite | apply kept_ite1
      | fail_if_no_progress apply kept_upd | apply kept_next
    | intro _ | split | dsimp only

theorem kept_shadowDelta {s : State} {p : PartI} {k : Nat} {whole : Bool} {delta : Bytes} (hs : Kept org s) :
    Kept org (shadowDelta s p k whole delta) := by
  unfold shadowDelta
  repeat' first
    | with_reducible first
      | assumption | apply kept_keepBytes | apply kept_setRes | apply kept_ite | apply kept_ite1
      | fail_if_no_progress apply kept_upd
    | intro _ | split | dsimp only

theorem kept_resyncPiece {s : State} {p : PartI} {k : Nat} (hs : Kept org s) : Kept org (resyncPiece s p k) := by
  unfold resyncPiece
  repeat' with_reducible first
    | assumption | apply kept_touchPiece | apply kept_setRes | fail_if_no_progress apply kept_upd

theorem kept_execParityDelta {_src : Coord} {p : PartI} {piece : BitVec 32} {whole : Bool} {delta : Bytes} {s : State}
    (hs : Kept org s) :
    KeptO org (execParityDelta _src p piece whole delta s) := by
  unfold execParityDelta
  repeat' first
    | with_reducible first
      | assumption | apply kept_keepBytes | apply kept_shadowDelta | apply kept_resyncPiece | apply kept_ite
      | apply kept_ite1 | fail_if_no_progress apply kept_upd | apply kept_next
    | intro _ | refine kept_fst (by with_reducible assumption) ?_ | split | dsimp only

theorem kept_execMirrorWrite {src : Coord} {p : PartI} {addr : BitVec 64} {data : Bytes} {s : State} (hs : Kept org s) :
    KeptO org (execMirrorWrite src p addr data s) := by
  unfold execMirrorWrite
  repeat' first
    | with_reducible first
      | assumption | apply kept_ite | apply kept_ite1 | fail_if_no_progress apply kept_upd | apply kept_next
    | intro _ | split | dsimp only

theorem kept_sendBeat {s : State} {d : Coord} {plane : XDie} (hs : Kept org s) : Kept org (sendBeat s d plane) := by
  unfold sendBeat
  repeat' with_reducible first
    | assumption | apply kept_sendCtl | apply kept_takeFree | fail_if_no_progress apply kept_upd

theorem kept_execHeartbeatSend {s : State} (hs : Kept org s) : KeptO org (execHeartbeatSend s) := by
  unfold execHeartbeatSend
  repeat' first
    | with_reducible first
      | assumption | apply kept_sendBeat | apply kept_ite | apply kept_ite1 | fail_if_no_progress apply kept_upd
      | apply kept_foldl | apply kept_next
    | intro _ | split | dsimp only

theorem kept_installPage {s : State} {p : PartI} {m : Memory} {i : Nat} (hs : Kept org s) :
    Kept org (installPage s p m i) := by
  have hf : ∀ (g : Nat × BitVec 8 → Nat) (l : List (Nat × BitVec 8)) (u : Memory), Memory.wf u = true →
      Memory.wf (l.foldl (fun u e => Memory.writeByte u (g e) e.2) u) = true := by
    intro g l
    induction l with
    | nil => exact fun u h => h
    | cons x l ih => exact fun u h => ih _ (Memory.wf_writeByte _ _ h)
  unfold installPage
  split
  · split
    · refine ⟨fun w => ?_, hs.pending, hs.now⟩
      have h := hs.wf w
      simp only [State.memWf, Bool.and_eq_true] at h ⊢
      exact ⟨⟨h.1.1, hf (fun e => _) _ _ (Memory.wf_zero _ _ h.1.2)⟩, h.2⟩
    · exact kept_writeFrame hs
  · exact hs

theorem kept_installSeqs {s : State} {c : CtxId} {m : Memory} (hs : Kept org s) : Kept org (installSeqs s c m) := kept_upd hs

theorem kept_restoreCtx {s : State} {c : CtxId} {m live : Memory} (hs : Kept org s) : Kept org (restoreCtx s c m live) := by
  unfold restoreCtx
  repeat' first
    | with_reducible first
      | assumption | apply kept_installSeqs | apply kept_step | apply kept_setSeq | apply kept_setCtx | apply kept_onGain
      | apply kept_readDoorbell | apply kept_ite | apply kept_ite1 | fail_if_no_progress apply kept_upd | apply kept_foldl
      | apply kept_foldl1
    | intro _ | split | dsimp only

theorem kept_carryLeases {s : State} {failed : Coord} {p : PartI} (hs : Kept org s) :
    Kept org (carryLeases s failed p) := by
  unfold carryLeases
  repeat' first
    | with_reducible first
      | assumption | apply kept_setBorrow | apply kept_ite | apply kept_ite1 | fail_if_no_progress apply kept_upd
      | apply kept_foldl | apply kept_foldlE
    | intro _ | split | dsimp only

theorem kept_carryPages {s : State} {m : Memory} {p : PartI} (hs : Kept org s) : Kept org (carryPages s m p) := by
  unfold carryPages
  repeat' first
    | with_reducible first
      | assumption | apply kept_ite | apply kept_ite1 | fail_if_no_progress apply kept_upd | apply kept_foldl
    | intro _ | split | dsimp only

theorem kept_installPart {s : State} {failed : Coord} {p : PartI} (hs : Kept org s) :
    Kept org (installPart s failed p) := by
  unfold installPart
  repeat' first
    | with_reducible first
      | assumption | apply kept_carryPages | apply kept_carryLeases | apply kept_installPage | apply kept_setRes
      | apply kept_makeBind | apply kept_loadMirrored | apply kept_restoreCtx | apply kept_ite | apply kept_ite1
      | fail_if_no_progress apply kept_upd | apply kept_foldl
    | intro _ | split | dsimp only

theorem kept_takeOver {s : State} {failed : Coord} (hs : Kept org s) : Kept org (takeOver s failed) := by
  unfold takeOver
  repeat' first
    | with_reducible first
      | assumption | apply kept_send | apply kept_report | apply kept_installPart | apply kept_ite | apply kept_ite1
      | fail_if_no_progress apply kept_upd | apply kept_foldl
    | intro _ | split | dsimp only

theorem kept_exposeTray {s : State} {reserve : Option Coord} (hs : Kept org s) : Kept org (exposeTray s reserve) := by
  unfold exposeTray
  repeat' first
    | with_reducible first
      | assumption | apply kept_setRes | apply kept_report | apply kept_ite | apply kept_ite1
      | fail_if_no_progress apply kept_upd | apply kept_foldl
    | intro _ | split | dsimp only

theorem kept_declareFailed {s : State} {who : Coord} {reserve : Option Coord} (hs : Kept org s) :
    Kept org (declareFailed s who reserve) := by
  unfold declareFailed
  repeat' first
    | with_reducible first
      | assumption | apply kept_lenderFailed | apply kept_takeOver | apply kept_exposeTray | apply kept_ite
      | apply kept_ite1 | fail_if_no_progress apply kept_upd
    | intro _ | split | dsimp only

theorem kept_execHeartbeatLoss {who : Coord} {reserve : Option Coord} {s : State} (hs : Kept org s) :
    KeptO org (execHeartbeatLoss who reserve s) := by
  unfold execHeartbeatLoss
  repeat' first
    | with_reducible first
      | assumption | apply kept_declareFailed | apply kept_ite | apply kept_ite1 | fail_if_no_progress apply kept_upd
      | apply kept_next
    | intro _ | split

theorem kept_execDown {who : Coord} {s : State} (hs : Kept org s) : KeptO org (execDown who s) := by
  unfold execDown
  repeat' first
    | with_reducible first
      | assumption | apply kept_declareFailed | apply kept_ite | apply kept_ite1 | fail_if_no_progress apply kept_upd
      | apply kept_next
    | intro _ | split

theorem kept_resendEpoch {s : State} {failed : Coord} (hs : Kept org s) : Kept org (resendEpoch s failed) := by
  unfold resendEpoch
  repeat' first
    | with_reducible first
      | assumption | apply kept_sendReq | fail_if_no_progress apply kept_upd | apply kept_foldl
    | intro _ | dsimp only

theorem kept_serveNew {s : State} {c : Coord} (hs : Kept org s) : Kept org (serveNew s c) := by
  unfold serveNew
  repeat' first
    | with_reducible first
      | assumption | apply kept_resendEpoch | apply kept_cacheDrop | fail_if_no_progress apply kept_upd | apply kept_foldl
    | intro _ | dsimp only

theorem kept_surviveTray {s : State} {failed : Coord} (hs : Kept org s) : Kept org (surviveTray s failed) := by
  unfold surviveTray
  repeat' first
    | with_reducible first
      | assumption | apply kept_setRes | apply kept_report | apply kept_ite | apply kept_ite1
      | fail_if_no_progress apply kept_upd | apply kept_foldl
    | intro _ | split | dsimp only

theorem kept_writeOverride {s : State} {c holder : Coord} (hs : Kept org s) : Kept org (writeOverride s c holder) := by
  unfold writeOverride
  repeat' first
    | with_reducible first
      | assumption | fail_if_no_progress apply kept_upd
    | intro _ | split | dsimp only

theorem kept_execTakeover {failed : Coord} {newInc : BitVec 8} {holder : Coord} {s : State} (hs : Kept org s) :
    KeptO org (execTakeover failed newInc holder s) := by
  unfold execTakeover
  repeat' first
    | with_reducible first
      | assumption | apply kept_setFp | apply kept_writeOverride | apply kept_serveNew | apply kept_lenderFailed
      | apply kept_surviveTray | apply kept_ite | apply kept_ite1 | fail_if_no_progress apply kept_upd | apply kept_foldl
      | apply kept_foldl1 | apply kept_next
    | intro _ | split | dsimp only

theorem kept_serveRaised {s : State} {c : Coord} (hs : Kept org s) : Kept org (serveRaised s c) := by
  unfold serveRaised
  repeat' first
    | with_reducible first
      | assumption | apply kept_setRes | apply kept_serveNew | apply kept_ite | apply kept_ite1
      | fail_if_no_progress apply kept_upd | apply kept_foldl
    | intro _ | split | dsimp only

theorem kept_releasePieces {s : State} {ks : List Nat} (hs : Kept org s) : Kept org (releasePieces s ks) := by
  unfold releasePieces
  repeat' first
    | with_reducible first
      | assumption | apply kept_setRes | fail_if_no_progress apply kept_upd | apply kept_foldl
    | intro _ | dsimp only

theorem kept_execRebuildPiece {survivors : Bytes} {pieces : List Nat} {s0 : State} (hs0 : Kept org s0) :
    KeptO org (execRebuildPiece survivors pieces s0) := by
  unfold execRebuildPiece
  repeat' first
    | with_reducible first
      | assumption | apply kept_releasePieces | apply kept_writeHome | apply kept_report | apply kept_ite | apply kept_ite1
      | fail_if_no_progress apply kept_upd | apply kept_next
    | intro _ | refine kept_of_ok (by with_reducible assumption) ?_ | refine kept_fst (by with_reducible assumption) ?_
    | refine kept_of_some (by with_reducible assumption) ?_ | split | dsimp only

/-! ### Reset -/

theorem kept_recordRefusal {s : State} {port : RlPort} {offset : BitVec 26} {write : Bool} {reason : BitVec 4}
    (hs : Kept org s) :
    Kept org (recordRefusal s port offset write reason) := kept_upd hs

theorem kept_accessRefused {s : State} {port : RlPort} {offset : BitVec 26} {write : Bool} {reason : BitVec 4}
    (hs : Kept org s) :
    Kept org (accessRefused s port offset write reason) := by
  unfold accessRefused
  repeat' with_reducible first
    | assumption | apply kept_report | apply kept_recordRefusal | fail_if_no_progress apply kept_upd

theorem kept_resetWrite {s : State} {port : Option RlPort} {v : BitVec 32} (hs : Kept org s) :
    Kept org (resetWrite s port v) := by
  unfold resetWrite
  repeat' first
    | with_reducible first
      | assumption | apply kept_accessRefused | apply kept_recordRefusal | apply kept_takeFree | apply kept_ite
      | apply kept_ite1 | fail_if_no_progress apply kept_upd
    | intro _ | split | dsimp only

theorem kept_execDeviceResetRequest {port : RlPort} {value : BitVec 32} {s : State} (hs : Kept org s) :
    KeptO org (execDeviceResetRequest port value s) := by
  unfold execDeviceResetRequest
  repeat' first
    | with_reducible first
      | assumption | apply kept_guarded | apply kept_resetWrite | fail_if_no_progress apply kept_upd | apply kept_next
    | intro _ | dsimp only

theorem kept_enterReset {s : State} {cause : BitVec 3} (hs : Kept org s) : Kept org (enterReset s cause) := by
  unfold enterReset
  refine ⟨fun w => ?_, hs.pending, hs.now⟩
  have h := hs.wf w
  simp only [State.memWf, Bool.and_eq_true] at h ⊢
  exact ⟨⟨rfl, rfl⟩, h.2⟩

theorem kept_execDeviceReset {s : State} (hs : Kept org s) : KeptO org (execDeviceReset s) := by
  unfold execDeviceReset
  repeat' first
    | with_reducible first
      | assumption | apply kept_enterReset | apply kept_ite | apply kept_ite1 | fail_if_no_progress apply kept_upd
      | apply kept_next
    | intro _ | split

theorem kept_execResetN {s : State} (hs : Kept org s) : KeptO org (execResetN s) := by
  unfold execResetN
  repeat' with_reducible first
    | assumption | apply kept_enterReset | fail_if_no_progress apply kept_upd | apply kept_next

theorem kept_execResetRelease {s : State} (hs : Kept org s) : KeptO org (execResetRelease s) := by
  unfold execResetRelease
  repeat' first
    | with_reducible first
      | assumption | apply kept_ite | apply kept_ite1 | fail_if_no_progress apply kept_upd | apply kept_next
    | intro _ | split

theorem kept_execTapInstruction {t : TapInstr} {s : State} (hs : Kept org s) : KeptO org (execTapInstruction t s) := by
  unfold execTapInstruction
  repeat' first
    | with_reducible first
      | assumption | apply kept_ite | apply kept_ite1 | fail_if_no_progress apply kept_upd | apply kept_next
    | intro _ | split

/-! ### Update -/

theorem kept_planRefuse {s : State} {cmd : BitVec 2} {slot : BitVec 3} (hs : Kept org s) :
    Kept org (planRefuse s cmd slot) := by
  unfold planRefuse
  repeat' with_reducible first
    | assumption | apply kept_report | fail_if_no_progress apply kept_upd

theorem kept_planDone {s : State} (hs : Kept org s) : Kept org (planDone s) := kept_upd hs

theorem kept_planTake {s : State} (hs : Kept org s) : Kept org (planTake s) := by
  unfold planTake
  repeat' with_reducible first
    | assumption | apply kept_planDone | apply kept_takeOver | fail_if_no_progress apply kept_upd

theorem kept_copyPages {s : State} {dst : Coord} (hs : Kept org s) : Kept org (copyPages s dst) := by
  unfold copyPages
  repeat' first
    | with_reducible first
      | assumption | apply kept_send | fail_if_no_progress apply kept_upd | apply kept_foldl | apply kept_foldl1
    | intro _ | dsimp only

theorem kept_copyDirty {s : State} {dst : Coord} (hs : Kept org s) : Kept org (copyDirty s dst) := by
  unfold copyDirty
  repeat' first
    | with_reducible first
      | assumption | apply kept_send | apply kept_ite | apply kept_ite1 | fail_if_no_progress apply kept_upd
      | apply kept_foldl | apply kept_foldl1
    | intro _ | split | dsimp only

theorem kept_leavePart {s : State} {p : PartI} (hs : Kept org s) : Kept org (leavePart s p) := by
  unfold leavePart
  repeat' first
    | with_reducible first
      | assumption | apply kept_setCtx | apply kept_setRes | apply kept_setPart | fail_if_no_progress apply kept_upd
      | apply kept_foldl | apply kept_foldl1
    | intro _ | dsimp only

theorem kept_planHand {s : State} (hs : Kept org s) : Kept org (planHand s) := by
  unfold planHand
  repeat' with_reducible first
    | assumption | apply kept_copyDirty | apply kept_planDone | apply kept_leavePart | fail_if_no_progress apply kept_upd
    | apply kept_foldl

theorem kept_planMark {s : State} {c : CtxId} (hs : Kept org s) : Kept org (planMark s c) := by
  unfold planMark
  repeat' first
    | with_reducible first
      | assumption | apply kept_planTake | apply kept_planHand | apply kept_ite | apply kept_ite1
      | fail_if_no_progress apply kept_upd
    | intro _ | split | dsimp only

theorem kept_planStart {s : State} {cmd : BitVec 2} {slot : BitVec 3} {left : List Nat} (hs : Kept org s) :
    Kept org (planStart s cmd slot left) := by
  unfold planStart
  repeat' first
    | with_reducible first
      | assumption | apply kept_planTake | apply kept_planHand | apply kept_ite | apply kept_ite1
      | fail_if_no_progress apply kept_upd
    | intro _ | split | dsimp only

theorem kept_planWrite {s : State} {v : BitVec 32} {slotReady : Bool} {slotDetrev : BitVec 8} (hs : Kept org s) :
    Kept org (planWrite s v slotReady slotDetrev) := by
  unfold planWrite
  repeat' first
    | with_reducible first
      | assumption | apply kept_planStart | apply kept_planRefuse | apply kept_copyPages | apply kept_ite | apply kept_ite1
      | fail_if_no_progress apply kept_upd
    | intro _ | split | dsimp only

theorem kept_execPlanTakeover {port : RlPort} {value : BitVec 32} {s : State} (hs : Kept org s) :
    KeptO org (execPlanTakeover port value s) := by
  unfold execPlanTakeover
  repeat' first
    | with_reducible first
      | assumption | apply kept_guarded | apply kept_planWrite | fail_if_no_progress apply kept_upd | apply kept_next
    | intro _ | dsimp only

theorem kept_execPlanHandback {port : RlPort} {value : BitVec 32} {slotReady : Bool} {slotDetrev : BitVec 8} {s : State}
    (hs : Kept org s) :
    KeptO org (execPlanHandback port value slotReady slotDetrev s) := by
  unfold execPlanHandback
  repeat' first
    | with_reducible first
      | assumption | apply kept_guarded | apply kept_planWrite | fail_if_no_progress apply kept_upd | apply kept_next
    | intro _ | dsimp only

theorem kept_execEpochMarkAgreed {cid : CtxId} {s : State} (hs : Kept org s) : KeptO org (execEpochMarkAgreed cid s) := by
  unfold execEpochMarkAgreed
  repeat' first
    | with_reducible first
      | assumption | apply kept_planMark | apply kept_protectorMark | apply kept_progress | apply kept_finishMark
      | apply kept_putColl | apply kept_ite | apply kept_ite1 | fail_if_no_progress apply kept_upd | apply kept_next
    | intro _ | split | dsimp only

/-! ### RegWrite -/

theorem kept_writeGlReg {s : State} {who : Option RlPort} {v : BitVec 64} {z0 : Reg} (hs : Kept org s) :
    Kept org (writeGlReg s who v z0) := by
  unfold writeGlReg
  repeat' first
    | with_reducible first
      | assumption | apply kept_resetWrite | apply kept_semReleaseWrite | apply kept_granOwnWrite
      | fail_if_no_progress apply kept_upd
    | split

theorem kept_writePartReg {s : State} {v : BitVec 64} {z0 : Reg} (hs : Kept org s) : Kept org (writePartReg s v z0) := by
  unfold writePartReg
  repeat' first
    | with_reducible first
      | assumption | apply kept_setPart | apply kept_cfgErr | apply kept_activate | apply kept_dissolve | apply kept_setCtx
      | apply kept_ite | apply kept_ite1 | fail_if_no_progress apply kept_upd
    | intro _ | split

theorem kept_writeDieReg {s : State} {v : BitVec 64} {z0 : Reg} (hs : Kept org s) : Kept org (writeDieReg s v z0) := by
  unfold writeDieReg
  repeat' first
      | with_reducible first
        | assumption | apply kept_setCore | apply kept_writeRes | apply kept_writeSpill | apply kept_lendWrite
        | apply kept_borrowWrite | apply kept_ite | apply kept_ite1 | fail_if_no_progress apply kept_upd | apply kept_foldl
        | apply kept_foldl1 | apply kept_foldlE | apply kept_next | apply kept_ok | apply kept_err | apply kept_ok2
        | apply kept_err2 | apply kept_some | apply kept_none | apply kept_some2 | apply kept_none2
      | intro _ | refine kept_of_ok (by with_reducible assumption) ?_ | refine kept_fst (by with_reducible assumption) ?_
      | refine kept_of_ok2 (by with_reducible assumption) ?_ | refine kept_of_ok2' (by with_reducible assumption) ?_
      | refine kept_of_some (by with_reducible assumption) ?_ | refine kept_of_some2 (by with_reducible assumption) ?_
      | refine kept_of_some2' (by with_reducible assumption) ?_ | refine kept_get (by with_reducible assumption) | split
      | dsimp only | with_reducible apply_assumption

theorem kept_writeFabReg {s : State} {v : BitVec 64} {z0 : Reg} (hs : Kept org s) : Kept org (writeFabReg s v z0) := by
  unfold writeFabReg
  repeat' first
      | with_reducible first
        | assumption | apply kept_fpCtrlWrite | apply kept_setFp | apply kept_circWrite | apply kept_tagWrite
        | apply kept_ite | apply kept_ite1 | fail_if_no_progress apply kept_upd | apply kept_foldl | apply kept_foldl1
        | apply kept_foldlE | apply kept_next | apply kept_ok | apply kept_err | apply kept_ok2 | apply kept_err2
        | apply kept_some | apply kept_none | apply kept_some2 | apply kept_none2
      | intro _ | refine kept_of_ok (by with_reducible assumption) ?_ | refine kept_fst (by with_reducible assumption) ?_
      | refine kept_of_ok2 (by with_reducible assumption) ?_ | refine kept_of_ok2' (by with_reducible assumption) ?_
      | refine kept_of_some (by with_reducible assumption) ?_ | refine kept_of_some2 (by with_reducible assumption) ?_
      | refine kept_of_some2' (by with_reducible assumption) ?_ | refine kept_get (by with_reducible assumption) | split
      | dsimp only | with_reducible apply_assumption

theorem kept_enableAgain {s : State} {p : PartI} (hs : Kept org s) : Kept org (enableAgain s p) := by
  unfold enableAgain
  repeat' first
    | with_reducible first
      | assumption | apply kept_pcfgWrite | apply kept_takeFree | apply kept_ite | apply kept_ite1
      | fail_if_no_progress apply kept_upd
    | intro _ | split | dsimp only

theorem kept_resCtrlWrite {s0 : State} {v : BitVec 64} (hs0 : Kept org s0) : Kept org (resCtrlWrite s0 v) := by
  unfold resCtrlWrite
  repeat' first
    | with_reducible first
      | assumption | apply kept_setRes | apply kept_enableAgain | apply kept_ite | apply kept_ite1
      | fail_if_no_progress apply kept_upd | apply kept_foldl
    | intro _ | split | dsimp only

theorem kept_writeResReg {s : State} {who : Option RlPort} {v : BitVec 64} {z0 : Reg} (hs : Kept org s) :
    Kept org (writeResReg s who v z0) := by
  unfold writeResReg
  repeat' first
    | with_reducible first
      | assumption | apply kept_resCtrlWrite | apply kept_planWrite | apply kept_takeFree | apply kept_pcfgWrite
      | apply kept_setRes | fail_if_no_progress apply kept_upd
    | split | dsimp only

theorem kept_writeSecReg {s : State} {who : Option RlPort} {v : BitVec 64} {z0 : Reg} (hs : Kept org s) :
    Kept org (writeSecReg s who v z0) := by
  unfold writeSecReg
  repeat' first
      | with_reducible first
        | assumption | apply kept_ftSetWrite | apply kept_bootCmdWrite | apply kept_attCmdWrite | apply kept_takeFree
        | apply kept_keyCmdWrite | apply kept_ite | apply kept_ite1 | fail_if_no_progress apply kept_upd | apply kept_foldl
        | apply kept_foldl1 | apply kept_foldlE | apply kept_next | apply kept_ok | apply kept_err | apply kept_ok2
        | apply kept_err2 | apply kept_some | apply kept_none | apply kept_some2 | apply kept_none2
      | intro _ | refine kept_of_ok (by with_reducible assumption) ?_ | refine kept_fst (by with_reducible assumption) ?_
      | refine kept_of_ok2 (by with_reducible assumption) ?_ | refine kept_of_ok2' (by with_reducible assumption) ?_
      | refine kept_of_some (by with_reducible assumption) ?_ | refine kept_of_some2 (by with_reducible assumption) ?_
      | refine kept_of_some2' (by with_reducible assumption) ?_ | refine kept_get (by with_reducible assumption) | split
      | dsimp only | with_reducible apply_assumption

theorem kept_writePwrReg {s : State} {v : BitVec 64} {z0 : Reg} (hs : Kept org s) : Kept org (writePwrReg s v z0) := by
  unfold writePwrReg
  repeat' first
      | with_reducible first
        | assumption | apply kept_pinWrite | apply kept_stCmdWrite | apply kept_ite | apply kept_ite1
        | fail_if_no_progress apply kept_upd | apply kept_foldl | apply kept_foldl1 | apply kept_foldlE | apply kept_next
        | apply kept_ok | apply kept_err | apply kept_ok2 | apply kept_err2 | apply kept_some | apply kept_none
        | apply kept_some2 | apply kept_none2
      | intro _ | refine kept_of_ok (by with_reducible assumption) ?_ | refine kept_fst (by with_reducible assumption) ?_
      | refine kept_of_ok2 (by with_reducible assumption) ?_ | refine kept_of_ok2' (by with_reducible assumption) ?_
      | refine kept_of_some (by with_reducible assumption) ?_ | refine kept_of_some2 (by with_reducible assumption) ?_
      | refine kept_of_some2' (by with_reducible assumption) ?_ | refine kept_get (by with_reducible assumption) | split
      | dsimp only | with_reducible apply_assumption

theorem kept_cpnWrite {s : State} {r : RlPort} {en : Bool} {jtag : BitVec 16} (hs : Kept org s) :
    Kept org (cpnWrite s r en jtag) := kept_upd hs

theorem kept_writeErrReg {s : State} {who : Option RlPort} {v : BitVec 64} {z0 : Reg} (hs : Kept org s) :
    Kept org (writeErrReg s who v z0) := by
  unfold writeErrReg
  repeat' first
    | with_reducible first
      | assumption | apply kept_ringRecheck | apply kept_setRing | apply kept_ringCfgWrite | apply kept_cpnWrite
      | apply kept_bringup | apply kept_takeFree | apply kept_teardownReq | fail_if_no_progress apply kept_upd
    | split

theorem kept_writeReg {s : State} {who : Option RlPort} {r : Reg} {v : BitVec 64} (hs : Kept org s) :
    Kept org (writeReg s who r v) := by
  unfold writeReg
  repeat' first
    | with_reducible first
      | assumption | apply kept_writeGlReg | apply kept_writePartReg | apply kept_writeDieReg | apply kept_writeFabReg
      | apply kept_writeResReg | apply kept_writeSecReg | apply kept_writePwrReg | apply kept_writeErrReg
      | fail_if_no_progress apply kept_upd
    | split

theorem kept_portWrite {s : State} {port : RlPort} {o : Nat} {wide : Bool} {v : BitVec 64} {r : Reg} {upper : Bool}
    (hs : Kept org s) :
    Kept org (portWrite s port o wide v r upper) := by
  unfold portWrite
  repeat' first
    | with_reducible first
      | assumption | apply kept_writeReg | apply kept_accessRefused | apply kept_guarded | apply kept_ite | apply kept_ite1
      | fail_if_no_progress apply kept_upd
    | intro _ | split | dsimp only

theorem kept_bootWrite {s : State} {port : RlPort} {wide : Bool} {v : BitVec 64} {r : Reg} {upper : Bool} (hs : Kept org s) :
    Kept org (bootWrite s port wide v r upper) := by
  unfold bootWrite
  repeat' first
    | with_reducible first
      | assumption | apply kept_guardedBoot | apply kept_writeReg | apply kept_semReleaseWrite | apply kept_ite
      | apply kept_ite1 | fail_if_no_progress apply kept_upd
    | intro _ | split | dsimp only

theorem kept_windowWrite {s : State} {port : RlPort} {o : Nat} {wide : Bool} {v : BitVec 64} (hs : Kept org s) :
    Kept org (windowWrite s port o wide v) := by
  unfold windowWrite
  repeat' first
    | with_reducible first
      | assumption | apply kept_accessRefused | apply kept_portWrite | apply kept_bootWrite | apply kept_ite
      | apply kept_ite1 | fail_if_no_progress apply kept_upd
    | intro _ | split

theorem kept_execRegisterWrite {port : RlPort} {offset : BitVec 26} {wide : Bool} {value : BitVec 64} {s : State}
    (hs : Kept org s) :
    KeptO org (execRegisterWrite port offset wide value s) := by
  unfold execRegisterWrite
  repeat' with_reducible first
    | assumption | apply kept_windowWrite | apply kept_noteTie | fail_if_no_progress apply kept_upd | apply kept_next

theorem kept_clearGlReg {s : State} {v : Nat} {z0 : Reg} (hs : Kept org s) : Kept org (clearGlReg s v z0) := by
  unfold clearGlReg
  repeat' first
      | with_reducible first
        | assumption | apply kept_setCore | apply kept_setDie | apply kept_ite | apply kept_ite1
        | fail_if_no_progress apply kept_upd | apply kept_foldl | apply kept_foldl1 | apply kept_foldlE | apply kept_next
        | apply kept_ok | apply kept_err | apply kept_ok2 | apply kept_err2 | apply kept_some | apply kept_none
        | apply kept_some2 | apply kept_none2
      | intro _ | refine kept_of_ok (by with_reducible assumption) ?_ | refine kept_fst (by with_reducible assumption) ?_
      | refine kept_of_ok2 (by with_reducible assumption) ?_ | refine kept_of_ok2' (by with_reducible assumption) ?_
      | refine kept_of_some (by with_reducible assumption) ?_ | refine kept_of_some2 (by with_reducible assumption) ?_
      | refine kept_of_some2' (by with_reducible assumption) ?_ | refine kept_get (by with_reducible assumption) | split
      | dsimp only | with_reducible apply_assumption

theorem kept_clearXdReg {s : State} {v : Nat} {z0 : Reg} (hs : Kept org s) : Kept org (clearXdReg s v z0) := by
  unfold clearXdReg
  repeat' first
      | with_reducible first
        | assumption | apply kept_setXd | apply kept_setFp | apply kept_ite | apply kept_ite1
        | fail_if_no_progress apply kept_upd | apply kept_foldl | apply kept_foldl1 | apply kept_foldlE | apply kept_next
        | apply kept_ok | apply kept_err | apply kept_ok2 | apply kept_err2 | apply kept_some | apply kept_none
        | apply kept_some2 | apply kept_none2
      | intro _ | refine kept_of_ok (by with_reducible assumption) ?_ | refine kept_fst (by with_reducible assumption) ?_
      | refine kept_of_ok2 (by with_reducible assumption) ?_ | refine kept_of_ok2' (by with_reducible assumption) ?_
      | refine kept_of_some (by with_reducible assumption) ?_ | refine kept_of_some2 (by with_reducible assumption) ?_
      | refine kept_of_some2' (by with_reducible assumption) ?_ | refine kept_get (by with_reducible assumption) | split
      | dsimp only | with_reducible apply_assumption

theorem kept_clearPwrReg {s : State} {v : Nat} {z0 : Reg} (hs : Kept org s) : Kept org (clearPwrReg s v z0) := by
  unfold clearPwrReg
  repeat' first
      | with_reducible first
        | assumption | apply kept_setQuad | apply kept_setRing | apply kept_ite | apply kept_ite1
        | fail_if_no_progress apply kept_upd | apply kept_foldl | apply kept_foldl1 | apply kept_foldlE | apply kept_next
        | apply kept_ok | apply kept_err | apply kept_ok2 | apply kept_err2 | apply kept_some | apply kept_none
        | apply kept_some2 | apply kept_none2
      | intro _ | refine kept_of_ok (by with_reducible assumption) ?_ | refine kept_fst (by with_reducible assumption) ?_
      | refine kept_of_ok2 (by with_reducible assumption) ?_ | refine kept_of_ok2' (by with_reducible assumption) ?_
      | refine kept_of_some (by with_reducible assumption) ?_ | refine kept_of_some2 (by with_reducible assumption) ?_
      | refine kept_of_some2' (by with_reducible assumption) ?_ | refine kept_get (by with_reducible assumption) | split
      | dsimp only | with_reducible apply_assumption

theorem kept_clearReg {s : State} {r : Reg} {hw : BitVec 64} (hs : Kept org s) : Kept org (clearReg s r hw) := by
  unfold clearReg
  repeat' first
    | with_reducible first
      | assumption | apply kept_clearPwrReg | apply kept_clearGlReg | apply kept_clearXdReg
      | fail_if_no_progress apply kept_upd
    | split

theorem kept_readEffect {s : State} {port : RlPort} {r : Reg} {hw : BitVec 64} (hs : Kept org s) :
    Kept org (readEffect s port r hw) := by
  unfold readEffect
  repeat' first
    | with_reducible first
      | assumption | apply kept_clearReg | apply kept_semTakeRead | fail_if_no_progress apply kept_upd
    | split

theorem kept_windowRead {s : State} {port : RlPort} {o : Nat} {wide : Bool} {hw : BitVec 64} (hs : Kept org s) :
    Kept org (windowRead s port o wide hw) := by
  unfold windowRead
  repeat' first
    | with_reducible first
      | assumption | apply kept_send | apply kept_accessRefused | apply kept_readEffect | apply kept_semReturn
      | apply kept_semTakeRead | apply kept_ite | apply kept_ite1 | fail_if_no_progress apply kept_upd
    | intro _ | split | dsimp only

theorem kept_execReadClear {port : RlPort} {offset : BitVec 26} {wide : Bool} {hw : BitVec 64} {s : State} (hs : Kept org s) :
    KeptO org (execReadClear port offset wide hw s) := by
  unfold execReadClear
  repeat' with_reducible first
    | assumption | apply kept_windowRead | fail_if_no_progress apply kept_upd | apply kept_next

theorem kept_execW1cWrite {port : RlPort} {offset : BitVec 26} {value hwSet : BitVec 64} {s : State} (hs : Kept org s) :
    KeptO org (execW1cWrite port offset value hwSet s) := by
  unfold execW1cWrite
  repeat' first
    | with_reducible first
      | assumption | apply kept_windowWrite | apply kept_ite | apply kept_ite1 | fail_if_no_progress apply kept_upd
      | apply kept_next
    | intro _ | split | dsimp only

theorem kept_execRegisterAccessRefused {port : RlPort} {offset : BitVec 26} {size : Nat} {write coherent : Bool} {s : State}
    (hs : Kept org s) :
    KeptO org (execRegisterAccessRefused port offset size write coherent s) := by
  unfold execRegisterAccessRefused
  repeat' first
    | with_reducible first
      | assumption | apply kept_coherent | apply kept_accessRefused | apply kept_send | apply kept_ite | apply kept_ite1
      | fail_if_no_progress apply kept_upd | apply kept_next
    | intro _ | split | dsimp only

theorem kept_ownWindow {s : State} {o : Nat} {wide write : Bool} {v : BitVec 64} (hs : Kept org s) :
    Kept org (ownWindow s o wide write v) := by
  unfold ownWindow
  repeat' first
    | with_reducible first
      | assumption | apply kept_recordRefusal | apply kept_takeFree | apply kept_send | apply kept_writeReg
      | apply kept_clearReg | apply kept_ite | apply kept_ite1 | fail_if_no_progress apply kept_upd
    | intro _ | split | dsimp only

theorem kept_execSpace4Access {target : Coord} {offset : BitVec 26} {wide write : Bool} {value : BitVec 64} {s : State}
    (hs : Kept org s) :
    KeptO org (execSpace4Access target offset wide write value s) := by
  unfold execSpace4Access
  repeat' first
    | with_reducible first
      | assumption | apply kept_badCoord | apply kept_ownWindow | apply kept_send | apply kept_ite | apply kept_ite1
      | fail_if_no_progress apply kept_upd | apply kept_next
    | intro _ | split

/-! ### Route -/

theorem kept_setDsLast {s : State} {x : Ds} (hs : Kept org s) : Kept org (setDsLast s x) := kept_upd hs

theorem kept_runCount {e : Entry} {x : Ds} {s : State} {_core : Nat} (hs : Kept org s) :
    Kept org (runCount e x s _core).1 := by
  unfold runCount
  repeat' first
    | with_reducible first
      | assumption | apply kept_settleUni | apply kept_setDsLast | fail_if_no_progress apply kept_upd
    | intro _ | split | dsimp only

theorem kept_runPack {e : Entry} {x : Ds} {s : State} {_core : Nat} (hs : Kept org s) :
    Kept org (runPack e x s _core).1 := by
  unfold runPack
  repeat' first
    | with_reducible first
      | assumption | apply kept_settleUni | fail_if_no_progress apply kept_upd
    | intro _ | split | dsimp only

theorem kept_execOpDispatchCount {e : Entry} {s : State} (hs : Kept org s) : KeptO org (execOpDispatchCount e s) := by
  unfold execOpDispatchCount
  apply kept_next
  apply kept_issueCmd hs
  refine ⟨fun t c h => ?_, fun t c h => ?_⟩ <;> dsimp only [dsRow]
  all_goals repeat' with_reducible first
    | assumption | apply kept_issueCmd | apply kept_runCount | fail_if_no_progress apply kept_upd

theorem kept_execOpDispatchPack {e : Entry} {s : State} (hs : Kept org s) : KeptO org (execOpDispatchPack e s) := by
  unfold execOpDispatchPack
  apply kept_next
  apply kept_issueCmd hs
  refine ⟨fun t c h => ?_, fun t c h => ?_⟩ <;> dsimp only [dsRow]
  all_goals repeat' with_reducible first
    | assumption | apply kept_issueCmd | apply kept_runPack | fail_if_no_progress apply kept_upd

theorem kept_setPlaceRegs {s : State} {band quiet flips d wc : Nat} (hs : Kept org s) :
    Kept org (setPlaceRegs s band quiet flips d wc) := kept_upd hs

theorem kept_runPlace {e : Entry} {x : Pl} {agrees : Bool} {s : State} {_core : Nat} (hs : Kept org s) :
    Kept org (runPlace e x agrees s _core).1 := by
  unfold runPlace
  repeat' first
    | with_reducible first
      | assumption | apply kept_settleUni | apply kept_report | apply kept_havocAreas | apply kept_setPlaceRegs
      | apply kept_ite | apply kept_ite1 | fail_if_no_progress apply kept_upd
    | intro _ | split | dsimp only

theorem kept_execOpPlace {e : Entry} {xd1Agrees : Bool} {s : State} (hs : Kept org s) :
    KeptO org (execOpPlace e xd1Agrees s) := by
  unfold execOpPlace
  apply kept_next
  apply kept_issueCmd hs
  refine ⟨fun t c h => ?_, fun t c h => ?_⟩ <;> dsimp only [placeRow]
  all_goals repeat' with_reducible first
    | assumption | apply kept_issueCmd | apply kept_runPlace | fail_if_no_progress apply kept_upd

/-! ### Scale -/

theorem kept_runSp {e : Entry} {x : Sp} {s : State} {core : Nat} (hs : Kept org s) : Kept org (runSp e x s core).1 := by
  unfold runSp
  repeat' first
    | with_reducible first
      | assumption | apply kept_settleRun | apply kept_ite | apply kept_ite1 | fail_if_no_progress apply kept_upd
    | intro _ | split | dsimp only

theorem kept_execOpScalepass {e : Entry} {s : State} (hs : Kept org s) : KeptO org (execOpScalepass e s) := by
  unfold execOpScalepass
  apply kept_next
  apply kept_issueCmd hs
  refine ⟨fun t c h => ?_, fun t c h => ?_⟩ <;> dsimp only [scaleRow]
  all_goals repeat' with_reducible first
    | assumption | apply kept_issueCmd | apply kept_runSp | fail_if_no_progress apply kept_upd

theorem kept_execOpPrune {e : Entry} {s : State} (hs : Kept org s) : KeptO org (execOpPrune e s) := by
  unfold execOpPrune
  apply kept_next
  apply kept_issueCmd hs
  refine ⟨fun t c h => ?_, fun t c h => ?_⟩ <;> dsimp only [pruneOpRow, pruneRow]
  all_goals repeat' with_reducible first
    | assumption | apply kept_issueCmd | apply kept_settleRun | fail_if_no_progress apply kept_upd

/-! ### Deliver -/

theorem kept_takeUp {s : State} {ks : List Packet} (hs : Kept org s) : Kept org (takeUp s ks) := kept_upd hs

end Sys2Proof.Machine
end

