-- ==== Sys2Proof/Tests/Slice0.lean ====
section
/-! SUPPORT. Tests of the model: an ill-formed term for each well-formedness check, worked examples of the text, and for
each statement states and operands that meet its hypotheses. -/

namespace Sys2Proof.Tests

set_option Elab.async false
set_option linter.unusedVariables false

open Sys2Proof Sys2Proof.Machine

/-! ### Well-formedness refuses ill-formed commands -/

def cid0 : CtxId := { part := 0, ctx := 0 }

def name0 : CmdName := { cid := cid0, core := 0, pos := 0, listPos := 0 }

def pkt0 : Packet :=
  { isData := false, net := 0, vc := 0, plane := 0, standin := false, hops := 0, jtag := 0, tepoch := 0, unit := 0, dst := 0
    src := 0, enc := false, last := true, sid := 0, sub := 0, offset := 0, inc := 0, pctr := 0, sdie := 0, tag := 0
    body := [] }

def chdr0 : CHdr := { jtag := 0, tree := 0, cid := 0, srcRank := 0, dstRank := 0 }

def xhdr0 : XHdr := { jtag := 0, kind := 0, plane := 0, xid := 0, srcRank := 0, dstRank := 0 }

def req0 : ReqMsg :=
  { src := 0, jtag := 0, space := 0, op := .write, sid := 0, shared := false, own := false, addr := 0, operand := 0, operand2 := 0
    bmask := 0, len := 0, cpn := false, cpnPort := 0, data := [] }

def rep0 : Report :=
  { code := 0, cls := 0, part := none, ctx := none, ring := none, srcUnit := 0, srcInst := 0, cmdPos := 0, listPos := 0
    detail := [] }

def hw0 : BootHw := { ok := true, seedOk := true, badCores := List.replicate 8 [], badArrays := List.replicate 24 0, slowdown := [] }

def objs0 : BootObjects := { identity := [], manifest := [], image := [], crcs := [], aligned := true }

theorem test_wf_access : WellFormed (.registerAccessRefused 0 0 0 false false) = false ∧
    WellFormed (.registerAccessRefused 0 0 129 false false) = false := by decide
theorem test_wf_boot : WellFormed (.bootStageEnd objs0 { hw0 with badCores := [] }) = false ∧
    WellFormed (.bootStageEnd objs0 { hw0 with badCores := List.replicate 8 [17] }) = false ∧
    WellFormed (.bootStageEnd objs0 { hw0 with badArrays := [] }) = false ∧ WellFormed (.bootStageEnd objs0 hw0) = true := by decide
theorem test_wf_delivery : WellFormed (.outsideDelivery 0 cid0 0 0 [] name0) = false ∧
    WellFormed (.outsideDelivery 0 cid0 0xBFFFFF 0 [0, 0] name0) = false := by decide
theorem test_wf_xcount : WellFormed (.xcount xhdr0 0 []) = false ∧
    WellFormed (.xcount xhdr0 0 (List.replicate 10 { localIdx := 0, wc := false, countM1 := 0 })) = false := by decide
theorem test_wf_data : WellFormed (.streamData xhdr0 0 []) = false ∧ WellFormed (.chunkData chdr0 0 0 0 [] [] []) = false := by
  decide
theorem test_wf_data_long : dataLenOk (List.replicate 2049 0) = false := by decide +kernel
theorem test_wf_row : WellFormed (.returnArrival cid0 0 0 0 []) = false ∧
    WellFormed (.returnArrival cid0 0 0 0 [0]) = false := by decide
theorem test_wf_req : WellFormed (.req req0) = false ∧ WellFormed (.req { req0 with op := .addAl48 }) = false ∧
    WellFormed (.req { req0 with op := .bulkPut, data := [0] }) = false ∧
    WellFormed (.req { req0 with op := .read, data := [0] }) = false := by decide
theorem test_wf_lines : WellFormed (.recallack 0 0 0 (some [])) = false ∧ WellFormed (.putm 0 0 0 []) = false := by decide
theorem test_wf_links : WellFormed (.negotiate 0 256 0 0 0 31 false) = false ∧
    WellFormed (.negotiate 0 3 256 0 0 31 false) = false ∧ WellFormed (.negotiate 0 3 0 0 36 31 false) = false ∧
    WellFormed (.d2dFlitReceive 0 [] [] 0) = false ∧ WellFormed (.credit 0 0 0 0) = false ∧ WellFormed (.credit 0 0 0 513) = false := by decide
theorem test_wf_packets : WellFormed (.packetReceive 0 pkt0) = false ∧ WellFormed (.tagnak true { pkt0 with isData := true }) = false := by
  decide
theorem test_wf_scrub : WellFormed (.scrubPass 0 [{ piece := 2 ^ 38, correctable := true }] 0 0) = false := by decide
theorem test_wf_protection : WellFormed (.parityDelta 0 0 0 true [0]) = false ∧ WellFormed (.mirrorWrite 0 0 0 []) = false ∧
    WellFormed (.rebuildPiece [0] []) = false := by decide
theorem test_wf_meter : WellFormed (.frameSend 0 0 0 []) = false ∧
    WellFormed (.frameSend 4 0 0 [{ busy := 0, idle := 0, maint := 0, energy := 0 }]) = false ∧
    WellFormed (.meterFrame 0 []) = false ∧ WellFormed (.meterFrame 4 []) = false ∧ WellFormed (.meterWindow [] none) = false ∧
    WellFormed (.mirrorRecord []) = false := by decide
theorem test_wf_power : WellFormed (.refreshUpdate [] []) = false ∧
    WellFormed (.pmbusPoll (List.replicate 34 { rail := 0, status := none })) = false ∧
    WellFormed (.pmAlertN (List.replicate 34 { rail := 0, status := none })) = false ∧
    WellFormed (.errorReport { rep0 with detail := [0, 0, 0, 0, 0, 0, 0, 0] }) = false := by decide
theorem test_wf_lease : WellFormed (.leaseRequest { borrower := 0, bslot := 0, lslot := 0, ngran := 0 }) = false ∧
    WellFormed (.leaseRequest { borrower := 0, bslot := 0, lslot := 0, ngran := 17 }) = false := by decide
theorem test_wf_good : WellFormed .deviceReset = true ∧ WellFormed (.mirrorWrite 0 0 0 [1]) = true := by decide

/-! ### Worked examples of the text -/

/-- The example at R27: 1.5 and -0.375 in a group of exponent 0 give 0x0000_6000_0000 and 0xFFFF_E800_0000, and 2^-40 gives 0. -/
theorem test_al48_contributions : contribInt 0 (ofF32 0x3FC00000) = 0x60000000 ∧
    contribInt 0 (ofF32 0xBEC00000) = sext48 0xFFFFE8000000 ∧ contribInt 0 (ofF32 0x2B800000) = 0 := by decide +kernel
/-- The same example: the sum 0x0000_4800_0000 converts to 0x3F90_0000. -/
theorem test_al48_sum : toF32 (al48Val { gexp := 127, empty := false, nan := 0, n := [0x48000000] } 0) = 0x3F900000 := by
  decide +kernel
/-- The example at Table 5.8: token 37 with the pairs 0x1003 and 0x0007 is eight bytes, 0x0001_0025 first. -/
theorem test_token_entry : tokenEntry 37 [(3, 1), (7, 0)] = leBytes 4 0x00010025 ++ leBytes 2 0x1003 ++ leBytes 2 0x0007 := by
  decide +kernel
/-- The example at Table 6.9: in slot order 1.0, 2^-24 and 2^-24 add to 0x3F80_0000, in arrival order to 0x3F80_0001. -/
theorem test_combine_order : toF32 (combineCol vZero (List.replicate 3 (ofF32 0x3F800000))
      [ofF32 0x3F800000, ofF32 0x33800000, ofF32 0x33800000]) = 0x3F800000 ∧
    toF32 (combineCol vZero (List.replicate 3 (ofF32 0x3F800000))
      [ofF32 0x33800000, ofF32 0x33800000, ofF32 0x3F800000]) = 0x3F800001 := by decide +kernel
/-- The example at R212: coordinate 07.12.03.2 is 0x761A. -/
theorem test_coordinate : cRow 0x761A = 7 ∧ cRack 0x761A = 12 ∧ cTray 0x761A = 3 ∧ cSlot 0x761A = 2 := by decide +kernel
/-- Table 11.5: from tray 3 to tray 9 the packet takes FP4 on VC 1 twice, then FP6 on VC 0 twice. -/
theorem test_route_hops : torusHop 3 9 = (4, true) ∧ torusHop 0 9 = (4, false) ∧ torusHop 1 9 = (6, false) ∧
    torusHop 5 9 = (6, false) ∧ torusVc 4 true none 0 = 1 ∧ torusVc 4 false (some 5) 1 = 1 ∧
    torusVc 6 false (some 5) 1 = 0 ∧ torusVc 6 false (some 7) 0 = 0 := by decide
/-- Table 11.5 and the text under it: slot 1 reaches slot 4 on FP2; slot 2 reaches slot 1 on FP3 and slot 4 on FP1. -/
theorem test_tray_ports : trayRole 1 4 = 2 ∧ trayRole 2 1 = 3 ∧ trayRole 2 4 = 1 := by decide

/-! ### States for the witnesses -/

/-- The value of a result that is one. -/
def okVal {ε α : Type} : (x : Except ε α) → x.isOk = true → α
  | .ok v, _ => v

theorem eq_ok {ε α : Type} {x : Except ε α} (h : x.isOk = true) : x = .ok (okVal x h) := by
  cases x with
  | ok v => rfl
  | error e => cases h

/-- The value of an option that has one. -/
def someVal {α : Type} : (x : Option α) → x.isSome = true → α
  | some v, _ => v

theorem eq_some {α : Type} {x : Option α} (h : x.isSome = true) : x = some (someVal x h) := by
  cases x with
  | some v => rfl
  | none => cases h

def port8 : RlPortSt := { state := 2, lanes := 8 }

/-- A state in which units run, port 0 holds semaphores 0 to 19, and partition 0 is ACTIVE with its context 0 resident on
cores 0 to 3. -/
def s7 : State :=
  { sec := { stage := 7 }
    gl := { sems := (upto 20).map (fun n => (n, { held := true, leaseEnd := 1000000 })) }
    rl := { ports := [(0, port8), (1, port8)] }
    parts := [(0, { quads := 1, state := .active, resident := some 0 })]
    ctxs := [(0, { state := .ready })] }

/-- The same with nothing held and no partition. -/
def s7e : State := { sec := { stage := 7 }, rl := { ports := [(0, port8), (1, port8)] } }

/-- The same with page 0 of the unified range owned by partition 0 and backed by its home frame. -/
def s7m : State := { s7 with mem := { pt := [(0, { owned := true, backed := true })] } }

/-- A command of context 0 with this descriptor. -/
def ent (d : Nat) : Entry := { cid := cid0, pos := 0, fromList := false, listPos := 0, desc := BitVec.ofNat 512 d }

/-- A command in flight. -/
def fly (e : Entry) (fin : Option Outcome) : InFlight := { entry := e, ranges := [], due := .now, fin := fin, issuedAt := 0 }

/-- What a sequencer stands at. -/
def blk (e : Entry) (k : BlockKind) : Blocked := { entry := e, kind := k, since := 0 }

/-- A command at the front of core 0's queue. -/
def sq (e : Entry) : State := { s7m with seqs := [(0, { queue := [e] })] }

/-- The scoreboard ranges that a row's checks give. -/
def rsOf (r : OpRow) (s : State) : List Range := match r.prep s 0 with | .go l => l | _ => []

def eMm : Entry := ent (pack [(0, 0x100), (88, 64), (112, 128), (232, 1), (248, 1), (264, 1), (280, 1), (296, 1), (312, 1), (358, 0x3F800000)])
def eMs : Entry := ent (pack [(0, 0x101), (88, 64), (112, 128), (232, 1), (248, 1), (264, 1), (280, 1), (296, 1), (312, 4), (334, 1), (338, 1), (358, 0x3F800000), (424, 192), (448, 1)])
def sMs : State := { sq eMs with ls := [(192, 4)] }
def eVc : Entry := ent (pack [(0, 0x102), (112, 128), (184, 1), (216, 2), (232, 1), (248, 32)])
def eAt : Entry := ent (pack [(0, 0x103), (88, 128), (112, 256), (136, 384), (160, 1024), (184, 1), (200, 1), (219, 1), (223, 1), (233, 1), (234, 1), (402, 2), (418, 2), (434, 2), (450, 4)])
def eSp : Entry := ent (pack [(0, 0x104), (112, 64), (136, 1), (152, 1), (168, 1), (194, 3)])
def eSa : Entry := ent (pack [(0, 0x104), (112, 64), (136, 1), (152, 1), (168, 1), (194, 3), (199, 1)])
def sSa : State := { sq eSa with ls := Memory.write [] 64 (scaleBytes { amax := 0, refx := 0, tfmt := 3, nans := 0, infs := 0 }) }
def ePr : Entry := ent (pack [(0, 0x105), (88, 64), (112, 128), (136, 1), (152, 1), (168, 1), (184, 1), (200, 16), (222, 1)])
def eDl : Entry := ent (pack [(0, 0x200), (108, 64), (153, 1), (154, 1), (170, 1), (226, 1)])
def eDu : Entry := ent (pack [(0, 0x200), (108, 64), (152, 1), (154, 1), (170, 1), (194, 1), (226, 1)])
def eGa (op : Nat) : Entry := ent (pack [(0, op), (108, 64), (132, 128), (159, 1), (175, 64), (195, 64), (267, 1)])
def sGa (op : Nat) : State := { sq (eGa op) with ls := [(128, 1)] }
def own : Pte := { owned := true }
def own0 (f : Nat) : Pte := { owned := true, backed := true, frame := BitVec.ofNat 19 f }
def eMg (m : Nat) (l : List (Nat × Nat)) : Entry := ent (pack ([(0, 0x203), (24, 2), (64, m), (155, 1)] ++ l))
def sMg (e : Entry) : State := { sq e with mem := { pt := [(0, own0 0), (1, own0 1), (2, own), (24576, own)] } }
def mig0 : Mig := { entry := ent 0, core := 0, moves := [{ page := 0, tier := 0, lease := 0, frame := 2 }, { page := 1, tier := 0, lease := 0, frame := 0 }], changed := 2 }
def wr (s : State) (a : Nat) (bs : Bytes) : State := match writeUni s 0 a bs with | .ok t => t | .error _ => s
def eSn (m : Nat) (l : List (Nat × Nat)) : Entry := ent (pack ([(0, 0x204), (24, 2), (64, m), (86, 1)] ++ l))
def rp0 : ResPart := { state := .prot, table := [{ cls := 1, first := 0, npage := 1 }], dirty := [{ piece := 0, pre := none, base := none, dirty := true }] }
def eMk : Entry := ent (pack [(0, 0x503), (24, 2), (112, 1)])
def sMk : State := { s7m with seqs := [(0, { inflight := [fly eMk none] })], res := { parts := [(0, { state := .prot })] } }
def mr0 : MarkRun := { entry := eMk, core := 0, acked := false, tails := [] }
def sMr : State := { s7m with ctxs := [(0, { state := .ready, markRun := some mr0 })] }
def kMk : Coll := markColl sMr eMk 0 0
def eGt (nexp e0 : Nat) : Entry := ent (pack [(0, 0x300), (88, 64), (136, 1), (152, 1), (168, 1), (197, e0), (211, 1), (226, nexp), (241, 1), (267, 1), (272, 1), (279, 1), (290, 1), (380, 64)])
def gs0 : GateSess := { params := (gtOf (eGt 1 0).desc).params, covered := [], toks := [[]] }
def sGs : State := { sq (eGt 1 0) with dies := [(0, { sessions := [(sessKey cid0 0, some gs0)] })] }
def sGf : State := { sq (eGt 1 0) with dies := [(0, { sessions := [(sessKey cid0 1, some { gs0 with params := { gs0.params with m := 16384 } })] })] }
def gw0 : GateWait := { core := 0, entry := eGt 1 0, since := 0 }
def sGw : State := { s7m with dies := [(0, { waiting := [gw0] })] }
def eDs (m : Nat) : Entry := ent (pack [(0, 0x301), (24, 2), (64, m), (66, 1), (83, 1), (88, 1), (103, 1), (136, 64), (180, 128), (224, 192), (268, 256), (312, 320), (356, 448), (400, 576)])
def sDs (m : Nat) : State := wr (wr (wr (sq (eDs m)) 128 (leBytes 4 (2 ^ 28))) 192 [1]) 256 [3]
def ePl (f : Nat) : Entry := ent (pack [(0, 0x302), (24, 2), (64, 64), (108, 128), (152, 192), (196, 320), (240, 1), (255, 1), (271, 1), (291, 1), (332, f)])
def sPl (f : Nat) : State := wr (sq (ePl f)) 64 [1]
def eEp : Entry := ent (pack [(0, 0x303), (24, 2), (64, 64), (108, 128), (152, 192), (240, 512), (284, 1024), (316, 1), (329, 1)])
def sEp : State := wr (sq eEp) 192 [1]
def xcd : XCmd := { newX sEp 0 eEp { ret := false, xid := 1, ndev := 1, self := 0, pb := 0 } .dispatch { rxc := 64 } with ready := [] }
def eXc (m : Nat) : Entry := ent (pack [(0, 0x304), (24, 2), (64, m), (66, 1), (82, 1), (115, 1024)])
def sXc (m rorg : Nat) : State := wr (wr (sq (eXc m)) 1024 (leBytes 128 (pack [(220, rorg), (480, 1)]))) 2048 [1]
def oXr : OutStream := { key := { cid := cid0, kind := 1, xid := 1, plane := 0, dst := 0, idx := 0 }, self := 0, counts := [], nent := 1, dbytes := 128, row64 := 1, wbytes := 0, data := List.replicate 128 0, st := .waitOpen, entry := false, counted := true, credit := 0, sent := 0 }
def eCb : Entry := ent (pack [(0, 0x305), (24, 2), (64, 64), (108, 128), (152, 192), (196, 256), (284, 1), (316, 1), (333, 1), (350, 1), (355, 1), (369, 1), (383, 1), (463, 1)])
def eAa : Entry := ent (pack [(0, 0x404), (24, 2), (64, 64), (108, 128), (152, 1), (168, 1)])
def ePd (l : List (Nat × Nat)) : Entry := ent (pack ([(0, 0x306), (160, 4096), (184, 8192), (208, 12288), (256, 1), (281, 32), (303, 1), (320, 3), (331, 1)] ++ l))
def ePp : Entry := ePd [(112, 64), (136, 128), (232, 13312), (272, 1), (324, 3), (330, 1), (332, 64)]
def ePb : Entry := ePd [(328, 1)]
def eMu : Entry := ent (pack [(0, 0x307), (88, 1024), (136, 2), (152, 1), (166, 1)])
def sMu : State := { sq eMu with ls := Memory.write [] 0 (leBytes 16 (2 ^ 16 + 2 ^ 57 + 2 ^ 58 + 2 ^ 80)) }
def eCo (op : Nat) : Entry := ent (pack [(0, op), (24, 2), (64, 64), (108, 128), (152, 192), (196, 256), (240, if op < 0x402 then 16 else 64), (297, 1), (313, 1)])
def sqs (e : Entry) (l : List Slot) : State := { s7m with seqs := [(0, { queue := [e], slots := l })] }
def slt (st : SlotState) : Slot := { state := st, valid := true, size64 := 1 }
def eW (l : List (Nat × Nat)) : Entry := ent (pack ([(0, 0x500)] ++ l))
def cPl : Ctx := { state := .ready, plans := [{ pos := 0, handed := true, out := 0, left := [0] }] }
def sB (e : Entry) (k : BlockKind) (l : List Slot) : State := { s7m with seqs := [(0, { block := some (blk e k), slots := l })] }
def eSg (l : List (Nat × Nat)) : Entry := ent (pack ([(0, 0x501)] ++ l))
def sSl (t : Slot) : State := { s7m with seqs := [(0, { slots := [t] })] }
def eDg (l : List (Nat × Nat)) : Entry := ent (pack ([(0, 0x600), (24, 2)] ++ l))
def dg0 : DigestSlot := { digid := 0, runs := List.replicate 4 shaStart, counts := List.replicate 4 0 }
def sDg (e : Entry) : State := { sq e with ctxs := [(0, { state := .ready, digests := [(0, some dg0)] })] }
def eSk (l : List (Nat × Nat)) : Entry := ent (pack ([(0, 0x601)] ++ l))
def eSs (l : List (Nat × Nat)) : Entry := ent (pack ([(0, 0x602), (24, 2)] ++ l))
def sb0 : StepBind := { word := { ovfThis := true }, addr := 0, ndev := 1, self := 0, cid := 1, grpAddr := 64, gcrc := 0 }
def sSs (e : Entry) : State := { sq e with ctxs := [(0, { state := .ready, step := some sb0 })] }
def kAg (o : Bool) : Coll := agreeColl s7m (eSs [(128, 1)]) 0 { sb0 with word := { ovfThis := o } }
def xh1 : XHdr := { xhdr0 with xid := 1 }
def xcX (q : XPar) : XCmd := newX s7m 0 (ent 0) { ret := false, xid := 1, ndev := 1, self := 0, pb := 0 } .dispatch q
def oSt (k : Fin 4) (st : OutState) : OutStream := { oXr with key := { oXr.key with kind := k }, st := st }
def sOut (o : OutStream) : State := { s7m with outs := [o] }
def xrk (n : Nat) (l : List Nat) : XRank := { rank := 0, plane := 0, ncnt := n, seqs := l }
def xcC (n : Nat) (l : List Nat) : XCmd := { xcX { nlocal := 1, row64 := 1, rxc := 64, rorg := 128 } with ranks := [xrk n l, { xrk n l with plane := 1 }] }
def ce0 : CountEntry := { localIdx := 0, wc := false, countM1 := 0 }
def inS (h : XHdr) (d : Nat) : InStream := newIn cid0 h d 1 false
def sIn (st : InStream) : State := { s7m with ins := [st] }
def inG : InStream := { inS xh1 1000 with granted := 256 }
def cb0 : Cmb := cmbOf eCb 0
def inR : InStream := { inS { xh1 with kind := 1 } 128 with landed := [(0, 128)] }
def chn (m : ChainMode) : Chain := { head := 0, tail := 0, count := 1, cid := cid0, mode := m }
def kC (l : List CollEdge) : Coll := { kAg false with tops := [1, 1], edges := l }
def edg (st : EdgeSt) : CollEdge := { tree := 0, peer := 0, up := false, level := 0, st := st }
def sK (k : Coll) : State := { s7m with colls := [k] }
def ch1 : CHdr := { chdr0 with cid := 1 }
def cOut (p : Nat) (sent : Bool) : CollOut := { (mkOut 0 2 p (some [1]) false false false 0 0) with sent := sent }
def kF : Coll := { kC [] with feeds := [[0], [0]] }
def kO : Coll := { kC [{ edg .opened with peer := 1 }] with outs := [cOut 1 false] }
def kI : Coll := { kF with ins := [newCollIn 0 2 0 []] }
def tg1 : Tags := { binds := [(0, { en := true, jtag := 1 })] }
def cF : Ctx := { state := .ready, desc := { jtag := 1, fq := [(0, 1)] } }
def sFq (l : List (Nat × Nat)) : State := { wr s7m 128 (leBytes 64 (pack l)) with ctxs := [(0, cF)], msf := { queues := [(fqKey cid0 0, { tail := 1 })] }, tags := tg1 }
def cl0 : CLine := { home := 1, line := 0, data := List.replicate 128 0 }
def gw1 : GwRun := { dst := 1, addr := 0, lines := [], recs := [], lastAt := 0 }
def sFr (x : FQueue) : State := { sFq [] with msf := { queues := [(fqKey cid0 0, x)] } }
def rq1 : ReqMsg := { req0 with jtag := 1, op := .read }
def rs1 : RspMsg := { src := 1, jtag := 1, sid := 0, status := 0, result := 0, cpn := false, cpnPort := 0, data := [] }
def or1 : OrdEnt := { key := ordKey rq1, die := 0, cid := cid0, high := some 0, rsps := [rs1], cur := none, held := [], good := [], once := [], bad := [], lastAt := 0 }
def fr1 (op : MsfOp) : FReq := { sid := 0, dst := 1, recs := [], req := { rq1 with op := op }, laddr := 0, since := 0, retry := none, rsp := none, bend := none, failed := false, stale := false }
def sFp (x : FPortSt) : State := { s7m with fab := { ports := [(0, x)] } }
def bp1 : BufPkt := { fp := some 0, via := none, pkt := pkt0, since := 0 }
def tb1 : TagBind := { en := true, jtag := 1 }
def allUp : Fab := { ports := (upto 36).map (fun p => (p, ({ state := .active } : FPortSt))) }
def s7c : State := { s7m with sec := { stage := 7, coord := 1 }, fab := allUp }
def fs0 : FtSync := { seq := 0, t1 := 0, t2 := 0, t3 := 0 }
def lm0 : LeaseMsg := { borrower := 1, bslot := 0, lslot := 0, ngran := 1 }
def sLe (x : Lend) : State := { s7m with mem := { lend := [(0, x)] } }
def sBo (x : Borrow) : State := { s7m with mem := { borrow := [(0, x)] } }
def sC2 : State := { s7m with now := 50000, ctxs := [(0, { state := .ready }), (1, { state := .ready, cmdTail := 1 })] }
def swt (b : Bool) (i : Option CtxI) : Switching := { outgoing := some 0, incoming := i, stopAt := 0, high := false, atSliceEnd := true, saved := b, savedAt := 0 }
def sSw (b : Bool) (i : Option CtxI) : State := { sC2 with parts := [(0, { quads := 1, state := .active, resident := some 0, switching := some (swt b i) })] }
def eWh : Entry := ent (2 ^ 24)
def sRe (r : Res) : State := { s7m with mem := { pt := (upto 4).map (fun i => (i, own0 i)) }, res := r }
theorem crc32cRun_append (c : BitVec 32) (a b : Bytes) : crc32cRun c (a ++ b) = crc32cRun (crc32cRun c a) b := by
  induction a generalizing c with
  | nil => rfl
  | cons x t ih => exact ih _
def z16 : Bytes := List.replicate 16 0
/-- A compute die's first frame, of a device with no partition, with nothing counted: its CRC was computed by hand from the polynomial. -/
def fr0 : Bytes := [1, 8] ++ List.replicate 158 0 ++ leBytes 4 0xE3B59509
def h16 : Bytes := [1, 8] ++ List.replicate 14 0
theorem fr0_head : fr0.take (frameLen 0 - 4) = h16 ++ (z16 ++ (z16 ++ (z16 ++ (z16 ++ (z16 ++ (z16 ++ (z16 ++ (z16 ++ (z16))))))))) := by decide +kernel
theorem fr0_crc0 : crc32cRun 0xFFFFFFFF#32 h16 = 0x7DC01BF0#32 := by decide +kernel
theorem fr0_crc1 : crc32cRun 0x7DC01BF0#32 z16 = 0x83C786E5#32 := by decide +kernel
theorem fr0_crc2 : crc32cRun 0x83C786E5#32 z16 = 0xB8C20F40#32 := by decide +kernel
theorem fr0_crc3 : crc32cRun 0xB8C20F40#32 z16 = 0xB8BD3276#32 := by decide +kernel
theorem fr0_crc4 : crc32cRun 0xB8BD3276#32 z16 = 0x7F9AAF4F#32 := by decide +kernel
theorem fr0_crc5 : crc32cRun 0x7F9AAF4F#32 z16 = 0x35F5AC8B#32 := by decide +kernel
theorem fr0_crc6 : crc32cRun 0x35F5AC8B#32 z16 = 0xB74AAA86#32 := by decide +kernel
theorem fr0_crc7 : crc32cRun 0xB74AAA86#32 z16 = 0x498D71D5#32 := by decide +kernel
theorem fr0_crc8 : crc32cRun 0x498D71D5#32 z16 = 0x190DB95B#32 := by decide +kernel
theorem fr0_crc9 : crc32cRun 0x190DB95B#32 z16 = 0x1C4A6AF6#32 := by decide +kernel
theorem fr0_intact : frameIntact 0 fr0 = true := by
  have h : crc32c (fr0.take (frameLen 0 - 4)) = 0xE3B59509#32 := by
    rw [fr0_head, crc32c]
    rw [crc32cRun_append, fr0_crc0, crc32cRun_append, fr0_crc1, crc32cRun_append, fr0_crc2, crc32cRun_append, fr0_crc3, crc32cRun_append, fr0_crc4, crc32cRun_append, fr0_crc5, crc32cRun_append, fr0_crc6, crc32cRun_append, fr0_crc7, crc32cRun_append, fr0_crc8, fr0_crc9]
    decide +kernel
  unfold frameIntact
  rw [h]
  decide +kernel
def sCal : State := { s7e with md := { ftlock := true, epochOk := true, epoch := some 0 } }
def pay (c : BitVec 8) (d : Bytes) : Bytes := d ++ [crc8 0 ([0x98#8, c] ++ d)]
def sQd (x : QuadPwr) : State := { s7m with pwr := { quads := [(0, x)] } }
def er0 : ErrRec := { code := 0, cls := 0, coalesced := false, part := none, ctx := none, ftime := 0, count := 1, srcUnit := 0, srcInst := 0, cmdPos := 0, listPos := 0, detail := [] }
def co0 : Coal := { record := er0, count := 1, firstCounted := 0, endsAt := 1000 }
theorem crcMiss {l : Bytes} : d2dOk l (Config.d2dCrc l + 1) = false := by
  simp [d2dOk, beq_eq_false_iff_ne]
/-- `s7` whose context watches its doorbell line. -/
def s7w : State := { s7 with ctxs := [(0, { state := .ready, watched := true })] }
/-- A companion on port 0 or 1 speaks for the context of job tag 1. -/
def sRy : State := { s7 with rl := { ports := [(0, { port8 with cpnEn := true, cpnJtag := 1 }), (1, { port8 with cpnEn := true, cpnJtag := 1 })] }, tags := { binds := [(0, { en := true, jtag := 1 })] } }
/-- The protector of a SEEDING partition. -/
def sSd : State := sRe { role := 1, parts := [(0, { state := .seeding })] }
theorem xorBytes_length {a b : Bytes} {n : Nat} (ha : a.length = n) (hb : b.length = n) : (xorBytes a b).length = n := by
  simp [xorBytes, ha, hb]
theorem places_127 (r : Res) : places (sRe r) 0 (pieceAddr 127) parityPiece = .ok [(8323072, parityPiece)] := by
  have h : places (sRe {}) 0 (pieceAddr 127) parityPiece = .ok [(8323072, parityPiece)] := by decide +kernel
  exact h
theorem pieceBytes_127 (r : Res) : (pieceBytes (sRe r) 0 127).length = parityPiece := by
  rw [pieceBytes, places_127]
  simp [readPlaces, frameBytes]
theorem places_xor_127 (r : Res) : places (sRe r) 0 (pieceAddr 127)
    (xorBytes (pieceBytes (sRe r) 0 127) (List.replicate parityPiece 0)).length = .ok [(8323072, parityPiece)] := by
  rw [xorBytes_length (pieceBytes_127 r) List.length_replicate, places_127]
theorem writeHome_127 (r : Res) : (writeHome (sRe r) 0 (pieceAddr 127)
    (xorBytes (pieceBytes (sRe r) 0 127) (List.replicate parityPiece 0))).isOk = true := by
  rw [writeHome, places_xor_127]
  have h : ∀ r, lentRefused (sRe r) [(8323072, parityPiece)] = none := fun r => by
    have : lentRefused (sRe {}) [(8323072, parityPiece)] = none := by decide +kernel
    exact this
  simp [h, Except.isOk, Except.toBool]
theorem apart_127 : Apart [(8323072, parityPiece)] 8323071 := by
  intro f h; simp at h; subst h; decide +kernel
/-- Two abutting empty slots. -/
def sSl2 : State := { s7m with seqs := [(0, { slots := [slt .empty, { slt .empty with base64 := 1 }] })] }
/-- A directory entry of line 1, and a state that holds it. -/
def de1 (st : DirState) : DirEnt := { line := 1, st := st, acks := 3, recalling := none }
def sDe (e : DirEnt) : State := { s7m with msf := { dir := [e] } }
/-- A sealed control packet of job tag 1. -/
def kg1 : Packet := sealPacket { pkt0 with jtag := 1, body := List.replicate 48 0 } none
/-- A CREADY message as a delivered packet. -/
def kc2 : Packet := { pkt0 with unit := 2, body := leBytes 48 2 }
theorem apart_touch : ∀ l, places s7m 0 ((getRes s7m 0).poolBase.toNat + parityPiece * poolFree (getRes s7m 0)) parityPiece = .ok l → Apart l 2097152 := by
  have h : places s7m 0 ((getRes s7m 0).poolBase.toNat + parityPiece * poolFree (getRes s7m 0)) parityPiece = .ok [(0, parityPiece)] := by
    decide +kernel
  intro l hl
  rw [h] at hl
  cases hl
  intro f hf; simp at hf; subst hf; decide +kernel

/-! ### States and operands that meet each statement's hypotheses -/

theorem witness_CommandsLeaveQueueAndClock_1 : ∃ (i : Instr) (s t : State), exec i s = .next t := ⟨.pwrBrakeNRise, s7m, _, rfl⟩
theorem witness_StepKeepsMemoriesCanonical_1 : ∃ (s t : State), s.memWf = true ∧ step s = .next t := ⟨{ s7m with pending := [.pwrBrakeNRise] }, _, by decide +kernel, rfl⟩
theorem witness_MeterRoomStandsAlone_1 : ∃ (s t : State), exec (.sealSense true) s = .next t := ⟨s7m, _, rfl⟩
theorem witness_PowerLoopsKeepTheRest_1 : ∃ (s t : State), exec .pwrBrakeN s = .next t := ⟨s7m, _, rfl⟩
theorem witness_LinksAndResetsAct_1 : ∃ (link : Fin 12) (sent : Bytes) (got : Bytes) (crc : BitVec 32) (s : State), s.gl.inReset = false ∧ s.gl.stopped = false ∧ d2dOk got crc = true :=
  ⟨11, [], [], Config.d2dCrc [], {}, by decide +kernel, by decide +kernel, beq_self_eq_true _⟩
theorem witness_LinksAndResetsAct_2 : ∃ (link : Fin 12) (sent : Bytes) (got : Bytes) (crc : BitVec 32) (s : State), s.gl.inReset = false ∧ s.gl.stopped = false ∧ d2dOk got crc = false ∧ Tbl.get 0 s.fab.d2dFails link.val + 1 ≠ 16 :=
  ⟨0, [], [], Config.d2dCrc [] + 1, {}, by decide +kernel, by decide +kernel, crcMiss, by decide +kernel⟩
theorem witness_LinksAndResetsAct_3 : ∃ (link : Fin 12) (sent : Bytes) (got : Bytes) (crc : BitVec 32) (s : State), s.gl.inReset = false ∧ s.gl.stopped = false ∧ d2dOk got crc = false ∧ Tbl.get 0 s.fab.d2dFails link.val = 15 :=
  ⟨11, [], [], Config.d2dCrc [] + 1, { fab := { d2dFails := [(11, 15)] } }, by decide +kernel, by decide +kernel, crcMiss, by decide +kernel⟩
theorem witness_LinksAndResetsAct_4 : ∃ (port : RlPort) (value : BitVec 32) (s : State), mayWrite s port 0 = true ∧ value.extractLsb' 0 8 = 1#8 ∧ value.extractLsb' 8 8 = 0xA5#8 ∧ s.gl.resetReq = none :=
  ⟨0, 0xA501, s7, by decide +kernel, by decide +kernel, by decide +kernel, by decide +kernel⟩
theorem witness_LinksAndResetsAct_5 : ∃ (s : State) (due : Nat) (cause : BitVec 3), s.gl.resetReq = some (due, cause) ∧ due ≤ s.now :=
  ⟨{ now := 10000, gl := { resetReq := some (10000, 2) } }, 10000, 2, by decide +kernel, by decide +kernel⟩
theorem witness_LinksAndResetsAct_7 : ∃ (s : State), s.gl.inReset = true :=
  ⟨{ gl := { inReset := true } }, by decide +kernel⟩
theorem witness_LinksAndResetsAct_8 : ∃ (i : TapInstr) (s : State), s.gl.resetLow = true :=
  ⟨.extest, { gl := { resetLow := true } }, by decide +kernel⟩
theorem witness_LinksAndResetsAct_9 : ∃ (i : TapInstr) (s : State), s.gl.resetLow = false :=
  ⟨.samplePreload, {}, by decide +kernel⟩
theorem witness_WindowAccessesAct_1 : ∃ (port : RlPort) (offset : BitVec 26) (wide : Bool) (value : BitVec 64) (s : State) (u : State) (r : Reg) (n : Nat), regHit offset.toNat wide = some (r, false) ∧ aligned offset.toNat wide = true ∧ r.guard = some n ∧ (wide = false → r.sideEffect64 = false) ∧ mayWrite s port n = true ∧ u = noteTie s port offset.toNat :=
  ⟨0, 0x200, false, 1, s7, _, _, _, eq_some (by decide +kernel), by decide +kernel, eq_some (by decide +kernel), (fun _ => by decide +kernel), by decide +kernel, rfl⟩
theorem witness_WindowAccessesAct_2 : ∃ (port : RlPort) (value : BitVec 64) (s : State) (u : State), mayWrite s port 0 = true ∧ u = noteTie s port 0x200 :=
  ⟨0, 10001, s7, _, by decide +kernel, rfl⟩
theorem witness_WindowAccessesAct_3 : ∃ (port : RlPort) (offset : BitVec 26) (wide : Bool) (hw : BitVec 64) (s : State) (r : Reg) (upper : Bool), windowOpen s port = true ∧ aligned offset.toNat wide = true ∧ regHit offset.toNat wide = some (r, upper) ∧ r.code = .rc ∧ (wide = false → r.sideEffect64 = false) :=
  ⟨1, 0x210, false, 0, s7, _, _, by decide +kernel, by decide +kernel, eq_some (by decide +kernel), by decide +kernel, fun _ => by decide +kernel⟩
theorem witness_WindowAccessesAct_4 : ∃ (port : RlPort) (hw : BitVec 64) (s : State), windowOpen s port = true :=
  ⟨1, 0, s7, by decide +kernel⟩
theorem witness_WindowAccessesAct_5 : ∃ (port : RlPort) (value : BitVec 64) (hwSet : BitVec 64) (s : State), mayWrite s port 0 = true :=
  ⟨0, 1, 2, s7, by decide +kernel⟩
theorem witness_WindowAccessesAct_6 : ∃ (port : RlPort) (offset : BitVec 26) (size : Nat) (write : Bool) (coherent : Bool) (s : State), windowOpen s port = true ∧ refusalReason offset.toNat size coherent ≠ 0 :=
  ⟨1, 1, 4, false, false, s7, by decide +kernel, by decide +kernel⟩
theorem witness_WindowAccessesAct_7 : ∃ (target : Coord) (offset : BitVec 26) (wide : Bool) (write : Bool) (value : BitVec 64) (s : State), unitsRun s = true ∧ target ≠ s.sec.coord ∧ s.fab.acting ≠ some target ∧ coordBad target = false :=
  ⟨1, 0, false, false, 0, s7, by decide +kernel, by decide +kernel, by decide +kernel, by decide +kernel⟩
theorem witness_WindowAccessesAct_8 : ∃ (target : Coord) (offset : BitVec 26) (wide : Bool) (write : Bool) (value : BitVec 64) (s : State), unitsRun s = true ∧ coordBad target = true :=
  ⟨5, 0, false, false, 0, s7, by decide +kernel, by decide +kernel⟩
theorem witness_WindowAccessesAct_8b : ∃ (target : Coord) (offset : BitVec 26) (wide : Bool) (write : Bool) (value : BitVec 64) (s : State), unitsRun s = true ∧ coordBad target = true :=
  ⟨7, 0, false, false, 0, s7, by decide +kernel, by decide +kernel⟩
theorem witness_WindowAccessesAct_9 : ∃ (offset : BitVec 26) (wide : Bool) (value : BitVec 64) (s : State) (r : Reg) (upper : Bool), unitsRun s = true ∧ coordBad s.sec.coord = false ∧ aligned offset.toNat wide = true ∧ regHit offset.toNat wide = some (r, upper) ∧ (wide = false → r.sideEffect64 = false) :=
  ⟨0x200, false, 1, s7, _, _, by decide +kernel, by decide +kernel, by decide +kernel, eq_some (by decide +kernel), (fun _ => by decide +kernel)⟩
theorem witness_WindowAccessesAct_10 : ∃ (port : RlPort) (p : PartI) (s : State), mayWrite s port (6 + p.val) = true ∧ (getPart s p).state = .absent ∧ activateBad s p (getPart s p) = false :=
  ⟨0, 7, { s7 with parts := [(7, { quads := 1 })] }, by decide +kernel, by decide +kernel, by decide +kernel⟩
theorem witness_WindowAccessesAct_11 : ∃ (port : RlPort) (p : PartI) (s : State), mayWrite s port (6 + p.val) = true ∧ ((getPart s p).state = .active ∨ (getPart s p).state = .faulted) :=
  ⟨0, 0, s7, by decide +kernel, by decide +kernel⟩
theorem witness_WindowAccessesAct_12 : ∃ (port : RlPort) (value : BitVec 32) (s : State) (g : Nat), mayWrite s port 0 = true ∧ g = s.gl.granSel.toNat ∧ g < 1136 ∧ value.getLsbD 3 = true ∧ (getGran s g).owned = false ∧ (getGran s g).zeroing = false ∧ (getGran s g).lent = false ∧ (getPart s (Fin.ofNat 8 value.toNat)).state = .absent :=
  ⟨0, 8, { s7 with parts := [] }, _, by decide +kernel, rfl, by decide +kernel, by decide +kernel, by decide +kernel, by decide +kernel, by decide +kernel, by decide +kernel⟩
theorem witness_SemaphoresTakeAndRelease_1 : ∃ (port : RlPort) (n : Fin 32) (s : State), semAnswers s port n.val = true ∧ (getSem s n.val).held = false ∧ semRival s port n.val = none :=
  ⟨1, 31, s7, by decide +kernel, by decide +kernel, by decide +kernel⟩
theorem witness_SemaphoresTakeAndRelease_2 : ∃ (port : RlPort) (q : RlPort) (n : Fin 32) (s : State), semAnswers s port n.val = true ∧ (getSem s n.val).held = false ∧ semRival s port n.val = some q :=
  ⟨1, 0, 31, { s7 with pending := [.semTake 0 31] }, by decide +kernel, by decide +kernel, by decide +kernel⟩
theorem witness_SemaphoresTakeAndRelease_3 : ∃ (port : RlPort) (n : Fin 32) (s : State), semAnswers s port n.val = true ∧ holdsSem s port n.val = true ∧ s.now < (getSem s n.val).leaseEnd :=
  ⟨0, 19, s7, by decide +kernel, by decide +kernel, by decide +kernel⟩
theorem witness_SemaphoresTakeAndRelease_4 : ∃ (port : RlPort) (n : Fin 32) (s : State), semAnswers s port n.val = true ∧ (getSem s n.val).held = true ∧ (getSem s n.val).owner ≠ port ∧ s.now < (getSem s n.val).leaseEnd ∧ semRival s port n.val = none :=
  ⟨1, 0, s7, by decide +kernel, by decide +kernel, by decide +kernel, by decide +kernel, by decide +kernel⟩
theorem witness_SemaphoresTakeAndRelease_5 : ∃ (port : RlPort) (n : Fin 32) (value : BitVec 64) (s : State), semAnswers s port n.val = true ∧ holdsSem s port n.val = true ∧ s.now < (getSem s n.val).leaseEnd ∧ value.getLsbD 0 = true ∧ value.extractLsb' 16 16 = (getSem s n.val).ticket :=
  ⟨0, 0, 1, s7, by decide +kernel, by decide +kernel, by decide +kernel, by decide +kernel, by decide +kernel⟩
theorem witness_SemaphoresTakeAndRelease_6 : ∃ (port : RlPort) (n : Fin 32) (value : BitVec 64) (s : State), ((getSem s n.val).held = false ∨ s.now < (getSem s n.val).leaseEnd) ∧ (value.getLsbD 0 = false ∨ holdsSem s port n.val = false ∨ value.extractLsb' 16 16 ≠ (getSem s n.val).ticket) :=
  ⟨1, 0, 1, s7, by decide +kernel, by decide +kernel⟩
theorem witness_SemaphoresTakeAndRelease_7 : ∃ (n : Fin 32) (s : State), (getSem s n.val).held = true ∧ (getSem s n.val).leaseEnd ≤ s.now ∧ s.sec.stage = 7 :=
  ⟨19, { s7 with now := 1000000 }, by decide +kernel, by decide +kernel, by decide +kernel⟩
theorem witness_SemaphoresTakeAndRelease_8 : ∃ (n : Fin 32) (s : State), ((getSem s n.val).held = false ∨ s.now < (getSem s n.val).leaseEnd) :=
  ⟨19, { s7 with now := 999999 }, by decide +kernel⟩
theorem witness_BootKeysAndAttestationAct_1 : ∃ (port : RlPort) (value : BitVec 32) (s : State) (u : State), mayBoot s port = true ∧ s.sec.stage = 0 ∧ value.getLsbD 0 = true ∧ u = noteTie s port 0x3200008 ∧ value.getLsbD 1 = false :=
  ⟨0, 1, { s7 with sec := {} }, _, by decide +kernel, by decide +kernel, by decide +kernel, rfl, by decide +kernel⟩
theorem witness_BootKeysAndAttestationAct_2 : ∃ (port : RlPort) (value : BitVec 32) (s : State) (u : State), mayBoot s port = true ∧ s.sec.stage = 0 ∧ value.getLsbD 0 = true ∧ u = noteTie s port 0x3200008 ∧ value.getLsbD 1 = true :=
  ⟨0, 31, { s7 with sec := {} }, _, by decide +kernel, by decide +kernel, by decide +kernel, rfl, by decide +kernel⟩
theorem witness_BootKeysAndAttestationAct_3 : ∃ (port : RlPort) (value : BitVec 32) (s : State), mayBoot s port = true ∧ s.sec.stage ≠ 0 :=
  ⟨0, 1, s7, by decide +kernel, by decide +kernel⟩
theorem witness_BootKeysAndAttestationAct_4 : ∃ (objs : BootObjects) (hw : BootHw) (s : State), s.gl.inReset = false ∧ s.sec.stage = 1 :=
  ⟨objs0, hw0, { sec := { stage := 1 } }, by decide +kernel, by decide +kernel⟩
theorem witness_BootKeysAndAttestationAct_5 : ∃ (objs : BootObjects) (hw : BootHw) (s : State) (m : Bytes) (h : Bytes), s.gl.inReset = false ∧ s.sec.stage = 2 ∧ m = objRead s objs 1 0 1024 ∧ h = objRead s objs 2 0 4096 :=
  ⟨objs0, hw0, { sec := { stage := 2 } }, _, _, by decide +kernel, by decide +kernel, rfl, rfl⟩
theorem witness_BootKeysAndAttestationAct_6 : ∃ (objs : BootObjects) (hw : BootHw) (s : State), s.gl.inReset = false ∧ s.sec.stage = 4 ∧ hw.ok = true ∧ sparesOk hw = true :=
  ⟨objs0, hw0, { sec := { stage := 4 } }, by decide +kernel, by decide +kernel, by decide +kernel, by decide +kernel⟩
theorem witness_BootKeysAndAttestationAct_7 : ∃ (objs : BootObjects) (hw : BootHw) (s : State), s.gl.inReset = false ∧ 3 ≤ s.sec.stage.toNat ∧ s.sec.stage.toNat ≤ 5 ∧ (hw.ok = false ∨ s.sec.stage = 4 ∧ sparesOk hw = false) :=
  ⟨objs0, { hw0 with ok := false }, { sec := { stage := 5 } }, by decide +kernel, by decide +kernel, by decide +kernel, by decide +kernel⟩
theorem witness_BootKeysAndAttestationAct_7b : ∃ (objs : BootObjects) (hw : BootHw) (s : State), s.gl.inReset = false ∧ 3 ≤ s.sec.stage.toNat ∧ s.sec.stage.toNat ≤ 5 ∧ (hw.ok = false ∨ s.sec.stage = 4 ∧ sparesOk hw = false) :=
  ⟨objs0, { hw0 with badCores := List.replicate 8 [0, 1] }, { sec := { stage := 4 } }, by decide +kernel, by decide +kernel, by decide +kernel, by decide +kernel⟩
theorem witness_BootKeysAndAttestationAct_7c : ∃ (objs : BootObjects) (hw : BootHw) (s : State), s.gl.inReset = false ∧ 3 ≤ s.sec.stage.toNat ∧ s.sec.stage.toNat ≤ 5 ∧ (hw.ok = false ∨ s.sec.stage = 4 ∧ sparesOk hw = false) :=
  ⟨objs0, { hw0 with ok := false }, { sec := { stage := 3 } }, by decide +kernel, by decide +kernel, by decide +kernel, by decide +kernel⟩
theorem witness_BootKeysAndAttestationAct_8 : ∃ (objs : BootObjects) (hw : BootHw) (s : State), s.gl.inReset = false ∧ s.sec.stage = 3 ∧ hw.ok = true :=
  ⟨objs0, hw0, { sec := { stage := 3 } }, by decide +kernel, by decide +kernel, by decide +kernel⟩
theorem witness_BootKeysAndAttestationAct_9 : ∃ (objs : BootObjects) (hw : BootHw) (s : State), s.gl.inReset = false ∧ s.sec.stage = 5 ∧ hw.ok = true :=
  ⟨objs0, hw0, { sec := { stage := 5 } }, by decide +kernel, by decide +kernel, by decide +kernel⟩
theorem witness_BootKeysAndAttestationAct_10 : ∃ (objs : BootObjects) (hw : BootHw) (s : State), s.gl.inReset = false ∧ s.sec.stage = 6 :=
  ⟨objs0, hw0, { sec := { stage := 6 } }, by decide +kernel, by decide +kernel⟩
theorem witness_BootKeysAndAttestationAct_11 : ∃ (port : RlPort) (value : BitVec 32) (s : State), mayWrite s port 2 = true ∧ value.toNat % 4 = 1 ∧ (getKey s s.sec.keySel).valid = false ∧ (getPart s (Fin.ofNat 8 (value.toNat / 4 % 8))).state = .active :=
  ⟨0, 1, s7, by decide +kernel, by decide +kernel, by decide +kernel, by decide +kernel⟩
theorem witness_BootKeysAndAttestationAct_12 : ∃ (port : RlPort) (value : BitVec 32) (s : State), mayWrite s port 2 = true ∧ value.toNat % 4 = 2 ∧ keyBound s s.sec.keySel = false :=
  ⟨0, 2, s7, by decide +kernel, by decide +kernel, by decide +kernel⟩
theorem witness_BootKeysAndAttestationAct_13 : ∃ (port : RlPort) (value : BitVec 32) (s : State), mayWrite s port 2 = true ∧ value.toNat % 4 = 2 ∧ keyBound s s.sec.keySel = true :=
  ⟨0, 2, { s7 with tags := { binds := [(0, { en := true, enc := true })] } }, by decide +kernel, by decide +kernel, by decide +kernel⟩
theorem witness_BootKeysAndAttestationAct_14 : ∃ (port : RlPort) (value : BitVec 32) (s : State), mayWrite s port 2 = true ∧ value.getLsbD 0 = true :=
  ⟨0, 1, s7, by decide +kernel, by decide +kernel⟩
theorem witness_BootKeysAndAttestationAct_14b : ∃ (port : RlPort) (value : BitVec 32) (s : State), mayWrite s port 2 = true ∧ value.getLsbD 0 = true :=
  ⟨0, 1, s7, by decide +kernel, by decide +kernel⟩
theorem witness_BootKeysAndAttestationAct_15 : ∃ (port : RlPort) (value : BitVec 32) (s : State), mayWrite s port 2 = true ∧ value.getLsbD 0 = true :=
  ⟨0, 1, s7, by decide +kernel, by decide +kernel⟩
theorem witness_BootKeysAndAttestationAct_15b : ∃ (port : RlPort) (value : BitVec 32) (s : State), mayWrite s port 2 = true ∧ value.getLsbD 0 = true :=
  ⟨0, 1, s7, by decide +kernel, by decide +kernel⟩
theorem witness_BootKeysAndAttestationAct_16 : ∃ (port : RlPort) (value : BitVec 32) (s : State) (l : List Nat), mayWrite s port 18 = true ∧ value.extractLsb' 0 2 = 1#2 ∧ (value.extractLsb' 2 3).toNat < 4 ∧ s.res.role = 1 ∧ s.res.tstate = 2 ∧ s.fab.acting = none ∧ s.res.plan.left = none ∧ l = mirroredCtxs s (trayCoord s (value.extractLsb' 2 3).toNat) ∧ l ≠ [] :=
  ⟨0, 1, { s7 with res := { role := 1, tstate := 2, parts := [(0, { state := .prot })], mirrors := [(0, { mark := [(2 * 2 ^ 60, 1)] })] } }, _, by decide +kernel, by decide +kernel, by decide +kernel, by decide +kernel, by decide +kernel, by decide +kernel, by decide +kernel, rfl, by decide +kernel⟩
theorem witness_BootKeysAndAttestationAct_17 : ∃ (port : RlPort) (value : BitVec 32) (s : State) (u : State) (l : List Nat), mayWrite s port 18 = true ∧ value.extractLsb' 0 2 = 2#2 ∧ (value.extractLsb' 2 3).toNat < 4 ∧ s.fab.acting = some (trayCoord s (value.extractLsb' 2 3).toNat) ∧ s.res.plan.left = none ∧ l = actingCtxs s ∧ l ≠ [] ∧ u = copyPages s (trayCoord s (value.extractLsb' 2 3).toNat) :=
  ⟨0, 14, { s7 with fab := { acting := some 3 }, res := { parts := [(0, { state := .prot })] } }, _, _, by decide +kernel, by decide +kernel, by decide +kernel, by decide +kernel, by decide +kernel, rfl, by decide +kernel, rfl⟩
theorem witness_UpdatePlansStart_1 : ∃ (port : RlPort) (value : BitVec 32) (s : State), mayWrite s port 18 = true ∧ value.extractLsb' 0 2 = 1#2 ∧ (value.extractLsb' 2 3).toNat < 4 ∧ s.res.role = 1 ∧ s.res.tstate = 2 ∧ s.fab.acting = none ∧ s.res.plan.left = none ∧ mirroredCtxs s (trayCoord s (value.extractLsb' 2 3).toNat) ≠ [] :=
  ⟨0, 1, { s7 with res := { role := 1, tstate := 2, parts := [(0, { state := .prot })], mirrors := [(0, { mark := [(2 * 2 ^ 60, 1)] })] } }, by decide +kernel, by decide +kernel, by decide +kernel, by decide +kernel, by decide +kernel, by decide +kernel, by decide +kernel, by decide +kernel⟩
theorem witness_UpdatePlansStart_2 : ∃ (port : RlPort) (value : BitVec 32) (s : State), mayWrite s port 18 = true ∧ value.extractLsb' 0 2 = 1#2 ∧ (value.extractLsb' 2 3).toNat < 4 ∧ s.res.role = 1 ∧ s.res.tstate = 2 ∧ s.fab.acting = none ∧ s.res.plan.left = none ∧ mirroredCtxs s (trayCoord s (value.extractLsb' 2 3).toNat) = [] :=
  ⟨0, 13, { s7 with res := { role := 1, tstate := 2 } }, by decide +kernel, by decide +kernel, by decide +kernel, by decide +kernel, by decide +kernel, by decide +kernel, by decide +kernel, by decide +kernel⟩
theorem witness_UpdatePlansStart_3 : ∃ (port : RlPort) (value : BitVec 32) (detrev : BitVec 8) (s : State), mayWrite s port 18 = true ∧ value.extractLsb' 0 2 = 2#2 ∧ (value.extractLsb' 2 3).toNat < 4 ∧ s.fab.acting = some (trayCoord s (value.extractLsb' 2 3).toNat) ∧ detrev = s.sec.detrev ∧ s.res.plan.left = none :=
  ⟨0, 14, 0, { s7 with fab := { acting := some 3 } }, by decide +kernel, by decide +kernel, by decide +kernel, by decide +kernel, by decide +kernel, by decide +kernel⟩
theorem witness_UpdatePlansStart_4 : ∃ (cid : CtxId) (s : State) (u : State), unitsRun s = true ∧ protects s cid.part = true ∧ u = protectorMark s cid.part ∧ u.res.plan.left = some [CtxId.key cid] ∧ u.res.plan.cmd = 1 :=
  ⟨cid0, { s7 with res := { role := 1, parts := [(0, { state := .prot })], plan := { cmd := 1, left := some [0] } } }, _, by decide +kernel, by decide +kernel, rfl, by decide +kernel, by decide +kernel⟩
theorem witness_UpdatePlansStart_5 : ∃ (port : RlPort) (value : BitVec 32) (detrev : BitVec 8) (s : State), mayWrite s port 18 = true ∧ value.extractLsb' 0 2 = 2#2 ∧ detrev ≠ s.sec.detrev :=
  ⟨0, 2, 1, s7, by decide +kernel, by decide +kernel, by decide +kernel⟩
theorem witness_ContextsAndRingsAct_1 : ∃ (port : RlPort) (s : State) (st : Bytes) (rt : Bytes), mayWrite s port 5 = true ∧ bringupRefused s (selectedCtx s) true = false ∧ ctxDescOk s (selectedCtx s) (leNat (readComp s port s.rl.ctxDesc.toNat 128)) (ctxDescOf (leNat (readComp s port s.rl.ctxDesc.toNat 128))) = true ∧ readUni s (selectedCtx s).part (ctxDescOf (leNat (readComp s port s.rl.ctxDesc.toNat 128))).slottab.toNat 512 = .ok st ∧ (if (ctxDescOf (leNat (readComp s port s.rl.ctxDesc.toNat 128))).rngtab = 0 then .ok [] else readUni s (selectedCtx s).part (ctxDescOf (leNat (readComp s port s.rl.ctxDesc.toNat 128))).rngtab.toNat 512) = .ok rt ∧ slotTableOk (slotWords st) = true :=
  ⟨0, { s7m with ctxs := [], comp := [(0, 0x8C), (1, 1)] }, _, _, by decide +kernel, by decide +kernel, by decide +kernel, eq_ok (by decide +kernel), eq_ok (by decide +kernel), by decide +kernel⟩
theorem witness_ContextsAndRingsAct_2 : ∃ (port : RlPort) (readable : Bool) (s : State), mayWrite s port 5 = true ∧ bringupRefused s (selectedCtx s) readable = true :=
  ⟨0, true, s7, by decide +kernel, by decide +kernel⟩
theorem witness_ContextsAndRingsAct_2b : ∃ (port : RlPort) (readable : Bool) (s : State), mayWrite s port 5 = true ∧ bringupRefused s (selectedCtx s) readable = true :=
  ⟨0, false, { s7m with ctxs := [] }, by decide +kernel, by decide +kernel⟩
theorem witness_ContextsAndRingsAct_3 : ∃ (port : RlPort) (s : State), mayWrite s port 5 = true ∧ (getCtx s (selectedCtx s)).state ≠ .absent ∧ (getCtx s (selectedCtx s)).state ≠ .teardown :=
  ⟨0, s7, by decide +kernel, by decide +kernel, by decide +kernel⟩
theorem witness_ContextsAndRingsAct_4 : ∃ (port : RlPort) (s : State), mayWrite s port 5 = true ∧ (getCtx s (selectedCtx s)).state = .absent :=
  ⟨0, { s7 with ctxs := [] }, by decide +kernel, by decide +kernel⟩
theorem witness_ContextsAndRingsAct_5 : ∃ (cid : CtxId) (s : State) (line : Bytes), lineWatched s cid = true ∧ line = readComp s (getCtx s cid).desc.rport (getCtx s cid).desc.dbell.toNat 8 ∧ 2 ^ (getCtx s cid).desc.clog2.toNat < ahead (BitVec.ofNat 32 (leNat (line.take 4))) (getCtx s cid).cmdHead :=
  ⟨cid0, { s7w with comp := [(0, 2)] }, _, by decide +kernel, rfl, by decide +kernel⟩
theorem witness_ContextsAndRingsAct_6 : ∃ (cid : CtxId) (s : State) (line : Bytes) (tail : BitVec 32), lineWatched s cid = true ∧ (getCtx s cid).state ≠ .ready ∧ line = readComp s (getCtx s cid).desc.rport (getCtx s cid).desc.dbell.toNat 8 ∧ tail = BitVec.ofNat 32 (leNat (line.take 4)) ∧ ahead tail (getCtx s cid).cmdHead ≤ 2 ^ (getCtx s cid).desc.clog2.toNat ∧ (ahead (BitVec.ofNat 32 (leNat (line.drop 4))) (getCtx s cid).cplTail = 0 ∨ 2 ^ 31 ≤ ahead (BitVec.ofNat 32 (leNat (line.drop 4))) (getCtx s cid).cplTail) :=
  ⟨cid0, { s7w with ctxs := [(0, { state := .faulted, watched := true })], comp := [(0, 1)] }, _, _, by decide +kernel, by decide +kernel, rfl, rfl, by decide +kernel, by decide +kernel⟩
theorem witness_ContextsAndRingsAct_7 : ∃ (cid : CtxId) (s : State) (line : Bytes), lineWatched s cid = true ∧ (getCtx s cid).state = .ready ∧ isResident s cid = false ∧ line = readComp s (getCtx s cid).desc.rport (getCtx s cid).desc.dbell.toNat 8 ∧ ahead (BitVec.ofNat 32 (leNat (line.take 4))) (getCtx s cid).cmdHead ≤ 2 ^ (getCtx s cid).desc.clog2.toNat ∧ (ahead (BitVec.ofNat 32 (leNat (line.drop 4))) (getCtx s cid).cplTail = 0 ∨ 2 ^ 31 ≤ ahead (BitVec.ofNat 32 (leNat (line.drop 4))) (getCtx s cid).cplTail) :=
  ⟨{ part := 0, ctx := 1 }, { s7 with ctxs := [(1, { state := .ready, watched := true })], comp := [(0, 1)] }, _, by decide +kernel, by decide +kernel, by decide +kernel, rfl, by decide +kernel, by decide +kernel⟩
theorem witness_ContextsAndRingsAct_8 : ∃ (cid : CtxId) (s : State) (t : State), ringLive s cid = true ∧ isResident s cid = true ∧ (getPart s cid.part).switching = none ∧ t = handOver (ahead (getCtx s cid).cmdTail (getCtx s cid).cmdHead) s cid :=
  ⟨cid0, { s7 with ctxs := [(0, { state := .ready, cmdTail := 1 })] }, _, by decide +kernel, by decide +kernel, by decide +kernel, rfl⟩
theorem witness_ContextsAndRingsAct_9 : ∃ (core : CoreI) (pos : BitVec 32) (listPos : BitVec 32) (s : State) (f : InFlight), unitsRun s = true ∧ namedFlight s core.val pos listPos = some f ∧ f.fin.isSome = true :=
  ⟨0, 0, 0, { s7 with seqs := [(0, { inflight := [fly (ent 0) (some okOutcome)] })] }, _, by decide +kernel, eq_some (by decide +kernel), by decide +kernel⟩
theorem witness_ContextsAndRingsAct_10 : ∃ (core : CoreI) (pos : BitVec 32) (listPos : BitVec 32) (s : State) (e : Entry), unitsRun s = true ∧ namedFlight s core.val pos listPos = none ∧ fenceEnds s core.val pos = some e :=
  ⟨0, 0, 0, { s7 with seqs := [(0, { block := some (blk (ent 0) .fence) })] }, _, by decide +kernel, by decide +kernel, eq_some (by decide +kernel)⟩
theorem witness_ContextsAndRingsAct_11 : ∃ (core : CoreI) (pos : BitVec 32) (listPos : BitVec 32) (s : State) (c : CtxId) (held : Nat) (f : InFlight), unitsRun s = true ∧ coreCtx s core.val = some c ∧ (getSeq s c core.val).inflight.find? (fun g => isEntry pos listPos g && g.heldAt.isSome) = some f ∧ f.heldAt = some held ∧ cplRingFull (getCtx s c) = true ∧ held + hangNs s c ≤ residentClock s c :=
  ⟨0, 0, 0, { s7 with now := 250000000, ctxs := [(0, { state := .ready, cplTail := 1 })], seqs := [(0, { inflight := [{ fly (ent 0) (some okOutcome) with heldAt := some 0 }] })] }, cid0, 0, _, by decide +kernel, by decide +kernel, eq_some (by decide +kernel), by decide +kernel, by decide +kernel, by decide +kernel⟩
theorem witness_ContextsAndRingsAct_12 : ∃ (p : PartI) (s : State) (u : State) (r : CtxI) (c : CtxI), (getPart s p).resident = some r ∧ unitsRun s = true ∧ (getPart s p).state = .active ∧ (getPart s p).switching = none ∧ (getPart s p).sliceEnd ≤ s.now ∧ u = renewResidency s p ∧ bestOf u p ((withWork u p).filter (· != r)) = some c ∧ ranksBefore u p c r = true :=
  ⟨0, sC2, _, 0, 1, by decide +kernel, by decide +kernel, by decide +kernel, by decide +kernel, by decide +kernel, rfl, by decide +kernel, by decide +kernel⟩
theorem witness_ContextsAndRingsAct_13 : ∃ (p : PartI) (s : State) (r : CtxI) (n : CtxI), (getPart s p).resident = some r ∧ bestOf s p ((withWork s p).filter (· != r)) = some n ∧ unitsRun s = true ∧ (getPart s p).state = .active ∧ (getPart s p).switching = none ∧ (coresOf (getPart s p)).all (fun k => coreIdles s (getSeq s ⟨p, r⟩ k)) = true :=
  ⟨0, { sC2 with parts := [(0, { quads := 1, state := .active, resident := some 0, sliceEnd := 100000 })] }, 0, 1, by decide +kernel, by decide +kernel, by decide +kernel, by decide +kernel, by decide +kernel, by decide +kernel⟩
theorem witness_ContextsAndRingsAct_14 : ∃ (p : PartI) (s : State) (x : Switching) (r : CtxI), (getPart s p).switching = some x ∧ (getPart s p).resident = some r ∧ unitsRun s = true ∧ x.saved = false ∧ (coresOf (getPart s p)).all (fun k => coreStopped (getSeq s ⟨p, r⟩ k)) = true :=
  ⟨0, sSw false (some 1), _, 0, eq_some (by decide +kernel), by decide +kernel, by decide +kernel, by decide +kernel, by decide +kernel⟩
theorem witness_ContextsAndRingsAct_15 : ∃ (p : PartI) (s : State) (x : Switching) (r : CtxI), (getPart s p).switching = some x ∧ unitsRun s = true ∧ x.saved = true ∧ x.savedAt ≤ s.now ∧ x.incoming = some r ∧ (getCtx s ⟨p, r⟩).state = .ready :=
  ⟨0, sSw true (some 1), _, 1, eq_some (by decide +kernel), by decide +kernel, by decide +kernel, by decide +kernel, by decide +kernel, by decide +kernel⟩
theorem witness_ContextsAndRingsAct_16 : ∃ (core : CoreI) (pos : BitVec 32) (listPos : BitVec 32) (s : State) (c : CtxId) (t : Nat) (f : InFlight), coreCtx s core.val = some c ∧ stopAsked s c core.val = some t ∧ (getSeq s c core.val).inflight.find? (fun f => isEntry pos listPos f && f.heldAt.isNone) = some f ∧ unitsRun s = true ∧ fld f.entry.desc 24 2 = 1 ∧ f.capped = false ∧ t + 500000 ≤ s.now :=
  ⟨0, 0, 0, { sSw false (some 1) with now := 500000, seqs := [(0, { inflight := [fly eWh none] })] }, cid0, 0, fly eWh none, by decide +kernel, by decide +kernel, by decide +kernel, by decide +kernel, by decide +kernel, by decide +kernel, by decide +kernel⟩
theorem witness_PartitionsBuildAndDissolve_1 : ∃ (port : RlPort) (p : PartI) (s : State), mayWrite s port (6 + p.val) = true ∧ (getPart s p).state = .absent ∧ activateBad s p (getPart s p) = false :=
  ⟨0, 7, { s7 with parts := [(7, { quads := 1 })] }, by decide +kernel, by decide +kernel, by decide +kernel⟩
theorem witness_PartitionsBuildAndDissolve_2 : ∃ (port : RlPort) (p : PartI) (s : State), mayWrite s port (6 + p.val) = true ∧ (getPart s p).state = .absent ∧ activateBad s p (getPart s p) = true :=
  ⟨0, 7, s7, by decide +kernel, by decide +kernel, by decide +kernel⟩
theorem witness_PartitionsBuildAndDissolve_3 : ∃ (port : RlPort) (p : PartI) (s : State), mayWrite s port (6 + p.val) = true ∧ (getPart s p).state ≠ .absent :=
  ⟨0, 0, s7, by decide +kernel, by decide +kernel⟩
theorem witness_PartitionsBuildAndDissolve_4 : ∃ (p : PartI) (s : State), unitsRun s = true ∧ (getPart s p).state = .activating :=
  ⟨0, { s7 with parts := [(0, { quads := 1, state := .activating })] }, by decide +kernel, by decide +kernel⟩
theorem witness_PartitionsBuildAndDissolve_5 : ∃ (port : RlPort) (p : PartI) (s : State), mayWrite s port (6 + p.val) = true ∧ ((getPart s p).state = .active ∨ (getPart s p).state = .faulted) :=
  ⟨0, 0, s7, by decide +kernel, by decide +kernel⟩
theorem witness_PartitionsBuildAndDissolve_6 : ∃ (port : RlPort) (p : PartI) (s : State), mayWrite s port (6 + p.val) = true ∧ ((getPart s p).state = .active ∨ (getPart s p).state = .faulted) :=
  ⟨0, 0, s7, by decide +kernel, by decide +kernel⟩
theorem witness_PartitionsBuildAndDissolve_7 : ∃ (port : RlPort) (p : PartI) (s : State), mayWrite s port (6 + p.val) = true ∧ ((getPart s p).state = .activating ∨ (getPart s p).state = .absent ∨ (getPart s p).state = .dissolving) :=
  ⟨0, 7, s7, by decide +kernel, by decide +kernel⟩
theorem witness_PartitionsBuildAndDissolve_7b : ∃ (port : RlPort) (p : PartI) (s : State), mayWrite s port (6 + p.val) = true ∧ ((getPart s p).state = .activating ∨ (getPart s p).state = .absent ∨ (getPart s p).state = .dissolving) :=
  ⟨0, 1, { s7 with parts := [(1, { state := .activating })] }, by decide +kernel, by decide +kernel⟩
theorem witness_PartitionsBuildAndDissolve_8 : ∃ (g : GranI) (s : State), unitsRun s = true ∧ (getGran s g.val).zeroing = true :=
  ⟨1135, { s7 with gl := { grans := [(1135, { zeroing := true })] } }, by decide +kernel, by decide +kernel⟩
theorem witness_PartitionsBuildAndDissolve_9 : ∃ (port : RlPort) (value : BitVec 32) (s : State), mayWrite s port 0 = true ∧ s.gl.granSel.toNat < 1136 ∧ value.getLsbD 3 = true ∧ (getGran s s.gl.granSel.toNat).owned = false ∧ (getGran s s.gl.granSel.toNat).zeroing = false ∧ (getGran s s.gl.granSel.toNat).lent = false ∧ (getPart s (Fin.ofNat 8 value.toNat)).state = .absent :=
  ⟨0, 9, { s7 with gl := { s7.gl with granSel := 1135 } }, by decide +kernel, by decide +kernel, by decide +kernel, by decide +kernel, by decide +kernel, by decide +kernel, by decide +kernel⟩
theorem witness_PartitionsBuildAndDissolve_10 : ∃ (port : RlPort) (value : BitVec 32) (s : State), mayWrite s port 0 = true ∧ s.gl.granSel.toNat < 1136 ∧ value.getLsbD 3 = false ∧ (getGran s s.gl.granSel.toNat).owned = false :=
  ⟨0, 0, s7, by decide +kernel, by decide +kernel, by decide +kernel, by decide +kernel⟩
theorem witness_RyutilPortsAct_1 : ∃ (port : RlPort) (s : State), rlUp s port = true ∧ s.sec.stage = 7 :=
  ⟨1, s7, by decide +kernel, by decide +kernel⟩
theorem witness_RyutilPortsAct_2 : ∃ (port : RlPort) (s : State), rlUp s port = true ∧ s.sec.stage ≠ 7 :=
  ⟨0, { s7 with sec := { stage := 6 } }, by decide +kernel, by decide +kernel⟩
theorem witness_RyutilPortsAct_3 : ∃ (port : RlPort) (s : State), rlUp s port = false ∧ s.gl.inReset = false ∧ (getRl s port).retryAt ≤ s.now :=
  ⟨1, { s7 with rl := { ports := [(0, port8)] } }, by decide +kernel, by decide +kernel, by decide +kernel⟩
theorem witness_RyutilPortsAct_4 : ∃ (port : RlPort) (lanes : Fin 9) (s : State), rlUp s port = false ∧ s.gl.inReset = false ∧ (getRl s port).retryAt ≤ s.now ∧ lanes ≠ 0 ∧ (getRing s port).hold = [] ∧ unitsRun s = false :=
  ⟨0, 8, {}, by decide +kernel, by decide +kernel, by decide +kernel, by decide +kernel, by decide +kernel, by decide +kernel⟩
theorem witness_RyutilPortsAct_5 : ∃ (port : RlPort) (lanes : Fin 9) (s : State), rlUp s port = false ∧ s.gl.inReset = false ∧ (getRl s port).retryAt ≤ s.now ∧ lanes ≠ 0 :=
  ⟨1, 8, { s7 with rl := { ports := [] } }, by decide +kernel, by decide +kernel, by decide +kernel, by decide +kernel⟩
theorem witness_RyutilPortsAct_6 : ∃ (port : RlPort) (m : ReqMsg) (gaddr : BitVec 64) (s : State) (c : CtxId), unitsRun s = true ∧ rlUp s port = true ∧ (getRl s port).cpnEn = true ∧ coordBad (gCoord gaddr.toNat) = false ∧ gAligned m.op gaddr.toNat = true ∧ (m.op = .write → m.bmask ≠ 0) ∧ inReach s m.op gaddr.toNat = true ∧ (isBulk m.op = true → m.len ≠ 0 ∧ m.len.toNat % 64 = 0) ∧ tagCtx s (getRl s port).cpnJtag = some c ∧ atRest s = true ∧ gSpace gaddr.toNat = 3 :=
  ⟨1, { req0 with op := .read }, 0x6000000000000000, sRy, _, by decide +kernel, by decide +kernel, by decide +kernel, by decide +kernel, by decide +kernel, (fun h => by cases h), by decide +kernel, (fun h => by cases h), eq_some (by decide +kernel), by decide +kernel, by decide +kernel⟩
theorem witness_RyutilPortsAct_6b : ∃ (port : RlPort) (m : ReqMsg) (gaddr : BitVec 64) (s : State) (c : CtxId), unitsRun s = true ∧ rlUp s port = true ∧ (getRl s port).cpnEn = true ∧ coordBad (gCoord gaddr.toNat) = false ∧ gAligned m.op gaddr.toNat = true ∧ (m.op = .write → m.bmask ≠ 0) ∧ inReach s m.op gaddr.toNat = true ∧ (isBulk m.op = true → m.len ≠ 0 ∧ m.len.toNat % 64 = 0) ∧ tagCtx s (getRl s port).cpnJtag = some c ∧ atRest s = true ∧ gSpace gaddr.toNat = 3 :=
  ⟨1, { req0 with op := .bulkGet, len := 64 }, 0x6000000000000040, sRy, _, by decide +kernel, by decide +kernel, by decide +kernel, by decide +kernel, by decide +kernel, (fun h => by cases h), by decide +kernel, (fun _ => by decide +kernel), eq_some (by decide +kernel), by decide +kernel, by decide +kernel⟩
theorem witness_RyutilPortsAct_7 : ∃ (port : RlPort) (m : ReqMsg) (gaddr : BitVec 64) (s : State) (c : CtxId), unitsRun s = true ∧ rlUp s port = true ∧ (getRl s port).cpnEn = true ∧ coordBad (gCoord gaddr.toNat) = false ∧ gAligned m.op gaddr.toNat = true ∧ (m.op = .write → m.bmask ≠ 0) ∧ inReach s m.op gaddr.toNat = true ∧ (isBulk m.op = true → m.len ≠ 0 ∧ m.len.toNat % 64 = 0) ∧ tagCtx s (getRl s port).cpnJtag = some c ∧ atRest s = true ∧ gSpace gaddr.toNat ≠ 3 :=
  ⟨1, { req0 with op := .read }, 0, sRy, _, by decide +kernel, by decide +kernel, by decide +kernel, by decide +kernel, by decide +kernel, (fun h => by cases h), by decide +kernel, (fun h => by cases h), eq_some (by decide +kernel), by decide +kernel, by decide +kernel⟩
theorem witness_RyutilPortsAct_7b : ∃ (port : RlPort) (m : ReqMsg) (gaddr : BitVec 64) (s : State) (c : CtxId), unitsRun s = true ∧ rlUp s port = true ∧ (getRl s port).cpnEn = true ∧ coordBad (gCoord gaddr.toNat) = false ∧ gAligned m.op gaddr.toNat = true ∧ (m.op = .write → m.bmask ≠ 0) ∧ inReach s m.op gaddr.toNat = true ∧ (isBulk m.op = true → m.len ≠ 0 ∧ m.len.toNat % 64 = 0) ∧ tagCtx s (getRl s port).cpnJtag = some c ∧ atRest s = true ∧ gSpace gaddr.toNat ≠ 3 :=
  ⟨0, { req0 with op := .write, bmask := 1, data := List.replicate 128 0 }, 128, sRy, _, by decide +kernel, by decide +kernel, by decide +kernel, by decide +kernel, by decide +kernel, (fun _ => by decide +kernel), by decide +kernel, (fun h => by cases h), eq_some (by decide +kernel), by decide +kernel, by decide +kernel⟩
theorem witness_RyutilPortsAct_8 : ∃ (port : RlPort) (m : ReqMsg) (gaddr : BitVec 64) (s : State), unitsRun s = true ∧ rlUp s port = true ∧ (getRl s port).cpnEn = true ∧ coordBad (gCoord gaddr.toNat) = true :=
  ⟨1, { req0 with op := .read }, 0x0000500000000000, sRy, by decide +kernel, by decide +kernel, by decide +kernel, by decide +kernel⟩
theorem witness_RyutilPortsAct_9 : ∃ (port : RlPort) (m : ReqMsg) (gaddr : BitVec 64) (s : State), unitsRun s = true ∧ rlUp s port = true ∧ (getRl s port).cpnEn = false :=
  ⟨1, req0, 0, s7, by decide +kernel, by decide +kernel, by decide +kernel⟩
theorem witness_EnginesWriteTheirResults_1 : ∃ (e : Entry) (s : State) (u : State) (core : Nat) (rs : List Range) (x : Mm) (r : RunResult), x = mmOf false e.desc ∧ issues s e (mmRow e 0x0100 false) core rs = true ∧ u = issued s e (mmRow e 0x0100 false) core rs ∧ x.m ≠ 0 ∧ x.n ≠ 0 ∧ r = runTiles u core e.cid x (mmPair u core x) (mmTiles x) ∧ r.fault = none :=
  ⟨eMm, sq eMm, _, 0, rsOf (mmRow eMm 0x0100 false) (sq eMm), _, _, rfl, by decide +kernel, rfl, by decide +kernel, by decide +kernel, rfl, by decide +kernel⟩
theorem witness_EnginesWriteTheirResults_2 : ∃ (e : Entry) (s : State) (u : State) (core : Nat) (rs : List Range) (x : Mm) (r : RunResult), x = mmOf true e.desc ∧ issues s e (mmRow e 0x0101 true) core rs = true ∧ u = issued s e (mmRow e 0x0101 true) core rs ∧ x.m ≠ 0 ∧ x.n ≠ 0 ∧ r = runTiles u core e.cid x (mmPair u core x) (mmTiles x) ∧ r.fault = none :=
  ⟨eMs, sMs, _, 0, rsOf (mmRow eMs 0x0101 true) sMs, _, _, rfl, by decide +kernel, rfl, by decide +kernel, by decide +kernel, rfl, by decide +kernel⟩
theorem witness_EnginesWriteTheirResults_3 : ∃ (e : Entry) (s : State) (u : State) (core : Nat) (rs : List Range) (x : Vc) (r : RunResult), x = vcOf e.desc ∧ issues s e (vchainRow e) core rs = true ∧ u = issued s e (vchainRow e) core rs ∧ x.rows ≠ 0 ∧ x.cols ≠ 0 ∧ r = runRows u e.cid core x (upto x.rows) ∧ r.fault = none :=
  ⟨eVc, sq eVc, _, 0, rsOf (vchainRow eVc) (sq eVc), _, _, rfl, by decide +kernel, rfl, by decide +kernel, by decide +kernel, rfl, by decide +kernel⟩
theorem witness_EnginesWriteTheirResults_4 : ∃ (e : Entry) (s : State) (u : State) (core : Nat) (rs : List Range) (x : At), x = atOf e.desc ∧ issues s e (attnRow e) core rs = true ∧ u = issued s e (attnRow e) core rs :=
  ⟨eAt, sq eAt, _, 0, rsOf (attnRow eAt) (sq eAt), _, rfl, by decide +kernel, rfl⟩
theorem witness_EnginesWriteTheirResults_5 : ∃ (e : Entry) (s : State) (u : State) (core : Nat) (rs : List Range) (x : Sp), x = spOf e.desc ∧ issues s e (scaleRow e) core rs = true ∧ u = issued s e (scaleRow e) core rs ∧ x.accum = false :=
  ⟨eSp, sq eSp, _, 0, rsOf (scaleRow eSp) (sq eSp), _, rfl, by decide +kernel, rfl, by decide +kernel⟩
theorem witness_EnginesWriteTheirResults_6 : ∃ (e : Entry) (s : State) (u : State) (core : Nat) (rs : List Range) (x : Sp), x = spOf e.desc ∧ issues s e (scaleRow e) core rs = true ∧ u = issued s e (scaleRow e) core rs ∧ x.accum = true ∧ (scaleOf (readLs u core x.reca 16)).tfmt = x.tf :=
  ⟨eSa, sSa, _, 0, rsOf (scaleRow eSa) sSa, _, rfl, by decide +kernel, rfl, by decide +kernel, by decide +kernel⟩
theorem witness_EnginesWriteTheirResults_7 : ∃ (e : Entry) (s : State) (u : State) (core : Nat) (rs : List Range) (x : Pr), x = prOf e.desc ∧ issues s e (pruneOpRow e) core rs = true ∧ u = issued s e (pruneOpRow e) core rs :=
  ⟨ePr, sq ePr, _, 0, rsOf (pruneOpRow ePr) (sq ePr), _, rfl, by decide +kernel, rfl⟩
theorem witness_CopiesMoveTheirRows_1 : ∃ (e : Entry) (s : State) (u : State) (core : Nat) (rs : List Range) (x : Dm) (rows : List Bytes), x = dmOf e.desc ∧ issues s e (dmaRow e) core rs = true ∧ u = issued s e (dmaRow e) core rs ∧ x.rows ≠ 0 ∧ x.dstLocal = true ∧ dmaRead u e.cid.part core x = .ok rows :=
  ⟨eDl, sq eDl, _, 0, rsOf (dmaRow eDl) (sq eDl), _, _, rfl, by decide +kernel, rfl, by decide +kernel, by decide +kernel, eq_ok (by decide +kernel)⟩
theorem witness_CopiesMoveTheirRows_2 : ∃ (e : Entry) (s : State) (u : State) (v : State) (core : Nat) (rs : List Range) (x : Dm) (rows : List Bytes), x = dmOf e.desc ∧ issues s e (dmaRow e) core rs = true ∧ u = issued s e (dmaRow e) core rs ∧ x.rows ≠ 0 ∧ x.dstLocal = false ∧ dmaRead u e.cid.part core x = .ok rows ∧ writeUniAll u e.cid.part ((rowAddrs x.dst x.outRows (64 * x.dld)).zip (dmaOut x rows)) = .ok v :=
  ⟨eDu, sq eDu, _, _, 0, rsOf (dmaRow eDu) (sq eDu), _, _, rfl, by decide +kernel, rfl, by decide +kernel, by decide +kernel, eq_ok (by decide +kernel), eq_ok (by decide +kernel)⟩
theorem witness_CopiesMoveTheirRows_3 : ∃ (e : Entry) (s : State) (u : State) (core : Nat) (rs : List Range) (x : Ga) (l : List (Nat × Nat × Bool)) (ws : List (Nat × Bytes)), x = gaOf e.desc ∧ issues s e (gaRow e 0x0201 true (runGather e)) core rs = true ∧ u = issued s e (gaRow e 0x0201 true (runGather e)) core rs ∧ gaEmpty u core x = false ∧ gaRows u e.cid.part core x = .ok l ∧ gatherWrites u e.cid.part x.rowb l = .ok ws :=
  ⟨eGa 0x201, sGa 0x201, _, 0, rsOf (gaRow (eGa 0x201) 0x0201 true (runGather (eGa 0x201))) (sGa 0x201), _, _, _, rfl, by decide +kernel, rfl, by decide +kernel, eq_ok (by decide +kernel), eq_ok (by decide +kernel)⟩
theorem witness_CopiesMoveTheirRows_4 : ∃ (e : Entry) (s : State) (u : State) (v : State) (core : Nat) (rs : List Range) (x : Ga) (l : List (Nat × Nat × Bool)), x = gaOf e.desc ∧ issues s e (gaRow e 0x0202 false (runScatter e)) core rs = true ∧ u = issued s e (gaRow e 0x0202 false (runScatter e)) core rs ∧ gaEmpty u core x = false ∧ gaRows u e.cid.part core x = .ok l ∧ writeUniAll u e.cid.part ((l.filter (fun r => r.2.2)).map (fun r => (r.1, readLs u core r.2.1 x.rowb))) = .ok v :=
  ⟨eGa 0x202, sGa 0x202, _, _, 0, rsOf (gaRow (eGa 0x202) 0x0202 false (runScatter (eGa 0x202))) (sGa 0x202), _, _, rfl, by decide +kernel, rfl, by decide +kernel, eq_ok (by decide +kernel), eq_ok (by decide +kernel)⟩
theorem witness_MigrationsChangeThePageTable_1 : ∃ (e : Entry) (s : State) (u : State) (v : State) (w : State) (core : Nat) (rs : List Range) (x : Mg) (plan : List (Nat × Frame)) (spilled : Nat), x = mgOf e.desc ∧ issues s e (migRow e 0 .now (runMigPlace e)) core rs = true ∧ u = issued s e (migRow e 0 .now (runMigPlace e)) core rs ∧ placePlan u e.cid.part x = some plan ∧ spilled = (plan.filter (fun q => x.hint != 0 && (tierOrder x.hint).head? != some q.2.1)).length ∧ w = countSpill (hintPages (plan.foldl (fun t q => backPage t q.1 q.2) u) (plan.map (·.1)) x.hint x.pin) spilled ∧ writeUniAll w e.cid.part ((if x.zero then plan.map (fun q => (pageAddr q.1, zeroPage)) else []) ++ migRecord x plan.length spilled) = .ok v :=
  ⟨eMg 0 [(67, 2 * pageSize)], sMg (eMg 0 [(67, 2 * pageSize)]), _, _, _, 0, [], _, _, _, rfl, by decide +kernel, rfl, eq_some (by decide +kernel), rfl, rfl, eq_ok (by decide +kernel)⟩
theorem witness_MigrationsChangeThePageTable_2 : ∃ (e : Entry) (s : State) (u : State) (core : Nat) (rs : List Range) (x : Mg) (q : Nat × Frame) (plan : List (Nat × Frame)), x = mgOf e.desc ∧ issues s e (migRow e 1 .now (runCopies e)) core rs = true ∧ u = issued s e (migRow e 1 .now (runCopies e)) core rs ∧ x.mode = 1 ∧ movePlan u e.cid.part x = some (q :: plan) :=
  ⟨eMg 1 [(175, 1)], sMg (eMg 1 [(175, 1)]), _, 0, [], _, (0, 1, 0, 0), [], rfl, by decide +kernel, rfl, by decide +kernel, by decide +kernel⟩
theorem witness_MigrationsChangeThePageTable_3 : ∃ (e : Entry) (s : State) (u : State) (core : Nat) (rs : List Range) (x : Mg) (q : Nat × Frame) (plan : List (Nat × Frame)), x = mgOf e.desc ∧ issues s e (migRow e 2 .now (runCopies e)) core rs = true ∧ u = issued s e (migRow e 2 .now (runCopies e)) core rs ∧ x.mode = 2 ∧ swapPlan u e.cid.part x = some (q :: plan) :=
  ⟨eMg 2 [(111, pageSize)], sMg (eMg 2 [(111, pageSize)]), _, 0, [], _, (0, 0, 0, 2), [(1, 0, 0, 0), (0, 0, 0, 1)], rfl, by decide +kernel, rfl, by decide +kernel, by decide +kernel⟩
theorem witness_MigrationsChangeThePageTable_4 : ∃ (e : Entry) (s : State) (u : State) (v : State) (core : Nat) (rs : List Range) (x : Mg), x = mgOf e.desc ∧ issues s e (migRow e 3 .ctx (runRelease e)) core rs = true ∧ u = issued s e (migRow e 3 .ctx (runRelease e)) core rs ∧ writeUniAll (x.pages.foldl (fun t i => setPte t i { getPte t i with backed := false }) u) e.cid.part (migRecord x x.n 0) = .ok v :=
  ⟨eMg 3 [], sMg (eMg 3 []), _, _, 0, [], _, rfl, by decide +kernel, rfl, eq_ok (by decide +kernel)⟩
theorem witness_MigrationsChangeThePageTable_5 : ∃ (e : Entry) (s : State) (u : State) (v : State) (core : Nat) (rs : List Range) (x : Mg), x = mgOf e.desc ∧ issues s e (migRow e 4 .now (runSethint e)) core rs = true ∧ u = issued s e (migRow e 4 .now (runSethint e)) core rs ∧ writeUniAll (hintPages u x.pages x.hint x.pin) e.cid.part (migRecord x x.n 0) = .ok v :=
  ⟨eMg 4 [], sMg (eMg 4 []), _, _, 0, [], _, rfl, by decide +kernel, rfl, eq_ok (by decide +kernel)⟩
theorem witness_MigrationsChangeThePageTable_6 : ∃ (page : Fin 712704) (s : State) (u : State) (m : Mig) (v : PageMove) (w : PageMove) (rest : List PageMove), unitsRun s = true ∧ s.mem.migs.find? (fun m => m.moves.head?.any (fun v => v.page == page.val)) = some m ∧ m.moves = v :: w :: rest ∧ (getPte s v.page).backed = true ∧ (v.tier = 3 → (getBorrow s v.lease.val).state ≠ .idle) ∧ copyFrame s (frameAddr (getPte s v.page).tier.val (getPte s v.page).lease.val (getPte s v.page).frame.toNat) (frameAddr v.tier.val v.lease.val v.frame.toNat) = .ok u ∧ w.page ≠ v.page :=
  ⟨0, { sMg (ent 0) with mem := { (sMg (ent 0)).mem with migs := [mig0] } }, _, mig0, { page := 0, tier := 0, lease := 0, frame := 2 }, { page := 1, tier := 0, lease := 0, frame := 0 }, [], by decide +kernel, by decide +kernel, by decide +kernel, by decide +kernel, (fun h => absurd h (by decide)), eq_ok (by decide +kernel), by decide +kernel⟩
theorem witness_MigrationsChangeThePageTable_7 : ∃ (page : Fin 712704) (s : State) (u : State) (z : State) (m : Mig) (v : PageMove) (x : Pte), unitsRun s = true ∧ s.mem.migs.find? (fun m => m.moves.head?.any (fun v => v.page == page.val)) = some m ∧ m.moves = [v] ∧ x = getPte s v.page ∧ x.backed = true ∧ (v.tier = 3 → (getBorrow s v.lease.val).state ≠ .idle) ∧ copyFrame s (frameAddr x.tier.val x.lease.val x.frame.toNat) (frameAddr v.tier.val v.lease.val v.frame.toNat) = .ok u ∧ writeUniAll (putMig (setPte u v.page { x with tier := v.tier, lease := v.lease, frame := v.frame, moving := false }) { m with moves := [] }) m.entry.cid.part (migRecord (mgOf m.entry.desc) m.changed 0) = .ok z :=
  ⟨0, { sMg (ent 0) with mem := { (sMg (ent 0)).mem with migs := [{ mig0 with moves := [{ page := 0, tier := 0, lease := 0, frame := 2 }] }] } }, _, _, { mig0 with moves := [{ page := 0, tier := 0, lease := 0, frame := 2 }] }, { page := 0, tier := 0, lease := 0, frame := 2 }, _, by decide +kernel, by decide +kernel, by decide +kernel, rfl, by decide +kernel, (fun h => absurd h (by decide)), eq_ok (by decide +kernel), eq_ok (by decide +kernel)⟩
theorem witness_MigrationsChangeThePageTable_8 : ∃ (p : PartI) (s : State) (u : State) (v : State), unitsRun s = true ∧ (getPart s p).state = .activating ∧ u = ((ownedGrans s p).flatMap granPages).foldl (fun t i => setPte t i (homePte p i)) ((coresOf (getPart s p)).foldl zeroLs s) ∧ v = (savePages (getPart s p)).foldl (fun t i => setPte t i { getPte t i with reserved := true }) u :=
  ⟨7, { s7 with parts := [(7, { quads := 1, state := .activating })] }, _, _, by decide +kernel, by decide +kernel, rfl, rfl⟩
theorem witness_MigrationsChangeThePageTable_9 : ∃ (g : GranI) (s : State) (u : State), unitsRun s = true ∧ (getGran s g.val).zeroing = true ∧ u = clearPoison { s with uni := Memory.zero s.uni (granAddr g.val) (2 ^ 30) } (granAddr g.val) (2 ^ 30) :=
  ⟨1135, { s7 with gl := { s7.gl with grans := [(1135, { zeroing := true })] } }, _, by decide +kernel, by decide +kernel, rfl⟩
theorem witness_SnapshotsAndMarksAct_1 : ∃ (e : Entry) (s : State) (u : State) (core : Nat) (rs : List Range), issues s e (snapRow e 0 .now (runPrestream e)) core rs = true ∧ u = issued s e (snapRow e 0 .now (runPrestream e)) core rs ∧ (getRes s e.cid.part).state ≠ .prot ∧ snapRes e.desc = 0 :=
  ⟨eSn 0 [], sq (eSn 0 []), _, 0, [], by decide +kernel, rfl, by decide +kernel, by decide +kernel⟩
theorem witness_SnapshotsAndMarksAct_2 : ∃ (e : Entry) (s : State) (u : State) (core : Nat) (rs : List Range) (r : ResPart) (named : DirtyPiece → Bool), issues s e (snapRow e 0 .now (runPrestream e)) core rs = true ∧ u = issued s e (snapRow e 0 .now (runPrestream e)) core rs ∧ r = getRes u e.cid.part ∧ r.state = .prot ∧ snapRes e.desc = 0 ∧ named = (fun d => d.dirty && (snapPages e.desc).contains (d.piece / 32)) :=
  ⟨eSn 0 [], { sq (eSn 0 []) with res := { parts := [(0, rp0)] } }, _, 0, [], _, _, by decide +kernel, rfl, rfl, by decide +kernel, by decide +kernel, rfl⟩
theorem witness_SnapshotsAndMarksAct_3 : ∃ (e : Entry) (s : State) (u : State) (v : State) (core : Nat) (rs : List Range), issues s e (snapRow e 1 .ctx (runSnapCopy e)) core rs = true ∧ u = issued s e (snapRow e 1 .ctx (runSnapCopy e)) core rs ∧ snapRes e.desc = 0 ∧ ((snapPages e.desc).zipIdx).foldl (fun t q => match t with | .error c => .error c | .ok w => copyPage w e.cid.part (snapDst e.desc) q) (.ok u : Except (BitVec 16) State) = .ok v :=
  ⟨eSn 1 [(106, 2 * 2 ^ 61)], sq (eSn 1 [(106, 2 * 2 ^ 61)]), _, _, 0, [], by decide +kernel, rfl, by decide +kernel, eq_ok (by decide +kernel)⟩
theorem witness_SnapshotsAndMarksAct_4 : ∃ (e : Entry) (s : State) (core : Nat) (rs : List Range), issues s e (markRow e) core rs = true :=
  ⟨eMk, sq eMk, 0, [], by decide +kernel⟩
theorem witness_SnapshotsAndMarksAct_5 : ∃ (cid : CtxId) (s : State) (v : State) (core : Nat) (f : InFlight), unitsRun s = true ∧ atRest s = true ∧ findMark s cid = some (core, f) ∧ (getCtx s cid).markRun = none ∧ dueNow s core f.entry ((getSeq s cid core).inflight.takeWhile (fun g => g.entry != f.entry)) .ctx = true ∧ fabQuiet s cid = true ∧ f.entry.cid = cid ∧ (if markRec f.entry.desc = 0 then .ok s else writeUni s cid.part (markRec f.entry.desc) (markRecord s f.entry)) = .ok v ∧ (getRes v cid.part).state = .prot :=
  ⟨cid0, sMk, sMk, 0, fly eMk none, by decide +kernel, by decide +kernel, by decide +kernel, by decide +kernel, by decide +kernel, by decide +kernel, by decide +kernel, by decide +kernel, by decide +kernel⟩
theorem witness_SnapshotsAndMarksAct_6 : ∃ (cid : CtxId) (s : State) (m : MarkRun), unitsRun s = true ∧ atRest s = true ∧ (getCtx s cid).markRun = some m :=
  ⟨cid0, sMr, mr0, by decide +kernel, by decide +kernel, by decide +kernel⟩
theorem witness_SnapshotsAndMarksAct_7 : ∃ (cid : CtxId) (s : State) (m : MarkRun) (k : Coll), unitsRun s = true ∧ protects s cid.part = false ∧ (getCtx s cid).markRun = some m ∧ s.colls.find? (fun k => k.cid == cid && decide (k.kind = .mark) && !k.done) = some k ∧ (k.resAt 0).isSome = true :=
  ⟨cid0, { sMr with colls := [kMk] }, mr0, kMk, by decide +kernel, by decide +kernel, by decide +kernel, by decide +kernel, by decide +kernel⟩
theorem witness_SnapshotsAndMarksAct_8 : ∃ (cid : CtxId) (s : State), unitsRun s = true ∧ protects s cid.part = true ∧ s.res.plan.left = none :=
  ⟨cid0, { s7m with res := { role := 1, parts := [(0, { state := .prot })] } }, by decide +kernel, by decide +kernel, by decide +kernel⟩
theorem witness_SnapshotsAndMarksAct_9 : ∃ (cid : CtxId) (s : State), unitsRun s = true ∧ (getCtx s cid).state = .ready ∧ (getRes s cid.part).state = .prot ∧ (getCtx s cid).epochLate = false ∧ (getCtx s cid).markAt + 200000000 ≤ residentClock s cid :=
  ⟨cid0, { s7m with now := 200000000, res := { parts := [(0, { state := .prot })] } }, by decide +kernel, by decide +kernel, by decide +kernel, by decide +kernel, by decide +kernel⟩
theorem witness_SnapshotsAndMarksAct_10 : ∃ (port : RlPort) (p : PartI) (value : BitVec 64) (cert : Bytes) (bs : Bytes) (s : State) (l : List ProtEntry), mayWrite s port (6 + p.val) = true ∧ value.getLsbD 0 = true ∧ (getRes s p).en = false ∧ (getRes s p).state = .off ∧ (s.res.mode = 1 ∨ s.res.mode = 2) ∧ (getPart s p).state = .active ∧ s.res.role = 0 ∧ readUni s p (value.extractLsb' 4 44).toNat 512 = .ok bs ∧ bs.length = 512 ∧ (value.extractLsb' 4 44).toNat % 64 = 0 ∧ l = protTable bs ∧ protTableOk s p (protWords bs) l = true ∧ poolOk s p { getRes s p with en := true, ptab := value.extractLsb' 4 44 } l = true :=
  ⟨0, 0, 1, [], _, sRe { mode := 1 }, _, by decide +kernel, by decide +kernel, by decide +kernel, by decide +kernel, by decide +kernel, by decide +kernel, by decide +kernel, eq_ok (by decide +kernel), by decide +kernel, by decide +kernel, rfl, by decide +kernel, by decide +kernel⟩
theorem witness_SnapshotsAndMarksAct_11 : ∃ (p : PartI) (s : State), unitsRun s = true ∧ (getRes s p).state = .seeding ∧ (getRes s p).seeded = false :=
  ⟨0, sRe { parts := [(0, { state := .seeding })] }, by decide +kernel, by decide +kernel, by decide +kernel⟩
theorem witness_SnapshotsAndMarksAct_11b : ∃ (p : PartI) (s : State), unitsRun s = true ∧ (getRes s p).state = .seeding ∧ (getRes s p).seeded = false :=
  ⟨0, sSd, by decide +kernel, by decide +kernel, by decide +kernel⟩
theorem witness_SnapshotsAndMarksAct_12 : ∃ (src : Coord) (p : PartI) (piece : BitVec 32) (whole : Bool) (delta : Bytes) (s : State) (l : List (Nat × Nat)) (x : Nat), unitsRun s = true ∧ protects s p = true ∧ delta.length = parityPiece ∧ (getRes s p).state = .seeding ∧ places s p (pieceAddr piece.toNat) (xorBytes (pieceBytes s p piece.toNat) delta).length = .ok l ∧ Apart l x :=
  ⟨1, 0, 127, true, List.replicate parityPiece 0, sSd, [(8323072, parityPiece)], 8323071, by decide +kernel, by decide +kernel, List.length_replicate, by decide +kernel, places_xor_127 _, apart_127⟩
theorem witness_SnapshotsAndMarksAct_13 : ∃ (src : Coord) (p : PartI) (addr : BitVec 64) (data : Bytes) (s : State), unitsRun s = true ∧ protects s p = true :=
  ⟨1, 0, 64, [7], sRe { role := 1, parts := [(0, { state := .prot })] }, by decide +kernel, by decide +kernel⟩
theorem witness_SnapshotsAndMarksAct_14 : ∃ (s : State), linksRun s = true ∧ s.res.role ≠ 0 :=
  ⟨sRe { role := 1 }, by decide +kernel, by decide +kernel⟩
theorem witness_SnapshotsAndMarksAct_15 : ∃ (who : Coord) (reserve : Option Coord) (s : State) (u : State), unitsRun s = true ∧ who ≠ s.sec.coord ∧ s.res.role = 0 ∧ s.res.mode = 0 ∧ inTray s who = true ∧ u = lenderFailed { s with res := { s.res with heard := s.res.heard &&& ~~~(BitVec.ofNat 5 (2 ^ cSlot who)) } } who :=
  ⟨1, none, sRe {}, _, by decide +kernel, by decide +kernel, by decide +kernel, by decide +kernel, by decide +kernel, rfl⟩
theorem witness_SnapshotsAndMarksAct_16 : ∃ (failed : Coord) (inc : BitVec 8) (holder : Coord) (s : State) (u : State), linksRun s = true ∧ failed ≠ s.sec.coord ∧ holder.toNat = failed.toNat / 8 * 8 + 4 ∧ u = ((upto 36).filter (fun p => (wiredPeer s.sec.coord p).any (fun q => q.1 == failed.toNat))).foldl (fun t p => setFp t p { getFp t p with en := false, state := .disabled }) s ∧ incNewer inc (Tbl.get 0 u.fab.inc failed.toNat) = false :=
  ⟨1, 0, 4, s7m, _, by decide +kernel, by decide +kernel, by decide +kernel, rfl, by decide +kernel⟩
theorem witness_SnapshotsAndMarksAct_17 : ∃ (survivors : Bytes) (pieces : List Nat) (s : State), s.res.role = 0 ∧ unitsRun s = true :=
  ⟨List.replicate parityPiece 0, [0], sRe { unrebuilt := [0] }, by decide +kernel, by decide +kernel⟩
theorem witness_GateSessionsScoreAndFinalise_1 : ∃ (e : Entry) (s : State) (u : State) (core : Nat) (rs : List Range) (x : Gt) (g : GateSess), x = gtOf e.desc ∧ issues s e (gateRow e) core rs = true ∧ u = issued s e (gateRow e) core rs ∧ getSess (getDie u (dieOf core)) e.cid x.sess = none ∧ (getDie u (dieOf core)).waiting = [] ∧ x.params.m ≤ statesFree (getDie u (dieOf core)) ∧ g = gateMerge u core x { params := x.params, covered := [], toks := List.replicate x.params.m [] } ∧ gateComplete g = false :=
  ⟨eGt 257 256, sq (eGt 257 256), _, 0, rsOf (gateRow (eGt 257 256)) (sq (eGt 257 256)), _, _, rfl, by decide +kernel, rfl, by decide +kernel, by decide +kernel, by decide +kernel, rfl, by decide +kernel⟩
theorem witness_GateSessionsScoreAndFinalise_2 : ∃ (e : Entry) (s : State) (u : State) (core : Nat) (rs : List Range) (x : Gt) (g0 : GateSess) (g : GateSess), x = gtOf e.desc ∧ issues s e (gateRow e) core rs = true ∧ u = issued s e (gateRow e) core rs ∧ getSess (getDie u (dieOf core)) e.cid x.sess = some g0 ∧ g = gateMerge u core x g0 ∧ gateComplete g = true :=
  ⟨eGt 1 0, sGs, _, 0, rsOf (gateRow (eGt 1 0)) sGs, _, gs0, _, rfl, by decide +kernel, rfl, by decide +kernel, rfl, by decide +kernel⟩
theorem witness_GateSessionsScoreAndFinalise_3 : ∃ (e : Entry) (s : State) (u : State) (core : Nat) (rs : List Range) (x : Gt), x = gtOf e.desc ∧ issues s e (gateRow e) core rs = true ∧ u = issued s e (gateRow e) core rs ∧ getSess (getDie u (dieOf core)) e.cid x.sess = none ∧ statesFree (getDie u (dieOf core)) < x.params.m :=
  ⟨eGt 1 0, sGf, _, 0, rsOf (gateRow (eGt 1 0)) sGf, _, rfl, by decide +kernel, rfl, by decide +kernel, by decide +kernel⟩
theorem witness_GateSessionsScoreAndFinalise_4 : ∃ (die : CDie) (s : State) (w : GateWait) (rest : List GateWait), unitsRun s = true ∧ (getDie s die).waiting = w :: rest ∧ openingFits (getDie s die) w = true :=
  ⟨0, sGw, gw0, [], by decide +kernel, by decide +kernel, by decide +kernel⟩
theorem witness_GateSessionsScoreAndFinalise_5 : ∃ (die : CDie) (cid : CtxId) (sess : Fin 16) (s : State) (w : GateWait), unitsRun s = true ∧ isResident s cid = true ∧ (getDie s die).waiting.find? (fun w => w.entry.cid == cid && fld w.entry.desc 292 4 == sess.val) = some w ∧ w.since + hangNs s cid ≤ residentClock s cid :=
  ⟨0, cid0, 0, { sGw with now := 10 ^ 12 }, gw0, by decide +kernel, by decide +kernel, by decide +kernel, by decide +kernel⟩
theorem witness_RoutingTablesAreWritten_1 : ∃ (e : Entry) (s : State) (u : State) (v : State) (core : Nat) (rs : List Range) (x : Ds) (ms : List MapEnt) (toks : List (List Nat)), x = dsOf e.desc ∧ issues s e (dsRow e 0 runCount) core rs = true ∧ u = issued s e (dsRow e 0 runCount) core rs ∧ dsInputs u e.cid.part x = .ok (ms, toks) ∧ writeUniAll (setDsLast u x) e.cid.part [(x.cnt, (upto x.nexp).flatMap (fun k => leBytes 4 (countOf toks k)))] = .ok v :=
  ⟨eDs 0, sDs 0, _, _, 0, [], _, [{ home := 0, idx := 0 }], [[0]], rfl, by decide +kernel, rfl, by decide +kernel, eq_ok (by decide +kernel)⟩
theorem witness_RoutingTablesAreWritten_2 : ∃ (e : Entry) (s : State) (u : State) (v : State) (core : Nat) (rs : List Range) (x : Ds) (ms : List MapEnt) (toks : List (List Nat)) (cb : Bytes) (db : Bytes) (dec : List Nat), x = dsOf e.desc ∧ issues s e (dsRow e 1 runPack) core rs = true ∧ u = issued s e (dsRow e 1 runPack) core rs ∧ dsInputs u e.cid.part x = .ok (ms, toks) ∧ readUni u e.cid.part x.cnt (4 * x.nexp) = .ok cb ∧ readUni u e.cid.part x.dec x.nexp = .ok db ∧ dec = db.map (·.toNat) ∧ packBad x ms toks (wordsOf 4 cb) dec = none ∧ writeUniAll u e.cid.part [(x.sl0, sendList x ms dec (((toks.zipIdx).map (fun r => (r.2, r.1))).take x.split)), (x.sl1, sendList x ms dec (((toks.zipIdx).map (fun r => (r.2, r.1))).drop x.split)), (x.wcl, weightsList x dec toks)] = .ok v :=
  ⟨eDs 1, sDs 1, _, _, 0, [], _, [{ home := 0, idx := 0 }], [[0]], _, _, _, rfl, by decide +kernel, rfl, by decide +kernel, eq_ok (by decide +kernel), eq_ok (by decide +kernel), rfl, by decide +kernel, eq_ok (by decide +kernel)⟩
theorem witness_RoutingTablesAreWritten_3 : ∃ (e : Entry) (s : State) (u : State) (v : State) (core : Nat) (rs : List Range) (x : Pl) (sb : Bytes) (cb : Bytes) (mb : Bytes) (ds : List Nat) (prev : List Nat) (d : Nat) (wc : Nat) (band : Nat) (quiet : Nat), x = plOf e.desc ∧ issues s e (placeRow e true) core rs = true ∧ u = issued s e (placeRow e true) core rs ∧ readUni u e.cid.part x.st (64 + x.nexp) = .ok sb ∧ readUni u e.cid.part x.cnt (4 * x.nexp) = .ok cb ∧ readUni u e.cid.part x.map (4 * x.nexp) = .ok mb ∧ x.force ≠ 0 ∧ band = bitsOf (leNat (sb.take 64)) 0 8 ∧ quiet = bitsOf (leNat (sb.take 64)) 8 4 ∧ prev = (sb.drop 64).map (·.toNat) ∧ placeStateOk (leNat (sb.take 64)) prev = true ∧ ds = (upto x.nexp).map (fun k => placeDec x band (nth 0 ((wordsOf 4 mb).map (fun v => bitsOf v 0 16)) k) (nth 0 (wordsOf 4 cb) k) (nth 0 prev k)) ∧ d = (ds.filter decided).length ∧ wc = (ds.filter (· == 2)).length ∧ writeUniAll (setPlaceRegs u band quiet 0 d wc) e.cid.part [(x.dec, ds.map (BitVec.ofNat 8))] = .ok v :=
  ⟨ePl 1, sPl 1, _, _, 0, [], _, _, _, _, _, _, _, _, _, _, rfl, by decide +kernel, rfl, eq_ok (by decide +kernel), eq_ok (by decide +kernel), eq_ok (by decide +kernel), by decide +kernel, rfl, rfl, rfl, by decide +kernel, rfl, rfl, rfl, eq_ok (by decide +kernel)⟩
theorem witness_RoutingTablesAreWritten_4 : ∃ (e : Entry) (s : State) (u : State) (v : State) (core : Nat) (rs : List Range) (x : Pl) (sb : Bytes) (cb : Bytes) (mb : Bytes) (ds : List Nat) (prev : List Nat) (h : Nat) (d : Nat) (wc : Nat) (f : Nat) (band : Nat) (quiet : Nat), x = plOf e.desc ∧ issues s e (placeRow e true) core rs = true ∧ u = issued s e (placeRow e true) core rs ∧ readUni u e.cid.part x.st (64 + x.nexp) = .ok sb ∧ readUni u e.cid.part x.cnt (4 * x.nexp) = .ok cb ∧ readUni u e.cid.part x.map (4 * x.nexp) = .ok mb ∧ x.force = 0 ∧ h = leNat (sb.take 64) ∧ prev = (sb.drop 64).map (·.toNat) ∧ placeStateOk h prev = true ∧ band = (if bitsOf h 0 8 = 0 then 32 else bitsOf h 0 8) ∧ quiet = (if bitsOf h 0 8 = 0 then 0 else bitsOf h 8 4) ∧ ds = (upto x.nexp).map (fun k => placeDec x band (nth 0 ((wordsOf 4 mb).map (fun v => bitsOf v 0 16)) k) (nth 0 (wordsOf 4 cb) k) (nth 0 prev k)) ∧ d = (ds.filter decided).length ∧ wc = (ds.filter (· == 2)).length ∧ f = ((ds.zip prev).filter (fun q => decided q.1 && q.2 != 0 && q.1 != q.2)).length ∧ writeUniAll (setPlaceRegs u (placeBand band quiet f d).1 (placeBand band quiet f d).2 f d wc) e.cid.part [(x.dec, ds.map (BitVec.ofNat 8)), (x.st, leBytes 64 (pack [(0, (placeBand band quiet f d).1), (8, (placeBand band quiet f d).2), (16, f), (32, d), (48, (bitsOf h 48 32 + 1) % 2 ^ 32)]) ++ (ds.zip prev).map (fun q => BitVec.ofNat 8 (if decided q.1 then q.1 else q.2)))] = .ok v :=
  ⟨ePl 0, sPl 0, _, _, 0, [], _, _, _, _, _, _, _, _, _, _, _, _, rfl, by decide +kernel, rfl, eq_ok (by decide +kernel), eq_ok (by decide +kernel), eq_ok (by decide +kernel), by decide +kernel, rfl, rfl, by decide +kernel, rfl, rfl, rfl, rfl, rfl, rfl, eq_ok (by decide +kernel)⟩
theorem witness_RoutingTablesAreWritten_5 : ∃ (e : Entry) (s : State) (u : State) (core : Nat) (rs : List Range) (x : Ep), x = epOf e.desc ∧ issues s e (planRow e) core rs = true ∧ u = issued s e (planRow e) core rs ∧ planWaits u e.cid x.rxc = true :=
  ⟨eEp, { sEp with xcmds := [xcd] }, _, 0, [], _, rfl, by decide +kernel, rfl, by decide +kernel⟩
theorem witness_RoutingTablesAreWritten_6 : ∃ (e : Entry) (s : State) (u : State) (v : State) (core : Nat) (n : Nat) (rs : List Range) (x : Ep) (items : List PlanItem) (tpl : Template) (etpl : Template) (d : Deal) (lists : Bytes), x = epOf e.desc ∧ issues s e (planRow e) core rs = true ∧ u = issued s e (planRow e) core rs ∧ planWaits u e.cid x.rxc = false ∧ planItems u e.cid.part x = .ok items ∧ readTemplate u e.cid.part x.tpl = .ok tpl ∧ (if x.etpl = 0 then readTemplate u e.cid.part x.tpl else readTemplate u e.cid.part x.etpl) = .ok etpl ∧ templateBad tpl = false ∧ templateBad etpl = false ∧ n = ncores (getPart u e.cid.part) ∧ d = items.foldl (dealItem x.chunk (x.etpl != 0)) { loads := List.replicate n 0, seqs := List.replicate n 0, emits := [], chunks := 0 } ∧ coreLists u e.cid.part tpl etpl x.chunk d.emits.reverse (upto n) = .ok lists ∧ 64 + lists.length ≤ x.outBytes ∧ writeUniAll u e.cid.part [(x.out, planSummary items d lists.length ++ lists)] = .ok v :=
  ⟨eEp, sEp, _, _, 0, _, [], _, _, _, _, _, _, rfl, by decide +kernel, rfl, by decide +kernel, eq_ok (by decide +kernel), eq_ok (by decide +kernel), eq_ok (by decide +kernel), by decide +kernel, by decide +kernel, rfl, rfl, eq_ok (by decide +kernel), by decide +kernel, eq_ok (by decide +kernel)⟩
theorem witness_ExchangesBegin_1 : ∃ (e : Entry) (s : State) (u : State) (v : State) (core : Nat) (rs : List Range) (x : Xc) (q : XPar) (wcl : List (Nat × List (Nat × Nat))) (b0 : List SendBlock) (b1 : List SendBlock) (o0 : List OutStream) (o1 : List OutStream), x = xcOf e.desc ∧ issues s e (xcRow e 0 runDispatch) core rs = true ∧ u = issued s e (xcRow e 0 runDispatch) core rs ∧ q = xParAt u e.cid.part x.pb ∧ readWcl u e.cid.part (wclCount u e.cid.part q.wcl) (q.wcl + 16) = .ok wcl ∧ readBlocks u e.cid.part x.ndev q.sl0 = .ok b0 ∧ readBlocks u e.cid.part x.ndev q.sl1 = .ok b1 ∧ dispatchOuts u e.cid x q 0 b0.zipIdx = .ok o0 ∧ dispatchOuts u e.cid x q 1 b1.zipIdx = .ok o1 ∧ writeUni u e.cid.part q.rdy (List.replicate (4 * (q.nlocal + wclCount u e.cid.part q.wcl)) 0) = .ok v :=
  ⟨eXc 0, sXc 0 0, _, _, 0, [], _, _, _, _, _, _, _, rfl, by decide +kernel, rfl, rfl, eq_ok (by decide +kernel), eq_ok (by decide +kernel), eq_ok (by decide +kernel), eq_ok (by decide +kernel), eq_ok (by decide +kernel), eq_ok (by decide +kernel)⟩
theorem witness_ExchangesBegin_2 : ∃ (e : Entry) (s : State) (u : State) (core : Nat) (rs : List Range) (x : Xc) (q : XPar) (hb : Bytes) (eb : Bytes) (o : OutStream) (os : List OutStream), x = xcOf e.desc ∧ issues s e (xcRow e 1 runReturn) core rs = true ∧ u = issued s e (xcRow e 1 runReturn) core rs ∧ q = xParAt u e.cid.part x.pb ∧ readUni u e.cid.part q.rorg 64 = .ok hb ∧ readUni u e.cid.part (q.rorg + 64) (8 * leNat (hb.take 4)) = .ok eb ∧ retOuts u e.cid x q (wordsOf 8 eb) (retDests (wordsOf 8 eb)) = .ok (o :: os) :=
  ⟨eXc 1, sXc 1 2048, _, 0, [], _, _, _, _, oXr, [], rfl, by decide +kernel, rfl, rfl, eq_ok (by decide +kernel), eq_ok (by decide +kernel), by decide +kernel⟩
theorem witness_ExchangesBegin_3 : ∃ (e : Entry) (s : State) (u : State) (core : Nat) (rs : List Range) (x : Xc) (q : XPar) (hb : Bytes) (eb : Bytes), x = xcOf e.desc ∧ issues s e (xcRow e 1 runReturn) core rs = true ∧ u = issued s e (xcRow e 1 runReturn) core rs ∧ q = xParAt u e.cid.part x.pb ∧ readUni u e.cid.part q.rorg 64 = .ok hb ∧ readUni u e.cid.part (q.rorg + 64) (8 * leNat (hb.take 4)) = .ok eb ∧ retOuts u e.cid x q (wordsOf 8 eb) (retDests (wordsOf 8 eb)) = .ok [] :=
  ⟨eXc 1, sXc 1 0, _, 0, [], _, _, _, _, rfl, by decide +kernel, rfl, rfl, eq_ok (by decide +kernel), eq_ok (by decide +kernel), by decide +kernel⟩
theorem witness_ExchangesBegin_4 : ∃ (e : Entry) (s : State) (u : State) (v : State) (core : Nat) (rs : List Range) (x : Cmb), issues s e (combineRow e) core rs = true ∧ u = issued s e (combineRow e) core rs ∧ x = { cmbOf e core with rng := getRng u e.cid (cmbRng e.desc), since := residentClock u e.cid } ∧ writeUni u e.cid.part x.lst (List.replicate (4 * x.ntok) 0) = .ok v :=
  ⟨eCb, sq eCb, _, _, 0, [], _, by decide +kernel, rfl, rfl, eq_ok (by decide +kernel)⟩
theorem witness_ExchangesBegin_5 : ∃ (e : Entry) (s : State) (u : State) (core : Nat) (rs : List Range) (a : Aa) (sb : Bytes) (os : List OutStream), a = aaOf e.desc ∧ issues s e (a2aRow e) core rs = true ∧ u = issued s e (a2aRow e) core rs ∧ readUni u e.cid.part a.stbl (16 * a.x.ndev) = .ok sb ∧ aaOuts u e.cid a.x ((aaEntries true sb).map (·.1)).zipIdx = .ok os :=
  ⟨eAa, sq eAa, _, 0, [], _, _, _, rfl, by decide +kernel, rfl, eq_ok (by decide +kernel), eq_ok (by decide +kernel)⟩
theorem witness_PredictorWritesItsRecords_1 : ∃ (e : Entry) (s : State) (u : State) (core : Nat) (rs : List Range) (x : Pd) (bs : Bytes) (r : PredState), x = pdOf e.desc ∧ issues s e (pdRow e false runPredict) core rs = true ∧ u = issued s e (pdRow e false runPredict) core rs ∧ readUni u e.cid.part x.st 64 = .ok bs ∧ predStateOf bs = some r :=
  ⟨ePp, sq ePp, _, 0, rsOf (pdRow ePp false runPredict) (sq ePp), _, _, _, rfl, by decide +kernel, rfl, eq_ok (by decide +kernel), eq_some (by decide +kernel)⟩
theorem witness_PredictorWritesItsRecords_2 : ∃ (e : Entry) (s : State) (u : State) (core : Nat) (rs : List Range) (x : Pd), x = pdOf e.desc ∧ issues s e (pdRow e true runBound) core rs = true ∧ u = issued s e (pdRow e true runBound) core rs :=
  ⟨ePb, sq ePb, _, 0, rsOf (pdRow ePb true runBound) (sq ePb), _, rfl, by decide +kernel, rfl⟩
theorem witness_PredictorWritesItsRecords_3 : ∃ (e : Entry) (s : State) (u : State) (v : State) (core : Nat) (rs : List Range) (x : Mk) (bs : Bytes) (r : PredState) (r1 : PredState) (m : MkPlan) (ms : List (List Val)), x = mkOf e.desc ∧ issues s e (makeupRow e) core rs = true ∧ u = issued s e (makeupRow e) core rs ∧ readUni u e.cid.part x.st 64 = .ok bs ∧ predStateOf bs = some r ∧ m = mkPlan (readLs u core x.pred 640) ∧ ms = mkMissed u core x m ∧ r1 = mkTally x m ms r ∧ writeUni u e.cid.part x.st (predStateBytes (if x.close then mkClose x.target r1 else r1)) = .ok v :=
  ⟨eMu, sMu, _, _, 0, rsOf (makeupRow eMu) sMu, _, _, _, _, _, _, rfl, by decide +kernel, rfl, eq_ok (by decide +kernel), eq_some (by decide +kernel), rfl, rfl, rfl, eq_ok (by decide +kernel)⟩
theorem witness_CollectivesBegin_1 : ∃ (e : Entry) (s : State) (u : State) (core : Nat) (rs : List Range) (k : Coll) (g : Bytes × List Nat) (src : Bytes) (kind : CollKind) (op : Nat) (i : Instr), (i, op, kind) ∈ [(Instr.opReduce e, 0x0400, CollKind.reduce), (.opAllreduce e, 0x0401, .allreduce), (.opBcast e, 0x0402, .bcast), (.opAllgather e, 0x0403, .allgather)] ∧ issues s e (collRow e op kind) core rs = true ∧ u = issued s e (collRow e op kind) core rs ∧ k = collOf u e core kind ∧ readGroup u e.cid.part (collGrp e.desc) k.ndev = .ok g ∧ readUni u e.cid.part (collSrc e.desc) k.srcLen = .ok src ∧ groupBad g.2 = false ∧ (k.ifmt = 0xA → (al48Groups src).any (fun x => x.gexp == 0xFF) = false) :=
  ⟨eCo 0x400, sq (eCo 0x400), _, 0, [], _, _, _, .reduce, 0x400, .opReduce (eCo 0x400), .head _, by decide +kernel, rfl, rfl, eq_ok (by decide +kernel), eq_ok (by decide +kernel), by decide +kernel, by decide +kernel⟩
theorem witness_CollectivesBegin_1b : ∃ (e : Entry) (s : State) (u : State) (core : Nat) (rs : List Range) (k : Coll) (g : Bytes × List Nat) (src : Bytes) (kind : CollKind) (op : Nat) (i : Instr), (i, op, kind) ∈ [(Instr.opReduce e, 0x0400, CollKind.reduce), (.opAllreduce e, 0x0401, .allreduce), (.opBcast e, 0x0402, .bcast), (.opAllgather e, 0x0403, .allgather)] ∧ issues s e (collRow e op kind) core rs = true ∧ u = issued s e (collRow e op kind) core rs ∧ k = collOf u e core kind ∧ readGroup u e.cid.part (collGrp e.desc) k.ndev = .ok g ∧ readUni u e.cid.part (collSrc e.desc) k.srcLen = .ok src ∧ groupBad g.2 = false ∧ (k.ifmt = 0xA → (al48Groups src).any (fun x => x.gexp == 0xFF) = false) :=
  ⟨eCo 0x401, sq (eCo 0x401), _, 0, [], _, _, _, .allreduce, 0x401, .opAllreduce (eCo 0x401), .tail _ (.head _), by decide +kernel, rfl, rfl, eq_ok (by decide +kernel), eq_ok (by decide +kernel), by decide +kernel, by decide +kernel⟩
theorem witness_CollectivesBegin_1c : ∃ (e : Entry) (s : State) (u : State) (core : Nat) (rs : List Range) (k : Coll) (g : Bytes × List Nat) (src : Bytes) (kind : CollKind) (op : Nat) (i : Instr), (i, op, kind) ∈ [(Instr.opReduce e, 0x0400, CollKind.reduce), (.opAllreduce e, 0x0401, .allreduce), (.opBcast e, 0x0402, .bcast), (.opAllgather e, 0x0403, .allgather)] ∧ issues s e (collRow e op kind) core rs = true ∧ u = issued s e (collRow e op kind) core rs ∧ k = collOf u e core kind ∧ readGroup u e.cid.part (collGrp e.desc) k.ndev = .ok g ∧ readUni u e.cid.part (collSrc e.desc) k.srcLen = .ok src ∧ groupBad g.2 = false ∧ (k.ifmt = 0xA → (al48Groups src).any (fun x => x.gexp == 0xFF) = false) :=
  ⟨eCo 0x402, sq (eCo 0x402), _, 0, [], _, _, _, .bcast, 0x402, .opBcast (eCo 0x402), .tail _ (.tail _ (.head _)), by decide +kernel, rfl, rfl, eq_ok (by decide +kernel), eq_ok (by decide +kernel), by decide +kernel, by decide +kernel⟩
theorem witness_CollectivesBegin_1d : ∃ (e : Entry) (s : State) (u : State) (core : Nat) (rs : List Range) (k : Coll) (g : Bytes × List Nat) (src : Bytes) (kind : CollKind) (op : Nat) (i : Instr), (i, op, kind) ∈ [(Instr.opReduce e, 0x0400, CollKind.reduce), (.opAllreduce e, 0x0401, .allreduce), (.opBcast e, 0x0402, .bcast), (.opAllgather e, 0x0403, .allgather)] ∧ issues s e (collRow e op kind) core rs = true ∧ u = issued s e (collRow e op kind) core rs ∧ k = collOf u e core kind ∧ readGroup u e.cid.part (collGrp e.desc) k.ndev = .ok g ∧ readUni u e.cid.part (collSrc e.desc) k.srcLen = .ok src ∧ groupBad g.2 = false ∧ (k.ifmt = 0xA → (al48Groups src).any (fun x => x.gexp == 0xFF) = false) :=
  ⟨eCo 0x403, sq (eCo 0x403), _, 0, [], _, _, _, .allgather, 0x403, .opAllgather (eCo 0x403), .tail _ (.tail _ (.tail _ (.head _))), by decide +kernel, rfl, rfl, eq_ok (by decide +kernel), eq_ok (by decide +kernel), by decide +kernel, by decide +kernel⟩
theorem witness_WaitsStandOrPass_1 : ∃ (e : Entry) (s : State) (u : State) (v : State) (core : Nat) (rs : List Range) (q : Seq) (b : Blocked) (i : Instr) (f : Nat) (act : Option Nat) (kind : BlockKind), (i, f, act, kind) ∈ [(Instr.opWaitSlotFull e, 0, some 0, BlockKind.slotFull), (.opWaitSlotEmpty e, 0, some 1, .slotEmpty), (.opWaitEvent e, 1, none, .event), (.opWaitMemory e, 2, none, .memory), (.opWaitPlan e, 3, none, .plan)] ∧ issues s e (waitRow e f act kind) core rs = true ∧ u = issued s e (waitRow e f act kind) core rs ∧ q = getSeq u e.cid core ∧ b = { entry := e, kind := kind, since := residentClock u e.cid } ∧ v = listIssued (setSeq u e.cid core { q with inflight := removeFirst (fun g => g.entry == e) q.inflight, block := some b, idleSince := u.now }) e.cid core ∧ slotWrong v core b = false ∧ waitFailure v core b = none ∧ blockMet v e.cid core b = false :=
  ⟨eW [], sqs (eW []) [slt .empty], _, _, 0, [], _, _, .opWaitSlotFull (eW []), 0, some 0, .slotFull, .head _, by decide +kernel, rfl, rfl, rfl, rfl, by decide +kernel, by decide +kernel, by decide +kernel⟩
theorem witness_WaitsStandOrPass_1b : ∃ (e : Entry) (s : State) (u : State) (v : State) (core : Nat) (rs : List Range) (q : Seq) (b : Blocked) (i : Instr) (f : Nat) (act : Option Nat) (kind : BlockKind), (i, f, act, kind) ∈ [(Instr.opWaitSlotFull e, 0, some 0, BlockKind.slotFull), (.opWaitSlotEmpty e, 0, some 1, .slotEmpty), (.opWaitEvent e, 1, none, .event), (.opWaitMemory e, 2, none, .memory), (.opWaitPlan e, 3, none, .plan)] ∧ issues s e (waitRow e f act kind) core rs = true ∧ u = issued s e (waitRow e f act kind) core rs ∧ q = getSeq u e.cid core ∧ b = { entry := e, kind := kind, since := residentClock u e.cid } ∧ v = listIssued (setSeq u e.cid core { q with inflight := removeFirst (fun g => g.entry == e) q.inflight, block := some b, idleSince := u.now }) e.cid core ∧ slotWrong v core b = false ∧ waitFailure v core b = none ∧ blockMet v e.cid core b = false :=
  ⟨eW [(67, 1), (74, 1)], sqs (eW [(67, 1), (74, 1)]) [slt .full], _, _, 0, [], _, _, .opWaitSlotEmpty (eW [(67, 1), (74, 1)]), 0, some 1, .slotEmpty, .tail _ (.head _), by decide +kernel, rfl, rfl, rfl, rfl, by decide +kernel, by decide +kernel, by decide +kernel⟩
theorem witness_WaitsStandOrPass_1c : ∃ (e : Entry) (s : State) (u : State) (v : State) (core : Nat) (rs : List Range) (q : Seq) (b : Blocked) (i : Instr) (f : Nat) (act : Option Nat) (kind : BlockKind), (i, f, act, kind) ∈ [(Instr.opWaitSlotFull e, 0, some 0, BlockKind.slotFull), (.opWaitSlotEmpty e, 0, some 1, .slotEmpty), (.opWaitEvent e, 1, none, .event), (.opWaitMemory e, 2, none, .memory), (.opWaitPlan e, 3, none, .plan)] ∧ issues s e (waitRow e f act kind) core rs = true ∧ u = issued s e (waitRow e f act kind) core rs ∧ q = getSeq u e.cid core ∧ b = { entry := e, kind := kind, since := residentClock u e.cid } ∧ v = listIssued (setSeq u e.cid core { q with inflight := removeFirst (fun g => g.entry == e) q.inflight, block := some b, idleSince := u.now }) e.cid core ∧ slotWrong v core b = false ∧ waitFailure v core b = none ∧ blockMet v e.cid core b = false :=
  ⟨eW [(64, 1), (92, 5)], sq (eW [(64, 1), (92, 5)]), _, _, 0, [], _, _, .opWaitEvent (eW [(64, 1), (92, 5)]), 1, none, .event, .tail _ (.tail _ (.head _)), by decide +kernel, rfl, rfl, rfl, rfl, by decide +kernel, by decide +kernel, by decide +kernel⟩
theorem witness_WaitsStandOrPass_1d : ∃ (e : Entry) (s : State) (u : State) (v : State) (core : Nat) (rs : List Range) (q : Seq) (b : Blocked) (i : Instr) (f : Nat) (act : Option Nat) (kind : BlockKind), (i, f, act, kind) ∈ [(Instr.opWaitSlotFull e, 0, some 0, BlockKind.slotFull), (.opWaitSlotEmpty e, 0, some 1, .slotEmpty), (.opWaitEvent e, 1, none, .event), (.opWaitMemory e, 2, none, .memory), (.opWaitPlan e, 3, none, .plan)] ∧ issues s e (waitRow e f act kind) core rs = true ∧ u = issued s e (waitRow e f act kind) core rs ∧ q = getSeq u e.cid core ∧ b = { entry := e, kind := kind, since := residentClock u e.cid } ∧ v = listIssued (setSeq u e.cid core { q with inflight := removeFirst (fun g => g.entry == e) q.inflight, block := some b, idleSince := u.now }) e.cid core ∧ slotWrong v core b = false ∧ waitFailure v core b = none ∧ blockMet v e.cid core b = false :=
  ⟨eW [(64, 2), (92, 5)], sq (eW [(64, 2), (92, 5)]), _, _, 0, [], _, _, .opWaitMemory (eW [(64, 2), (92, 5)]), 2, none, .memory, .tail _ (.tail _ (.tail _ (.head _))), by decide +kernel, rfl, rfl, rfl, rfl, by decide +kernel, by decide +kernel, by decide +kernel⟩
theorem witness_WaitsStandOrPass_1e : ∃ (e : Entry) (s : State) (u : State) (v : State) (core : Nat) (rs : List Range) (q : Seq) (b : Blocked) (i : Instr) (f : Nat) (act : Option Nat) (kind : BlockKind), (i, f, act, kind) ∈ [(Instr.opWaitSlotFull e, 0, some 0, BlockKind.slotFull), (.opWaitSlotEmpty e, 0, some 1, .slotEmpty), (.opWaitEvent e, 1, none, .event), (.opWaitMemory e, 2, none, .memory), (.opWaitPlan e, 3, none, .plan)] ∧ issues s e (waitRow e f act kind) core rs = true ∧ u = issued s e (waitRow e f act kind) core rs ∧ q = getSeq u e.cid core ∧ b = { entry := e, kind := kind, since := residentClock u e.cid } ∧ v = listIssued (setSeq u e.cid core { q with inflight := removeFirst (fun g => g.entry == e) q.inflight, block := some b, idleSince := u.now }) e.cid core ∧ slotWrong v core b = false ∧ waitFailure v core b = none ∧ blockMet v e.cid core b = false :=
  ⟨eW [(64, 3)], sq (eW [(64, 3)]), _, _, 0, [], _, _, .opWaitPlan (eW [(64, 3)]), 3, none, .plan, .tail _ (.tail _ (.tail _ (.tail _ (.head _)))), by decide +kernel, rfl, rfl, rfl, rfl, by decide +kernel, by decide +kernel, by decide +kernel⟩
theorem witness_WaitsStandOrPass_2 : ∃ (e : Entry) (s : State) (u : State) (v : State) (core : Nat) (rs : List Range) (q : Seq) (b : Blocked) (i : Instr) (f : Nat) (act : Option Nat) (kind : BlockKind), (i, f, act, kind) ∈ [(Instr.opWaitSlotFull e, 0, some 0, BlockKind.slotFull), (.opWaitSlotEmpty e, 0, some 1, .slotEmpty), (.opWaitEvent e, 1, none, .event), (.opWaitMemory e, 2, none, .memory), (.opWaitPlan e, 3, none, .plan)] ∧ issues s e (waitRow e f act kind) core rs = true ∧ u = issued s e (waitRow e f act kind) core rs ∧ q = getSeq u e.cid core ∧ b = { entry := e, kind := kind, since := residentClock u e.cid } ∧ v = listIssued (setSeq u e.cid core { q with inflight := removeFirst (fun g => g.entry == e) q.inflight, block := some b, idleSince := u.now }) e.cid core ∧ slotWrong v core b = false ∧ waitFailure v core b = none ∧ blockMet v e.cid core b = true ∧ kind ≠ .plan :=
  ⟨eW [], sqs (eW []) [slt .full], _, _, 0, [], _, _, .opWaitSlotFull (eW []), 0, some 0, .slotFull, .head _, by decide +kernel, rfl, rfl, rfl, rfl, by decide +kernel, by decide +kernel, by decide +kernel, by decide +kernel⟩
theorem witness_WaitsStandOrPass_2b : ∃ (e : Entry) (s : State) (u : State) (v : State) (core : Nat) (rs : List Range) (q : Seq) (b : Blocked) (i : Instr) (f : Nat) (act : Option Nat) (kind : BlockKind), (i, f, act, kind) ∈ [(Instr.opWaitSlotFull e, 0, some 0, BlockKind.slotFull), (.opWaitSlotEmpty e, 0, some 1, .slotEmpty), (.opWaitEvent e, 1, none, .event), (.opWaitMemory e, 2, none, .memory), (.opWaitPlan e, 3, none, .plan)] ∧ issues s e (waitRow e f act kind) core rs = true ∧ u = issued s e (waitRow e f act kind) core rs ∧ q = getSeq u e.cid core ∧ b = { entry := e, kind := kind, since := residentClock u e.cid } ∧ v = listIssued (setSeq u e.cid core { q with inflight := removeFirst (fun g => g.entry == e) q.inflight, block := some b, idleSince := u.now }) e.cid core ∧ slotWrong v core b = false ∧ waitFailure v core b = none ∧ blockMet v e.cid core b = true ∧ kind ≠ .plan :=
  ⟨eW [(67, 1)], sqs (eW [(67, 1)]) [slt .empty], _, _, 0, [], _, _, .opWaitSlotEmpty (eW [(67, 1)]), 0, some 1, .slotEmpty, .tail _ (.head _), by decide +kernel, rfl, rfl, rfl, rfl, by decide +kernel, by decide +kernel, by decide +kernel, by decide +kernel⟩
theorem witness_WaitsStandOrPass_2c : ∃ (e : Entry) (s : State) (u : State) (v : State) (core : Nat) (rs : List Range) (q : Seq) (b : Blocked) (i : Instr) (f : Nat) (act : Option Nat) (kind : BlockKind), (i, f, act, kind) ∈ [(Instr.opWaitSlotFull e, 0, some 0, BlockKind.slotFull), (.opWaitSlotEmpty e, 0, some 1, .slotEmpty), (.opWaitEvent e, 1, none, .event), (.opWaitMemory e, 2, none, .memory), (.opWaitPlan e, 3, none, .plan)] ∧ issues s e (waitRow e f act kind) core rs = true ∧ u = issued s e (waitRow e f act kind) core rs ∧ q = getSeq u e.cid core ∧ b = { entry := e, kind := kind, since := residentClock u e.cid } ∧ v = listIssued (setSeq u e.cid core { q with inflight := removeFirst (fun g => g.entry == e) q.inflight, block := some b, idleSince := u.now }) e.cid core ∧ slotWrong v core b = false ∧ waitFailure v core b = none ∧ blockMet v e.cid core b = true ∧ kind ≠ .plan :=
  ⟨eW [(64, 1)], sq (eW [(64, 1)]), _, _, 0, [], _, _, .opWaitEvent (eW [(64, 1)]), 1, none, .event, .tail _ (.tail _ (.head _)), by decide +kernel, rfl, rfl, rfl, rfl, by decide +kernel, by decide +kernel, by decide +kernel, by decide +kernel⟩
theorem witness_WaitsStandOrPass_2d : ∃ (e : Entry) (s : State) (u : State) (v : State) (core : Nat) (rs : List Range) (q : Seq) (b : Blocked) (i : Instr) (f : Nat) (act : Option Nat) (kind : BlockKind), (i, f, act, kind) ∈ [(Instr.opWaitSlotFull e, 0, some 0, BlockKind.slotFull), (.opWaitSlotEmpty e, 0, some 1, .slotEmpty), (.opWaitEvent e, 1, none, .event), (.opWaitMemory e, 2, none, .memory), (.opWaitPlan e, 3, none, .plan)] ∧ issues s e (waitRow e f act kind) core rs = true ∧ u = issued s e (waitRow e f act kind) core rs ∧ q = getSeq u e.cid core ∧ b = { entry := e, kind := kind, since := residentClock u e.cid } ∧ v = listIssued (setSeq u e.cid core { q with inflight := removeFirst (fun g => g.entry == e) q.inflight, block := some b, idleSince := u.now }) e.cid core ∧ slotWrong v core b = false ∧ waitFailure v core b = none ∧ blockMet v e.cid core b = true ∧ kind ≠ .plan :=
  ⟨eW [(64, 2)], sq (eW [(64, 2)]), _, _, 0, [], _, _, .opWaitMemory (eW [(64, 2)]), 2, none, .memory, .tail _ (.tail _ (.tail _ (.head _))), by decide +kernel, rfl, rfl, rfl, rfl, by decide +kernel, by decide +kernel, by decide +kernel, by decide +kernel⟩
theorem witness_WaitsStandOrPass_3 : ∃ (e : Entry) (s : State) (u : State) (v : State) (core : Nat) (rs : List Range) (q : Seq) (b : Blocked) (i : Instr) (f : Nat) (act : Option Nat) (kind : BlockKind), (i, f, act, kind) ∈ [(Instr.opWaitSlotFull e, 0, some 0, BlockKind.slotFull), (.opWaitSlotEmpty e, 0, some 1, .slotEmpty), (.opWaitEvent e, 1, none, .event), (.opWaitMemory e, 2, none, .memory), (.opWaitPlan e, 3, none, .plan)] ∧ issues s e (waitRow e f act kind) core rs = true ∧ u = issued s e (waitRow e f act kind) core rs ∧ q = getSeq u e.cid core ∧ b = { entry := e, kind := kind, since := residentClock u e.cid } ∧ v = listIssued (setSeq u e.cid core { q with inflight := removeFirst (fun g => g.entry == e) q.inflight, block := some b, idleSince := u.now }) e.cid core ∧ slotWrong v core b = false ∧ waitFailure v core b = none ∧ blockMet v e.cid core b = true ∧ kind = .plan ∧ (getSeq v e.cid core).list = none :=
  ⟨eW [(64, 3)], { sq (eW [(64, 3)]) with ctxs := [(0, cPl)] }, _, _, 0, [], _, _, .opWaitPlan (eW [(64, 3)]), 3, none, .plan, .tail _ (.tail _ (.tail _ (.tail _ (.head _)))), by decide +kernel, rfl, rfl, rfl, rfl, by decide +kernel, by decide +kernel, by decide +kernel, by decide +kernel, by decide +kernel⟩
theorem witness_BlockedCommandsEnd_1 : ∃ (core : CoreI) (s : State) (b : Blocked), coreBlock s core.val = some b ∧ atRest s = true ∧ (b.kind = .slotFull ∨ b.kind = .slotEmpty ∨ b.kind = .event ∨ b.kind = .memory) ∧ slotWrong s core.val b = false ∧ waitFailure s core.val b = none ∧ blockMet s b.entry.cid core.val b = true :=
  ⟨0, sB (eW []) .slotFull [slt .full], blk (eW []) .slotFull, by decide +kernel, by decide +kernel, by decide +kernel, by decide +kernel, by decide +kernel, by decide +kernel⟩
theorem witness_BlockedCommandsEnd_1b : ∃ (core : CoreI) (s : State) (b : Blocked), coreBlock s core.val = some b ∧ atRest s = true ∧ (b.kind = .slotFull ∨ b.kind = .slotEmpty ∨ b.kind = .event ∨ b.kind = .memory) ∧ slotWrong s core.val b = false ∧ waitFailure s core.val b = none ∧ blockMet s b.entry.cid core.val b = true :=
  ⟨0, sB (eW [(67, 1)]) .slotEmpty [slt .empty], blk (eW [(67, 1)]) .slotEmpty, by decide +kernel, by decide +kernel, by decide +kernel, by decide +kernel, by decide +kernel, by decide +kernel⟩
theorem witness_BlockedCommandsEnd_1c : ∃ (core : CoreI) (s : State) (b : Blocked), coreBlock s core.val = some b ∧ atRest s = true ∧ (b.kind = .slotFull ∨ b.kind = .slotEmpty ∨ b.kind = .event ∨ b.kind = .memory) ∧ slotWrong s core.val b = false ∧ waitFailure s core.val b = none ∧ blockMet s b.entry.cid core.val b = true :=
  ⟨0, sB (eW [(64, 1)]) .event [], blk (eW [(64, 1)]) .event, by decide +kernel, by decide +kernel, by decide +kernel, by decide +kernel, by decide +kernel, by decide +kernel⟩
theorem witness_BlockedCommandsEnd_1d : ∃ (core : CoreI) (s : State) (b : Blocked), coreBlock s core.val = some b ∧ atRest s = true ∧ (b.kind = .slotFull ∨ b.kind = .slotEmpty ∨ b.kind = .event ∨ b.kind = .memory) ∧ slotWrong s core.val b = false ∧ waitFailure s core.val b = none ∧ blockMet s b.entry.cid core.val b = true :=
  ⟨0, sB (eW [(64, 2)]) .memory [], blk (eW [(64, 2)]) .memory, by decide +kernel, by decide +kernel, by decide +kernel, by decide +kernel, by decide +kernel, by decide +kernel⟩
theorem witness_BlockedCommandsEnd_2 : ∃ (core : CoreI) (s : State) (b : Blocked), coreBlock s core.val = some b ∧ atRest s = true ∧ b.kind = .plan ∧ (getSeq s b.entry.cid core.val).list = none ∧ blockMet s b.entry.cid core.val b = true :=
  ⟨0, { sB (eW [(64, 3)]) .plan [] with ctxs := [(0, cPl)] }, blk (eW [(64, 3)]) .plan, by decide +kernel, by decide +kernel, by decide +kernel, by decide +kernel, by decide +kernel⟩
theorem witness_BlockedCommandsEnd_3 : ∃ (core : CoreI) (s : State) (b : Blocked), coreBlock s core.val = some b ∧ (b.kind = .event ∨ b.kind = .memory) ∧ b.since + hangNs s b.entry.cid ≤ residentClock s b.entry.cid ∧ blockMet s b.entry.cid core.val b = false :=
  ⟨0, { sB (eW [(64, 1), (92, 5)]) .event [] with now := 10 ^ 12 }, blk (eW [(64, 1), (92, 5)]) .event, by decide +kernel, by decide +kernel, by decide +kernel, by decide +kernel⟩
theorem witness_BlockedCommandsEnd_3b : ∃ (core : CoreI) (s : State) (b : Blocked), coreBlock s core.val = some b ∧ (b.kind = .event ∨ b.kind = .memory) ∧ b.since + hangNs s b.entry.cid ≤ residentClock s b.entry.cid ∧ blockMet s b.entry.cid core.val b = false :=
  ⟨0, { sB (eW [(64, 2), (92, 5)]) .memory [] with now := 10 ^ 12 }, blk (eW [(64, 2), (92, 5)]) .memory, by decide +kernel, by decide +kernel, by decide +kernel, by decide +kernel⟩
theorem witness_BlockedCommandsEnd_4 : ∃ (core : CoreI) (s : State) (b : Blocked), coreBlock s core.val = some b ∧ b.kind = .timed ∧ fld b.entry.desc 64 64 ≤ (fabricTime s).toNat :=
  ⟨0, sB (ent 0x504) .timed [], blk (ent 0x504) .timed, by decide +kernel, by decide +kernel, by decide +kernel⟩
theorem witness_BlockedCommandsEnd_5 : ∃ (core : CoreI) (s : State) (b : Blocked) (i : Nat), coreBlock s core.val = some b ∧ coreCtx s core.val = some b.entry.cid ∧ (b.kind = .slotFull ∨ b.kind = .slotEmpty) ∧ b.since + hangNs s b.entry.cid ≤ residentClock s b.entry.cid ∧ blockMet s b.entry.cid core.val b = false ∧ i = fld b.entry.desc 68 6 :=
  ⟨0, { sB (eW []) .slotFull [slt .empty] with now := 10 ^ 12 }, blk (eW []) .slotFull, _, by decide +kernel, by decide +kernel, by decide +kernel, by decide +kernel, by decide +kernel, rfl⟩
theorem witness_BlockedCommandsEnd_5b : ∃ (core : CoreI) (s : State) (b : Blocked) (i : Nat), coreBlock s core.val = some b ∧ coreCtx s core.val = some b.entry.cid ∧ (b.kind = .slotFull ∨ b.kind = .slotEmpty) ∧ b.since + hangNs s b.entry.cid ≤ residentClock s b.entry.cid ∧ blockMet s b.entry.cid core.val b = false ∧ i = fld b.entry.desc 68 6 :=
  ⟨0, { sB (eW [(67, 1), (74, 1)]) .slotEmpty [slt .full] with now := 10 ^ 12 }, blk (eW [(67, 1), (74, 1)]) .slotEmpty, _, by decide +kernel, by decide +kernel, by decide +kernel, by decide +kernel, by decide +kernel, rfl⟩
theorem witness_BlockedCommandsEnd_6 : ∃ (core : CoreI) (s : State) (c : CtxId) (h : Held) (i : Nat), unitsRun s = true ∧ coreBlock s core.val = none ∧ hungDelivery s core.val = some (c, h) ∧ i = h.marker.getD ((slotsUnder (getSeq s c core.val) h.addr.toNat h.data.length).headD 0) :=
  ⟨0, { sSl (slt .full) with now := 10 ^ 12, seqs := [(0, { slots := [slt .full], held := [{ addr := 0, gen := 1, data := [1], since := 0, marker := none, sender := name0 }] })] }, _, _, _, by decide +kernel, by decide +kernel, (rfl : hungDelivery { sSl (slt .full) with now := 10 ^ 12, seqs := [(0, { slots := [slt .full], held := [{ addr := 0, gen := 1, data := [1], since := 0, marker := none, sender := name0 }] })] } 0 = some (cid0, { addr := 0, gen := 1, data := [1], since := 0, marker := none, sender := name0 })), rfl⟩
theorem witness_SlotsFillAndDrain_1 : ∃ (e : Entry) (s : State) (u : State) (core : Nat) (i : Nat) (rs : List Range) (t : Slot), issues s e (signalRow e 0 (some 0) .now (runSignalSlot e)) core rs = true ∧ u = issued s e (signalRow e 0 (some 0) .now (runSignalSlot e)) core rs ∧ i = fld e.desc 68 6 ∧ t = nth {} (getSeq u e.cid core).slots i ∧ fld e.desc 67 1 = 0 ∧ t.state = .filling ∧ t.gen = BitVec.ofNat 16 (fld e.desc 74 16) ∧ t.extern = false :=
  ⟨eSg [], sqs (eSg []) [slt .filling], _, 0, _, [], _, by decide +kernel, rfl, rfl, rfl, by decide +kernel, by decide +kernel, by decide +kernel, by decide +kernel⟩
theorem witness_SlotsFillAndDrain_2 : ∃ (e : Entry) (s : State) (u : State) (core : Nat) (i : Nat) (rs : List Range) (t : Slot), issues s e (signalRow e 0 (some 1) .now (runSignalSlot e)) core rs = true ∧ u = issued s e (signalRow e 0 (some 1) .now (runSignalSlot e)) core rs ∧ i = fld e.desc 68 6 ∧ t = nth {} (getSeq u e.cid core).slots i ∧ fld e.desc 67 1 = 1 ∧ t.state = .full ∧ t.gen = BitVec.ofNat 16 (fld e.desc 74 16) :=
  ⟨eSg [(67, 1)], sqs (eSg [(67, 1)]) [slt .full], _, 0, _, [], _, by decide +kernel, rfl, rfl, rfl, by decide +kernel, by decide +kernel, by decide +kernel⟩
theorem witness_SlotsFillAndDrain_3 : ∃ (core : CoreI) (slot : Fin 64) (s : State) (c : CtxId) (t : Slot), coreCtx s core.val = some c ∧ unitsRun s = true ∧ slot.val < (getSeq s c core.val).slots.length ∧ t = nth {} (getSeq s c core.val).slots slot.val ∧ t.state = .filling ∧ t.fillMark = true ∧ slotInUse (getSeq s c core.val) t true = false :=
  ⟨0, 0, sSl { slt .filling with fillMark := true }, cid0, _, by decide +kernel, by decide +kernel, by decide +kernel, rfl, by decide +kernel, by decide +kernel, by decide +kernel⟩
theorem witness_SlotsFillAndDrain_4 : ∃ (core : CoreI) (slot : Fin 64) (s : State) (c : CtxId) (t : Slot), coreCtx s core.val = some c ∧ unitsRun s = true ∧ slot.val < (getSeq s c core.val).slots.length ∧ t = nth {} (getSeq s c core.val).slots slot.val ∧ t.state = .draining ∧ slotInUse (getSeq s c core.val) t false = false :=
  ⟨0, 0, sSl (slt .draining), cid0, _, by decide +kernel, by decide +kernel, by decide +kernel, rfl, by decide +kernel, by decide +kernel⟩
theorem witness_SlotsFillAndDrain_5 : ∃ (core : CoreI) (c : CtxId) (addr : BitVec 24) (gen : BitVec 16) (data : Bytes) (sender : CmdName) (s : State) (i : Nat) (t : Slot), unitsRun s = true ∧ (getCtx s c).state = .ready ∧ isResident s c = true ∧ inSlots (getSeq s c core.val) addr.toNat data.length = true ∧ slotsUnder (getSeq s c core.val) addr.toNat data.length = [i] ∧ t = nth {} (getSeq s c core.val).slots i ∧ t.gen = gen ∧ (t.state = .empty ∨ t.state = .filling ∧ t.extern = true) :=
  ⟨0, cid0, 0, 0, [1], name0, sSl (slt .empty), 0, _, by decide +kernel, by decide +kernel, by decide +kernel, by decide +kernel, by decide +kernel, rfl, by decide +kernel, by decide +kernel⟩
theorem witness_SlotsFillAndDrain_5b : ∃ (core : CoreI) (c : CtxId) (addr : BitVec 24) (gen : BitVec 16) (data : Bytes) (sender : CmdName) (s : State) (i : Nat) (t : Slot), unitsRun s = true ∧ (getCtx s c).state = .ready ∧ isResident s c = true ∧ inSlots (getSeq s c core.val) addr.toNat data.length = true ∧ slotsUnder (getSeq s c core.val) addr.toNat data.length = [i] ∧ t = nth {} (getSeq s c core.val).slots i ∧ t.gen = gen ∧ (t.state = .empty ∨ t.state = .filling ∧ t.extern = true) :=
  ⟨0, cid0, 63, 0, [1], name0, sSl { slt .filling with extern := true }, 0, _, by decide +kernel, by decide +kernel, by decide +kernel, by decide +kernel, by decide +kernel, rfl, by decide +kernel, by decide +kernel⟩
theorem witness_SlotsFillAndDrain_6 : ∃ (core : CoreI) (c : CtxId) (addr : BitVec 24) (gen : BitVec 16) (data : Bytes) (sender : CmdName) (s : State) (l : List Nat), unitsRun s = true ∧ (getCtx s c).state = .ready ∧ isResident s c = true ∧ inSlots (getSeq s c core.val) addr.toNat data.length = true ∧ l = slotsUnder (getSeq s c core.val) addr.toNat data.length ∧ (∀ i ∈ l, slotTakes (nth {} (getSeq s c core.val).slots i) gen = .written) :=
  ⟨0, cid0, 63, 0, [1, 2], name0, sSl2, [0, 1], by decide +kernel, by decide +kernel, by decide +kernel, by decide +kernel, by decide +kernel, by decide +kernel⟩
theorem witness_SlotsFillAndDrain_7 : ∃ (core : CoreI) (c : CtxId) (addr : BitVec 24) (gen : BitVec 16) (data : Bytes) (sender : CmdName) (s : State), unitsRun s = true ∧ (getCtx s c).state = .ready ∧ isResident s c = true ∧ inSlots (getSeq s c core.val) addr.toNat data.length = false :=
  ⟨0, cid0, 63, 0, [1, 2], name0, sSl (slt .empty), by decide +kernel, by decide +kernel, by decide +kernel, by decide +kernel⟩
theorem witness_SlotsFillAndDrain_8 : ∃ (core : CoreI) (c : CtxId) (slot : Fin 64) (gen : BitVec 16) (sender : CmdName) (s : State) (t : Slot), unitsRun s = true ∧ (getCtx s c).state = .ready ∧ isResident s c = true ∧ t = nth {} (getSeq s c core.val).slots slot.val ∧ heldInto (getSeq s c core.val) t = false ∧ t.gen = gen ∧ t.state = .filling ∧ t.extern = true ∧ slotInUse (getSeq s c core.val) t true = false :=
  ⟨0, cid0, 0, 0, name0, sSl { slt .filling with extern := true }, _, by decide +kernel, by decide +kernel, by decide +kernel, rfl, by decide +kernel, by decide +kernel, by decide +kernel, by decide +kernel, by decide +kernel⟩
theorem witness_SyncCommandsAct_1 : ∃ (e : Entry) (s : State) (core : Nat) (rs : List Range), issues s e (nopRow e) core rs = true :=
  ⟨ent 0, sq (ent 0), 0, [], by decide +kernel⟩
theorem witness_SyncCommandsAct_2 : ∃ (e : Entry) (s : State) (u : State) (core : Nat) (i : Nat) (rs : List Range), issues s e (signalRow e 1 none .core (runSignalEvent e)) core rs = true ∧ u = issued s e (signalRow e 1 none .core (runSignalEvent e)) core rs ∧ i = fld e.desc 68 6 :=
  ⟨eSg [(64, 1), (92, 7)], sq (eSg [(64, 1), (92, 7)]), _, 0, _, [], by decide +kernel, rfl, rfl⟩
theorem witness_SyncCommandsAct_3 : ∃ (e : Entry) (s : State) (u : State) (v : State) (core : Nat) (rs : List Range), issues s e (signalRow e 2 none .core (runSignalMemory e)) core rs = true ∧ u = issued s e (signalRow e 2 none .core (runSignalMemory e)) core rs ∧ writeUni u e.cid.part (fld e.desc 156 44) (leBytes 4 (fld e.desc 92 32)) = .ok v :=
  ⟨eSg [(64, 2), (92, 7)], sq (eSg [(64, 2), (92, 7)]), _, _, 0, [], by decide +kernel, rfl, eq_ok (by decide +kernel)⟩
theorem witness_SyncCommandsAct_4 : ∃ (e : Entry) (s : State) (u : State) (v : State) (core : Nat) (rs : List Range) (q : Seq) (b : Blocked), issues s e (fenceRow e) core rs = true ∧ u = issued s e (fenceRow e) core rs ∧ q = getSeq u e.cid core ∧ b = { entry := e, kind := .fence, since := residentClock u e.cid } ∧ v = listIssued (setSeq u e.cid core { q with inflight := removeFirst (fun g => g.entry == e) q.inflight, block := some b, idleSince := u.now }) e.cid core :=
  ⟨ent 0x502, sq (ent 0x502), _, _, 0, [], _, _, by decide +kernel, rfl, rfl, rfl, rfl⟩
theorem witness_SyncCommandsAct_5 : ∃ (e : Entry) (s : State) (u : State) (v : State) (core : Nat) (rs : List Range) (q : Seq) (b : Blocked), issues s e (timedRow e) core rs = true ∧ u = issued s e (timedRow e) core rs ∧ q = getSeq u e.cid core ∧ b = { entry := e, kind := .timed, since := residentClock u e.cid } ∧ v = listIssued (setSeq u e.cid core { q with inflight := removeFirst (fun g => g.entry == e) q.inflight, block := some b, idleSince := u.now }) e.cid core :=
  ⟨ent 0x504, sq (ent 0x504), _, _, 0, [], _, _, by decide +kernel, rfl, rfl, rfl, rfl⟩
theorem witness_SyncCommandsAct_6 : ∃ (s : State) (core : Nat) (e : Entry), fld e.desc 128 32 ≠ 0 ∧ fld e.desc 64 64 + fld e.desc 128 32 < (fabricTime s).toNat :=
  ⟨{ s7m with ft := { count := 1000 } }, 0, ent (pack [(0, 0x504), (64, 1), (128, 1)]), by decide +kernel, by decide +kernel⟩
theorem witness_DigestsOpenAbsorbClose_1 : ∃ (e : Entry) (s : State) (u : State) (core : Nat) (rs : List Range), issues s e (digestRow e 0 .now (runDigestOpen e)) core rs = true ∧ u = issued s e (digestRow e 0 .now (runDigestOpen e)) core rs :=
  ⟨eDg [(156, 9)], sq (eDg [(156, 9)]), _, 0, [], by decide +kernel, rfl⟩
theorem witness_DigestsOpenAbsorbClose_2 : ∃ (e : Entry) (s : State) (u : State) (core : Nat) (k : Nat) (rs : List Range) (bs : Bytes) (x : DigestSlot), issues s e (digestRow e 1 .ctx (runAbsorb e)) core rs = true ∧ u = issued s e (digestRow e 1 .ctx (runAbsorb e)) core rs ∧ absorbBytes u e core = .ok bs ∧ getDigest u e.cid (digSlot e.desc) = some x ∧ k = fld e.desc 68 2 :=
  ⟨eDg [(64, 1), (116, 4)], sDg (eDg [(64, 1), (116, 4)]), _, 0, _, [], _, dg0, by decide +kernel, rfl, eq_ok (by decide +kernel), by decide +kernel, rfl⟩
theorem witness_DigestsOpenAbsorbClose_3 : ∃ (e : Entry) (s : State) (u : State) (v : State) (core : Nat) (rs : List Range) (canSign : Bool) (x : DigestSlot), issues s e (digestRow e 2 .now (runDigestClose e canSign)) core rs = true ∧ u = issued s e (digestRow e 2 .now (runDigestClose e canSign)) core rs ∧ getDigest u e.cid (digSlot e.desc) = some x ∧ writeUni u e.cid.part (digAddr e.desc) (digestRecord u e x (flag e.desc 71 && canSign)) = .ok v :=
  ⟨eDg [(64, 2)], sDg (eDg [(64, 2)]), _, _, 0, [], false, dg0, by decide +kernel, rfl, by decide +kernel, eq_ok (by decide +kernel)⟩
theorem witness_RandomCountersSeek_1 : ∃ (e : Entry) (s : State) (u : State) (core : Nat) (i : Nat) (rs : List Range) (r : Rng), issues s e (seekRow e 0) core rs = true ∧ u = issued s e (seekRow e 0) core rs ∧ i = fld e.desc 64 4 ∧ seekMode e.desc = 0 ∧ r = { key := BitVec.ofNat 64 (fld e.desc 70 64), counter := BitVec.ofNat 128 (fld e.desc 134 128) } :=
  ⟨eSk [(70, 1), (134, 2)], sq (eSk [(70, 1), (134, 2)]), _, 0, _, [], _, by decide +kernel, rfl, rfl, by decide +kernel, rfl⟩
theorem witness_RandomCountersSeek_2 : ∃ (e : Entry) (s : State) (u : State) (core : Nat) (i : Nat) (rs : List Range) (r : Rng), issues s e (seekRow e 1) core rs = true ∧ u = issued s e (seekRow e 1) core rs ∧ i = fld e.desc 64 4 ∧ seekMode e.desc = 1 ∧ r = { key := (getRng u e.cid i).key, counter := (getRng u e.cid i).counter + BitVec.ofNat 128 (fld e.desc 134 128) } :=
  ⟨eSk [(68, 1), (134, 2)], sq (eSk [(68, 1), (134, 2)]), _, 0, _, [], _, by decide +kernel, rfl, rfl, by decide +kernel, rfl⟩
theorem witness_RandomCountersSeek_3 : ∃ (e : Entry) (s : State) (u : State) (core : Nat) (rs : List Range), issues s e (seekRow e 2) core rs = true ∧ u = issued s e (seekRow e 2) core rs ∧ seekMode e.desc = 2 :=
  ⟨eSk [(68, 2), (134, 2)], sq (eSk [(68, 2), (134, 2)]), _, 0, [], by decide +kernel, rfl, by decide +kernel⟩
theorem witness_StepStatusActs_1 : ∃ (e : Entry) (s : State) (u : State) (core : Nat) (rs : List Range) (w : Bytes) (g : Bytes × List Nat), issues s e (stepRow e 0) core rs = true ∧ u = issued s e (stepRow e 0) core rs ∧ stepMode e.desc = 0 ∧ bindShapeOk u e.cid e.desc = true ∧ readUni u e.cid.part (fld e.desc 64 64) 8 = .ok w ∧ readGroup u e.cid.part (fld e.desc 164 44) (fld e.desc 131 17) = .ok g ∧ stepWordBad (leNat w) = false ∧ groupBad g.2 = false ∧ fld e.desc 131 17 ≤ 65536 ∧ (getCtx u e.cid).step = none :=
  ⟨eSs [(131, 1), (164, 64)], sq (eSs [(131, 1), (164, 64)]), _, 0, [], _, _, by decide +kernel, rfl, by decide +kernel, by decide +kernel, eq_ok (by decide +kernel), eq_ok (by decide +kernel), by decide +kernel, by decide +kernel, by decide +kernel, by decide +kernel⟩
theorem witness_StepStatusActs_2 : ∃ (e : Entry) (s : State) (u : State) (core : Nat) (rs : List Range) (b : StepBind) (k : Coll) (g : Bytes × List Nat), issues s e (stepRow e 1) core rs = true ∧ u = issued s e (stepRow e 1) core rs ∧ stepMode e.desc = 1 ∧ (getCtx u e.cid).step = some b ∧ agreeing u e = false ∧ k = agreeColl u e core b ∧ collWaits u k = false ∧ readGroup u e.cid.part b.grpAddr.toNat b.ndev.toNat = .ok g ∧ groupBad g.2 = false :=
  ⟨eSs [(128, 1)], sSs (eSs [(128, 1)]), _, 0, [], sb0, _, _, by decide +kernel, rfl, by decide +kernel, by decide +kernel, by decide +kernel, rfl, by decide +kernel, eq_ok (by decide +kernel), by decide +kernel⟩
theorem witness_StepStatusActs_3 : ∃ (cid : CtxId) (ovf : Bool) (s : State) (k : Coll) (r : CollRes), s.colls.find? (fun k => k.cid == cid && decide (k.kind = .agree) && !k.done) = some k ∧ k.resAt 0 = some r ∧ unitsRun s = true ∧ (leNat r.bytes != 0) = ovf :=
  ⟨cid0, true, { s7m with colls := [kAg true] }, kAg true, _, by decide +kernel, eq_some (by decide +kernel), by decide +kernel, by decide +kernel⟩
theorem witness_StepStatusActs_3b : ∃ (cid : CtxId) (ovf : Bool) (s : State) (k : Coll) (r : CollRes), s.colls.find? (fun k => k.cid == cid && decide (k.kind = .agree) && !k.done) = some k ∧ k.resAt 0 = some r ∧ unitsRun s = true ∧ (leNat r.bytes != 0) = ovf :=
  ⟨cid0, false, { s7m with colls := [kAg false] }, kAg false, _, by decide +kernel, eq_some (by decide +kernel), by decide +kernel, by decide +kernel⟩
theorem witness_StepStatusActs_4 : ∃ (e : Entry) (s : State) (u : State) (core : Nat) (rs : List Range) (b : StepBind), issues s e (stepRow e 2) core rs = true ∧ u = issued s e (stepRow e 2) core rs ∧ stepMode e.desc = 2 ∧ (getCtx u e.cid).step = some b :=
  ⟨eSs [(128, 2)], sSs (eSs [(128, 2)]), _, 0, [], sb0, by decide +kernel, rfl, by decide +kernel, by decide +kernel⟩
theorem witness_StepStatusActs_5 : ∃ (e : Entry) (s : State) (u : State) (v : State) (core : Nat) (rs : List Range) (b : StepBind) (c : StepBind), issues s e (stepRow e 3) core rs = true ∧ u = issued s e (stepRow e 3) core rs ∧ stepMode e.desc = 3 ∧ (getCtx u e.cid).step = some b ∧ c = { b with word := commitWord b.word, agreed := false } ∧ writeBack (setBind u e.cid (some c) false) e.cid c = .ok v :=
  ⟨eSs [(128, 3)], sSs (eSs [(128, 3)]), _, _, 0, [], sb0, _, by decide +kernel, rfl, by decide +kernel, by decide +kernel, rfl, eq_ok (by decide +kernel)⟩
theorem witness_StepStatusActs_6 : ∃ (e : Entry) (s : State) (u : State) (v : State) (core : Nat) (rs : List Range) (b : StepBind), issues s e (stepRow e 4) core rs = true ∧ u = issued s e (stepRow e 4) core rs ∧ stepMode e.desc = 4 ∧ (getCtx u e.cid).step = some b ∧ writeBack u e.cid b = .ok v :=
  ⟨eSs [(128, 4)], sSs (eSs [(128, 4)]), _, _, 0, [], sb0, by decide +kernel, rfl, by decide +kernel, by decide +kernel, eq_ok (by decide +kernel)⟩
theorem witness_StepStatusActs_7 : ∃ (s : State) (c : CtxId) (b : Option StepBind) (skip : Bool) (t : State), t = setBind s c b skip :=
  ⟨s7m, cid0, none, false, _, rfl⟩
theorem witness_StepStatusActs_8 : ∃ (e : Entry) (s : State) (u : State) (core : Nat) (rs : List Range) (m : Nat) (i : Instr), (i, m) ∈ [(Instr.opStepStatusAgree e, 1), (.opStepStatusCheck e, 2), (.opStepStatusCommit e, 3)] ∧ issues s e (stepRow e m) core rs = true ∧ u = issued s e (stepRow e m) core rs ∧ stepMode e.desc = m ∧ (getCtx u e.cid).step = none :=
  ⟨eSs [(128, 1)], sq (eSs [(128, 1)]), _, 0, [], 1, .opStepStatusAgree (eSs [(128, 1)]), .head _, by decide +kernel, rfl, by decide +kernel, by decide +kernel⟩
theorem witness_StepStatusActs_8b : ∃ (e : Entry) (s : State) (u : State) (core : Nat) (rs : List Range) (m : Nat) (i : Instr), (i, m) ∈ [(Instr.opStepStatusAgree e, 1), (.opStepStatusCheck e, 2), (.opStepStatusCommit e, 3)] ∧ issues s e (stepRow e m) core rs = true ∧ u = issued s e (stepRow e m) core rs ∧ stepMode e.desc = m ∧ (getCtx u e.cid).step = none :=
  ⟨eSs [(128, 2)], sq (eSs [(128, 2)]), _, 0, [], 2, .opStepStatusCheck (eSs [(128, 2)]), .tail _ (.head _), by decide +kernel, rfl, by decide +kernel, by decide +kernel⟩
theorem witness_StepStatusActs_8c : ∃ (e : Entry) (s : State) (u : State) (core : Nat) (rs : List Range) (m : Nat) (i : Instr), (i, m) ∈ [(Instr.opStepStatusAgree e, 1), (.opStepStatusCheck e, 2), (.opStepStatusCommit e, 3)] ∧ issues s e (stepRow e m) core rs = true ∧ u = issued s e (stepRow e m) core rs ∧ stepMode e.desc = m ∧ (getCtx u e.cid).step = none :=
  ⟨eSs [(128, 3)], sq (eSs [(128, 3)]), _, 0, [], 3, .opStepStatusCommit (eSs [(128, 3)]), .tail _ (.tail _ (.head _)), by decide +kernel, rfl, by decide +kernel, by decide +kernel⟩
theorem witness_StreamsOpen_1 : ∃ (h : XHdr) (ncnt : BitVec 16) (nent : BitVec 32) (dbytes : BitVec 40) (row64 : BitVec 14) (wbytes : BitVec 40) (s : State) (c : CtxId), unitsRun s = true ∧ atRest s = true ∧ findIn s h = none ∧ xCtx s h = some c ∧ h.kind = 0 ∧ xAccept s c h row64.toNat wbytes.toNat = .ok :=
  ⟨xh1, 0, 0, 0, 1, 0, { s7m with xcmds := [xcX { row64 := 1 }] }, cid0, by decide +kernel, by decide +kernel, by decide +kernel, by decide +kernel, by decide +kernel, by decide +kernel⟩
theorem witness_StreamsOpen_2 : ∃ (h : XHdr) (ncnt : BitVec 16) (nent : BitVec 32) (dbytes : BitVec 40) (row64 : BitVec 14) (wbytes : BitVec 40) (s : State) (c : CtxId), unitsRun s = true ∧ atRest s = true ∧ findIn s h = none ∧ xCtx s h = some c ∧ xAccept s c h row64.toNat wbytes.toNat = .none ∧ isRetained s c h = false :=
  ⟨xh1, 0, 0, 0, 1, 0, s7m, cid0, by decide +kernel, by decide +kernel, by decide +kernel, by decide +kernel, by decide +kernel, by decide +kernel⟩
theorem witness_StreamsOpen_3 : ∃ (h : XHdr) (cells : BitVec 16) (s : State) (o : OutStream), findOut s h (· == .opened) = some o ∧ unitsRun s = true ∧ o.key.kind = 0 ∧ o.dbytes ≠ 0 :=
  ⟨xh1, 256, sOut (oSt 0 .opened), oSt 0 .opened, by decide +kernel, by decide +kernel, by decide +kernel, by decide +kernel⟩
theorem witness_StreamsOpen_4 : ∃ (h : XHdr) (cells : BitVec 16) (s : State) (o : OutStream), findOut s h (· == .opened) = some o ∧ unitsRun s = true ∧ o.key.kind ≠ 0 :=
  ⟨{ xh1 with kind := 1 }, 256, sOut (oSt 1 .opened), oSt 1 .opened, by decide +kernel, by decide +kernel, by decide +kernel⟩
theorem witness_StreamsOpen_5 : ∃ (h : XHdr) (s : State) (o : OutStream), findOut s h (fun st => st == .opened || st == .sending || st == .ended) = some o ∧ unitsRun s = true :=
  ⟨xh1, sOut (oSt 0 .opened), oSt 0 .opened, by decide +kernel, by decide +kernel⟩
theorem witness_StreamsOpen_5b : ∃ (h : XHdr) (s : State) (o : OutStream), findOut s h (fun st => st == .opened || st == .sending || st == .ended) = some o ∧ unitsRun s = true :=
  ⟨xh1, sOut (oSt 0 .ended), oSt 0 .ended, by decide +kernel, by decide +kernel⟩
theorem witness_StreamsOpen_6 : ∃ (h : XHdr) (s : State) (u : State) (o : OutStream), findOut s h (retryDue s.now) = some o ∧ unitsRun s = true ∧ u = putOut s { o with st := .waitOpen } :=
  ⟨xh1, { sOut (oSt 0 (.waitRetry 8000)) with now := 8000 }, _, oSt 0 (.waitRetry 8000), by decide +kernel, by decide +kernel, rfl⟩
theorem witness_StreamsOpen_7 : ∃ (die : XDie) (s : State) (o : OutStream) (rest : List OutStream), openOrder s die = o :: rest ∧ unitsRun s = true ∧ entriesUsed s die < 4096 :=
  ⟨0, sOut (oSt 0 .waitOpen), oSt 0 .waitOpen, [], by decide +kernel, by decide +kernel, by decide +kernel⟩
theorem witness_StreamsOpen_8 : ∃ (h : XHdr) (s : State) (o : OutStream), findOut s h (· == .ended) = some o ∧ unitsRun s = true :=
  ⟨xh1, sOut (oSt 0 .ended), oSt 0 .ended, by decide +kernel, by decide +kernel⟩
theorem witness_CountsAndCreditMove_1 : ∃ (h : XHdr) (seq : BitVec 16) (counts : List CountEntry) (s : State) (c : CtxId) (x : XCmd) (k : XRank), unitsRun s = true ∧ atRest s = true ∧ xCtx s h = some c ∧ findX s c h.xid = some x ∧ findRank x h.srcRank.toNat h.plane = some k ∧ h.kind = 0 ∧ x.sink = false ∧ seq.toNat < ceilDiv k.ncnt 9 ∧ k.seqs.contains seq.toNat = false ∧ counts.any (fun e => decide (x.par.nlocal ≤ e.localIdx.toNat)) = false :=
  ⟨xh1, 0, [ce0], { s7m with xcmds := [xcC 1 []] }, cid0, xcC 1 [], xrk 1 [], by decide +kernel, by decide +kernel, by decide +kernel, by decide +kernel, by decide +kernel, by decide +kernel, by decide +kernel, by decide +kernel, by decide +kernel, by decide +kernel⟩
theorem witness_CountsAndCreditMove_2 : ∃ (h : XHdr) (seq : BitVec 16) (counts : List CountEntry) (s : State) (c : CtxId) (x : XCmd) (k : XRank), atRest s = true ∧ xCtx s h = some c ∧ findX s c h.xid = some x ∧ findRank x h.srcRank.toNat h.plane = some k ∧ k.seqs.contains seq.toNat = true :=
  ⟨xh1, 0, [ce0], { s7m with xcmds := [xcC 1 [0]] }, cid0, xcC 1 [0], xrk 1 [0], by decide +kernel, by decide +kernel, by decide +kernel, by decide +kernel, by decide +kernel⟩
theorem witness_CountsAndCreditMove_3 : ∃ (cid : CtxId) (xid : BitVec 16) (s : State) (u : State) (v : State) (x : XCmd) (ws : List (Nat × Bytes)) (os : List OutStream), findX s cid xid = some x ∧ unitsRun s = true ∧ atRest s = true ∧ x.mode = .dispatch ∧ x.counted = false ∧ x.sink = false ∧ countsIn x = true ∧ writeUni s x.cid.part x.par.rxc (rxcBytes x) = .ok u ∧ countFault { x with counted := true } = none ∧ allWclWrites u { x with counted := true } x.wcl.zipIdx = .ok ws ∧ homeStreams u { x with counted := true } (servedExperts { x with counted := true }) = .ok os ∧ writeUniAll u x.cid.part ((x.par.rorg, leBytes 64 x.p) :: ws) = .ok v :=
  ⟨cid0, 1, { s7m with xcmds := [xcC 1 [0]] }, _, _, xcC 1 [0], _, _, by decide +kernel, by decide +kernel, by decide +kernel, by decide +kernel, by decide +kernel, by decide +kernel, by decide +kernel, eq_ok (by decide +kernel), by decide +kernel, eq_ok (by decide +kernel), eq_ok (by decide +kernel), eq_ok (by decide +kernel)⟩
theorem witness_CountsAndCreditMove_4 : ∃ (h : XHdr) (s : State) (st : InStream), findIn s h = some st ∧ unitsRun s = true ∧ wantsCredit st = true ∧ (getXd s st.key.plane).asks.contains st.key = false :=
  ⟨xh1, sIn (inS xh1 1000), inS xh1 1000, by decide +kernel, by decide +kernel, by decide +kernel, by decide +kernel⟩
theorem witness_CountsAndCreditMove_5 : ∃ (die : XDie) (s : State) (u : State) (st : InStream), nextGrant s (getXd s die).asks = some (u, st) ∧ unitsRun s = true :=
  ⟨0, { sIn (inS xh1 1000) with xds := [(0, { asks := [(inS xh1 1000).key] })] }, _, _, eq_some (by decide +kernel), by decide +kernel⟩
theorem witness_CountsAndCreditMove_6 : ∃ (h : XHdr) (cells : BitVec 16) (s : State) (o : OutStream), findOut s h (· == .sending) = some o ∧ unitsRun s = true :=
  ⟨xh1, 1, sOut (oSt 0 .sending), oSt 0 .sending, by decide +kernel, by decide +kernel⟩
theorem witness_StreamsLandAndEnd_1 : ∃ (h : XHdr) (offset : BitVec 40) (data : Bytes) (s : State) (u : State) (st : InStream), findIn s h = some st ∧ unitsRun s = true ∧ atRest s = true ∧ st.done = false ∧ data.length ≠ 0 ∧ data.length ≤ 2048 ∧ offset.toNat + data.length ≤ min st.dbytes (256 * st.granted) ∧ ivHas st.landed offset.toNat (offset.toNat + data.length) = false ∧ (h.kind ≠ 3 ∨ st.discard = true) ∧ u = spillData s (getXd s st.key.plane) st.cells (offset.toNat - 256 * st.freed) (data.drop (256 * st.freed - offset.toNat)) :=
  ⟨xh1, 0, [1], sIn inG, _, inG, by decide +kernel, by decide +kernel, by decide +kernel, by decide +kernel, by decide +kernel, by decide +kernel, by decide +kernel, by decide +kernel, by decide +kernel, rfl⟩
theorem witness_StreamsLandAndEnd_1b : ∃ (h : XHdr) (offset : BitVec 40) (data : Bytes) (s : State) (u : State) (st : InStream), findIn s h = some st ∧ unitsRun s = true ∧ atRest s = true ∧ st.done = false ∧ data.length ≠ 0 ∧ data.length ≤ 2048 ∧ offset.toNat + data.length ≤ min st.dbytes (256 * st.granted) ∧ ivHas st.landed offset.toNat (offset.toNat + data.length) = false ∧ (h.kind ≠ 3 ∨ st.discard = true) ∧ u = spillData s (getXd s st.key.plane) st.cells (offset.toNat - 256 * st.freed) (data.drop (256 * st.freed - offset.toNat)) :=
  ⟨{ xh1 with kind := 3 }, 999, [1], sIn { inS { xh1 with kind := 3 } 1000 with granted := 256, discard := true }, _, { inS { xh1 with kind := 3 } 1000 with granted := 256, discard := true }, by decide +kernel, by decide +kernel, by decide +kernel, by decide +kernel, by decide +kernel, by decide +kernel, by decide +kernel, by decide +kernel, by decide +kernel, rfl⟩
theorem witness_StreamsLandAndEnd_2 : ∃ (h : XHdr) (offset : BitVec 40) (data : Bytes) (s : State) (st : InStream), findIn s h = some st ∧ ivHas st.landed offset.toNat (offset.toNat + data.length) = true :=
  ⟨xh1, 0, [1], sIn { inG with landed := [(0, 4)] }, { inG with landed := [(0, 4)] }, by decide +kernel, by decide +kernel⟩
theorem witness_StreamsLandAndEnd_3 : ∃ (h : XHdr) (dbytes : BitVec 40) (crc : BitVec 32) (s : State) (st : InStream), findIn s h = some st ∧ unitsRun s = true ∧ atRest s = true ∧ st.done = false ∧ st.ended = none :=
  ⟨xh1, 1000, 0, sIn inG, inG, by decide +kernel, by decide +kernel, by decide +kernel, by decide +kernel, by decide +kernel⟩
theorem witness_StreamsLandAndEnd_4 : ∃ (h : XHdr) (offset : BitVec 40) (bytes : BitVec 32) (s : State) (u : State) (o : OutStream) (run : Bytes) (dst : Coord) (n : Nat) (ps : List Bytes), findOut s h (fun st => st == .sending || st == .ended) = some o ∧ unitsRun s = true ∧ run = (o.data.drop offset.toNat).take bytes.toNat ∧ dst = rankDst s (outHdr s o) ∧ n = packetBytes s dst o.key.plane ∧ ps = pieces n run.length run ∧ dataRefused s o.key.cid dst o.key.plane ps.length = none ∧ u = (ps.zipIdx).foldl (fun t q => sendData t o.key.cid dst o.key.plane (outHead o) (offset.toNat + n * q.2) (offset.toNat + run.length == o.dbytes && q.2 + 1 == ps.length) q.1) s :=
  ⟨xh1, 0, 64, _, _, oSt 0 .sending, _, _, _, _, (by decide +kernel : findOut (sOut (oSt 0 .sending)) xh1 (fun st => st == .sending || st == .ended) = some (oSt 0 .sending)), by decide +kernel, rfl, rfl, rfl, rfl, by decide +kernel, rfl⟩
theorem witness_StreamsLandAndEnd_5 : ∃ (cid : CtxId) (xid : BitVec 16) (s : State) (x : XCmd), findX s cid xid = some x ∧ unitsRun s = true ∧ atRest s = true ∧ x.sink = false ∧ isResident s cid = true ∧ x.since + hangNs s cid ≤ residentClock s cid :=
  ⟨cid0, 1, { s7m with now := 10 ^ 12, xcmds := [xcX {}] }, xcX {}, by decide +kernel, by decide +kernel, by decide +kernel, by decide +kernel, by decide +kernel, by decide +kernel⟩
theorem witness_StreamsLandAndEnd_6 : ∃ (cid : CtxId) (xid : BitVec 16) (token : BitVec 16) (rank : BitVec 4) (row : Bytes) (s : State) (x : Cmb) (st : InStream) (k : Nat), unitsRun s = true ∧ atRest s = true ∧ findCmb s cid xid = some x ∧ returnSource s cid xid token.toNat rank.toNat row = some (st, k) :=
  ⟨cid0, 1, 0, 0, List.replicate 64 0, { sIn inR with cmbs := [cb0] }, cb0, inR, 0, by decide +kernel, by decide +kernel, by decide +kernel, by decide +kernel⟩
theorem witness_StreamsLandAndEnd_7 : ∃ (cid : CtxId) (xid : BitVec 16) (s : State) (x : Cmb) (u : Nat) (ws : List Nat), findCmb s cid xid = some x ∧ unitsRun s = true ∧ atRest s = true ∧ isResident s cid = true ∧ x.since + hangNs s cid ≤ residentClock s cid ∧ stateWords s x = .ok ws ∧ u < ws.length ∧ bitAt (nth 0 ws u) 21 = false ∧ (∀ v, v < u → bitAt (nth 0 ws v) 21 = true) :=
  ⟨cid0, 1, { s7m with now := 10 ^ 12, cmbs := [cb0] }, cb0, 0, _, by decide +kernel, by decide +kernel, by decide +kernel, by decide +kernel, by decide +kernel, eq_ok (by decide +kernel), by decide +kernel, by decide +kernel, fun v hv => absurd hv (Nat.not_lt_zero v)⟩
theorem witness_CellPoolsAreConfigured_1 : ∃ (die : XDie) (unit : Fin 64) (p : PartI) (ptr : BitVec 32) (s : State) (x : XdSt), unitsRun s = true ∧ releaseCell (getXd s die) unit.val p.val ptr = .keeps x :=
  ⟨0, 1, 0, 0, { s7m with xds := [(0, { chains := [chn (.refs 2)] })] }, { chains := [chn (.refs 1)] }, by decide +kernel, by decide +kernel⟩
theorem witness_CellPoolsAreConfigured_2 : ∃ (die : XDie) (unit : Fin 64) (p : PartI) (ptr : BitVec 32) (s : State) (u : State) (h : Chain), unitsRun s = true ∧ releaseCell (getXd s die) unit.val p.val ptr = .frees h ∧ freeChain s die h = (u, true) :=
  ⟨0, 1, 0, 0, { s7m with xds := [(0, { chains := [chn (.owner 1)] })] }, _, chn (.owner 1), by decide +kernel, by decide +kernel, Prod.ext rfl (by decide +kernel)⟩
theorem witness_CellPoolsAreConfigured_2b : ∃ (die : XDie) (unit : Fin 64) (p : PartI) (ptr : BitVec 32) (s : State) (u : State) (h : Chain), unitsRun s = true ∧ releaseCell (getXd s die) unit.val p.val ptr = .frees h ∧ freeChain s die h = (u, true) :=
  ⟨0, 9, 0, 0, { s7m with xds := [(0, { chains := [chn (.refs 1)] })] }, _, chn (.refs 1), by decide +kernel, by decide +kernel, Prod.ext rfl (by decide +kernel)⟩
theorem witness_CellPoolsAreConfigured_3 : ∃ (die : XDie) (unit : Fin 64) (p : PartI) (ptr : BitVec 32) (s : State) (u : State) (h : Chain), unitsRun s = true ∧ releaseCell (getXd s die) unit.val p.val ptr = .frees h ∧ freeChain s die h = (u, false) :=
  ⟨0, 1, 0, 0, { s7m with xds := [(0, { links := [(0, 1)], chains := [{ chn (.owner 1) with tail := 1, count := 2 }] })] }, _, { chn (.owner 1) with tail := 1, count := 2 }, by decide +kernel, by decide +kernel, Prod.ext rfl (by decide +kernel)⟩
theorem witness_CellPoolsAreConfigured_4 : ∃ (die : XDie) (unit : Fin 64) (p : PartI) (ptr : BitVec 32) (s : State) (c : BitVec 16), unitsRun s = true ∧ releaseCell (getXd s die) unit.val p.val ptr = .fails c :=
  ⟨0, 1, 0, 0, s7m, Code.eCellRelease, by decide +kernel, by decide +kernel⟩
theorem witness_CellPoolsAreConfigured_4b : ∃ (die : XDie) (unit : Fin 64) (p : PartI) (ptr : BitVec 32) (s : State) (c : BitVec 16), unitsRun s = true ∧ releaseCell (getXd s die) unit.val p.val ptr = .fails c :=
  ⟨0, 1, 0, 0, { s7m with xds := [(0, { chains := [chn (.owner 0)] })] }, Code.eCellRelease, by decide +kernel, by decide +kernel⟩
theorem witness_CellPoolsAreConfigured_4c : ∃ (die : XDie) (unit : Fin 64) (p : PartI) (ptr : BitVec 32) (s : State) (c : BitVec 16), unitsRun s = true ∧ releaseCell (getXd s die) unit.val p.val ptr = .fails c :=
  ⟨0, 1, 0, 1, s7m, Code.eCellPtr, by decide +kernel, by decide +kernel⟩
theorem witness_CellPoolsAreConfigured_5 : ∃ (port : RlPort) (die : XDie) (p : PartI) (value : BitVec 32) (s : State) (n : Nat), mayWrite s port (6 + p.val) = true ∧ n = bitsOf value.toNat 0 20 ∧ ((upto 8).map (fun q => if q = p.val then 0 else bpmResOf (getXd s die) q)).sum + n ≤ 983040 :=
  ⟨0, 0, 0, 954368, s7m, _, by decide +kernel, rfl, by decide +kernel⟩
theorem witness_CellPoolsAreConfigured_6 : ∃ (port : RlPort) (die : XDie) (p : PartI) (value : BitVec 32) (s : State), mayWrite s port (6 + p.val) = true ∧ 983040 < ((upto 8).map (fun q => if q = p.val then 0 else bpmResOf (getXd s die) q)).sum + bitsOf value.toNat 0 20 :=
  ⟨0, 0, 7, 954369, s7m, by decide +kernel, by decide +kernel⟩
theorem witness_CellPoolsAreConfigured_7 : ∃ (port : RlPort) (die : XDie) (p : PartI) (value : BitVec 64) (s : State), mayWrite s port (6 + p.val) = true ∧ bitsOf value.toNat 44 11 ≤ 1024 ∧ Tbl.get 0 (getXd s die).spUsed p.val = 0 ∧ hbmOwned s p (bitsOf value.toNat 16 28 * 65536) (bitsOf value.toNat 44 11 * 266240) = true :=
  ⟨0, 0, 0, 0, s7m, by decide +kernel, by decide +kernel, by decide +kernel, by decide +kernel⟩
theorem witness_CellPoolsAreConfigured_8 : ∃ (port : RlPort) (die : XDie) (p : PartI) (value : BitVec 64) (s : State), mayWrite s port (6 + p.val) = true ∧ (1024 < bitsOf value.toNat 44 11 ∨ Tbl.get 0 (getXd s die).spUsed p.val ≠ 0) :=
  ⟨0, 0, 0, 2 ^ 44 * 1025, s7m, by decide +kernel, by decide +kernel⟩
theorem witness_CellPoolsAreConfigured_8b : ∃ (port : RlPort) (die : XDie) (p : PartI) (value : BitVec 64) (s : State), mayWrite s port (6 + p.val) = true ∧ (1024 < bitsOf value.toNat 44 11 ∨ Tbl.get 0 (getXd s die).spUsed p.val ≠ 0) :=
  ⟨0, 0, 0, 0, { s7m with xds := [(0, { spUsed := [(0, 1)] })] }, by decide +kernel, by decide +kernel⟩
theorem witness_CollectiveEdgesOpen_1 : ∃ (h : CHdr) (pdig : BitVec 32) (gdig : BitVec 32) (s : State), unitsRun s = true ∧ msgCtxs s h.jtag ≠ [] ∧ findColl s h h.dstRank = none :=
  ⟨ch1, 0, 0, s7m, by decide +kernel, by decide +kernel, by decide +kernel⟩
theorem witness_CollectiveEdgesOpen_2 : ∃ (h : CHdr) (pdig : BitVec 32) (gdig : BitVec 32) (s : State) (k : Coll), unitsRun s = true ∧ msgCtxs s h.jtag ≠ [] ∧ findColl s h h.dstRank = some k ∧ k.over = false ∧ k.pdig = pdig ∧ k.gdig = gdig :=
  ⟨ch1, (kC []).pdig, (kC []).gdig, sK (kC []), kC [], by decide +kernel, by decide +kernel, by decide +kernel, by decide +kernel, by decide +kernel, by decide +kernel⟩
theorem witness_CollectiveEdgesOpen_3 : ∃ (h : CHdr) (pdig : BitVec 32) (gdig : BitVec 32) (s : State) (k : Coll), unitsRun s = true ∧ msgCtxs s h.jtag ≠ [] ∧ findColl s h h.dstRank = some k ∧ k.over = false ∧ (k.pdig ≠ pdig ∨ k.gdig ≠ gdig) :=
  ⟨ch1, (kC []).pdig, (kC []).gdig + 1, sK (kC []), kC [], by decide +kernel, by decide +kernel, by decide +kernel, by decide +kernel, by decide +kernel⟩
theorem witness_CollectiveEdgesOpen_3b : ∃ (h : CHdr) (pdig : BitVec 32) (gdig : BitVec 32) (s : State) (k : Coll), unitsRun s = true ∧ msgCtxs s h.jtag ≠ [] ∧ findColl s h h.dstRank = some k ∧ k.over = false ∧ (k.pdig ≠ pdig ∨ k.gdig ≠ gdig) :=
  ⟨ch1, (kC []).pdig + 1, (kC []).gdig, sK (kC []), kC [], by decide +kernel, by decide +kernel, by decide +kernel, by decide +kernel, by decide +kernel⟩
theorem witness_CollectiveEdgesOpen_4 : ∃ (h : CHdr) (s : State) (k : Coll), unitsRun s = true ∧ atRest s = true ∧ findColl s h h.dstRank = some k ∧ k.edgeSt h.tree.val h.srcRank.toNat = .asked :=
  ⟨ch1, sK (kC [edg .asked]), kC [edg .asked], by decide +kernel, by decide +kernel, by decide +kernel, by decide +kernel⟩
theorem witness_CollectiveEdgesOpen_5 : ∃ (h : CHdr) (s : State) (k : Coll), unitsRun s = true ∧ findColl s h h.dstRank = some k ∧ (k.edgeSt h.tree.val h.srcRank.toNat = .asked ∨ k.edgeSt h.tree.val h.srcRank.toNat = .opened) :=
  ⟨ch1, sK (kC [edg .opened]), kC [edg .opened], by decide +kernel, by decide +kernel, by decide +kernel⟩
theorem witness_CollectiveEdgesOpen_6 : ∃ (h : CHdr) (s : State) (k : Coll) (due : Nat), unitsRun s = true ∧ findColl s h h.srcRank = some k ∧ k.edgeSt h.tree.val h.dstRank.toNat = .waitRetry due ∧ due ≤ s.now :=
  ⟨ch1, { sK (kC [edg (.waitRetry 8000)]) with now := 8000 }, kC [edg (.waitRetry 8000)], 8000, by decide +kernel, by decide +kernel, by decide +kernel, by decide +kernel⟩
theorem witness_CollectiveEdgesOpen_7 : ∃ (h : CHdr) (chunk : BitVec 32) (pass : Fin 4) (s : State) (u : State) (k : Coll) (hit : CollOut → Bool), unitsRun s = true ∧ atRest s = true ∧ findColl s h h.dstRank = some k ∧ hit = (fun o => o.chunk == chunk.toNat && o.pass == pass.val && o.peer == h.srcRank.toNat && o.sent && !o.acked) ∧ k.outs.any hit = true ∧ u = (k.outs.filter hit).foldl (fun t o => dropPart t k o) s :=
  ⟨ch1, 0, 2, sK { kC [] with outs := [cOut 0 true] }, _, { kC [] with outs := [cOut 0 true] }, _, by decide +kernel, by decide +kernel, by decide +kernel, rfl, by decide +kernel, rfl⟩
theorem witness_CollectiveEdgesOpen_8 : ∃ (h : CHdr) (chunk : BitVec 32) (pass : Fin 4) (s : State) (k : Coll) (o : CollOut), unitsRun s = true ∧ findColl s h h.dstRank = some k ∧ k.outs.find? (fun o => o.chunk == chunk.toNat && o.pass == pass.val && o.peer == h.srcRank.toNat && o.sent && !o.acked) = some o :=
  ⟨ch1, 0, 2, sK { kC [] with outs := [cOut 0 true] }, { kC [] with outs := [cOut 0 true] }, cOut 0 true, by decide +kernel, by decide +kernel, by decide +kernel⟩
theorem witness_CollectiveChunksMove_1 : ∃ (h : CHdr) (chunk : BitVec 32) (pass : Fin 4) (s : State) (k : Coll) (x : XdSt) (cells : List CellRun) (a : ChunkAsk) (c : Nat), unitsRun s = true ∧ c = chunk.toNat ∧ h.tree.val = treeOf c ∧ findColl s h h.srcRank = some k ∧ k.expects c pass.val h.dstRank.toNat = true ∧ k.findIn c pass.val h.dstRank.toNat = none ∧ a = k.askOf c pass.val h.dstRank.toNat ∧ takeCells a.cells (getXd s (collDie c)) k.cid.part.val [] = some (x, cells) :=
  ⟨ch1, 0, 2, sK kF, kF, _, _, _, _, by decide +kernel, rfl, by decide +kernel, by decide +kernel, by decide +kernel, by decide +kernel, rfl, eq_some (by decide +kernel)⟩
theorem witness_CollectiveChunksMove_2 : ∃ (h : CHdr) (chunk : BitVec 32) (pass : Fin 4) (s : State) (k : Coll) (o : CollOut), unitsRun s = true ∧ h.tree.val = treeOf chunk.toNat ∧ findColl s h h.srcRank = none ∧ findColl s h h.dstRank = some k ∧ k.outs.find? (fun o => o.chunk == chunk.toNat && o.pass == pass.val && o.peer == h.srcRank.toNat && !o.sent && !o.msg.empty) = some o ∧ k.edgeOpen (treeOf chunk.toNat) h.srcRank.toNat = true :=
  ⟨{ ch1 with srcRank := 1 }, 0, 2, sK kO, kO, cOut 1 false, by decide +kernel, by decide +kernel, by decide +kernel, by decide +kernel, by decide +kernel, by decide +kernel⟩
theorem witness_CollectiveChunksMove_3 : ∃ (h : CHdr) (chunk : BitVec 32) (pass : Fin 4) (offset : BitVec 40) (data : Bytes) (flaw : List (BitVec 48)) (flaw2 : List (BitVec 48)) (s : State) (k : Coll) (i : CollIn), unitsRun s = true ∧ atRest s = true ∧ findColl s h h.dstRank = some k ∧ k.findIn chunk.toNat pass.val h.srcRank.toNat = some i ∧ i.ok = false ∧ i.fin = none ∧ data ≠ [] ∧ data.length ≤ 2048 ∧ offset.toNat + data.length ≤ k.partMax chunk.toNat pass.val :=
  ⟨ch1, 0, 2, 3, [1], [], [], sK kI, kI, newCollIn 0 2 0 [], by decide +kernel, by decide +kernel, by decide +kernel, by decide +kernel, by decide +kernel, by decide +kernel, by decide +kernel, by decide +kernel, by decide +kernel⟩
theorem witness_CollectiveChunksMove_4 : ∃ (h : CHdr) (m : CEndMsg) (r : List (BitVec 48)) (r2 : List (BitVec 48)) (s : State) (k : Coll) (i : CollIn) (j : CollIn), unitsRun s = true ∧ atRest s = true ∧ findColl s h h.dstRank = some k ∧ m.empty = false ∧ k.findIn m.chunk.toNat m.pass.val h.srcRank.toNat = some i ∧ i.ok = false ∧ i.fin = none ∧ h.tree.val = treeOf m.chunk.toNat ∧ j = { i with fin := some m } :=
  ⟨ch1, (mkOut 0 2 0 (some [1, 2, 3, 4]) false false false 0 0).msg, [], [], sK kI, kI, newCollIn 0 2 0 [], _, by decide +kernel, by decide +kernel, by decide +kernel, by decide +kernel, by decide +kernel, by decide +kernel, by decide +kernel, by decide +kernel, rfl⟩
theorem witness_CollectiveChunksMove_5 : ∃ (h : CHdr) (origin : BitVec 16) (reason : BitVec 8) (s : State) (k : Coll), unitsRun s = true ∧ findColl s h h.dstRank = some k ∧ k.done = false :=
  ⟨ch1, 1, 1, sK kF, kF, by decide +kernel, by decide +kernel, by decide +kernel⟩
theorem witness_CollectiveChunksMove_6 : ∃ (cid : CtxId) (coll : BitVec 16) (s : State) (k : Coll) (m : Nat) (ms : List Nat), unitsRun s = true ∧ s.colls.find? (fun k => k.cid == cid && k.id == coll && !k.done) = some k ∧ isResident s cid = true ∧ k.since + hangNs s cid ≤ residentClock s cid ∧ (upto k.nchunk).flatMap k.missing = m :: ms :=
  ⟨cid0, 1, { sK kF with now := 10 ^ 12 }, kF, 0, [], by decide +kernel, by decide +kernel, by decide +kernel, by decide +kernel, by decide +kernel⟩
theorem witness_FabricRecordsStart_1 : ∃ (c : CtxId) (q : Fin 4) (s : State) (v : Nat) (n : Nat) (i : Instr) (op : MsfOp), (i, n, op) ∈ [(Instr.add64 c q, 0x10, MsfOp.add64), (.add32 c q, 0x11, .add32), (.and64 c q, 0x12, .and64), (.or64 c q, 0x13, .or64), (.xor64 c q, 0x14, .xor64), (.smax64 c q, 0x15, .smax64), (.smin64 c q, 0x16, .smin64), (.umax64 c q, 0x17, .umax64), (.umin64 c q, 0x18, .umin64), (.swap64 c q, 0x19, .swap64), (.cas64 c q, 0x1A, .cas64), (.bulkGet c q, 0x20, .bulkGet)] ∧ nextRec s c q = some (.ok v) ∧ bitsOf v 0 8 = n ∧ atRest s = true ∧ (getFq s c q).run = none ∧ (bitAt v 8 = false ∨ (getFq s c q).reqs = []) ∧ startStatus s c v = 0 :=
  ⟨cid0, 0, sFq [(0, 0x10)], pack [(0, 0x10)], 0x10, .add64 cid0 0, .add64, .head _, by decide +kernel, by decide +kernel, by decide +kernel, by decide +kernel, by decide +kernel, by decide +kernel⟩
theorem witness_FabricRecordsStart_1b : ∃ (c : CtxId) (q : Fin 4) (s : State) (v : Nat) (n : Nat) (i : Instr) (op : MsfOp), (i, n, op) ∈ [(Instr.add64 c q, 0x10, MsfOp.add64), (.add32 c q, 0x11, .add32), (.and64 c q, 0x12, .and64), (.or64 c q, 0x13, .or64), (.xor64 c q, 0x14, .xor64), (.smax64 c q, 0x15, .smax64), (.smin64 c q, 0x16, .smin64), (.umax64 c q, 0x17, .umax64), (.umin64 c q, 0x18, .umin64), (.swap64 c q, 0x19, .swap64), (.cas64 c q, 0x1A, .cas64), (.bulkGet c q, 0x20, .bulkGet)] ∧ nextRec s c q = some (.ok v) ∧ bitsOf v 0 8 = n ∧ atRest s = true ∧ (getFq s c q).run = none ∧ (bitAt v 8 = false ∨ (getFq s c q).reqs = []) ∧ startStatus s c v = 0 :=
  ⟨cid0, 0, sFq [(0, 0x20), (32, 3 * 2 ^ 61), (400, 64)], pack [(0, 0x20), (32, 3 * 2 ^ 61), (400, 64)], 0x20, .bulkGet cid0 0, .bulkGet, by simp, by decide +kernel, by decide +kernel, by decide +kernel, by decide +kernel, by decide +kernel, by decide +kernel⟩
theorem witness_FabricRecordsStart_2 : ∃ (c : CtxId) (q : Fin 4) (s : State) (u : State) (v : Nat) (n : Nat) (k : Nat) (bs : Bytes) (i : Instr) (op : MsfOp), (i, n, op, k) ∈ [(Instr.write c q, 0x02, MsfOp.write, 128), (.addAl48 c q, 0x1C, .addAl48, 100), (.bulkPut c q, 0x21, .bulkPut, bitsOf v 400 40)] ∧ nextRec s c q = some (.ok v) ∧ bitsOf v 0 8 = n ∧ atRest s = true ∧ (getFq s c q).run = none ∧ (bitAt v 8 = false ∨ (getFq s c q).reqs = []) ∧ startStatus s c v = 0 ∧ (n = 2 → gSpace (bitsOf v 32 64) ≠ 3) ∧ u = setFq s c q { getFq s c q with next := (getFq s c q).next + 1 } ∧ readUni u c.part (bitsOf v 96 44) k = .ok bs :=
  ⟨cid0, 0, sFq [(0, 2), (96, 256), (272, 1)], _, pack [(0, 2), (96, 256), (272, 1)], 2, 128, _, .write cid0 0, .write, .head _, by decide +kernel, by decide +kernel, by decide +kernel, by decide +kernel, by decide +kernel, by decide +kernel, by decide +kernel, rfl, eq_ok (by decide +kernel)⟩
theorem witness_FabricRecordsStart_2b : ∃ (c : CtxId) (q : Fin 4) (s : State) (u : State) (v : Nat) (n : Nat) (k : Nat) (bs : Bytes) (i : Instr) (op : MsfOp), (i, n, op, k) ∈ [(Instr.write c q, 0x02, MsfOp.write, 128), (.addAl48 c q, 0x1C, .addAl48, 100), (.bulkPut c q, 0x21, .bulkPut, bitsOf v 400 40)] ∧ nextRec s c q = some (.ok v) ∧ bitsOf v 0 8 = n ∧ atRest s = true ∧ (getFq s c q).run = none ∧ (bitAt v 8 = false ∨ (getFq s c q).reqs = []) ∧ startStatus s c v = 0 ∧ (n = 2 → gSpace (bitsOf v 32 64) ≠ 3) ∧ u = setFq s c q { getFq s c q with next := (getFq s c q).next + 1 } ∧ readUni u c.part (bitsOf v 96 44) k = .ok bs :=
  ⟨cid0, 0, sFq [(0, 0x1C), (96, 256)], _, pack [(0, 0x1C), (96, 256)], 0x1C, 100, _, .addAl48 cid0 0, .addAl48, .tail _ (.head _), by decide +kernel, by decide +kernel, by decide +kernel, by decide +kernel, by decide +kernel, by decide +kernel, by decide +kernel, rfl, eq_ok (by decide +kernel)⟩
theorem witness_FabricRecordsStart_2c : ∃ (c : CtxId) (q : Fin 4) (s : State) (u : State) (v : Nat) (n : Nat) (k : Nat) (bs : Bytes) (i : Instr) (op : MsfOp), (i, n, op, k) ∈ [(Instr.write c q, 0x02, MsfOp.write, 128), (.addAl48 c q, 0x1C, .addAl48, 100), (.bulkPut c q, 0x21, .bulkPut, bitsOf v 400 40)] ∧ nextRec s c q = some (.ok v) ∧ bitsOf v 0 8 = n ∧ atRest s = true ∧ (getFq s c q).run = none ∧ (bitAt v 8 = false ∨ (getFq s c q).reqs = []) ∧ startStatus s c v = 0 ∧ (n = 2 → gSpace (bitsOf v 32 64) ≠ 3) ∧ u = setFq s c q { getFq s c q with next := (getFq s c q).next + 1 } ∧ readUni u c.part (bitsOf v 96 44) k = .ok bs :=
  ⟨cid0, 0, sFq [(0, 0x21), (32, 3 * 2 ^ 61), (96, 256), (400, 64)], _, pack [(0, 0x21), (32, 3 * 2 ^ 61), (96, 256), (400, 64)], 0x21, bitsOf (pack [(0, 0x21), (32, 3 * 2 ^ 61), (96, 256), (400, 64)]) 400 40, _, .bulkPut cid0 0, .bulkPut, .tail _ (.tail _ (.head _)), by decide +kernel, by decide +kernel, by decide +kernel, by decide +kernel, by decide +kernel, by decide +kernel, by decide +kernel, rfl, eq_ok (by decide +kernel)⟩
theorem witness_FabricRecordsStart_3 : ∃ (c : CtxId) (q : Fin 4) (s : State) (u : State) (v : Nat) (dst : Coord) (m : ReqMsg), nextRec s c q = some (.ok v) ∧ bitsOf v 0 8 = 0x01 ∧ atRest s = true ∧ (getFq s c q).run = none ∧ (bitAt v 8 = false ∨ (getFq s c q).reqs = []) ∧ startStatus s c v = 0 ∧ u = setFq s c q { getFq s c q with next := (getFq s c q).next + 1 } ∧ dst = gCoord (bitsOf v 32 64) ∧ m = { blankReq u c .read (bitsOf v 32 64) with operand := BitVec.ofNat 64 (bitsOf v 144 64), operand2 := BitVec.ofNat 64 (bitsOf v 208 64), bmask := BitVec.ofNat 128 (bitsOf v 272 128), len := BitVec.ofNat 40 (bitsOf v 400 40) } ∧ gSpace (bitsOf v 32 64) = 3 :=
  ⟨cid0, 0, sFq [(0, 1), (32, 3 * 2 ^ 61), (96, 256)], _, pack [(0, 1), (32, 3 * 2 ^ 61), (96, 256)], _, _, by decide +kernel, by decide +kernel, by decide +kernel, by decide +kernel, by decide +kernel, by decide +kernel, rfl, rfl, rfl, by decide +kernel⟩
theorem witness_FabricRecordsStart_4 : ∃ (c : CtxId) (q : Fin 4) (s : State) (u : State) (v : Nat) (dst : Coord) (m : ReqMsg), nextRec s c q = some (.ok v) ∧ bitsOf v 0 8 = 0x01 ∧ atRest s = true ∧ (getFq s c q).run = none ∧ (bitAt v 8 = false ∨ (getFq s c q).reqs = []) ∧ startStatus s c v = 0 ∧ u = setFq s c q { getFq s c q with next := (getFq s c q).next + 1 } ∧ dst = gCoord (bitsOf v 32 64) ∧ m = { blankReq u c .read (bitsOf v 32 64) with operand := BitVec.ofNat 64 (bitsOf v 144 64), operand2 := BitVec.ofNat 64 (bitsOf v 208 64), bmask := BitVec.ofNat 128 (bitsOf v 272 128), len := BitVec.ofNat 40 (bitsOf v 400 40) } ∧ gSpace (bitsOf v 32 64) ≠ 3 ∧ (gSpace (bitsOf v 32 64) ≠ 1 ∨ forMe u dst = true) :=
  ⟨cid0, 0, sFq [(0, 1), (96, 256)], _, pack [(0, 1), (96, 256)], _, _, by decide +kernel, by decide +kernel, by decide +kernel, by decide +kernel, by decide +kernel, by decide +kernel, rfl, rfl, rfl, by decide +kernel, by decide +kernel⟩
theorem witness_FabricRecordsStart_5 : ∃ (c : CtxId) (q : Fin 4) (s : State) (u : State) (v : Nat) (dst : Coord) (m : ReqMsg), nextRec s c q = some (.ok v) ∧ bitsOf v 0 8 = 0x01 ∧ atRest s = true ∧ (getFq s c q).run = none ∧ (bitAt v 8 = false ∨ (getFq s c q).reqs = []) ∧ startStatus s c v = 0 ∧ u = setFq s c q { getFq s c q with next := (getFq s c q).next + 1 } ∧ dst = gCoord (bitsOf v 32 64) ∧ m = { blankReq u c .read (bitsOf v 32 64) with operand := BitVec.ofNat 64 (bitsOf v 144 64), operand2 := BitVec.ofNat 64 (bitsOf v 208 64), bmask := BitVec.ofNat 128 (bitsOf v 272 128), len := BitVec.ofNat 40 (bitsOf v 400 40) } ∧ gSpace (bitsOf v 32 64) = 1 ∧ forMe u dst = false ∧ cacheFind u dst (gAddr (bitsOf v 32 64) / 128) = none :=
  ⟨cid0, 0, sFq [(0, 1), (32, 2 ^ 61 + 2 ^ 44), (96, 256)], _, pack [(0, 1), (32, 2 ^ 61 + 2 ^ 44), (96, 256)], _, _, by decide +kernel, by decide +kernel, by decide +kernel, by decide +kernel, by decide +kernel, by decide +kernel, rfl, rfl, rfl, by decide +kernel, by decide +kernel, by decide +kernel⟩
theorem witness_FabricRecordsStart_6 : ∃ (c : CtxId) (q : Fin 4) (s : State) (u : State) (v : Nat) (dst : Coord) (m : ReqMsg) (x : _) (w : _), nextRec s c q = some (.ok v) ∧ bitsOf v 0 8 = 0x01 ∧ atRest s = true ∧ (getFq s c q).run = none ∧ (bitAt v 8 = false ∨ (getFq s c q).reqs = []) ∧ startStatus s c v = 0 ∧ u = setFq s c q { getFq s c q with next := (getFq s c q).next + 1 } ∧ dst = gCoord (bitsOf v 32 64) ∧ m = { blankReq u c .read (bitsOf v 32 64) with operand := BitVec.ofNat 64 (bitsOf v 144 64), operand2 := BitVec.ofNat 64 (bitsOf v 208 64), bmask := BitVec.ofNat 128 (bitsOf v 272 128), len := BitVec.ofNat 40 (bitsOf v 400 40) } ∧ gSpace (bitsOf v 32 64) = 1 ∧ forMe u dst = false ∧ cacheFind u dst (gAddr (bitsOf v 32 64) / 128) = some x ∧ writeUni (cacheKeep u dst x.line x.data) c.part (bitsOf v 96 44) x.data = .ok w :=
  ⟨cid0, 0, { sFq [(0, 1), (32, 2 ^ 61 + 2 ^ 44), (96, 256)] with xds := [(0, { cache := [cl0] })] }, _, pack [(0, 1), (32, 2 ^ 61 + 2 ^ 44), (96, 256)], _, _, cl0, _, by decide +kernel, by decide +kernel, by decide +kernel, by decide +kernel, by decide +kernel, by decide +kernel, rfl, rfl, rfl, by decide +kernel, by decide +kernel, by decide +kernel, eq_ok (by decide +kernel)⟩
theorem witness_FabricRecordsStart_7 : ∃ (c : CtxId) (q : Fin 4) (s : State) (u : State) (v : Nat) (bs : Bytes), nextRec s c q = some (.ok v) ∧ bitsOf v 0 8 = 0x02 ∧ atRest s = true ∧ (bitAt v 8 = false ∨ (getFq s c q).reqs = [] ∧ (getFq s c q).run = none) ∧ startStatus s c v = 0 ∧ reqsOut (getFq s c q) + maskPieces (BitVec.ofNat 128 (bitsOf v 272 128)) ≤ 64 ∧ gSpace (bitsOf v 32 64) = 3 ∧ u = setFq s c q { getFq s c q with next := (getFq s c q).next + 1 } ∧ readUni u c.part (bitsOf v 96 44) 128 = .ok bs :=
  ⟨cid0, 0, sFq [(0, 2), (32, 3 * 2 ^ 61), (96, 256), (272, 1)], _, pack [(0, 2), (32, 3 * 2 ^ 61), (96, 256), (272, 1)], _, by decide +kernel, by decide +kernel, by decide +kernel, by decide +kernel, by decide +kernel, by decide +kernel, by decide +kernel, rfl, eq_ok (by decide +kernel)⟩
theorem witness_FabricRecordsStart_8 : ∃ (c : CtxId) (q : Fin 4) (s : State) (v : Nat) (n : Nat) (i : Instr), (i, n) ∈ [(Instr.read c q, 0x01), (.write c q, 0x02), (.add64 c q, 0x10), (.add32 c q, 0x11), (.and64 c q, 0x12), (.or64 c q, 0x13), (.xor64 c q, 0x14), (.smax64 c q, 0x15), (.smin64 c q, 0x16), (.umax64 c q, 0x17), (.umin64 c q, 0x18), (.swap64 c q, 0x19), (.cas64 c q, 0x1A), (.addAl48 c q, 0x1C), (.bulkGet c q, 0x20), (.bulkPut c q, 0x21)] ∧ nextRec s c q = some (.ok v) ∧ bitsOf v 0 8 = n ∧ atRest s = true ∧ (getFq s c q).run = none ∧ (bitAt v 8 = false ∨ (getFq s c q).reqs = []) ∧ startStatus s c v ≠ 0 :=
  ⟨cid0, 0, sFq [(0, 1), (32, 1), (96, 256)], pack [(0, 1), (32, 1), (96, 256)], 1, .read cid0 0, .head _, by decide +kernel, by decide +kernel, by decide +kernel, by decide +kernel, by decide +kernel, by decide +kernel⟩
theorem witness_FabricRecordsStart_8b : ∃ (c : CtxId) (q : Fin 4) (s : State) (v : Nat) (n : Nat) (i : Instr), (i, n) ∈ [(Instr.read c q, 0x01), (.write c q, 0x02), (.add64 c q, 0x10), (.add32 c q, 0x11), (.and64 c q, 0x12), (.or64 c q, 0x13), (.xor64 c q, 0x14), (.smax64 c q, 0x15), (.smin64 c q, 0x16), (.umax64 c q, 0x17), (.umin64 c q, 0x18), (.swap64 c q, 0x19), (.cas64 c q, 0x1A), (.addAl48 c q, 0x1C), (.bulkGet c q, 0x20), (.bulkPut c q, 0x21)] ∧ nextRec s c q = some (.ok v) ∧ bitsOf v 0 8 = n ∧ atRest s = true ∧ (getFq s c q).run = none ∧ (bitAt v 8 = false ∨ (getFq s c q).reqs = []) ∧ startStatus s c v ≠ 0 :=
  ⟨cid0, 0, sFq [(0, 0x20), (32, 3 * 2 ^ 61)], pack [(0, 0x20), (32, 3 * 2 ^ 61)], 0x20, .bulkGet cid0 0, by simp, by decide +kernel, by decide +kernel, by decide +kernel, by decide +kernel, by decide +kernel, by decide +kernel⟩
theorem witness_FabricRecordsStart_9 : ∃ (c : CtxId) (q : Fin 4) (s : State) (u : State) (base : Nat) (log2 : Nat) (bs : Bytes), unitsRun s = true ∧ (getCtx s c).state = .ready ∧ atRest s = true ∧ fqDecl s c q = some (base, log2) ∧ readUni s c.part base 4 = .ok bs ∧ u = setFq s c q { getFq s c q with tail := BitVec.ofNat 32 (leNat bs) } ∧ (nextRec u c q = none ∨ ∃ v, nextRec u c q = some (.ok v) ∧ (msfOpOf (bitsOf v 0 8)).isSome = true) :=
  ⟨cid0, 0, sFq [], _, 0, 1, _, by decide +kernel, by decide +kernel, by decide +kernel, by decide +kernel, eq_ok (by decide +kernel), rfl, .inl (by decide +kernel)⟩
theorem witness_FabricRecordsStart_9b : ∃ (c : CtxId) (q : Fin 4) (s : State) (u : State) (base : Nat) (log2 : Nat) (bs : Bytes), unitsRun s = true ∧ (getCtx s c).state = .ready ∧ atRest s = true ∧ fqDecl s c q = some (base, log2) ∧ readUni s c.part base 4 = .ok bs ∧ u = setFq s c q { getFq s c q with tail := BitVec.ofNat 32 (leNat bs) } ∧ (nextRec u c q = none ∨ ∃ v, nextRec u c q = some (.ok v) ∧ (msfOpOf (bitsOf v 0 8)).isSome = true) :=
  ⟨cid0, 0, wr (sFq [(0, 1)]) 0 [1], _, 0, 1, _, by decide +kernel, by decide +kernel, by decide +kernel, by decide +kernel, eq_ok (by decide +kernel), rfl, .inr ⟨pack [(0, 1)], by decide +kernel, by decide +kernel⟩⟩
theorem witness_FabricRecordsStart_10 : ∃ (c : CtxId) (q : Fin 4) (s : State) (g : GwRun), (getFq s c q).run = some g ∧ unitsRun s = true ∧ atRest s = true ∧ g.lastAt + 2000 ≤ s.now :=
  ⟨cid0, 0, { sFr { run := some gw1 } with now := 2000 }, gw1, by decide +kernel, by decide +kernel, by decide +kernel, by decide +kernel⟩
theorem witness_RequestsAreAnswered_1 : ∃ (m : ReqMsg) (s : State) (c : CtxId), unitsRun s = true ∧ atRest s = true ∧ tagCtx s m.jtag = some c :=
  ⟨rq1, sFq [], cid0, by decide +kernel, by decide +kernel, by decide +kernel⟩
theorem witness_RequestsAreAnswered_2 : ∃ (m : ReqMsg) (s : State) (c : CtxId) (o : OrdEnt) (r : RspMsg), unitsRun s = true ∧ atRest s = true ∧ tagCtx s m.jtag = some c ∧ findOrd s (ordKey m) = some o ∧ sidSeq m.sid = o.high.getD 0 ∧ o.rsps.find? (fun r => r.sid == m.sid) = some r :=
  ⟨rq1, { sFq [] with msf := { order := [or1] } }, cid0, or1, rs1, by decide +kernel, by decide +kernel, by decide +kernel, by decide +kernel, by decide +kernel, by decide +kernel⟩
theorem witness_RequestsAreAnswered_3 : ∃ (m : RspMsg) (s : State) (c : CtxId), unitsRun s = true ∧ atRest s = true ∧ m.cpn = false ∧ tagCtx s m.jtag = some c :=
  ⟨rs1, sFq [], cid0, by decide +kernel, by decide +kernel, by decide +kernel, by decide +kernel⟩
theorem witness_RequestsAreAnswered_4 : ∃ (src : Coord) (jtag : BitVec 16) (sid : BitVec 16) (s : State) (c : CtxId) (r : FReq), unitsRun s = true ∧ tagCtx s jtag = some c ∧ findReq s c src sid = some r :=
  ⟨1, 1, 0, sFr { reqs := [fr1 .read] }, cid0, fr1 .read, by decide +kernel, by decide +kernel, by decide +kernel⟩
theorem witness_RequestsAreAnswered_5 : ∃ (src : Coord) (jtag : BitVec 16) (sid : BitVec 16) (s : State) (c : CtxId) (r : FReq) (due : Nat), unitsRun s = true ∧ atRest s = true ∧ tagCtx s jtag = some c ∧ findReq s c src sid = some r ∧ r.retry = some due ∧ due ≤ s.now :=
  ⟨1, 1, 0, { sFr { reqs := [{ fr1 .read with retry := some 8000 }] } with now := 8000 }, cid0, { fr1 .read with retry := some 8000 }, 8000, by decide +kernel, by decide +kernel, by decide +kernel, by decide +kernel, by decide +kernel, by decide +kernel⟩
theorem witness_RequestsAreAnswered_6 : ∃ (die : XDie) (src : Coord) (jtag : BitVec 16) (cpn : Bool) (port : Fin 2) (q : Fin 4) (s : State) (due : OrdEnt → Bool), unitsRun s = true ∧ due = (fun o => o.key == { src := src, jtag := jtag, cpn := cpn, port := port, q := q } && o.die == die && o.cur.isNone && decide (o.lastAt + 500000000 ≤ s.now)) :=
  ⟨0, 1, 1, false, 0, 0, { sFq [] with now := 500000000, msf := { order := [or1] } }, _, by decide +kernel, rfl⟩
theorem witness_RequestsAreAnswered_7 : ∃ (c : CtxId) (q : Fin 4) (sid : BitVec 16) (s : State) (r : FReq), (getFq s c q).reqs.find? (fun r => r.sid == sid) = some r ∧ unitsRun s = true ∧ atRest s = true ∧ r.since + hangNs s c ≤ residentClock s c :=
  ⟨cid0, 0, 0, { sFr { reqs := [fr1 .read] } with now := 10 ^ 12 }, fr1 .read, by decide +kernel, by decide +kernel, by decide +kernel, by decide +kernel⟩
theorem witness_DirectoryMessagesAct_1 : ∃ (die : XDie) (home : Coord) (addr : BitVec 44) (s : State), unitsRun s = true ∧ addr.toNat / 128 % 2 = die.val :=
  ⟨1, 1, 128, s7m, by decide +kernel, by decide +kernel⟩
theorem witness_DirectoryMessagesAct_2 : ∃ (h : Holder) (addr : BitVec 44) (s : State), unitsRun s = true ∧ atRest s = true :=
  ⟨1, 0, s7m, by decide +kernel, by decide +kernel⟩
theorem witness_DirectoryMessagesAct_3 : ∃ (h : Holder) (addr : BitVec 44) (s : State) (e : DirEnt) (v : BitVec 7), unitsRun s = true ∧ s.msf.wait = none ∧ s.msf.coh = false ∧ s.msf.waiting = [] ∧ dirFind s addr.toNat = some e ∧ e.st = .shared v :=
  ⟨0, 128, sDe (de1 (.shared 3)), de1 (.shared 3), 3, by decide +kernel, by decide +kernel, by decide +kernel, by decide +kernel, by decide +kernel, by decide +kernel⟩
theorem witness_DirectoryMessagesAct_3b : ∃ (h : Holder) (addr : BitVec 44) (s : State) (e : DirEnt) (v : BitVec 7), unitsRun s = true ∧ s.msf.wait = none ∧ s.msf.coh = false ∧ s.msf.waiting = [] ∧ dirFind s addr.toNat = some e ∧ e.st = .shared v :=
  ⟨0, 128, sDe { de1 (.shared 0) with acks := 0 }, { de1 (.shared 0) with acks := 0 }, 0, by decide +kernel, by decide +kernel, by decide +kernel, by decide +kernel, by decide +kernel, by decide +kernel⟩
theorem witness_DirectoryMessagesAct_4 : ∃ (home : Coord) (keep : Bool) (addr : BitVec 44) (port : RlPort) (s : State), unitsRun s = true ∧ rlUp s port = true :=
  ⟨1, true, 0, 0, s7m, by decide +kernel, by decide +kernel⟩
theorem witness_DirectoryMessagesAct_5 : ∃ (h : Holder) (home : Coord) (addr : BitVec 44) (data : Option Bytes) (s : State), unitsRun s = true ∧ atRest s = true ∧ forMe s home = true :=
  ⟨1, 0, 0, none, s7m, by decide +kernel, by decide +kernel, by decide +kernel⟩
theorem witness_DirectoryMessagesAct_6 : ∃ (h : Holder) (home : Coord) (addr : BitVec 44) (data : Option Bytes) (s : State), unitsRun s = true ∧ atRest s = true ∧ forMe s home = false :=
  ⟨1, 1, 0, none, s7m, by decide +kernel, by decide +kernel, by decide +kernel⟩
theorem witness_DirectoryMessagesAct_7 : ∃ (h : Holder) (home : Coord) (addr : BitVec 44) (bs : Bytes) (s : State) (u : State) (e : DirEnt) (keep : Bool), unitsRun s = true ∧ s.msf.wait = none ∧ s.msf.waiting = [] ∧ forMe s home = true ∧ dirFind s addr.toNat = some e ∧ e.st = .modified h ∧ e.recalling = some keep ∧ u = sweepDir (putDir (lineBack { s with msf := { s.msf with coh := true } } addr.toNat bs) { e with st := .shared (if keep then holderBit h else 0), recalling := none }) :=
  ⟨6, 0, 128, List.replicate 128 0, sDe { de1 (.modified 6) with acks := 0, recalling := some true }, _, { de1 (.modified 6) with acks := 0, recalling := some true }, true, by decide +kernel, by decide +kernel, by decide +kernel, by decide +kernel, by decide +kernel, by decide +kernel, by decide +kernel, rfl⟩
theorem witness_DirectoryMessagesAct_8 : ∃ (h : Holder) (home : Coord) (addr : BitVec 44) (s : State), unitsRun s = true ∧ atRest s = true ∧ forMe s home = true :=
  ⟨1, 0, 0, s7m, by decide +kernel, by decide +kernel, by decide +kernel⟩
theorem witness_DirectoryMessagesAct_9 : ∃ (h : Holder) (home : Coord) (addr : BitVec 44) (s : State), unitsRun s = true ∧ atRest s = true ∧ forMe s home = false :=
  ⟨1, 1, 0, s7m, by decide +kernel, by decide +kernel, by decide +kernel⟩
theorem witness_DirectoryMessagesAct_10 : ∃ (h : Holder) (home : Coord) (addr : BitVec 44) (s : State) (e : DirEnt) (v : BitVec 7), unitsRun s = true ∧ s.msf.wait = none ∧ s.msf.coh = false ∧ s.msf.waiting = [] ∧ forMe s home = true ∧ dirFind s addr.toNat = some e ∧ e.st = .shared v :=
  ⟨1, 0, 128, sDe (de1 (.shared 3)), de1 (.shared 3), 3, by decide +kernel, by decide +kernel, by decide +kernel, by decide +kernel, by decide +kernel, by decide +kernel, by decide +kernel⟩
theorem witness_DirectoryMessagesAct_11 : ∃ (h : Holder) (home : Coord) (addr : BitVec 44) (data : Bytes) (s : State), unitsRun s = true ∧ atRest s = true ∧ forMe s home = true :=
  ⟨1, 0, 0, List.replicate 128 0, s7m, by decide +kernel, by decide +kernel, by decide +kernel⟩
theorem witness_DirectoryMessagesAct_12 : ∃ (h : Holder) (home : Coord) (addr : BitVec 44) (data : Bytes) (s : State), unitsRun s = true ∧ atRest s = true ∧ forMe s home = false :=
  ⟨1, 1, 0, List.replicate 128 0, s7m, by decide +kernel, by decide +kernel, by decide +kernel⟩
theorem witness_DirectoryMessagesAct_13 : ∃ (h : Holder) (home : Coord) (addr : BitVec 44) (data : Bytes) (s : State) (u : State) (e : DirEnt), unitsRun s = true ∧ s.msf.wait = none ∧ s.msf.waiting = [] ∧ forMe s home = true ∧ dirFind s addr.toNat = some e ∧ e.st = .modified h ∧ u = sweepDir (putDir (lineBack { s with msf := { s.msf with coh := true } } addr.toNat data) { e with st := .shared (if e.recalling.getD false then holderBit h else 0), recalling := none }) :=
  ⟨6, 0, 128, List.replicate 128 0, sDe { de1 (.modified 6) with acks := 0 }, _, { de1 (.modified 6) with acks := 0 }, by decide +kernel, by decide +kernel, by decide +kernel, by decide +kernel, by decide +kernel, by decide +kernel, rfl⟩
theorem witness_DirectoryMessagesAct_14 : ∃ (src : Coord) (jtag : BitVec 16) (sid : BitVec 16) (bytes : BitVec 40) (crc : BitVec 32) (s : State) (c : CtxId) (r : FReq), unitsRun s = true ∧ atRest s = true ∧ tagCtx s jtag = some c ∧ findReq s c src sid = some r ∧ r.req.op = .bulkGet ∧ r.bend = none :=
  ⟨1, 1, 0, 64, 0, sFr { reqs := [fr1 .bulkGet] }, cid0, fr1 .bulkGet, by decide +kernel, by decide +kernel, by decide +kernel, by decide +kernel, by decide +kernel, by decide +kernel⟩
theorem witness_DirectoryMessagesAct_15 : ∃ (src : Coord) (jtag : BitVec 16) (sid : BitVec 16) (s : State) (c : CtxId) (r : FReq), unitsRun s = true ∧ atRest s = true ∧ tagCtx s jtag = some c ∧ findReq s c src sid = some r ∧ r.req.op = .bulkPut :=
  ⟨1, 1, 0, sFr { reqs := [fr1 .bulkPut] }, cid0, fr1 .bulkPut, by decide +kernel, by decide +kernel, by decide +kernel, by decide +kernel, by decide +kernel⟩
theorem witness_PortsComeUp_1 : ∃ (port : RlPort) (fp : FPort) (value : BitVec 32) (s : State), mayWrite s port (fpSem fp) = true ∧ (getFp s fp.val).state = .disabled ∧ value.getLsbD 0 = true :=
  ⟨0, 0, 1, s7m, by decide +kernel, by decide +kernel, by decide +kernel⟩
theorem witness_PortsComeUp_2 : ∃ (port : RlPort) (fp : FPort) (value : BitVec 32) (s : State), mayWrite s port (fpSem fp) = true ∧ (getFp s fp.val).state = .active ∧ value.getLsbD 0 = true ∧ value.getLsbD 5 = true :=
  ⟨0, 0, 33, sFp { state := .active }, by decide +kernel, by decide +kernel, by decide +kernel, by decide +kernel⟩
theorem witness_PortsComeUp_3 : ∃ (fp : FPort) (sig : BitVec 5) (s : State), linksRun s = true ∧ (getFp s fp.val).state = .detect ∧ (getFp s fp.val).next ≤ s.now :=
  ⟨0, 4, sFp { state := .detect }, by decide +kernel, by decide +kernel, by decide +kernel⟩
theorem witness_PortsComeUp_4 : ∃ (fp : FPort) (s : State), linksRun s = true ∧ (getFp s fp.val).state = .train :=
  ⟨0, sFp { state := .train }, by decide +kernel, by decide +kernel⟩
theorem witness_PortsComeUp_5 : ∃ (fp : FPort) (s : State), linksRun s = true ∧ (getFp s fp.val).state = .align :=
  ⟨0, sFp { state := .align }, by decide +kernel, by decide +kernel⟩
theorem witness_PortsComeUp_6 : ∃ (fp : FPort) (major : Nat) (minor : Nat) (peer : Coord) (peerPort : Nat) (lanes : BitVec 5) (s : State), linksRun s = true ∧ (getFp s fp.val).state = .negotiate ∧ (getFp s fp.val).kfp2 = false ∧ versionOk s.sec.kfpMinor.toNat major minor = true ∧ wiringOk s fp.val peer peerPort = true :=
  ⟨0, 3, 1, 1, 3, 31, sFp { state := .negotiate }, by decide +kernel, by decide +kernel, by decide +kernel, by decide +kernel, by decide +kernel⟩
theorem witness_PortsComeUp_7 : ∃ (fp : FPort) (major : Nat) (minor : Nat) (peer : Coord) (peerPort : Nat) (lanes : BitVec 5) (s : State), linksRun s = true ∧ (getFp s fp.val).state = .negotiate ∧ (getFp s fp.val).kfp2 = false ∧ wiringOk s fp.val peer peerPort = true ∧ versionOk s.sec.kfpMinor.toNat major minor = false :=
  ⟨0, 3, 2, 1, 3, 31, sFp { state := .negotiate }, by decide +kernel, by decide +kernel, by decide +kernel, by decide +kernel, by decide +kernel⟩
theorem witness_PortsComeUp_8 : ∃ (fp : FPort) (major : Nat) (minor : Nat) (peer : Coord) (peerPort : Nat) (lanes : BitVec 5) (s : State), linksRun s = true ∧ (getFp s fp.val).state = .negotiate ∧ (getFp s fp.val).kfp2 = false ∧ wiringOk s fp.val peer peerPort = false ∧ versionOk s.sec.kfpMinor.toNat major minor = true :=
  ⟨0, 3, 1, 2, 3, 31, sFp { state := .negotiate }, by decide +kernel, by decide +kernel, by decide +kernel, by decide +kernel, by decide +kernel⟩
theorem witness_PortsComeUp_9 : ∃ (fp : FPort) (s : State), linksRun s = true ∧ (getFp s fp.val).state = .negotiate ∧ (getFp s fp.val).next ≤ s.now :=
  ⟨0, { sFp { state := .negotiate, next := 100000000 } with now := 100000000 }, by decide +kernel, by decide +kernel, by decide +kernel⟩
theorem witness_PortsComeUp_10 : ∃ (fp : FPort) (s : State) (x : FPortSt), x = getFp s fp.val ∧ linksRun s = true ∧ x.state = .retrain ∧ x.since + 10000000 ≤ s.now :=
  ⟨0, { sFp { state := .retrain } with now := 10000000 }, _, rfl, by decide +kernel, by decide +kernel, by decide +kernel⟩
theorem witness_LanesAndBlocksAct_1 : ∃ (fp : FPort) (r : EqReading) (s : State) (x : FPortSt), x = getFp s fp.val ∧ linksRun s = true ∧ x.state = .active ∧ r.count.toNat ≤ x.swapTh.toNat * 1024 :=
  ⟨0, { lane := 0, count := 65536 }, sFp { state := .active }, _, rfl, by decide +kernel, by decide +kernel, by decide +kernel⟩
theorem witness_LanesAndBlocksAct_2 : ∃ (fp : FPort) (r : EqReading) (s : State) (x : FPortSt), x = getFp s fp.val ∧ linksRun s = true ∧ x.state = .active ∧ x.swapTh.toNat * 1024 < r.count.toNat ∧ (Tbl.get ({} : Lane) x.lanes r.lane.val).above = 2 :=
  ⟨0, { lane := 0, count := 65537 }, sFp { state := .active, lanes := [(0, { above := 2 })] }, _, rfl, by decide +kernel, by decide +kernel, by decide +kernel, by decide +kernel⟩
theorem witness_LanesAndBlocksAct_3 : ∃ (fp : FPort) (lane : Fin 5) (s : State), linksRun s = true ∧ fpUp s fp.val = true :=
  ⟨0, 4, sFp { state := .active }, by decide +kernel, by decide +kernel⟩
theorem witness_LanesAndBlocksAct_4 : ∃ (fp : FPort) (lane : Fin 4) (s : State) (x : FPortSt), linksRun s = true ∧ fpUp s fp.val = true ∧ x = getFp s fp.val ∧ x.spare = 4 ∧ x.swapRx = none ∧ x.dead.getLsbD lane.val = false :=
  ⟨0, 3, sFp { state := .active }, _, by decide +kernel, by decide +kernel, rfl, by decide +kernel, by decide +kernel, by decide +kernel⟩
theorem witness_LanesAndBlocksAct_5 : ∃ (fp : FPort) (lane : Fin 4) (seq : BitVec 10) (s : State), linksRun s = true ∧ fpUp s fp.val = true ∧ (getFp s fp.val).spare = 4 :=
  ⟨0, 3, 0, sFp { state := .active }, by decide +kernel, by decide +kernel, by decide +kernel⟩
theorem witness_LanesAndBlocksAct_6 : ∃ (fp : FPort) (corrected : Nat) (seq : BitVec 10) (ack : BitVec 10) (data : Bytes) (s : State) (u : State) (x : FPortSt), linksRun s = true ∧ fpUp s fp.val = true ∧ x = ackBlocks { getFp s fp.val with fec := satAdd (getFp s fp.val).fec corrected } ack s.now ∧ seq = x.rxSeq ∧ x.swapRx = none ∧ u = setFp s fp.val { x with rxSeq := x.rxSeq + 1, nakAt := none } :=
  ⟨0, 1, 0, 0, [], sFp { state := .active }, _, _, by decide +kernel, by decide +kernel, rfl, by decide +kernel, by decide +kernel, rfl⟩
theorem witness_LanesAndBlocksAct_7 : ∃ (fp : FPort) (corrected : Nat) (seq : BitVec 10) (ack : BitVec 10) (data : Bytes) (s : State), linksRun s = true ∧ fpUp s fp.val = true ∧ (getFp s fp.val).nakAt = none :=
  ⟨0, 16, 0, 0, [], sFp { state := .active }, by decide +kernel, by decide +kernel, by decide +kernel⟩
theorem witness_LanesAndBlocksAct_8 : ∃ (fp : FPort) (corrected : Nat) (seq : BitVec 10) (ack : BitVec 10) (data : Bytes) (s : State) (t : Nat), linksRun s = true ∧ fpUp s fp.val = true ∧ (getFp s fp.val).nakAt = some t :=
  ⟨0, 16, 0, 0, [], sFp { state := .active, nakAt := some 1000 }, 1000, by decide +kernel, by decide +kernel, by decide +kernel⟩
theorem witness_LanesAndBlocksAct_9 : ∃ (fp : FPort) (good : Bool) (corrected : Nat) (seq : BitVec 10) (ack : BitVec 10) (c : Fin 8) (data : Bytes) (s : State) (x : Circ), linksRun s = true ∧ fpUp s fp.val = true ∧ x = Tbl.get {} s.fab.circs (8 * (Fin.ofNat 2 (fpPlane fp.val) : XDie).val + c.val) ∧ x.en = true ∧ x.inp.toNat = fpRole fp.val ∧ x.outp = 24 :=
  ⟨0, false, 0, 0, 0, 7, [], { sFp { state := .active } with fab := { ports := [(0, { state := .active })], circs := [(7, { en := true, inp := 0, outp := 24 })] } }, _, by decide +kernel, by decide +kernel, rfl, by decide +kernel, by decide +kernel, by decide +kernel⟩
theorem witness_LanesAndBlocksAct_10 : ∃ (fp : FPort) (seq : BitVec 10) (s : State), linksRun s = true ∧ fpUp s fp.val = true :=
  ⟨0, 0, sFp { state := .active }, by decide +kernel, by decide +kernel⟩
theorem witness_LanesAndBlocksAct_11 : ∃ (fp : FPort) (s : State) (t : Nat), linksRun s = true ∧ fpUp s fp.val = true ∧ (getFp s fp.val).nakAt = some t ∧ t ≤ s.now :=
  ⟨0, { sFp { state := .active, nakAt := some 1000 } with now := 1000 }, 1000, by decide +kernel, by decide +kernel, by decide +kernel, by decide +kernel⟩
theorem witness_LanesAndBlocksAct_12 : ∃ (fp : FPort) (s : State) (b : Block) (l : List Block), linksRun s = true ∧ fpUp s fp.val = true ∧ (getFp s fp.val).unacked = b :: l ∧ (getFp s fp.val).lastAck + 4000 ≤ s.now :=
  ⟨0, { sFp { state := .active, unacked := [{ seq := 0, pkts := [] }] } with now := 4000 }, { seq := 0, pkts := [] }, [], by decide +kernel, by decide +kernel, by decide +kernel, by decide +kernel⟩
theorem witness_PacketsAndTagsAct_1 : ∃ (fp : FPort) (net : Fin 2) (vc : Fin 2) (slots : Nat) (s : State), linksRun s = true ∧ fpUp s fp.val = true :=
  ⟨0, 1, 1, 512, sFp { state := .active }, by decide +kernel, by decide +kernel⟩
theorem witness_PacketsAndTagsAct_2 : ∃ (fp : FPort) (k : Packet) (s : State), linksRun s = true ∧ fpUp s fp.val = true ∧ bufUsed s fp k.net k.vc + packetSlots k ≤ 512 ∧ coordBad k.dst = false ∧ coordBad k.src = false ∧ forMe s k.dst = true :=
  ⟨0, pkt0, sFp { state := .active }, by decide +kernel, by decide +kernel, by decide +kernel, by decide +kernel, by decide +kernel, by decide +kernel⟩
theorem witness_PacketsAndTagsAct_3 : ∃ (fp : FPort) (k : Packet) (q : Packet) (s : State) (b : TagBind), linksRun s = true ∧ fpUp s fp.val = true ∧ bufUsed s fp k.net k.vc + packetSlots k ≤ 512 ∧ coordBad k.dst = false ∧ coordBad k.src = false ∧ forMe s k.dst = true ∧ crcBad k = false ∧ k.isData = false ∧ k.jtag ≠ 0 ∧ bindOfTag s k.jtag = some b ∧ k.tepoch = b.tepoch ∧ (bindKey s b).bind (openPacket k) = some q :=
  ⟨0, kg1, _, { sFp { state := .active } with tags := tg1 }, { en := true, jtag := 1 }, by decide +kernel, by decide +kernel, by decide +kernel, by decide +kernel, by decide +kernel, by decide +kernel, by decide +kernel, by decide +kernel, by decide +kernel, by decide +kernel, by decide +kernel, eq_some (by decide +kernel)⟩
theorem witness_PacketsAndTagsAct_4 : ∃ (fp : FPort) (k : Packet) (s : State), linksRun s = true ∧ fpUp s fp.val = true ∧ bufUsed s fp k.net k.vc + packetSlots k ≤ 512 ∧ (coordBad k.dst = true ∨ coordBad k.src = true) :=
  ⟨0, { pkt0 with dst := 5 }, sFp { state := .active }, by decide +kernel, by decide +kernel, by decide +kernel, by decide +kernel⟩
theorem witness_PacketsAndTagsAct_4b : ∃ (fp : FPort) (k : Packet) (s : State), linksRun s = true ∧ fpUp s fp.val = true ∧ bufUsed s fp k.net k.vc + packetSlots k ≤ 512 ∧ (coordBad k.dst = true ∨ coordBad k.src = true) :=
  ⟨0, { pkt0 with src := 7 }, sFp { state := .active }, by decide +kernel, by decide +kernel, by decide +kernel, by decide +kernel⟩
theorem witness_PacketsAndTagsAct_5 : ∃ (fp : FPort) (k : Packet) (s : State), linksRun s = true ∧ fpUp s fp.val = true ∧ bufUsed s fp k.net k.vc + packetSlots k ≤ 512 ∧ coordBad k.dst = false ∧ coordBad k.src = false ∧ forMe s k.dst = false ∧ k.hops ≠ 15 :=
  ⟨0, { pkt0 with dst := 1, hops := 14 }, sFp { state := .active }, by decide +kernel, by decide +kernel, by decide +kernel, by decide +kernel, by decide +kernel, by decide +kernel, by decide +kernel⟩
theorem witness_PacketsAndTagsAct_6 : ∃ (fp : FPort) (k : Packet) (s : State), linksRun s = true ∧ fpUp s fp.val = true ∧ bufUsed s fp k.net k.vc + packetSlots k ≤ 512 ∧ coordBad k.dst = false ∧ coordBad k.src = false ∧ forMe s k.dst = false ∧ k.hops = 15 :=
  ⟨0, { pkt0 with dst := 1, hops := 15 }, sFp { state := .active }, by decide +kernel, by decide +kernel, by decide +kernel, by decide +kernel, by decide +kernel, by decide +kernel, by decide +kernel⟩
theorem witness_PacketsAndTagsAct_7 : ∃ (i : Nat) (s : State) (b : BufPkt), s.fab.bufs[i]? = some b ∧ linksRun s = true ∧ b.since + 50000 < s.now :=
  ⟨0, { s7m with now := 50001, fab := { bufs := [bp1] } }, bp1, by decide +kernel, by decide +kernel, by decide +kernel⟩
theorem witness_PacketsAndTagsAct_8 : ∃ (port : RlPort) (die : XDie) (c : Fin 8) (value : BitVec 32) (s : State), mayWrite s port (18 + die.val) = true ∧ circBad s die.val c.val (circOf value) = false :=
  ⟨0, 0, 7, 1 + 7 * 2 ^ 7, s7m, by decide +kernel, by decide +kernel⟩
theorem witness_PacketsAndTagsAct_9 : ∃ (port : RlPort) (die : XDie) (c : Fin 8) (value : BitVec 32) (s : State), mayWrite s port (18 + die.val) = true ∧ circBad s die.val c.val (circOf value) = true :=
  ⟨0, 0, 0, 1 + 8 * 2 ^ 7, s7m, by decide +kernel, by decide +kernel⟩
theorem witness_PacketsAndTagsAct_10 : ∃ (port : RlPort) (value : BitVec 64) (s : State), mayWrite s port 18 = true ∧ (Tbl.get ({} : TagBind) s.tags.binds s.tags.sel.toNat).en = false ∧ value.getLsbD 0 = true ∧ bindBad s (bindFields value) = false :=
  ⟨0, 1 + 5 * 2 ^ 6, s7m, by decide +kernel, by decide +kernel, by decide +kernel, by decide +kernel⟩
theorem witness_PacketsAndTagsAct_11 : ∃ (port : RlPort) (value : BitVec 64) (s : State), mayWrite s port 18 = true ∧ (Tbl.get ({} : TagBind) s.tags.binds s.tags.sel.toNat).en = false ∧ value.getLsbD 0 = true ∧ bindBad s (bindFields value) = true :=
  ⟨0, 1, s7m, by decide +kernel, by decide +kernel, by decide +kernel, by decide +kernel⟩
theorem witness_PacketsAndTagsAct_12 : ∃ (port : RlPort) (value : BitVec 64) (s : State), mayWrite s port 18 = true ∧ (Tbl.get ({} : TagBind) s.tags.binds s.tags.sel.toNat).en = true ∧ value.getLsbD 0 = false :=
  ⟨0, 0, sFq [], by decide +kernel, by decide +kernel, by decide +kernel⟩
theorem witness_PacketsAndTagsAct_13 : ∃ (newer : Bool) (k : Packet) (s : State), linksRun s = true ∧ forMe s k.src = true :=
  ⟨true, pkt0, s7m, by decide +kernel, by decide +kernel⟩
theorem witness_PacketsAndTagsAct_14 : ∃ (i : Nat) (s : State) (u : State) (k : Packet) (due : Nat) (b : TagBind), s.fab.naks[i]? = some (k, due) ∧ linksRun s = true ∧ due ≤ s.now ∧ u = { s with fab := { s.fab with naks := s.fab.naks.eraseIdx i } } ∧ bindOfTag u k.jtag = some b :=
  ⟨0, { s7m with now := 8000, tags := tg1, fab := { naks := [({ pkt0 with jtag := 1 }, 8000)] } }, _, { pkt0 with jtag := 1 }, 8000, tb1, by decide +kernel, by decide +kernel, by decide +kernel, rfl, by decide +kernel⟩
theorem witness_FabricTimeActs_1 : ∃ (child : Coord) (s : State), linksRun s = true ∧ (timeParent s.sec.tmaster child).any (fun q => forMe s q.1) = true :=
  ⟨1, s7m, by decide +kernel, by decide +kernel⟩
theorem witness_FabricTimeActs_2 : ∃ (parent : Coord) (seq : BitVec 16) (t1 : BitVec 64) (s : State), linksRun s = true ∧ (myParent s).any (fun q => q.1 == parent) = true :=
  ⟨0, 0, 0, s7c, by decide +kernel, by decide +kernel⟩
theorem witness_FabricTimeActs_3 : ∃ (child : Coord) (seq : BitVec 16) (t3 : BitVec 64) (s : State), linksRun s = true ∧ (timeParent s.sec.tmaster child).any (fun q => forMe s q.1) = true :=
  ⟨1, 0, 0, s7m, by decide +kernel, by decide +kernel⟩
theorem witness_FabricTimeActs_4 : ∃ (seq : BitVec 16) (t4 : BitVec 64) (corr : BitVec 64) (s : State) (y : FtSync) (a : Int) (b : Int) (e : Int) (d : Int) (p : Nat), s.ft.sync = some y ∧ linksRun s = true ∧ y.seq = seq ∧ a = (y.t2 - y.t1).toInt * 65536 ∧ b = (t4 - y.t3).toInt * 65536 ∧ e = (a - b - corr.toInt) / 2 ∧ d = (a + b - corr.toInt) / 2 ∧ timePort s = some p ∧ d ≤ leastDelay ((d :: s.ft.delays).take 64) + 16 * 65536 :=
  ⟨0, 0, 0, { s7c with ft := { sync := some fs0 } }, fs0, _, _, _, _, _, by decide +kernel, by decide +kernel, by decide +kernel, rfl, rfl, rfl, rfl, eq_some (by decide +kernel), by decide +kernel⟩
theorem witness_FabricTimeActs_5 : ∃ (seq : BitVec 16) (t4 : BitVec 64) (corr : BitVec 64) (s : State) (y : FtSync) (a : Int) (b : Int) (d : Int), s.ft.sync = some y ∧ linksRun s = true ∧ y.seq = seq ∧ a = (y.t2 - y.t1).toInt * 65536 ∧ b = (t4 - y.t3).toInt * 65536 ∧ d = (a + b - corr.toInt) / 2 ∧ leastDelay ((d :: s.ft.delays).take 64) + 16 * 65536 < d :=
  ⟨0, 0, -4194304, { s7c with ft := { sync := some fs0, delays := [0] } }, fs0, _, _, _, by decide +kernel, by decide +kernel, by decide +kernel, rfl, rfl, rfl, by decide +kernel⟩
theorem witness_FabricTimeActs_6 : ∃ (s : State), linksRun s = true ∧ (s.ft.state = .acquire ∨ s.ft.state = .locked) ∧ (s.ft.lastAccept + 1000000 ≤ s.now ∨ timePort s = none) :=
  ⟨{ s7c with now := 1000000, ft := { state := .locked } }, by decide +kernel, by decide +kernel, by decide +kernel⟩
theorem witness_FabricTimeActs_6b : ∃ (s : State), linksRun s = true ∧ (s.ft.state = .acquire ∨ s.ft.state = .locked) ∧ (s.ft.lastAccept + 1000000 ≤ s.now ∨ timePort s = none) :=
  ⟨{ s7m with ft := { state := .acquire } }, by decide +kernel, by decide +kernel, by decide +kernel⟩
theorem witness_FabricTimeActs_7 : ∃ (s : State) (t : Nat), s.ft.farSince = some t ∧ linksRun s = true ∧ s.ft.state = .locked ∧ t + 100000000 ≤ s.now :=
  ⟨{ s7c with now := 100000000, ft := { state := .locked, farSince := some 0 } }, 0, by decide +kernel, by decide +kernel, by decide +kernel, by decide +kernel⟩
theorem witness_FabricTimeActs_8 : ∃ (s : State), linksRun s = true ∧ isTimeMaster s = true ∧ s.ft.state = .master :=
  ⟨{ s7m with ft := { state := .master } }, by decide +kernel, by decide +kernel, by decide +kernel⟩
theorem witness_FabricTimeActs_9 : ∃ (s : State), linksRun s = true ∧ isTimeMaster s = true ∧ s.ft.state ≠ .master :=
  ⟨s7m, by decide +kernel, by decide +kernel, by decide +kernel⟩
theorem witness_FabricTimeActs_10 : ∃ (port : RlPort) (value : BitVec 64) (s : State), mayWrite s port 3 = true ∧ isTimeMaster s = true ∧ s.ft.state = .free :=
  ⟨0, 5, s7m, by decide +kernel, by decide +kernel, by decide +kernel⟩
theorem witness_FabricTimeActs_11 : ∃ (port : RlPort) (value : BitVec 64) (s : State), mayWrite s port 3 = true ∧ (isTimeMaster s = false ∨ s.ft.state ≠ .free) :=
  ⟨0, 5, s7c, by decide +kernel, by decide +kernel⟩
theorem witness_LeasesRunTheirCourse_1 : ∃ (die : CDie) (finds : List ScrubFind) (cellar : BitVec 10) (hbm : BitVec 10) (s : State), unitsRun s = true :=
  ⟨0, [{ piece := 0, correctable := false }], 0, 0, s7m, by decide +kernel⟩
theorem witness_LeasesRunTheirCourse_2 : ∃ (port : RlPort) (i : Fin 16) (value : BitVec 64) (s : State), mayWrite s port 18 = true ∧ (getLend s i.val).state = .idle ∧ lendBad s i.val (lendOf value) = false ∧ value.getLsbD 0 = true ∧ (getLend s i.val).asked = none :=
  ⟨0, 0, 1 + 2 ^ 8 + 2 ^ 25, s7m, by decide +kernel, by decide +kernel, by decide +kernel, by decide +kernel, by decide +kernel⟩
theorem witness_LeasesRunTheirCourse_3 : ∃ (port : RlPort) (i : Fin 16) (value : BitVec 64) (s : State), mayWrite s port 18 = true ∧ lendBad s i.val (lendOf value) = true :=
  ⟨0, 0, 1 + 2 ^ 8 + 17 * 2 ^ 25, s7m, by decide +kernel, by decide +kernel⟩
theorem witness_LeasesRunTheirCourse_4 : ∃ (port : RlPort) (j : Fin 16) (value : BitVec 64) (s : State) (y : Borrow), mayWrite s port 18 = true ∧ y = borrowOf value ∧ (getBorrow s j.val).state = .idle ∧ borrowBad s y = false ∧ value.getLsbD 0 = true :=
  ⟨0, 0, 1 + 2 ^ 4 + 2 ^ 25, s7m, _, by decide +kernel, rfl, by decide +kernel, by decide +kernel, by decide +kernel⟩
theorem witness_LeasesRunTheirCourse_5 : ∃ (m : LeaseMsg) (s : State) (x : Lend), unitsRun s = true ∧ x = getLend s m.lslot.val ∧ x.state = .offered ∧ x.borrower = m.borrower ∧ x.ngran = m.ngran ∧ x.revoke = false :=
  ⟨lm0, sLe { state := .offered, borrower := 1, ngran := 1 }, _, by decide +kernel, rfl, by decide +kernel, by decide +kernel, by decide +kernel, by decide +kernel⟩
theorem witness_LeasesRunTheirCourse_6 : ∃ (m : LeaseMsg) (s : State) (x : Lend), unitsRun s = true ∧ x = getLend s m.lslot.val ∧ x.state = .offered ∧ (x.borrower ≠ m.borrower ∨ x.ngran ≠ m.ngran) :=
  ⟨lm0, sLe { state := .offered, borrower := 1, ngran := 2 }, _, by decide +kernel, rfl, by decide +kernel, by decide +kernel⟩
theorem witness_LeasesRunTheirCourse_7 : ∃ (j : Fin 16) (s : State), unitsRun s = true ∧ (getBorrow s j.val).state = .waiting :=
  ⟨0, sBo { state := .waiting }, by decide +kernel, by decide +kernel⟩
theorem witness_LeasesRunTheirCourse_7b : ∃ (j : Fin 16) (s : State), unitsRun s = true ∧ (getBorrow s j.val).state = .waiting :=
  ⟨0, sBo { state := .waiting }, by decide +kernel, by decide +kernel⟩
theorem witness_LeasesRunTheirCourse_8 : ∃ (j : Fin 16) (s : State), unitsRun s = true ∧ (getBorrow s j.val).state = .waiting :=
  ⟨0, sBo { state := .waiting }, by decide +kernel, by decide +kernel⟩
theorem witness_LeasesRunTheirCourse_8b : ∃ (j : Fin 16) (s : State), unitsRun s = true ∧ (getBorrow s j.val).state = .waiting :=
  ⟨0, sBo { state := .waiting }, by decide +kernel, by decide +kernel⟩
theorem witness_LeasesRunTheirCourse_9 : ∃ (port : RlPort) (i : Fin 16) (s : State), mayWrite s port 18 = true ∧ (getLend s i.val).state = .active :=
  ⟨0, 0, sLe { state := .active, borrower := 1, ngran := 1 }, by decide +kernel, by decide +kernel⟩
theorem witness_LeasesRunTheirCourse_10 : ∃ (port : RlPort) (i : Fin 16) (s : State), mayWrite s port 18 = true ∧ ((getLend s i.val).state = .offered ∨ (getLend s i.val).state = .ending) :=
  ⟨0, 0, sLe { state := .offered }, by decide +kernel, by decide +kernel⟩
theorem witness_LeasesRunTheirCourse_10b : ∃ (port : RlPort) (i : Fin 16) (s : State), mayWrite s port 18 = true ∧ ((getLend s i.val).state = .offered ∨ (getLend s i.val).state = .ending) :=
  ⟨0, 15, { s7m with mem := { lend := [(15, { state := .ending })] } }, by decide +kernel, by decide +kernel⟩
theorem witness_LeasesRunTheirCourse_11 : ∃ (port : RlPort) (j : Fin 16) (s : State) (x : Borrow), unitsRun s = true ∧ x = getBorrow s j.val ∧ x.state = .active :=
  ⟨0, 0, sBo { state := .active, lender := 1, ngran := 1 }, _, by decide +kernel, rfl, by decide +kernel⟩
theorem witness_LeasesRunTheirCourse_12 : ∃ (i : Fin 16) (s : State) (t : Nat), (getLend s i.val).termEnd = some t ∧ unitsRun s = true ∧ t ≤ s.now ∧ (getLend s i.val).state = .active :=
  ⟨0, { sLe { state := .active, termEnd := some 1000000000 } with now := 1000000000 }, 1000000000, by decide +kernel, by decide +kernel, by decide +kernel, by decide +kernel⟩
theorem witness_LeasesRunTheirCourse_13 : ∃ (j : Fin 16) (s : State), unitsRun s = true ∧ (getBorrow s j.val).state = .revoking ∧ (getBorrow s j.val).left = false ∧ (getBorrow s j.val).graceEnd ≤ s.now :=
  ⟨0, sBo { state := .revoking }, by decide +kernel, by decide +kernel, by decide +kernel, by decide +kernel⟩
theorem witness_LeasesRunTheirCourse_14 : ∃ (i : Fin 16) (s : State) (x : Lend), unitsRun s = true ∧ x = getLend s i.val ∧ (x.state = .active ∨ x.state = .ending) :=
  ⟨0, sLe { state := .ending }, _, by decide +kernel, rfl, by decide +kernel⟩
theorem witness_LeasesRunTheirCourse_15 : ∃ (j : Fin 16) (s : State), unitsRun s = true ∧ (getBorrow s j.val).left = true ∧ leaseBusy s j.val = false :=
  ⟨0, sBo { state := .revoking, left := true }, by decide +kernel, by decide +kernel, by decide +kernel⟩
theorem witness_LeasesRunTheirCourse_16 : ∃ (s : State) (t : State) (j : Nat) (i : Nat), t = borrowDrop s j ∧ j < 16 ∧ 581632 + 8192 * j ≤ i ∧ i < 581632 + 8192 * (j + 1) :=
  ⟨s7m, _, 15, 712703, rfl, by decide +kernel, by decide +kernel, by decide +kernel⟩
theorem witness_CoresSwitchContexts_1 : ∃ (p : PartI) (s : State) (u : State) (r : CtxI), (getPart s p).resident = some r ∧ unitsRun s = true ∧ (getPart s p).state = .active ∧ (getPart s p).switching = none ∧ (getPart s p).sliceEnd ≤ s.now ∧ u = renewResidency s p ∧ bestOf u p ((withWork u p).filter (· != r)) = none :=
  ⟨0, s7m, _, 0, by decide +kernel, by decide +kernel, by decide +kernel, by decide +kernel, by decide +kernel, rfl, by decide +kernel⟩
theorem witness_CoresSwitchContexts_2 : ∃ (p : PartI) (s : State) (u : State) (r : CtxI) (c : CtxI), (getPart s p).resident = some r ∧ unitsRun s = true ∧ (getPart s p).state = .active ∧ (getPart s p).switching = none ∧ (getPart s p).sliceEnd ≤ s.now ∧ u = renewResidency s p ∧ bestOf u p ((withWork u p).filter (· != r)) = some c ∧ ranksBefore u p c r = false ∧ hasWork u ⟨p, r⟩ = true :=
  ⟨0, { sC2 with ctxs := [(0, { state := .ready, cmdTail := 1 }), (1, { state := .ready, cmdTail := 1, vt := 1000000000 })] }, _, 0, 1, by decide +kernel, by decide +kernel, by decide +kernel, by decide +kernel, by decide +kernel, rfl, by decide +kernel, by decide +kernel, by decide +kernel⟩
theorem witness_CoresSwitchContexts_3 : ∃ (p : PartI) (s : State) (u : State) (r : CtxI) (c : CtxI), (getPart s p).resident = some r ∧ unitsRun s = true ∧ (getPart s p).state = .active ∧ (getPart s p).switching = none ∧ (getPart s p).sliceEnd ≤ s.now ∧ u = renewResidency s p ∧ bestOf u p ((withWork u p).filter (· != r)) = some c ∧ (ranksBefore u p c r = true ∨ hasWork u ⟨p, r⟩ = false) :=
  ⟨0, sC2, _, 0, 1, by decide +kernel, by decide +kernel, by decide +kernel, by decide +kernel, by decide +kernel, rfl, by decide +kernel, by decide +kernel⟩
theorem witness_CoresSwitchContexts_3b : ∃ (p : PartI) (s : State) (u : State) (r : CtxI) (c : CtxI), (getPart s p).resident = some r ∧ unitsRun s = true ∧ (getPart s p).state = .active ∧ (getPart s p).switching = none ∧ (getPart s p).sliceEnd ≤ s.now ∧ u = renewResidency s p ∧ bestOf u p ((withWork u p).filter (· != r)) = some c ∧ (ranksBefore u p c r = true ∨ hasWork u ⟨p, r⟩ = false) :=
  ⟨0, { sC2 with ctxs := [(0, { state := .ready, cmdTail := 1 }), (1, { state := .ready, cmdTail := 1, high := true })] }, _, 0, 1, by decide +kernel, by decide +kernel, by decide +kernel, by decide +kernel, by decide +kernel, rfl, by decide +kernel, by decide +kernel⟩
theorem witness_CoresSwitchContexts_4 : ∃ (p : PartI) (s : State) (r : CtxI) (n : CtxI), (getPart s p).resident = some r ∧ bestOf s p ((withWork s p).filter (· != r)) = some n ∧ unitsRun s = true ∧ (getPart s p).state = .active ∧ (getPart s p).switching = none ∧ (coresOf (getPart s p)).all (fun k => coreIdles s (getSeq s ⟨p, r⟩ k)) = true :=
  ⟨0, sC2, 0, 1, by decide +kernel, by decide +kernel, by decide +kernel, by decide +kernel, by decide +kernel, by decide +kernel⟩
theorem witness_CoresSwitchContexts_5 : ∃ (p : PartI) (s : State) (u : State) (v : State) (x : Switching) (r : CtxI) (late : Nat) (ends : Nat), (getPart s p).switching = some x ∧ (getPart s p).resident = some r ∧ unitsRun s = true ∧ x.saved = false ∧ (coresOf (getPart s p)).all (fun k => coreStopped (getSeq s ⟨p, r⟩ k)) = true ∧ u = withdrawOpenings ((coresOf (getPart s p)).foldl (fun t k => saveCore t ⟨p, r⟩ k) s) ⟨p, r⟩ ∧ late = (if x.atSliceEnd then s.now - x.stopAt else 0) ∧ ends = s.now + (if x.high then 0 else Config.saveNs u.free) ∧ v = endResidencyAt (setCtx (takeFree u 1) ⟨p, r⟩ { getCtx u ⟨p, r⟩ with overrun := (getCtx u ⟨p, r⟩).overrun + BitVec.ofNat 64 late, lastOverrun := late, savedOnce := true }) p ends :=
  ⟨0, sSw false (some 1), _, _, swt false (some 1), 0, _, _, by decide +kernel, by decide +kernel, by decide +kernel, by decide +kernel, by decide +kernel, rfl, rfl, rfl, rfl⟩
theorem witness_CoresSwitchContexts_6 : ∃ (p : PartI) (s : State) (x : Switching) (r : CtxI), (getPart s p).switching = some x ∧ unitsRun s = true ∧ x.saved = true ∧ x.savedAt ≤ s.now ∧ x.incoming = some r ∧ (getCtx s ⟨p, r⟩).state = .ready :=
  ⟨0, sSw true (some 1), swt true (some 1), 1, by decide +kernel, by decide +kernel, by decide +kernel, by decide +kernel, by decide +kernel, by decide +kernel⟩
theorem witness_CoresSwitchContexts_7 : ∃ (p : PartI) (s : State) (x : Switching) (r : CtxI), (getPart s p).switching = some x ∧ unitsRun s = true ∧ x.saved = true ∧ x.savedAt ≤ s.now ∧ x.incoming = some r ∧ (getCtx s ⟨p, r⟩).state = .ready ∧ (restoreCores s ⟨p, r⟩ (coresOf (getPart s p))).2 = false :=
  ⟨0, { sSw true (some 1) with ctxs := [(1, { state := .ready, savedOnce := true })], mem := { poison := [0] } }, swt true (some 1), 1, by decide +kernel, by decide +kernel, by decide +kernel, by decide +kernel, by decide +kernel, by decide +kernel, by decide +kernel⟩
theorem witness_CoresSwitchContexts_8 : ∃ (p : PartI) (s : State) (x : Switching), (getPart s p).switching = some x ∧ unitsRun s = true ∧ x.saved = true ∧ x.savedAt ≤ s.now ∧ (x.incoming = none ∨ ∃ r, x.incoming = some r ∧ (getCtx s ⟨p, r⟩).state ≠ .ready) :=
  ⟨0, sSw true none, swt true none, by decide +kernel, by decide +kernel, by decide +kernel, by decide +kernel, Or.inl rfl⟩
theorem witness_CoresSwitchContexts_8b : ∃ (p : PartI) (s : State) (x : Switching), (getPart s p).switching = some x ∧ unitsRun s = true ∧ x.saved = true ∧ x.savedAt ≤ s.now ∧ (x.incoming = none ∨ ∃ r, x.incoming = some r ∧ (getCtx s ⟨p, r⟩).state ≠ .ready) :=
  ⟨0, sSw true (some 2), swt true (some 2), by decide +kernel, by decide +kernel, by decide +kernel, by decide +kernel, Or.inr ⟨2, rfl, by decide +kernel⟩⟩
theorem witness_CoresSwitchContexts_9 : ∃ (core : CoreI) (pos : BitVec 32) (listPos : BitVec 32) (s : State) (c : CtxId) (t : Nat) (f : InFlight), coreCtx s core.val = some c ∧ stopAsked s c core.val = some t ∧ (getSeq s c core.val).inflight.find? (fun f => isEntry pos listPos f && f.heldAt.isNone) = some f ∧ unitsRun s = true ∧ fld f.entry.desc 24 2 = 1 ∧ f.capped = false ∧ t + 500000 ≤ s.now :=
  ⟨0, 0, 0, { sSw false (some 1) with now := 500000, seqs := [(0, { inflight := [fly eWh none] })] }, cid0, 0, fly eWh none, by decide +kernel, by decide +kernel, by decide +kernel, by decide +kernel, by decide +kernel, by decide +kernel, by decide +kernel⟩
theorem witness_ProtectionActs_1 : ∃ (port : RlPort) (p : PartI) (value : BitVec 64) (agree : Bool) (cert : Bytes) (s : State) (w : State) (u : State) (bs : Bytes) (r : ResPart) (l : List ProtEntry), mayWrite s port (6 + p.val) = true ∧ value.getLsbD 0 = true ∧ r = getRes s p ∧ r.en = false ∧ r.state = .off ∧ (s.res.mode = 1 ∨ s.res.mode = 2) ∧ agree = true ∧ (getPart s p).state = .active ∧ readUni s p (value.extractLsb' 4 44).toNat 512 = .ok bs ∧ bs.length = 512 ∧ (value.extractLsb' 4 44).toNat % 64 = 0 ∧ l = protTable bs ∧ protTableOk s p (protWords bs) l = true ∧ poolOk s p { r with en := true, ptab := value.extractLsb' 4 44 } l = true ∧ w = (if s.res.role = 0 then takeCert s cert else zeroParity s p l) ∧ u = sealKeys (setRes w p { r with en := true, ptab := value.extractLsb' 4 44, state := .seeding, table := l, seeded := false, dirty := [], old := [], shadow := [] }) p :=
  ⟨0, 0, 1, true, [], sRe { mode := 1 }, _, _, _, _, _, by decide +kernel, by decide +kernel, rfl, by decide +kernel, by decide +kernel, by decide +kernel, by decide +kernel, by decide +kernel, eq_ok (by decide +kernel), by decide +kernel, by decide +kernel, rfl, by decide +kernel, by decide +kernel, rfl, rfl⟩
theorem witness_ProtectionActs_2 : ∃ (port : RlPort) (p : PartI) (value : BitVec 64) (cert : Bytes) (s : State), mayWrite s port (6 + p.val) = true ∧ value.getLsbD 0 = true ∧ (getRes s p).en = false ∧ (getRes s p).state = .off ∧ (s.res.mode = 1 ∨ s.res.mode = 2) :=
  ⟨0, 0, 1, [], sRe { mode := 2 }, by decide +kernel, by decide +kernel, by decide +kernel, by decide +kernel, by decide +kernel⟩
theorem witness_ProtectionActs_3 : ∃ (p : PartI) (s : State) (u : State), unitsRun s = true ∧ (getRes s p).state = .seeding ∧ (getRes s p).seeded = false ∧ u = (if s.res.role = 0 then sendMirrors (seedParity s p) p else s) :=
  ⟨0, sRe { parts := [(0, { state := .seeding })] }, _, by decide +kernel, by decide +kernel, by decide +kernel, rfl⟩
theorem witness_ProtectionActs_4 : ∃ (src : Coord) (p : PartI) (piece : BitVec 32) (whole : Bool) (delta : Bytes) (s : State) (t : State) (l : List (Nat × Nat)), unitsRun s = true ∧ protects s p = true ∧ delta.length = parityPiece ∧ (getRes s p).state = .seeding ∧ places s p (pieceAddr piece.toNat) (xorBytes (pieceBytes s p piece.toNat) delta).length = .ok l ∧ t = writePlaces s l (xorBytes (pieceBytes s p piece.toNat) delta) :=
  ⟨1, 0, 127, true, List.replicate parityPiece 0, sSd, _, [(8323072, parityPiece)], by decide +kernel, by decide +kernel, List.length_replicate, by decide +kernel, places_xor_127 _, rfl⟩
theorem witness_ProtectionActs_5 : ∃ (src : Coord) (p : PartI) (piece : BitVec 32) (delta : Bytes) (s : State), unitsRun s = true ∧ protects s p = true ∧ delta.length = parityPiece ∧ (getRes s p).state ≠ .seeding ∧ (∀ h ∈ (getRes s p).shadow, h.piece ≠ piece.toNat) :=
  ⟨1, 0, 127, List.replicate parityPiece 0, sRe { role := 1, parts := [(0, { state := .prot })] }, by decide +kernel, by decide +kernel, List.length_replicate, by decide +kernel, by decide +kernel⟩
theorem witness_ProtectionActs_6 : ∃ (src : Coord) (p : PartI) (piece : BitVec 32) (delta : Bytes) (s : State) (h : Shadow), unitsRun s = true ∧ protects s p = true ∧ delta.length = parityPiece ∧ (getRes s p).state ≠ .seeding ∧ (getRes s p).shadow.find? (fun h => h.piece == piece.toNat) = some h ∧ h.whole = false :=
  ⟨1, 0, 127, List.replicate parityPiece 0, sRe { role := 1, parts := [(0, { state := .prot, shadow := [{ piece := 127, frame := 0, whole := false }] })] }, _, by decide +kernel, by decide +kernel, List.length_replicate, by decide +kernel, eq_some (by decide +kernel), by decide +kernel⟩
theorem witness_ProtectionActs_7 : ∃ (src : Coord) (p : PartI) (piece : BitVec 32) (s : State), unitsRun s = true ∧ s.res.role = 0 ∧ (getRes s p).state = .prot :=
  ⟨1, 0, 127, sRe { mode := 1, parts := [(0, { state := .prot })] }, by decide +kernel, by decide +kernel, by decide +kernel⟩
theorem witness_ProtectionActs_8 : ∃ (src : Coord) (p : PartI) (addr : BitVec 64) (data : Bytes) (s : State) (m : Mirror) (live : Memory), unitsRun s = true ∧ (protects s p = true ∨ addr.toNat / 2 ^ 60 = 12) ∧ m = getMirror s src p ∧ live = Memory.write m.live addr.toNat data :=
  ⟨1, 0, 64, [7], sRe { role := 1, parts := [(0, { state := .prot })] }, _, _, by decide +kernel, by decide +kernel, rfl, rfl⟩
theorem witness_ProtectionActs_8b : ∃ (src : Coord) (p : PartI) (addr : BitVec 64) (data : Bytes) (s : State) (m : Mirror) (live : Memory), unitsRun s = true ∧ (protects s p = true ∨ addr.toNat / 2 ^ 60 = 12) ∧ m = getMirror s src p ∧ live = Memory.write m.live addr.toNat data :=
  ⟨1, 0, 0xC000000000000000, [7], sRe {}, _, _, by decide +kernel, by decide +kernel, rfl, rfl⟩
theorem witness_ProtectionActs_9 : ∃ (s : State), linksRun s = true :=
  ⟨s7m, by decide +kernel⟩
theorem witness_ProtectionActs_10 : ∃ (who : Coord) (reserve : Option Coord) (s : State) (u : State), unitsRun s = true ∧ who ≠ s.sec.coord ∧ u = lenderFailed (if inTray s who then { s with res := { s.res with heard := s.res.heard &&& ~~~(BitVec.ofNat 5 (2 ^ cSlot who)) } } else s) who ∧ mayTake s who = true :=
  ⟨1, none, sRe { role := 1, mode := 1, parts := [(0, { state := .prot })] }, _, by decide +kernel, by decide +kernel, rfl, by decide +kernel⟩
theorem witness_ProtectionActs_11 : ∃ (who : Coord) (reserve : Option Coord) (s : State) (u : State), unitsRun s = true ∧ who ≠ s.sec.coord ∧ u = lenderFailed (if inTray s who then { s with res := { s.res with heard := s.res.heard &&& ~~~(BitVec.ofNat 5 (2 ^ cSlot who)) } } else s) who ∧ s.res.role = 0 ∧ s.res.mode ≠ 0 ∧ who = protectorOf s :=
  ⟨4, some 8, sRe { mode := 1, protector := 4 }, _, by decide +kernel, by decide +kernel, rfl, by decide +kernel, by decide +kernel, by decide +kernel⟩
theorem witness_ProtectionActs_12 : ∃ (who : Coord) (reserve : Option Coord) (s : State) (u : State), unitsRun s = true ∧ who ≠ s.sec.coord ∧ u = lenderFailed (if inTray s who then { s with res := { s.res with heard := s.res.heard &&& ~~~(BitVec.ofNat 5 (2 ^ cSlot who)) } } else s) who ∧ mayTake s who = false ∧ (s.res.role ≠ 0 ∨ s.res.mode = 0 ∨ who ≠ protectorOf s) :=
  ⟨1, none, sRe { role := 1 }, _, by decide +kernel, by decide +kernel, rfl, by decide +kernel, by decide +kernel⟩
theorem witness_ProtectionActs_12b : ∃ (who : Coord) (reserve : Option Coord) (s : State) (u : State), unitsRun s = true ∧ who ≠ s.sec.coord ∧ u = lenderFailed (if inTray s who then { s with res := { s.res with heard := s.res.heard &&& ~~~(BitVec.ofNat 5 (2 ^ cSlot who)) } } else s) who ∧ mayTake s who = false ∧ (s.res.role ≠ 0 ∨ s.res.mode = 0 ∨ who ≠ protectorOf s) :=
  ⟨4, none, sRe { protector := 4 }, _, by decide +kernel, by decide +kernel, rfl, by decide +kernel, by decide +kernel⟩
theorem witness_ProtectionActs_13 : ∃ (who : Coord) (reserve : Option Coord) (s : State), unitsRun s = true ∧ who ≠ s.sec.coord ∧ mayTake s who = true :=
  ⟨1, some 8, sRe { role := 1, mode := 1, parts := [(0, { state := .prot })] }, by decide +kernel, by decide +kernel, by decide +kernel⟩
theorem witness_ProtectionActs_14 : ∃ (who : Coord) (s : State), unitsRun s = true ∧ who ≠ s.sec.coord ∧ mayTake s who = true :=
  ⟨3, sRe { role := 1, mode := 1, parts := [(0, { state := .prot })] }, by decide +kernel, by decide +kernel, by decide +kernel⟩
theorem witness_ProtectionActs_15 : ∃ (failed : Coord) (inc : BitVec 8) (holder : Coord) (s : State) (t : State) (u : State) (v : State), linksRun s = true ∧ failed ≠ s.sec.coord ∧ t = ((upto 36).filter (fun p => (wiredPeer s.sec.coord p).any (fun q => q.1 == failed.toNat))).foldl (fun t p => setFp t p { getFp t p with en := false, state := .disabled }) s ∧ u = (if incNewer inc (Tbl.get 0 t.fab.inc failed.toNat) then { t with fab := { t.fab with inc := Tbl.set 0 t.fab.inc failed.toNat inc } } else t) ∧ v = (if holder.toNat = failed.toNat / 8 * 8 + 4 then u else writeOverride u failed holder) :=
  ⟨1, 1, 4, s7m, _, _, _, by decide +kernel, by decide +kernel, rfl, rfl, rfl⟩
theorem witness_ProtectionActs_15b : ∃ (failed : Coord) (inc : BitVec 8) (holder : Coord) (s : State) (t : State) (u : State) (v : State), linksRun s = true ∧ failed ≠ s.sec.coord ∧ t = ((upto 36).filter (fun p => (wiredPeer s.sec.coord p).any (fun q => q.1 == failed.toNat))).foldl (fun t p => setFp t p { getFp t p with en := false, state := .disabled }) s ∧ u = (if incNewer inc (Tbl.get 0 t.fab.inc failed.toNat) then { t with fab := { t.fab with inc := Tbl.set 0 t.fab.inc failed.toNat inc } } else t) ∧ v = (if holder.toNat = failed.toNat / 8 * 8 + 4 then u else writeOverride u failed holder) :=
  ⟨1, 200, 8, s7m, _, _, _, by decide +kernel, by decide +kernel, rfl, rfl, rfl⟩
theorem witness_ProtectionActs_16 : ∃ (survivors : Bytes) (pieces : List Nat) (wanted : List Nat) (s : State) (w : State) (t : State) (u : State) (k : Nat) (p : PartI), s.res.role ≠ 0 ∧ wanted = pieces.filter (fun k => s.res.unrebuilt.contains k && !s.res.demand.contains k) ∧ w = { s with res := { s.res with demand := s.res.demand ++ wanted } } ∧ (w.res.demand ++ w.res.unrebuilt).head? = some k ∧ unitsRun s = true ∧ survivors.length = parityPiece ∧ p = Fin.ofNat 8 (k / 2 ^ 26) ∧ writeHome w p (pieceAddr (k % 2 ^ 26)) (xorBytes (pieceBytes w p (k % 2 ^ 26)) survivors) = .ok t ∧ u = { t with res := { t.res with unrebuilt := t.res.unrebuilt.filter (· != k), demand := t.res.demand.filter (· != k) } } :=
  ⟨List.replicate parityPiece 0, [127], _, { sRe {} with res := { role := 1, unrebuilt := [127] } }, _, _, _, 127, _, by decide +kernel, rfl, rfl, by decide +kernel, by decide +kernel, List.length_replicate, rfl, eq_ok (writeHome_127 _), rfl⟩
theorem witness_ProtectionActs_17 : ∃ (survivors : Bytes) (pieces : List Nat) (s : State), s.res.role = 0 ∧ unitsRun s = true :=
  ⟨List.replicate parityPiece 0, [0], sRe { unrebuilt := [0] }, by decide +kernel, by decide +kernel⟩
theorem witness_MeterFramesAndSupplies_1 : ∃ (die : Fin 6) (elapsed : BitVec 32) (energy : BitVec 32) (counts : List QuadCount) (s : State), s.gl.inReset = false :=
  ⟨0, 0, 0, [], s7m, by decide +kernel⟩
theorem witness_MeterFramesAndSupplies_2 : ∃ (lane : Fin 6) (f : Bytes) (s : State) (t : State) (l : MLane) (n : Nat), s.md.powered = true ∧ l = Tbl.get {} s.md.lanes lane.val ∧ frameIntact lane.val f = true ∧ frameSource lane.val f = true ∧ seqMissing l (frameFld f 11 1 == 1) (BitVec.ofNat 32 (frameFld f 16 32)) = some n ∧ (lane.val < 4 → cyclesOk f = true ∧ partMapOk s.md lane.val f = true) ∧ t = { s with md := { s.md with acc := { s.md.acc with missing := s.md.acc.missing + n }, lanes := Tbl.set {} (Tbl.set {} s.md.lanes lane.val { l with seen := true }) lane.val { l with seen := true, prev := some (BitVec.ofNat 32 (frameFld f 16 32)) } } } :=
  ⟨0, fr0, s7e, _, _, 0, by decide +kernel, rfl, fr0_intact, by decide +kernel, by decide +kernel, by decide +kernel, rfl⟩
theorem witness_MeterFramesAndSupplies_3 : ∃ (lane : Fin 6) (f : Bytes) (s : State), s.md.powered = true ∧ (frameIntact lane.val f = false ∨ frameSource lane.val f = false) :=
  ⟨0, [], s7e, by decide +kernel, by decide +kernel⟩
theorem witness_MeterFramesAndSupplies_4 : ∃ (counts : List Nat) (storeBad : Option (BitVec 32)) (s0 : State) (s : State) (u : State) (bits : BitVec 7), s0.md.powered = true ∧ s = (match storeBad with | some o => meterEvent s0 7 o.toNat | none => s0) ∧ u = (upto 6).foldl silentLane (((upto 6).filter (fun k => (Tbl.get {} s.md.lanes k).seen && !clockOk s.md.frames k (counts.getD k 25000000))).foldl dropLane s) ∧ bits = u.md.winBits ||| windowChecks u.md :=
  ⟨[0], none, { s7e with md := { lanes := [(0, { seen := true })] } }, _, _, _, by decide +kernel, rfl, rfl, rfl⟩
theorem witness_MeterFramesAndSupplies_4b : ∃ (counts : List Nat) (storeBad : Option (BitVec 32)) (s0 : State) (s : State) (u : State) (bits : BitVec 7), s0.md.powered = true ∧ s = (match storeBad with | some o => meterEvent s0 7 o.toNat | none => s0) ∧ u = (upto 6).foldl silentLane (((upto 6).filter (fun k => (Tbl.get {} s.md.lanes k).seen && !clockOk s.md.frames k (counts.getD k 25000000))).foldl dropLane s) ∧ bits = u.md.winBits ||| windowChecks u.md :=
  ⟨[], some 5, s7e, _, _, _, by decide +kernel, rfl, rfl, rfl⟩
theorem witness_MeterFramesAndSupplies_5 : ∃ (s : State), s.md.powered = true ∧ boundaryDue s = true :=
  ⟨{ s7e with now := 60000000000 }, by decide +kernel, by decide +kernel⟩
theorem witness_MeterFramesAndSupplies_6 : ∃ (s : State), s.md.powered = true ∧ s.md.sealOpen = false :=
  ⟨s7e, by decide +kernel, by decide +kernel⟩
theorem witness_MeterFramesAndSupplies_7 : ∃ (s : State), s.md.powered = false ∧ s.md.sealOpen = false :=
  ⟨{ s7e with md := { powered := false } }, by decide +kernel, by decide +kernel⟩
theorem witness_MeterFramesAndSupplies_8 : ∃ (s : State), s.md.powered = true :=
  ⟨s7e, by decide +kernel⟩
theorem witness_MeterFramesAndSupplies_9 : ∃ (s : State) (t : State) (u : State), s.md.powered = false ∧ t = heldOpenings s.md.heldOpen { s with md := { s.md with powered := true, heldOpen := 0, heldLoss := false } } ∧ u = (if s.md.heldLoss then meterEvent t 2 0 else t) :=
  ⟨{ s7e with md := { powered := false, heldOpen := 1, heldLoss := true } }, _, _, by decide +kernel, rfl, rfl⟩
theorem witness_MeterFramesAndSupplies_10 : ∃ (s : State) (t : State), s.md.powered = false ∧ t = setCalendar s 0 :=
  ⟨{ s7e with md := { powered := false } }, _, by decide +kernel, rfl⟩
theorem witness_CalendarCommandsAct_1 : ∃ (off : Bool) (s : State) (u : State) (ep : Nat) (diff : Int), s.md.powered = true ∧ s.md.ftlock = true ∧ s.md.epochOk = true ∧ s.md.epoch = some ep ∧ diff = (ep : Int) + (((fabricTime s).toNat / 1000 : Nat) : Int) - utcNow s ∧ u = foldCalendar s ∧ off = false ∧ -secUs < diff ∧ diff < secUs :=
  ⟨false, sCal, _, 0, _, by decide +kernel, by decide +kernel, by decide +kernel, by decide +kernel, rfl, rfl, by decide +kernel, by decide +kernel, by decide +kernel⟩
theorem witness_CalendarCommandsAct_2 : ∃ (off : Bool) (s : State) (u : State) (ep : Nat) (diff : Int), s.md.powered = true ∧ s.md.ftlock = true ∧ s.md.epochOk = true ∧ s.md.epoch = some ep ∧ diff = (ep : Int) + (((fabricTime s).toNat / 1000 : Nat) : Int) - utcNow s ∧ u = foldCalendar s ∧ (off = true ∨ secUs ≤ diff ∨ diff ≤ -secUs) :=
  ⟨true, sCal, _, 0, _, by decide +kernel, by decide +kernel, by decide +kernel, by decide +kernel, rfl, rfl, by decide +kernel⟩
theorem witness_CalendarCommandsAct_2b : ∃ (off : Bool) (s : State) (u : State) (ep : Nat) (diff : Int), s.md.powered = true ∧ s.md.ftlock = true ∧ s.md.epochOk = true ∧ s.md.epoch = some ep ∧ diff = (ep : Int) + (((fabricTime s).toNat / 1000 : Nat) : Int) - utcNow s ∧ u = foldCalendar s ∧ (off = true ∨ secUs ≤ diff ∨ diff ≤ -secUs) :=
  ⟨false, { sCal with md := { sCal.md with epoch := some 1000000 } }, _, 1000000, _, by decide +kernel, by decide +kernel, by decide +kernel, by decide +kernel, rfl, rfl, by decide +kernel⟩
theorem witness_CalendarCommandsAct_3 : ∃ (payload : Bytes) (d : Bytes) (s : State) (u : State), s.md.powered = true ∧ busWrite 0x11 8 payload = some d ∧ u = setCalendar s (leNat d : Int) :=
  ⟨pay 0x11 (leBytes 8 5), leBytes 8 5, s7e, _, by decide +kernel, by decide +kernel, rfl⟩
theorem witness_CalendarCommandsAct_4 : ∃ (payload : Bytes) (d : Bytes) (s : State), s.md.powered = true ∧ busWrite 0x12 8 payload = some d :=
  ⟨pay 0x12 (leBytes 8 5), leBytes 8 5, s7e, by decide +kernel, by decide +kernel⟩
theorem witness_CalendarCommandsAct_5 : ∃ (payload : Bytes) (d : Bytes) (s : State), s.md.powered = true ∧ busWrite 0x13 2 payload = some d :=
  ⟨pay 0x13 (leBytes 2 5), leBytes 2 5, s7e, by decide +kernel, by decide +kernel⟩
theorem witness_CalendarCommandsAct_6 : ∃ (payload : Bytes) (d : Bytes) (s : State) (u : State), s.md.powered = true ∧ busWrite 0x14 4 payload = some d ∧ u = foldCalendar s :=
  ⟨pay 0x14 (leBytes 4 5), leBytes 4 5, s7e, _, by decide +kernel, by decide +kernel, rfl⟩
theorem witness_CalendarCommandsAct_7 : ∃ (payload : Bytes) (s : State), busWrite 0x11 8 payload = none :=
  ⟨[], s7e, by decide +kernel⟩
theorem witness_MeterBusAnswers_1 : ∃ (s : State), s.md.powered = true :=
  ⟨s7e, by decide +kernel⟩
theorem witness_MeterBusAnswers_1b : ∃ (s : State), s.md.powered = true :=
  ⟨s7e, by decide +kernel⟩
theorem witness_MeterBusAnswers_1c : ∃ (s : State), s.md.powered = true :=
  ⟨s7e, by decide +kernel⟩
theorem witness_MeterBusAnswers_2 : ∃ (payload : Bytes) (d : Bytes) (s : State), s.md.powered = true ∧ busWrite 0x01 8 payload = some d :=
  ⟨pay 0x01 (leBytes 8 5), leBytes 8 5, s7e, by decide +kernel, by decide +kernel⟩
theorem witness_MeterBusAnswers_3 : ∃ (payload : Bytes) (d : Bytes) (s : State), s.md.powered = true ∧ busWrite 0x02 8 payload = some d :=
  ⟨pay 0x02 (leBytes 8 5), leBytes 8 5, s7e, by decide +kernel, by decide +kernel⟩
theorem witness_MeterBusAnswers_4 : ∃ (s : State), s.md.powered = true :=
  ⟨s7e, by decide +kernel⟩
theorem witness_MeterBusAnswers_4b : ∃ (s : State), s.md.powered = true :=
  ⟨s7e, by decide +kernel⟩
theorem witness_MeterBusAnswers_4c : ∃ (s : State), s.md.powered = true :=
  ⟨s7e, by decide +kernel⟩
theorem witness_MeterBusAnswers_5 : ∃ (s : State), s.md.powered = true :=
  ⟨s7e, by decide +kernel⟩
theorem witness_MeterBusAnswers_5b : ∃ (s : State), s.md.powered = true :=
  ⟨s7e, by decide +kernel⟩
theorem witness_MeterBusAnswers_5c : ∃ (s : State), s.md.powered = true :=
  ⟨s7e, by decide +kernel⟩
theorem witness_MeterBusAnswers_6 : ∃ (payload : Bytes) (d : Bytes) (s : State) (n : BitVec 32) (c : BitVec 64), s.md.powered = true ∧ busWrite 0x10 12 payload = some d ∧ n = BitVec.ofNat 32 (leNat (d.take 4)) ∧ c = BitVec.ofNat 64 (leNat (d.drop 4)) ∧ (∀ k e, s.md.rep = some (k, e) → n = k + 1) :=
  ⟨pay 0x10 (leBytes 12 5), leBytes 12 5, s7e, _, _, by decide +kernel, by decide +kernel, rfl, rfl, fun _ _ h => by cases h⟩
theorem witness_MeterBusAnswers_7 : ∃ (payload : Bytes) (d : Bytes) (s : State) (n : BitVec 32) (k : BitVec 32) (c : BitVec 64) (e : BitVec 64), s.md.powered = true ∧ busWrite 0x10 12 payload = some d ∧ n = BitVec.ofNat 32 (leNat (d.take 4)) ∧ c = BitVec.ofNat 64 (leNat (d.drop 4)) ∧ s.md.rep = some (k, e) ∧ n ≠ k + 1 :=
  ⟨pay 0x10 (leBytes 12 5), leBytes 12 5, { s7e with md := { rep := some (5, 0) } }, _, 5, _, 0, by decide +kernel, by decide +kernel, rfl, rfl, by decide +kernel, by decide +kernel⟩
theorem witness_MeterBusAnswers_8 : ∃ (r : Bytes) (s : State) (t : State), s.gl.inReset = false ∧ r.length = 512 ∧ t = { s with mtr := { s.mtr with recs := (r :: s.mtr.recs).take 64 } } :=
  ⟨List.replicate 512 0, s7e, _, by decide +kernel, by decide +kernel, rfl⟩
theorem witness_PowerLimitsAct_1 : ∃ (p : BitVec 16) (over_ : Bool) (s : State) (w : Pwr), s.gl.inReset = false ∧ w = weirSample s.pwr p.toNat :=
  ⟨2400, false, s7e, _, by decide +kernel, rfl⟩
theorem witness_PowerLimitsAct_2 : ∃ (s : State) (r : BitVec 7 × BitVec 2 × Bool), s.gl.inReset = false ∧ s.pwr.samples ≠ [] ∧ r = weirStep s.pwr :=
  ⟨{ s7e with pwr := { samples := [2400] } }, _, by decide +kernel, by decide +kernel, rfl⟩
theorem witness_PowerLimitsAct_3 : ∃ (s : State), s.gl.inReset = false ∧ s.pwr.brakePin = false :=
  ⟨s7e, by decide +kernel, by decide +kernel⟩
theorem witness_PowerLimitsAct_5 : ∃ (s : State) (t : Nat), s.pwr.belowSince = some t ∧ s.pwr.brakeInt = true ∧ t + 100000 ≤ s.now :=
  ⟨{ s7e with now := 100000, pwr := { belowSince := some 0, brakeInt := true } }, 0, by decide +kernel, by decide +kernel, by decide +kernel⟩
theorem witness_QuadAndThermalLoopsAct_1 : ∃ (q : QuadI) (k : Fin 4) (s : State), s.gl.inReset = false :=
  ⟨31, 3, s7e, by decide +kernel⟩
theorem witness_QuadAndThermalLoopsAct_2 : ∃ (q : QuadI) (s : State) (t : State), s.gl.inReset = false ∧ t = quadChange s q.val (droopNext (getQuad s q.val) (pinOf s q.val).isSome) :=
  ⟨31, s7e, _, by decide +kernel, rfl⟩
theorem witness_QuadAndThermalLoopsAct_3 : ∃ (q : QuadI) (slow : List Nat) (s : State), s.gl.inReset = false :=
  ⟨31, [1000], s7e, by decide +kernel⟩
theorem witness_QuadAndThermalLoopsAct_4 : ∃ (k : Sensor) (temp : BitVec 16) (s : State) (t : State) (u : State) (y : Sens), s.gl.inReset = false ∧ y = sensAt (getSens s k.val) k.val temp ∧ t = setSens s k.val y ∧ u = (if y.alert = true ∧ (getSens s k.val).alert = false then report t (pwrReport Code.ePwrThermal deferred k.val []) else t) :=
  ⟨0, 1680, s7e, _, _, _, by decide +kernel, rfl, rfl, rfl⟩
theorem witness_QuadAndThermalLoopsAct_5 : ∃ (q : QuadI) (s : State), s.gl.inReset = false :=
  ⟨31, s7e, by decide +kernel⟩
theorem witness_QuadAndThermalLoopsAct_6 : ∃ (temps : List (BitVec 16)) (mr4 : List (BitVec 8)) (s : State) (t : State), linksRun s = true ∧ t = (temps.take 12).zipIdx.foldl refreshStack s :=
  ⟨List.replicate 12 0, List.replicate 8 0, s7e, _, by decide +kernel, rfl⟩
theorem witness_QuadAndThermalLoopsAct_7 : ∃ (port : RlPort) (p : PartI) (value : BitVec 32) (s : State), mayWrite s port (6 + p.val) = true ∧ value.getLsbD 7 = false ∧ 32 ≤ bitsOf value.toNat 0 7 ∧ bitsOf value.toNat 0 7 ≤ 64 :=
  ⟨0, 7, 64, s7, by decide +kernel, by decide +kernel, by decide +kernel, by decide +kernel⟩
theorem witness_QuadAndThermalLoopsAct_8 : ∃ (port : RlPort) (p : PartI) (value : BitVec 32) (s : State) (t : State), mayWrite s port (6 + p.val) = true ∧ value.getLsbD 7 = true ∧ 32 ≤ bitsOf value.toNat 0 7 ∧ bitsOf value.toNat 0 7 ≤ 64 ∧ t = setPart (takeFree s 1) p { getPart s p with pinStep := BitVec.ofNat 7 (bitsOf value.toNat 0 7), pinEn := true } :=
  ⟨0, 7, 128 + 32, s7, _, by decide +kernel, by decide +kernel, by decide +kernel, by decide +kernel, rfl⟩
theorem witness_SelfTestsAndRailsAct_1 : ∃ (q : QuadI) (s : State) (x : QuadPwr), unitsRun s = true ∧ sliceMayStart s q.val = true ∧ x = getQuad s q.val :=
  ⟨0, sQd { stPend := true }, _, by decide +kernel, by decide +kernel, rfl⟩
theorem witness_SelfTestsAndRailsAct_2 : ∃ (q : QuadI) (pass : Bool) (again : Bool) (s : State) (t : State), unitsRun s = true ∧ (getQuad s q.val).slice = true ∧ t = resumeQuad (setQuad s q.val (sliceDone (getQuad s q.val) s.now)) q.val :=
  ⟨0, true, true, sQd { slice := true }, _, by decide +kernel, by decide +kernel, rfl⟩
theorem witness_SelfTestsAndRailsAct_3 : ∃ (port : RlPort) (value : BitVec 32) (s : State), mayWrite s port 1 = true :=
  ⟨0, 1, s7m, by decide +kernel⟩
theorem witness_SelfTestsAndRailsAct_5 : ∃ (l : List PmReading) (s : State), firmwareRuns s = true :=
  ⟨[], s7m, by decide +kernel⟩
theorem witness_SelfTestsAndRailsAct_6 : ∃ (rail : Fin 33) (dev : BitVec 32) (s : State), s.gl.inReset = false :=
  ⟨32, 0, s7m, by decide +kernel⟩
theorem witness_SelfTestsAndRailsAct_7 : ∃ (rail : Fin 33) (dev : BitVec 32) (s : State), s.gl.inReset = false ∧ s.gl.stopped = false :=
  ⟨32, 0, s7m, by decide +kernel, by decide +kernel⟩
theorem witness_ErrorsAreCollected_1 : ∃ (r : Report) (s : State), collects s = true :=
  ⟨rep0, s7m, by decide +kernel⟩
theorem witness_ErrorsAreCollected_2 : ∃ (port : RlPort) (i : Nat) (s : State) (c : Coal), (getRing s port).coal[i]? = some c ∧ collects s = true ∧ c.endsAt ≤ s.now :=
  ⟨0, 0, { s7m with now := 1000, err := { rings := [(0, { coal := [co0] })] } }, co0, by decide +kernel, by decide +kernel, by decide +kernel⟩
theorem witness_ErrorsAreCollected_3 : ∃ (port : RlPort) (s : State), collects s = true ∧ (getRing s port).enabled = true ∧ rlUp s port = true ∧ ringPosOk (getRing s port) (ringHeadLine s port) = true :=
  ⟨0, { s7m with err := { rings := [(0, { enabled := true, tail := 64 })] } }, by decide +kernel, by decide +kernel, by decide +kernel, by decide +kernel⟩
theorem witness_ErrorsAreCollected_4 : ∃ (port : RlPort) (s : State), collects s = true ∧ (getRing s port).enabled = true ∧ rlUp s port = true ∧ ringPosOk (getRing s port) (ringHeadLine s port) = false :=
  ⟨0, { s7m with err := { rings := [(0, { enabled := true, tail := 65 })] } }, by decide +kernel, by decide +kernel, by decide +kernel, by decide +kernel⟩
theorem witness_ErrorsAreCollected_5 : ∃ (port : RlPort) (ring : RlPort) (value : BitVec 32) (s : State), mayWrite s port 4 = true ∧ value.getLsbD 5 = false :=
  ⟨0, 1, 0, s7m, by decide +kernel, by decide +kernel⟩
theorem witness_ErrorsAreCollected_6 : ∃ (port : RlPort) (ring : RlPort) (value : BitVec 32) (s : State) (g : ErrRing) (h : BitVec 32), mayWrite s port 4 = true ∧ value.getLsbD 5 = true ∧ g = { getRing s ring with log2 := value.extractLsb' 0 5, en := true } ∧ ringSetOk g = true ∧ h = ringHeadLine (setRing s ring g) ring :=
  ⟨0, 1, 32 + 6, s7m, _, _, by decide +kernel, by decide +kernel, rfl, by decide +kernel, rfl⟩
theorem witness_ErrorsAreCollected_7 : ∃ (s : State) (n : Nat) (rise : Bool), unitsRun s = true ∧ n = min (2 ^ 32 - 1) (s.err.risk.toNat * 7 / 8 + s.err.minute) ∧ rise = (s.err.riskArmed && decide (0 < s.err.riskTh.toNat) && decide (s.err.riskTh.toNat ≤ n)) :=
  ⟨s7m, _, _, by decide +kernel, rfl, rfl⟩
theorem witness_StepRunsTheFrontCommand_1 : ∃ (c : Instr) (rest : List Instr) (s : State), s.pending = c :: rest :=
  ⟨.deviceReset, [.riskUpdate], { s7m with pending := [.deviceReset, .riskUpdate] }, by decide +kernel⟩
theorem witness_StepRunsTheFrontCommand_2 : ∃ (s : State), s.pending = [] ∧ nextOwn s = none :=
  ⟨s7m, by decide +kernel, by decide +kernel⟩
theorem witness_StepRunsTheFrontCommand_3 : ∃ (s : State) (t : State) (c : Option Instr) (ks : List Packet), s.pending = [] ∧ s.fab.raised = [] ∧ s.fab.delivered.findSome? (packetUse s) = some (c, ks) ∧ t = takeUp s ks :=
  ⟨{ s7m with fab := { delivered := [{ pkt0 with unit := 7 }] } }, _, none, [{ pkt0 with unit := 7 }], by decide +kernel, by decide +kernel, rfl, rfl⟩
theorem witness_StepRunsTheFrontCommand_3b : ∃ (s : State) (t : State) (c : Option Instr) (ks : List Packet), s.pending = [] ∧ s.fab.raised = [] ∧ s.fab.delivered.findSome? (packetUse s) = some (c, ks) ∧ t = takeUp s ks :=
  ⟨{ s7m with fab := { delivered := [kc2] } }, _, some (.cready (cHdrOf kc2)), [kc2], by decide +kernel, by decide +kernel, rfl, rfl⟩
theorem witness_ReleaseNeedsHolderAndTicket_1 : ∃ (port : RlPort) (n : Fin 32) (value : BitVec 64) (s : State), semAnswers s port n.val = true ∧ ((getSem s n.val).held = false ∨ s.now < (getSem s n.val).leaseEnd) :=
  ⟨0, 19, 1, s7, by decide +kernel, by decide +kernel⟩
theorem witness_ReleaseNeedsHolderAndTicket_1b : ∃ (port : RlPort) (n : Fin 32) (value : BitVec 64) (s : State), semAnswers s port n.val = true ∧ ((getSem s n.val).held = false ∨ s.now < (getSem s n.val).leaseEnd) :=
  ⟨0, 31, 1, s7, by decide +kernel, by decide +kernel⟩
theorem witness_ReleaseNeedsHolderAndTicket_2 : ∃ (port : RlPort) (n : Fin 32) (value : BitVec 64) (s : State), semAnswers s port n.val = true ∧ (getSem s n.val).held = true ∧ (getSem s n.val).leaseEnd ≤ s.now :=
  ⟨0, 19, 1, { s7 with now := 1000000 }, by decide +kernel, by decide +kernel, by decide +kernel⟩
theorem witness_ReleaseNeedsHolderAndTicket_3 : ∃ (port : RlPort) (n : Fin 32) (value : BitVec 64) (s : State), semAnswers s port n.val = false :=
  ⟨0, 3, 1, { s7 with sec := {} }, by decide +kernel⟩
theorem witness_LeasesLastAndRunOut_1 : ∃ (port : RlPort) (value : BitVec 64) (s : State) (u : State), mayWrite s port 0 = true ∧ u = noteTie s port 0x200 :=
  ⟨0, 5, s7, _, by decide +kernel, rfl⟩
theorem witness_LeasesLastAndRunOut_2 : ∃ (port : RlPort) (n : Fin 32) (s : State), semAnswers s port n.val = true ∧ ((getSem s n.val).held = false ∨ (getSem s n.val).owner = port ∧ s.now < (getSem s n.val).leaseEnd) :=
  ⟨0, 19, { s7 with now := 999999 }, by decide +kernel, by decide +kernel⟩
theorem witness_LeasesLastAndRunOut_3 : ∃ (n : Fin 32) (s : State), (getSem s n.val).held = true ∧ (getSem s n.val).leaseEnd ≤ s.now ∧ s.sec.stage = 7 :=
  ⟨19, { s7 with now := 1000000 }, by decide +kernel, by decide +kernel, by decide +kernel⟩
theorem witness_WeirBucketsAndLevel_1 : ∃ (p : BitVec 16) (railOver : Bool) (s : State), s.gl.inReset = false :=
  ⟨2400, true, s7, by decide +kernel⟩
theorem witness_WeirBucketsAndLevel_2 : ∃ (port : RlPort) (value : BitVec 64) (s : State) (u : State), mayWrite s port 1 = true ∧ u = noteTie s port 0x3300018 :=
  ⟨0, 2300, s7, _, by decide +kernel, rfl⟩
theorem witness_GuardedWritesNeedTheirSemaphore_1 : ∃ (port : RlPort) (offset : BitVec 26) (wide : Bool) (value : BitVec 64) (s : State) (u : State) (r : Reg) (upper : Bool) (n : Nat), windowOpen s port = true ∧ aligned offset.toNat wide = true ∧ regHit offset.toNat wide = some (r, upper) ∧ (wide = true ∨ r.sideEffect64 = false) ∧ r.guard = some n ∧ holdsSem s port n = false ∧ ((getSem s n).held = false ∨ s.now < (getSem s n).leaseEnd) ∧ u = noteTie s port offset.toNat :=
  ⟨1, 0x40, true, 5, s7, _, .glScratch 0, false, 0, by decide +kernel, by decide +kernel, by decide +kernel, by decide +kernel, by decide +kernel, by decide +kernel, by decide +kernel, rfl⟩
theorem witness_GuardedWritesNeedTheirSemaphore_2 : ∃ (r : Reg) (n : Nat), r.guard = some n :=
  ⟨.glScratch 0, 0, by decide +kernel⟩
theorem witness_StoresLandWhereTheyShould_1 : ∃ (s : State) (t : State) (u : State) (p : PartI) (a : Nat) (bs : Bytes) (l : List (Nat × Nat)), places s p a bs.length = .ok l ∧ writeUni s p a bs = .ok t ∧ u = protectRun (bs.length / pageSize + 2) s p a bs :=
  ⟨s7m, _, _, 0, 0, [1, 2], [(0, 2)], by decide +kernel, eq_ok (by decide +kernel), rfl⟩
theorem witness_StoresLandWhereTheyShould_2 : ∃ (s : State) (p : PartI) (k : Nat) (x : Nat), (∀ l, places s p ((getRes s p).poolBase.toNat + parityPiece * poolFree (getRes s p)) parityPiece = .ok l → Apart l x) :=
  ⟨s7m, 0, 0, 2097152, apart_touch⟩
theorem witness_StoresLandWhereTheyShould_3 : ∃ (s : State) (t : State) (p : PartI) (a : Nat) (bs : Bytes) (f : Nat), places s p a bs.length = .ok [(f, bs.length)] ∧ f < 2 ^ 44 ∧ writeUni s p a bs = .ok t :=
  ⟨s7m, _, 0, 0, [1, 2], 0, by decide +kernel, by decide +kernel, eq_ok (by decide +kernel)⟩
theorem witness_StoresLandWhereTheyShould_4 : ∃ (s : State) (f : Nat) (l : Nat) (bs : Bytes), 2 ^ 37 ≤ l ∧ l < 2 ^ 38 ∧ lineCtr s l < 2 ^ 32 - 1 :=
  ⟨s7m, 2 ^ 44, 2 ^ 37, [1, 2], by decide +kernel, by decide +kernel, by decide +kernel⟩
theorem witness_StoresLandWhereTheyShould_4b : ∃ (s : State) (f : Nat) (l : Nat) (bs : Bytes), 2 ^ 37 ≤ l ∧ l < 2 ^ 38 ∧ lineCtr s l < 2 ^ 32 - 1 :=
  ⟨s7m, 2 ^ 45 - 1, 2 ^ 38 - 1, [1], by decide +kernel, by decide +kernel, by decide +kernel⟩

end Sys2Proof.Tests
end

/-! PROOFS. Hardware semaphores: release (R290) and leases (R291). -/

namespace Sys2Proof.Machine

/-! ### A report on one ring leaves the global registers alone -/

/-- A fold keeps the global registers when each of its steps does. -/
theorem foldl_gl {α : Type} {f : State → α → State} (h : ∀ t x, (f t x).gl = t.gl) (l : List α) (s : State) :
    (l.foldl f s).gl = s.gl := by
  induction l generalizing s with
  | nil => rfl
  | cons x l ih => rw [List.foldl_cons, ih, h]

@[simp] theorem setRing_gl (s : State) (p : RlPort) (g : ErrRing) : (setRing s p g).gl = s.gl := rfl

@[simp] theorem writeComp_gl (s : State) (p : RlPort) (a : Nat) (bs : Bytes) : (writeComp s p a bs).gl = s.gl := by
  unfold writeComp
  split <;> rfl

@[simp] theorem ringWrite_gl (s : State) (p : RlPort) (r : ErrRec) : (ringWrite s p r).gl = s.gl := by simp [ringWrite]

@[simp] theorem ringDrop_gl (s : State) (p : RlPort) (cls : Fin 5) (n : Nat) : (ringDrop s p cls n).gl = s.gl := rfl

@[simp] theorem ringOffer_gl (s : State) (p : RlPort) (r : ErrRec) : (ringOffer s p r).gl = s.gl := by
  unfold ringOffer
  split <;> simp

@[simp] theorem ringFatal_gl (s : State) (p : RlPort) (r : ErrRec) : (ringFatal s p r).gl = s.gl := by
  unfold ringFatal
  split <;> simp

@[simp] theorem coalClose_gl (s : State) (p : RlPort) (c : Coal) : (coalClose s p c).gl = s.gl := by
  unfold coalClose
  dsimp only
  split <;> simp

@[simp] theorem coalExpire_gl (s : State) (p : RlPort) : (coalExpire s p).gl = s.gl :=
  foldl_gl (fun t c => coalClose_gl t p c) _ s

@[simp] theorem ringReport_gl (s : State) (p : RlPort) (r : ErrRec) : (ringReport s p r).gl = s.gl := by
  unfold ringReport
  dsimp only
  repeat' split
  all_goals simp

@[simp] theorem toRings_gl (s : State) (r : Report) : (toRings s r).gl = s.gl :=
  foldl_gl (fun t p => ringReport_gl t p _) _ s

/-- A report about a port or semaphore is DEFERRED and names no context: it reaches its ring and tears nothing down. -/
@[simp] theorem report_portReport_gl (s : State) (code : BitVec 16) (p : RlPort) (d : List (BitVec 32)) :
    (report s (portReport code p d)).gl = s.gl := by
  unfold report reportRej
  split
  · rfl
  · exact toRings_gl _ _

/-! ### A lease that has run out -/

@[simp] theorem getSem_loseSem (s : State) (n m : Nat) :
    getSem (loseSem s n) m = if m = n then { getSem s n with held := false, expired := true } else getSem s m :=
  getSem_setSem s n m _

@[simp] theorem setSem_now (s : State) (n : Nat) (x : Sem) : (setSem s n x).now = s.now := rfl

theorem getSem_of_gl_eq {s t : State} (h : t.gl = s.gl) (n : Nat) : getSem t n = getSem s n := by rw [getSem, h, getSem]

@[simp] theorem getSem_semReport_portReport (s : State) (code : BitVec 16) (p : RlPort) (d : List (BitVec 32)) (n : Nat) :
    getSem (semReport s (portReport code p d)) n = getSem s n := by
  unfold semReport
  split
  · exact getSem_of_gl_eq (report_portReport_gl ..) n
  · rfl

/-- A lease that has run out leaves its semaphore free (R291). -/
theorem held_expireSem_of_expired {s : State} {n : Nat} (hheld : (getSem s n).held = true)
    (hend : (getSem s n).leaseEnd ≤ s.now) : (getSem (expireSem s n) n).held = false := by
  simp [expireSem, hheld, hend]

/-! ### Release (R290) -/

/-- On a semaphore that is free, or whose lease runs, a release is R290's rule itself. -/
theorem semReleaseWrite_of_live {s : State} {port : RlPort} {n : Nat} {value : BitVec 64}
    (h : (getSem s n).held = false ∨ s.now < (getSem s n).leaseEnd) :
    semReleaseWrite s port n value =
      if value.getLsbD 0 = true ∧ holdsSem s port n = true ∧ value.extractLsb' 16 16 = (getSem s n).ticket then
        setSem s n { getSem s n with held := false }
      else s := by
  simp only [semReleaseWrite, expireSem_of_live h]

/-- A release that comes after the lease has run out only ends the lease: the write then finds the semaphore free. -/
theorem semReleaseWrite_of_expired {s : State} {port : RlPort} {n : Nat} {value : BitVec 64}
    (hheld : (getSem s n).held = true) (hend : (getSem s n).leaseEnd ≤ s.now) :
    semReleaseWrite s port n value = expireSem s n := by
  have hfree := held_expireSem_of_expired hheld hend
  simp [semReleaseWrite, holdsSem, hfree]

/-- Settles O54: the write ends a lease that has run out, and is R290's rule on what it then finds. -/
theorem releaseNeedsHolderAndTicket : Obligations.ReleaseNeedsHolderAndTicket := by
  unfold Obligations.ReleaseNeedsHolderAndTicket
  refine ⟨fun port n value s hans hlive => ?_, fun port n value s hans hheld hend => ?_, fun port n value s hans => ?_⟩
  · rw [exec_semRelease, execSemRelease, if_pos hans, semReleaseWrite_of_live hlive]
  · rw [exec_semRelease, execSemRelease, if_pos hans, semReleaseWrite_of_expired hheld hend]
    rfl
  · simp [execSemRelease, hans]

/-! ### Take (R289, R291) -/

/-- The port that reads a free semaphore takes it. -/
theorem semTakeRead_of_free {s : State} {port : RlPort} {n : Nat} (hfree : (getSem s n).held = false) :
    semTakeRead s port n = setSem s n
      { held := true, owner := port, expired := false, ticket := (getSem s n).ticket + 1, leaseEnd := s.now + leaseNs s } := by
  simp [semTakeRead, expireSem_of_live (Or.inl hfree), hfree]

/-- A port that reads a semaphore on the other port's running lease changes nothing. -/
theorem semTakeRead_of_other {s : State} {port : RlPort} {n : Nat} (hheld : (getSem s n).held = true)
    (howner : (getSem s n).owner ≠ port) (hlive : s.now < (getSem s n).leaseEnd) : semTakeRead s port n = s := by
  simp [semTakeRead, expireSem_of_live (Or.inr hlive), hheld, howner]

/-- The port that reads a semaphore whose lease has run out finds it free and takes it. -/
theorem owner_semTakeRead_of_expired {s : State} {port : RlPort} {n : Nat} (hheld : (getSem s n).held = true)
    (hend : (getSem s n).leaseEnd ≤ s.now) : (getSem (semTakeRead s port n) n).owner = port := by
  have hfree := held_expireSem_of_expired hheld hend
  simp [semTakeRead, hfree]

theorem ne_of_semRival_eq_some {s : State} {port q : RlPort} {n : Nat} (h : semRival s port n = some q) : q ≠ port := by
  unfold semRival at h
  grind

/-- Two ports that read a free semaphore one after the other at one time: the first one has it, but the second one where LEASE_MS
is 0, because the first one's lease has then run out before the second read. -/
theorem owner_semTakeRead_semTakeRead_of_free {s : State} {port q : RlPort} {n : Nat} (hfree : (getSem s n).held = false)
    (hq : q ≠ port) :
    (getSem (semTakeRead (semTakeRead s q n) port n) n).owner = if s.gl.semLease = 0 then port else q := by
  rw [semTakeRead_of_free hfree]
  by_cases hlease : s.gl.semLease = 0
  · rw [if_pos hlease]
    apply owner_semTakeRead_of_expired <;> simp [leaseNs, hlease]
  · have hpos : 0 < s.gl.semLease.toNat := by bv_omega
    have hlive : 0 < leaseNs s := by
      unfold leaseNs
      omega
    rw [if_neg hlease, semTakeRead_of_other]
    · simp
    · simp
    · simpa using hq
    · simpa using hlive

/-- Who has a free semaphore after a read of it under the rule of ties: the port that wins the tie, where LEASE_MS is not 0. -/
theorem owner_semTakeTied_of_free {s : State} {port : RlPort} {n : Nat} (hfree : (getSem s n).held = false) :
    (getSem (semTakeTied s port n) n).owner = if s.gl.semLease = 0 then port else (semRival s port n).getD port := by
  unfold semTakeTied
  cases hr : semRival s port n with
  | none =>
    have hfree' : (getSem (noteTie s port (0x100 + 8 * n)) n).held = false := by
      unfold noteTie
      split <;> exact hfree
    simp [semTakeRead_of_free hfree']
  | some q =>
    have hq := ne_of_semRival_eq_some hr
    exact owner_semTakeRead_semTakeRead_of_free (s := { s with gl := { s.gl with lastTie := q } }) hfree hq

/-- Port 1 won the last tie and reads GL_SEM_2 before stage 7 in the cycle in which port 0 reads it too. LEASE_MS is 0, which no
reset and no write leaves there (R291), but which a state may hold. -/
def zeroLeaseTie : State :=
  { gl := { semLease := 0, lastTie := 1 }
    rl := { ports := [(0, { state := 2 }), (1, { state := 2 })] }
    pending := [.semTake 0 2] }

theorem semAnswers_zeroLeaseTie : semAnswers zeroLeaseTie 1 2 = true := by decide

theorem semRival_zeroLeaseTie : semRival zeroLeaseTie 1 2 = some 0 := by decide

/-- Refutes O55: its clause on takes does not exclude LEASE_MS 0. There the lease of port 0, which wins the tie, ends as it begins,
and port 1's own command finds the semaphore free and takes it. -/
theorem not_leasesLastAndRunOut : ¬ Obligations.LeasesLastAndRunOut := by
  unfold Obligations.LeasesLastAndRunOut
  rintro ⟨-, -, htake, -⟩
  have hfree : (getSem zeroLeaseTie 2).held = false := rfl
  obtain ⟨t, ht, -, howner, -⟩ := htake 1 2 zeroLeaseTie semAnswers_zeroLeaseTie (Or.inl hfree)
  rw [exec_semTake, execSemTake, if_pos (show semAnswers zeroLeaseTie 1 (2 : Fin 32).val = true from semAnswers_zeroLeaseTie)] at ht
  injection ht with ht
  subst ht
  have hwinner : (getSem (semTakeTied zeroLeaseTie 1 2) 2).owner = 0 := by
    rw [show (2 : Fin 32).val = 2 from rfl, semRival_zeroLeaseTie, if_neg (by simp [hfree])] at howner
    exact howner
  rw [owner_semTakeTied_of_free hfree] at hwinner
  exact absurd hwinner (by decide)

end Sys2Proof.Machine

/-! PROOFS. The Weir's sample and CAP_W (R401). -/

namespace Sys2Proof.Machine

/-! ### What a report changes

A report that names no context and no partition, and is not fatal, reaches the collectors only: the rings, and the companions'
memory that holds their records. -/

/-- `t` is `s` but for the error collectors and the companions' memory. -/
def SameButRings (s t : State) : Prop := t = { s with err := t.err, comp := t.comp }

namespace SameButRings

theorem refl (s : State) : SameButRings s s := rfl

theorem trans {s t u : State} (hst : SameButRings s t) (htu : SameButRings t u) : SameButRings s u := by
  unfold SameButRings at *
  rw [htu, hst]

theorem pwr_eq {s t : State} (h : SameButRings s t) : t.pwr = s.pwr := by
  rw [h]

/-- A fold keeps what each of its steps keeps. -/
theorem foldl {α : Type} {f : State → α → State} (h : ∀ t x, SameButRings t (f t x)) (l : List α) (s : State) :
    SameButRings s (l.foldl f s) := by
  induction l generalizing s with
  | nil => exact refl s
  | cons x l ih => exact (h s x).trans (ih _)

end SameButRings

theorem sameButRings_setRing (s : State) (p : RlPort) (g : ErrRing) : SameButRings s (setRing s p g) := rfl

theorem sameButRings_writeComp (s : State) (p : RlPort) (a : Nat) (bs : Bytes) : SameButRings s (writeComp s p a bs) := by
  unfold writeComp
  split <;> rfl

theorem sameButRings_ringWrite (s : State) (p : RlPort) (r : ErrRec) : SameButRings s (ringWrite s p r) :=
  ((sameButRings_writeComp ..).trans (sameButRings_writeComp ..)).trans (sameButRings_setRing ..)

theorem sameButRings_ringDrop (s : State) (p : RlPort) (cls : Fin 5) (n : Nat) : SameButRings s (ringDrop s p cls n) :=
  sameButRings_setRing ..

theorem sameButRings_ringOffer (s : State) (p : RlPort) (r : ErrRec) : SameButRings s (ringOffer s p r) := by
  unfold ringOffer
  split
  · exact sameButRings_ringWrite ..
  · exact sameButRings_ringDrop ..

theorem sameButRings_ringFatal (s : State) (p : RlPort) (r : ErrRec) : SameButRings s (ringFatal s p r) := by
  unfold ringFatal
  split
  · exact sameButRings_ringWrite ..
  · exact sameButRings_setRing ..

theorem sameButRings_coalClose (s : State) (p : RlPort) (c : Coal) : SameButRings s (coalClose s p c) := by
  unfold coalClose
  dsimp only
  split
  · exact sameButRings_setRing ..
  · exact (sameButRings_setRing ..).trans (sameButRings_ringOffer ..)

theorem sameButRings_coalExpire (s : State) (p : RlPort) : SameButRings s (coalExpire s p) :=
  .foldl (fun t c => sameButRings_coalClose t p c) _ s

theorem sameButRings_ringReport (s : State) (p : RlPort) (r : ErrRec) : SameButRings s (ringReport s p r) := by
  refine (sameButRings_coalExpire s p).trans ?_
  unfold ringReport
  dsimp only
  split
  case isTrue fatal => exact sameButRings_ringFatal ..
  case isFalse =>
    split
    case h_1 counted =>
      split
      · exact sameButRings_setRing ..
      · exact sameButRings_ringDrop ..
    case h_2 fresh =>
      refine SameButRings.trans ?_ (sameButRings_ringOffer ..)
      split
      · exact sameButRings_setRing ..
      · exact .refl _

theorem sameButRings_toRings (s : State) (r : Report) : SameButRings s (toRings s r) :=
  .foldl (fun t p => sameButRings_ringReport t p _) _ s

/-- E_PWR_BRAKE is CORRECTED: its report reaches both collectors and tears nothing down (R403, R417). -/
theorem sameButRings_report_brake (s : State) :
    SameButRings s (report s (pwrReport Code.ePwrBrake corrected 0 [])) :=
  SameButRings.trans (by rfl) (sameButRings_toRings ..)

/-! ### A sample (R401) -/

/-- A bucket after a sample is the clamped sum of R401, which is signed: the model's subtraction stops at 0, where the clamp does. -/
theorem bucketNext_eq_clamp (b p level cap : Nat) :
    (bucketNext b p level cap : Int) = max 0 (min (cap : Int) ((b : Int) + p - level)) := by
  unfold bucketNext
  omega

@[simp] theorem engageBrake_pwr (s : State) (w : Pwr) :
    (engageBrake s w).pwr = { w with fc := 32, duty := 2, brakeCnt := satAdd w.brakeCnt 1, belowSince := none } :=
  (sameButRings_report_brake _).pwr_eq

/-- A sample out of reset has the Weir's effect, whether or not it engages the brake too: the brake writes none of these fields. -/
theorem exists_execWeirSample_next (p : BitVec 16) (railOver : Bool) {s : State} (hreset : s.gl.inReset = false) :
    ∃ t, execWeirSample p railOver s = .next t ∧
      t.pwr.b1 = (weirSample s.pwr p.toNat).b1 ∧ t.pwr.b2 = (weirSample s.pwr p.toNat).b2 ∧
      t.pwr.h1 = (weirSample s.pwr p.toNat).h1 ∧ t.pwr.h2 = (weirSample s.pwr p.toNat).h2 ∧
      t.pwr.cap = (weirSample s.pwr p.toNat).cap := by
  unfold execWeirSample
  rw [if_neg (by simp [hreset])]
  generalize weirSample s.pwr p.toNat = w
  dsimp only
  split
  case isTrue brakes => exact ⟨_, rfl, by simp⟩
  case isFalse => exact ⟨_, rfl, rfl, rfl, rfl, rfl, rfl⟩

/-! ### CAP_W (R401) -/

theorem regHit_pwrCap : regHit 0x3300018 false = some (.pwrCap, false) := by decide

/-- PWR_CAP stands behind semaphore 1: a port that holds it writes the register whole (R415). -/
theorem windowWrite_pwrCap {s : State} {port : RlPort} (h : mayWrite s port 1 = true) (v : BitVec 64) :
    windowWrite s port 0x3300018 false v = writePwrReg s ((v.setWidth 32).setWidth 64) .pwrCap := by
  have hopen : windowOpen s port = true := by
    simp only [mayWrite, Bool.and_eq_true] at h
    exact h.1.1
  have haligned : aligned 0x3300018 false = true := by decide
  simp only [windowWrite, hopen, haligned, regHit_pwrCap, Bool.not_true, Bool.false_eq_true, if_true, if_false]
  have hwrite : portWrite s port 0x3300018 false v .pwrCap false =
      guarded s port 1 (fun t => writePwrReg t ((v.setWidth 32).setWidth 64) .pwrCap) := rfl
  rw [hwrite, guarded_of_mayWrite h]

/-- A write of PWR_CAP clamps its low 12 bits into R401's range. -/
theorem writePwrReg_pwrCap (s : State) (v : BitVec 64) :
    writePwrReg s ((v.setWidth 32).setWidth 64) .pwrCap =
      { s with pwr := { s.pwr with cap := BitVec.ofNat 12 (max 1200 (min 2400 (v.toNat % 2 ^ 12))) } } := by
  have hlow : bitsOf ((v.setWidth 32).setWidth 64).toNat 0 12 = v.toNat % 2 ^ 12 := by
    simp only [bitsOf, BitVec.toNat_setWidth]
    omega
  simp only [writePwrReg, hlow, clamp]

theorem readReg_pwrCap (s : State) (who : Option RlPort) : (readReg s who .pwrCap).toNat = s.pwr.cap.toNat := by
  have hcap := s.pwr.cap.isLt
  change (BitVec.ofNat 64 s.pwr.cap.toNat).toNat = _
  rw [BitVec.toNat_ofNat]
  omega

theorem noteTie_eq_lastTie (s : State) (port : RlPort) (o : Nat) :
    noteTie s port o = { s with gl := { s.gl with lastTie := (noteTie s port o).gl.lastTie } } := by
  unfold noteTie
  split <;> rfl

/-- Settles O56: a sample's buckets, holds and level are R401's whether or not it engages the brake, and CAP_W is clamped as it is
written. -/
theorem weirBucketsAndLevel : Obligations.WeirBucketsAndLevel := by
  unfold Obligations.WeirBucketsAndLevel
  refine ⟨fun p railOver s hreset => ?_, rfl, fun port value s u hmay hu => ?_⟩
  · obtain ⟨t, hexec, hb1, hb2, hh1, hh2, hcap⟩ := exists_execWeirSample_next p railOver hreset
    refine ⟨t, hexec, ?_, ?_, ?_, ?_, rfl, ?_⟩
    · rw [hb1]
      exact bucketNext_eq_clamp ..
    · rw [hb2]
      exact bucketNext_eq_clamp ..
    · simp only [hh1, hb1, weirSample, bucketHold]
    · simp only [hh2, hb2, weirSample, bucketHold]
    · simp only [hcap, weirSample]
  · have hmay' : mayWrite u port 1 = true := by rw [hu, mayWrite_noteTie, hmay]
    refine ⟨_, ?_, rfl, ?_, fun who => ?_⟩
    · rw [exec_registerWrite, execRegisterWrite, ← writePwrReg_pwrCap, ← windowWrite_pwrCap hmay', hu]
      rfl
    · rw [hu]
      exact noteTie_eq_lastTie ..
    · rw [readReg_pwrCap, BitVec.toNat_ofNat]
      omega

end Sys2Proof.Machine

/-! PROOFS. What every command and every step keeps. -/

namespace Sys2Proof.Machine

/-! ### Every command -/

/-- Every command keeps the canonical form of the memories, the queue and the clock. -/
theorem kept_exec {org s : State} (hs : Kept org s) : (i : Instr) → KeptO org (exec i s)
  | .d2dFlitReceive .. => kept_execD2dFlitReceive hs
  | .registerWrite .. => kept_execRegisterWrite hs
  | .readClear .. => kept_execReadClear hs
  | .w1cWrite .. => kept_execW1cWrite hs
  | .registerAccessRefused .. => kept_execRegisterAccessRefused hs
  | .space4Access .. => kept_execSpace4Access hs
  | .semTake .. => kept_execSemTake hs
  | .semRelease .. => kept_execSemRelease hs
  | .semLeaseExpiry .. => kept_execSemLeaseExpiry hs
  | .deviceResetRequest .. => kept_execDeviceResetRequest hs
  | .deviceReset => kept_execDeviceReset hs
  | .resetN => kept_execResetN hs
  | .resetRelease => kept_execResetRelease hs
  | .bootGo .. => kept_execBootGo hs
  | .bootStageEnd .. => kept_execBootStageEnd hs
  | .keyLoad .. => kept_execKeyLoad hs
  | .keyClear .. => kept_execKeyClear hs
  | .attGo .. => kept_execAttGo hs
  | .planTakeover .. => kept_execPlanTakeover hs
  | .planHandback .. => kept_execPlanHandback hs
  | .bringup .. => kept_execBringup hs
  | .teardown .. => kept_execTeardown hs
  | .activate .. => kept_execActivate hs
  | .partitionActivated .. => kept_execPartitionActivated hs
  | .dissolve .. => kept_execDissolve hs
  | .granuleZeroed .. => kept_execGranuleZeroed hs
  | .granOwnWrite .. => kept_execGranOwnWrite hs
  | .rlPortDown .. => kept_execRlPortDown hs
  | .rlPortRetrain .. => kept_execRlPortRetrain hs
  | .doorbell .. => kept_execDoorbell hs
  | .sequencerQueueRoom .. => kept_execSequencerQueueRoom hs
  | .commandComplete .. => kept_execCommandComplete hs
  | .cplFull .. => kept_execCplFull hs
  | .opNop .. => kept_execOpNop hs
  | .opMatmul .. => kept_execOpMatmul hs
  | .opMatmulSparse .. => kept_execOpMatmulSparse hs
  | .opVchain .. => kept_execOpVchain hs
  | .opAttnBlock .. => kept_execOpAttnBlock hs
  | .opScalepass .. => kept_execOpScalepass hs
  | .opPrune .. => kept_execOpPrune hs
  | .opDma .. => kept_execOpDma hs
  | .opGather .. => kept_execOpGather hs
  | .opScatter .. => kept_execOpScatter hs
  | .opMigratePlace .. => kept_execOpMigratePlace hs
  | .opMigrateMove .. => kept_execOpMigrateMove hs
  | .opMigrateSwap .. => kept_execOpMigrateSwap hs
  | .opMigrateRelease .. => kept_execOpMigrateRelease hs
  | .opMigrateSethint .. => kept_execOpMigrateSethint hs
  | .migratePageSwitch .. => kept_execMigratePageSwitch hs
  | .opSnapshotPrestream .. => kept_execOpSnapshotPrestream hs
  | .opSnapshotCopy .. => kept_execOpSnapshotCopy hs
  | .opGate .. => kept_execOpGate hs
  | .gateOpeningServed .. => kept_execGateOpeningServed hs
  | .gateHang .. => kept_execGateHang hs
  | .opDispatchCount .. => kept_execOpDispatchCount hs
  | .opDispatchPack .. => kept_execOpDispatchPack hs
  | .opPlace .. => kept_execOpPlace hs
  | .opExpertPlan .. => kept_execOpExpertPlan hs
  | .opExchangeDispatch .. => kept_execOpExchangeDispatch hs
  | .opExchangeReturn .. => kept_execOpExchangeReturn hs
  | .opCombine .. => kept_execOpCombine hs
  | .opA2a .. => kept_execOpA2a hs
  | .opPredictPredict .. => kept_execOpPredictPredict hs
  | .opPredictBound .. => kept_execOpPredictBound hs
  | .opMakeup .. => kept_execOpMakeup hs
  | .opReduce .. => kept_execOpReduce hs
  | .opAllreduce .. => kept_execOpAllreduce hs
  | .opBcast .. => kept_execOpBcast hs
  | .opAllgather .. => kept_execOpAllgather hs
  | .opWaitSlotFull .. => kept_execOpWaitSlotFull hs
  | .opWaitSlotEmpty .. => kept_execOpWaitSlotEmpty hs
  | .opWaitEvent .. => kept_execOpWaitEvent hs
  | .opWaitMemory .. => kept_execOpWaitMemory hs
  | .opWaitPlan .. => kept_execOpWaitPlan hs
  | .waitSatisfied .. => kept_execWaitSatisfied hs
  | .syncHang .. => kept_execSyncHang hs
  | .opSignalSlotFill .. => kept_execOpSignalSlotFill hs
  | .opSignalSlotDrain .. => kept_execOpSignalSlotDrain hs
  | .slotWritesLanded .. => kept_execSlotWritesLanded hs
  | .slotReadsDone .. => kept_execSlotReadsDone hs
  | .opSignalEvent .. => kept_execOpSignalEvent hs
  | .opSignalMemory .. => kept_execOpSignalMemory hs
  | .opFence .. => kept_execOpFence hs
  | .opTimedStart .. => kept_execOpTimedStart hs
  | .timedStartReached .. => kept_execTimedStartReached hs
  | .opEpochMark .. => kept_execOpEpochMark hs
  | .epochMarkCapture .. => kept_execEpochMarkCapture hs
  | .epochMarkAgreed .. => kept_execEpochMarkAgreed hs
  | .epochLate .. => kept_execEpochLate hs
  | .opDigestOpen .. => kept_execOpDigestOpen hs
  | .opDigestAbsorb .. => kept_execOpDigestAbsorb hs
  | .opDigestClose .. => kept_execOpDigestClose hs
  | .opRngSeekSet .. => kept_execOpRngSeekSet hs
  | .opRngSeekAdd .. => kept_execOpRngSeekAdd hs
  | .opRngSeekCheck .. => kept_execOpRngSeekCheck hs
  | .opStepStatusBind .. => kept_execOpStepStatusBind hs
  | .opStepStatusAgree .. => kept_execOpStepStatusAgree hs
  | .stepAgreeResult .. => kept_execStepAgreeResult hs
  | .opStepStatusCheck .. => kept_execOpStepStatusCheck hs
  | .opStepStatusCommit .. => kept_execOpStepStatusCommit hs
  | .opStepStatusUnbind .. => kept_execOpStepStatusUnbind hs
  | .outsideDelivery .. => kept_execOutsideDelivery hs
  | .senderEndMarker .. => kept_execSenderEndMarker hs
  | .slotHang .. => kept_execSlotHang hs
  | .xopen .. => kept_execXopen hs
  | .xready .. => kept_execXready hs
  | .xwait .. => kept_execXwait hs
  | .xopenRetry .. => kept_execXopenRetry hs
  | .xcount .. => kept_execXcount hs
  | .countPhaseEnd .. => kept_execCountPhaseEnd hs
  | .xask .. => kept_execXask hs
  | .creditGrant .. => kept_execCreditGrant hs
  | .xcredit .. => kept_execXcredit hs
  | .openEntryTaken .. => kept_execOpenEntryTaken hs
  | .streamData .. => kept_execStreamData hs
  | .xend .. => kept_execXend hs
  | .xresend .. => kept_execXresend hs
  | .xack .. => kept_execXack hs
  | .xchHang .. => kept_execXchHang hs
  | .returnArrival .. => kept_execReturnArrival hs
  | .landingHang .. => kept_execLandingHang hs
  | .cellRelease .. => kept_execCellRelease hs
  | .bpmResWrite .. => kept_execBpmResWrite hs
  | .bpmSpillWrite .. => kept_execBpmSpillWrite hs
  | .copen .. => kept_execCopen hs
  | .cready .. => kept_execCready hs
  | .cwait .. => kept_execCwait hs
  | .copenRetry .. => kept_execCopenRetry hs
  | .chunkCellGrant .. => kept_execChunkCellGrant hs
  | .chunkData .. => kept_execChunkData hs
  | .cend .. => kept_execCend hs
  | .cack .. => kept_execCack hs
  | .cresend .. => kept_execCresend hs
  | .cabort .. => kept_execCabort hs
  | .collHang .. => kept_execCollHang hs
  | .fabricQueueRing .. => kept_execFabricQueueRing hs
  | .read .. => kept_execRead hs
  | .write .. => kept_execWrite hs
  | .add64 .. => kept_execAdd64 hs
  | .add32 .. => kept_execAdd32 hs
  | .and64 .. => kept_execAnd64 hs
  | .or64 .. => kept_execOr64 hs
  | .xor64 .. => kept_execXor64 hs
  | .smax64 .. => kept_execSmax64 hs
  | .smin64 .. => kept_execSmin64 hs
  | .umax64 .. => kept_execUmax64 hs
  | .umin64 .. => kept_execUmin64 hs
  | .swap64 .. => kept_execSwap64 hs
  | .cas64 .. => kept_execCas64 hs
  | .addAl48 .. => kept_execAddAl48 hs
  | .bulkGet .. => kept_execBulkGet hs
  | .bulkPut .. => kept_execBulkPut hs
  | .gatewayFlush .. => kept_execGatewayFlush hs
  | .req .. => kept_execReq hs
  | .rsp .. => kept_execRsp hs
  | .busy .. => kept_execBusy hs
  | .companionRequest .. => kept_execCompanionRequest hs
  | .busyResend .. => kept_execBusyResend hs
  | .orderEntryExpiry .. => kept_execOrderEntryExpiry hs
  | .msfHang .. => kept_execMsfHang hs
  | .inv .. => kept_execInv hs
  | .invack .. => kept_execInvack hs
  | .recallLine .. => kept_execRecallLine hs
  | .recallack .. => kept_execRecallack hs
  | .puts .. => kept_execPuts hs
  | .putm .. => kept_execPutm hs
  | .bend .. => kept_execBend hs
  | .bresend .. => kept_execBresend hs
  | .portEnable .. => kept_execPortEnable hs
  | .portDetect .. => kept_execPortDetect hs
  | .portTrainDone .. => kept_execPortTrainDone hs
  | .portAlignDone .. => kept_execPortAlignDone hs
  | .negotiate .. => kept_execNegotiate hs
  | .negotiateRetry .. => kept_execNegotiateRetry hs
  | .retrain .. => kept_execRetrain hs
  | .retrainTimeout .. => kept_execRetrainTimeout hs
  | .eqWindow .. => kept_execEqWindow hs
  | .laneLockLoss .. => kept_execLaneLockLoss hs
  | .swap .. => kept_execSwap hs
  | .blockReceive .. => kept_execBlockReceive hs
  | .nak .. => kept_execNak hs
  | .nakRepeat .. => kept_execNakRepeat hs
  | .ackTimeout .. => kept_execAckTimeout hs
  | .credit .. => kept_execCredit hs
  | .packetReceive .. => kept_execPacketReceive hs
  | .packetAged .. => kept_execPacketAged hs
  | .circuitWrite .. => kept_execCircuitWrite hs
  | .tagBind .. => kept_execTagBind hs
  | .tagRetire .. => kept_execTagRetire hs
  | .tagnak newer _ => kept_execTagnak (_newer := newer) hs
  | .tagnakResend .. => kept_execTagnakResend hs
  | .tsyncSend .. => kept_execTsyncSend hs
  | .tsync .. => kept_execTsync hs
  | .treq _ _ t => kept_execTreq (_t3 := t) hs
  | .tresp .. => kept_execTresp hs
  | .ftHoldoverEntry => kept_execFtHoldoverEntry hs
  | .ftRange => kept_execFtRange hs
  | .ppsIn => kept_execPpsIn hs
  | .ftSet .. => kept_execFtSet hs
  | .scrubPass .. => kept_execScrubPass hs
  | .leaseLendWrite .. => kept_execLeaseLendWrite hs
  | .leaseBorrowWrite .. => kept_execLeaseBorrowWrite hs
  | .leaseRequest .. => kept_execLeaseRequest hs
  | .leaseAnswer .. => kept_execLeaseAnswer hs
  | .leaseRevoke .. => kept_execLeaseRevoke hs
  | .leaseTermEnd .. => kept_execLeaseTermEnd hs
  | .leaseGraceEnd .. => kept_execLeaseGraceEnd hs
  | .leaseRelease .. => kept_execLeaseRelease hs
  | .sliceEnd .. => kept_execSliceEnd hs
  | .contextYield .. => kept_execContextYield hs
  | .switchCoresStopped .. => kept_execSwitchCoresStopped hs
  | .switchDone .. => kept_execSwitchDone hs
  | .wholeCap .. => kept_execWholeCap hs
  | .protectionEnable .. => kept_execProtectionEnable hs
  | .seedingDone .. => kept_execSeedingDone hs
  | .parityDelta src .. => kept_execParityDelta (_src := src) hs
  | .mirrorWrite .. => kept_execMirrorWrite hs
  | .heartbeatSend => kept_execHeartbeatSend hs
  | .heartbeatLoss .. => kept_execHeartbeatLoss hs
  | .down .. => kept_execDown hs
  | .takeover .. => kept_execTakeover hs
  | .rebuildPiece .. => kept_execRebuildPiece hs
  | .frameSend .. => kept_execFrameSend hs
  | .meterFrame .. => kept_execMeterFrame hs
  | .meterWindow .. => kept_execMeterWindow hs
  | .intervalClose => kept_execIntervalClose hs
  | .sealSense .. => kept_execSealSense hs
  | .mtrVddLoss => kept_execMtrVddLoss hs
  | .mtrPowerUp => kept_execMtrPowerUp hs
  | .calendarDiscipline .. => kept_execCalendarDiscipline hs
  | .status .. => kept_execStatus hs
  | .record .. => kept_execRecord hs
  | .ack .. => kept_execAck hs
  | .pubkey .. => kept_execPubkey hs
  | .cert .. => kept_execCert hs
  | .energy .. => kept_execEnergy hs
  | .settime .. => kept_execSettime hs
  | .setepoch .. => kept_execSetepoch hs
  | .setrecint .. => kept_execSetrecint hs
  | .leap .. => kept_execLeap hs
  | .mirrorRecord .. => kept_execMirrorRecord hs
  | .weirSample .. => kept_execWeirSample hs
  | .weirUpdate => kept_execWeirUpdate hs
  | .pwrBrakeN => kept_execPwrBrakeN hs
  | .brakeRelease => kept_execBrakeRelease hs
  | .droopTrip _ d => kept_execDroopTrip (d_ := d) hs
  | .droopWindow .. => kept_execDroopWindow hs
  | .agingMeasure .. => kept_execAgingMeasure hs
  | .thermalThreshold .. => kept_execThermalThreshold hs
  | .thermalCeilingStep .. => kept_execThermalCeilingStep hs
  | .refreshUpdate .. => kept_execRefreshUpdate hs
  | .pwrPinWrite .. => kept_execPwrPinWrite hs
  | .selftestSliceDue .. => kept_execSelftestSliceDue hs
  | .selftestSliceEnd .. => kept_execSelftestSliceEnd hs
  | .pwrStCmd .. => kept_execPwrStCmd hs
  | .calibration c => kept_execCalibration (c_ := c) hs
  | .errorReport .. => kept_execErrorReport hs
  | .coalesceExpiry .. => kept_execCoalesceExpiry hs
  | .errRingHead .. => kept_execErrRingHead hs
  | .errRingCfg .. => kept_execErrRingCfg hs
  | .riskUpdate => kept_execRiskUpdate hs
  | .pmbusPoll .. => kept_execPmbusPoll hs
  | .pmAlertN .. => kept_execPmAlertN hs
  | .railMargin .. => kept_execRailMargin hs
  | .railExcursion _ d => kept_execRailExcursion (d_ := d) hs
  | .pwrBrakeNRise => kept_execPwrBrakeNRise hs
  | .backupSupplyLow => kept_execBackupSupplyLow hs
  | .protectorAck .. => kept_execProtectorAck hs
  | .tapInstruction .. => kept_execTapInstruction hs

/-- Settles O49: of all that a command keeps, the queue and the clock. -/
theorem commandsLeaveQueueAndClock : Obligations.CommandsLeaveQueueAndClock := by
  unfold Obligations.CommandsLeaveQueueAndClock
  intro i s t ht
  have hkept := (kept_exec kept_refl i).get t ht
  exact ⟨hkept.pending, hkept.now⟩

/-! ### Every step -/

/-- Time passing writes no memory. -/
theorem memWf_tick {s : State} (h : s.memWf = true) : (tick s).memWf = true := by
  have hkept : Kept s (if s.gl.inReset = true then s else blockTick s) :=
    kept_ite (fun _ => kept_refl) (fun _ => kept_blockTick kept_refl)
  exact hkept.wf h

/-- What the device does of itself keeps: the state in which it takes up a packet or a late command, and the one in which it has
served a raised incarnation. -/
theorem kept_nextOwn {s t : State} {c : Option Instr} (h : nextOwn s = some (c, t)) : Kept s t := by
  unfold nextOwn at h
  split at h
  case h_1 raised =>
    cases h
    exact kept_serveRaised (kept_upd kept_refl)
  case h_2 =>
    split at h
    case h_1 delivered =>
      cases h
      exact kept_takeUp kept_refl
    case h_2 =>
      split at h
      case h_1 late =>
        cases h
        exact kept_upd kept_refl
      case h_2 => cases h

theorem memWf_ownStep {s t : State} (hs : s.memWf = true) (ht : ownStep s = .next t) : t.memWf = true := by
  unfold ownStep at ht
  split at ht
  case h_1 c u hown => exact ((kept_exec (kept_nextOwn hown) c).get t ht).wf hs
  case h_2 u hown =>
    cases ht
    exact (kept_nextOwn hown).wf hs
  case h_3 =>
    cases ht
    exact memWf_tick hs

/-- Settles O52: the front command keeps the canonical form, and so does what the device does of itself. -/
theorem stepKeepsMemoriesCanonical : Obligations.StepKeepsMemoriesCanonical := by
  unfold Obligations.StepKeepsMemoriesCanonical
  intro s t hs ht
  unfold step at ht
  split at ht
  case h_1 => exact memWf_ownStep hs ht
  case h_2 c rest _ =>
    have hrest : State.memWf { s with pending := rest } = true := hs
    exact ((kept_exec kept_refl c).get t ht).wf hrest

/-! ### Every command answers -/

/-- The outcome is a next state: neither a fault nor a refusal. -/
def Answers (r : Host.Outcome State Fault Refusal) : Prop := ∃ t, r = .next t

theorem answers_next (t : State) : Answers (.next t) := ⟨t, rfl⟩

theorem answers_ite {c : Prop} [Decidable c] {a b : Host.Outcome State Fault Refusal} (ha : Answers a) (hb : Answers b) :
    Answers (if c then a else b) := by
  split
  · exact ha
  · exact hb

theorem answers_busRead (s : State) (payload : Bytes) (cmd : BitVec 8) (data : Bytes) : Answers (busRead s payload cmd data) :=
  answers_ite (answers_next _) (answers_next _)

theorem answers_busCmd (s : State) (payload : Bytes) (cmd : BitVec 8) (n : Nat) (f : Bytes → State) :
    Answers (busCmd s payload cmd n f) := by
  unfold busCmd
  split
  · exact answers_ite (answers_next _) (answers_next _)
  · exact answers_next _

/-- Settles O53: every branch of every command's meaning, those of an error among them, ends in a next state. The commands of the
two-wire bus have their branches in common. -/
theorem everyCommandAnswers : Obligations.EveryCommandAnswers := by
  unfold Obligations.EveryCommandAnswers
  intro i s
  change Answers (exec i s)
  cases i
  case status | pubkey | cert => exact answers_busRead ..
  case record | ack | energy | settime | setepoch | setrecint | leap => exact answers_busCmd ..
  all_goals
    dsimp only [exec,
      execD2dFlitReceive, execW1cWrite, execRegisterAccessRefused, execSpace4Access, execSemTake, execSemRelease,
      execDeviceReset, execResetN, execResetRelease, execBootStageEnd, execPartitionActivated, execGranuleZeroed,
      execRlPortDown, execRlPortRetrain, execDoorbell, execSequencerQueueRoom, execCommandComplete, execCplFull,
      execMigratePageSwitch, execGateOpeningServed, execGateHang, execWaitSatisfied, execSyncHang, execSlotWritesLanded,
      execSlotReadsDone, execTimedStartReached, execEpochMarkCapture, execEpochMarkAgreed, execEpochLate,
      execStepAgreeResult, execOutsideDelivery, execSenderEndMarker, execSlotHang, execXopen, execXready, execXwait,
      execXopenRetry, execXcount, execCountPhaseEnd, execXask, execCreditGrant, execXcredit, execOpenEntryTaken,
      execStreamData, execXend, execXresend, execXack, execXchHang, execReturnArrival, execLandingHang, execCellRelease,
      execCopen, execCready, execCwait, execCopenRetry, execChunkCellGrant, execChunkData, execCend, execCack, execCresend,
      execCabort, execCollHang, execFabricQueueRing, execGatewayFlush, execReq, execRsp, execBusy, execCompanionRequest,
      execBusyResend, execOrderEntryExpiry, execMsfHang, execInv, execInvack, execRecallLine, execRecallack, execPuts,
      execPutm, execBend, execBresend, execPortDetect, execPortTrainDone, execPortAlignDone, execNegotiate,
      execNegotiateRetry, execRetrainTimeout, execEqWindow, execLaneLockLoss, execSwap, execBlockReceive, execNak,
      execNakRepeat, execAckTimeout, execCredit, execPacketReceive, execPacketAged, execTagnak, execTagnakResend,
      execTsyncSend, execTsync, execTreq, execTresp, execFtHoldoverEntry, execFtRange, execPpsIn, execScrubPass,
      execLeaseRequest, execLeaseAnswer, execLeaseRevoke, execLeaseTermEnd, execLeaseGraceEnd, execLeaseRelease,
      execSliceEnd, execContextYield, execSwitchCoresStopped, execSwitchDone, execWholeCap, execSeedingDone,
      execParityDelta, execMirrorWrite, execHeartbeatSend, execHeartbeatLoss, execDown, execTakeover, execRebuildPiece,
      execFrameSend, execMeterFrame, execMeterWindow, execIntervalClose, execSealSense, execMtrVddLoss, execMtrPowerUp,
      execCalendarDiscipline, execMirrorRecord, execWeirSample, execWeirUpdate, execPwrBrakeN, execBrakeRelease,
      execDroopTrip, execDroopWindow, execAgingMeasure, execThermalThreshold, execThermalCeilingStep, execRefreshUpdate,
      execSelftestSliceDue, execSelftestSliceEnd, execErrorReport, execCoalesceExpiry, execErrRingHead, execRiskUpdate,
      execRailMargin, execRailExcursion, execBackupSupplyLow, execProtectorAck, execTapInstruction]
    repeat' first
      | with_reducible first
        | exact answers_next _
        | apply answers_ite
      | exact answers_next _
      | split

end Sys2Proof.Machine

/-! PROOFS. The Meter Room's commands stay in the Meter Room (R362). -/

namespace Sys2Proof.Machine

/-! ### Outcomes -/

/-- What the outcome answers, where it answers a next state, has the property. -/
def OnNext (P : State → Prop) (r : Host.Outcome State Fault Refusal) : Prop := ∀ t, r = .next t → P t

theorem onNext_next {P : State → Prop} {t : State} (h : P t) : OnNext P (.next t) := by
  rintro _ ⟨⟩
  exact h

theorem onNext_ite {P : State → Prop} {c : Prop} [Decidable c] {a b : Host.Outcome State Fault Refusal} (ha : OnNext P a)
    (hb : OnNext P b) : OnNext P (if c then a else b) := by
  split
  · exact ha
  · exact hb

/-! ### The Meter Room and what it sends -/

/-- From `s` on, only the Meter Room has changed, and messages have joined those that were sent. -/
structure MeterOnly (s t : State) : Prop where
  rest : t = { s with md := t.md, out := t.out }
  sent : ∃ l, t.out = s.out ++ l

namespace MeterOnly

variable {s t : State}

theorem refl (s : State) : MeterOnly s s := ⟨rfl, [], by simp⟩

theorem md (h : MeterOnly s t) {m : Md} : MeterOnly s { t with md := m } :=
  ⟨by rw [h.rest], h.sent⟩

theorem send (h : MeterOnly s t) {x : Sent} : MeterOnly s (send t x) := by
  obtain ⟨hrest, l, hl⟩ := h
  exact ⟨by rw [hrest]; rfl, l ++ [x], by simp [Machine.send, hl]⟩

theorem ite {c : Prop} [Decidable c] {u : State} (ht : MeterOnly s t) (hu : MeterOnly s u) : MeterOnly s (if c then t else u) := by
  split
  · exact ht
  · exact hu

theorem foldl {α : Type} {f : State → α → State} (hf : ∀ u x, MeterOnly s u → MeterOnly s (f u x)) (l : List α)
    (h : MeterOnly s t) : MeterOnly s (l.foldl f t) := by
  induction l generalizing t with
  | nil => exact h
  | cons x l ih => exact ih (hf t x h)

/-! ### Records and events -/

theorem closeRecord (h : MeterOnly s t) {kind : Nat} {check : BitVec 7} {detail : Bytes} :
    MeterOnly s (closeRecord t kind check detail) := by
  unfold Machine.closeRecord
  dsimp only
  split
  case isTrue full => exact h.md
  case isFalse => exact .ite h.md.send.md h.md.send

theorem checkFailed (h : MeterOnly s t) {bits : BitVec 7} : MeterOnly s (checkFailed t bits) :=
  .ite h.md h.md.closeRecord

theorem meterEvent (h : MeterOnly s t) {code value : Nat} : MeterOnly s (meterEvent t code value) :=
  h.md.closeRecord

theorem heldOpenings {n : Nat} (h : MeterOnly s t) : MeterOnly s (heldOpenings n t) := by
  induction n generalizing t with
  | zero => exact h
  | succ n ih => exact ih h.meterEvent

theorem closeLong (h : MeterOnly s t) : MeterOnly s (closeLong t) :=
  .ite (.ite h.md.closeRecord.md h.md.closeRecord) h

/-! ### The calendar -/

theorem setCalendar (h : MeterOnly s t) {raw : Int} : MeterOnly s (setCalendar t raw) := h.md

theorem foldCalendar (h : MeterOnly s t) : MeterOnly s (foldCalendar t) := by
  unfold Machine.foldCalendar
  split
  · exact .ite h.setCalendar.md h.setCalendar
  · exact h.setCalendar

/-! ### Frames -/

theorem rejectFrame (h : MeterOnly s t) {bit : Nat} : MeterOnly s (rejectFrame t bit) := h.md

theorem acceptFrame (h : MeterOnly s t) {lane : Fin 6} {f : Bytes} : MeterOnly s (acceptFrame t lane f) := by
  unfold Machine.acceptFrame
  exact .ite (MeterOnly.closeRecord (.md (.ite h.closeRecord h))) (.md (.ite h.closeRecord h))

theorem dropLane (h : MeterOnly s t) {k : Nat} : MeterOnly s (dropLane t k) := h.md

theorem silentLane (h : MeterOnly s t) {k : Nat} : MeterOnly s (silentLane t k) := .ite h h.md

theorem lanesChecked (h : MeterOnly s t) {bad lanes : List Nat} :
    MeterOnly s (lanes.foldl Machine.silentLane (bad.foldl Machine.dropLane t)) :=
  foldl (fun _ _ hu => hu.silentLane) lanes (foldl (fun _ _ hu => hu.dropLane) bad h)

/-! ### The two-wire bus -/

theorem busRead {payload : Bytes} {cmd : BitVec 8} {data : Bytes} : OnNext (MeterOnly s) (busRead s payload cmd data) :=
  onNext_ite (onNext_next (refl s).send) (onNext_next (refl s))

theorem busCmd {payload : Bytes} {cmd : BitVec 8} {n : Nat} {f : Bytes → State} (hf : ∀ d, MeterOnly s (f d)) :
    OnNext (MeterOnly s) (busCmd s payload cmd n f) := by
  unfold Machine.busCmd
  split
  · exact onNext_ite (onNext_next (hf _)) (onNext_next (refl s))
  · exact onNext_next (refl s)

/-! ### The commands -/

theorem execMeterFrame {lane : Fin 6} {frame : Bytes} : OnNext (MeterOnly s) (execMeterFrame lane frame s) := by
  unfold Machine.execMeterFrame
  refine onNext_ite (onNext_next (refl s)) (onNext_ite (onNext_next (refl s).md.rejectFrame) ?_)
  dsimp only
  split
  case h_1 => exact onNext_next (refl s).md.rejectFrame
  case h_2 n _ =>
    have hcounted := (refl s).md (m := { s.md with
      lanes := Tbl.set {} s.md.lanes lane.val { Tbl.get {} s.md.lanes lane.val with seen := true } })
    exact onNext_ite (onNext_next hcounted.md.rejectFrame)
      (onNext_ite (onNext_next hcounted.md.rejectFrame) (onNext_next hcounted.md.acceptFrame))

theorem execMeterWindow {counts : List Nat} {storeBad : Option (BitVec 32)} :
    OnNext (MeterOnly s) (execMeterWindow counts storeBad s) := by
  unfold Machine.execMeterWindow
  refine onNext_ite (onNext_next (refl s)) (onNext_next ?_)
  have hstore : MeterOnly s (match storeBad with | some o => Machine.meterEvent s 7 o.toNat | none => s) := by
    split
    · exact (refl s).meterEvent
    · exact refl s
  exact .ite hstore.lanesChecked.md hstore.lanesChecked.md.checkFailed

theorem execIntervalClose : OnNext (MeterOnly s) (execIntervalClose s) :=
  onNext_ite (onNext_next (refl s).closeRecord) (onNext_next (refl s))

theorem execSealSense {opened : Bool} : OnNext (MeterOnly s) (execSealSense opened s) :=
  onNext_ite (onNext_next (refl s).md) (onNext_ite (onNext_next (refl s).md.meterEvent) (onNext_next (refl s).md.md))

theorem execMtrVddLoss : OnNext (MeterOnly s) (execMtrVddLoss s) :=
  onNext_ite (onNext_next (refl s)) (onNext_next (refl s).md)

theorem execBackupSupplyLow : OnNext (MeterOnly s) (execBackupSupplyLow s) :=
  onNext_ite (onNext_next (refl s)) (onNext_next (refl s).setCalendar.md)

theorem execMtrPowerUp : OnNext (MeterOnly s) (execMtrPowerUp s) :=
  onNext_ite (onNext_next (refl s)) (onNext_next (.closeRecord (.ite (refl s).md.heldOpenings.meterEvent (refl s).md.heldOpenings)))

theorem execCalendarDiscipline {rateOff : Bool} : OnNext (MeterOnly s) (execCalendarDiscipline rateOff s) := by
  unfold Machine.execCalendarDiscipline
  split
  case h_1 => exact onNext_next (refl s)
  case h_2 =>
    exact onNext_ite (onNext_next (refl s))
      (onNext_ite (onNext_next (refl s).foldCalendar.md.checkFailed) (onNext_next (refl s).foldCalendar.md))

end MeterOnly

/-- Settles O58: each of the commands writes the Meter Room's own state and sends. -/
theorem meterRoomStandsAlone : Obligations.MeterRoomStandsAlone := by
  unfold Obligations.MeterRoomStandsAlone
  intro i s t hi ht
  have honly : OnNext (MeterOnly s) (exec i s) := by
    cases i
    case meterFrame => exact MeterOnly.execMeterFrame
    case meterWindow => exact MeterOnly.execMeterWindow
    case intervalClose => exact MeterOnly.execIntervalClose
    case sealSense => exact MeterOnly.execSealSense
    case mtrVddLoss => exact MeterOnly.execMtrVddLoss
    case mtrPowerUp => exact MeterOnly.execMtrPowerUp
    case calendarDiscipline => exact MeterOnly.execCalendarDiscipline
    case backupSupplyLow => exact MeterOnly.execBackupSupplyLow
    case status | pubkey | cert => exact MeterOnly.busRead
    case record => exact MeterOnly.busCmd fun _ => (MeterOnly.refl s).md.send
    case ack => exact MeterOnly.busCmd fun _ => (MeterOnly.refl s).md.closeLong
    case energy => exact MeterOnly.busCmd fun _ => .ite (MeterOnly.refl s).md (MeterOnly.refl s).md.md.checkFailed
    case settime => exact MeterOnly.busCmd fun _ => (MeterOnly.refl s).setCalendar.md.meterEvent
    case setepoch => exact MeterOnly.busCmd fun _ => .ite (MeterOnly.refl s).md (MeterOnly.refl s).md.meterEvent
    case setrecint => exact MeterOnly.busCmd fun _ => .ite (MeterOnly.refl s).md.meterEvent (MeterOnly.refl s)
    case leap => exact MeterOnly.busCmd fun _ => (MeterOnly.refl s).foldCalendar.md.meterEvent
    all_goals exact hi.elim
  exact ⟨(honly t ht).rest, (honly t ht).sent⟩

end Sys2Proof.Machine

/-! PROOFS. The commands of the power and thermal loops (R401-R414, R450, R451) change no memory of the device and none of its
other units. -/

namespace Sys2Proof.Machine

/-- From `s` on, only the power state, what was sent, free numbers, the global flags and what reports write (the error collectors,
their records in the companions' memory, the agent's mark) have changed. -/
def PowerOnly (s t : State) : Prop :=
  t = { s with pwr := t.pwr, out := t.out, free := t.free, gl := t.gl, err := t.err, comp := t.comp, msf := t.msf }

namespace PowerOnly

variable {s t : State}

theorem refl (s : State) : PowerOnly s s := rfl

theorem of_rings (h : PowerOnly s t) {u : State} (hu : SameButRings t u) : PowerOnly s u := by
  unfold PowerOnly SameButRings at *
  rw [hu, h]

/-- An update of the power state, of what was sent, and of what reports write. -/
theorem upd (h : PowerOnly s t) {pwr out free gl err comp msf} :
    PowerOnly s { t with pwr := pwr, out := out, free := free, gl := gl, err := err, comp := comp, msf := msf } := by
  unfold PowerOnly at *
  rw [h]

theorem ite {c : Prop} [Decidable c] {u : State} (ht : PowerOnly s t) (hu : PowerOnly s u) : PowerOnly s (if c then t else u) := by
  split
  · exact ht
  · exact hu

theorem foldl {α : Type} {f : State → α → State} (hf : ∀ u x, PowerOnly s u → PowerOnly s (f u x)) (l : List α)
    (h : PowerOnly s t) : PowerOnly s (l.foldl f t) := by
  induction l generalizing t with
  | nil => exact h
  | cons x l ih => exact ih (hf t x h)

/-! ### Reports of the loops -/

theorem toRings (h : PowerOnly s t) {r : Report} : PowerOnly s (toRings t r) := h.of_rings (sameButRings_toRings ..)

theorem stopDevice (h : PowerOnly s t) {code : BitVec 16} : PowerOnly s (stopDevice t code) := .ite h h.upd

/-- A report of the loops names no partition: it reaches the rings, and stops the device where it is DEVICE_FATAL (R417). -/
theorem report (h : PowerOnly s t) {code : BitVec 16} {cls : Fin 5} {inst : Nat} {detail : List (BitVec 32)} :
    PowerOnly s (report t (pwrReport code cls inst detail)) := by
  unfold Machine.report reportRej
  refine .ite h.upd ?_
  unfold reportReal
  dsimp only
  split
  case h_1 names => cases names
  case h_2 names => cases names
  case h_3 => exact h.upd.toRings.stopDevice
  case h_4 => exact h.upd.toRings

/-! ### The loops -/

theorem engageBrake (h : PowerOnly s t) {w : Pwr} : PowerOnly s (engageBrake t w) := h.upd.report

theorem setQuad (h : PowerOnly s t) {q : Nat} {x : QuadPwr} : PowerOnly s (setQuad t q x) := h.upd

theorem quadChange (h : PowerOnly s t) {q : Nat} {x : QuadPwr} : PowerOnly s (quadChange t q x) :=
  .ite h.setQuad.report h.setQuad

theorem tripDevice (h : PowerOnly s t) {code : BitVec 16} {cls : Fin 5} {inst : Nat} {detail : List (BitVec 32)} :
    PowerOnly s (tripDevice t (pwrReport code cls inst detail)) := h.upd.report

theorem setSens (h : PowerOnly s t) {k : Nat} {x : Sens} : PowerOnly s (setSens t k x) := h.upd

theorem sensed (h : PowerOnly s t) {k : Nat} {temp : BitVec 16} : PowerOnly s (sensed t k temp) :=
  .ite (.tripDevice (.ite h.setSens.report h.setSens)) (.ite h.setSens.report h.setSens)

theorem refreshStack (h : PowerOnly s t) {r : BitVec 16 × Nat} : PowerOnly s (refreshStack t r) := h.upd.sensed

theorem pmReport (h : PowerOnly s t) {r : PmReading} : PowerOnly s (pmReport t r) := by
  unfold Machine.pmReport
  split
  · exact .ite h h.report
  · exact h.upd.report

theorem pmPoll (h : PowerOnly s t) {l : List PmReading} : PowerOnly s (pmPoll t l) :=
  .ite (foldl (fun _ _ hu => hu.pmReport) l h) h

/-! ### The commands -/

theorem execBrakeRelease : OnNext (PowerOnly s) (execBrakeRelease s) := by
  unfold Machine.execBrakeRelease
  split
  · exact onNext_ite (onNext_next (refl s).upd) (onNext_next (refl s))
  · exact onNext_next (refl s)

theorem execRefreshUpdate {temps : List (BitVec 16)} {mr4 : List (BitVec 8)} :
    OnNext (PowerOnly s) (execRefreshUpdate temps mr4 s) :=
  onNext_ite (onNext_next (foldl (fun _ _ hu => hu.refreshStack) _ (refl s)).upd) (onNext_next (refl s))

end PowerOnly

/-- Settles O59: each of the commands writes the power state, sends and reports. -/
theorem powerLoopsKeepTheRest : Obligations.PowerLoopsKeepTheRest := by
  unfold Obligations.PowerLoopsKeepTheRest
  intro i s t hi ht
  have hs := PowerOnly.refl s
  have honly : OnNext (PowerOnly s) (exec i s) := by
    cases i
    case weirSample => exact onNext_ite (onNext_next hs) (onNext_ite (onNext_next hs.engageBrake) (onNext_next hs.upd))
    case weirUpdate => exact onNext_ite (onNext_next hs) (onNext_next hs.upd)
    case pwrBrakeN => exact onNext_ite (onNext_next hs) (onNext_ite (onNext_next hs.upd) (onNext_next hs.engageBrake))
    case brakeRelease => exact PowerOnly.execBrakeRelease
    case pwrBrakeNRise => exact onNext_next hs.upd
    case droopTrip => exact onNext_ite (onNext_next hs) (onNext_next hs.setQuad)
    case droopWindow =>
      exact onNext_ite (onNext_next hs) (onNext_ite (onNext_next hs.quadChange.report) (onNext_next hs.quadChange))
    case agingMeasure => exact onNext_ite (onNext_next hs) (onNext_next hs.quadChange)
    case thermalThreshold => exact onNext_ite (onNext_next hs) (onNext_next hs.sensed)
    case thermalCeilingStep => exact onNext_ite (onNext_next hs) (onNext_next hs.setQuad)
    case refreshUpdate => exact PowerOnly.execRefreshUpdate
    case calibration => exact onNext_next hs
    case railMargin => exact onNext_ite (onNext_next hs) (onNext_next hs.report)
    case railExcursion => exact onNext_ite (onNext_next hs) (onNext_next hs.tripDevice)
    case pmbusPoll | pmAlertN => exact onNext_next hs.pmPoll
    all_goals exact hi.elim
  rw [honly t ht]
  exact ⟨rfl, rfl, rfl, rfl, rfl, rfl, rfl, rfl, rfl, rfl, rfl, rfl, rfl, rfl, rfl, rfl, rfl, rfl⟩

end Sys2Proof.Machine

/-! PROOFS. A write to a guarded register from a port without the register's semaphore (R292). -/

namespace Sys2Proof.Machine

@[simp] theorem getSem_noteTie (s : State) (port : RlPort) (o n : Nat) : getSem (noteTie s port o) n = getSem s n := by
  unfold noteTie
  split <;> rfl

@[simp] theorem holdsSem_noteTie (s : State) (port q : RlPort) (o n : Nat) :
    holdsSem (noteTie s port o) q n = holdsSem s q n := by
  simp [holdsSem]

@[simp] theorem noteTie_now (s : State) (port : RlPort) (o : Nat) : (noteTie s port o).now = s.now := by
  unfold noteTie
  split <;> rfl

theorem stage_of_windowOpen {s : State} {port : RlPort} (h : windowOpen s port = true) : s.sec.stage = 7 := by
  simp only [windowOpen, Bool.and_eq_true, beq_iff_eq] at h
  exact h.1.1

/-- A port without the semaphore has its write refused (R292). -/
theorem guarded_of_not_holdsSem {s : State} {port : RlPort} {n : Nat} {f : State → State} (hopen : windowOpen s port = true)
    (hlive : (getSem s n).held = false ∨ s.now < (getSem s n).leaseEnd) (hnot : holdsSem s port n = false) :
    guarded s port n f = guardRefuse s port := by
  simp [guarded, hopen, expireSem_of_live hlive, hnot]

/-- In stage 7 a refused write is counted and reported (R292, R387). -/
theorem guardRefuse_of_windowOpen {s : State} {port : RlPort} (hopen : windowOpen s port = true) :
    guardRefuse s port = report
      { s with gl := (if port = 0 then { s.gl with guardErr0 := satAdd s.gl.guardErr0 1 }
        else { s.gl with guardErr1 := satAdd s.gl.guardErr1 1 }) } (portReport Code.eSemGuard port []) := by
  have hstage := stage_of_windowOpen hopen
  simp [guardRefuse, semReport, hstage]

/-- A legal access of a guarded register through the open window acts under the register's guard (R433, R434). -/
theorem windowWrite_of_guard {s : State} {port : RlPort} {o : Nat} {wide upper : Bool} {v : BitVec 64} {r : Reg} {n : Nat}
    (hopen : windowOpen s port = true) (haligned : aligned o wide = true) (hhit : regHit o wide = some (r, upper))
    (hwide : wide = true ∨ r.sideEffect64 = false) (hguard : r.guard = some n) :
    windowWrite s port o wide v =
      guarded s port n (fun t => writeReg t (some port) r (mergeValue t (some port) r upper wide v)) := by
  have hlegal : (!wide && r.sideEffect64) = false := by
    rcases hwide with h | h <;> simp [h]
  simp [windowWrite, hopen, haligned, hhit, portWrite, hlegal, hguard]

theorem fpSem_lt (fp : FPort) : fpSem fp < 20 := by
  unfold fpSem fpPlane
  omega

/-- Semaphores 20 to 31 guard no register (Table 13.1). -/
theorem guard_lt {r : Reg} {n : Nat} (h : r.guard = some n) : n < 20 := by
  unfold Reg.guard at h
  split at h
  case isTrue readOnly => cases h
  case isFalse =>
    split at h
    all_goals cases h
    all_goals first
      | exact fpSem_lt _
      | omega

/-- Settles O57: the access reaches the register's guard, which refuses the port. -/
theorem guardedWritesNeedTheirSemaphore : Obligations.GuardedWritesNeedTheirSemaphore := by
  unfold Obligations.GuardedWritesNeedTheirSemaphore
  refine ⟨?_, fun r n => guard_lt, fun s port => rfl⟩
  rintro port offset wide value s u r upper n hopen haligned hhit hwide hguard hnot hlive rfl
  refine ⟨noteTie_eq_lastTie .., ?_⟩
  have hopen' : windowOpen (noteTie s port offset.toNat) port = true := by simpa using hopen
  rw [exec_registerWrite, execRegisterWrite, windowWrite_of_guard hopen' haligned hhit hwide hguard,
    guarded_of_not_holdsSem hopen' (by simpa using hlive) (by simpa using hnot), guardRefuse_of_windowOpen hopen']

end Sys2Proof.Machine

/-! PROOFS. Lengths and inversion of AES-256-GCM, as lent memory uses it (R230). -/

namespace Sys2Proof.Machine

@[simp] theorem length_leBytes (n v : Nat) : (leBytes n v).length = n := by
  induction n generalizing v with
  | zero => rfl
  | succ n ih => simp [leBytes, ih]

@[simp] theorem length_beBytes (n v : Nat) : (beBytes n v).length = n := by simp [beBytes]

@[simp] theorem length_upto (n : Nat) : (upto n).length = n := List.length_range

@[simp] theorem length_xorRun (a b : Bytes) : (xorRun a b).length = min a.length b.length := by simp [xorRun]

/-- A run XORed twice with a run at least as long is itself. -/
theorem xorRun_xorRun {a b : Bytes} (h : a.length ≤ b.length) : xorRun (xorRun a b) b = a := by
  induction a generalizing b with
  | nil => simp [xorRun]
  | cons x a ih =>
    cases b with
    | nil => simp at h
    | cons y b =>
      have htail := ih (b := b) (by simpa using h)
      simpa [xorRun, BitVec.xor_assoc] using htail

/-! ### AES-256 -/

/-- Every word has four bytes. -/
def Words4 (l : List Bytes) : Prop := ∀ w ∈ l, w.length = 4

theorem length_words4 (n : Nat) (bs : Bytes) : (words4 n bs).length = n := by
  induction n generalizing bs with
  | zero => rfl
  | succ n ih => simp [words4, ih]

theorem words4_words4 {n : Nat} {bs : Bytes} (h : 4 * n ≤ bs.length) : Words4 (words4 n bs) := by
  induction n generalizing bs with
  | zero => simp [Words4, words4]
  | succ n ih =>
    intro w hw
    rcases List.mem_cons.1 hw with rfl | hw
    · simp only [List.length_take]
      omega
    · exact ih (by simp only [List.length_drop]; omega) w hw

/-- The key schedule adds one word of four bytes at a time. -/
theorem aesExpand_words4 {n i : Nat} {rcon : BitVec 8} {w : List Bytes} (hlen : 8 ≤ w.length) (hw : Words4 w) :
    (aesExpand n i rcon w).length = w.length + n ∧ Words4 (aesExpand n i rcon w) := by
  induction n generalizing i rcon w with
  | zero => exact ⟨rfl, hw⟩
  | succ n ih =>
    have hhead : (w.headD []).length = 4 := by
      cases w with
      | nil => simp at hlen
      | cons x w => exact hw x (by simp)
    have hold : (w.getD 7 []).length = 4 := by
      have h7 : 7 < w.length := by omega
      rw [List.getD_eq_getElem _ _ h7]
      exact hw _ (List.getElem_mem h7)
    unfold aesExpand
    dsimp only
    split
    · have hnew : Words4 (xorRun (w.getD 7 []) (xorRun (List.map sbox ((w.headD []).drop 1 ++ (w.headD []).take 1))
          [rcon, 0, 0, 0]) :: w) := by
        intro x hx
        rcases List.mem_cons.1 hx with rfl | hx
        · simp only [length_xorRun, hold, List.length_map, List.length_append, List.length_drop, List.length_take, hhead,
            List.length_cons, List.length_nil]
          rfl
        · exact hw x hx
      obtain ⟨h1, h2⟩ := ih (i := i + 1) (rcon := xtime rcon) (by simp only [List.length_cons]; omega) hnew
      exact ⟨by rw [h1, List.length_cons]; omega, h2⟩
    · have hnew : Words4 (xorRun (w.getD 7 []) (if i % 8 = 4 then (w.headD []).map sbox else w.headD []) :: w) := by
        intro x hx
        rcases List.mem_cons.1 hx with rfl | hx
        · have hword : (if i % 8 = 4 then (w.headD []).map sbox else w.headD []).length = 4 := by
            split
            · rw [List.length_map, hhead]
            · exact hhead
          rw [length_xorRun, hold, hword]
          rfl
        · exact hw x hx
      obtain ⟨h1, h2⟩ := ih (i := i + 1) (rcon := rcon) (by simp only [List.length_cons]; omega) hnew
      exact ⟨by rw [h1, List.length_cons]; omega, h2⟩

theorem length_flatten_of_words4 {l : List Bytes} (h : Words4 l) : l.flatten.length = 4 * l.length := by
  induction l with
  | nil => rfl
  | cons x l ih =>
    rw [List.flatten_cons, List.length_append, ih (fun y hy => h y (by simp [hy])), h x (by simp), List.length_cons]
    omega

/-- A key of 32 bytes gives 15 round keys of 16 bytes. -/
theorem aesKeys_lengths {key : Bytes} (h : key.length = 32) :
    (aesKeys key).length = 15 ∧ ∀ k ∈ aesKeys key, k.length = 16 := by
  have hwords : Words4 (words4 8 key).reverse := fun w hw =>
    words4_words4 (n := 8) (bs := key) (by omega) w (by simpa using hw)
  obtain ⟨hlen, hexp⟩ := aesExpand_words4 (n := 52) (i := 8) (rcon := 1) (by simp [length_words4]) hwords
  refine ⟨by simp [aesKeys], fun k hk => ?_⟩
  simp only [aesKeys, List.mem_map, upto, List.mem_range] at hk
  obtain ⟨r, hr, rfl⟩ := hk
  rw [length_flatten_of_words4]
  · simp only [List.length_take, List.length_drop, List.length_reverse, hlen, length_words4]
    omega
  · intro w hw
    exact hexp w (List.mem_reverse.1 (List.mem_of_mem_drop (List.mem_of_mem_take hw)))

@[simp] theorem length_shiftRows (b : Bytes) : (shiftRows b).length = 16 := by simp [shiftRows]

@[simp] theorem length_mixCol (c : Bytes) : (mixCol c).length = 4 := by simp [mixCol]

theorem length_aesRounds {b : Bytes} {ks : List Bytes} (hb : b.length = 16) (hks : ∀ k ∈ ks, k.length = 16) :
    (aesRounds b ks).length = 16 := by
  induction ks generalizing b with
  | nil => exact hb
  | cons k t ih =>
    have hk := hks k (by simp)
    cases t with
    | nil => simp [aesRounds, hk]
    | cons k' t =>
      refine ih ?_ (fun x hx => hks x (by simp [hx]))
      simp [length_words4, hk]

/-- A block is encrypted into a block. -/
theorem length_aes256 {key blk : Bytes} (hkey : key.length = 32) (hblk : blk.length = 16) : (aes256 key blk).length = 16 := by
  obtain ⟨hlen, hks⟩ := aesKeys_lengths hkey
  unfold aes256
  split
  · exact hblk
  case h_2 k t hkeys =>
    rw [hkeys] at hks
    refine length_aesRounds ?_ (fun x hx => hks x (by simp [hx]))
    rw [length_xorRun, hblk, hks k (by simp)]
    rfl

/-! ### GCM -/

theorem length_gcmStream {key iv : Bytes} (hkey : key.length = 32) (hiv : iv.length = 12) (n c : Nat) :
    (gcmStream key iv n c).length = 16 * n := by
  induction n generalizing c with
  | zero => rfl
  | succ n ih =>
    rw [gcmStream, List.length_append, ih, length_aes256 hkey (by simp [hiv])]
    omega

theorem length_gcmTag {key iv ct aad : Bytes} (hkey : key.length = 32) (hiv : iv.length = 12) :
    (gcmTag key iv ct aad).length = 16 := by
  simp [gcmTag, length_aes256 hkey, hiv]

theorem length_le_stream {key iv : Bytes} (hkey : key.length = 32) (hiv : iv.length = 12) (text : Bytes) :
    text.length ≤ (gcmStream key iv (ceilDiv text.length 16) 2).length := by
  rw [length_gcmStream hkey hiv, ceilDiv]
  omega

theorem length_gcmCrypt {key iv : Bytes} (hkey : key.length = 32) (hiv : iv.length = 12) (text : Bytes) :
    (gcmCrypt key iv text).length = text.length := by
  rw [gcmCrypt, length_xorRun]
  exact min_eq_left (length_le_stream hkey hiv text)

/-- What was encrypted decrypts to itself. -/
theorem gcmCrypt_gcmCrypt {key iv : Bytes} (hkey : key.length = 32) (hiv : iv.length = 12) (text : Bytes) :
    gcmCrypt key iv (gcmCrypt key iv text) = text := by
  have hlen := length_gcmCrypt hkey hiv text
  unfold gcmCrypt at hlen ⊢
  rw [hlen, xorRun_xorRun (length_le_stream hkey hiv text)]

end Sys2Proof.Machine

/-! PROOFS. What the fabric's sending side changes: its own state and what was sent (R243-R258). -/

namespace Sys2Proof.Machine

/-- From `s` on, only the fabric's state and what was sent have changed. -/
def FabricOnly (s t : State) : Prop := t = { s with fab := t.fab, out := t.out }

namespace FabricOnly

variable {s t : State}

theorem refl (s : State) : FabricOnly s s := rfl

theorem trans {u : State} (h : FabricOnly s t) (hu : FabricOnly t u) : FabricOnly s u := by
  unfold FabricOnly at *
  rw [hu, h]

theorem upd (h : FabricOnly s t) {fab out} : FabricOnly s { t with fab := fab, out := out } := by
  unfold FabricOnly at *
  rw [h]

theorem ite {c : Prop} [Decidable c] {u : State} (ht : FabricOnly s t) (hu : FabricOnly s u) :
    FabricOnly s (if c then t else u) := by
  split
  · exact ht
  · exact hu

theorem foldl {α : Type} {f : State → α → State} (hf : ∀ u x, FabricOnly s u → FabricOnly s (f u x)) (l : List α)
    (h : FabricOnly s t) : FabricOnly s (l.foldl f t) := by
  induction l generalizing t with
  | nil => exact h
  | cons x l ih => exact ih (hf t x h)

theorem send (h : FabricOnly s t) {m : Sent} : FabricOnly s (send t m) := h.upd

theorem setFp (h : FabricOnly s t) {p : Nat} {x : FPortSt} : FabricOnly s (setFp t p x) := h.upd

/-! ### Packets -/

theorem beginBlocks (h : FabricOnly s t) {p n fill : Nat} {pkts : List Packet} : FabricOnly s (beginBlocks t p n fill pkts) :=
  foldl (fun _ _ hu => hu.send) _ h.setFp

theorem leave (h : FabricOnly s t) {p : Nat} {k : Packet} : FabricOnly s (leave t p k) :=
  .send (.ite h.setFp h.setFp.beginBlocks)

theorem giveCredit (h : FabricOnly s t) {fp : Option Nat} {net vc : Fin 2} {slots : Nat} :
    FabricOnly s (giveCredit t fp net vc slots) := by
  unfold Machine.giveCredit
  split
  · exact h.send
  · exact h

theorem forward (h : FabricOnly s t) {credit via : Option Nat} {k : Packet} : FabricOnly s (forward t credit via k) := by
  unfold Machine.forward
  split
  · exact h.giveCredit
  · exact .ite h.giveCredit.leave h.upd

theorem sendPkt (h : FabricOnly s t) {k : Packet} : FabricOnly s (sendPkt t k) := .ite h.upd h.forward

theorem sendCtl (h : FabricOnly s t) {jtag : BitVec 16} {unit : BitVec 4} {reply : Bool} {dst : Coord} {plane : XDie}
    {body : Bytes} : FabricOnly s (sendCtl t jtag unit reply dst plane body) := by
  unfold Machine.sendCtl
  split
  · exact h.sendPkt
  · exact h

theorem sendFab (h : FabricOnly s t) {dst : Coord} {plane : XDie} {m : FabMsg} : FabricOnly s (sendFab t dst plane m) := h.sendCtl

theorem toHolder (h : FabricOnly s t) {k line : Nat} {m : MsfMsg} : FabricOnly s (toHolder t k line m) :=
  .ite h.sendCtl h.send

end FabricOnly

end Sys2Proof.Machine

/-! PROOFS. Where stores land: the unified range, the pool's copies, lent lines and local stores (R216, R230, R343). -/

namespace Sys2Proof.Machine

/-! ### Operations that write neither local stores nor frames -/

/-- From `s` on, local stores and frames are as they were. -/
structure StoresKept (s t : State) : Prop where
  ls : t.ls = s.ls
  uni : t.uni = s.uni

namespace StoresKept

variable {s t : State}

theorem refl (s : State) : StoresKept s s := ⟨rfl, rfl⟩

theorem trans {u : State} (h : StoresKept s t) (hu : StoresKept t u) : StoresKept s u :=
  ⟨hu.ls.trans h.ls, hu.uni.trans h.uni⟩

theorem ite {c : Prop} [Decidable c] {u : State} (ht : StoresKept s t) (hu : StoresKept s u) :
    StoresKept s (if c then t else u) := by
  split
  · exact ht
  · exact hu

theorem foldl {α : Type} {f : State → α → State} (hf : ∀ u x, StoresKept s u → StoresKept s (f u x)) (l : List α)
    (h : StoresKept s t) : StoresKept s (l.foldl f t) := by
  induction l generalizing t with
  | nil => exact h
  | cons x l ih => exact ih (hf t x h)

/-- An update of any fields but the two memories. -/
theorem upd (h : StoresKept s t) {pending now free out gl parts ctxs seqs cores comp mem dies xds xcmds ins outs kept cmbs colls rl
    ft sec tags fab msf res err mtr md pwr frameSeq tap late} :
    StoresKept s (State.mk pending now free out gl parts ctxs seqs cores t.ls t.uni comp mem dies xds xcmds ins outs kept
      cmbs colls rl ft sec tags fab msf res err mtr md pwr frameSeq tap late) := ⟨h.ls, h.uni⟩

theorem of_fabric {u : State} (h : StoresKept s t) (hu : FabricOnly t u) : StoresKept s u :=
  h.trans ⟨by rw [hu], by rw [hu]⟩

theorem of_rings {u : State} (h : StoresKept s t) (hu : SameButRings t u) : StoresKept s u :=
  h.trans ⟨by rw [hu], by rw [hu]⟩

theorem send (h : StoresKept s t) {m : Sent} : StoresKept s (send t m) := h.upd

theorem setRes (h : StoresKept s t) {p : PartI} {r : ResPart} : StoresKept s (setRes t p r) := h.upd

/-- A CORRECTED or DEFERRED report reaches the collectors only (R417, Table 19.1). -/
theorem report (h : StoresKept s t) {r : Report} (hcls : r.cls.val < 2) : StoresKept s (report t r) := by
  unfold Machine.report reportRej
  refine .ite h.upd ?_
  unfold reportReal
  dsimp only
  split
  case h_1 fatal _ _ => omega
  case h_2 fatal _ => omega
  case h_3 fatal => omega
  case h_4 => exact h.upd.of_rings (sameButRings_toRings ..)

theorem dirLocalWrite (h : StoresKept s t) {a n : Nat} : StoresKept s (dirLocalWrite t a n) := by
  refine foldl (fun u e hu => .ite ?_ hu) _ h
  dsimp only
  split
  · exact (StoresKept.foldl (fun w k hw => hw.of_fabric (FabricOnly.refl w).toHolder) _ hu).upd
  · exact (hu.of_fabric (FabricOnly.refl u).toHolder).upd

theorem sendResync (h : StoresKept s t) {p : PartI} {k : Nat} : StoresKept s (sendResync t p k) :=
  foldl (fun _ _ hu => hu.send) _ h

theorem tellStandby (h : StoresKept s t) {p : PartI} {k : Nat} : StoresKept s (tellStandby t p k) := .ite h.send h

end StoresKept

/-! ### Lent lines -/

theorem mem_lentLines {f n l : Nat} : l ∈ lentLines f n ↔ 2 ^ 44 ≤ f ∧ n ≠ 0 ∧ f / 128 ≤ l ∧ l ≤ (f + n - 1) / 128 := by
  unfold lentLines
  split
  case isTrue own =>
    simp only [List.not_mem_nil, false_iff]
    omega
  case isFalse lent =>
    simp only [upto, List.mem_map, List.mem_range]
    constructor
    · rintro ⟨i, hi, rfl⟩
      omega
    · rintro ⟨-, hn, hlo, hhi⟩
      exact ⟨l - f / 128, by omega, by omega⟩

/-- A shorter run touches no other lines. -/
theorem lentLines_mono {f n m l : Nat} (hnm : n ≤ m) (h : l ∈ lentLines f n) : l ∈ lentLines f m := by
  rw [mem_lentLines] at *
  have : (f + n - 1) / 128 ≤ (f + m - 1) / 128 := Nat.div_le_div_right (by omega)
  omega

theorem length_lineKey (s : State) (l : Nat) : (lineKey s l).length = 32 := length_leBytes ..

theorem length_lineIv (s : State) (l n : Nat) : (lineIv s l n).length = 12 := length_leBytes ..

@[simp] theorem length_lineRaw (s : State) (l : Nat) : (lineRaw s l).length = 144 := by
  unfold lineRaw
  dsimp only
  split <;> simp

theorem length_of_openLine {s : State} {l : Nat} {bs : Bytes} (h : openLine s l = some bs) : bs.length = 128 := by
  simp only [openLine, Option.ite_none_right_eq_some, Option.some.injEq] at h
  obtain ⟨-, rfl⟩ := h
  rw [length_gcmCrypt (length_lineKey ..) (length_lineIv ..)]
  simp

/-- The text that a line has once the run of bytes from `f` lies over it. -/
def lineText (s : State) (f : Nat) (bs : Bytes) (l : Nat) : Bytes :=
  (upto 128).map (fun i => if f ≤ 128 * l + i ∧ 128 * l + i < f + bs.length then nth 0 bs (128 * l + i - f)
    else nth 0 ((openLine s l).getD []) i)

@[simp] theorem length_lineText (s : State) (f : Nat) (bs : Bytes) (l : Nat) : (lineText s f bs l).length = 128 := by simp [lineText]

/-- The line's ciphertext under a counter. -/
def lineCrypt (s : State) (l n : Nat) (text : Bytes) : Bytes := gcmCrypt (lineKey s l) (lineIv s l n) text

/-- The line's metadata: the tag's 96 bits and the counter. -/
def lineTail (s : State) (l n : Nat) (ct : Bytes) : Bytes := (gcmTag (lineKey s l) (lineIv s l n) ct []).take 12 ++ leBytes 4 n

@[simp] theorem length_lineCrypt (s : State) (l n : Nat) (text : Bytes) : (lineCrypt s l n text).length = text.length :=
  length_gcmCrypt (length_lineKey ..) (length_lineIv ..) _

theorem length_lineTag (s : State) (l n : Nat) (ct : Bytes) :
    ((gcmTag (lineKey s l) (lineIv s l n) ct []).take 12).length = 12 := by
  rw [List.length_take, length_gcmTag (length_lineKey ..) (length_lineIv ..)]
  rfl

@[simp] theorem length_lineTail (s : State) (l n : Nat) (ct : Bytes) : (lineTail s l n ct).length = 16 := by
  rw [lineTail, List.length_append, length_lineTag, length_leBytes]

/-- A line is written whole, with its metadata (R230). -/
theorem writeLine_eq (s : State) (f : Nat) (bs : Bytes) (l : Nat) :
    writeLine s f bs l = { s with
      uni := Memory.write (Memory.write s.uni (128 * l) (lineCrypt s l (lineCtr s l + 1) (lineText s f bs l))) (lineMeta l)
        (lineTail s l (lineCtr s l + 1) (lineCrypt s l (lineCtr s l + 1) (lineText s f bs l))) } := rfl

@[simp] theorem writeLine_ls (s : State) (f : Nat) (bs : Bytes) (l : Nat) : (writeLine s f bs l).ls = s.ls := by
  rw [writeLine_eq]

/-- Writing a line changes no byte outside the line and its metadata. -/
theorem readByte_writeLine {s : State} {f : Nat} {bs : Bytes} {l x : Nat} (hline : ¬ (128 * l ≤ x ∧ x < 128 * l + 128))
    (hmeta : ¬ (lineMeta l ≤ x ∧ x < lineMeta l + 16)) :
    Memory.readByte (writeLine s f bs l).uni x = Memory.readByte s.uni x := by
  rw [writeLine_eq]
  dsimp only
  rw [Memory.readByte_write_other (by simpa using hmeta), Memory.readByte_write_other (by simpa using hline)]

/-! ### Places -/

/-- Writing a run of a frame changes no byte apart from it. -/
theorem readByte_writeFrame {s : State} {f k x : Nat} {bs : Bytes} (hk : bs.length ≤ k) (hx : Apart [(f, k)] x) :
    Memory.readByte (writeFrame s f bs).uni x = Memory.readByte s.uni x := by
  obtain ⟨hrun, hlines⟩ := hx (f, k) (by simp)
  unfold writeFrame
  split
  case isTrue own => exact Memory.readByte_write_other (by dsimp only at hrun; omega)
  case isFalse lent =>
    have hsub : ∀ l ∈ lentLines f bs.length, l ∈ lentLines f k := fun l => lentLines_mono hk
    generalize lentLines f bs.length = ls at hsub
    induction ls generalizing s with
    | nil => rfl
    | cons l ls ih =>
      obtain ⟨hline, hmeta⟩ := hlines l (hsub l (by simp))
      rw [List.foldl_cons, ih (fun m hm => hsub m (by simp [hm])), readByte_writeLine hline hmeta]

@[simp] theorem clearPoison_uni (s : State) (f n : Nat) : (clearPoison s f n).uni = s.uni := rfl

@[simp] theorem clearPoison_ls (s : State) (f n : Nat) : (clearPoison s f n).ls = s.ls := rfl

@[simp] theorem writeFrame_ls (s : State) (f : Nat) (bs : Bytes) : (writeFrame s f bs).ls = s.ls := by
  unfold writeFrame
  split
  · rfl
  · generalize lentLines f bs.length = ls
    induction ls generalizing s with
    | nil => rfl
    | cons l ls ih => rw [List.foldl_cons, ih, writeLine_ls]

@[simp] theorem writePlaces_ls (s : State) (l : List (Nat × Nat)) (bs : Bytes) : (writePlaces s l bs).ls = s.ls := by
  induction l generalizing s bs with
  | nil => rfl
  | cons fk l ih => rw [writePlaces, ih, clearPoison_ls, writeFrame_ls]

/-- Writing at places changes no byte apart from them. -/
theorem readByte_writePlaces {s : State} {l : List (Nat × Nat)} {bs : Bytes} {x : Nat} (hx : Apart l x) :
    Memory.readByte (writePlaces s l bs).uni x = Memory.readByte s.uni x := by
  induction l generalizing s bs with
  | nil => rfl
  | cons fk l ih =>
    have hhead : Apart [fk] x := fun y hy => hx y (by simp_all)
    rw [writePlaces, ih (fun y hy => hx y (by simp [hy])), clearPoison_uni,
      readByte_writeFrame (by rw [List.length_take]; omega) hhead]

theorem readByte_keepBytes {s : State} {p : PartI} {a : Nat} {bs : Bytes} {x : Nat}
    (hx : ∀ l, places s p a bs.length = .ok l → Apart l x) :
    Memory.readByte (keepBytes s p a bs).uni x = Memory.readByte s.uni x := by
  unfold keepBytes
  split
  case h_1 l hl => exact readByte_writePlaces (hx l hl)
  case h_2 => rfl

@[simp] theorem keepBytes_ls (s : State) (p : PartI) (a : Nat) (bs : Bytes) : (keepBytes s p a bs).ls = s.ls := by
  unfold keepBytes
  split
  · exact writePlaces_ls ..
  · rfl

end Sys2Proof.Machine

/-! PROOFS. The pieces of a run, pre-images of a protected partition, and where a store lands (R216, R230, R343). -/

namespace Sys2Proof.Machine

/-! ### The pieces of a run -/

theorem translateRun_of_mem_eq {s t : State} (h : t.mem = s.mem) (p : PartI) (fuel a n : Nat) :
    translateRun t p fuel a n = translateRun s p fuel a n := by
  have htranslate : ∀ b, translate t p b = translate s p b := fun b => by
    simp only [translate, getPte, h]
    rfl
  induction fuel generalizing a n with
  | zero => rfl
  | succ fuel ih => simp only [translateRun, htranslate, ih]

/-- Where a run lies is a matter of the page table. -/
theorem places_of_mem_eq {s t : State} (h : t.mem = s.mem) (p : PartI) (a n : Nat) : places t p a n = places s p a n :=
  translateRun_of_mem_eq h ..

/-- After the piece within one page nothing is left, or the fuel still covers the pages that are. -/
theorem fuel_after_piece {fuel a n : Nat} (h : n + a % pageSize ≤ (fuel + 1) * pageSize) :
    n - min n (pageSize - a % pageSize) = 0 ∨
      n - min n (pageSize - a % pageSize) + (a + min n (pageSize - a % pageSize)) % pageSize ≤ fuel * pageSize := by
  rcases Nat.le_total n (pageSize - a % pageSize) with hin | hout
  · exact .inl (by omega)
  · have hend : (a + (pageSize - a % pageSize)) % pageSize = 0 := by
      unfold pageSize
      omega
    have hmod : a % pageSize < pageSize := Nat.mod_lt _ (by decide)
    refine .inr ?_
    rw [Nat.min_eq_right hout, hend]
    rw [Nat.succ_mul] at h
    omega

/-- The pieces of a run make up its length, once there is fuel for every page it touches. -/
theorem sum_translateRun {s : State} {p : PartI} {fuel a n : Nat} {l : List (Nat × Nat)}
    (hfuel : n = 0 ∨ n + a % pageSize ≤ fuel * pageSize) (h : translateRun s p fuel a n = .ok l) : (l.map (·.2)).sum = n := by
  induction fuel generalizing a n l with
  | zero =>
    cases h
    simp only [List.map_nil, List.sum_nil]
    omega
  | succ fuel ih =>
    unfold translateRun at h
    split at h
    case isTrue none => cases h; simp [none]
    case isFalse some =>
      dsimp only at h
      split at h
      case h_1 => cases h
      case h_2 f _ =>
        split at h
        case h_1 => cases h
        case h_2 rest hrest =>
          cases h
          have hsum := ih (fuel_after_piece (hfuel.resolve_left some)) hrest
          rw [List.map_cons, List.sum_cons, hsum]
          exact Nat.add_sub_cancel' (Nat.min_le_left ..)

theorem sum_places {s : State} {p : PartI} {a n : Nat} {l : List (Nat × Nat)} (h : places s p a n = .ok l) :
    (l.map (·.2)).sum = n := by
  refine sum_translateRun (.inr ?_) h
  unfold pageSize
  omega

theorem places_zero (s : State) (p : PartI) (a : Nat) : places s p a 0 = .ok [] := rfl

theorem length_flatMap_of_length {α : Type} {l : List α} {f : α → Bytes} {n : Nat} (h : ∀ x ∈ l, (f x).length = n) :
    (l.flatMap f).length = l.length * n := by
  induction l with
  | nil => simp
  | cons x l ih =>
    rw [List.flatMap_cons, List.length_append, ih (fun y hy => h y (by simp [hy])), h x (by simp), List.length_cons]
    ring

theorem length_frameBytes (s : State) (f n : Nat) : (frameBytes s f n).length = n := by
  unfold frameBytes
  split
  case isTrue own => simp
  case isFalse lent =>
    have hline : ∀ l ∈ lentLines f n, ((openLine s l).getD (List.replicate 128 0)).length = 128 := by
      intro l _
      cases hopen : openLine s l with
      | none => simp
      | some bs => exact length_of_openLine hopen
    rw [List.length_take, List.length_drop, length_flatMap_of_length hline]
    unfold lentLines
    split
    · simp only [List.length_nil]
      omega
    · simp only [List.length_map, length_upto]
      omega

theorem length_readPlaces (s : State) (l : List (Nat × Nat)) : (readPlaces s l).length = (l.map (·.2)).sum := by
  induction l with
  | nil => rfl
  | cons fk l ih => rw [readPlaces, List.length_append, ih, length_frameBytes, List.map_cons, List.sum_cons]

/-- A piece that has a place reads as 64 KiB, one that has none as nothing. -/
theorem length_pieceBytes (s : State) (p : PartI) (k : Nat) :
    (pieceBytes s p k).length = parityPiece ∨ (pieceBytes s p k).length = 0 := by
  unfold pieceBytes
  split
  case h_1 l hl => exact .inl (by rw [length_readPlaces, sum_places hl])
  case h_2 => exact .inr rfl

/-! ### Pre-images (R343) -/

/-- The first write to a piece keeps its pre-image, and changes nothing apart from the pool's slot. -/
theorem readByte_poolWrite {s t : State} {p : PartI} {slot k x : Nat} (hmem : t.mem = s.mem) (huni : t.uni = s.uni)
    (hbase : (getRes t p).poolBase = (getRes s p).poolBase)
    (hx : ∀ l, places s p ((getRes s p).poolBase.toNat + parityPiece * slot) parityPiece = .ok l → Apart l x) :
    Memory.readByte (poolWrite t p slot (pieceBytes s p k)).uni x = Memory.readByte s.uni x := by
  unfold poolWrite
  rw [readByte_keepBytes, huni]
  intro l hl
  rw [places_of_mem_eq hmem, hbase] at hl
  rcases length_pieceBytes s p k with h | h
  · exact hx l (h ▸ hl)
  · rw [h, places_zero] at hl
    cases hl
    exact fun fk hfk => absurd hfk (by simp)

theorem touchPiece_ls (s : State) (p : PartI) (k : Nat) : (touchPiece s p k).ls = s.ls := by
  unfold touchPiece
  dsimp only
  split
  · rfl
  · split
    case h_1 d _ => split <;> rfl
    case h_2 =>
      split
      · rw [(StoresKept.refl _).tellStandby.ls]
        exact keepBytes_ls ..
      · exact (StoresKept.report (StoresKept.sendResync (StoresKept.setRes (.refl s))) Nat.one_lt_two).ls

theorem readByte_touchPiece {s : State} {p : PartI} {k x : Nat}
    (hx : ∀ l, places s p ((getRes s p).poolBase.toNat + parityPiece * poolFree (getRes s p)) parityPiece = .ok l → Apart l x) :
    Memory.readByte (touchPiece s p k).uni x = Memory.readByte s.uni x := by
  unfold touchPiece
  dsimp only
  split
  · rfl
  · split
    case h_1 d _ => split <;> rfl
    case h_2 =>
      split
      · rw [(StoresKept.refl _).tellStandby.uni]
        exact readByte_poolWrite rfl rfl (by rw [getRes_setRes, if_pos rfl]) hx
      · rw [(StoresKept.report (StoresKept.sendResync (StoresKept.setRes (.refl s))) Nat.one_lt_two).uni]

theorem foldl_touchPiece_ls (p : PartI) (k : Nat) (js : List Nat) (s : State) :
    (js.foldl (fun t j => touchPiece t p (k + j)) s).ls = s.ls := by
  induction js generalizing s with
  | nil => rfl
  | cons j js ih => rw [List.foldl_cons, ih, touchPiece_ls]

theorem protectWrite_ls (s : State) (p : PartI) (a : Nat) (bs : Bytes) : (protectWrite s p a bs).ls = s.ls := by
  unfold protectWrite
  dsimp only
  split
  · rfl
  · split
    · rfl
    · split
      · exact foldl_touchPiece_ls ..
      · rfl
      · rfl

theorem protectRun_ls (fuel : Nat) (s : State) (p : PartI) (a : Nat) (bs : Bytes) : (protectRun fuel s p a bs).ls = s.ls := by
  induction fuel generalizing s a bs with
  | zero => rfl
  | succ fuel ih =>
    unfold protectRun
    split
    · rfl
    · rw [ih, protectWrite_ls]

/-- Without protection, and on a protector, nothing is kept first. -/
theorem protectRun_of_off {s : State} {p : PartI} (h : (getRes s p).state = .off ∨ s.res.role ≠ 0) (fuel a : Nat) (bs : Bytes) :
    protectRun fuel s p a bs = s := by
  induction fuel generalizing a bs with
  | zero => rfl
  | succ fuel ih =>
    unfold protectRun
    split
    · rfl
    · have hsame : protectWrite s p a (bs.take (pageSize - a % pageSize)) = s := by simp only [protectWrite, if_pos h]
      dsimp only
      rw [hsame, ih]

/-! ### Stores of the unified range -/

/-- A write that answers has kept its pre-images, written its places, and told the directory (R216, R281). -/
theorem eq_of_writeUni {s t : State} {p : PartI} {a : Nat} {bs : Bytes} {l : List (Nat × Nat)}
    (hl : places s p a bs.length = .ok l) (ht : writeUni s p a bs = .ok t) :
    t = dirLocalWrite (writePlaces (protectRun (bs.length / pageSize + 2) s p a bs) l bs) a bs.length := by
  unfold writeUni writeHome at ht
  rw [hl] at ht
  dsimp only at ht
  cases hrefused : lentRefused s l with
  | some c =>
    rw [hrefused] at ht
    cases ht
  | none =>
    rw [hrefused] at ht
    dsimp only at ht
    split at ht
    · cases ht
    · cases ht
      rfl

theorem dirLocalWrite_ls (s : State) (a n : Nat) : (dirLocalWrite s a n).ls = s.ls := (StoresKept.refl s).dirLocalWrite.ls

theorem dirLocalWrite_uni (s : State) (a n : Nat) : (dirLocalWrite s a n).uni = s.uni := (StoresKept.refl s).dirLocalWrite.uni

/-- A write within the device's own frames reads back. -/
theorem read_writePlaces_own (s : State) {f : Nat} (hf : f < 2 ^ 44) (bs : Bytes) :
    Memory.read (writePlaces s [(f, bs.length)] bs).uni f bs.length = bs := by
  have hown : (writePlaces s [(f, bs.length)] bs).uni = Memory.write s.uni f bs := by
    simp only [writePlaces, List.take_length, clearPoison_uni, writeFrame, if_pos hf]
  rw [hown, Memory.read_write]

/-! ### A line written and opened again (R230) -/

theorem leNat_leBytes (n v : Nat) : leNat (leBytes n v) = v % 256 ^ n := by
  induction n generalizing v with
  | zero => simp [leBytes, leNat, Nat.mod_one]
  | succ n ih =>
    have hlow : (BitVec.ofNat 8 v).toNat = v % 256 := BitVec.toNat_ofNat v 8
    rw [leBytes, leNat, ih, hlow, Nat.pow_succ', Nat.mod_mul]

theorem leNat_of_all_zero {bs : Bytes} (h : ∀ b ∈ bs, b = 0) : leNat bs = 0 := by
  induction bs with
  | nil => rfl
  | cons b bs ih => simp [leNat, h b (by simp), ih (fun c hc => h c (by simp [hc]))]

/-- A run apart from a write reads as before it. -/
theorem Memory.read_write_apart {m : Memory} {a c n : Nat} {bs : Bytes} (h : a + n ≤ c ∨ c + bs.length ≤ a) :
    Memory.read (Memory.write m c bs) a n = Memory.read m a n := by
  apply List.ext_getElem (by simp)
  intro i hi _
  rw [Memory.length_read] at hi
  rw [Memory.getElem_read, Memory.getElem_read, Memory.readByte_write_other (by omega)]

/-- A line's metadata with a counter that is not 0 are not all zero. -/
theorem lineTail_not_zero (s : State) (l n : Nat) (ct : Bytes) (hn : n % 2 ^ 32 ≠ 0) :
    (lineTail s l n ct).all (· == 0) = false := by
  rw [Bool.eq_false_iff]
  intro hall
  simp only [List.all_eq_true, beq_iff_eq, lineTail, List.mem_append] at hall
  have hzero := leNat_of_all_zero (fun b hb => hall b (.inr hb))
  rw [leNat_leBytes] at hzero
  omega

/-- What the lender holds of a line that was written: its ciphertext and its metadata under the next counter. -/
theorem lineRaw_writeLine {s : State} {f l : Nat} {bs : Bytes} (hlo : 2 ^ 37 ≤ l) (hhi : l < 2 ^ 38)
    (hctr : lineCtr s l < 2 ^ 32 - 1) :
    lineRaw (writeLine s f bs l) l = lineCrypt s l (lineCtr s l + 1) (lineText s f bs l) ++
      lineTail s l (lineCtr s l + 1) (lineCrypt s l (lineCtr s l + 1) (lineText s f bs l)) := by
  rw [writeLine_eq]
  generalize hct : lineCrypt s l (lineCtr s l + 1) (lineText s f bs l) = ct
  generalize htail : lineTail s l (lineCtr s l + 1) ct = tail
  have hctlen : ct.length = 128 := by rw [← hct, length_lineCrypt, length_lineText]
  have htaillen : tail.length = 16 := by rw [← htail, length_lineTail]
  have hmeta : Memory.read (Memory.write (Memory.write s.uni (128 * l) ct) (lineMeta l) tail) (lineMeta l) 16 = tail := by
    rw [← htaillen, Memory.read_write]
  have hline : Memory.read (Memory.write (Memory.write s.uni (128 * l) ct) (lineMeta l) tail) (128 * l) 128 = ct := by
    rw [Memory.read_write_apart (by unfold lineMeta; omega), ← hctlen, Memory.read_write]
  have hzero : tail.all (· == 0) = false := by
    rw [← htail]
    exact lineTail_not_zero _ _ _ _ (by omega)
  unfold lineRaw
  dsimp only
  rw [hmeta, hline, hzero, Bool.and_false, if_neg (by decide)]

/-- The counter of a line that was written is the next one. -/
theorem lineCtr_writeLine {s : State} {f l : Nat} {bs : Bytes} (hlo : 2 ^ 37 ≤ l) (hhi : l < 2 ^ 38)
    (hctr : lineCtr s l < 2 ^ 32 - 1) : lineCtr (writeLine s f bs l) l = lineCtr s l + 1 := by
  rw [lineCtr, lineRaw_writeLine hlo hhi hctr, lineTail, ← List.append_assoc,
    List.drop_left' (by rw [List.length_append, length_lineCrypt, length_lineText, length_lineTag]), leNat_leBytes]
  omega

/-- A line's key does not depend on the frames. -/
theorem lineKey_upd (s : State) (m : Memory) (l : Nat) : lineKey { s with uni := m } l = lineKey s l := rfl

/-- A line's counter block does not depend on the frames. -/
theorem lineIv_upd (s : State) (m : Memory) (l n : Nat) : lineIv { s with uni := m } l n = lineIv s l n := rfl

/-- A line opens when its metadata carry the tag of its ciphertext. -/
theorem openLine_of_raw {s : State} {l : Nat} {ct : Bytes} (hct : ct.length = 128)
    (hraw : lineRaw s l = ct ++ lineTail s l (lineCtr s l) ct) : openLine s l = some (lineCrypt s l (lineCtr s l) ct) := by
  have htag : (lineTail s l (lineCtr s l) ct).take 12 = (gcmTag (lineKey s l) (lineIv s l (lineCtr s l)) ct []).take 12 :=
    List.take_left' (length_lineTag ..)
  rw [openLine, hraw, List.take_left' hct, List.drop_left' hct, htag, if_pos (Eq.refl _), lineCrypt]

/-- A line that was written opens to its text with the run laid over it. -/
theorem openLine_writeLine {s : State} {f l : Nat} {bs : Bytes} (hlo : 2 ^ 37 ≤ l) (hhi : l < 2 ^ 38)
    (hctr : lineCtr s l < 2 ^ 32 - 1) : openLine (writeLine s f bs l) l = some (lineText s f bs l) := by
  have hkey : lineKey (writeLine s f bs l) l = lineKey s l := lineKey_upd ..
  have hiv : ∀ n, lineIv (writeLine s f bs l) l n = lineIv s l n := fun n => lineIv_upd ..
  have hctlen : (lineCrypt s l (lineCtr s l + 1) (lineText s f bs l)).length = 128 := by rw [length_lineCrypt, length_lineText]
  have hraw := lineRaw_writeLine (bs := bs) (f := f) hlo hhi hctr
  rw [openLine_of_raw hctlen (by rw [hraw, lineTail, lineTail, lineCtr_writeLine hlo hhi hctr, hkey, hiv]),
    lineCtr_writeLine hlo hhi hctr, lineCrypt, hkey, hiv, lineCrypt, gcmCrypt_gcmCrypt (length_lineKey ..) (length_lineIv ..)]

/-! ### Local stores (R87) -/

theorem writeLs_ls (s : State) (core a : Nat) (bs : Bytes) : (writeLs s core a bs).ls = Memory.write s.ls (lsKey core a) bs := rfl

/-- Settles O60. -/
theorem storesLandWhereTheyShould : Obligations.StoresLandWhereTheyShould := by
  unfold Obligations.StoresLandWhereTheyShould
  refine ⟨?_, fun s p k x hx => ⟨touchPiece_ls s p k, readByte_touchPiece hx⟩, ?_, ?_, ?_⟩
  · rintro s t u p a bs l hl ht rfl
    have heq := eq_of_writeUni hl ht
    refine ⟨?_, fun x hx => ?_, fun hoff => by rw [protectRun_of_off hoff]⟩
    · rw [heq, dirLocalWrite_ls, writePlaces_ls, protectRun_ls]
    · rw [heq, dirLocalWrite_uni, readByte_writePlaces hx]
  · intro s t p a bs f hl hf ht
    rw [eq_of_writeUni hl ht, dirLocalWrite_uni, read_writePlaces_own _ hf]
  · intro s f l bs hlo hhi hctr
    exact ⟨lineCtr_writeLine hlo hhi hctr, openLine_writeLine hlo hhi hctr⟩
  · intro s core a bs
    refine ⟨?_, rfl, fun x hx => ?_⟩
    · rw [readLs, writeLs_ls, Memory.read_write]
    · rw [writeLs_ls, Memory.readByte_write_other hx]

end Sys2Proof.Machine

/-! PROOFS. The reset state, the queue, resets and the die-to-die links (R11, R440-R442, R452, R459). -/

namespace Sys2Proof.Machine

/-- Settles O50: the reset state computes to the text's values. -/
theorem resetGivesTheSpecsValues : Obligations.ResetGivesTheSpecsValues := by
  unfold Obligations.ResetGivesTheSpecsValues
  exact ⟨rfl, rfl, rfl, rfl, fun _ => ⟨rfl, rfl⟩, fun _ => rfl, fun _ => rfl, fun _ => rfl, rfl, rfl, rfl, rfl, rfl⟩

/-- Settles O51: no memory of the reset state lists a byte. -/
theorem resetMemoriesAreCanonical : Obligations.ResetMemoriesAreCanonical := by
  unfold Obligations.ResetMemoriesAreCanonical
  rfl

/-! ### The queue and idle steps -/

theorem step_of_pending_cons {s : State} {c : Instr} {rest : List Instr} (h : s.pending = c :: rest) :
    step s = exec c { s with pending := rest } := by rw [step, h]

theorem step_of_pending_nil {s : State} (h : s.pending = []) : step s = ownStep s := by rw [step, h]

/-- An idle step's own work leaves the queue and the clock as they are. -/
theorem kept_idle (s : State) : Kept s (if s.gl.inReset = true then s else blockTick s) :=
  kept_ite (fun _ => kept_refl) (fun _ => kept_blockTick kept_refl)

@[simp] theorem tick_now (s : State) : (tick s).now = s.now + 1 := congrArg (· + 1) (kept_idle s).now

@[simp] theorem tick_pending (s : State) : (tick s).pending = s.pending := (kept_idle s).pending

theorem takeUp_eq (s : State) (ks : List Packet) :
    takeUp s ks = { s with fab := { s.fab with delivered := (takeUp s ks).fab.delivered } } := rfl

/-- With no raised incarnation to act on, the first delivered packet that spells a command is taken up. -/
theorem nextOwn_of_delivered {s : State} {c : Option Instr} {ks : List Packet} (hraised : s.fab.raised = [])
    (hfind : s.fab.delivered.findSome? (packetUse s) = some (c, ks)) : nextOwn s = some (c, takeUp s ks) := by
  rw [nextOwn, hraised, hfind]

/-- Settles O48: a step runs the front command, else what the device does of itself, else the tick. -/
theorem stepRunsTheFrontCommand : Obligations.StepRunsTheFrontCommand := by
  unfold Obligations.StepRunsTheFrontCommand
  refine ⟨fun c rest s h => step_of_pending_cons h, fun s hidle hown => ⟨_, ?_, rfl, tick_now s, ?_⟩, ?_⟩
  · rw [step_of_pending_nil hidle, ownStep, hown]
  · rw [tick_pending, hidle]
  · rintro s t c ks hidle hraised hfind rfl
    refine ⟨takeUp_eq s ks, ?_⟩
    rw [step_of_pending_nil hidle, ownStep, nextOwn_of_delivered hraised hfind]
    cases c with
    | none => rfl
    | some i => rfl

/-! ### Resets and links -/

theorem resetWrite_of_key {s : State} {port : RlPort} {v : BitVec 32} (hreq : v.extractLsb' 0 8 = 1#8)
    (hkey : v.extractLsb' 8 8 = 0xA5#8) (hnone : s.gl.resetReq = none) :
    resetWrite s (some port) v =
      { s with gl := { s.gl with resetReq := some (s.now + 10000, (if port = 0 then 2 else 3)) } } := by
  simp [resetWrite, hreq, hkey, hnone]

/-- Settles O1: each command is its function, unfolded at the case its hypotheses name. -/
theorem linksAndResetsAct : Obligations.LinksAndResetsAct := by
  unfold Obligations.LinksAndResetsAct
  refine ⟨?good, ?bad, ?sixteenth, ?request, ?reset, ?resetN, ?release, ?tapLow, ?tapHigh⟩
  case good =>
    intro link sent got crc s hreset hstop hok
    simp [execD2dFlitReceive, hreset, hstop, hok]
  case bad =>
    intro link sent got crc s hreset hstop hbad hn
    simp [execD2dFlitReceive, hreset, hstop, hbad, hn]
  case sixteenth =>
    intro link sent got crc s hreset hstop hbad hn
    simp [execD2dFlitReceive, hreset, hstop, hbad, hn]
  case request =>
    intro port value s hmay hreq hkey hnone
    rw [exec_deviceResetRequest, execDeviceResetRequest, guarded_of_mayWrite hmay, resetWrite_of_key hreq hkey hnone]
  case reset =>
    intro s due cause hdue hnow
    refine ⟨enterReset s cause, ?_, rfl, rfl, rfl, rfl, rfl, rfl, rfl, rfl, rfl, rfl, rfl⟩
    simp only [exec_deviceReset, execDeviceReset, hdue, if_pos hnow]
  case resetN => exact fun s => ⟨_, rfl, rfl, rfl, rfl, rfl, rfl, rfl, rfl, rfl⟩
  case release =>
    intro s hreset
    rw [exec_resetRelease, execResetRelease, if_pos hreset]
  case tapLow =>
    intro i s hlow
    simp [execTapInstruction, hlow]
  case tapHigh =>
    intro i s hhigh
    by_cases hdrives : tapDrives i = true <;> simp [execTapInstruction, hhigh, hdrives]

/-! ### Semaphores (R289) -/

/-- Where LEASE_MS is 0 the take of the port that wins the tie ends as it begins, and the other port's own take follows it:
the semaphore goes through two tickets. -/
theorem owner_take_zeroLeaseTie : (getSem (semTakeTied zeroLeaseTie 1 2) 2).owner = 1 :=
  owner_semTakeTied_of_free rfl

/-- Refutes O3: its clause on ties does not exclude LEASE_MS 0, which a state may hold. There port 0 wins the tie, its lease ends as
it begins, and port 1's own command takes the semaphore. -/
theorem not_semaphoresTakeAndRelease : ¬ Obligations.SemaphoresTakeAndRelease := by
  unfold Obligations.SemaphoresTakeAndRelease
  rintro ⟨-, htie, -⟩
  obtain ⟨t, ht, hsem, -⟩ := htie 1 0 2 zeroLeaseTie semAnswers_zeroLeaseTie rfl semRival_zeroLeaseTie
  rw [exec_semTake, execSemTake, if_pos (show semAnswers zeroLeaseTie 1 (2 : Fin 32).val = true from semAnswers_zeroLeaseTie)] at ht
  injection ht with ht
  have howner : (getSem (semTakeTied zeroLeaseTie 1 2) 2).owner = 0 := by
    rw [← ht] at hsem
    exact congrArg Sem.owner hsem
  rw [owner_take_zeroLeaseTie] at howner
  exact absurd howner (by decide)

end Sys2Proof.Machine

/-! PROOFS. Error collection (R417-R428), power limits and control loops (R401-R414). -/

namespace Sys2Proof.Machine

/-! ### Rings -/

theorem ringCfgWrite_off {s : State} {ring : RlPort} {v : BitVec 32} (h : v.getLsbD 5 = false) :
    ringCfgWrite s ring v = setRing s ring { getRing s ring with log2 := v.extractLsb' 0 5, en := false, enabled := false } := by
  simp only [ringCfgWrite, h, Bool.false_eq_true, not_false_eq_true, if_true]

theorem ringCfgWrite_on {s : State} {ring : RlPort} {v : BitVec 32} {g : ErrRing} (hv : v.getLsbD 5 = true)
    (hg : g = { getRing s ring with log2 := v.extractLsb' 0 5, en := true }) (hok : ringSetOk g = true) :
    ringCfgWrite s ring v = ringDrain g.hold.length
      (writeComp (setRing s ring { g with
        enabled := true, bad := false, head := ringHeadLine (setRing s ring g) ring
        tail := ringHeadLine (setRing s ring g) ring, seq := 0 }) ring
        (g.line.toNat + 64) (leBytes 4 (ringHeadLine (setRing s ring g) ring).toNat)) ring := by
  subst hg
  simp only [ringCfgWrite, hv, not_true_eq_false, if_false, hok, if_true]

/-- Settles O47: each command's own branches, at the case its hypotheses name. -/
theorem errorsAreCollected : Obligations.ErrorsAreCollected := by
  unfold Obligations.ErrorsAreCollected
  refine ⟨?report, ?expiry, ?head, ?badHead, ?off, ?on, ?risk⟩
  case report =>
    intro r s hc
    rw [exec_errorReport, execErrorReport, if_pos hc]
  case expiry =>
    intro port i s c hget hc hend
    simp only [exec_coalesceExpiry, execCoalesceExpiry, hget, if_pos (And.intro hc hend)]
  case head =>
    intro port s hc hen hup hpos
    simp only [exec_errRingHead, execErrRingHead, if_pos (And.intro hc (And.intro hen hup)), if_pos hpos]
  case badHead =>
    intro port s hc hen hup hpos
    simp [execErrRingHead, hc, hen, hup, hpos, ringBad]
  case off =>
    intro port ring value s hmay hv
    rw [exec_errRingCfg, execErrRingCfg, guarded_of_mayWrite hmay, ringCfgWrite_off hv]
  case on =>
    intro port ring value s g h hmay hv hg hok hh
    rw [exec_errRingCfg, execErrRingCfg, guarded_of_mayWrite hmay, ringCfgWrite_on hv hg hok, ← hh]
  case risk =>
    intro s n rise hrun hn hrise
    simp only [exec_riskUpdate, execRiskUpdate, if_pos hrun, ← hn, ← hrise]
    split <;> rfl

/-! ### The Weir and the brake -/

theorem weirSample_brakeInt (w : Pwr) (p : Nat) : (weirSample w p).brakeInt = w.brakeInt := by
  unfold weirSample
  rfl

/-- Settles O44: each command's own branches, at the case its hypotheses name. -/
theorem powerLimitsAct : Obligations.PowerLimitsAct := by
  unfold Obligations.PowerLimitsAct
  refine ⟨?sample, ?update, ?brake, fun s => rfl, ?release⟩
  case sample =>
    rintro p railOver s w hreset rfl
    simp only [exec_weirSample, execWeirSample, hreset, Bool.false_eq_true, if_false, weirSample_brakeInt, Bool.not_eq_true]
    split <;> rfl
  case update =>
    rintro s r hreset hsamples rfl
    simp [execWeirUpdate, hreset, hsamples]
  case brake =>
    intro s hreset hpin
    simp [execPwrBrakeN, hreset, hpin, engageBrake]
  case release =>
    intro s t hsince hint hdue
    simp only [exec_brakeRelease, execBrakeRelease, hsince, if_pos (And.intro hint hdue)]

/-! ### Quads, sensors and PINs -/

/-- A step within 32..64 is taken as written. -/
theorem pinStepOf_of_legal {s : State} {v : BitVec 32} (hlo : 32 ≤ bitsOf v.toNat 0 7) (hhi : bitsOf v.toNat 0 7 ≤ 64) :
    pinStepOf s v = BitVec.ofNat 7 (bitsOf v.toNat 0 7) := by
  simp [pinStepOf, hlo, hhi]

/-- Settles O45: each command's own branches, at the case its hypotheses name. -/
theorem quadAndThermalLoopsAct : Obligations.QuadAndThermalLoopsAct := by
  unfold Obligations.QuadAndThermalLoopsAct
  refine ⟨?trip, ?window, ?aging, ?threshold, ?ceiling, ?refresh, ?pin, ?pinHeld⟩
  case trip =>
    intro q k s hreset
    simp [execDroopTrip, hreset]
  case window =>
    rintro q s t hreset rfl
    simp only [exec_droopWindow, execDroopWindow, hreset, Bool.false_eq_true, if_false]
    split <;> rfl
  case aging =>
    intro q slow s hreset
    simp [execAgingMeasure, hreset, agingSet]
  case threshold =>
    rintro k temp s t u y hreset rfl rfl rfl
    simp only [exec_thermalThreshold, execThermalThreshold, hreset, Bool.false_eq_true, if_false, sensed, tripDevice,
      Bool.not_eq_true]
  case ceiling =>
    intro q s hreset
    simp [execThermalCeilingStep, hreset]
  case refresh =>
    rintro temps mr4 s t hrun rfl
    rw [exec_refreshUpdate, execRefreshUpdate, if_pos hrun]
  case pin =>
    intro port p value s hmay hen hlo hhi
    rw [exec_pwrPinWrite, execPwrPinWrite, guarded_of_mayWrite hmay]
    simp only [pinWrite, hen, pinStepOf_of_legal hlo hhi, Bool.false_eq_true, if_false]
  case pinHeld =>
    rintro port p value s t hmay hen hlo hhi rfl
    rw [exec_pwrPinWrite, execPwrPinWrite, guarded_of_mayWrite hmay]
    simp only [pinWrite, hen, pinStepOf_of_legal hlo hhi, if_true]

/-! ### Self-test and rails -/

/-- Settles O46: each command's own branches, at the case its hypotheses name. -/
theorem selfTestsAndRailsAct : Obligations.SelfTestsAndRailsAct := by
  unfold Obligations.SelfTestsAndRailsAct
  refine ⟨?due, ?sliceEnd, ?cmd, fun c s => rfl, ?poll, ?margin, ?excursion⟩
  case due =>
    rintro q s x hrun hstart rfl
    simp only [exec_selftestSliceDue, execSelftestSliceDue, if_pos (And.intro hrun hstart)]
    split <;> rfl
  case sliceEnd =>
    rintro q pass again s t hrun hslice rfl
    simp only [exec_selftestSliceEnd, execSelftestSliceEnd, if_pos (And.intro hrun hslice)]
    split
    · rfl
    · split <;> rfl
  case cmd =>
    intro port value s hmay
    rw [exec_pwrStCmd, execPwrStCmd, guarded_of_mayWrite hmay, stCmdWrite]
  case poll =>
    intro l s hrun
    simp [execPmbusPoll, execPmAlertN, pmPoll, hrun]
  case margin =>
    intro rail dev s hreset
    simp [execRailMargin, hreset]
  case excursion =>
    intro rail dev s hreset hstop
    simp [execRailExcursion, hreset, hstop, tripDevice]

end Sys2Proof.Machine

/-! PROOFS. The Meter Room: frames, windows, supplies, calendar and bus (R363-R376, R381, R382, R456). -/

namespace Sys2Proof.Machine

/-! ### The bus -/

theorem busRead_of_powered {s : State} {cmd : BitVec 8} {data : Bytes} (h : s.md.powered = true) :
    busRead s [] cmd data = .next (busReply s cmd data) := by simp [busRead, h]

theorem busCmd_of_powered {s : State} {payload d : Bytes} {cmd : BitVec 8} {n : Nat} {f : Bytes → State}
    (h : s.md.powered = true) (hd : busWrite cmd n payload = some d) : busCmd s payload cmd n f = .next (f d) := by
  simp [busCmd, h, hd]

theorem busCmd_of_malformed {s : State} {payload : Bytes} {cmd : BitVec 8} {n : Nat} {f : Bytes → State}
    (hd : busWrite cmd n payload = none) : busCmd s payload cmd n f = .next s := by
  simp [busCmd, hd]

/-- Settles O43: each command of the bus answers what its function gives for a well-formed payload. -/
theorem meterBusAnswers : Obligations.MeterBusAnswers := by
  unfold Obligations.MeterBusAnswers
  refine ⟨fun s hp => busRead_of_powered hp, fun payload d s hp hd => busCmd_of_powered hp hd,
    fun payload d s hp hd => busCmd_of_powered hp hd, fun s hp => busRead_of_powered hp, fun s hp => busRead_of_powered hp,
    ?follows, ?gap, ?mirror⟩
  case follows =>
    rintro payload d s n c hp hd rfl rfl hnext
    rw [exec_energy, execEnergy, busCmd_of_powered hp hd]
    cases hrep : s.md.rep with
    | none => simp
    | some ke =>
      have hk := hnext ke.1 ke.2 hrep
      simp [hk]
  case gap =>
    rintro payload d s n k c e hp hd rfl rfl hrep hgap
    rw [exec_energy, execEnergy, busCmd_of_powered hp hd]
    simp only [hrep, beq_eq_false_iff_ne.mpr hgap, Bool.false_eq_true, if_false]
  case mirror =>
    rintro r s t hreset hlen rfl
    simp only [exec_mirrorRecord, execMirrorRecord, hreset, hlen, bne_self_eq_false, Bool.or_self, Bool.false_eq_true, if_false]
    split
    case h_1 hcause => simp [hcause]
    case h_2 hcause => simp [hcause]
    case h_3 h2 h3 => rw [if_neg h2, if_neg h3]

/-! ### The calendar -/

/-- Settles O42: each command's own branches, at the case its hypotheses name. -/
theorem calendarCommandsAct : Obligations.CalendarCommandsAct := by
  unfold Obligations.CalendarCommandsAct
  refine ⟨?discipline, ?settime, fun payload d s hp hd => busCmd_of_powered hp hd, ?setrecint, ?leap,
    fun payload s hd => busCmd_of_malformed hd⟩
  case discipline =>
    rintro off s u ep diff hp hlock hok hep rfl rfl
    refine ⟨fun hoff hlo hhi => ?_, fun hout => ?_⟩
    · have hin : ¬ (off = true ∨ secUs ≤ (ep : Int) + (((fabricTime s).toNat / 1000 : Nat) : Int) - utcNow s ∨
          (ep : Int) + (((fabricTime s).toNat / 1000 : Nat) : Int) - utcNow s ≤ -secUs) := by
        rw [hoff]
        simp only [Bool.false_eq_true, false_or, not_or, not_le]
        exact ⟨hhi, hlo⟩
      simp only [exec_calendarDiscipline, execCalendarDiscipline, hep, hp, hlock, hok, Bool.not_true, Bool.or_self,
        Bool.false_eq_true, if_false, if_neg hin]
    · simp only [exec_calendarDiscipline, execCalendarDiscipline, hep, hp, hlock, hok, Bool.not_true, Bool.or_self,
        Bool.false_eq_true, if_false, if_pos hout]
  case settime =>
    rintro payload d s u hp hd rfl
    rw [exec_settime, execSettime]
    exact busCmd_of_powered hp hd
  case setrecint =>
    intro payload d s hp hd
    rw [exec_setrecint, execSetrecint, busCmd_of_powered hp hd]
    simp only [List.contains_iff_mem]
  case leap =>
    rintro payload d s u hp hd rfl
    rw [exec_leap, execLeap, busCmd_of_powered hp hd]
    simp only [decide_eq_true_eq]

/-! ### Frames, windows and supplies -/

/-- Settles O41: each command's own branches, at the case its hypotheses name. -/
theorem meterFramesAndSupplies : Obligations.MeterFramesAndSupplies := by
  unfold Obligations.MeterFramesAndSupplies
  refine ⟨?send, ?accepted, ?rejected, ?window, ?close, ?openPowered, ?openHeld, ?loss, ?powerUp, ?backup⟩
  case send =>
    intro die elapsed energy counts s hreset
    simp [execFrameSend, hreset, send]
  case accepted =>
    rintro lane f s t l n hp rfl hintact hsource hseq hcore rfl
    have hcycles : ¬ (lane.val < 4 ∧ (!cyclesOk f) = true) := by
      rintro ⟨hlane, hbad⟩
      simp [(hcore hlane).1] at hbad
    have hmap : ¬ (lane.val < 4 ∧ (!partMapOk s.md lane.val f) = true) := by
      rintro ⟨hlane, hbad⟩
      simp [(hcore hlane).2] at hbad
    simp only [exec_meterFrame, execMeterFrame, hp, not_true_eq_false, if_false, hintact, hsource, Bool.not_true, Bool.or_self,
      Bool.false_eq_true, hseq, if_neg hcycles]
    exact if_neg hmap
  case rejected =>
    intro lane f s hp hbad
    have hbad' : (!frameIntact lane.val f || !frameSource lane.val f) = true := by
      rcases hbad with h | h <;> simp [h]
    simp only [exec_meterFrame, execMeterFrame, hp, not_true_eq_false, if_false, hbad', if_true, rejectFrame]
    rfl
  case window =>
    rintro counts storeBad s0 s u bits hp rfl rfl rfl
    cases storeBad with
    | none => simp only [exec_meterWindow, execMeterWindow, hp, not_true_eq_false, if_false]
    | some o => simp only [exec_meterWindow, execMeterWindow, hp, not_true_eq_false, if_false]
  case close =>
    intro s hp hdue
    rw [exec_intervalClose, execIntervalClose, if_pos (And.intro hp hdue)]
  case openPowered =>
    intro s hp hclosed
    simp [execSealSense, hp, hclosed, b2n]
  case openHeld =>
    intro s hp hclosed
    simp [execSealSense, hp, hclosed, b2n]
  case loss =>
    intro s hp
    simp [execMtrVddLoss, hp]
  case powerUp =>
    rintro s t u hp rfl rfl
    simp [execMtrPowerUp, hp]
  case backup =>
    rintro s t hp rfl
    simp [execBackupSupplyLow, hp]

end Sys2Proof.Machine

/-! PROOFS. Packets, circuits and tags (R247-R262), and Fabric Time (R264, R265, R377-R381). -/

namespace Sys2Proof.Machine

/-! ### A packet that arrives -/

/-- A port that is up and whose buffer has room takes the packet; its destination and its hops decide what becomes of it. -/
theorem execPacketReceive_of_up {fp : FPort} {k : Packet} {s : State} (hlinks : linksRun s = true) (hup : fpUp s fp.val = true)
    (hroom : bufUsed s fp k.net k.vc + packetSlots k ≤ 512) :
    execPacketReceive fp k s =
      if coordBad k.dst ∨ coordBad k.src then
        .next (report (giveCredit s (some fp.val) k.net k.vc (packetSlots k)) (fabReport Code.eFabCoord deferred fp.val []))
      else if forMe s k.dst then .next (arrive s fp.val k)
      else if k.hops = 15 then
        .next (report (giveCredit s (some fp.val) k.net k.vc (packetSlots k)) (fabReport Code.eFabHops deferred fp.val []))
      else .next (forward s (some fp.val) (some fp.val) k) := by
  rw [execPacketReceive, if_pos (And.intro hlinks (And.intro hup hroom))]

/-- A control packet is taken whatever incarnation it bears. -/
theorem checkInc_of_control {s : State} {k : Packet} (h : k.isData = false) : checkInc s k = some s := by
  simp [checkInc, h]

theorem tagVerdict_of_current {s : State} {k : Packet} {b : TagBind} (hbind : bindOfTag s k.jtag = some b)
    (hepoch : k.tepoch = b.tepoch) : tagVerdict s k = .deliver b := by
  simp [tagVerdict, hbind, hepoch]

/-- An intact control packet under a current binding is opened and delivered, and its buffer's credit returned. -/
theorem arrive_of_bound {s : State} {fp : Nat} {k q : Packet} {b : TagBind} (hcrc : crcBad k = false) (hctl : k.isData = false)
    (htag : k.jtag ≠ 0) (hbind : bindOfTag s k.jtag = some b) (hepoch : k.tepoch = b.tepoch)
    (hopen : (bindKey s b).bind (openPacket k) = some q) :
    arrive s fp k = deliverPacket (giveCredit s (some fp) k.net k.vc (packetSlots k)) q := by
  have hbind' : bindOfTag (giveCredit s (some fp) k.net k.vc (packetSlots k)) k.jtag = some b := hbind
  have hopen' : (bindKey (giveCredit s (some fp) k.net k.vc (packetSlots k)) b).bind (openPacket k) = some q := hopen
  simp only [arrive, hcrc, Bool.false_eq_true, if_false, checkInc_of_control hctl, if_neg htag,
    tagVerdict_of_current hbind' hepoch, deliverBound, hctl, Bool.false_and, hopen']

theorem resendNaked_of_control {s : State} {b : TagBind} {k : Packet} (h : k.isData = false) :
    resendNaked s b k = sendPkt s (sealPacket { k with tepoch := b.tepoch, hops := 0, standin := false, vc := 0 } none) := by
  simp only [resendNaked, h, Bool.false_eq_true, if_false]

/-! ### Bindings -/

theorem tagWrite_bind {s : State} {v : BitVec 64} (hfree : (Tbl.get ({} : TagBind) s.tags.binds s.tags.sel.toNat).en = false)
    (hen : v.getLsbD 0 = true) :
    tagWrite s v = if bindBad s (bindFields v) = true then { s with tags := { s.tags with err := true } }
      else makeBind s s.tags.sel.toNat (bindFields v) := by
  have hen' : (bindFields v).en = true := hen
  simp only [tagWrite, hfree, Bool.false_eq_true, if_false, hen', if_true]

theorem tagWrite_retire {s : State} {v : BitVec 64} (hused : (Tbl.get ({} : TagBind) s.tags.binds s.tags.sel.toNat).en = true)
    (hoff : v.getLsbD 0 = false) : tagWrite s v = retireBind s s.tags.sel.toNat := by
  have hoff' : (bindFields v).en = false := hoff
  have hne : bindFields v ≠ Tbl.get ({} : TagBind) s.tags.binds s.tags.sel.toNat := by
    intro heq
    rw [heq, hused] at hoff'
    cases hoff'
  simp only [tagWrite, hused, if_true, if_neg hne, hoff', Bool.false_eq_true, if_false]

/-- Settles O36: each command's own branches, at the case its hypotheses name. -/
theorem packetsAndTagsAct : Obligations.PacketsAndTagsAct := by
  unfold Obligations.PacketsAndTagsAct
  refine ⟨?credit, ?own, ?bound, ?coord, ?forwarded, ?hops, ?aged, ?circuit, ?circuitBad, ?bind, ?bindBad, ?retire, ?nak, ?resend⟩
  case credit =>
    intro fp net vc slots s hlinks hup
    rw [exec_credit, execCredit, if_pos (And.intro hlinks hup)]
  case own =>
    intro fp k s hlinks hup hroom hdst hsrc hme
    simp [execPacketReceive_of_up hlinks hup hroom, hdst, hsrc, hme]
  case bound =>
    intro fp k q s b hlinks hup hroom hdst hsrc hme hcrc hctl htag hbind hepoch hopen
    simp [execPacketReceive_of_up hlinks hup hroom, hdst, hsrc, hme, arrive_of_bound hcrc hctl htag hbind hepoch hopen]
  case coord =>
    intro fp k s hlinks hup hroom hbad
    rw [exec_packetReceive, execPacketReceive_of_up hlinks hup hroom, if_pos hbad]
  case forwarded =>
    intro fp k s hlinks hup hroom hdst hsrc hme hhops
    simp only [exec_packetReceive, execPacketReceive_of_up hlinks hup hroom, hdst, hsrc, hme, Bool.false_eq_true, or_self, if_false,
      if_neg hhops]
  case hops =>
    intro fp k s hlinks hup hroom hdst hsrc hme hhops
    simp [execPacketReceive_of_up hlinks hup hroom, hdst, hsrc, hme, hhops]
  case aged =>
    intro i s b hget hlinks hdue
    simp only [exec_packetAged, execPacketAged, hget, if_pos (And.intro hlinks hdue)]
  case circuit =>
    intro port die c value s hmay hok
    rw [exec_circuitWrite, execCircuitWrite, guarded_of_mayWrite hmay]
    simp [circWrite, hok]
  case circuitBad =>
    intro port die c value s hmay hbad
    rw [exec_circuitWrite, execCircuitWrite, guarded_of_mayWrite hmay]
    simp [circWrite, hbad]
  case bind =>
    intro port value s hmay hfree hen hok
    rw [exec_tagBind, execTagBind, guarded_of_mayWrite hmay, tagWrite_bind hfree hen, hok]
    rfl
  case bindBad =>
    intro port value s hmay hfree hen hbad
    rw [exec_tagBind, execTagBind, guarded_of_mayWrite hmay, tagWrite_bind hfree hen, if_pos hbad]
  case retire =>
    intro port value s hmay hused hoff
    rw [exec_tagRetire, execTagRetire, guarded_of_mayWrite hmay, tagWrite_retire hused hoff]
  case nak =>
    intro newer k s hlinks hme
    rw [exec_tagnak, execTagnak, if_pos (And.intro hlinks hme)]
  case resend =>
    rintro i s u k due b hget hlinks hdue rfl hbind
    simp only [exec_tagnakResend, execTagnakResend, hget, if_pos (And.intro hlinks hdue), hbind]
    by_cases hdata : k.isData = true
    · rw [if_pos hdata]
    · rw [if_neg hdata, resendNaked_of_control (Bool.eq_false_iff.mpr hdata)]

/-! ### Fabric Time -/

/-- A delay within 16 counts of the least is accepted at the port that synchronises (R379). -/
theorem ftExchange_accept {s : State} {e d : Int} {p : Nat} (hport : timePort s = some p)
    (hd : d ≤ leastDelay ((d :: s.ft.delays).take 64) + 16 * 65536) :
    ftExchange s e d = { s with ft := ftAccept { s.ft with delays := (d :: s.ft.delays).take 64, sync := none } e s.now p } := by
  simp only [ftExchange, if_pos hd, hport]

theorem ftExchange_reject {s : State} {e d : Int} (hd : leastDelay ((d :: s.ft.delays).take 64) + 16 * 65536 < d) :
    ftExchange s e d = { s with ft := { s.ft with
      delays := (d :: s.ft.delays).take 64, sync := none, reject := satAdd s.ft.reject 1 } } := by
  simp only [ftExchange, if_neg (not_le.mpr hd)]

/-- Settles O37: each command's own branches, at the case its hypotheses name. -/
theorem fabricTimeActs : Obligations.FabricTimeActs := by
  unfold Obligations.FabricTimeActs
  refine ⟨?send, ?sync, ?req, ?accept, ?reject, ?holdover, ?range, ?pps, ?ppsFirst, ?set, ?setRefused⟩
  case send =>
    intro child s hlinks hparent
    rw [exec_tsyncSend, execTsyncSend, if_pos (And.intro hlinks hparent)]
  case sync =>
    intro parent seq t1 s hlinks hparent
    simp only [exec_tsync, execTsync, if_pos (And.intro hlinks hparent)]
  case req =>
    intro child seq t3 s hlinks hparent
    rw [exec_treq, execTreq, if_pos (And.intro hlinks hparent)]
  case accept =>
    rintro seq t4 corr s y a b e d p hsync hlinks hseq rfl rfl rfl rfl hport hd
    simp only [exec_tresp, execTresp, hsync, if_pos (And.intro hlinks hseq), ftExchange_accept hport hd]
  case reject =>
    rintro seq t4 corr s y a b d hsync hlinks hseq rfl rfl rfl hd
    simp only [exec_tresp, execTresp, hsync, if_pos (And.intro hlinks hseq), ftExchange_reject hd]
  case holdover =>
    intro s hlinks hstate hlate
    have hlate' : s.ft.lastAccept + 1000000 ≤ s.now ∨ (timePort s).isNone = true := by simpa using hlate
    simp only [exec_ftHoldoverEntry, execFtHoldoverEntry, if_pos (And.intro hlinks (And.intro hstate hlate'))]
  case range =>
    intro s t hfar hlinks hlocked hdue
    simp only [exec_ftRange, execFtRange, hfar, if_pos (And.intro hlinks (And.intro hlocked hdue))]
  case pps =>
    intro s hlinks hmaster hstate
    simp only [exec_ppsIn, execPpsIn, if_pos (And.intro hlinks hmaster), if_pos hstate]
  case ppsFirst =>
    intro s hlinks hmaster hstate hlocked
    simp [execPpsIn, hlinks, hmaster, hstate, hlocked]
  case set =>
    intro port value s hmay hmaster hfree
    rw [exec_ftSet, execFtSet, guarded_of_mayWrite hmay, ftSetWrite, if_pos (And.intro hmaster hfree)]
  case setRefused =>
    intro port value s hmay hnot
    rw [exec_ftSet, execFtSet, guarded_of_mayWrite hmay, ftSetWrite, if_neg]
    rintro ⟨hmaster, hfree⟩
    rcases hnot with h | h
    · simp [hmaster] at h
    · exact h hfree

end Sys2Proof.Machine

/-! PROOFS. Fabric ports, lanes and blocks (R238-R245). -/

namespace Sys2Proof.Machine

/-! ### A port's way to ACTIVE -/

theorem negotiateFaults_of_version {s : State} {p major minor peerPort : Nat} {peer : Coord}
    (hversion : versionOk s.sec.kfpMinor.toNat major minor = false) (hwiring : wiringOk s p peer peerPort = true) :
    negotiateFaults s p major minor peer peerPort = [Code.eFabVersion] := by
  simp [negotiateFaults, hversion, hwiring]

theorem negotiateFaults_of_wiring {s : State} {p major minor peerPort : Nat} {peer : Coord}
    (hversion : versionOk s.sec.kfpMinor.toNat major minor = true) (hwiring : wiringOk s p peer peerPort = false) :
    negotiateFaults s p major minor peer peerPort = [Code.eFabWiring] := by
  simp [negotiateFaults, hversion, hwiring]

theorem negotiateFaults_of_fit {s : State} {p major minor peerPort : Nat} {peer : Coord}
    (hversion : versionOk s.sec.kfpMinor.toNat major minor = true) (hwiring : wiringOk s p peer peerPort = true) :
    negotiateFaults s p major minor peer peerPort = [] := by
  simp [negotiateFaults, hversion, hwiring]

/-- A negotiating port of this protocol answers its partner's message as the faults it finds say. -/
theorem execNegotiate_of_negotiate {fp : FPort} {major minor peerPort : Nat} {peer : Coord} {lanes : BitVec 5} {s : State}
    (hlinks : linksRun s = true) (hstate : (getFp s fp.val).state = .negotiate) (hkfp : (getFp s fp.val).kfp2 = false) :
    execNegotiate fp major minor peer peerPort lanes false s =
      if negotiateFaults s fp.val major minor peer peerPort = [] then
        .next (offerBufs (activatePort s fp.val (min s.sec.kfpMinor.toNat minor) lanes))
      else .next ((negotiateFaults s fp.val major minor peer peerPort).foldl
        (fun t c => report t (fabReport c deferred fp.val [])) s) := by
  simp [execNegotiate, hlinks, hstate, hkfp]

theorem fpCtrlWrite_enable {s : State} {p : Nat} {v : BitVec 32} (hstate : (getFp s p).state = .disabled)
    (hen : v.getLsbD 0 = true) :
    fpCtrlWrite s p v = setFp s p { getFp s p with
      en := true, swapTh := v.extractLsb' 6 8, state := .detect, since := s.now, next := s.now } := by
  simp only [fpCtrlWrite, hen, Bool.not_true, Bool.false_eq_true, if_false, hstate, if_true]

theorem fpCtrlWrite_retrain {s : State} {p : Nat} {v : BitVec 32} (hstate : (getFp s p).state = .active)
    (hen : v.getLsbD 0 = true) (hretrain : v.getLsbD 5 = true) :
    fpCtrlWrite s p v =
      enterRetrain (setFp s p { getFp s p with en := true, swapTh := v.extractLsb' 6 8, retrain := true }) p := by
  simp only [fpCtrlWrite, hen, Bool.not_true, Bool.false_eq_true, if_false, hstate, reduceCtorEq, hretrain, and_self, if_true]

@[simp] theorem getFp_enterRetrain (s : State) (p : Nat) : getFp (enterRetrain s p) p =
    { getFp s p with state := .retrain, since := s.now, trained := false, nakAt := none } := by
  simp [enterRetrain]

/-- Settles O34: each command's own branches, at the case its hypotheses name. -/
theorem portsComeUp : Obligations.PortsComeUp := by
  unfold Obligations.PortsComeUp
  refine ⟨?enable, ?retrain, ?detect, ?train, ?align, ?fit, ?version, ?wiring, ?retry, ?timeout⟩
  case enable =>
    intro port fp value s hmay hstate hen
    rw [exec_portEnable, execPortEnable, guarded_of_mayWrite hmay, fpCtrlWrite_enable hstate hen]
  case retrain =>
    intro port fp value s hmay hstate hen hretrain
    refine ⟨enterRetrain (setFp s fp.val { getFp s fp.val with
      en := true, swapTh := value.extractLsb' 6 8, retrain := true }) fp.val, ?_, ?_⟩
    · rw [exec_retrain, execRetrain, guarded_of_mayWrite hmay, fpCtrlWrite_retrain hstate hen hretrain]
    · rw [getFp_enterRetrain, getFp_setFp, if_pos rfl]
      rfl
  case detect =>
    intro fp sig s hlinks hstate hdue
    simp only [exec_portDetect, execPortDetect, if_pos (And.intro hlinks (And.intro hstate hdue))]
    split <;> rfl
  case train =>
    intro fp s hlinks hstate
    simp only [exec_portTrainDone, execPortTrainDone, if_pos (And.intro hlinks hstate)]
  case align =>
    intro fp s hlinks hstate
    simp only [exec_portAlignDone, execPortAlignDone, if_pos (And.intro hlinks hstate), sendNegotiate, getFp_setFp, if_true]
    rfl
  case fit =>
    intro fp major minor peer peerPort lanes s hlinks hstate hkfp hversion hwiring
    rw [exec_negotiate, execNegotiate_of_negotiate hlinks hstate hkfp, if_pos (negotiateFaults_of_fit hversion hwiring)]
  case version =>
    intro fp major minor peer peerPort lanes s hlinks hstate hkfp hwiring hversion
    rw [exec_negotiate, execNegotiate_of_negotiate hlinks hstate hkfp, negotiateFaults_of_version hversion hwiring,
      if_neg (by exact List.cons_ne_nil _ _), List.foldl_cons, List.foldl_nil]
  case wiring =>
    intro fp major minor peer peerPort lanes s hlinks hstate hkfp hwiring hversion
    rw [exec_negotiate, execNegotiate_of_negotiate hlinks hstate hkfp, negotiateFaults_of_wiring hversion hwiring,
      if_neg (by exact List.cons_ne_nil _ _), List.foldl_cons, List.foldl_nil]
  case retry =>
    intro fp s hlinks hstate hdue
    simp only [exec_negotiateRetry, execNegotiateRetry, if_pos (And.intro hlinks (And.intro hstate hdue)), sendNegotiate,
      getFp_setFp, if_true]
    rfl
  case timeout =>
    rintro fp s x rfl hlinks hstate hdue
    simp only [exec_retrainTimeout, execRetrainTimeout, if_pos (And.intro hlinks (And.intro hstate hdue))]

/-! ### Lanes and blocks -/

theorem finOfNat_val {n : Nat} [NeZero n] (k : Fin n) : Fin.ofNat n k.val = k := by simp

/-- A lane that fails while the spare is free is swapped for it (R241). -/
theorem laneFail_swap {s : State} {fp : FPort} {lane : Fin 4} (hspare : (getFp s fp.val).spare = 4)
    (hswap : (getFp s fp.val).swapRx = none) (hdead : (getFp s fp.val).dead.getLsbD lane.val = false) :
    laneFail s fp.val lane.val = send (setFp s fp.val { getFp s fp.val with swapRx := some (lane, (getFp s fp.val).rxSeq + 16) })
      (.linkSwap fp lane.val ((getFp s fp.val).rxSeq + 16)) := by
  have hne : lane.val ≠ 4 := Nat.ne_of_lt lane.isLt
  have hspare' : (getFp s fp.val).spare.toNat ≠ lane.val := by
    rw [hspare]
    exact hne.symm
  have hout : ¬ ((getFp s fp.val).dead.getLsbD lane.val = true ∨ (getFp s fp.val).spare.toNat = lane.val ∨
      (getFp s fp.val).swapRx.any (fun q => q.1.val == lane.val) = true) := by
    simp only [hdead, hswap, Option.any_none, hspare', Bool.false_eq_true, or_self, not_false_eq_true]
  have hfree : (getFp s fp.val).spare = 4 ∧ (getFp s fp.val).swapRx.isNone = true := ⟨hspare, by rw [hswap]; rfl⟩
  simp only [laneFail, if_neg hne, if_neg hout, if_pos hfree, finOfNat_val]

/-- With no swap under way a block brings none. -/
theorem swapArrived_of_none {s : State} {p : Nat} (h : (getFp s p).swapRx = none) : swapArrived s p = s := by
  simp only [swapArrived, h]

theorem discardBlock_first {s : State} {fp : FPort} {x : FPortSt} (h : x.nakAt = none) :
    discardBlock s fp.val x = send (setFp s fp.val { x with nakAt := some (s.now + 1000) }) (.linkNak fp x.rxSeq) := by
  simp only [discardBlock, h, Option.isSome_none, Bool.false_eq_true, if_false, finOfNat_val]

theorem discardBlock_again {s : State} {p t : Nat} {x : FPortSt} (h : x.nakAt = some t) : discardBlock s p x = setFp s p x := by
  simp only [discardBlock, h, Option.isSome_some, if_true]

/-- A block of a circuit that ends at this die is kept for it, and counted at the port (R253). -/
theorem circuitBlock_of_own {s : State} {p corrected : Nat} {c : Fin 8} {good : Bool} {data : Bytes}
    (hen : (Tbl.get ({} : Circ) s.fab.circs (8 * (Fin.ofNat 2 (fpPlane p) : XDie).val + c.val)).en = true)
    (hinp : (Tbl.get ({} : Circ) s.fab.circs (8 * (Fin.ofNat 2 (fpPlane p) : XDie).val + c.val)).inp.toNat = fpRole p)
    (hout : (Tbl.get ({} : Circ) s.fab.circs (8 * (Fin.ofNat 2 (fpPlane p) : XDie).val + c.val)).outp = 24) :
    circuitBlock s p c good corrected data =
      let t := setFp s p (if good then { getFp s p with fec := satAdd (getFp s p).fec corrected }
        else { getFp s p with uncorr := satAdd (getFp s p).uncorr 1 })
      { t with fab := { t.fab with circIn := t.fab.circIn ++ [(Fin.ofNat 2 (fpPlane p), c, good, data)] } } := by
  simp only [circuitBlock, hen, hinp, hout, Bool.not_true, Bool.false_eq_true, ne_eq, not_true_eq_false, or_self, if_false, if_true]

/-- Settles O35: each command's own branches, at the case its hypotheses name. -/
theorem lanesAndBlocksAct : Obligations.LanesAndBlocksAct := by
  unfold Obligations.LanesAndBlocksAct
  refine ⟨?quiet, ?third, ?loss, ?lossSwap, ?swap, ?block, ?badFirst, ?badAgain, ?circuit, ?nak, ?nakRepeat, ?timeout⟩
  case quiet =>
    rintro fp r s x rfl hlinks hstate hcount
    simp [execEqWindow, hlinks, hstate, not_lt.mpr hcount]
  case third =>
    rintro fp r s x rfl hlinks hstate hcount habove
    simp only [exec_eqWindow, execEqWindow, hlinks, hstate, true_or, and_self, if_true, if_pos hcount, habove, Nat.reduceAdd]
  case loss =>
    intro fp lane s hlinks hup
    rw [exec_laneLockLoss, execLaneLockLoss, if_pos (And.intro hlinks hup)]
  case lossSwap =>
    rintro fp lane s x hlinks hup rfl hspare hswap hdead
    rw [exec_laneLockLoss, execLaneLockLoss, if_pos (And.intro hlinks hup), Fin.val_castSucc, laneFail_swap hspare hswap hdead]
  case swap =>
    intro fp lane seq s hlinks hup hspare
    simp only [exec_swap, execSwap, if_pos (And.intro hlinks (And.intro hup hspare)), FPortSt.swapDue]
  case block =>
    rintro fp corrected seq ack data s u x hlinks hup rfl rfl hswap rfl
    simp only [exec_blockReceive, execBlockReceive, if_pos (And.intro hlinks hup), if_true]
    rw [swapArrived_of_none (by rw [getFp_setFp, if_pos rfl, hswap]), idleBlock, getFp_setFp, if_pos rfl]
  case badFirst =>
    intro fp corrected seq ack data s hlinks hup hnak
    simp only [exec_blockReceive, execBlockReceive, if_pos (And.intro hlinks hup), Bool.false_eq_true, if_false]
    rw [discardBlock_first (by exact hnak)]
  case badAgain =>
    intro fp corrected seq ack data s t hlinks hup hnak
    simp only [exec_blockReceive, execBlockReceive, if_pos (And.intro hlinks hup), Bool.false_eq_true, if_false]
    rw [discardBlock_again (by exact hnak)]
  case circuit =>
    rintro fp good corrected seq ack c data s x hlinks hup rfl hen hinp hout
    refine ⟨circuitBlock s fp.val c good corrected data, ?_, ?_⟩
    · rw [exec_blockReceive, execBlockReceive, if_pos (And.intro hlinks hup)]
    · rw [circuitBlock_of_own hen hinp hout]
      exact ⟨rfl, (getFp_setFp ..).trans (if_pos rfl)⟩
  case nak =>
    intro fp seq s hlinks hup
    rw [exec_nak, execNak, if_pos (And.intro hlinks hup)]
  case nakRepeat =>
    intro fp s t hlinks hup hnak hdue
    simp only [exec_nakRepeat, execNakRepeat, hnak, if_pos (And.intro hlinks (And.intro hup hdue))]
  case timeout =>
    intro fp s b l hlinks hup hunacked hdue
    simp only [exec_ackTimeout, execAckTimeout, hunacked, if_pos (And.intro hlinks (And.intro hup hdue))]

end Sys2Proof.Machine

/-! PROOFS. Accesses of the set-up window (R289-R292, R431-R438). -/

namespace Sys2Proof.Machine

theorem windowOpen_of_mayWrite {s : State} {port : RlPort} {n : Nat} (h : mayWrite s port n = true) : windowOpen s port = true := by
  simp only [mayWrite, Bool.and_eq_true] at h
  exact h.1.1

/-- A legal access of a guarded register by the semaphore's holder writes the register (R433, R434). -/
theorem windowWrite_of_mayWrite {s : State} {port : RlPort} {o : Nat} {wide upper : Bool} {v : BitVec 64} {r : Reg} {n : Nat}
    (hmay : mayWrite s port n = true) (haligned : aligned o wide = true) (hhit : regHit o wide = some (r, upper))
    (hwide : wide = true ∨ r.sideEffect64 = false) (hguard : r.guard = some n) :
    windowWrite s port o wide v = writeReg s (some port) r (mergeValue s (some port) r upper wide v) := by
  rw [windowWrite_of_guard (windowOpen_of_mayWrite hmay) haligned hhit hwide hguard, guarded_of_mayWrite hmay]

theorem eq_true_or_of_imp {wide : Bool} {p : Prop} (h : wide = false → p) : wide = true ∨ p := by
  cases wide with
  | true => exact .inl rfl
  | false => exact .inr (h rfl)

theorem toNat_setWidth_32_64 (v : BitVec 64) : ((v.setWidth 32).setWidth 64).toNat = v.toNat % 2 ^ 32 := by
  simp only [BitVec.toNat_setWidth]
  omega

/-- A write of GL_SEM_LEASE clamps its low 14 bits (R291). -/
theorem writeReg_semLease (s : State) (who : Option RlPort) (v : BitVec 64) :
    writeReg s who .glSemLease ((v.setWidth 32).setWidth 64) =
      { s with gl := { s.gl with semLease := BitVec.ofNat 14 (clamp 1 10000 (v.toNat % 2 ^ 14)) } } := by
  have hlow : bitsOf ((v.setWidth 32).setWidth 64).toNat 0 14 = v.toNat % 2 ^ 14 := by
    rw [toNat_setWidth_32_64, bitsOf]
    omega
  change writeGlReg s who _ .glSemLease = _
  rw [writeGlReg, hlow]

theorem setWidth_setWidth_32 (v : BitVec 64) : ((v.setWidth 32).setWidth 64).setWidth 32 = v.setWidth 32 := by
  apply BitVec.eq_of_toNat_eq
  rw [BitVec.toNat_setWidth, toNat_setWidth_32_64, BitVec.toNat_setWidth]
  omega

/-- A write of GL_SEM_EXPIRED clears the bits written 1. -/
theorem writeReg_semExpired (s : State) (who : Option RlPort) (v : BitVec 64) :
    writeReg s who .glSemExpired ((v.setWidth 32).setWidth 64) =
      { s with gl := { s.gl with semExpired := s.gl.semExpired &&& ~~~(v.setWidth 32) } } := by
  change writeGlReg s who _ .glSemExpired = _
  rw [writeGlReg, setWidth_setWidth_32]

/-- A read of a clearing register through the open window answers the value it had, and clears (R435). -/
theorem windowRead_of_rc {s : State} {port : RlPort} {o : Nat} {wide upper : Bool} {hw : BitVec 64} {r : Reg}
    (hopen : windowOpen s port = true) (haligned : aligned o wide = true) (hhit : regHit o wide = some (r, upper))
    (hcode : r.code = .rc) (hwide : wide = false → r.sideEffect64 = false) :
    windowRead s port o wide hw = send (clearReg s r hw) (.regValue port (readWindow s (some port) o wide)) := by
  have hlegal : (!wide && r.sideEffect64) = false := by
    rcases eq_true_or_of_imp hwide with h | h <;> simp [h]
  simp only [windowRead, hopen, if_true, haligned, Bool.not_true, Bool.false_eq_true, if_false, hhit, hlegal, readEffect, hcode,
    reduceCtorEq]

theorem readWindow_guardErr (s : State) (who : Option RlPort) :
    readWindow s who 0x210 false = BitVec.ofNat 64 (s.gl.guardErr0.toNat + 2 ^ 16 * s.gl.guardErr1.toNat) := by
  have h0 := s.gl.guardErr0.isLt
  have h1 := s.gl.guardErr1.isLt
  have hreg : regAt 0x210 = some .glGuardErr := by decide
  have hread : readReg s who .glGuardErr = BitVec.ofNat 64 (s.gl.guardErr0.toNat + 2 ^ 16 * s.gl.guardErr1.toNat) := by
    change BitVec.ofNat 64 (pack [(0, s.gl.guardErr0.toNat), (16, s.gl.guardErr1.toNat)]) = _
    congr 1
    simp only [pack]
    omega
  simp only [readWindow, hreg, reduceCtorEq, false_and, if_false, Bool.false_eq_true, hread, BitVec.toNat_ofNat]
  rw [Nat.mod_eq_of_lt (by omega), Nat.mod_eq_of_lt (by omega)]

/-- What a read of GL_GUARD_ERR leaves is what hardware adds as it clears (R435). -/
theorem clearReg_guardErr (s : State) (hw : BitVec 64) : clearReg s .glGuardErr hw =
    { s with gl := { s.gl with guardErr0 := hw.setWidth 16, guardErr1 := hw.extractLsb' 16 16 } } := by
  have hlow : BitVec.ofNat 16 hw.toNat = hw.setWidth 16 := BitVec.eq_of_toNat_eq (by simp)
  have hhigh : BitVec.ofNat 16 (hw.toNat / 2 ^ 16) = hw.extractLsb' 16 16 := by
    apply BitVec.eq_of_toNat_eq
    simp [Nat.shiftRight_eq_div_pow]
  change clearGlReg s hw.toNat .glGuardErr = _
  rw [clearGlReg, hlow, hhigh]

/-- Settles O2: each access, at the case its hypotheses name. -/
theorem windowAccessesAct : Obligations.WindowAccessesAct := by
  unfold Obligations.WindowAccessesAct
  refine ⟨?write, ?lease, ?clear, ?clearGuard, ?w1c, ?refused, ?space4, ?space4Bad, ?space4Own, ?activate, ?dissolve, ?gran⟩
  case write =>
    rintro port offset wide value s u r n hhit haligned hguard hwide hmay rfl
    rw [exec_registerWrite, execRegisterWrite,
      windowWrite_of_mayWrite (by rw [mayWrite_noteTie, hmay]) haligned hhit (eq_true_or_of_imp hwide) hguard]
  case lease =>
    rintro port value s u hmay rfl
    rw [exec_registerWrite, execRegisterWrite,
      show (0x200 : BitVec 26).toNat = 0x200 from rfl,
      windowWrite_of_mayWrite (r := .glSemLease) (upper := false) (n := 0) (by rw [mayWrite_noteTie, hmay]) (by decide) (by decide)
        (.inr (by decide)) (by decide)]
    exact congrArg Host.Outcome.next (writeReg_semLease ..)
  case clear =>
    intro port offset wide hw s r upper hopen haligned hhit hcode hwide
    rw [exec_readClear, execReadClear, windowRead_of_rc hopen haligned hhit hcode hwide]
  case clearGuard =>
    intro port hw s hopen
    rw [exec_readClear, execReadClear, show (0x210 : BitVec 26).toNat = 0x210 from rfl,
      windowRead_of_rc (r := .glGuardErr) (upper := false) hopen (by decide) (by decide) (by decide) (fun _ => by decide),
      readWindow_guardErr, clearReg_guardErr]
  case w1c =>
    intro port value hwSet s hmay
    have hreg : regAt (0x208 : BitVec 26).toNat = some .glSemExpired := by decide
    simp only [exec_w1cWrite, execW1cWrite, hreg, if_pos (windowOpen_of_mayWrite hmay)]
    rw [show (0x208 : BitVec 26).toNat = 0x208 from rfl,
      windowWrite_of_mayWrite (r := .glSemExpired) (upper := false) (n := 0) hmay (by decide) (by decide) (.inr (by decide)) (by decide)]
    exact congrArg (fun t : State => Host.Outcome.next
      { t with gl := { t.gl with semExpired := t.gl.semExpired ||| hwSet.setWidth 32 } }) (writeReg_semExpired s (some port) value)
  case refused =>
    intro port offset size write coherent s hopen hwhy
    simp only [exec_registerAccessRefused, execRegisterAccessRefused, if_pos (And.intro hopen hwhy)]
    cases write <;> rfl
  case space4 =>
    intro target offset wide write value s hrun hne hacting hok
    simp [execSpace4Access, hrun, hne, hacting, hok, send]
  case space4Bad =>
    intro target offset wide write value s hrun hbad
    simp [execSpace4Access, hrun, hbad, badCoord]
  case space4Own =>
    intro offset wide value s r upper hrun hok haligned hhit hwide
    have hlegal : (!wide && r.sideEffect64) = false := by
      rcases eq_true_or_of_imp hwide with h | h <;> simp [h]
    simp [execSpace4Access, hrun, hok, ownWindow, haligned, hhit, hlegal]
  case activate =>
    intro port p s hmay habsent hok
    refine ⟨setPart s p { getPart s p with state := .activating }, ?_, ?_, rfl, fun q hq => ?_⟩
    · rw [exec_activate, execActivate, guarded_of_mayWrite hmay]
      simp [activate, habsent, hok]
    · simp
    · simp [hq]
  case dissolve =>
    intro port p s hmay _
    rw [exec_dissolve, execDissolve, guarded_of_mayWrite hmay]
  case gran =>
    rintro port value s g hmay rfl hg hown hfree hzero hlent habsent
    refine ⟨setGran s s.gl.granSel.toNat { getGran s s.gl.granSel.toNat with part := Fin.ofNat 8 value.toNat, owned := true },
      ?_, ?_, ?_, fun h hh => ?_⟩
    · rw [exec_granOwnWrite, execGranOwnWrite, guarded_of_mayWrite hmay]
      simp only [granOwnWrite, if_neg (not_le.mpr hg), hown, if_true, hfree, hzero, hlent, habsent, Bool.false_eq_true, ne_eq,
        not_true_eq_false, or_self, if_false]
    · simp
    · simp
    · simp [hh]

end Sys2Proof.Machine

/-! PROOFS. The issue of a command, waits, sync commands, digests, random streams and step protection. -/

namespace Sys2Proof.Machine

/-! ### What a command that issues does (R66, R75)

A command with every issue check passed is put in flight and runs its row; how the run ends decides the rest. -/

section
variable {s u t : State} {e : Entry} {r : OpRow} {core : Nat} {rs : List Range} {o : Outcome}

theorem issueCmd_running (h : issues s e r core rs = true) (hu : u = issued s e r core rs) (hrun : r.run u core = (t, .running)) :
    issueCmd s e r = t := by
  rw [issueCmd_of_issues h, ← hu, hrun, settleEnd]

theorem issueCmd_ended (h : issues s e r core rs = true) (hu : u = issued s e r core rs) (hrun : r.run u core = (t, .ended o)) :
    issueCmd s e r = endCmd t core e o := by
  rw [issueCmd_of_issues h, ← hu, hrun, settleEnd]

theorem issueCmd_atOnce (h : issues s e r core rs = true) (hu : u = issued s e r core rs) (hrun : r.run u core = (t, .atOnce o)) :
    issueCmd s e r = finish (endCmd t core e o) core e := by
  rw [issueCmd_of_issues h, ← hu, hrun, settleEnd]

end

/-! ### Blocking commands (R101, R301-R306) -/

/-- The state in which a blocking command of a kind blocks its sequencer. -/
def blockedBy (u : State) (core : Nat) (b : Blocked) : State :=
  let q := getSeq u b.entry.cid core
  listIssued (setSeq u b.entry.cid core
    { q with inflight := removeFirst (fun g => g.entry == b.entry) q.inflight, block := some b, idleSince := u.now }) b.entry.cid core

theorem startBlock_eq (kind : BlockKind) (e : Entry) (u : State) (core : Nat) :
    startBlock kind e u core =
      (tryBlock (blockedBy u core { entry := e, kind := kind, since := residentClock u e.cid }) core
        { entry := e, kind := kind, since := residentClock u e.cid }, .running) := rfl

theorem tryBlock_of_unmet {s : State} {core : Nat} {b : Blocked} (hslot : slotWrong s core b = false)
    (hfail : waitFailure s core b = none) (hunmet : blockMet s b.entry.cid core b = false) : tryBlock s core b = s := by
  simp only [tryBlock, hslot, hfail, hunmet, Bool.false_eq_true, if_false]

theorem tryBlock_of_met {s : State} {core : Nat} {b : Blocked} (hslot : slotWrong s core b = false)
    (hfail : waitFailure s core b = none) (hmet : blockMet s b.entry.cid core b = true) : tryBlock s core b = passBlock s core b := by
  simp only [tryBlock, hslot, hfail, hmet, Bool.false_eq_true, if_false, if_true]

theorem passBlock_plan {s : State} {core : Nat} {b : Blocked} (hkind : b.kind = .plan)
    (hlist : (getSeq s b.entry.cid core).list = none) : passBlock s core b = takeList s core b.entry := by
  simp only [passBlock, hkind, hlist]

theorem passBlock_timed {s : State} {core : Nat} {b : Blocked} (hkind : b.kind = .timed) :
    passBlock s core b = endBlock (keepTimed s core b.entry) core b.entry okOutcome := by
  simp only [passBlock, hkind]

/-- A wait that is neither PLAN nor a timed start ends, and claims its slot where it waits for one. -/
theorem passBlock_wait {s : State} {core : Nat} {b : Blocked} (hplan : b.kind ≠ .plan) (htimed : b.kind ≠ .timed) :
    passBlock s core b = endBlock (claimSlot s core b) core b.entry okOutcome := by
  unfold passBlock
  split
  case h_1 hkind _ => exact absurd hkind hplan
  case h_2 hkind => exact absurd hkind htimed
  case h_3 => rfl

theorem claimSlot_of_ne {s : State} {core : Nat} {b : Blocked} (h : b.kind ≠ .slotEmpty) : claimSlot s core b = s := by
  unfold claimSlot
  split
  case h_1 hkind => exact absurd hkind h
  case h_2 => rfl

/-- What a blocking command does at its issue: it blocks its sequencer, and is looked at at once. -/
theorem issueCmd_block {s u : State} {e : Entry} {r : OpRow} {core : Nat} {rs : List Range} {b : Blocked} {kind : BlockKind}
    (h : issues s e r core rs = true) (hu : u = issued s e r core rs)
    (hb : b = { entry := e, kind := kind, since := residentClock u e.cid }) (hrun : r.run = startBlock kind e) :
    issueCmd s e r = tryBlock (blockedBy u core b) core b := by
  subst hb
  exact issueCmd_running h hu (by rw [hrun, startBlock_eq])

/-- A wait, once its checks are passed, stands while its condition fails, ends with its slot claimed, or takes the handed list. -/
theorem wait_cases {s : State} {core : Nat} {b : Blocked} (hslot : slotWrong s core b = false) (hfail : waitFailure s core b = none)
    (htimed : b.kind ≠ .timed) :
    (blockMet s b.entry.cid core b = false → tryBlock s core b = s) ∧
    (blockMet s b.entry.cid core b = true → b.kind ≠ .plan → tryBlock s core b = endBlock (claimSlot s core b) core b.entry okOutcome) ∧
    (blockMet s b.entry.cid core b = true → b.kind = .plan → (getSeq s b.entry.cid core).list = none →
      tryBlock s core b = takeList s core b.entry) :=
  ⟨fun hunmet => tryBlock_of_unmet hslot hfail hunmet,
    fun hmet hplan => by rw [tryBlock_of_met hslot hfail hmet, passBlock_wait hplan htimed],
    fun hmet hplan hlist => by rw [tryBlock_of_met hslot hfail hmet, passBlock_plan hplan hlist]⟩

/-- The five waits issue their row, which blocks the sequencer. -/
theorem exec_wait {e : Entry} {s : State} {i : Instr} {f : Nat} {act : Option Nat} {kind : BlockKind}
    (h : (i, f, act, kind) ∈ [(Instr.opWaitSlotFull e, 0, some 0, BlockKind.slotFull), (.opWaitSlotEmpty e, 0, some 1, .slotEmpty),
      (.opWaitEvent e, 1, none, .event), (.opWaitMemory e, 2, none, .memory), (.opWaitPlan e, 3, none, .plan)]) :
    exec i s = .next (issueCmd s e (waitRow e f act kind)) ∧ kind ≠ .timed := by
  simp only [List.mem_cons, Prod.mk.injEq, List.not_mem_nil, or_false] at h
  rcases h with ⟨rfl, rfl, rfl, rfl⟩ | ⟨rfl, rfl, rfl, rfl⟩ | ⟨rfl, rfl, rfl, rfl⟩ | ⟨rfl, rfl, rfl, rfl⟩ | ⟨rfl, rfl, rfl, rfl⟩
  · exact ⟨rfl, by decide⟩
  · exact ⟨rfl, by decide⟩
  · exact ⟨rfl, by decide⟩
  · exact ⟨rfl, by decide⟩
  · exact ⟨rfl, by decide⟩

/-- Settles O18: each wait blocks its sequencer, and then stands, ends or takes the list. -/
theorem waitsStandOrPass : Obligations.WaitsStandOrPass := by
  unfold Obligations.WaitsStandOrPass
  rintro e s u v core rs q b i f act kind hi h hu rfl hb hv hslot hfail
  obtain ⟨hexec, htimed⟩ := exec_wait hi
  have hissue : issueCmd s e (waitRow e f act kind) = tryBlock (blockedBy u core b) core b := issueCmd_block h hu hb rfl
  have hblocked : v = blockedBy u core b := by rw [hv, hb, blockedBy]
  subst hb
  rw [hexec, hissue, ← hblocked]
  obtain ⟨hstand, hpass, hplan⟩ := wait_cases hslot hfail htimed
  exact ⟨fun hunmet => congrArg _ (hstand hunmet), fun hmet hkind => congrArg _ (hpass hmet hkind),
    fun hmet hkind hlist => congrArg _ (hplan hmet hkind hlist)⟩

/-- Settles O21: the commands that end at once, and the two that block until what precedes them, or Fabric Time, is past. -/
theorem syncCommandsAct : Obligations.SyncCommandsAct := by
  unfold Obligations.SyncCommandsAct
  refine ⟨?nop, ?event, ?memory, ?fence, ?timed, ?late⟩
  case nop =>
    intro e s core rs h
    rw [exec_opNop, execOpNop, issueCmd_atOnce h rfl rfl]
  case event =>
    rintro e s u core i rs h hu rfl
    rw [exec_opSignalEvent, execOpSignalEvent, issueCmd_atOnce h hu rfl]
  case memory =>
    intro e s u v core rs h hu hw
    have hrun : runSignalMemory e u core = (v, .atOnce okOutcome) := by rw [runSignalMemory, hw]
    rw [exec_opSignalMemory, execOpSignalMemory, issueCmd_atOnce h hu hrun]
  case fence =>
    rintro e s u v core rs q b h hu rfl hb hv
    have hblocked : v = blockedBy u core b := by rw [hv, hb, blockedBy]
    rw [exec_opFence, execOpFence, issueCmd_block h hu hb rfl, ← hblocked]
    subst hb
    by_cases hmet : blockMet v e.cid core { entry := e, kind := .fence, since := residentClock u e.cid } = true
    · rw [if_pos hmet, tryBlock_of_met rfl rfl hmet, passBlock_wait (by simp) (by simp), claimSlot_of_ne (by simp)]
    · rw [if_neg hmet, tryBlock_of_unmet rfl rfl (by simpa using hmet)]
  case timed =>
    rintro e s u v core rs q b h hu rfl hb hv
    have hblocked : v = blockedBy u core b := by rw [hv, hb, blockedBy]
    rw [exec_opTimedStart, execOpTimedStart, issueCmd_block h hu hb rfl, ← hblocked]
    subst hb
    by_cases hmet : fld e.desc 64 64 ≤ (fabricTime v).toNat
    · rw [if_pos hmet, tryBlock_of_met rfl rfl (by simpa [blockMet] using hmet), passBlock_timed rfl]
    · rw [if_neg hmet, tryBlock_of_unmet rfl rfl (by simpa [blockMet] using hmet)]
  case late =>
    intro s core e hwin hlate
    simp only [reportLate, if_pos (And.intro hwin hlate)]

/-! ### Digests (R208-R211) -/

/-- Settles O22: each form's own branches, at the case its hypotheses name. -/
theorem digestsOpenAbsorbClose : Obligations.DigestsOpenAbsorbClose := by
  unfold Obligations.DigestsOpenAbsorbClose
  refine ⟨?opens, ?absorb, ?close⟩
  case opens =>
    intro e s u core rs h hu
    rw [exec_opDigestOpen, execOpDigestOpen, issueCmd_atOnce h hu rfl]
  case absorb =>
    rintro e s u core k rs bs x h hu hbs hx rfl
    have hrun : runAbsorb e u core = (setDigest u e.cid (digSlot e.desc) (some { x with
        runs := setNth x.runs (fld e.desc 68 2) (shaAbsorb (nth shaStart x.runs (fld e.desc 68 2)) (leBytes 8 (digLen e.desc) ++ bs))
        counts := setNth x.counts (fld e.desc 68 2) (nth 0 x.counts (fld e.desc 68 2) + digLen e.desc) }), .ended okOutcome) := by
      simp only [runAbsorb, hbs, hx]
    rw [exec_opDigestAbsorb, execOpDigestAbsorb, issueCmd_ended h hu hrun]
  case close =>
    intro e s u v core rs canSign x h hu hx hw
    have hrun : runDigestClose e canSign u core = (if flag e.desc 71 = true ∧ canSign = false
        then report (setDigest v e.cid (digSlot e.desc) none) (cmdReport Code.eDigestSign deferred e 15 0 [])
        else setDigest v e.cid (digSlot e.desc) none, .ended okOutcome) := by
      simp only [runDigestClose, hx, hw, Bool.and_eq_true, Bool.not_eq_true']
    rw [exec_opDigestClose, execOpDigestClose, issueCmd_ended h hu hrun]

/-! ### Random streams (R359) -/

/-- The stream's value after SET or ADD. -/
def sought (e : Entry) (r : Rng) : Rng :=
  if seekMode e.desc = 0 then { key := BitVec.ofNat 64 (fld e.desc 70 64), counter := BitVec.ofNat 128 (fld e.desc 134 128) }
  else { r with counter := r.counter + BitVec.ofNat 128 (fld e.desc 134 128) }

/-- SET and ADD write the stream and report a counter that moves back. -/
theorem runSeek_of_ne_check {e : Entry} {u : State} {core : Nat} {r : Rng} (hmode : seekMode e.desc ≠ 2)
    (hr : r = sought e (getRng u e.cid (fld e.desc 64 4))) :
    runSeek e u core = (if (r.counter - (getRng u e.cid (fld e.desc 64 4)).counter).getLsbD 127 = true
      then report (setRng u e.cid (fld e.desc 64 4) r) (cmdReport Code.evRngRewind corrected e 0 core [])
      else setRng u e.cid (fld e.desc 64 4) r, .atOnce okOutcome) := by
  subst hr
  simp only [runSeek, if_neg hmode]
  rfl

/-- Settles O23: each mode's own branches, at the case its hypotheses name. -/
theorem randomCountersSeek : Obligations.RandomCountersSeek := by
  unfold Obligations.RandomCountersSeek
  refine ⟨?set, ?add, ?check⟩
  case set =>
    rintro e s u core i rs r h hu rfl hmode hr
    have hsought : r = sought e (getRng u e.cid (fld e.desc 64 4)) := by rw [hr, sought, if_pos hmode]
    rw [exec_opRngSeekSet, execOpRngSeekSet, issueCmd_atOnce h hu (runSeek_of_ne_check (by rw [hmode]; decide) hsought)]
  case add =>
    rintro e s u core i rs r h hu rfl hmode hr
    have hsought : r = sought e (getRng u e.cid (fld e.desc 64 4)) := by rw [hr, sought, if_neg (by rw [hmode]; decide)]
    rw [exec_opRngSeekAdd, execOpRngSeekAdd, issueCmd_atOnce h hu (runSeek_of_ne_check (by rw [hmode]; decide) hsought)]
  case check =>
    intro e s u core rs h hu hmode
    by_cases heq : (getRng u e.cid (fld e.desc 64 4)).counter = BitVec.ofNat 128 (fld e.desc 134 128)
    · have hrun : runSeek e u core = (u, .atOnce okOutcome) := by simp only [runSeek, if_pos hmode, if_pos heq]
      rw [exec_opRngSeekCheck, execOpRngSeekCheck, issueCmd_atOnce h hu hrun, if_pos heq]
    · have hrun : runSeek e u core =
          (report u (cmdReport Code.eRngCheck contextFatal e 0 core []), .atOnce (faultOutcome Code.eRngCheck)) := by
        simp only [runSeek, if_pos hmode, if_neg heq]
      rw [exec_opRngSeekCheck, execOpRngSeekCheck, issueCmd_atOnce h hu hrun, if_neg heq]

end Sys2Proof.Machine

/-! PROOFS. Step protection (R42-R46), blocking commands that end (R97, R101-R306) and buffer slots (Table 4.3). -/

namespace Sys2Proof.Machine

/-! ### Step protection -/

/-- A mirror write only sends. -/
theorem mirror_eq (s : State) (p : PartI) (a : Nat) (bs : Bytes) : mirror s p a bs = { s with out := (mirror s p a bs).out } := by
  unfold mirror
  split <;> rfl

theorem setBind_eq (s : State) (c : CtxId) (b : Option StepBind) (skip : Bool) :
    setBind s c b skip = { setCtx s c { getCtx s c with step := b, skipOpen := skip } with out := (setBind s c b skip).out } :=
  mirror_eq ..

theorem getCtx_setBind (s : State) (c : CtxId) (b : Option StepBind) (skip : Bool) :
    getCtx (setBind s c b skip) c = { getCtx s c with step := b, skipOpen := skip } := by
  rw [setBind_eq]
  exact (getCtx_setCtx s c c _).trans (if_pos rfl)

section
variable {e : Entry} {u : State} {core : Nat}

theorem runBind_of_ok {w : Bytes} {g : Bytes × List Nat} (hshape : bindShapeOk u e.cid e.desc = true)
    (hw : readUni u e.cid.part (fld e.desc 64 64) 8 = .ok w)
    (hg : readGroup u e.cid.part (fld e.desc 164 44) (fld e.desc 131 17) = .ok g) (hword : stepWordBad (leNat w) = false)
    (hgroup : groupBad g.2 = false) (hn : fld e.desc 131 17 ≤ 65536) (hfree : (getCtx u e.cid).step = none) :
    runBind e u core = (setBind u e.cid (some
      { word := stepWordOf (leNat w), addr := BitVec.ofNat 44 (fld e.desc 64 64), ndev := BitVec.ofNat 17 (fld e.desc 131 17)
        self := BitVec.ofNat 16 (fld e.desc 148 16), cid := BitVec.ofNat 16 (fld e.desc 208 16)
        grpAddr := BitVec.ofNat 44 (fld e.desc 164 44), gcrc := crc32c g.1 }) (getCtx u e.cid).skipOpen, .atOnce okOutcome) := by
  simp only [runBind, hshape, Bool.not_true, Bool.false_eq_true, if_false, hw, hg, hword, hgroup, not_lt.mpr hn, or_self, hfree,
    stepOk]

theorem runAgree_of_ok {b : StepBind} {g : Bytes × List Nat} (hbound : (getCtx u e.cid).step = some b) (hfirst : agreeing u e = false)
    (hroom : collWaits u (agreeColl u e core b) = false) (hg : readGroup u e.cid.part b.grpAddr.toNat b.ndev.toNat = .ok g)
    (hgroup : groupBad g.2 = false) :
    runAgree e u core = (startColl (setBind u e.cid (some { b with agreed := true }) (getCtx u e.cid).skipOpen)
      (placeColl (agreeColl u e core b) g.2), .running) := by
  simp only [runAgree, hbound, hfirst, hroom, hg, hgroup, Bool.false_eq_true, if_false]

theorem runCheck_of_bound {b : StepBind} (hbound : (getCtx u e.cid).step = some b) :
    runCheck e u core = (if b.word.ovfJob then setBind u e.cid (some b) true else u, .atOnce okOutcome) := by
  simp only [runCheck, hbound, stepOk]
  split <;> rfl

theorem runCommit_of_bound {b c : StepBind} {v : State} (hbound : (getCtx u e.cid).step = some b)
    (hc : c = { b with word := commitWord b.word, agreed := false }) (hw : writeBack (setBind u e.cid (some c) false) e.cid c = .ok v) :
    runCommit e u core = (if b.word.ovfJob = true ∧ c.word.floor = true
      then report v (cmdReport Code.eScaleFloor deferred e 0 core []) else v, .atOnce okOutcome) := by
  subst hc
  simp only [runCommit, hbound, hw, stepOk]
  split <;> rfl

theorem runUnbind_of_bound {b : StepBind} {v : State} (hbound : (getCtx u e.cid).step = some b) (hw : writeBack u e.cid b = .ok v) :
    runUnbind e u core = (setBind v e.cid none (getCtx u e.cid).skipOpen, .atOnce okOutcome) := by
  simp only [runUnbind, hbound, hw, stepOk]

/-- AGREE, CHECK and COMMIT of a context without a binding fail (R42). -/
theorem runStep_of_unbound {m : Nat} (hm : m = 1 ∨ m = 2 ∨ m = 3) (hmode : stepMode e.desc = m)
    (hfree : (getCtx u e.cid).step = none) :
    runStep e u core = (report u (cmdReport Code.eStepStatus contextFatal e 0 core []), .atOnce (faultOutcome Code.eStepStatus)) := by
  rcases hm with rfl | rfl | rfl
  · simp only [runStep, hmode, runAgree, hfree, stepFail]
  · simp only [runStep, hmode, runCheck, hfree, stepFail]
  · simp only [runStep, hmode, runCommit, hfree, stepFail]

end

/-- AGREE, CHECK and COMMIT issue the row of their mode. -/
theorem exec_step_of_mem {e : Entry} {i : Instr} {m : Nat}
    (h : (i, m) ∈ [(Instr.opStepStatusAgree e, 1), (.opStepStatusCheck e, 2), (.opStepStatusCommit e, 3)]) (s : State) :
    exec i s = .next (issueCmd s e (stepRow e m)) ∧ (m = 1 ∨ m = 2 ∨ m = 3) := by
  simp only [List.mem_cons, Prod.mk.injEq, List.not_mem_nil, or_false] at h
  rcases h with ⟨rfl, rfl⟩ | ⟨rfl, rfl⟩ | ⟨rfl, rfl⟩
  · exact ⟨rfl, by decide⟩
  · exact ⟨rfl, by decide⟩
  · exact ⟨rfl, by decide⟩

theorem runStep_bind {e : Entry} (h : stepMode e.desc = 0) : runStep e = runBind e := by simp only [runStep, h]

theorem runStep_agree {e : Entry} (h : stepMode e.desc = 1) : runStep e = runAgree e := by simp only [runStep, h]

theorem runStep_check {e : Entry} (h : stepMode e.desc = 2) : runStep e = runCheck e := by simp only [runStep, h]

theorem runStep_commit {e : Entry} (h : stepMode e.desc = 3) : runStep e = runCommit e := by simp only [runStep, h]

theorem runStep_unbind {e : Entry} (h : stepMode e.desc = 4) : runStep e = runUnbind e := by simp only [runStep, h]

/-- Settles O24: each mode's own branches, at the case its hypotheses name. -/
theorem stepStatusActs : Obligations.StepStatusActs := by
  unfold Obligations.StepStatusActs
  refine ⟨?bind, ?agree, ?result, ?check, ?commit, ?unbind, ?frame, ?unbound⟩
  case bind =>
    intro e s u core rs w g h hu hmode hshape hw hg hword hgroup hn hfree
    have hrun := runBind_of_ok (core := core) hshape hw hg hword hgroup hn hfree
    rw [← runStep_bind hmode] at hrun
    rw [exec_opStepStatusBind, execOpStepStatusBind, issueCmd_atOnce h hu hrun]
  case agree =>
    rintro e s u core rs b k g h hu hmode hbound hfirst rfl hroom hg hgroup
    have hrun := runAgree_of_ok hbound hfirst hroom hg hgroup
    rw [← runStep_agree hmode] at hrun
    rw [exec_opStepStatusAgree, execOpStepStatusAgree, issueCmd_running h hu hrun]
  case result =>
    intro cid ovf s k r hfind hres hrun hovf
    simp only [exec_stepAgreeResult, execStepAgreeResult, hfind, hres, if_pos (And.intro hrun hovf)]
  case check =>
    intro e s u core rs b h hu hmode hbound
    have hrun := runCheck_of_bound (core := core) hbound
    rw [← runStep_check hmode] at hrun
    rw [exec_opStepStatusCheck, execOpStepStatusCheck, issueCmd_atOnce h hu hrun]
  case commit =>
    intro e s u v core rs b c h hu hmode hbound hc hw
    have hrun := runCommit_of_bound (core := core) hbound hc hw
    rw [← runStep_commit hmode] at hrun
    rw [exec_opStepStatusCommit, execOpStepStatusCommit, issueCmd_atOnce h hu hrun]
  case unbind =>
    intro e s u v core rs b h hu hmode hbound hw
    have hrun := runUnbind_of_bound (core := core) hbound hw
    rw [← runStep_unbind hmode] at hrun
    rw [exec_opStepStatusUnbind, execOpStepStatusUnbind, issueCmd_atOnce h hu hrun]
  case frame =>
    rintro s c b skip t rfl
    refine ⟨by rw [getCtx_setBind], by rw [getCtx_setBind], ?_, ?_, ?_⟩
    · rw [setBind_eq]; rfl
    · rw [setBind_eq]; rfl
    · rw [setBind_eq]; rfl
  case unbound =>
    intro e s u core rs m i hi h hu hmode hfree
    obtain ⟨hexec, hm⟩ := exec_step_of_mem hi s
    rw [hexec, issueCmd_atOnce h hu (runStep_of_unbound hm hmode hfree)]

/-! ### What ends a blocking command -/

theorem unitsRun_of_coreBlock {s : State} {core : Nat} {b : Blocked} (h : coreBlock s core = some b) : unitsRun s = true := by
  unfold coreBlock at h
  split at h
  case h_1 => cases h
  case h_2 c _ =>
    split at h
    case isTrue hrun =>
      simp only [Bool.and_eq_true] at hrun
      exact hrun.1.1.1
    case isFalse => cases h

/-- With nothing held a blocked core's command is looked at again, unless it is a fence or a timed start. -/
theorem lookAgain_of_block {s : State} {core : Nat} {b : Blocked} (h : coreBlock s core = some b) (hrest : atRest s = true)
    (hfence : b.kind ≠ .fence) (htimed : b.kind ≠ .timed) : lookAgain s core = tryBlock s core b := by
  rw [lookAgain, h]
  dsimp only
  split
  case h_1 hkind => exact absurd hkind hfence
  case h_2 hkind => exact absurd hkind htimed
  case h_3 => exact coherent_of_atRest hrest

theorem execWaitSatisfied_of_block {core : CoreI} {s : State} {b : Blocked} (h : coreBlock s core.val = some b)
    (hrest : atRest s = true) (hfence : b.kind ≠ .fence) (htimed : b.kind ≠ .timed) :
    execWaitSatisfied core s = .next (regainAt (tryBlock s core.val b) core.val) := by
  rw [execWaitSatisfied, if_pos (unitsRun_of_coreBlock h), lookAgain_of_block h hrest hfence htimed]

/-- A PLAN wait without a list has nothing to read that could fail. -/
theorem waitFailure_plan {s : State} {core : Nat} {b : Blocked} (hkind : b.kind = .plan)
    (hlist : (getSeq s b.entry.cid core).list = none) : waitFailure s core b = none := by
  simp only [waitFailure, hkind, hlist]

theorem slotWrong_plan {s : State} {core : Nat} {b : Blocked} (hkind : b.kind = .plan) : slotWrong s core b = false := by
  simp only [slotWrong, hkind]

theorem blockMet_timed {s : State} {c : CtxId} {core : Nat} {b : Blocked} (hkind : b.kind = .timed) :
    blockMet s c core b = decide (fld b.entry.desc 64 64 ≤ (fabricTime s).toNat) := by
  simp only [blockMet, hkind]

/-- The wait for a slot that has hung is the one that blocks the core. -/
theorem hungSlotWait_of_block {s : State} {c : CtxId} {core : Nat} {b : Blocked} (h : coreBlock s core = some b)
    (hkind : b.kind = .slotFull ∨ b.kind = .slotEmpty) (hdue : b.since + hangNs s c ≤ residentClock s c)
    (hunmet : blockMet s c core b = false) : hungSlotWait s c core = some b := by
  have hhung : (b.kind = .slotFull ∨ b.kind = .slotEmpty) ∧ b.since + hangNs s c ≤ residentClock s c ∧ ¬ blockMet s c core b = true :=
    ⟨hkind, hdue, by simp [hunmet]⟩
  simp only [hungSlotWait, h, if_pos hhung]

theorem hungSlotWait_of_none {s : State} {core : Nat} (h : coreBlock s core = none) (c : CtxId) : hungSlotWait s c core = none := by
  simp only [hungSlotWait, h]

/-- Settles O19: the block's kind decides what ends it. -/
theorem blockedCommandsEnd : Obligations.BlockedCommandsEnd := by
  unfold Obligations.BlockedCommandsEnd
  refine ⟨?waits, ?plan, ?syncHang, ?timed, ?slotHang, ?delivery⟩
  case waits =>
    intro core s b hblock hrest hkind hslot hfail hmet
    have hne : b.kind ≠ .fence ∧ b.kind ≠ .timed ∧ b.kind ≠ .plan := by
      rcases hkind with h | h | h | h <;> simp [h]
    obtain ⟨hfence, htimed, hplan⟩ := hne
    rw [exec_waitSatisfied, execWaitSatisfied_of_block hblock hrest hfence htimed, tryBlock_of_met hslot hfail hmet,
      passBlock_wait hplan htimed]
  case plan =>
    intro core s b hblock hrest hkind hlist hmet
    rw [exec_waitSatisfied, execWaitSatisfied_of_block hblock hrest (by simp [hkind]) (by simp [hkind]),
      tryBlock_of_met (slotWrong_plan hkind) (waitFailure_plan hkind hlist) hmet, passBlock_plan hkind hlist]
  case syncHang =>
    intro core s b hblock hkind hdue hunmet
    have hkind' : (b.kind == .event || b.kind == .memory ||
        (b.kind == .plan && (getSeq s b.entry.cid core.val).list.isNone)) = true := by
      rcases hkind with h | h <;> simp [h]
    simp only [exec_syncHang, execSyncHang, hblock, hkind', hdue, hunmet, decide_true, Bool.not_false, Bool.and_self, if_true]
  case timed =>
    intro core s b hblock hkind hdue
    have hmet : blockMet s b.entry.cid core.val b = true := by
      rw [blockMet_timed hkind]
      exact decide_eq_true hdue
    simp only [exec_timedStartReached, execTimedStartReached, if_pos (unitsRun_of_coreBlock hblock), timedEnds, hblock,
      if_pos (And.intro hkind hmet), passBlock_timed hkind]
  case slotHang =>
    rintro core s b i hblock hctx hkind hdue hunmet rfl
    have hhung := hungSlotWait_of_block hblock hkind hdue hunmet
    simp only [exec_slotHang, execSlotHang, unitsRun_of_coreBlock hblock, Bool.not_true, Bool.false_eq_true, if_false, hctx,
      Option.bind_some, hhung]
  case delivery =>
    rintro core s c h i hrun hblock hhung rfl
    have hnone : (coreCtx s core.val).bind (fun c => hungSlotWait s c core.val) = none := by
      cases coreCtx s core.val with
      | none => rfl
      | some c' => exact hungSlotWait_of_none hblock c'
    simp only [exec_slotHang, execSlotHang, hrun, Bool.not_true, Bool.false_eq_true, if_false, hnone, hhung, deliveryHangs]

/-! ### Buffer slots (Table 4.3) -/

/-- A slot whose FILL was signalled is FULL once no write into it is under way. -/
theorem landSlot_of_mark {q : Seq} {t : Slot} (hstate : t.state = .filling) (hmark : t.fillMark = true) :
    landSlot q t = if slotInUse q t true = true then t else { t with state := .full, fillMark := false, extern := false } := by
  by_cases huse : slotInUse q t true = true
  · simp [landSlot, huse]
  · simp [landSlot, huse, hstate, hmark]

theorem drainSlot_of_draining {q : Seq} {t : Slot} (hstate : t.state = .draining) :
    drainSlot q t = if slotInUse q t false = true then t else { t with state := .empty, gen := t.gen + 1 } := by
  by_cases huse : slotInUse q t false = true
  · simp [drainSlot, huse]
  · simp [drainSlot, huse, hstate]

theorem slotTakes_of_fit {t : Slot} {g : BitVec 16} (hgen : t.gen = g)
    (hstate : t.state = .empty ∨ t.state = .filling ∧ t.extern = true) : slotTakes t g = .written := by
  rcases hstate with h | ⟨h, hext⟩
  · simp [slotTakes, hgen, h]
  · simp [slotTakes, hgen, h, hext]

/-- A delivery that every slot under it takes is written, and each of them fills from outside (R97). -/
theorem deliver_of_taken {s : State} {c : CtxId} {core : Nat} {h : Held} {l : List Nat} (hres : isResident s c = true)
    (hin : inSlots (getSeq s c core) h.addr.toNat h.data.length = true)
    (hl : l = slotsUnder (getSeq s c core) h.addr.toNat h.data.length)
    (htakes : ∀ i ∈ l, slotTakes (nth {} (getSeq s c core).slots i) h.gen = .written) :
    deliver s c core h = fillSlots (writeLs s core h.addr.toNat h.data) c core l := by
  subst hl
  have hreject : (slotsUnder (getSeq s c core) h.addr.toNat h.data.length).find?
      (fun i => slotTakes (nth {} (getSeq s c core).slots i) h.gen == .rejected) = none := by
    rw [List.find?_eq_none]
    intro i hi
    rw [htakes i hi]
    decide
  have hback : (slotsUnder (getSeq s c core) h.addr.toNat h.data.length).any
      (fun i => slotTakes (nth {} (getSeq s c core).slots i) h.gen == .heldBack) = false := by
    rw [List.any_eq_false]
    intro i hi
    rw [htakes i hi]
    decide
  simp only [deliver, hres, Bool.not_true, Bool.false_eq_true, if_false, hin, hreject, hback]

/-- Bytes outside every slot fail the sender's transfer. -/
theorem deliver_of_outside {s : State} {c : CtxId} {core : Nat} {h : Held} (hres : isResident s c = true)
    (hout : inSlots (getSeq s c core) h.addr.toNat h.data.length = false) :
    deliver s c core h =
      lsReport (failTransfer s c core h.sender Code.eLsUnslotted) c core Code.eLsUnslotted [h.addr.setWidth 32] := by
  simp only [deliver, hres, Bool.not_true, Bool.false_eq_true, if_false, hout, Bool.not_false, if_true]

/-- Settles O20: each transition of a slot, at the state its hypotheses name. -/
theorem slotsFillAndDrain : Obligations.SlotsFillAndDrain := by
  unfold Obligations.SlotsFillAndDrain
  refine ⟨?fill, ?drain, ?landed, ?done, ?oneSlot, ?slots, ?outside, ?marker⟩
  case fill =>
    rintro e s u core i rs t h hu rfl ht hfill hstate hgen hext
    have hland : landSlot (getSeq u e.cid core) { t with fillMark := true } =
        if slotInUse (getSeq u e.cid core) t true then { t with fillMark := true }
        else { t with state := .full, fillMark := false } := by
      have hmarked := landSlot_of_mark (q := getSeq u e.cid core) (t := { t with fillMark := true }) hstate rfl
      rw [hmarked, hext]
      rfl
    have hrun : runSignalSlot e u core = (setSlot u e.cid core (fld e.desc 68 6)
        (if slotInUse (getSeq u e.cid core) t true then { t with fillMark := true }
          else { t with state := .full, fillMark := false }), .atOnce okOutcome) := by
      rw [← hland]
      simp only [runSignalSlot, if_pos hfill, ← ht, hstate, hgen, hext, Bool.false_eq_true, not_false_eq_true, and_self, if_true]
    rw [exec_opSignalSlotFill, execOpSignalSlotFill, issueCmd_atOnce h hu hrun]
  case drain =>
    rintro e s u core i rs t h hu rfl ht hdrain hstate hgen
    have hrun : runSignalSlot e u core = (setSlot u e.cid core (fld e.desc 68 6)
        (if slotInUse (getSeq u e.cid core) t false then { t with state := .draining }
          else { t with state := .empty, gen := t.gen + 1 }), .atOnce okOutcome) := by
      have hempty : drainSlot (getSeq u e.cid core) { t with state := .draining } =
          if slotInUse (getSeq u e.cid core) t false then { t with state := .draining }
          else { t with state := .empty, gen := t.gen + 1 } := drainSlot_of_draining rfl
      rw [← hempty]
      simp only [runSignalSlot, hdrain, Nat.one_ne_zero, if_false, ← ht, hstate, hgen, and_self, if_true]
    rw [exec_opSignalSlotDrain, execOpSignalSlotDrain, issueCmd_atOnce h hu hrun]
  case landed =>
    rintro core slot s c t hctx hrun hslot rfl hstate hmark huse
    simp only [exec_slotWritesLanded, execSlotWritesLanded, hctx, if_pos (And.intro hrun hslot), landSlot_of_mark hstate hmark, huse,
      Bool.false_eq_true, if_false]
  case done =>
    rintro core slot s c t hctx hrun hslot rfl hstate huse
    simp only [exec_slotReadsDone, execSlotReadsDone, hctx, if_pos (And.intro hrun hslot), drainSlot_of_draining hstate, huse,
      Bool.false_eq_true, if_false]
  case oneSlot =>
    rintro core c addr gen data sender s i t hrun hready hres hin hone rfl hgen hstate
    rw [exec_outsideDelivery, execOutsideDelivery, if_pos (And.intro hrun hready),
      deliver_of_taken (l := [i]) hres hin hone.symm (by
        intro j hj
        rw [List.mem_singleton.mp hj]
        exact slotTakes_of_fit hgen hstate)]
    rfl
  case slots =>
    intro core c addr gen data sender s l hrun hready hres hin hl htakes
    rw [exec_outsideDelivery, execOutsideDelivery, if_pos (And.intro hrun hready)]
    exact congrArg Host.Outcome.next (deliver_of_taken hres hin hl htakes)
  case outside =>
    intro core c addr gen data sender s hrun hready hres hout
    rw [exec_outsideDelivery, execOutsideDelivery, if_pos (And.intro hrun hready)]
    exact congrArg Host.Outcome.next (deliver_of_outside hres hout)
  case marker =>
    rintro core c slot gen sender s t hrun hready hres ht hheld hgen hstate hext huse
    have hmarked := landSlot_of_mark (q := getSeq s c core.val) (t := { t with fillMark := true }) hstate rfl
    have huse' : slotInUse (getSeq s c core.val) { t with fillMark := true } true = false := huse
    rw [huse', if_neg Bool.false_ne_true] at hmarked
    rw [exec_senderEndMarker, execSenderEndMarker, if_pos (And.intro hrun hready)]
    have hfills : t.state = .filling ∧ t.gen = gen ∧ t.extern = true := ⟨hstate, hgen, hext⟩
    simp only [markEnd, hres, ← ht, hheld, Bool.not_true, Bool.or_self, Bool.false_eq_true, if_false, if_pos hfills, hmarked]

end Sys2Proof.Machine

/-! PROOFS. The commands of the engines, the DMA engine, the predictor and the collectives, when they issue. -/

namespace Sys2Proof.Machine

/-! ### How a run without a fault ends -/

@[simp] theorem watch_false (s : State) (c : CtxId) : watch s c false = s := rfl

theorem settleRun_of_ok {s : State} {core : Nat} {e : Entry} {watched : Bool} {r : RunResult} (h : r.fault = none) :
    settleRun s core e watched r = (watch (writeAll s core r.writes) e.cid (watched && r.event), .ended okOutcome) := by
  simp only [settleRun, h]

theorem settleRun_writes (s : State) (core : Nat) (e : Entry) (ws : List (Nat × Bytes)) :
    settleRun s core e false { writes := ws } = (writeAll s core ws, .ended okOutcome) := by
  rw [settleRun_of_ok rfl, Bool.false_and, watch_false]

theorem settleUni_writes {s v : State} {e : Entry} {unit : BitVec 7} {inst : Nat} {ws : List (Nat × Bytes)} {areas : List (Nat × Nat)}
    (h : writeUniAll s e.cid.part ws = .ok v) :
    settleUni s e unit inst { writes := ws, areas := areas } = (v, .ended okOutcome) := by
  simp only [settleUni, h]

theorem settleCopy_local (s : State) (core : Nat) (e : Entry) (areas : List (Nat × Nat)) (ws : List (Nat × Bytes)) :
    settleCopy s core e true areas (.ok ws) = (writeAll s core ws, .ended okOutcome) := settleRun_writes ..

theorem settleCopy_uni {s v : State} {core : Nat} {e : Entry} {areas : List (Nat × Nat)} {ws : List (Nat × Bytes)}
    (h : writeUniAll s e.cid.part ws = .ok v) : settleCopy s core e false areas (.ok ws) = (v, .ended okOutcome) :=
  settleUni_writes h

/-! ### The engines (R52-R86) -/

theorem runMm_of_ok {e : Entry} {x : Mm} {u : State} {core : Nat} (hm : x.m ≠ 0) (hn : x.n ≠ 0)
    (hok : (runTiles u core e.cid x (mmPair u core x) (mmTiles x)).fault = none) :
    runMm e x u core =
      (watch (writeAll (if x.outmode = 0 then advanceRng u e.cid x.rng x.cvt (x.m * x.n) else u) core
          (runTiles u core e.cid x (mmPair u core x) (mmTiles x)).writes) e.cid
        (x.watched && (runTiles u core e.cid x (mmPair u core x) (mmTiles x)).event), .ended okOutcome) := by
  have hsome : ¬ (x.m = 0 ∨ x.n = 0) := by simp [hm, hn]
  rw [runMm, if_neg hsome, settleRun_of_ok hok]

/-- Settles O9: an engine's run without a fault lands its writes and ends OK. -/
theorem enginesWriteTheirResults : Obligations.EnginesWriteTheirResults := by
  unfold Obligations.EnginesWriteTheirResults
  refine ⟨?matmul, ?sparse, ?vchain, ?attn, ?fresh, ?accum, ?prune⟩
  case matmul =>
    rintro e s u core rs x r rfl h hu hm hn rfl hok
    rw [exec_opMatmul, execOpMatmul, issueCmd_ended h hu (runMm_of_ok hm hn hok)]
  case sparse =>
    rintro e s u core rs x r rfl h hu hm hn rfl hok
    rw [exec_opMatmulSparse, execOpMatmulSparse, issueCmd_ended h hu (runMm_of_ok hm hn hok)]
  case vchain =>
    rintro e s u core rs x r rfl h hu hrows hcols rfl hok
    have hsome : ¬ ((vcOf e.desc).rows = 0 ∨ (vcOf e.desc).cols = 0) := by simp [hrows, hcols]
    have hrun := settleRun_of_ok (s := advanceRng u e.cid (vcOf e.desc).rng (vcOf e.desc).cvt (vcOf e.desc).draws) (core := core)
      (e := e) (watched := (vcOf e.desc).watched) hok
    rw [exec_opVchain, execOpVchain, issueCmd_ended h hu ((if_neg hsome).trans hrun)]
  case attn =>
    rintro e s u core rs x rfl h hu
    have hrun : runAt e (atOf e.desc) u core = (watch (writeAll (advanceRng u e.cid (atOf e.desc).rng (atOf e.desc).cvt
          (atOf e.desc).draws) core (((upto (atOf e.desc).mq).map (atRow u e.cid core (atOf e.desc))).flatMap (·.1))) e.cid
        ((atOf e.desc).watched && ((upto (atOf e.desc).mq).map (atRow u e.cid core (atOf e.desc))).any (·.2)),
        .ended okOutcome) := by
      simp only [runAt, settleRun_of_ok]
    rw [exec_opAttnBlock, execOpAttnBlock, issueCmd_ended h hu hrun]
  case fresh =>
    rintro e s u core rs x rfl h hu haccum
    have hrun : runSp e (spOf e.desc) u core =
        (writeLs u core (spOf e.desc).reca (scaleBytes (scaleRec (spOf e.desc).tf (spRows u core (spOf e.desc)))),
          .ended okOutcome) := by
      simp only [runSp, haccum, Bool.not_false, if_true, settleRun_writes]
      rfl
    rw [exec_opScalepass, execOpScalepass, issueCmd_ended h hu hrun]
  case accum =>
    rintro e s u core rs x rfl h hu haccum hfmt
    have hrun : runSp e (spOf e.desc) u core =
        (writeLs u core (spOf e.desc).reca (scaleBytes (scaleMerge (scaleOf (readLs u core (spOf e.desc).reca 16))
          (scaleRec (spOf e.desc).tf (spRows u core (spOf e.desc))))), .ended okOutcome) := by
      simp only [runSp, haccum, Bool.not_true, Bool.false_eq_true, if_false, hfmt, ne_eq, not_true_eq_false, settleRun_writes]
      rfl
    rw [exec_opScalepass, execOpScalepass, issueCmd_ended h hu hrun]
  case prune =>
    rintro e s u core rs x rfl h hu
    rw [exec_opPrune, execOpPrune, issueCmd_ended h hu (settleRun_writes ..)]

/-! ### Copies (R223-R227, R236) -/

/-- Settles O10: rows that can be read land, in the local store or in the unified range. -/
theorem copiesMoveTheirRows : Obligations.CopiesMoveTheirRows := by
  unfold Obligations.CopiesMoveTheirRows
  refine ⟨?toLocal, ?toUni, ?gather, ?scatter⟩
  case toLocal =>
    rintro e s u core rs x rows rfl h hu hrows hdst hread
    have hrun : runDma e u core = (writeAll u core ((rowAddrs (dmOf e.desc).dst (dmOf e.desc).outRows (64 * (dmOf e.desc).dld)).zip
        (dmaOut (dmOf e.desc) rows)), .ended okOutcome) := by
      simp only [runDma, if_neg hrows, hdst, hread, settleCopy_local]
    rw [exec_opDma, execOpDma, issueCmd_ended h hu hrun]
  case toUni =>
    rintro e s u v core rs x rows rfl h hu hrows hdst hread hw
    have hrun : runDma e u core = (v, .ended okOutcome) := by
      simp only [runDma, if_neg hrows, hdst, hread, settleCopy_uni hw]
    rw [exec_opDma, execOpDma, issueCmd_ended h hu hrun]
  case gather =>
    rintro e s u core rs x l ws rfl h hu hsome hrows hwrites
    have hrun : runGather e u core = (writeAll u core ws, .ended okOutcome) := by
      simp only [runGather, hsome, Bool.false_eq_true, if_false, hrows, hwrites, settleCopy_local]
    rw [exec_opGather, execOpGather, issueCmd_ended h hu hrun]
  case scatter =>
    rintro e s u v core rs x l rfl h hu hsome hrows hw
    have hrun : runScatter e u core = (v, .ended okOutcome) := by
      simp only [runScatter, hsome, Bool.false_eq_true, if_false, hrows, settleCopy_uni hw]
    rw [exec_opScatter, execOpScatter, issueCmd_ended h hu hrun]

/-! ### Collectives (R176, R184, R194) -/

theorem runColl_of_ok {e : Entry} {u : State} {core : Nat} {kind : CollKind} {g : Bytes × List Nat} {src : Bytes}
    (hg : readGroup u e.cid.part (collGrp e.desc) (collOf u e core kind).ndev = .ok g)
    (hsrc : readUni u e.cid.part (collSrc e.desc) (collOf u e core kind).srcLen = .ok src) (hgroup : groupBad g.2 = false)
    (hexp : (collOf u e core kind).ifmt = 0xA → (al48Groups src).any (fun x => x.gexp == 0xFF) = false) :
    runColl e kind u core =
      (startColl u (placeColl { collOf u e core kind with src := src, gdig := crc32c g.1 } g.2), .running) := by
  have hfinite : ¬ ((collOf u e core kind).ifmt = 0xA ∧ (al48Groups src).any (fun x => x.gexp == 0xFF) = true) := by
    rintro ⟨hifmt, hbad⟩
    rw [hexp hifmt] at hbad
    cases hbad
  simp only [runColl, hg, hsrc, hgroup, Bool.false_eq_true, if_false, if_neg hfinite]

/-- The four collectives issue the row of their kind. -/
theorem exec_coll_of_mem {e : Entry} {s : State} {i : Instr} {op : Nat} {kind : CollKind}
    (h : (i, op, kind) ∈ [(Instr.opReduce e, 0x0400, CollKind.reduce), (.opAllreduce e, 0x0401, .allreduce),
      (.opBcast e, 0x0402, .bcast), (.opAllgather e, 0x0403, .allgather)]) :
    exec i s = .next (issueCmd s e (collRow e op kind)) := by
  simp only [List.mem_cons, Prod.mk.injEq, List.not_mem_nil, or_false] at h
  rcases h with ⟨rfl, rfl, rfl⟩ | ⟨rfl, rfl, rfl⟩ | ⟨rfl, rfl, rfl⟩ | ⟨rfl, rfl, rfl⟩
  · rfl
  · rfl
  · rfl
  · rfl

/-- Settles O17: a collective whose group and source read well stands at its place of the tree. -/
theorem collectivesBegin : Obligations.CollectivesBegin := by
  unfold Obligations.CollectivesBegin
  rintro e s u core rs k g src kind op i hi h hu rfl hg hsrc hgroup hexp
  rw [exec_coll_of_mem hi, issueCmd_running h hu (runColl_of_ok hg hsrc hgroup hexp)]

/-! ### The predictor (R165-R172) -/

/-- Settles O16: each command whose state reads well writes its record. -/
theorem predictorWritesItsRecords : Obligations.PredictorWritesItsRecords := by
  unfold Obligations.PredictorWritesItsRecords
  refine ⟨?predict, ?bound, ?makeup⟩
  case predict =>
    rintro e s u core rs x bs r rfl h hu hread hstate
    have hrun : runPredict e (pdOf e.desc) u core = (notePred (writeLs u core (pdOf e.desc).out (pdRecord (pdOf e.desc) r
        ((upto (pdOf e.desc).fb).map (pdClass u core (pdOf e.desc) (.num (decide (r.q < 0)) r.q.natAbs (-8))))))
        e core (pdOf e.desc), .ended okOutcome) := by
      simp only [runPredict, hread, hstate]
    rw [exec_opPredictPredict, execOpPredictPredict, issueCmd_ended h hu hrun]
  case bound =>
    rintro e s u core rs x rfl h hu
    rw [exec_opPredictBound, execOpPredictBound, issueCmd_ended h hu rfl]
  case makeup =>
    rintro e s u v core rs x bs r r1 m ms rfl h hu hread hstate rfl rfl rfl hw
    have hrun : runMakeup e (mkOf e.desc) u core = (setDie v (dieOf core) { getDie v (dieOf core) with
        npuMissn := satAdd (getDie v (dieOf core)).npuMissn
          ((mkMissed u core (mkOf e.desc) (mkPlan (readLs u core (mkOf e.desc).pred 640))).map (·.length)).sum
        npuExam := satAdd (getDie v (dieOf core)).npuExam
          (mkMissed u core (mkOf e.desc) (mkPlan (readLs u core (mkOf e.desc).pred 640))).length }, .ended okOutcome) := by
      simp only [runMakeup, hread, hstate, hw]
    rw [exec_opMakeup, execOpMakeup, issueCmd_ended h hu hrun]

end Sys2Proof.Machine

/-! PROOFS. Routing tables (R115-R131, R308, R309) and the beginning of the exchanges (R140-R162). -/

namespace Sys2Proof.Machine

/-! ### Routing tables -/

section
variable {e : Entry} {u v : State} {core : Nat}

theorem runCount_of_ok {x : Ds} {ms : List MapEnt} {toks : List (List Nat)} (hin : dsInputs u e.cid.part x = .ok (ms, toks))
    (hw : writeUniAll (setDsLast u x) e.cid.part [(x.cnt, (upto x.nexp).flatMap (fun k => leBytes 4 (countOf toks k)))] = .ok v) :
    runCount e x u core = (v, .ended okOutcome) := by
  simp only [runCount, hin, settleUni_writes hw]

theorem runPack_of_ok {x : Ds} {ms : List MapEnt} {toks : List (List Nat)} {cb db : Bytes} {dec : List Nat}
    (hin : dsInputs u e.cid.part x = .ok (ms, toks)) (hcb : readUni u e.cid.part x.cnt (4 * x.nexp) = .ok cb)
    (hdb : readUni u e.cid.part x.dec x.nexp = .ok db) (hdec : dec = db.map (·.toNat))
    (hok : packBad x ms toks (wordsOf 4 cb) dec = none)
    (hw : writeUniAll u e.cid.part
      [(x.sl0, sendList x ms dec (((toks.zipIdx).map (fun r => (r.2, r.1))).take x.split)),
       (x.sl1, sendList x ms dec (((toks.zipIdx).map (fun r => (r.2, r.1))).drop x.split)),
       (x.wcl, weightsList x dec toks)] = .ok v) : runPack e x u core = (v, .ended okOutcome) := by
  subst hdec
  simp only [runPack, hin, hcb, hdb, hok, settleUni_writes hw]

/-- Under FORCE the Placement unit decides by the band it was left with, and writes the decisions only. -/
theorem runPlace_of_force {x : Pl} {sb cb mb : Bytes} {ds prev : List Nat} {d wc band quiet : Nat}
    (hst : readUni u e.cid.part x.st (64 + x.nexp) = .ok sb) (hcnt : readUni u e.cid.part x.cnt (4 * x.nexp) = .ok cb)
    (hmap : readUni u e.cid.part x.map (4 * x.nexp) = .ok mb) (hforce : x.force ≠ 0) (hband : band = bitsOf (leNat (sb.take 64)) 0 8)
    (hquiet : quiet = bitsOf (leNat (sb.take 64)) 8 4) (hprev : prev = (sb.drop 64).map (·.toNat))
    (hok : placeStateOk (leNat (sb.take 64)) prev = true)
    (hds : ds = (upto x.nexp).map (fun k => placeDec x band (nth 0 ((wordsOf 4 mb).map (fun v => bitsOf v 0 16)) k)
      (nth 0 (wordsOf 4 cb) k) (nth 0 prev k)))
    (hd : d = (ds.filter decided).length) (hwc : wc = (ds.filter (· == 2)).length)
    (hw : writeUniAll (setPlaceRegs u band quiet 0 d wc) e.cid.part [(x.dec, ds.map (BitVec.ofNat 8))] = .ok v) :
    runPlace e x true u core = (v, .ended okOutcome) := by
  have hwarm : (bitsOf (leNat (sb.take 64)) 0 8 == 0 && x.force == 0) = false := by simp [hforce]
  subst hband hquiet hprev hd hwc hds
  simp only [runPlace, hst, hcnt, hmap, hok, Bool.not_true, Bool.false_eq_true, if_false, hwarm, hforce, ne_eq, not_false_eq_true,
    if_true, settleUni_writes hw]

/-- Without FORCE it takes the cold band where none was left, and moves band, quiet count and state on. -/
theorem runPlace_of_free {x : Pl} {sb cb mb : Bytes} {ds prev : List Nat} {h d wc f band quiet : Nat}
    (hst : readUni u e.cid.part x.st (64 + x.nexp) = .ok sb) (hcnt : readUni u e.cid.part x.cnt (4 * x.nexp) = .ok cb)
    (hmap : readUni u e.cid.part x.map (4 * x.nexp) = .ok mb) (hforce : x.force = 0) (hh : h = leNat (sb.take 64))
    (hprev : prev = (sb.drop 64).map (·.toNat)) (hok : placeStateOk h prev = true)
    (hband : band = (if bitsOf h 0 8 = 0 then 32 else bitsOf h 0 8)) (hquiet : quiet = (if bitsOf h 0 8 = 0 then 0 else bitsOf h 8 4))
    (hds : ds = (upto x.nexp).map (fun k => placeDec x band (nth 0 ((wordsOf 4 mb).map (fun v => bitsOf v 0 16)) k)
      (nth 0 (wordsOf 4 cb) k) (nth 0 prev k)))
    (hd : d = (ds.filter decided).length) (hwc : wc = (ds.filter (· == 2)).length)
    (hf : f = ((ds.zip prev).filter (fun q => decided q.1 && q.2 != 0 && q.1 != q.2)).length)
    (hw : writeUniAll (setPlaceRegs u (placeBand band quiet f d).1 (placeBand band quiet f d).2 f d wc) e.cid.part
      [(x.dec, ds.map (BitVec.ofNat 8)),
       (x.st, leBytes 64 (pack [(0, (placeBand band quiet f d).1), (8, (placeBand band quiet f d).2), (16, f), (32, d),
          (48, (bitsOf h 48 32 + 1) % 2 ^ 32)]) ++
        (ds.zip prev).map (fun q => BitVec.ofNat 8 (if decided q.1 then q.1 else q.2)))] = .ok v) :
    runPlace e x true u core = (v, .ended okOutcome) := by
  subst hh hprev hd hwc hf hds hband hquiet
  simp only [runPlace, hst, hcnt, hmap, hok, Bool.not_true, Bool.false_eq_true, if_false, hforce, beq_self_eq_true, Bool.and_true,
    beq_iff_eq, ne_eq, not_true_eq_false, if_true, settleUni_writes hw]

theorem makePlan_of_ok {x : Ep} {n : Nat} {items : List PlanItem} {tpl etpl : Template} {d : Deal} {lists : Bytes}
    (hitems : planItems u e.cid.part x = .ok items) (htpl : readTemplate u e.cid.part x.tpl = .ok tpl)
    (hetpl : (if x.etpl = 0 then readTemplate u e.cid.part x.tpl else readTemplate u e.cid.part x.etpl) = .ok etpl)
    (hgood : templateBad tpl = false) (hegood : templateBad etpl = false) (hn : n = ncores (getPart u e.cid.part))
    (hd : d = items.foldl (dealItem x.chunk (x.etpl != 0))
      { loads := List.replicate n 0, seqs := List.replicate n 0, emits := [], chunks := 0 })
    (hlists : coreLists u e.cid.part tpl etpl x.chunk d.emits.reverse (upto n) = .ok lists) (hroom : 64 + lists.length ≤ x.outBytes)
    (hw : writeUniAll u e.cid.part [(x.out, planSummary items d lists.length ++ lists)] = .ok v) :
    makePlan e x u core = (handPlan v e (x.out + 64), .ended okOutcome) := by
  simp only [makePlan, hetpl]
  simp only [hitems, htpl, ← hn, ← hd, hgood, hegood, Bool.or_self, Bool.false_eq_true, if_false, hlists,
    if_neg (not_lt.mpr hroom), settleUni_writes hw, if_true]

end

/-- Settles O14: each unit's tables, where its inputs read well and its outputs can be written. -/
theorem routingTablesAreWritten : Obligations.RoutingTablesAreWritten := by
  unfold Obligations.RoutingTablesAreWritten
  refine ⟨?count, ?pack, ?force, ?free, ?planWaits, ?plan⟩
  case count =>
    rintro e s u v core rs x ms toks rfl h hu hin hw
    rw [exec_opDispatchCount, execOpDispatchCount, issueCmd_ended h hu (runCount_of_ok (core := core) hin hw)]
  case pack =>
    rintro e s u v core rs x ms toks cb db dec rfl h hu hin hcb hdb hdec hok hw
    rw [exec_opDispatchPack, execOpDispatchPack, issueCmd_ended h hu (runPack_of_ok (core := core) hin hcb hdb hdec hok hw)]
  case force =>
    rintro e s u v core rs x sb cb mb ds prev d wc band quiet rfl h hu hst hcnt hmap hforce hband hquiet hprev hok hds hd hwc hw
    rw [exec_opPlace, execOpPlace,
      issueCmd_ended h hu (runPlace_of_force (core := core) hst hcnt hmap hforce hband hquiet hprev hok hds hd hwc hw)]
  case free =>
    rintro e s u v core rs x sb cb mb ds prev hd d wc f band quiet rfl h hu hst hcnt hmap hforce hh hprev hok hband hquiet hds hdn
      hwc hf hw
    rw [exec_opPlace, execOpPlace,
      issueCmd_ended h hu (runPlace_of_free (core := core) hst hcnt hmap hforce hh hprev hok hband hquiet hds hdn hwc hf hw)]
  case planWaits =>
    rintro e s u core rs x rfl h hu hwaits
    rw [exec_opExpertPlan, execOpExpertPlan, issueCmd_running h hu (if_pos hwaits)]
  case plan =>
    rintro e s u v core n rs x items tpl etpl d lists rfl h hu hwaits hitems htpl hetpl hgood hegood hn hd hlists hroom hw
    have hnow : ¬ planWaits u e.cid (epOf e.desc).rxc = true := by simp [hwaits]
    rw [exec_opExpertPlan, execOpExpertPlan, issueCmd_ended h hu
      ((if_neg hnow).trans (makePlan_of_ok hitems htpl hetpl hgood hegood hn hd hlists hroom hw))]

/-! ### Exchanges -/

/-- Settles O15: each command whose lists and tables read well stands with its streams. -/
theorem exchangesBegin : Obligations.ExchangesBegin := by
  unfold Obligations.ExchangesBegin
  refine ⟨?dispatch, ?ret, ?retNone, ?combine, ?a2a⟩
  case dispatch =>
    rintro e s u v core rs x q wcl b0 b1 o0 o1 rfl h hu rfl hwcl hb0 hb1 ho0 ho1 hw
    have hrun : runDispatch e (xcOf e.desc) u core = (pushOuts { v with
        xcmds := v.xcmds ++ [{ newX u core e (xcOf e.desc) .dispatch (xParAt u e.cid.part (xcOf e.desc).pb) with wcl := wcl }] }
        e.cid (o0 ++ o1), .running) := by
      simp only [runDispatch, hwcl, hb0, hb1, ho0, ho1, hw]
    rw [exec_opExchangeDispatch, execOpExchangeDispatch, issueCmd_running h hu hrun]
  case ret =>
    rintro e s u core rs x q hb eb o os rfl h hu rfl hhb heb hos
    have hrun : runReturn e (xcOf e.desc) u core = (pushOuts { u with
        xcmds := u.xcmds ++ [newX u core e (xcOf e.desc) .ret (xParAt u e.cid.part (xcOf e.desc).pb)] } e.cid (o :: os), .running) := by
      simp only [runReturn, hhb, heb, hos]
    rw [exec_opExchangeReturn, execOpExchangeReturn, issueCmd_running h hu hrun]
  case retNone =>
    rintro e s u core rs x q hb eb rfl h hu rfl hhb heb hos
    have hrun : runReturn e (xcOf e.desc) u core = (u, .ended okOutcome) := by simp only [runReturn, hhb, heb, hos]
    rw [exec_opExchangeReturn, execOpExchangeReturn, issueCmd_ended h hu hrun]
  case combine =>
    rintro e s u v core rs x h hu rfl hw
    have hrun : runCombine e u core = (advanceRng { v with cmbs := v.cmbs ++ [{ cmbOf e core with
        rng := getRng u e.cid (cmbRng e.desc), since := residentClock u e.cid }] } e.cid (cmbRng e.desc) (cmbOf e core).cvt
        (cmbOf e core).draws, .running) := by
      simp only [runCombine, hw]
      rfl
    rw [exec_opCombine, execOpCombine, issueCmd_running h hu hrun]
    rfl
  case a2a =>
    rintro e s u core rs a sb os rfl h hu hsb hos
    have hrun : runA2a e (aaOf e.desc) u core = (pushOuts { u with xcmds := u.xcmds ++
        [{ newX u core e (aaOf e.desc).x .a2a {} with stbl := (aaOf e.desc).stbl, rtbl := (aaOf e.desc).rtbl }] } e.cid os,
        .running) := by
      simp only [runA2a, hsb, hos]
    rw [exec_opA2a, execOpA2a, issueCmd_running h hu hrun]

end Sys2Proof.Machine

/-! PROOFS. Gate sessions (R106, R110-R114) and migrations (R219-R222). -/

namespace Sys2Proof.Machine

/-! ### What an issue leaves as it was -/

/-- A CORRECTED or DEFERRED report that is not the agent's mark reaches the collectors only (R417). -/
theorem sameButRings_report {s : State} {r : Report} (hcode : ¬ (r.code = Code.cohRead ∨ r.code = Code.cohWrite))
    (hcls : r.cls.val < 2) : SameButRings s (report s r) := by
  unfold report reportRej reportReal
  rw [if_neg hcode]
  dsimp only
  split
  case h_1 fatal _ _ => omega
  case h_2 fatal _ => omega
  case h_3 fatal => omega
  case h_4 => exact SameButRings.trans (by rfl) (sameButRings_toRings ..)

/-- A late start is reported, and changes nothing else (R305). -/
theorem sameButRings_reportLate (s : State) (core : Nat) (o : Option Entry) : SameButRings s (reportLate s core o) := by
  unfold reportLate
  split
  case h_1 => exact .refl s
  case h_2 e =>
    dsimp only
    split
    · exact sameButRings_report (by simp only [cmdReport]; decide) Nat.one_lt_two
    · exact .refl s

/-- A command that issues changes its sequencer, and what a report of a late start changes. -/
theorem issued_eq (s : State) (e : Entry) (r : OpRow) (core : Nat) (rs : List Range) :
    issued s e r core rs = { s with
      seqs := (issued s e r core rs).seqs, err := (issued s e r core rs).err, comp := (issued s e r core rs).comp } := by
  unfold issued putInFlight
  have h := fun q : Seq => sameButRings_reportLate (setSeq s e.cid core q) core
  unfold SameButRings at h
  dsimp only
  rw [h]
  rfl

theorem StoresKept.issued (s : State) (e : Entry) (r : OpRow) (core : Nat) (rs : List Range) : StoresKept s (issued s e r core rs) := by
  rw [issued_eq]
  exact .upd (.refl s)

theorem StoresKept.endCmd {s t : State} (h : StoresKept s t) {core : Nat} {e : Entry} {o : Outcome} :
    StoresKept s (endCmd t core e o) := h.upd

theorem StoresKept.watch {s t : State} (h : StoresKept s t) {c : CtxId} {b : Bool} : StoresKept s (watch t c b) := .ite h.upd h

/-! ### Gate sessions -/

@[simp] theorem getSess_setSess (s : State) (die : CDie) (c : CtxId) (n : Nat) (g : Option GateSess) :
    getSess (getDie (setSess s die c n g) die) c n = g := by
  simp [getSess, setSess]

theorem StoresKept.setSess {s t : State} (h : StoresKept s t) {die : CDie} {c : CtxId} {n : Nat} {g : Option GateSess} :
    StoresKept s (setSess t die c n g) := h.upd

/-- An opening with room, or a slice of an open session, enters the unit. -/
theorem runGate_enter {e : Entry} {x : Gt} {u : State} {core : Nat}
    (h : (getSess (getDie u (dieOf core)) e.cid x.sess).isSome = true ∨
      ((getDie u (dieOf core)).waiting = [] ∧ x.params.m ≤ statesFree (getDie u (dieOf core)))) :
    runGate e x u core = gateEnter u core e x := by
  simp only [runGate, if_pos h]

/-- An opening without room waits. -/
theorem runGate_wait {e : Entry} {x : Gt} {u : State} {core : Nat} (hnone : getSess (getDie u (dieOf core)) e.cid x.sess = none)
    (hfull : statesFree (getDie u (dieOf core)) < x.params.m) :
    runGate e x u core = (setDie u (dieOf core) { getDie u (dieOf core) with
      waiting := (getDie u (dieOf core)).waiting ++
        [{ core := Fin.ofNat 128 core, entry := e, since := residentClock u e.cid }] }, .running) := by
  have hout : ¬ ((getSess (getDie u (dieOf core)) e.cid x.sess).isSome = true ∨
      ((getDie u (dieOf core)).waiting = [] ∧ x.params.m ≤ statesFree (getDie u (dieOf core)))) := by
    rw [hnone]
    simp only [Option.isSome_none, Bool.false_eq_true, false_or, not_and, not_le]
    exact fun _ => hfull
  simp only [runGate, if_neg hout]

theorem gateEnter_open {e : Entry} {x : Gt} {u : State} {core : Nat} {g0 g : GateSess}
    (hg0 : (getSess (getDie u (dieOf core)) e.cid x.sess).getD
      { params := x.params, covered := [], toks := List.replicate x.params.m [] } = g0)
    (hg : g = gateMerge u core x g0) (hopen : gateComplete g = false) :
    gateEnter u core e x = (setSess (watch u e.cid (x.params.watched && gateNanScored u core x)) (dieOf core) e.cid x.sess (some g),
      .ended okOutcome) := by
  simp only [gateEnter, hg0, ← hg, hopen, Bool.false_eq_true, if_false]

theorem gateEnter_complete {e : Entry} {x : Gt} {u : State} {core : Nat} {g0 g : GateSess}
    (hg0 : (getSess (getDie u (dieOf core)) e.cid x.sess).getD
      { params := x.params, covered := [], toks := List.replicate x.params.m [] } = g0)
    (hg : g = gateMerge u core x g0) (hcomplete : gateComplete g = true) :
    gateEnter u core e x = gateFinal (setSess (watch u e.cid (x.params.watched && gateNanScored u core x)) (dieOf core) e.cid x.sess
      (some g)) (dieOf core) e x g := by
  simp only [gateEnter, hg0, ← hg, hcomplete, if_true]

/-- Settles O13: a session opens, completes or waits as the unit's room says. -/
theorem gateSessionsScoreAndFinalise : Obligations.GateSessionsScoreAndFinalise := by
  unfold Obligations.GateSessionsScoreAndFinalise
  refine ⟨?opens, ?complete, ?waits, ?served, ?hang⟩
  case opens =>
    rintro e s u core rs x g rfl h hu hnone hidle hroom hg hopen
    have hrun := gateEnter_open (e := e) (by rw [hnone, Option.getD_none]) hg hopen
    rw [← runGate_enter (.inr ⟨hidle, hroom⟩)] at hrun
    have hkept : StoresKept s (endCmd (setSess (watch u e.cid ((gtOf e.desc).params.watched && gateNanScored u core (gtOf e.desc)))
        (dieOf core) e.cid (gtOf e.desc).sess (some g)) core e okOutcome) := by
      rw [hu]
      exact (StoresKept.issued ..).watch.setSess.endCmd
    refine ⟨_, ?_, rfl, ?_, hkept.uni, hkept.ls⟩
    · rw [exec_opGate, execOpGate, issueCmd_ended h hu hrun]
    · exact getSess_setSess ..
  case complete =>
    rintro e s u core rs x g0 g rfl h hu hsome hg hcomplete
    have hrun := gateEnter_complete (e := e) (by rw [hsome, Option.getD_some]) hg hcomplete
    rw [← runGate_enter (.inl (by rw [hsome]; rfl))] at hrun
    rw [exec_opGate, execOpGate, issueCmd_of_issues h, ← hu]
    exact congrArg (fun r : State × Ended => Host.Outcome.next (settleEnd r.1 core e r.2)) hrun
  case waits =>
    rintro e s u core rs x rfl h hu hnone hfull
    rw [exec_opGate, execOpGate, issueCmd_running h hu (runGate_wait hnone hfull)]
  case served =>
    intro die s w rest hrun hwaiting hfits
    simp only [exec_gateOpeningServed, execGateOpeningServed, hwaiting, if_pos (And.intro hrun hfits)]
  case hang =>
    intro die cid sess s w hrun hres hfind hdue
    simp only [exec_gateHang, execGateHang, hfind, if_pos (And.intro hrun (And.intro hres hdue))]

end Sys2Proof.Machine

/-! PROOFS. Migrations (R219-R222). -/

namespace Sys2Proof.Machine

/-! ### The page table -/

@[simp] theorem mirror_mem (s : State) (p : PartI) (a : Nat) (bs : Bytes) : (mirror s p a bs).mem = s.mem := by rw [mirror_eq]

@[simp] theorem getPte_setPte (s : State) (i j : Nat) (x : Pte) : getPte (setPte s i x) j = if j = i then x else getPte s j := by
  simp [getPte, setPte]

theorem setPte_eq (s : State) (i : Nat) (x : Pte) :
    setPte s i x = { s with mem := { s.mem with pt := Tbl.set {} s.mem.pt i x }, out := (setPte s i x).out } := by
  unfold setPte
  exact mirror_eq ..

@[simp] theorem setPte_migs (s : State) (i : Nat) (x : Pte) : (setPte s i x).mem.migs = s.mem.migs := by rw [setPte_eq]

theorem StoresKept.setPte {s t : State} (h : StoresKept s t) {i : Nat} {x : Pte} : StoresKept s (setPte t i x) := by
  rw [setPte_eq]
  exact h.upd

theorem StoresKept.setMoving {s t : State} (h : StoresKept s t) {i : Nat} {b : Bool} : StoresKept s (setMoving t i b) := h.setPte

theorem StoresKept.putMig {s t : State} (h : StoresKept s t) {m : Mig} : StoresKept s (putMig t m) := h.upd

@[simp] theorem getPte_setMoving (s : State) (i j : Nat) (b : Bool) :
    getPte (setMoving s i b) j = if j = i then { getPte s i with moving := b } else getPte s j := by simp [setMoving]

@[simp] theorem getPte_putMig (s : State) (m : Mig) (i : Nat) : getPte (putMig s m) i = getPte s i := rfl

/-! ### Runs of writes -/

theorem writeUniAll_append {s : State} {p : PartI} (l r : List (Nat × Bytes)) :
    writeUniAll s p (l ++ r) = match writeUniAll s p l with
      | .ok t => writeUniAll t p r
      | .error c => .error c := by
  induction l generalizing s with
  | nil => rfl
  | cons w l ih =>
    simp only [List.cons_append, writeUniAll]
    cases writeUni s p w.1 w.2 with
    | error c => rfl
    | ok t => exact ih

/-- A fold that has failed stays failed. -/
theorem foldl_error {α : Type} (f : State → α → Except (BitVec 16) State) (c : BitVec 16) (l : List α) :
    l.foldl (fun t x => match t with | .error c => .error c | .ok u => f u x) (.error c : Except (BitVec 16) State) = .error c := by
  induction l with
  | nil => rfl
  | cons x l ih => exact ih

/-- A fold of writes is one run of writes. -/
theorem foldl_writeUni_eq (p : PartI) (l : List (Nat × Bytes)) (s : State) :
    l.foldl (fun t w => match t with | .error c => .error c | .ok u => writeUni u p w.1 w.2) (.ok s : Except (BitVec 16) State) =
      writeUniAll s p l := by
  induction l generalizing s with
  | nil => rfl
  | cons w l ih =>
    rw [List.foldl_cons, writeUniAll]
    dsimp only
    cases writeUni s p w.1 w.2 with
    | error c => exact foldl_error (fun u w => writeUni u p w.1 w.2) c l
    | ok t => exact ih t

/-- Pages are zeroed as one run of writes. -/
theorem zeroPages_eq (s : State) (p : PartI) (l : List Nat) :
    zeroPages s p l = writeUniAll s p (l.map (fun i => (pageAddr i, zeroPage))) := by
  rw [← foldl_writeUni_eq, List.foldl_map, zeroPages] <;> rfl

/-! ### The forms of OP_MIGRATE -/

theorem migEnd_of_ok {s v : State} {e : Entry} {core changed spilled : Nat}
    (h : writeUniAll s e.cid.part (migRecord (mgOf e.desc) changed spilled) = .ok v) :
    migEnd s e core changed spilled = (v, .ended okOutcome) := settleUni_writes h

theorem runMigPlace_of_ok {e : Entry} {u v w : State} {core spilled : Nat} {plan : List (Nat × Frame)}
    (hplan : placePlan u e.cid.part (mgOf e.desc) = some plan)
    (hspilled : spilled = (plan.filter
      (fun q => (mgOf e.desc).hint != 0 && (tierOrder (mgOf e.desc).hint).head? != some q.2.1)).length)
    (hw : w = countSpill (hintPages (plan.foldl (fun t q => backPage t q.1 q.2) u) (plan.map (·.1)) (mgOf e.desc).hint
      (mgOf e.desc).pin) spilled)
    (hv : writeUniAll w e.cid.part ((if (mgOf e.desc).zero then plan.map (fun q => (pageAddr q.1, zeroPage)) else []) ++
      migRecord (mgOf e.desc) plan.length spilled) = .ok v) : runMigPlace e u core = (v, .ended okOutcome) := by
  have hzero : (if (mgOf e.desc).zero then zeroPages w e.cid.part (plan.map (·.1)) else .ok w) =
      writeUniAll w e.cid.part (if (mgOf e.desc).zero then plan.map (fun q => (pageAddr q.1, zeroPage)) else []) := by
    split
    · rw [zeroPages_eq, List.map_map]
      rfl
    · rfl
  rw [writeUniAll_append, ← hzero] at hv
  simp only [runMigPlace, hplan, Option.getD_some, ← hspilled, ← hw]
  revert hv
  cases (if (mgOf e.desc).zero then zeroPages w e.cid.part (plan.map (·.1)) else .ok w) with
  | error c => exact fun hv => by cases hv
  | ok t => exact fun hv => migEnd_of_ok hv

/-- MOVE and SWAP with pages to move: the first page moves, and the migration stands. -/
theorem runCopies_of_plan {e : Entry} {u : State} {core : Nat} {q : Nat × Frame} {plan : List (Nat × Frame)}
    (hplan : migPlan u e.cid.part (mgOf e.desc) = some (q :: plan)) :
    runCopies e u core = ({ setMoving u q.1 true with mem := { (setMoving u q.1 true).mem with
      migs := u.mem.migs ++ [⟨e, Fin.ofNat 128 core, (q :: plan).map moveOf,
        if (mgOf e.desc).mode = 2 then 2 * (mgOf e.desc).n else (q :: plan).length⟩] } }, .running) := by
  simp only [runCopies, hplan, Option.getD_some, setMoving, setPte_migs]

theorem migPlan_move {s : State} {p : PartI} {x : Mg} (h : x.mode = 1) : migPlan s p x = movePlan s p x := by
  simp only [migPlan, h]

theorem migPlan_swap {s : State} {p : PartI} {x : Mg} (h : x.mode = 2) : migPlan s p x = swapPlan s p x := by
  simp only [migPlan, h]

/-- What a migration that stands has changed. -/
theorem standing_migration {s u : State} {e : Entry} {r : OpRow} {core : Nat} {rs : List Range} (hu : u = issued s e r core rs)
    (i : Nat) (m : Mig) :
    let t : State := { setMoving u i true with mem := { (setMoving u i true).mem with migs := u.mem.migs ++ [m] } }
    (getPte t i).moving = true ∧ t.uni = s.uni ∧ t.ls = s.ls ∧ t.mem.migs = s.mem.migs ++ [m] := by
  have hkept : StoresKept s (setMoving u i true) := by
    rw [hu]
    exact (StoresKept.issued ..).setMoving
  refine ⟨?_, hkept.uni, hkept.ls, ?_⟩
  · have hpte : getPte (setMoving u i true) i = { getPte u i with moving := true } := by simp
    exact congrArg Pte.moving hpte
  · rw [hu, issued_eq]

/-! ### The switch of a page -/

theorem copyFrame_ls {s u : State} {a b : Nat} (h : copyFrame s a b = .ok u) : u.ls = s.ls := by
  unfold copyFrame at h
  split at h
  case h_1 => cases h
  case h_2 => cases h
  case h_3 bs _ _ =>
    cases h
    exact writePlaces_ls ..

/-- A page whose frames stand is copied, and has its new frame. -/
theorem switchPage_of_copied {s u : State} {m : Mig} {v : PageMove} {rest : List PageMove} (hbacked : (getPte s v.page).backed = true)
    (hlease : v.tier = 3 → (getBorrow s v.lease.val).state ≠ .idle)
    (hcopy : copyFrame s (frameAddr (getPte s v.page).tier.val (getPte s v.page).lease.val (getPte s v.page).frame.toNat)
      (frameAddr v.tier.val v.lease.val v.frame.toNat) = .ok u) :
    switchPage s m v rest =
      let t := putMig (setPte u v.page { getPte s v.page with tier := v.tier, lease := v.lease, frame := v.frame, moving := false })
        { m with moves := rest }
      match rest with
      | w :: _ => setMoving t w.page true
      | [] => settleEnd (migEnd t m.entry m.core.val m.changed 0).1 m.core.val m.entry (migEnd t m.entry m.core.val m.changed 0).2 := by
  have hstands : (!(getPte s v.page).backed || (decide (v.tier = 3) && ((getBorrow s v.lease.val).state == .idle))) = false := by
    rw [hbacked]
    by_cases htier : v.tier = 3
    · simp [hlease htier]
    · simp [htier]
  simp only [switchPage, hstands, Bool.false_eq_true, if_false, hcopy] <;> cases rest <;> rfl

/-- Settles O11: each form's effect on the page table, where its plan, its copies and its record succeed. -/
theorem migrationsChangeThePageTable : Obligations.MigrationsChangeThePageTable := by
  unfold Obligations.MigrationsChangeThePageTable
  refine ⟨?place, ?move, ?swap, ?release, ?sethint, ?switch, ?last, ?activated, ?zeroed⟩
  case place =>
    rintro e s u v w core rs x plan spilled rfl h hu hplan hspilled hw hv
    rw [exec_opMigratePlace, execOpMigratePlace, issueCmd_ended h hu (runMigPlace_of_ok hplan hspilled hw hv)]
  case move =>
    rintro e s u core rs x q plan rfl h hu hmode hplan
    have hrun := runCopies_of_plan (core := core) ((migPlan_move hmode).trans hplan)
    refine ⟨_, ?_, standing_migration hu ..⟩
    rw [exec_opMigrateMove, execOpMigrateMove, issueCmd_running h hu hrun, if_neg (by rw [hmode]; decide)]
    rfl
  case swap =>
    rintro e s u core rs x q plan rfl h hu hmode hplan
    have hrun := runCopies_of_plan (core := core) ((migPlan_swap hmode).trans hplan)
    refine ⟨_, ?_, standing_migration hu ..⟩
    rw [exec_opMigrateSwap, execOpMigrateSwap, issueCmd_running h hu hrun, if_pos hmode]
  case release =>
    rintro e s u v core rs x rfl h hu hv
    rw [exec_opMigrateRelease, execOpMigrateRelease, issueCmd_ended h hu (migEnd_of_ok hv)]
  case sethint =>
    rintro e s u v core rs x rfl h hu hv
    rw [exec_opMigrateSethint, execOpMigrateSethint, issueCmd_ended h hu (migEnd_of_ok hv)]
  case switch =>
    rintro page s u m v w rest hrun hfind hmoves hbacked hlease hcopy hne
    refine ⟨setMoving (putMig (setPte u v.page { getPte s v.page with
      tier := v.tier, lease := v.lease, frame := v.frame, moving := false }) { m with moves := w :: rest }) w.page true, ?_, ?_, ?_, ?_⟩
    · simp only [exec_migratePageSwitch, execMigratePageSwitch, hfind, hmoves, if_pos hrun,
        switchPage_of_copied hbacked hlease hcopy]
    · rw [getPte_setMoving, if_neg hne.symm, getPte_putMig, getPte_setPte, if_pos rfl]
    · rw [getPte_setMoving, if_pos rfl]
    · have hkept : StoresKept u (setMoving (putMig (setPte u v.page { getPte s v.page with
          tier := v.tier, lease := v.lease, frame := v.frame, moving := false }) { m with moves := w :: rest }) w.page true) :=
        (StoresKept.refl u).setPte.putMig.setMoving
      exact ⟨hkept.uni, hkept.ls.trans (copyFrame_ls hcopy)⟩
  case last =>
    rintro page s u z m v x hrun hfind hmoves rfl hbacked hlease hcopy hz
    have hswitch := switchPage_of_copied (m := m) (rest := []) hbacked hlease hcopy
    dsimp only at hswitch
    rw [migEnd_of_ok hz] at hswitch
    simp only [exec_migratePageSwitch, execMigratePageSwitch, hfind, hmoves, if_pos hrun, hswitch, settleEnd]
  case activated =>
    intro p s u v hrun hstate hu hv
    rw [exec_partitionActivated, execPartitionActivated]
    dsimp only
    rw [if_pos (And.intro hrun hstate), ← hu, ← hv]
  case zeroed =>
    intro g s u hrun hzeroing hu
    rw [exec_granuleZeroed, execGranuleZeroed]
    dsimp only
    rw [if_pos (And.intro hrun hzeroing), ← hu]

end Sys2Proof.Machine

/-! PROOFS. The streams of the exchange: openings, counts, credit, data, ends and hangs (O25, O26, O27). -/

namespace Sys2Proof.Machine

/-! ### Which stream a message finds -/

/-- A stream that a message finds is of the message's kind. -/
theorem kind_of_findIn {s : State} {h : XHdr} {st : InStream} (hst : findIn s h = some st) : st.key.kind = h.kind := by
  have hp := List.find?_some hst
  simp only [Bool.and_eq_true, beq_iff_eq] at hp
  exact hp.1.1.1.1

/-- With no stream found, an XOPEN repeats none and forgets none. -/
theorem openedIn_of_findIn_none {s : State} {h : XHdr} (hnone : findIn s h = none) : openedIn s h = none := by
  rw [openedIn, hnone]
  rfl

theorem dropDone_of_findIn_none {s : State} {h : XHdr} (hnone : findIn s h = none) : dropDone s h = s := by
  rw [dropDone, hnone]

/-- A DISPATCH stream is answered without cells: it asks for credit later (R138). -/
theorem acceptIn_dispatch {s : State} {st : InStream} (hk : st.key.kind = 0) :
    acceptIn s st = sendX { s with ins := s.ins ++ [st] } st.hdr (.ready 0) := by
  rw [acceptIn]
  exact if_pos (Or.inl hk)

/-- Only an A2A stream can be too long for its receive entry. -/
theorem a2aFault_of_kind {s : State} {c : CtxId} {h : XHdr} {n : Nat} (hk : h.kind ≠ 3) : a2aFault s c h n = none :=
  if_neg hk

/-- A first XOPEN of a DISPATCH stream that its command accepts makes the stream. -/
theorem openIn_dispatch {s : State} {h : XHdr} {c : CtxId} {ncnt dbytes row64 wbytes : Nat} (hnone : findIn s h = none)
    (hctx : xCtx s h = some c) (hkind : h.kind = 0) (hacc : xAccept s c h row64 wbytes = .ok) :
    openIn h ncnt dbytes row64 wbytes s =
      modX (sendX { s with ins := s.ins ++ [newIn c h dbytes row64 false] } h (.ready 0)) c h.xid
        (fun x => { x with ranks := x.ranks ++ [{ rank := h.srcRank.toNat, plane := h.plane, ncnt := ncnt, seqs := [] }] }) := by
  have h3 : h.kind ≠ 3 := by rw [hkind]; decide
  rw [openIn, openedIn_of_findIn_none hnone, hctx]
  dsimp only
  rw [dropDone_of_findIn_none hnone, hacc]
  dsimp only
  rw [a2aFault_of_kind h3]
  dsimp only
  rw [acceptIn_dispatch (st := newIn c h dbytes row64 false) hkind]
  exact if_pos hkind

/-- Before its command stands a stream is told to wait. -/
theorem openIn_wait {s : State} {h : XHdr} {c : CtxId} {ncnt dbytes row64 wbytes : Nat} (hnone : findIn s h = none)
    (hctx : xCtx s h = some c) (hacc : xAccept s c h row64 wbytes = .none) (hret : isRetained s c h = false) :
    openIn h ncnt dbytes row64 wbytes s = sendX s h .wait := by
  have hret' : ¬ isRetained s c h = true := by rw [hret]; decide
  rw [openIn, openedIn_of_findIn_none hnone, hctx]
  dsimp only
  rw [dropDone_of_findIn_none hnone, hacc]
  exact if_neg hret'

/-- Settles O25, message by message. -/
theorem streamsOpen : Obligations.StreamsOpen := by
  unfold Obligations.StreamsOpen
  refine ⟨?opened, ?early, ?counts, ?data, ?wait, ?retry, ?entry, ?ack⟩
  case opened =>
    intro h ncnt nent dbytes row64 wbytes s c hrun hrest hnone hctx hkind hacc
    rw [exec_xopen, execXopen, if_pos hrun, coherentLate_of_atRest hrest, openIn_dispatch hnone hctx hkind hacc]
  case early =>
    intro h ncnt nent dbytes row64 wbytes s c hrun hrest hnone hctx hacc hret
    rw [exec_xopen, execXopen, if_pos hrun, coherentLate_of_atRest hrest, openIn_wait hnone hctx hacc hret]
  case counts =>
    intro h cells s o ho hrun hkind hbytes
    rw [exec_xready, execXready, ho]
    dsimp only
    rw [if_pos hrun, if_pos hkind, if_neg hbytes]
  case data =>
    intro h cells s o ho hrun hkind
    rw [exec_xready, execXready, ho]
    dsimp only
    rw [if_pos hrun, if_neg hkind]
  case wait =>
    intro h s o ho hrun
    rw [exec_xwait, execXwait, ho]
    exact if_pos hrun
  case retry =>
    intro h s u o ho hrun hu
    rw [exec_xopenRetry, execXopenRetry, ho]
    dsimp only
    rw [if_pos hrun, ← hu]
    split <;> rfl
  case entry =>
    intro die s o rest ho hrun hroom
    rw [exec_openEntryTaken, execOpenEntryTaken, ho]
    exact if_pos (And.intro hrun hroom)
  case ack =>
    intro h s o ho hrun
    rw [exec_xack, execXack, ho]
    exact if_pos hrun

/-! ### Counts and credit -/

/-- An XCOUNT with counts in range, of an index not yet seen, adds them. -/
theorem countIn_new {h : XHdr} {seq : Nat} {counts : List CountEntry} {s : State} {c : CtxId} {x : XCmd} {k : XRank}
    (hctx : xCtx s h = some c) (hx : findX s c h.xid = some x) (hk : findRank x h.srcRank.toNat h.plane = some k)
    (hkind : h.kind = 0) (hsink : x.sink = false) (hseq : seq < ceilDiv k.ncnt 9) (hnew : k.seqs.contains seq = false)
    (hloc : counts.any (fun e => decide (x.par.nlocal ≤ e.localIdx.toNat)) = false) :
    countIn h seq counts s = modX s c h.xid (fun y => addCounts y h.srcRank.toNat h.plane seq counts) := by
  have hsink' : ¬ x.sink = true := by rw [hsink]; decide
  have hnew' : ¬ k.seqs.contains seq = true := by rw [hnew]; decide
  have hloc' : ¬ counts.any (fun e => decide (x.par.nlocal ≤ e.localIdx.toNat)) = true := by rw [hloc]; decide
  rw [countIn, hctx]
  dsimp only
  rw [hx]
  dsimp only
  rw [hk]
  dsimp only
  rw [if_pos ⟨hkind, hsink', hseq, hnew'⟩, if_neg hloc']

/-- A repeated XCOUNT changes nothing. -/
theorem countIn_repeated {h : XHdr} {seq : Nat} {counts : List CountEntry} {s : State} {c : CtxId} {x : XCmd} {k : XRank}
    (hctx : xCtx s h = some c) (hx : findX s c h.xid = some x) (hk : findRank x h.srcRank.toNat h.plane = some k)
    (hold : k.seqs.contains seq = true) : countIn h seq counts s = s := by
  rw [countIn, hctx]
  dsimp only
  rw [hx]
  dsimp only
  rw [hk]
  dsimp only
  exact if_neg (fun hc => hc.2.2.2 hold)

/-- The end of a count phase in which nothing fails. -/
theorem endCounts_ok {s u v : State} {x y : XCmd} {ws : List (Nat × Bytes)} {os : List OutStream} (hy : y = { x with counted := true })
    (hu : writeUni s x.cid.part x.par.rxc (rxcBytes x) = .ok u) (hfault : countFault y = none)
    (hws : allWclWrites u y x.wcl.zipIdx = .ok ws) (hos : homeStreams u y (servedExperts y) = .ok os)
    (hv : writeUniAll u x.cid.part ((x.par.rorg, leBytes 64 x.p) :: ws) = .ok v) :
    endCounts s x =
      let w := modX (pushOuts v x.cid os) x.cid x.xid (fun z => { z with counted := true })
      startPlans (checkX (writeReady ((insOf w y).foldl settleIn w) x.cid x.xid) x.cid x.xid) x.cid x.par.rxc := by
  subst hy
  have hu' : writeUni s x.cid.part x.par.rxc (rxcBytes { x with counted := true }) = .ok u := hu
  have hv' : writeUniAll u x.cid.part ((x.par.rorg, leBytes 64 ({ x with counted := true } : XCmd).p) :: ws) = .ok v := hv
  rw [endCounts]
  dsimp only
  rw [hu']
  dsimp only
  rw [hfault]
  dsimp only
  rw [hws, hos]
  dsimp only
  rw [hv']

/-- Settles O26, message by message. -/
theorem countsAndCreditMove : Obligations.CountsAndCreditMove := by
  unfold Obligations.CountsAndCreditMove
  refine ⟨?new, ?repeated, ?phaseEnd, ?ask, ?grant, ?credit⟩
  case new =>
    intro h seq counts s c x k hrun hrest hctx hx hk hkind hsink hseq hnew hloc
    rw [exec_xcount, execXcount, if_pos hrun, coherentLate_of_atRest hrest,
      countIn_new hctx hx hk hkind hsink hseq hnew hloc]
  case repeated =>
    intro h seq counts s c x k hrest hctx hx hk hold
    rw [exec_xcount, execXcount, coherentLate_of_atRest hrest, countIn_repeated hctx hx hk hold]
    exact ite_self _
  case phaseEnd =>
    intro cid xid s u v x ws os hx hrun hrest hmode hcounted hsink hin hu hfault hws hos hv
    have hcounted' : ¬ x.counted = true := by rw [hcounted]; decide
    have hsink' : ¬ x.sink = true := by rw [hsink]; decide
    rw [exec_countPhaseEnd, execCountPhaseEnd, hx]
    dsimp only
    rw [if_pos ⟨hrun, hmode, hcounted', hsink', hin⟩, coherentLate_of_atRest hrest, endCounts_ok rfl hu hfault hws hos hv]
  case ask =>
    intro h s st hst hrun hwants hnew
    have hnew' : ¬ (getXd s st.key.plane).asks.contains st.key = true := by rw [hnew]; decide
    rw [exec_xask, execXask, hst]
    dsimp only
    rw [if_pos (And.intro hrun hwants), joinAsks]
    exact congrArg _ (if_neg hnew')
  case grant =>
    intro die s u st hnext hrun
    rw [exec_creditGrant, execCreditGrant, hnext]
    dsimp only
    rw [if_pos hrun]
  case credit =>
    intro h cells s o ho hrun
    rw [exec_xcredit, execXcredit, ho]
    exact if_pos hrun

/-! ### Landing, ends and hangs -/

/-- Bytes that a stream may take: new ones within its length and its credit (R138, R245). -/
theorem mayLand_of {st : InStream} {a n : Nat} (hdone : st.done = false) (hn : n ≠ 0) (hmax : n ≤ 2048)
    (hroom : a + n ≤ min st.dbytes (256 * st.granted)) (hnew : ivHas st.landed a (a + n) = false) : mayLand st a n = true := by
  simp only [mayLand, hdone, hnew, decide_eq_true hmax, decide_eq_true hroom, bne_iff_ne.mpr hn]
  rfl

theorem mayLand_repeated {st : InStream} {a n : Nat} (hold : ivHas st.landed a (a + n) = true) : mayLand st a n = false := by
  rw [mayLand, hold]
  exact Bool.and_false _

/-- Only an A2A stream that is kept puts its bytes at their place as they land (R162). -/
theorem landIn_cells {st : InStream} {a : Nat} {data : Bytes} {s : State} (h : st.key.kind ≠ 3 ∨ st.discard = true) :
    landIn st a data s = settleIn (landBytes s st a data) st.key := by
  have hc : ¬ (st.key.kind = 3 ∧ (!st.discard) = true) := by
    rintro ⟨hk, hd⟩
    cases h with
    | inl hne => exact hne hk
    | inr hdis => rw [hdis] at hd; exact Bool.noConfusion hd
  rw [landIn, if_neg hc]

/-- A run of bytes that may go is sent in packets (R134). -/
theorem sendRun_of_allowed {s : State} {c : CtxId} {dst : Coord} {plane : XDie} {h : DataHead} {offset n : Nat} {closes : Bool}
    {bytes : Bytes} {ps : List Bytes} (hn : n = packetBytes s dst plane) (hps : ps = pieces n bytes.length bytes)
    (hok : dataRefused s c dst plane ps.length = none) :
    sendRun s c dst plane h offset closes bytes =
      (ps.zipIdx).foldl (fun t q => sendData t c dst plane h (offset + n * q.2) (closes && q.2 + 1 == ps.length) q.1) s := by
  subst hn hps
  rw [sendRun, hok]

/-- The first landing word without its last bit is the one that a hang names (R155). -/
theorem findIdx?_first_open {ws : List Nat} {u : Nat} (hu : u < ws.length) (hopen : bitAt (nth 0 ws u) 21 = false)
    (hbefore : ∀ v, v < u → bitAt (nth 0 ws v) 21 = true) : ws.findIdx? (fun w => !bitAt w 21) = some u := by
  have hnth : ∀ (v : Nat) (hv : v < ws.length), nth 0 ws v = ws[v] := fun v hv => by
    simp [nth, List.getD_eq_getElem?_getD, hv]
  rw [List.findIdx?_eq_some_iff_getElem]
  refine ⟨hu, ?_, ?_⟩
  · rw [← hnth u hu, hopen]; rfl
  · intro v hv
    rw [← hnth v (hv.trans hu), hbefore v hv]
    decide

/-- Settles O27, message by message. -/
theorem streamsLandAndEnd : Obligations.StreamsLandAndEnd := by
  unfold Obligations.StreamsLandAndEnd
  refine ⟨?lands, ?again, ?ends, ?resent, ?hang, ?row, ?landing⟩
  case lands =>
    intro h offset data s u st hst hrun hrest hdone hlen hmax hroom hnew hkind hu
    subst hu
    rw [exec_streamData, execStreamData, hst]
    dsimp only
    rw [if_pos (And.intro hrun (mayLand_of hdone hlen hmax hroom hnew)), coherentLate_of_atRest hrest,
      landIn_cells (by rw [kind_of_findIn hst]; exact hkind)]
    rfl
  case again =>
    intro h offset data s st hst hold
    rw [exec_streamData, execStreamData, hst]
    dsimp only
    rw [mayLand_repeated hold]
    exact if_neg (fun hc => Bool.noConfusion hc.2)
  case ends =>
    intro h dbytes crc s st hst hrun hrest hdone hend
    have hdone' : ¬ st.done = true := by rw [hdone]; decide
    rw [exec_xend, execXend, hst]
    dsimp only
    rw [if_pos ⟨hrun, hdone', hend⟩, coherentLate_of_atRest hrest]
  case resent =>
    intro h offset bytes s u o run dst n ps ho hrun hrunb hdst hn hps hok hu
    subst hrunb hdst
    rw [exec_xresend, execXresend, ho]
    dsimp only
    rw [if_pos hrun, sendRun_of_allowed hn hps hok, ← hu]
    split <;> rfl
  case hang =>
    intro cid xid s x hx hrun hrest hsink hres hdue
    have hsink' : ¬ x.sink = true := by rw [hsink]; decide
    rw [exec_xchHang, execXchHang, hx]
    dsimp only
    rw [if_pos ⟨hrun, hsink', hres, hdue⟩, coherentLate_of_atRest hrest]
  case row =>
    intro cid xid token rank row s x st k hrun hrest hx hsrc
    rw [exec_returnArrival, execReturnArrival, hx, hsrc]
    dsimp only
    rw [if_pos hrun, coherentLate_of_atRest hrest, arriveRec]
  case landing =>
    intro cid xid s x u ws hx hrun hrest hres hdue hws hu hopen hbefore
    rw [exec_landingHang, execLandingHang, hx]
    dsimp only
    rw [if_pos ⟨hrun, hres, hdue⟩, coherentLate_of_atRest hrest, hangCmb, hws]
    dsimp only
    rw [findIdx?_first_open hu hopen hbefore]
    rfl

end Sys2Proof.Machine

/-! PROOFS. The cell pools of the exchange and the collectives' edges and chunks (O28, O29, O30). -/

namespace Sys2Proof.Machine

/-! ### Chains, reserve and spill area -/

/-- A chain whose links are sound is freed; a bad link is reported (R157). -/
theorem dropChain_freed {s u : State} {die : XDie} {h : Chain} (hf : freeChain s die h = (u, true)) : dropChain s die h = u := by
  rw [dropChain, hf]
  rfl

theorem dropChain_badLink {s u : State} {die : XDie} {h : Chain} (hf : freeChain s die h = (u, false)) :
    dropChain s die h = report s (devReport Code.eCellPtr deviceFatal 9 die.val []) := by
  rw [dropChain, hf]
  rfl

/-- A spill area that is small enough, unused and owned is taken; an area too large, or one in use, is refused (R159). -/
theorem writeSpill_taken {s : State} {die : XDie} {p : PartI} {v : BitVec 64} (hsize : bitsOf v.toNat 44 11 ≤ 1024)
    (hfree : Tbl.get 0 (getXd s die).spUsed p.val = 0)
    (howned : hbmOwned s p (bitsOf v.toNat 16 28 * 65536) (bitsOf v.toNat 44 11 * 266240) = true) :
    writeSpill s die p v = setXd s die { getXd s die with
      bpmSpill := Tbl.set 0 (getXd s die).bpmSpill p.val
        (BitVec.ofNat 64 (pack [(16, bitsOf v.toNat 16 28), (44, bitsOf v.toNat 44 11)])) } := by
  have hno : ¬ (1024 < bitsOf v.toNat 44 11 ∨ Tbl.get 0 (getXd s die).spUsed p.val ≠ 0 ∨
      (!hbmOwned s p (bitsOf v.toNat 16 28 * 65536) (bitsOf v.toNat 44 11 * 266240)) = true) := by
    rw [howned]
    rintro (h | h | h)
    · omega
    · exact h hfree
    · exact Bool.noConfusion h
  rw [writeSpill]
  dsimp only
  rw [if_neg hno, Nat.mul_div_cancel _ (by decide)]

theorem writeSpill_refused {s : State} {die : XDie} {p : PartI} {v : BitVec 64}
    (h : 1024 < bitsOf v.toNat 44 11 ∨ Tbl.get 0 (getXd s die).spUsed p.val ≠ 0) :
    writeSpill s die p v = bpmRefuse s die p := by
  rw [writeSpill]
  exact if_pos (h.imp_right Or.inl)

/-- Settles O28: a release by what the pool finds, a register write by what it asks for. -/
theorem cellPoolsAreConfigured : Obligations.CellPoolsAreConfigured := by
  unfold Obligations.CellPoolsAreConfigured
  refine ⟨?keeps, ?frees, ?badLink, ?fails, ?reserve, ?overReserve, ?spill, ?badSpill⟩
  case keeps =>
    intro die unit p ptr s x hrun hrel
    rw [exec_cellRelease, execCellRelease, if_pos hrun, releaseAt, hrel]
  case frees =>
    intro die unit p ptr s u h hrun hrel hfree
    rw [exec_cellRelease, execCellRelease, if_pos hrun, releaseAt, hrel]
    exact congrArg _ (dropChain_freed hfree)
  case badLink =>
    intro die unit p ptr s u h hrun hrel hfree
    rw [exec_cellRelease, execCellRelease, if_pos hrun, releaseAt, hrel]
    exact congrArg _ (dropChain_badLink hfree)
  case fails =>
    intro die unit p ptr s c hrun hrel
    rw [exec_cellRelease, execCellRelease, if_pos hrun, releaseAt, hrel]
  case reserve =>
    intro port die p value s n hmay hn hroom
    subst hn
    rw [exec_bpmResWrite, execBpmResWrite, guarded_of_mayWrite hmay, writeRes]
    exact congrArg _ (if_neg (Nat.not_lt.mpr hroom))
  case overReserve =>
    intro port die p value s hmay hover
    rw [exec_bpmResWrite, execBpmResWrite, guarded_of_mayWrite hmay, writeRes]
    exact congrArg _ (if_pos hover)
  case spill =>
    intro port die p value s hmay hsize hfree howned
    rw [exec_bpmSpillWrite, execBpmSpillWrite, guarded_of_mayWrite hmay, writeSpill_taken hsize hfree howned]
  case badSpill =>
    intro port die p value s hmay hbad
    rw [exec_bpmSpillWrite, execBpmSpillWrite, guarded_of_mayWrite hmay, writeSpill_refused hbad, bpmRefuse]

/-! ### A collective's edges -/

/-- Settles O29, message by message. -/
theorem collectiveEdgesOpen : Obligations.CollectiveEdgesOpen := by
  unfold Obligations.CollectiveEdgesOpen
  refine ⟨?early, ?opened, ?differs, ?ready, ?wait, ?retry, ?acked, ?resend⟩
  case early =>
    intro h pdig gdig s hrun hctx hnone
    rw [exec_copen, execCopen, if_pos (And.intro hrun hctx), hnone]
    rfl
  case opened =>
    intro h pdig gdig s k hrun hctx hk hover hp hg
    have hover' : ¬ k.over = true := by rw [hover]; decide
    rw [exec_copen, execCopen, if_pos (And.intro hrun hctx), hk]
    dsimp only
    rw [if_neg hover', if_neg (fun hc => hc.elim (fun hne => hne hp) (fun hne => hne hg))]
  case differs =>
    intro h pdig gdig s k hrun hctx hk hover hne
    have hover' : ¬ k.over = true := by rw [hover]; decide
    rw [exec_copen, execCopen, if_pos (And.intro hrun hctx), hk]
    dsimp only
    rw [if_neg hover', if_pos hne]
  case ready =>
    intro h s k hrun hrest hk hedge
    rw [exec_cready, execCready, hk]
    dsimp only
    rw [if_pos (And.intro hrun hedge), coherentLate_of_atRest hrest]
  case wait =>
    intro h s k hrun hk hedge
    rw [exec_cwait, execCwait, hk]
    exact if_pos (And.intro hrun hedge)
  case retry =>
    intro h s k due hrun hk hedge hdue
    rw [exec_copenRetry, execCopenRetry, hk]
    dsimp only
    rw [hedge]
    exact if_pos (And.intro hrun hdue)
  case acked =>
    intro h chunk pass s u k hit hrun hrest hk hhit hany hu
    have heq : ackHits h chunk.toNat pass.val = hit := hhit.symm
    rw [exec_cack, execCack, hk]
    dsimp only
    rw [heq, if_pos (And.intro hrun hany), coherentLate_of_atRest hrest, ackPart, ← hu]
  case resend =>
    intro h chunk pass s k o hrun hk ho
    rw [exec_cresend, execCresend, hk]
    dsimp only
    rw [ho]
    exact if_pos hrun

/-! ### A collective's chunks -/

/-- An expected part whose cells are free is taken in. -/
theorem grantChunk_granted {s : State} {k : Coll} {c pass peer : Nat} {x : XdSt} {cells : List CellRun} {a : ChunkAsk}
    (hexp : k.expects c pass peer = true) (hnew : k.findIn c pass peer = none) (ha : a = k.askOf c pass peer)
    (hcells : takeCells a.cells (getXd s (collDie c)) k.cid.part.val [] = some (x, cells)) :
    grantChunk s k c pass peer = putColl (setXd s (collDie c) { x with chunkAsks := x.chunkAsks.filter (· != a) })
      { k with ins := k.ins ++ [newCollIn c pass peer cells] } := by
  subst ha
  rw [grantChunk, if_pos ⟨hexp, by rw [hnew]; rfl⟩]
  dsimp only
  rw [hcells]

/-- A part that waits for its cells is sent once they are granted and its edge is open. -/
theorem sendReady_sends {s : State} {k : Coll} {c pass peer : Nat} {o : CollOut}
    (ho : k.outs.find? (fun o => o.chunk == c && o.pass == pass && o.peer == peer && !o.sent && !o.msg.empty) = some o)
    (hedge : k.edgeOpen (treeOf c) peer = true) :
    sendReady s k c pass peer =
      putColl (sendPart s k o) { k with outs := k.outs.map (fun x => if samePart x o then { x with sent := true } else x) } := by
  rw [sendReady, ho]
  exact if_pos hedge

theorem sendGranted_sends {s : State} {k : Coll} {c pass peer : Nat} {o : CollOut}
    (ho : k.outs.find? (fun o => o.chunk == c && o.pass == pass && o.peer == peer && !o.sent && !o.msg.empty) = some o)
    (hedge : k.edgeOpen (treeOf c) peer = true) :
    sendGranted s k c pass peer =
      putColl (sendPart s k o) { k with outs := k.outs.map (fun x => if samePart x o then { x with sent := true } else x) } := by
  have hp := List.find?_some ho
  simp only [Bool.and_eq_true] at hp
  have hany : k.outs.any (fun o => o.chunk == c && o.pass == pass && o.peer == peer) = true :=
    List.any_eq_true.mpr ⟨o, List.mem_of_find?_eq_some ho, by simp only [Bool.and_eq_true]; exact hp.1.1⟩
  rw [sendGranted, if_pos hany, sendReady_sends ho hedge]

/-- A part whose end is not known cannot be checked yet. -/
theorem takePart_unended {k : Coll} {i : CollIn} {r r2 : List (BitVec 48)} {s : State} (hfin : i.fin = none) :
    takePart k i r r2 s = putColl s (k.putIn i) := by
  rw [takePart, checkPart, hfin]

/-- The part that a chunk message finds is of that chunk. -/
theorem chunk_of_findIn {k : Coll} {c pass peer : Nat} {i : CollIn} (hi : k.findIn c pass peer = some i) : i.chunk = c := by
  have hp := List.find?_some hi
  simp only [Bool.and_eq_true, beq_iff_eq] at hp
  exact hp.1.1

/-- Settles O30, message by message. -/
theorem collectiveChunksMove : Obligations.CollectiveChunksMove := by
  unfold Obligations.CollectiveChunksMove
  refine ⟨?granted, ?sent, ?data, ?ended, ?abort, ?hang⟩
  case granted =>
    intro h chunk pass s k x cells a c hrun hc htree hk hexp hnew ha hcells
    subst hc
    rw [exec_chunkCellGrant, execChunkCellGrant, if_pos (And.intro hrun htree), hk]
    exact congrArg _ (grantChunk_granted hexp hnew ha hcells)
  case sent =>
    intro h chunk pass s k o hrun htree hnone hk ho hedge
    rw [exec_chunkCellGrant, execChunkCellGrant, if_pos (And.intro hrun htree), hnone, hk]
    exact congrArg _ (sendGranted_sends ho hedge)
  case data =>
    intro h chunk pass offset data flaw flaw2 s k i hrun hrest hk hi hok hfin hne hlen hmax
    have hok' : ¬ i.ok = true := by rw [hok]; decide
    rw [exec_chunkData, execChunkData, hk]
    dsimp only
    rw [hi]
    dsimp only
    rw [if_pos ⟨hrun, hok', hne, hlen, hmax⟩, coherentLate_of_atRest hrest]
    refine congrArg _ (takePart_unended ?_)
    exact hfin
  case ended =>
    intro h m r r2 s k i j hrun hrest hk hfull hi hok hfin htree hj
    have hok' : ¬ i.ok = true := by rw [hok]; decide
    have hfull' : ¬ (m.empty = true ∧ (k.findIn m.chunk.toNat m.pass.val h.srcRank.toNat).isNone = true ∧
        k.expects m.chunk.toNat m.pass.val h.srcRank.toNat = true) := by
      rw [hfull]
      exact fun hc => Bool.noConfusion hc.1
    have hfound : i.chunk = m.chunk.toNat := chunk_of_findIn hi
    have hchunk : j.chunk = m.chunk.toNat := (congrArg CollIn.chunk hj).trans hfound
    rw [exec_cend, execCend, hk]
    dsimp only
    rw [if_neg hfull', hi]
    dsimp only
    rw [if_pos ⟨hrun, hok', hfin, htree⟩, coherentLate_of_atRest hrest, ← hj, ← hchunk]
    rfl
  case abort =>
    intro h origin reason s k hrun hk hdone
    have hdone' : ¬ k.done = true := by rw [hdone]; decide
    rw [exec_cabort, execCabort, hk]
    exact if_pos (And.intro hrun hdone')
  case hang =>
    intro cid coll s k m ms hrun hk hres hdue hmissing
    rw [exec_collHang, execCollHang, hk]
    dsimp only
    rw [if_pos ⟨hrun, hres, hdue⟩, hmissing]

end Sys2Proof.Machine

/-! PROOFS. The memory-semantic fabric: records of a fabric queue, requests and answers, directory messages (O31, O32, O33). -/

namespace Sys2Proof.Machine

/-! ### Starting a record -/

/-- The request that a record asks for, before its data is read. -/
def recReq (s : State) (c : CtxId) (op : MsfOp) (v : Nat) : ReqMsg :=
  { blankReq s c op (bitsOf v 32 64) with
    operand := BitVec.ofNat 64 (bitsOf v 144 64), operand2 := BitVec.ofNat 64 (bitsOf v 208 64)
    bmask := BitVec.ofNat 128 (bitsOf v 272 128), len := BitVec.ofNat 40 (bitsOf v 400 40) }

/-- No fence holds the record back: it has none, or nothing before it is out (R271). -/
def fenceMet (s : State) (c : CtxId) (q : Fin 4) (v : Nat) : Prop :=
  bitAt v 8 = false ∨ (getFq s c q).reqs = [] ∧ (getFq s c q).run = none

theorem fenceMet_of_noRun {s : State} {c : CtxId} {q : Fin 4} {v : Nat} (hrun : (getFq s c q).run = none)
    (h : bitAt v 8 = false ∨ (getFq s c q).reqs = []) : fenceMet s c q v :=
  h.imp_right (fun hr => ⟨hr, hrun⟩)

theorem not_fenced {s : State} {c : CtxId} {q : Fin 4} {v : Nat} (h : fenceMet s c q v) :
    ¬ (bitAt v 8 = true ∧ ((getFq s c q).run.isSome = true ∨ (getFq s c q).reqs ≠ [])) := by
  rintro ⟨hf, hout⟩
  rcases h with hno | ⟨hreqs, hrun⟩
  · rw [hno] at hf
    exact Bool.noConfusion hf
  · rcases hout with hsome | hne
    · rw [hrun] at hsome
      exact Bool.noConfusion hsome
    · exact hne hreqs

/-- A record that no fence holds back starts as its operation says, if it may start; otherwise it is done with its status. -/
theorem startRec_begins {s : State} {c : CtxId} {q : Fin 4} {named : Nat → Bool} {v : Nat} {op : MsfOp}
    (hrec : nextRec s c q = some (.ok v)) (hnamed : named (bitsOf v 0 8) = true) (hop : msfOpOf (bitsOf v 0 8) = some op)
    (hfence : fenceMet s c q v) (hst : startStatus s c v = 0)
    (hroom : ¬ ((bitsOf v 0 8 == 2 && gSpace (bitsOf v 32 64) == 3) = true ∧
      64 < reqsOut (getFq s c q) + maskPieces (BitVec.ofNat 128 (bitsOf v 272 128)))) :
    startRec s c q named = beginRec (passRec s c q) c q (getFq s c q).next op v := by
  have hnamed' : ¬ (!named (bitsOf v 0 8)) = true := by rw [hnamed]; decide
  rw [startRec, hrec]
  dsimp only
  rw [if_neg hnamed', if_neg (not_fenced hfence), if_neg (not_not_intro hst), if_neg hroom, hop]

theorem startRec_refused {s : State} {c : CtxId} {q : Fin 4} {named : Nat → Bool} {v : Nat} {op : MsfOp}
    (hrec : nextRec s c q = some (.ok v)) (hnamed : named (bitsOf v 0 8) = true) (hop : msfOpOf (bitsOf v 0 8) = some op)
    (hfence : fenceMet s c q v) (hst : startStatus s c v ≠ 0) :
    startRec s c q named = doneRecs (if coordBad (gCoord (bitsOf v 32 64)) then badCoord (passRec s c q) else passRec s c q) c q
      [(getFq s c q).next] (startStatus s c v) 0 := by
  have hnamed' : ¬ (!named (bitsOf v 0 8)) = true := by rw [hnamed]; decide
  have hsome : (some op).isSome = true := rfl
  rw [startRec, hrec]
  dsimp only
  rw [if_neg hnamed', if_neg (not_fenced hfence), if_pos hst, hop]
  simp only [hsome, true_and]

/-- A ring of the queue whose next record has an operation of the table, or that has none, starts nothing (R271). -/
theorem startRec_known {s : State} {c : CtxId} {q : Fin 4}
    (h : nextRec s c q = none ∨ ∃ v, nextRec s c q = some (.ok v) ∧ (msfOpOf (bitsOf v 0 8)).isSome = true) :
    startRec s c q (fun op => (msfOpOf op).isNone) = s := by
  rcases h with hnone | ⟨v, hrec, hsome⟩
  · rw [startRec, hnone]
  · have hnot : (!(msfOpOf (bitsOf v 0 8)).isNone) = true := by
      rw [Option.isNone_eq_false_iff.mpr hsome]
      rfl
    rw [startRec, hrec]
    exact if_pos hnot

/-- A record of an operation other than a gathered WRITE begins by the operation's row. -/
theorem startOp_begins {s : State} {c : CtxId} {q : Fin 4} {v n : Nat} {op : MsfOp} (hrest : atRest s = true)
    (hrec : nextRec s c q = some (.ok v)) (hn : bitsOf v 0 8 = n) (hop : msfOpOf n = some op) (hfence : fenceMet s c q v)
    (hst : startStatus s c v = 0)
    (hroom : ¬ (n = 2 ∧ gSpace (bitsOf v 32 64) = 3) ∨
      reqsOut (getFq s c q) + maskPieces (BitVec.ofNat 128 (bitsOf v 272 128)) ≤ 64) :
    startOp c q n s = beginRec (passRec s c q) c q (getFq s c q).next op v := by
  subst hn
  rw [startOp, coherent_of_atRest hrest]
  refine startRec_begins hrec (beq_self_eq_true _) hop hfence hst ?_
  rintro ⟨hg, hover⟩
  rw [Bool.and_eq_true, beq_iff_eq, beq_iff_eq] at hg
  exact hroom.elim (fun h => h hg) (fun h => absurd hover (Nat.not_lt.mpr h))

theorem startOp_refused {s : State} {c : CtxId} {q : Fin 4} {v n : Nat} {op : MsfOp} (hrest : atRest s = true)
    (hrec : nextRec s c q = some (.ok v)) (hn : bitsOf v 0 8 = n) (hop : msfOpOf n = some op) (hfence : fenceMet s c q v)
    (hst : startStatus s c v ≠ 0) :
    startOp c q n s = doneRecs (if coordBad (gCoord (bitsOf v 32 64)) then badCoord (passRec s c q) else passRec s c q) c q
      [(getFq s c q).next] (startStatus s c v) 0 := by
  subst hn
  rw [startOp, coherent_of_atRest hrest]
  exact startRec_refused hrec (beq_self_eq_true _) hop hfence hst

/-! ### The operations' rows (Table 12.3) -/

/-- A command of the queue and the operation it starts. -/
def Starts (c : CtxId) (q : Fin 4) (i : Instr) (n : Nat) (op : MsfOp) : Prop :=
  (∀ s, exec i s = .next (startOp c q n s)) ∧ msfOpOf n = some op

/-- An operation without data to read is asked for as its record stands. -/
def AsksPlainly (op : MsfOp) : Prop :=
  ∀ (s : State) (c : CtxId) (q : Fin 4) (k : BitVec 32) (v : Nat),
    beginRec s c q k op v = issueReq s c q (gCoord (bitsOf v 32 64)) [k] (bitsOf v 96 44) (recReq s c op v)

/-- An operation that reads `n` bytes at LADDR is asked for with them. -/
def AsksWith (op : MsfOp) (v n : Nat) : Prop :=
  ∀ (s : State) (c : CtxId) (q : Fin 4) (k : BitVec 32) (bs : Bytes), readUni s c.part (bitsOf v 96 44) n = .ok bs →
    beginRec s c q k op v = issueReq s c q (gCoord (bitsOf v 32 64)) [k] (bitsOf v 96 44) { recReq s c op v with data := bs }

/-- The atomics and BULK_GET. -/
theorem starts_plainly {c : CtxId} {q : Fin 4} {i : Instr} {n : Nat} {op : MsfOp}
    (h : (i, n, op) ∈ [(Instr.add64 c q, 0x10, MsfOp.add64), (.add32 c q, 0x11, .add32), (.and64 c q, 0x12, .and64),
      (.or64 c q, 0x13, .or64), (.xor64 c q, 0x14, .xor64), (.smax64 c q, 0x15, .smax64), (.smin64 c q, 0x16, .smin64),
      (.umax64 c q, 0x17, .umax64), (.umin64 c q, 0x18, .umin64), (.swap64 c q, 0x19, .swap64), (.cas64 c q, 0x1A, .cas64),
      (.bulkGet c q, 0x20, .bulkGet)]) :
    Starts c q i n op ∧ AsksPlainly op ∧ n ≠ 2 := by
  simp only [List.mem_cons, List.not_mem_nil, or_false, Prod.mk.injEq] at h
  rcases h with ⟨rfl, rfl, rfl⟩ | ⟨rfl, rfl, rfl⟩ | ⟨rfl, rfl, rfl⟩ | ⟨rfl, rfl, rfl⟩ | ⟨rfl, rfl, rfl⟩ | ⟨rfl, rfl, rfl⟩ |
    ⟨rfl, rfl, rfl⟩ | ⟨rfl, rfl, rfl⟩ | ⟨rfl, rfl, rfl⟩ | ⟨rfl, rfl, rfl⟩ | ⟨rfl, rfl, rfl⟩ | ⟨rfl, rfl, rfl⟩ <;>
  exact ⟨⟨fun _ => rfl, rfl⟩, fun _ _ _ _ _ => rfl, by decide⟩

/-- Every command of the sixteen starts its operation. -/
theorem starts_any {c : CtxId} {q : Fin 4} {i : Instr} {n : Nat}
    (h : (i, n) ∈ [(Instr.read c q, 0x01), (.write c q, 0x02), (.add64 c q, 0x10), (.add32 c q, 0x11), (.and64 c q, 0x12),
      (.or64 c q, 0x13), (.xor64 c q, 0x14), (.smax64 c q, 0x15), (.smin64 c q, 0x16), (.umax64 c q, 0x17), (.umin64 c q, 0x18),
      (.swap64 c q, 0x19), (.cas64 c q, 0x1A), (.addAl48 c q, 0x1C), (.bulkGet c q, 0x20), (.bulkPut c q, 0x21)]) :
    ∃ op, Starts c q i n op := by
  simp only [List.mem_cons, List.not_mem_nil, or_false, Prod.mk.injEq] at h
  rcases h with ⟨rfl, rfl⟩ | ⟨rfl, rfl⟩ | ⟨rfl, rfl⟩ | ⟨rfl, rfl⟩ | ⟨rfl, rfl⟩ | ⟨rfl, rfl⟩ | ⟨rfl, rfl⟩ | ⟨rfl, rfl⟩ | ⟨rfl, rfl⟩ |
    ⟨rfl, rfl⟩ | ⟨rfl, rfl⟩ | ⟨rfl, rfl⟩ | ⟨rfl, rfl⟩ | ⟨rfl, rfl⟩ | ⟨rfl, rfl⟩ | ⟨rfl, rfl⟩ <;>
  exact ⟨_, fun _ => rfl, rfl⟩

theorem asksWith_write {v : Nat} (h : gSpace (bitsOf v 32 64) ≠ 3) : AsksWith .write v 128 := by
  intro s c q k bs hread
  rw [beginRec]
  dsimp only
  rw [hread]
  dsimp only
  rw [if_neg (fun hg => h (beq_iff_eq.mp hg))]
  rfl

theorem asksWith_addAl48 (v : Nat) : AsksWith .addAl48 v 100 := by
  intro s c q k bs hread
  rw [beginRec]
  dsimp only
  rw [hread]
  rfl

theorem asksWith_bulkPut (v : Nat) : AsksWith .bulkPut v (bitsOf v 400 40) := by
  intro s c q k bs hread
  rw [beginRec]
  dsimp only
  rw [hread]
  rfl

/-- WRITE outside the row space, ADD_AL48 and BULK_PUT. -/
theorem starts_withData {c : CtxId} {q : Fin 4} {i : Instr} {n k v : Nat} {op : MsfOp} (hspace : n = 2 → gSpace (bitsOf v 32 64) ≠ 3)
    (h : (i, n, op, k) ∈ [(Instr.write c q, 0x02, MsfOp.write, 128), (.addAl48 c q, 0x1C, .addAl48, 100),
      (.bulkPut c q, 0x21, .bulkPut, bitsOf v 400 40)]) :
    Starts c q i n op ∧ AsksWith op v k := by
  simp only [List.mem_cons, List.not_mem_nil, or_false, Prod.mk.injEq] at h
  rcases h with ⟨rfl, rfl, rfl, rfl⟩ | ⟨rfl, rfl, rfl, rfl⟩ | ⟨rfl, rfl, rfl, rfl⟩
  · exact ⟨⟨fun _ => rfl, rfl⟩, asksWith_write (hspace rfl)⟩
  · exact ⟨⟨fun _ => rfl, rfl⟩, asksWith_addAl48 v⟩
  · exact ⟨⟨fun _ => rfl, rfl⟩, asksWith_bulkPut v⟩

/-- A READ by where its line lies: in the row space as a bulk get, of a shared line from the cache where it is there. -/
theorem beginRec_read_row {s : State} {c : CtxId} {q : Fin 4} {k : BitVec 32} {v : Nat} (h : gSpace (bitsOf v 32 64) = 3) :
    beginRec s c q k .read v = issueReq s c q (gCoord (bitsOf v 32 64)) [k] (bitsOf v 96 44)
      { recReq s c .read v with op := .bulkGet, len := 128 } := by
  rw [beginRec]
  dsimp only
  rw [if_pos (beq_iff_eq.mpr h)]
  rfl

theorem beginRec_read_uncached {s : State} {c : CtxId} {q : Fin 4} {k : BitVec 32} {v : Nat} {shared : Bool}
    (h : gSpace (bitsOf v 32 64) ≠ 3)
    (hshared : (gSpace (bitsOf v 32 64) == 1 && !forMe s (gCoord (bitsOf v 32 64))) = shared)
    (hmiss : shared = true → cacheFind s (gCoord (bitsOf v 32 64)) (gAddr (bitsOf v 32 64) / 128) = none) :
    beginRec s c q k .read v = issueReq s c q (gCoord (bitsOf v 32 64)) [k] (bitsOf v 96 44)
      { recReq s c .read v with shared := shared } := by
  rw [beginRec]
  dsimp only
  rw [if_neg (fun hg => h (beq_iff_eq.mp hg)), hshared]
  cases shared with
  | false => rfl
  | true =>
    rw [if_pos rfl, hmiss rfl]
    rfl

theorem beginRec_read_cached {s w : State} {c : CtxId} {q : Fin 4} {k : BitVec 32} {v : Nat} {x : CLine}
    (hspace : gSpace (bitsOf v 32 64) = 1) (hfor : forMe s (gCoord (bitsOf v 32 64)) = false)
    (hx : cacheFind s (gCoord (bitsOf v 32 64)) (gAddr (bitsOf v 32 64) / 128) = some x)
    (hw : writeUni (cacheKeep s (gCoord (bitsOf v 32 64)) x.line x.data) c.part (bitsOf v 96 44) x.data = .ok w) :
    beginRec s c q k .read v = doneRecs w c q [k] 0 0 := by
  have hrow : ¬ (gSpace (bitsOf v 32 64) == 3) = true := by rw [hspace]; decide
  have hshared : (gSpace (bitsOf v 32 64) == 1 && !forMe s (gCoord (bitsOf v 32 64))) = true := by rw [hspace, hfor]; rfl
  rw [beginRec]
  dsimp only
  rw [if_neg hrow, if_pos hshared, hx]
  dsimp only
  rw [hw]

/-- Settles O31: by what the record's operation asks for. -/
theorem fabricRecordsStart : Obligations.FabricRecordsStart := by
  unfold Obligations.FabricRecordsStart
  refine ⟨?plain, ?withData, ?read, ?gathered, ?refused, ?ring, ?flush⟩
  case plain =>
    intro c q s v n i op hmem hrec hn hrest hrun hfence hst
    obtain ⟨⟨hexec, hop⟩, hasks, h2⟩ := starts_plainly hmem
    rw [hexec, startOp_begins hrest hrec hn hop (fenceMet_of_noRun hrun hfence) hst (Or.inl (fun h => h2 h.1)), hasks]
    rfl
  case withData =>
    intro c q s u v n k bs i op hmem hrec hn hrest hrun hfence hst hspace hu hread
    obtain ⟨⟨hexec, hop⟩, hasks⟩ := starts_withData hspace hmem
    obtain rfl : u = passRec s c q := hu
    rw [hexec, startOp_begins hrest hrec hn hop (fenceMet_of_noRun hrun hfence) hst (Or.inl (fun h => hspace h.1 h.2)),
      hasks _ _ _ _ _ hread]
    rfl
  case read =>
    intro c q s u v dst m hrec hn hrest hrun hfence hst hu hdst hm
    have hbegin : exec (.read c q) s = .next (beginRec u c q (getFq s c q).next .read v) := by
      rw [hu]
      exact congrArg _ (startOp_begins hrest hrec hn rfl (fenceMet_of_noRun hrun hfence) hst
        (Or.inl (fun h => absurd h.1 (by decide))))
    subst hdst hm
    refine ⟨fun hspace => ?_, fun hspace hnear => ?_, fun hspace hfor hmiss => ?_, fun x w hspace hfor hx hw => ?_⟩
    · rw [hbegin, beginRec_read_row hspace]
      rfl
    · have hshared : (gSpace (bitsOf v 32 64) == 1 && !forMe u (gCoord (bitsOf v 32 64))) = false := by
        rw [Bool.and_eq_false_iff, beq_eq_false_iff_ne]
        exact hnear.imp_right (fun h => by rw [h]; rfl)
      rw [hbegin, beginRec_read_uncached hspace hshared (fun h => Bool.noConfusion h)]
      rfl
    · have hshared : (gSpace (bitsOf v 32 64) == 1 && !forMe u (gCoord (bitsOf v 32 64))) = true := by rw [hspace, hfor]; rfl
      rw [hbegin, beginRec_read_uncached (by rw [hspace]; decide) hshared (fun _ => hmiss)]
      rfl
    · rw [hbegin, beginRec_read_cached hspace hfor hx hw]
  case gathered =>
    intro c q s u v bs hrec hn hrest hfence hst hroom hspace hu hread
    have hbegin : exec (.write c q) s = .next (beginRec u c q (getFq s c q).next .write v) := by
      rw [hu]
      exact congrArg _ (startOp_begins hrest hrec hn rfl hfence hst (Or.inr hroom))
    rw [hbegin, beginRec]
    dsimp only
    rw [hread]
    dsimp only
    rw [if_pos (beq_iff_eq.mpr hspace)]
  case refused =>
    intro c q s v n i hmem hrec hn hrest hrun hfence hst
    obtain ⟨op, hexec, hop⟩ := starts_any hmem
    rw [hexec, startOp_refused hrest hrec hn hop (fenceMet_of_noRun hrun hfence) hst]
    rfl
  case ring =>
    intro c q s u base log2 bs hrun hready hrest hdecl hread hu hnext
    have htail : readTail s c q = u := by
      rw [readTail, hdecl]
      dsimp only
      rw [hread, hu]
    rw [exec_fabricQueueRing, execFabricQueueRing, if_pos (And.intro hrun hready), coherent_of_atRest hrest, htail,
      startRec_known hnext]
  case flush =>
    intro c q s g hg hrun hrest hdue
    rw [exec_gatewayFlush, execGatewayFlush, hg]
    dsimp only
    rw [if_pos (And.intro hrun hdue), coherent_of_atRest hrest]

/-! ### Requests and answers -/

/-- A request whose SEQ is the highest applied is answered from its entry (R275). -/
theorem targetReq_repeated {s : State} {c : CtxId} {m : ReqMsg} {o : OrdEnt} {r : RspMsg} (ho : findOrd s (ordKey m) = some o)
    (hseq : sidSeq m.sid = o.high.getD 0) (hr : o.rsps.find? (fun r => r.sid == m.sid) = some r) :
    targetReq s c m = answer (putOrd s { o with lastAt := s.now }) o.cid o.key (reqDie s m) r m.op := by
  have hd : (sidSeq m.sid - o.high.getD 0).toNat = 0 := by rw [hseq, BitVec.sub_self]; rfl
  rw [targetReq, ho]
  dsimp only
  rw [ordTake]
  dsimp only
  rw [if_pos (Or.inl hd), hr]

/-- Settles O32, message by message. -/
theorem requestsAreAnswered : Obligations.RequestsAreAnswered := by
  unfold Obligations.RequestsAreAnswered
  refine ⟨?req, ?again, ?rsp, ?busy, ?resend, ?expiry, ?hang⟩
  case req =>
    intro m s c hrun hrest hc
    rw [exec_req, execReq, if_pos hrun, hc]
    dsimp only
    rw [coherentLate_of_atRest hrest]
  case again =>
    intro m s c o r hrun hrest hc ho hseq hr
    rw [exec_req, execReq, if_pos hrun, hc]
    dsimp only
    rw [coherentLate_of_atRest hrest, targetReq_repeated ho hseq hr]
  case rsp =>
    intro m s c hrun hrest hcpn hc
    have hcpn' : ¬ m.cpn = true := by rw [hcpn]; decide
    rw [exec_rsp, execRsp, if_pos hrun, if_neg hcpn', hc]
    dsimp only
    rw [coherentLate_of_atRest hrest]
  case busy =>
    intro src jtag sid s c r hrun hc hr
    rw [exec_busy, execBusy, if_pos hrun, acceptBusy, hc, Option.bind_some, hr]
    rfl
  case resend =>
    intro src jtag sid s c r due hrun hrest hc hr hretry hdue
    have hsome : (some r).filter (fun r => r.retry.isSome) = some r := by
      rw [Option.filter_some, hretry]
      rfl
    have hany : r.retry.any (fun t => decide (t ≤ s.now)) = true := by
      rw [hretry]
      exact decide_eq_true hdue
    rw [exec_busyResend, execBusyResend, if_pos hrun, hc, Option.bind_some, hr, hsome]
    dsimp only [Option.map_some]
    rw [if_pos hany, coherentLate_of_atRest hrest]
  case expiry =>
    intro die src jtag cpn port q s due hrun hdue
    subst hdue
    rw [exec_orderEntryExpiry, execOrderEntryExpiry]
    exact if_pos hrun
  case hang =>
    intro c q sid s r hr hrun hrest hdue
    rw [exec_msfHang, execMsfHang, hr]
    dsimp only
    rw [if_pos (And.intro hrun hdue), coherentLate_of_atRest hrest]

end Sys2Proof.Machine

/-! PROOFS. What a write of the home frames leaves of the fabric's state, and the messages of the coherence directory (O33). -/

namespace Sys2Proof.Machine

/-! ### A write of frames leaves the fabric's requests and its directory -/

@[simp] theorem writeLine_msf (s : State) (f : Nat) (bs : Bytes) (l : Nat) : (writeLine s f bs l).msf = s.msf := by
  rw [writeLine_eq]

@[simp] theorem writeFrame_msf (s : State) (f : Nat) (bs : Bytes) : (writeFrame s f bs).msf = s.msf := by
  unfold writeFrame
  split
  · rfl
  · generalize lentLines f bs.length = ls
    induction ls generalizing s with
    | nil => rfl
    | cons l ls ih => rw [List.foldl_cons, ih, writeLine_msf]

@[simp] theorem writePlaces_msf (s : State) (l : List (Nat × Nat)) (bs : Bytes) : (writePlaces s l bs).msf = s.msf := by
  induction l generalizing s bs with
  | nil => rfl
  | cons fk l ih =>
    rw [writePlaces, ih]
    exact writeFrame_msf ..

@[simp] theorem keepBytes_msf (s : State) (p : PartI) (a : Nat) (bs : Bytes) : (keepBytes s p a bs).msf = s.msf := by
  unfold keepBytes
  split
  · exact writePlaces_msf ..
  · rfl

@[simp] theorem tellStandby_msf (s : State) (p : PartI) (k : Nat) : (tellStandby s p k).msf = s.msf := by
  unfold tellStandby
  split <;> rfl

@[simp] theorem sendResync_msf (s : State) (p : PartI) (k : Nat) : (sendResync s p k).msf = s.msf := by
  unfold sendResync
  rw [(FabricOnly.foldl (fun _ _ hu => hu.send) _ (.refl s) : FabricOnly s _)]

theorem SameButRings.msf_eq {s t : State} (h : SameButRings s t) : t.msf = s.msf := by
  rw [h]

theorem touchPiece_msf (s : State) (p : PartI) (k : Nat) : (touchPiece s p k).msf = s.msf := by
  unfold touchPiece
  dsimp only
  split
  · rfl
  · split
    case h_1 d _ => split <;> rfl
    case h_2 =>
      split
      · rw [tellStandby_msf, poolWrite, keepBytes_msf]
        rfl
      · rw [(sameButRings_report (by simp only [partReport]; decide) Nat.one_lt_two).msf_eq, sendResync_msf]
        rfl

theorem foldl_touchPiece_msf (p : PartI) (k : Nat) (js : List Nat) (s : State) :
    (js.foldl (fun t j => touchPiece t p (k + j)) s).msf = s.msf := by
  induction js generalizing s with
  | nil => rfl
  | cons j js ih => rw [List.foldl_cons, ih, touchPiece_msf]

theorem protectWrite_msf (s : State) (p : PartI) (a : Nat) (bs : Bytes) : (protectWrite s p a bs).msf = s.msf := by
  unfold protectWrite
  dsimp only
  split
  · rfl
  · split
    · rfl
    · split
      · exact foldl_touchPiece_msf ..
      · rfl
      · rfl

@[simp] theorem protectRun_msf (fuel : Nat) (s : State) (p : PartI) (a : Nat) (bs : Bytes) :
    (protectRun fuel s p a bs).msf = s.msf := by
  induction fuel generalizing s a bs with
  | zero => rfl
  | succ fuel ih =>
    unfold protectRun
    split
    · rfl
    · rw [ih, protectWrite_msf]

theorem writeHome_msf {s t : State} {p : PartI} {a : Nat} {bs : Bytes} (h : writeHome s p a bs = .ok t) : t.msf = s.msf := by
  unfold writeHome at h
  split at h
  case h_1 => cases h
  case h_2 l hl =>
    split at h
    case h_1 => cases h
    case h_2 =>
      cases h
      rw [writePlaces_msf, protectRun_msf]

@[simp] theorem lineBack_msf (s : State) (addr : Nat) (bs : Bytes) : (lineBack s addr bs).msf = s.msf := by
  unfold lineBack
  dsimp only
  split
  · rfl
  · split
    case h_1 t ht => exact writeHome_msf ht
    case h_2 => rfl

/-! ### The directory at the home -/

/-- The directory is served: the device's own accesses must ask for lines back (R281). -/
def serving (s : State) (b : Bool) : State := { s with msf := { s.msf with coh := b } }

/-- With no request waiting for a line the directory is only swept. -/
theorem serveWaiting_of_none {s : State} (h : s.msf.waiting = []) : serveWaiting s = sweepDir s := by
  rw [serveWaiting, h, List.foldl_nil]

theorem ackInv_shared {s : State} {h : Holder} {a : Nat} {e : DirEnt} {v : BitVec 7} (he : dirFind s a = some e) (hst : e.st = .shared v) :
    ackInv s h a = putDir s { e with st := .shared (v &&& ~~~(holderBit h)), acks := e.acks &&& ~~~(holderBit h) } := by
  rw [ackInv, he]
  dsimp only
  rw [hst]

theorem takePuts_shared {s : State} {h : Holder} {a : Nat} {e : DirEnt} {v : BitVec 7} (he : dirFind s a = some e)
    (hst : e.st = .shared v) : takePuts s h a = putDir s { e with st := .shared (v &&& ~~~(holderBit h)) } := by
  rw [takePuts, he]
  dsimp only
  rw [hst]

theorem ackRecall_modified {s : State} {h : Holder} {a : Nat} {e : DirEnt} {keep : Bool} {bs : Bytes} (he : dirFind s a = some e)
    (hst : e.st = .modified h) (hrec : e.recalling = some keep) : ackRecall s h a (some bs) = endRecall s e keep h a bs := by
  unfold ackRecall
  rw [he]
  dsimp only
  rw [hst, hrec]
  exact if_pos rfl

theorem takePutm_modified {s : State} {h : Holder} {a : Nat} {e : DirEnt} {bs : Bytes} (he : dirFind s a = some e)
    (hst : e.st = .modified h) : takePutm s h a bs = endRecall s e (e.recalling.getD false) h a bs := by
  rw [takePutm, he]
  dsimp only
  rw [hst]
  exact if_pos rfl

/-- A line that a holder has modified is held. -/
theorem nothingHeld_of_modified {s : State} {a : Nat} {e : DirEnt} {h : Holder} (he : dirFind s a = some e) (hst : e.st = .modified h) :
    nothingHeld s = false := by
  have hlive : s.msf.dir.any DirEnt.live = true :=
    List.any_eq_true.mpr ⟨e, List.mem_of_find?_eq_some he, by rw [DirEnt.live, hst]⟩
  rw [nothingHeld, hlive]
  rfl

/-! ### What the device takes while lines are held -/

/-- Where lines are held but none is met, the effect is as without them. -/
theorem coherentLate_unmet {c : Instr} {s : State} {f : State → State} (hheld : nothingHeld s = false)
    (hwait : (f (serving s true)).msf.wait = none) : coherentLate c f s = serving (f (serving s true)) false := by
  have hheld' : ¬ nothingHeld s = true := by rw [hheld]; decide
  have hwait' : ¬ (f (serving s true)).msf.wait.isSome = true := by rw [hwait]; decide
  rw [coherentLate, coherentOr, if_neg hheld']
  exact if_neg hwait'

theorem serving_false_of_idle {s : State} (h : s.msf.coh = false) : serving s false = s := by
  rw [serving, ← h]

/-- An entry of the directory that is put anew, and nothing else, meets no line. -/
theorem coherentLate_putDir {c : Instr} {s : State} {f : State → State} {e : DirEnt} (hwait : s.msf.wait = none)
    (hcoh : s.msf.coh = false) (hf : ∀ b, f (serving s b) = sweepDir (putDir (serving s b) e)) :
    coherentLate c f s = sweepDir (putDir s e) := by
  have hs := hf false
  rw [serving_false_of_idle hcoh] at hs
  by_cases hheld : nothingHeld s = true
  · rw [coherentLate_of_atRest hheld, hs]
  · have hfalse : nothingHeld s = false := Bool.not_eq_true _ ▸ hheld
    rw [coherentLate_unmet hfalse (by rw [hf true]; exact hwait), hf true]
    exact congrArg (fun t => sweepDir (putDir t e)) (serving_false_of_idle hcoh)

/-- The end of a recall writes the line at its home and meets no other (R281). -/
theorem coherentLate_endRecall {c : Instr} {s : State} {f : State → State} {e : DirEnt} {keep : Bool} {h : Holder} {a : Nat} {bs : Bytes}
    (hheld : nothingHeld s = false) (hwait : s.msf.wait = none) (hwaiting : s.msf.waiting = [])
    (hf : f (serving s true) = serveWaiting (endRecall (serving s true) e keep h a bs)) :
    coherentLate c f s = serving (sweepDir (putDir (lineBack (serving s true) a bs)
      { e with st := .shared (if keep then holderBit h else 0), recalling := none })) false := by
  have hmsf : (lineBack (serving s true) a bs).msf = (serving s true).msf := lineBack_msf ..
  have hswept : f (serving s true) = sweepDir (putDir (lineBack (serving s true) a bs)
      { e with st := .shared (if keep then holderBit h else 0), recalling := none }) := by
    rw [hf]
    refine serveWaiting_of_none ?_
    change (lineBack (serving s true) a bs).msf.waiting = []
    rw [hmsf]
    exact hwaiting
  rw [coherentLate_unmet hheld, hswept]
  rw [hswept]
  change (lineBack (serving s true) a bs).msf.wait = none
  rw [hmsf]
  exact hwait

/-! ### The obligation -/

/-- Settles O33, message by message: at the home, or on to it. -/
theorem directoryMessagesAct : Obligations.DirectoryMessagesAct := by
  unfold Obligations.DirectoryMessagesAct
  refine ⟨?inv, ?invack, ?invackHeld, ?recallLine, ?recallack, ?recallackHeld, ?puts, ?putsHeld, ?putm, ?putmHeld, ?bend, ?bresend⟩
  case inv =>
    intro die home addr s hrun hdie
    have hplane : linePlane addr.toNat = die := Fin.ext hdie
    rw [exec_inv, execInv, if_pos (And.intro hrun hdie), hplane]
  case invack =>
    intro h addr s hrun hrest
    rw [exec_invack, execInvack, if_pos hrun, coherentLate_of_atRest hrest]
  case invackHeld =>
    intro h addr s e v hrun hwait hcoh hwaiting he hst
    rw [exec_invack, execInvack, if_pos hrun, coherentLate_putDir hwait hcoh]
    intro b
    have heb : dirFind (serving s b) addr.toNat = some e := he
    rw [ackInv_shared heb hst]
    exact serveWaiting_of_none hwaiting
  case recallLine =>
    intro home keep addr port s hrun hup
    rw [exec_recallLine, execRecallLine, if_pos (And.intro hrun hup), send]
  case recallack =>
    intro h home addr data s hrun hrest
    have hrun' : ¬ (!unitsRun s) = true := by rw [hrun]; decide
    refine ⟨fun hfor => ?_, fun hfor => ?_⟩
    · rw [exec_recallack, execRecallack, if_neg hrun', if_pos hfor, coherentLate_of_atRest hrest]
    · rw [exec_recallack, execRecallack, if_neg hrun', if_neg (by rw [hfor]; decide)]
  case recallackHeld =>
    intro h home addr bs s u e keep hrun hwait hwaiting hfor he hst hrec hu
    have hrun' : ¬ (!unitsRun s) = true := by rw [hrun]; decide
    have heb : dirFind (serving s true) addr.toNat = some e := he
    rw [exec_recallack, execRecallack, if_neg hrun', if_pos hfor,
      coherentLate_endRecall (nothingHeld_of_modified he hst) hwait hwaiting
        (by rw [ackRecall_modified heb hst hrec]), hu]
    rfl
  case puts =>
    intro h home addr s hrun hrest
    have hrun' : ¬ (!unitsRun s) = true := by rw [hrun]; decide
    refine ⟨fun hfor => ?_, fun hfor => ?_⟩
    · rw [exec_puts, execPuts, if_neg hrun', if_pos hfor, coherentLate_of_atRest hrest]
    · rw [exec_puts, execPuts, if_neg hrun', if_neg (by rw [hfor]; decide)]
  case putsHeld =>
    intro h home addr s e v hrun hwait hcoh hwaiting hfor he hst
    have hrun' : ¬ (!unitsRun s) = true := by rw [hrun]; decide
    rw [exec_puts, execPuts, if_neg hrun', if_pos hfor, coherentLate_putDir hwait hcoh]
    intro b
    have heb : dirFind (serving s b) addr.toNat = some e := he
    rw [takePuts_shared heb hst]
    exact serveWaiting_of_none hwaiting
  case putm =>
    intro h home addr data s hrun hrest
    have hrun' : ¬ (!unitsRun s) = true := by rw [hrun]; decide
    refine ⟨fun hfor => ?_, fun hfor => ?_⟩
    · rw [exec_putm, execPutm, if_neg hrun', if_pos hfor, coherentLate_of_atRest hrest]
    · rw [exec_putm, execPutm, if_neg hrun', if_neg (by rw [hfor]; decide)]
  case putmHeld =>
    intro h home addr data s u e hrun hwait hwaiting hfor he hst hu
    have hrun' : ¬ (!unitsRun s) = true := by rw [hrun]; decide
    have heb : dirFind (serving s true) addr.toNat = some e := he
    rw [exec_putm, execPutm, if_neg hrun', if_pos hfor,
      coherentLate_endRecall (nothingHeld_of_modified he hst) hwait hwaiting
        (by rw [takePutm_modified heb hst]), hu]
    rfl
  case bend =>
    intro src jtag sid bytes crc s c r hrun hrest hc hr hop hbend
    have hkept : (some r).filter (fun r => r.req.op == .bulkGet && r.bend.isNone) = some r := by
      rw [Option.filter_some, hop, hbend]
      rfl
    rw [exec_bend, execBend, if_pos hrun, hc, Option.bind_some, hr, hkept]
    dsimp only [Option.map_some]
    rw [coherentLate_of_atRest hrest]
  case bresend =>
    intro src jtag sid s c r hrun hrest hc hr hop
    have hkept : (some r).filter (fun r => r.req.op == .bulkPut) = some r := by
      rw [Option.filter_some, hop]
      rfl
    rw [exec_bresend, execBresend, if_pos hrun, hc]
    dsimp only
    rw [hr, hkept]
    dsimp only
    rw [coherentLate_of_atRest hrest]

end Sys2Proof.Machine

/-! PROOFS. Patrol scrubbing and the leases of neighbour memory from offer to release (O38). -/

namespace Sys2Proof.Machine

/-! ### Lend slots -/

/-- A legal lease at an idle slot is offered (R228). -/
theorem lendWrite_offers {s : State} {i : Nat} {v : BitVec 64} (hidle : (getLend s i).state = .idle)
    (hgood : lendBad s i (lendOf v) = false) (hen : v.getLsbD 0 = true) (hasked : (getLend s i).asked = none) :
    lendWrite s i v = markLent (setLend s i { lendOf v with state := .offered, asked := none }) (lendOf v).grans true := by
  have hok : ¬ ((getLend s i).state ≠ .idle ∧ lendChanged (getLend s i) (lendOf v) = true ∨ lendBad s i (lendOf v) = true) := by
    rintro (⟨hne, -⟩ | hbad)
    · exact hne hidle
    · rw [hgood] at hbad
      exact Bool.noConfusion hbad
  have hen' : (lendOf v).en = true := hen
  rw [lendWrite]
  dsimp only
  rw [if_neg hok, if_pos hidle, if_pos hen', hasked]

theorem lendWrite_refused {s : State} {i : Nat} {v : BitVec 64} (hbad : lendBad s i (lendOf v) = true) :
    lendWrite s i v = leaseRefuse s i := by
  rw [lendWrite]
  exact if_pos (Or.inr hbad)

/-- A request that fits the offer activates the lease; another leaves the slot offered (R229). -/
theorem lendServe_fits {s : State} {i : Nat} {m : LeaseMsg} (hb : (getLend s i).borrower = m.borrower)
    (hn : (getLend s i).ngran = m.ngran) (hr : (getLend s i).revoke = false) :
    lendServe s i m = send (setLend (zeroGrans s (getLend s i).grans) i { getLend s i with
      state := .active, asked := none, bslot := m.bslot
      termEnd := if (getLend s i).termS = 0 then none else some (s.now + (getLend s i).termS.toNat * 1000000000) })
      (.leaseAnswer m.borrower m.bslot true) := by
  have hr' : ¬ (getLend s i).revoke = true := by rw [hr]; decide
  rw [lendServe]
  dsimp only
  rw [if_pos (And.intro hb hn), lendActivate]
  rw [if_neg hr', if_neg hr']

theorem lendServe_differs {s : State} {i : Nat} {m : LeaseMsg}
    (hne : (getLend s i).borrower ≠ m.borrower ∨ (getLend s i).ngran ≠ m.ngran) :
    lendServe s i m = leaseSetup (send (setLend s i { getLend s i with asked := none }) (.leaseAnswer m.borrower m.bslot false)) i := by
  rw [lendServe]
  exact if_neg (fun h => hne.elim (fun hb => hb h.1) (fun hn => hn h.2))

theorem execLeaseRequest_offered {s : State} {m : LeaseMsg} (hrun : unitsRun s = true) (h : (getLend s m.lslot.val).state = .offered) :
    execLeaseRequest m s = .next (lendServe s m.lslot.val m) := by
  rw [execLeaseRequest, if_pos hrun]
  dsimp only
  rw [h]

/-- REVOKE ends an active lease, and stands at a slot that is offered or ending; a term's end is not a REVOKE (R230). -/
theorem lendRevoke_active {s : State} {i : Nat} (h : (getLend s i).state = .active) :
    lendRevoke s i true = send (setLend s i { getLend s i with state := .ending, revoke := true })
      (.leaseRevoke (getLend s i).borrower (getLend s i).bslot) := by
  have hrevoke : ((getLend s i).revoke || (true && decide ((getLend s i).state ≠ .idle))) = true := by
    rw [h]
    exact Bool.or_true _
  rw [lendRevoke]
  dsimp only
  rw [if_pos h, hrevoke]

theorem lendRevoke_stands {s : State} {i : Nat} (h : (getLend s i).state = .offered ∨ (getLend s i).state = .ending) :
    lendRevoke s i true = setLend s i { getLend s i with revoke := true } := by
  have hactive : ¬ (getLend s i).state = .active := by rcases h with h | h <;> rw [h] <;> decide
  have hrevoke : ((getLend s i).revoke || (true && decide ((getLend s i).state ≠ .idle))) = true := by
    rcases h with h | h <;> rw [h] <;> exact Bool.or_true _
  rw [lendRevoke]
  dsimp only
  rw [if_neg hactive, hrevoke]

theorem lendRevoke_term {s : State} {i : Nat} (h : (getLend s i).state = .active) :
    lendRevoke s i false = send (setLend s i { getLend s i with state := .ending })
      (.leaseRevoke (getLend s i).borrower (getLend s i).bslot) := by
  rw [lendRevoke]
  dsimp only
  rw [if_pos h, Bool.false_and, Bool.or_false]

/-! ### Borrow slots -/

/-- A legal borrow at an idle slot is asked for (R229). -/
theorem borrowWrite_asks {s : State} {j : Fin 16} {v : BitVec 64} (hidle : (getBorrow s j.val).state = .idle)
    (hgood : borrowBad s (borrowOf v) = false) (hen : v.getLsbD 0 = true) : borrowWrite s j v = borrowAsk s j (borrowOf v) := by
  have hok : ¬ ((getBorrow s j.val).state ≠ .idle ∧ borrowChanged (getBorrow s j.val) (borrowOf v) = true ∨
      borrowBad s (borrowOf v) = true) := by
    rintro (⟨hne, -⟩ | hbad)
    · exact hne hidle
    · rw [hgood] at hbad
      exact Bool.noConfusion hbad
  have hen' : (borrowOf v).en = true := hen
  rw [borrowWrite]
  rw [if_neg hok, if_pos hidle, if_pos hen']

/-! ### What a dropped lease leaves -/

/-- Erasing some entries leaves no entry for any of them. -/
theorem Tbl.get_foldl_erase {α : Type} (d : α) (l : List Nat) (t : Tbl α) {i : Nat} (h : i ∈ l ∨ Tbl.get d t i = d) :
    Tbl.get d (l.foldl (fun u k => Tbl.erase u k) t) i = d := by
  induction l generalizing t with
  | nil => exact h.resolve_left List.not_mem_nil
  | cons k l ih =>
    refine ih _ ?_
    rw [Tbl.get_erase]
    by_cases hk : i = k
    · exact Or.inr (if_pos hk)
    · rw [if_neg hk]
      exact h.imp_left (fun hm => (List.mem_cons.mp hm).resolve_left hk)

/-- A page of a slot's window is one of its 8,192 pages. -/
theorem mem_windowPages {j i : Nat} (hlo : 581632 + 8192 * j ≤ i) (hhi : i < 581632 + 8192 * (j + 1)) : i ∈ windowPages j 16 := by
  rw [windowPages, List.mem_map]
  exact ⟨i - (581632 + 8192 * j), List.mem_range.mpr (by omega), by omega⟩

theorem unbackPages_ls (s : State) (l : List Nat) : (unbackPages s l).ls = s.ls :=
  (StoresKept.foldl (fun _ _ hu => hu.setPte) l (.refl s) : StoresKept s _).ls

theorem unbackPages_seqs (s : State) (l : List Nat) : (unbackPages s l).seqs = s.seqs := by
  unfold unbackPages
  induction l generalizing s with
  | nil => rfl
  | cons i l ih => rw [List.foldl_cons, ih, setPte_eq]

theorem getBorrow_noteLease (s : State) (j : Nat) (x : Borrow) : getBorrow (noteLease s j x) j = x :=
  (Tbl.get_set ..).trans (if_pos rfl)

theorem getPte_noteLease (s : State) (j i : Nat) (x : Borrow) : getPte (noteLease s j x) i = getPte s i := rfl

theorem zeroLease_eq (s : State) (j : Nat) : zeroLease s j = { s with uni := (zeroLease s j).uni } := by
  rw [zeroLease]

theorem getPte_zeroLease (s : State) (j i : Nat) : getPte (zeroLease s j) i = getPte s i := by
  rw [zeroLease_eq]
  rfl

/-- No page of the window has an entry left. -/
theorem getPte_borrowDrop {s : State} {j i : Nat} (hlo : 581632 + 8192 * j ≤ i) (hhi : i < 581632 + 8192 * (j + 1)) :
    getPte (borrowDrop s j) i = {} := by
  have hmem := mem_windowPages hlo hhi
  rw [borrowDrop]
  generalize windowPages j 16 = l at hmem
  rw [getPte_noteLease, getPte_zeroLease]
  exact Tbl.get_foldl_erase {} l (unbackPages s (leasePages s j)).mem.pt (Or.inl hmem)

theorem borrowDrop_ls (s : State) (j : Nat) : (borrowDrop s j).ls = s.ls := by
  rw [borrowDrop, zeroLease_eq]
  generalize windowPages j 16 = l
  exact unbackPages_ls s (leasePages s j)

theorem borrowDrop_seqs (s : State) (j : Nat) : (borrowDrop s j).seqs = s.seqs := by
  rw [borrowDrop, zeroLease_eq]
  generalize windowPages j 16 = l
  exact unbackPages_seqs s (leasePages s j)

/-! ### The obligation -/

/-- Settles O38: a lease slot by slot, from its offer to what its end leaves. -/
theorem leasesRunTheirCourse : Obligations.LeasesRunTheirCourse := by
  unfold Obligations.LeasesRunTheirCourse
  refine ⟨?scrub, ?offer, ?badOffer, ?borrow, ?request, ?badRequest, ?accepted, ?denied, ?revokeActive, ?revokeStands, ?revoked,
    ?term, ?grace, ?returned, ?released, ?dropped⟩
  case scrub =>
    intro die finds cellar hbm s hrun
    rw [exec_scrubPass, execScrubPass]
    exact if_pos hrun
  case offer =>
    intro port i value s hmay hidle hgood hen hasked
    rw [exec_leaseLendWrite, execLeaseLendWrite, guarded_of_mayWrite hmay, lendWrite_offers hidle hgood hen hasked]
  case badOffer =>
    intro port i value s hmay hbad
    rw [exec_leaseLendWrite, execLeaseLendWrite, guarded_of_mayWrite hmay, lendWrite_refused hbad, leaseRefuse]
  case borrow =>
    intro port j value s y hmay hy hidle hgood hen
    subst hy
    rw [exec_leaseBorrowWrite, execLeaseBorrowWrite, guarded_of_mayWrite hmay, borrowWrite_asks hidle hgood hen, borrowAsk]
  case request =>
    intro m s x hrun hx hoffered hb hn hr
    subst hx
    rw [exec_leaseRequest, execLeaseRequest_offered hrun hoffered, lendServe_fits hb hn hr]
  case badRequest =>
    intro m s x hrun hx hoffered hne
    subst hx
    rw [exec_leaseRequest, execLeaseRequest_offered hrun hoffered, lendServe_differs hne, leaseSetup]
  case accepted =>
    intro j s hrun hwaiting
    have hj : Fin.ofNat 16 j.val = j := Fin.ofNat_val_eq_self j
    rw [exec_leaseAnswer, execLeaseAnswer, if_pos (And.intro hrun hwaiting), if_pos rfl, borrowActivate, hj, zeroLease]
  case denied =>
    intro j s hrun hwaiting
    rw [exec_leaseAnswer, execLeaseAnswer, if_pos (And.intro hrun hwaiting), if_neg Bool.false_ne_true, leaseSetup]
  case revokeActive =>
    intro port i s hmay hactive
    rw [exec_leaseRevoke, execLeaseRevoke, if_pos rfl, guarded_of_mayWrite hmay, lendRevoke_active hactive]
  case revokeStands =>
    intro port i s hmay hst
    rw [exec_leaseRevoke, execLeaseRevoke, if_pos rfl, guarded_of_mayWrite hmay, lendRevoke_stands hst]
  case revoked =>
    intro port j s x hrun hx hactive
    subst hx
    rw [exec_leaseRevoke, execLeaseRevoke, if_neg Bool.false_ne_true, if_pos hrun, borrowRevoke]
    rw [if_pos hactive]
  case term =>
    intro i s t ht hrun hdue hactive
    rw [exec_leaseTermEnd, execLeaseTermEnd, ht]
    dsimp only
    rw [if_pos (And.intro hrun hdue), lendRevoke_term hactive]
  case grace =>
    intro j s hrun hst hleft hdue
    have hleft' : ¬ (getBorrow s j.val).left = true := by rw [hleft]; decide
    rw [exec_leaseGraceEnd, execLeaseGraceEnd]
    exact if_pos ⟨hrun, hst, hleft', hdue⟩
  case returned =>
    intro i s x hrun hx hst
    subst hx
    rw [exec_leaseRelease, execLeaseRelease, if_pos hrun, if_pos rfl]
    dsimp only
    rw [if_pos hst, lendIdle]
  case released =>
    intro j s hrun hleft hidle
    have hidle' : ¬ leaseBusy s j.val = true := by rw [hidle]; decide
    rw [exec_leaseRelease, execLeaseRelease, if_pos hrun, if_neg Bool.false_ne_true, if_pos (And.intro hleft hidle'), borrowRelease]
  case dropped =>
    intro s t j i ht _ hlo hhi
    subst ht
    have hslot : getBorrow (borrowDrop s j) j =
        { getBorrow s j with state := .idle, left := false, graceEnd := 0, key := 0, carried := false } := getBorrow_noteLease ..
    have hpage := getPte_borrowDrop (s := s) hlo hhi
    refine ⟨?_, ?_, ?_, ?_, borrowDrop_ls .., borrowDrop_seqs ..⟩
    · rw [hslot]
    · rw [hslot]
    · rw [hpage]
    · rw [hpage]

end Sys2Proof.Machine

/-! PROOFS. What a report up to CONTEXT_FATAL can change, and the slices and switches of a partition's cores (O39). -/

namespace Sys2Proof.Machine

/-! ### The work of contexts -/

/-- `t` is `s` but for contexts, sequencers, partitions, the companions' memory and what error reports write. -/
def WorkOnly (s t : State) : Prop :=
  t = { s with ctxs := t.ctxs, seqs := t.seqs, parts := t.parts, comp := t.comp, err := t.err, msf := t.msf }

namespace WorkOnly

variable {s t : State}

theorem refl (s : State) : WorkOnly s s := rfl

theorem trans {u : State} (h : WorkOnly s t) (hu : WorkOnly t u) : WorkOnly s u := by
  unfold WorkOnly at *
  rw [hu, h]

theorem upd (h : WorkOnly s t) {ctxs seqs parts comp err msf} :
    WorkOnly s { t with ctxs := ctxs, seqs := seqs, parts := parts, comp := comp, err := err, msf := msf } :=
  h.trans rfl

theorem ite {c : Prop} [Decidable c] {u : State} (ht : WorkOnly s t) (hu : WorkOnly s u) : WorkOnly s (if c then t else u) := by
  split
  · exact ht
  · exact hu

theorem foldl {α : Type} {f : State → α → State} (hf : ∀ u x, WorkOnly s u → WorkOnly s (f u x)) (l : List α)
    (h : WorkOnly s t) : WorkOnly s (l.foldl f t) := by
  induction l generalizing t with
  | nil => exact h
  | cons x l ih => exact ih (hf t x h)

theorem of_rings {u : State} (h : WorkOnly s t) (hu : SameButRings t u) : WorkOnly s u := by
  unfold SameButRings at hu
  rw [hu]
  exact h.upd

theorem ls_eq (h : WorkOnly s t) : t.ls = s.ls := by
  rw [h]

theorem fab_eq (h : WorkOnly s t) : t.fab = s.fab := by
  rw [h]

theorem setCtx (h : WorkOnly s t) {c : CtxId} {x : Ctx} : WorkOnly s (setCtx t c x) := h.upd

theorem setPart (h : WorkOnly s t) {p : PartI} {x : Part} : WorkOnly s (setPart t p x) := h.upd

theorem setSeq (h : WorkOnly s t) {c : CtxId} {k : Nat} {x : Seq} : WorkOnly s (setSeq t c k x) := h.upd

theorem writeStatus (h : WorkOnly s t) {c : CtxId} : WorkOnly s (writeStatus t c) := h.of_rings (sameButRings_writeComp ..)

theorem toSecondary (h : WorkOnly s t) {r : Report} : WorkOnly s (toSecondary t r) :=
  h.of_rings (SameButRings.foldl (fun u p => sameButRings_setRing u p _) _ _)

/-- A partition that decides again changes only itself. -/
theorem onLose (h : WorkOnly s t) {p : PartI} : WorkOnly s (onLose t p) := by
  unfold Machine.onLose
  refine .ite h ?_
  split
  · exact h
  · split
    · exact h.setPart
    · exact .ite h h.setPart

theorem onGain (h : WorkOnly s t) {p : PartI} : WorkOnly s (onGain t p) := by
  unfold Machine.onGain
  refine .ite h ?_
  split
  · exact h
  · split
    · exact h.setPart
    · exact .ite h.setPart h

theorem faultCtx (h : WorkOnly s t) {c : CtxId} {code : BitVec 16} {rej : Option (BitVec 32)} : WorkOnly s (faultCtx t c code rej) :=
  .ite h.setCtx.writeStatus.onLose h

/-- A report below PARTITION_FATAL reaches the rings, and at most faults its context (R417). -/
theorem reportRej (h : WorkOnly s t) {r : Report} {rej : Option (BitVec 32)} (hcls : r.cls.val ≤ 2) : WorkOnly s (reportRej t r rej) := by
  refine .ite h.upd ?_
  unfold reportReal
  dsimp only
  split
  case h_1 => exact .ite (WorkOnly.toSecondary h.upd) ((WorkOnly.setCtx h.upd).of_rings (sameButRings_toRings ..)).faultCtx
  case h_2 h3 _ => omega
  case h_3 h4 => omega
  case h_4 => exact WorkOnly.of_rings h.upd (sameButRings_toRings ..)

theorem report (h : WorkOnly s t) {r : Report} (hcls : r.cls.val ≤ 2) : WorkOnly s (report t r) := h.reportRej hcls

end WorkOnly

/-! ### An incoming context -/

/-- A restored image that met a poisoned piece stays as far as it was restored (R329). -/
theorem makeResident_poisoned_ls {s : State} {p : PartI} {x : Switching} {r : CtxI}
    (hbad : (restoreCores s ⟨p, r⟩ (coresOf (getPart s p))).2 = false) :
    (makeResident s p x r).ls = (restoreCores s ⟨p, r⟩ (coresOf (getPart s p))).1.ls := by
  have hbad' : ¬ (restoreCores s ⟨p, r⟩ (coresOf (getPart s p))).2 = true := by rw [hbad]; decide
  have hresumed : WorkOnly (restoreCores s ⟨p, r⟩ (coresOf (getPart s p))).1
      ((coresOf (getPart s p)).foldl (fun t k => resumeSeq t ⟨p, r⟩ k) (restoreCores s ⟨p, r⟩ (coresOf (getPart s p))).1) :=
    .foldl (fun _ _ hu => hu.setSeq) _ (.refl _)
  refine WorkOnly.ls_eq ?_
  rw [makeResident]
  dsimp only
  rw [if_neg hbad']
  refine WorkOnly.report (.setPart (.setCtx ?_)) (Nat.le_refl 2)
  split
  · exact .setPart (.setCtx hresumed)
  · exact hresumed

/-- Settles O39, command by command. -/
theorem coresSwitchContexts : Obligations.CoresSwitchContexts := by
  unfold Obligations.CoresSwitchContexts
  refine ⟨?alone, ?behind, ?switches, ?yields, ?stopped, ?resident, ?poisoned, ?nobody, ?wholeCap⟩
  case alone =>
    intro p s u r hr hrun hactive hsw hdue hu hbest
    rw [exec_sliceEnd, execSliceEnd]
    dsimp only
    rw [hr]
    dsimp only
    rw [if_pos ⟨hrun, hactive, hsw, hdue⟩, ← hu, hbest]
  case behind =>
    intro p s u r c hr hrun hactive hsw hdue hu hbest hbefore hwork
    rw [exec_sliceEnd, execSliceEnd]
    dsimp only
    rw [hr]
    dsimp only
    rw [if_pos ⟨hrun, hactive, hsw, hdue⟩, ← hu, hbest]
    dsimp only
    rw [hbefore, hwork]
    exact if_neg Bool.false_ne_true
  case switches =>
    intro p s u r c hr hrun hactive hsw hdue hu hbest hwhy
    have hor : (ranksBefore u p c r || !hasWork u ⟨p, r⟩) = true := by
      rw [Bool.or_eq_true, Bool.not_eq_true']
      exact hwhy
    rw [exec_sliceEnd, execSliceEnd]
    dsimp only
    rw [hr]
    dsimp only
    rw [if_pos ⟨hrun, hactive, hsw, hdue⟩, ← hu, hbest]
    exact if_pos hor
  case yields =>
    intro p s r n hr hbest hrun hactive hsw hidle
    rw [exec_contextYield, execContextYield]
    dsimp only
    rw [hr]
    dsimp only
    rw [hbest]
    exact if_pos ⟨hrun, hactive, hsw, hidle⟩
  case stopped =>
    intro p s u v x r late ends hx hr hrun hsaved hstopped hu hlate hends hv
    have hsaved' : ¬ x.saved = true := by rw [hsaved]; decide
    rw [exec_switchCoresStopped, execSwitchCoresStopped]
    dsimp only
    rw [hx]
    dsimp only
    rw [hr]
    dsimp only
    rw [if_pos ⟨hrun, hsaved', hstopped⟩, ← hu, ← hlate, ← hends, ← hv]
  case resident =>
    intro p s x r hx hrun hsaved hdue hin hready
    rw [exec_switchDone, execSwitchDone]
    rw [hx]
    dsimp only
    rw [if_pos ⟨hrun, hsaved, hdue⟩, hin]
    exact if_pos hready
  case poisoned =>
    intro p s x r hx hrun hsaved hdue hin hready hbad
    refine ⟨makeResident s p x r, ?_, makeResident_poisoned_ls hbad⟩
    rw [exec_switchDone, execSwitchDone]
    rw [hx]
    dsimp only
    rw [if_pos ⟨hrun, hsaved, hdue⟩, hin]
    exact if_pos hready
  case nobody =>
    intro p s x hx hrun hsaved hdue hin
    rw [exec_switchDone, execSwitchDone]
    dsimp only
    rw [hx]
    dsimp only
    rw [if_pos ⟨hrun, hsaved, hdue⟩]
    rcases hin with hnone | ⟨r, hsome, hready⟩
    · rw [hnone]
    · rw [hsome]
      exact if_neg hready
  case wholeCap =>
    intro core pos listPos s c t f hc ht hf hrun hwhole hcapped hdue
    have hcapped' : ¬ f.capped = true := by rw [hcapped]; decide
    rw [exec_wholeCap, execWholeCap, hc]
    dsimp only
    rw [ht, hf]
    exact if_pos ⟨hrun, hwhole, hcapped', hdue⟩

end Sys2Proof.Machine

/-! PROOFS. Protection by a Standby: seeding, deltas, mirrors, heartbeats, takeover and rebuild (O40). -/

namespace Sys2Proof.Machine

/-! ### What a takeover leaves of the fabric's state -/

/-- A step of a fold that keeps the fabric's state lets the fold keep it. -/
theorem foldl_fab {α : Type} {f : State → α → State} (hf : ∀ t x, (f t x).fab = t.fab) (l : List α) (s : State) :
    (l.foldl f s).fab = s.fab := by
  induction l generalizing s with
  | nil => rfl
  | cons x l ih => rw [List.foldl_cons, ih, hf]

theorem ite_fab {c : Prop} [Decidable c] {s t u : State} (ht : t.fab = s.fab) (hu : u.fab = s.fab) :
    (if c then t else u).fab = s.fab := by
  split
  · exact ht
  · exact hu

theorem report_fab (s : State) {r : Report} (hcls : r.cls.val ≤ 2) : (report s r).fab = s.fab :=
  (WorkOnly.report (.refl s) hcls).fab_eq

@[simp] theorem setPte_fab (s : State) (i : Nat) (x : Pte) : (setPte s i x).fab = s.fab := by
  rw [setPte_eq]

theorem borrowDrop_fab (s : State) (j : Nat) : (borrowDrop s j).fab = s.fab := by
  rw [borrowDrop, zeroLease_eq]
  generalize windowPages j 16 = l
  exact foldl_fab (fun t i => setPte_fab t i _) (leasePages s j) s

theorem lenderFailed_fab (s : State) (c : Coord) : (lenderFailed s c).fab = s.fab := by
  refine foldl_fab (fun t j => ?_) _ s
  exact ite_fab ((report_fab _ (Nat.le_succ 1)).trans (borrowDrop_fab t j.val)) rfl

theorem writeFrame_fab (s : State) (f : Nat) (bs : Bytes) : (writeFrame s f bs).fab = s.fab := by
  unfold writeFrame
  split
  · rfl
  · exact foldl_fab (fun t l => by rw [writeLine_eq]) _ s

theorem installPage_fab (s : State) (p : PartI) (m : Memory) (i : Nat) : (installPage s p m i).fab = s.fab := by
  unfold installPage
  split
  · exact ite_fab rfl (writeFrame_fab ..)
  · rfl

theorem makeBind_fab (s : State) (i : Nat) (b : TagBind) : (makeBind s i b).fab = s.fab := by
  unfold makeBind
  rw [mirror_eq]

theorem loadMirrored_fab (s : State) (m : Memory) (p : PartI) : (loadMirrored s m p).fab = s.fab := by
  refine foldl_fab (fun t k => ?_) _ s
  split <;> rfl

theorem carryLeases_fab (s : State) (failed : Coord) (p : PartI) : (carryLeases s failed p).fab = s.fab := by
  refine foldl_fab (fun t j => ?_) _ s
  dsimp only
  split
  · split <;> rfl
  · rfl

theorem carryPages_fab (s : State) (m : Memory) (p : PartI) : (carryPages s m p).fab = s.fab := by
  refine foldl_fab (fun t i => ?_) _ s
  exact ite_fab rfl rfl

/-- A handed-over ring entry stands at its sequencer, or is reported. -/
theorem WorkOnly.handOver {s t : State} (n : Nat) (h : WorkOnly s t) {c : CtxId} : WorkOnly s (handOver n t c) := by
  induction n generalizing t with
  | zero => exact h
  | succ n ih =>
    unfold Machine.handOver
    refine .ite h (.ite (h.reportRej (Nat.le_refl 2)) (.ite h (ih ?_)))
    exact .setSeq (.setCtx h)

theorem WorkOnly.feed {s t : State} (h : WorkOnly s t) {c : CtxId} : WorkOnly s (feed t c) := by
  unfold Machine.feed
  exact .ite (.ite (h.handOver _) (h.handOver _).writeStatus) h

theorem WorkOnly.raiseVt {s t : State} (h : WorkOnly s t) {c : CtxId} : WorkOnly s (raiseVt t c) := .ite h.setCtx h

theorem WorkOnly.readDoorbell {s t : State} (h : WorkOnly s t) {c : CtxId} : WorkOnly s (readDoorbell t c) := by
  have hwork : ∀ {b : Bool} {u : State}, WorkOnly s u → WorkOnly s (if b = true then Machine.raiseVt u c else u) :=
    fun hu => .ite hu.raiseVt hu
  unfold Machine.readDoorbell
  exact .ite (h.report (Nat.le_refl 2)) (.ite (WorkOnly.feed (hwork h.setCtx)).onGain (hwork h.setCtx))

theorem setSeq_fab (s : State) (c : CtxId) (k : Nat) (x : Seq) : (setSeq s c k x).fab = s.fab := rfl

theorem installSeqs_fab (s : State) (c : CtxId) (m : Memory) : (installSeqs s c m).fab = s.fab := rfl

theorem restoreCtx_fab (s : State) (c : CtxId) (m live : Memory) : (restoreCtx s c m live).fab = s.fab := by
  unfold restoreCtx
  dsimp only
  split
  · rfl
  · refine (WorkOnly.onGain (WorkOnly.readDoorbell (.refl _))).fab_eq.trans ?_
    exact (installSeqs_fab ..).trans (foldl_fab (fun t k => setSeq_fab ..) _ _)

theorem installPart_fab (s : State) (failed : Coord) (p : PartI) : (installPart s failed p).fab = s.fab := by
  unfold installPart
  refine (foldl_fab (fun t c => ?_) _ _).trans ?_
  · exact ite_fab rfl (restoreCtx_fab ..)
  refine (foldl_fab (fun t i => ?_) _ _).trans ((loadMirrored_fab ..).trans ?_)
  · exact ite_fab (makeBind_fab ..) rfl
  refine (foldl_fab (fun t i => installPage_fab ..) _ _).trans ((carryPages_fab ..).trans ((carryLeases_fab ..).trans ?_))
  refine foldl_fab (fun t i => ?_) _ s
  exact ite_fab rfl rfl

theorem send_fab (s : State) (m : Sent) : (send s m).fab = s.fab := rfl

/-- The device that takes over acts for the failed one, whose incarnation rises. -/
theorem takeOver_fab (s : State) (failed : Coord) : (takeOver s failed).fab = { s.fab with
    acting := some failed, inc := Tbl.set 0 s.fab.inc failed.toNat (Tbl.get 0 s.fab.inc failed.toNat + 1) } := by
  have hsent : ∀ (l : List Coord) (inc : BitVec 8), (l.foldl (fun t d => send t (.takeover d failed inc s.sec.coord)) s).fab = s.fab :=
    fun l inc => foldl_fab (fun t d => send_fab ..) l s
  unfold takeOver
  refine (report_fab _ (Nat.le_succ 1)).trans ?_
  refine (foldl_fab (fun t p => installPart_fab t failed p) _ _).trans ?_
  refine (report_fab _ (Nat.zero_le 2)).trans ?_
  dsimp only
  rw [hsent]

theorem takeOver_tstate (s : State) (failed : Coord) : (takeOver s failed).res.tstate = 4 ∨ (takeOver s failed).res.tstate = 5 := by
  unfold takeOver
  dsimp only
  rw [sameButRings_report (by simp only [devReport]; decide) Nat.one_lt_two]
  dsimp only
  split
  · exact Or.inr rfl
  · exact Or.inl rfl

/-- A failed device's leases end before its protector acts for it: the incarnation rises by one. -/
theorem takeOver_acts {s u : State} {who : Coord} (hu : u.fab = s.fab) :
    (takeOver u who).fab.acting = some who ∧
    Tbl.get 0 (takeOver u who).fab.inc who.toNat = Tbl.get 0 s.fab.inc who.toNat + 1 ∧
    ((takeOver u who).res.tstate = 4 ∨ (takeOver u who).res.tstate = 5) := by
  refine ⟨?_, ?_, takeOver_tstate ..⟩
  · rw [takeOver_fab]
  · rw [takeOver_fab, hu]
    exact (Tbl.get_set ..).trans (if_pos rfl)

/-! ### What a declared failure does (R351) -/

/-- The state in which a failure is acted on: the device is no longer heard, and its leases have ended. -/
def afterLoss (s : State) (who : Coord) : State :=
  lenderFailed (if inTray s who
    then { s with res := { s.res with heard := s.res.heard &&& ~~~(BitVec.ofNat 5 (2 ^ cSlot who)) } } else s) who

theorem afterLoss_fab (s : State) (who : Coord) : (afterLoss s who).fab = s.fab :=
  (lenderFailed_fab ..).trans (ite_fab rfl rfl)

theorem declareFailed_taken {s : State} {who : Coord} {reserve : Option Coord} (hne : who ≠ s.sec.coord) (hmay : mayTake s who = true) :
    declareFailed s who reserve = takeOver (afterLoss s who) who := by
  rw [declareFailed, if_neg hne]
  exact if_pos hmay

theorem declareFailed_exposed {s : State} {who : Coord} {reserve : Option Coord} (hne : who ≠ s.sec.coord) (hrole : s.res.role = 0)
    (hmode : s.res.mode ≠ 0) (hwho : who = protectorOf s) :
    declareFailed s who reserve = exposeTray (afterLoss s who) reserve := by
  have hmay : ¬ mayTake s who = true := by simp [mayTake, hrole]
  rw [declareFailed, if_neg hne]
  dsimp only
  rw [if_neg hmay, if_pos ⟨hrole, hmode, hwho⟩, afterLoss]

theorem declareFailed_noted {s : State} {who : Coord} {reserve : Option Coord} (hne : who ≠ s.sec.coord) (hmay : mayTake s who = false)
    (hother : s.res.role ≠ 0 ∨ s.res.mode = 0 ∨ who ≠ protectorOf s) : declareFailed s who reserve = afterLoss s who := by
  have hmay' : ¬ mayTake s who = true := by rw [hmay]; decide
  have hno : ¬ (s.res.role = 0 ∧ s.res.mode ≠ 0 ∧ who = protectorOf s) := by
    rintro ⟨hrole, hmode, hwho⟩
    rcases hother with h | h | h
    · exact h hrole
    · exact hmode h
    · exact h hwho
  rw [declareFailed, if_neg hne]
  dsimp only
  rw [if_neg hmay', if_neg hno, afterLoss]

/-! ### Enabling -/

/-- The checks of a write that enables protection (R336). -/
def enableOk (s : State) (p : PartI) (r : ResPart) (agree : Bool) (ptab : BitVec 44) (bs : Bytes) : Bool :=
  decide ((getPart s p).state = .active) && agree && decide (bs.length = 512) && decide (ptab.toNat % 64 = 0) &&
    protTableOk s p (protWords bs) (protTable bs) && poolOk s p r (protTable bs)

/-- Protection that is off in a mode that has a protector may begin. -/
theorem mayBegin {s : State} {r : ResPart} (hoff : r.state = .off) (hmode : s.res.mode = 1 ∨ s.res.mode = 2) :
    ¬ (r.state ≠ .off ∨ s.res.mode = 0 ∨ s.res.mode = 3) := by
  rintro (h | h | h)
  · exact h hoff
  · rw [h] at hmode
    exact absurd hmode (by decide)
  · rw [h] at hmode
    exact absurd hmode (by decide)

theorem pcfgWrite_enables {s w u : State} {p : PartI} {v : BitVec 64} {agree : Bool} {cert bs : Bytes} (hen : v.getLsbD 0 = true)
    (hoff : (getRes s p).state = .off) (hmode : s.res.mode = 1 ∨ s.res.mode = 2)
    (hread : readUni s p (v.extractLsb' 4 44).toNat 512 = .ok bs)
    (hok : enableOk s p { getRes s p with en := true, ptab := v.extractLsb' 4 44 } agree (v.extractLsb' 4 44) bs = true)
    (hw : w = (if s.res.role = 0 then takeCert s cert else zeroParity s p (protTable bs)))
    (hu : u = sealKeys (setRes w p { getRes s p with
      en := true, ptab := v.extractLsb' 4 44, state := .seeding, table := protTable bs, seeded := false, dirty := [], old := []
      shadow := [] }) p) :
    pcfgWrite s p v agree cert =
      { u with res := { u.res with tstate := if u.res.tstate = 0 ∨ u.res.tstate = 5 then 1 else u.res.tstate } } := by
  have hen' : ¬ (!v.getLsbD 0) = true := by rw [hen]; decide
  rw [pcfgWrite]
  refine (if_neg hen').trans ((if_neg (mayBegin hoff hmode)).trans ?_)
  rw [hread]
  refine (if_pos hok).trans ?_
  rw [hu, hw]

theorem pcfgWrite_disagrees {s : State} {p : PartI} {v : BitVec 64} {cert : Bytes} (hen : v.getLsbD 0 = true)
    (hoff : (getRes s p).state = .off) (hmode : s.res.mode = 1 ∨ s.res.mode = 2) :
    pcfgWrite s p v false cert =
      report (setRes s p { getRes s p with en := true, ptab := v.extractLsb' 4 44 }) (partReport Code.eResCfg deferred p 19 0 []) := by
  have hen' : ¬ (!v.getLsbD 0) = true := by rw [hen]; decide
  rw [pcfgWrite]
  refine (if_neg hen').trans ((if_neg (mayBegin hoff hmode)).trans ?_)
  refine if_neg ?_
  simp only [Bool.and_false, Bool.false_and, Bool.false_eq_true, not_false_eq_true]

/-! ### Deltas -/

/-- The first delta of a piece makes its shadow from the old parity (R344). -/
theorem shadowDelta_new {s : State} {p : PartI} {k : Nat} {delta : Bytes} (hnew : ∀ h ∈ (getRes s p).shadow, h.piece ≠ k) :
    shadowDelta s p k false delta = keepBytes (setRes s p { getRes s p with
      shadow := (getRes s p).shadow ++ [{ piece := k, frame := freeFrame (getRes s p), whole := false }] }) p
      (shadowAddr s p (freeFrame (getRes s p))) (xorBytes (pieceBytes s p k) delta) := by
  have hnone : (getRes s p).shadow.find? (fun h => h.piece == k) = none :=
    List.find?_eq_none.mpr (fun h hh => by simpa using hnew h hh)
  have hall : (getRes s p).shadow.filter (fun h => h.piece != k) = (getRes s p).shadow :=
    List.filter_eq_self.mpr (fun h hh => by simpa using hnew h hh)
  rw [shadowDelta]
  dsimp only
  rw [hnone, hall]
  rfl

/-- A later delta goes onto the shadow (R344). -/
theorem shadowDelta_held {s : State} {p : PartI} {k : Nat} {delta : Bytes} {h : Shadow}
    (hold : (getRes s p).shadow.find? (fun h => h.piece == k) = some h) (hwhole : h.whole = false) :
    shadowDelta s p k false delta = keepBytes (setRes s p { getRes s p with
      shadow := (getRes s p).shadow.filter (fun h => h.piece != k) ++ [h] }) p
      (shadowAddr s p h.frame) (xorBytes (shadowBytes s p h) delta) := by
  have hpiece : h.piece = k := by simpa using List.find?_some hold
  have hself : ({ piece := k, frame := h.frame, whole := false } : Shadow) = h := by rw [← hpiece, ← hwhole]
  have hany : ¬ (some h).any (fun h => h.whole && !false) = true := by simp [hwhole]
  rw [shadowDelta]
  dsimp only
  rw [hold, if_neg hany]
  dsimp only
  rw [hself]
  rfl

/-! ### Rebuild -/

/-- The next piece that can be written is rebuilt; the last one is reported (R355, R356). -/
theorem execRebuildPiece_rebuilt {survivors : Bytes} {pieces wanted : List Nat} {s w t u : State} {k : Nat} {p : PartI}
    (hrole : s.res.role ≠ 0)
    (hwanted : wanted = pieces.filter (fun k => s.res.unrebuilt.contains k && !s.res.demand.contains k))
    (hw : w = { s with res := { s.res with demand := s.res.demand ++ wanted } })
    (hk : (w.res.demand ++ w.res.unrebuilt).head? = some k) (hrun : unitsRun s = true) (hlen : survivors.length = parityPiece)
    (hp : p = Fin.ofNat 8 (k / 2 ^ 26))
    (ht : writeHome w p (pieceAddr (k % 2 ^ 26)) (xorBytes (pieceBytes w p (k % 2 ^ 26)) survivors) = .ok t)
    (hu : u = { t with res := { t.res with
      unrebuilt := t.res.unrebuilt.filter (· != k), demand := t.res.demand.filter (· != k) } }) :
    execRebuildPiece survivors pieces s = .next (if u.res.unrebuilt = []
      then report { u with res := { u.res with tstate := 5 } } (devReport Code.evRebuilt corrected 19 0 []) else u) := by
  have hrunw : unitsRun w = true := by rw [hw]; exact hrun
  have hk' : (s.res.demand ++ wanted ++ s.res.unrebuilt).head? = some k := by rw [hw] at hk; exact hk
  have hleft : u.res.unrebuilt = t.res.unrebuilt.filter (· != k) := by rw [hu]
  rw [execRebuildPiece]
  dsimp only
  rw [if_neg hrole, ← hwanted, ← hw, hk']
  dsimp only
  rw [if_pos (And.intro hrunw hlen), ← hp, ht]
  dsimp only
  rw [hleft, ← hu]
  by_cases hlast : t.res.unrebuilt.filter (· != k) = []
  · rw [if_pos hlast, if_pos hlast, hu]
  · rw [if_neg hlast, if_neg hlast]

/-! ### The obligation -/

/-- Enabling and seeding. -/
theorem protection_enables (port : RlPort) (p : PartI) (value : BitVec 64) (cert : Bytes) (s w u : State) (bs : Bytes)
    (hmay : mayWrite s port (6 + p.val) = true) (hen : value.getLsbD 0 = true) (hoff : (getRes s p).state = .off)
    (hmode : s.res.mode = 1 ∨ s.res.mode = 2) (hactive : (getPart s p).state = .active)
    (hread : readUni s p (value.extractLsb' 4 44).toNat 512 = .ok bs) (hlen : bs.length = 512)
    (halign : (value.extractLsb' 4 44).toNat % 64 = 0) (htable : protTableOk s p (protWords bs) (protTable bs) = true)
    (hpool : poolOk s p { getRes s p with en := true, ptab := value.extractLsb' 4 44 } (protTable bs) = true)
    (hw : w = (if s.res.role = 0 then takeCert s cert else zeroParity s p (protTable bs)))
    (hu : u = sealKeys (setRes w p { getRes s p with
      en := true, ptab := value.extractLsb' 4 44, state := .seeding, table := protTable bs, seeded := false, dirty := [], old := []
      shadow := [] }) p) :
    exec (.protectionEnable port p value true cert) s =
      .next { u with res := { u.res with tstate := if u.res.tstate = 0 ∨ u.res.tstate = 5 then 1 else u.res.tstate } } := by
  have hok : enableOk s p { getRes s p with en := true, ptab := value.extractLsb' 4 44 } true (value.extractLsb' 4 44) bs = true := by
    rw [enableOk, htable, hpool, decide_eq_true hactive, decide_eq_true hlen, decide_eq_true halign]
    rfl
  rw [exec_protectionEnable, execProtectionEnable, guarded_of_mayWrite hmay, pcfgWrite_enables hen hoff hmode hread hok hw hu]

theorem execParityDelta_takes {src : Coord} {p : PartI} {piece : BitVec 32} {whole : Bool} {delta : Bytes} {s : State}
    (hrun : unitsRun s = true) (hprot : protects s p = true) (hlen : delta.length = parityPiece) :
    execParityDelta src p piece whole delta s =
      if (getRes s p).state = .seeding then .next (keepBytes s p (pieceAddr piece.toNat) (xorBytes (pieceBytes s p piece.toNat) delta))
      else .next (shadowDelta s p piece.toNat whole delta) := by
  rw [execParityDelta]
  exact if_pos ⟨hrun, hprot, hlen⟩

/-- A word with no bytes that a piece is RESYNC is no delta (R345). -/
theorem execParityDelta_resync {src : Coord} {p : PartI} {piece : BitVec 32} {s : State} (hrun : unitsRun s = true)
    (hrole : s.res.role = 0) (hst : (getRes s p).state = .prot) :
    execParityDelta src p piece true [] s = .next (resyncPiece s p piece.toNat) := by
  have hlen : ¬ (unitsRun s = true ∧ protects s p = true ∧ ([] : Bytes).length = parityPiece) := fun h => absurd h.2.2 (by decide)
  rw [execParityDelta]
  exact (if_neg hlen).trans (if_pos ⟨hrun, hrole, hst, rfl, rfl⟩)

theorem execMirrorWrite_kept {src : Coord} {p : PartI} {addr : BitVec 64} {data : Bytes} {s : State} {m : Mirror} {live : Memory}
    (hrun : unitsRun s = true) (hwhy : protects s p = true ∨ addr.toNat / 2 ^ 60 = 12) (hm : m = getMirror s src p)
    (hlive : live = Memory.write m.live addr.toNat data) :
    execMirrorWrite src p addr data s = .next { s with res := { s.res with mirrors :=
      (Tbl.set {} s.res.mirrors (mirrorKey src p)
        { m with live := live, pend := if addr.toNat / 2 ^ 60 = 3 then live else m.pend }) } } := by
  subst hlive hm
  rw [execMirrorWrite]
  exact if_pos (And.intro hrun hwhy)

theorem execTakeover_surviving {failed : Coord} {inc : BitVec 8} {holder : Coord} {s t u v : State} (hrun : linksRun s = true)
    (hne : failed ≠ s.sec.coord)
    (ht : t = ((upto 36).filter (fun p => (wiredPeer s.sec.coord p).any (fun q => q.1 == failed.toNat))).foldl
      (fun t p => setFp t p { getFp t p with en := false, state := .disabled }) s)
    (hu : u = (if incNewer inc (Tbl.get 0 t.fab.inc failed.toNat)
      then { t with fab := { t.fab with inc := Tbl.set 0 t.fab.inc failed.toNat inc } } else t))
    (hv : v = (if holder.toNat = failed.toNat / 8 * 8 + 4 then u else writeOverride u failed holder)) :
    execTakeover failed inc holder s = .next (serveNew (lenderFailed (surviveTray v failed) failed) failed) := by
  rw [execTakeover, if_pos (And.intro hrun hne)]
  dsimp only
  rw [← ht, ← hu, ← hv]

/-- A failure that the device learns of, from either command. -/
theorem loss_is_declared {who : Coord} {reserve : Option Coord} {s : State} (hrun : unitsRun s = true) :
    exec (.heartbeatLoss who reserve) s = .next (declareFailed s who reserve) ∧ exec (.down who) s = .next (declareFailed s who none) := by
  rw [exec_heartbeatLoss, execHeartbeatLoss, exec_down, execDown]
  exact ⟨if_pos hrun, if_pos hrun⟩

/-- Settles O40, command by command. -/
theorem protectionActs : Obligations.ProtectionActs := by
  unfold Obligations.ProtectionActs
  refine ⟨?enabled, ?disagrees, ?seeded, ?seedDelta, ?newShadow, ?heldShadow, ?resync, ?mirrored, ?beat, ?loss, ?lossTaken, ?downTaken,
    ?takeover, ?rebuilt, ?survivor⟩
  case enabled =>
    intro port p value agree cert s w u bs r l hmay hen hr hren hoff hmode hagree hactive hread hlen halign hl htable hpool hw hu
    subst hr hl hagree
    exact protection_enables port p value cert s w u bs hmay hen hoff hmode hactive hread hlen halign htable hpool hw hu
  case disagrees =>
    intro port p value cert s hmay hen _ hoff hmode
    rw [exec_protectionEnable, execProtectionEnable, guarded_of_mayWrite hmay, pcfgWrite_disagrees hen hoff hmode]
  case seeded =>
    intro p s u hrun hst hseeded hu
    have hseeded' : (!(getRes s p).seeded) = true := by rw [hseeded]; rfl
    rw [exec_seedingDone, execSeedingDone, hu]
    exact if_pos ⟨hrun, hst, hseeded'⟩
  case seedDelta =>
    intro src p piece whole delta s t l hrun hprot hlen hst hl ht
    rw [exec_parityDelta, execParityDelta_takes hrun hprot hlen, if_pos hst, keepBytes, hl, ht]
  case newShadow =>
    intro src p piece delta s hrun hprot hlen hst hnew
    rw [exec_parityDelta, execParityDelta_takes hrun hprot hlen, if_neg hst, shadowDelta_new hnew]
  case heldShadow =>
    intro src p piece delta s h hrun hprot hlen hst hold hwhole
    refine ⟨_, ?_, shadowDelta_held hold hwhole⟩
    rw [exec_parityDelta, execParityDelta_takes hrun hprot hlen, if_neg hst]
  case resync =>
    intro src p piece s hrun hrole hst
    rw [exec_parityDelta, execParityDelta_resync hrun hrole hst]
  case mirrored =>
    intro src p addr data s m live hrun hwhy hm hlive
    rw [exec_mirrorWrite, execMirrorWrite_kept hrun hwhy hm hlive]
  case beat =>
    intro s hrun
    rw [exec_heartbeatSend, execHeartbeatSend]
    exact if_pos hrun
  case loss =>
    intro who reserve s u hrun hne hu
    obtain ⟨hloss, hdown⟩ := loss_is_declared (who := who) (reserve := reserve) hrun
    rw [hu, hloss, hdown, ← afterLoss]
    refine ⟨fun hmay => ?_, fun hrole hmode hwho => ?_, fun hmay hother => ?_⟩
    · rw [declareFailed_taken hne hmay, declareFailed_taken hne hmay]
      exact ⟨rfl, rfl⟩
    · rw [declareFailed_exposed hne hrole hmode hwho, declareFailed_exposed hne hrole hmode hwho]
      exact ⟨rfl, rfl⟩
    · rw [declareFailed_noted hne hmay hother, declareFailed_noted hne hmay hother]
      exact ⟨rfl, rfl⟩
  case lossTaken =>
    intro who reserve s hrun hne hmay
    refine ⟨takeOver (afterLoss s who) who, ?_, takeOver_acts (afterLoss_fab s who)⟩
    rw [(loss_is_declared hrun).1, declareFailed_taken hne hmay]
  case downTaken =>
    intro who s hrun hne hmay
    refine ⟨takeOver (afterLoss s who) who, ?_, takeOver_acts (afterLoss_fab s who)⟩
    rw [(loss_is_declared (reserve := none) hrun).2, declareFailed_taken hne hmay]
  case takeover =>
    intro failed inc holder s t u v hrun hne ht hu hv
    rw [exec_takeover, execTakeover_surviving hrun hne ht hu hv]
  case rebuilt =>
    intro survivors pieces wanted s w t u k p hrole hwanted hw hk hrun hlen hp ht hu
    rw [exec_rebuildPiece, execRebuildPiece_rebuilt hrole hwanted hw hk hrun hlen hp ht hu]
  case survivor =>
    intro survivors pieces s hrole hrun
    rw [exec_rebuildPiece, execRebuildPiece]
    exact (if_pos hrole).trans (if_pos hrun)

end Sys2Proof.Machine

/-! PROOFS. Boot, key slots and attestation (O4), and the plans of a rolling update (O4, O5). -/

namespace Sys2Proof.Machine

/-! ### GO -/

/-- The fabric port of boot is brought up for SOURCE 1 only, and bears on no other part of the state (R386). -/
theorem setBootPort_eq (s : State) (st : PortState) : setBootPort s st = { s with fab := (setBootPort s st).fab } := by
  unfold setBootPort
  split <;> rfl

theorem setBootPort_off {s : State} {st : PortState} (h : s.sec.source = false) : setBootPort s st = s := by
  have h' : ¬ s.sec.source = true := by rw [h]; decide
  exact if_neg h'

theorem bootCmdWrite_go {s : State} {port : RlPort} {v : BitVec 32} (hstage : s.sec.stage = 0) (hgo : v.getLsbD 0 = true) :
    bootCmdWrite s port v = setBootPort { s with sec := { s.sec with
      stage := 1, bootPort := port, source := v.getLsbD 1
      bport := if v.getLsbD 1 then v.extractLsb' 2 3 else 0 } } .detect := by
  have hok : ¬ (s.sec.stage ≠ 0 ∨ (!v.getLsbD 0) = true) := by
    rw [hgo]
    rintro (h | h)
    · exact h hstage
    · exact Bool.noConfusion h
  exact if_neg hok

theorem noteTie_sec (s : State) (port : RlPort) (o : Nat) : (noteTie s port o).sec = s.sec := by
  unfold noteTie
  split <;> rfl

theorem execBootGo_mayBoot {s : State} {port : RlPort} {v : BitVec 32} (hmay : mayBoot s port = true) :
    execBootGo port v s = .next (bootCmdWrite (noteTie s port 0x3200008) port v) := by
  rw [execBootGo, guardedBoot_of_mayBoot (by rw [mayBoot_noteTie, hmay])]

/-! ### The stages (R387) -/

/-- A halt shows in the stage and its code, and closes the boot's fabric port. -/
theorem bootHalt_eq (s : State) (code : BitVec 16) :
    bootHalt s code = { s with sec := { s.sec with stage := 8, ecode := code }, fab := (bootHalt s code).fab } := by
  unfold bootHalt
  dsimp only
  split
  · rw [setBootPort_eq]
  · rfl

theorem bootHalt_sec (s : State) (code : BitVec 16) : (bootHalt s code).sec = { s.sec with stage := 8, ecode := code } := by
  rw [bootHalt_eq]

theorem bootHalt_ryutil {s : State} {code : BitVec 16} (h : s.sec.source = false) :
    bootHalt s code = { s with sec := { s.sec with stage := 8, ecode := code } } := by
  rw [bootHalt, setBootPort_off h, ite_self]

/-- After stage 2 a halt leaves the ports. -/
theorem bootHalt_late {s : State} {code : BitVec 16} (h : 3 ≤ s.sec.stage.toNat) :
    bootHalt s code = { s with sec := { s.sec with stage := 8, ecode := code } } := by
  rw [bootHalt, if_neg (by omega)]

/-- The security block after stage 1, by the first check that fails (R383, R385). -/
theorem stageKeys_sec {s : State} {objs : BootObjects} {hw : BootHw} (hstage : s.sec.stage = 1) :
    (stageKeys s objs hw).sec = (
      if (s.sec.source = true ∧ objs.aligned = false) ∨ objArrived s objs 0 = false
        then { s.sec with stage := 8, ecode := Code.eBootImage }
      else if hw.seedOk = false then { s.sec with stage := 8, ecode := Code.eBootPuf }
      else if idCertOk (objRead s objs 0 2048 272) = false then { s.sec with stage := 8, ecode := Code.eBootCert }
      else { s.sec with keysMade := true, stage := 2 }) := by
  have hnext : s.sec.stage + 1 = 2 := by rw [hstage]; rfl
  unfold stageKeys
  simp only [Bool.or_eq_true, Bool.and_eq_true, Bool.not_eq_true']
  split
  · exact bootHalt_sec ..
  split
  · exact bootHalt_sec ..
  split
  · exact bootHalt_sec ..
  · rw [setBootPort_eq, nextStage]
    dsimp only
    rw [hnext]

/-- Over Ryutil stage 1 changes the security block only. -/
theorem stageKeys_ryutil {s : State} {objs : BootObjects} {hw : BootHw} (h : s.sec.source = false) :
    stageKeys s objs hw = { s with sec := (stageKeys s objs hw).sec } := by
  unfold stageKeys
  split
  · rw [bootHalt_ryutil h]
  split
  · rw [bootHalt_ryutil h]
  split
  · rw [bootHalt_ryutil h]
  · rw [setBootPort_off (by exact h), nextStage]

/-- The security block after stage 2, by the first check that fails (R389-R391). -/
theorem stageVerify_sec {s : State} {objs : BootObjects} {m h : Bytes} (hstage : s.sec.stage = 2) (hm : m = objRead s objs 1 0 1024)
    (hh : h = objRead s objs 2 0 4096) :
    (stageVerify s objs).sec = (
      if objArrived s objs 1 = false ∨ objArrived s objs 2 = false then { s.sec with stage := 8, ecode := Code.eBootImage }
      else if manifestOk m = false then { s.sec with stage := 8, ecode := Code.eBootManifest }
      else if imageOk h (objRead s objs 2) = false then { s.sec with stage := 8, ecode := Code.eBootImage }
      else if versionBad m h = true then { s.sec with stage := 8, ecode := Code.eBootVersion }
      else { takeObjects s.sec m h with stage := 3 }) := by
  have hnext : s.sec.stage + 1 = 3 := by rw [hstage]; rfl
  unfold stageVerify
  dsimp only
  rw [← hm, ← hh]
  simp only [Bool.or_eq_true, Bool.not_eq_true']
  split
  · exact bootHalt_sec ..
  split
  · exact bootHalt_sec ..
  split
  · exact bootHalt_sec ..
  split
  · exact bootHalt_sec ..
  · rw [setBootPort_eq, nextStage, ← hnext]
    rfl

/-- A device that passes stage 2 has the manifest's role. -/
theorem stageVerify_role {s : State} {objs : BootObjects} {m : Bytes} (hm : m = objRead s objs 1 0 1024)
    (h3 : (stageVerify s objs).sec.stage = 3) : (stageVerify s objs).res.role = BitVec.ofNat 2 (cutNat m 24 4 / 2 ^ 17) := by
  have hhalt : ∀ code, (bootHalt s code).sec.stage ≠ 3 := fun code => by
    rw [bootHalt_sec]
    exact (by decide : (8#4) ≠ 3)
  unfold stageVerify at h3 ⊢
  dsimp only at h3 ⊢
  split at h3
  · exact absurd h3 (hhalt _)
  split at h3
  · exact absurd h3 (hhalt _)
  split at h3
  · exact absurd h3 (hhalt _)
  split at h3
  · exact absurd h3 (hhalt _)
  next h1 h2 h4 h5 => rw [if_neg h1, if_neg h2, if_neg h4, if_neg h5, hm]

/-- Stage 3 changes the fabric ports only, each by the manifest (R389). -/
theorem foldl_setFp_sec (f : State → Nat → FPortSt) (l : List Nat) (s : State) :
    (l.foldl (fun t p => setFp t p (f t p)) s).sec = s.sec := by
  induction l generalizing s with
  | nil => rfl
  | cons p l ih => exact ih _

theorem getFp_foldl_setFp (g : Sec → Nat → FPortSt → FPortSt) (l : List Nat) (hl : l.Nodup) (s : State) (q : Nat) :
    getFp (l.foldl (fun t p => setFp t p (g t.sec p (getFp t p))) s) q =
      if q ∈ l then g s.sec q (getFp s q) else getFp s q := by
  induction l generalizing s with
  | nil => rfl
  | cons p l ih =>
    obtain ⟨hp, hl'⟩ := List.nodup_cons.mp hl
    have hsec : (setFp s p (g s.sec p (getFp s p))).sec = s.sec := rfl
    rw [List.foldl_cons, ih hl', hsec, getFp_setFp]
    by_cases hq : q = p
    · subst hq
      rw [if_neg hp, if_pos rfl, if_pos (List.mem_cons_self ..)]
    · rw [if_neg hq]
      simp only [List.mem_cons, hq, false_or]

theorem getFp_applyManifest (s : State) (p : FPort) : getFp (applyManifest s) p.val =
    { getFp s p.val with kfp2 := s.sec.kfp2.getLsbD p.val, preset := presetOf s.sec.preset p.val } := by
  have hmem : p.val ∈ upto 36 := List.mem_range.mpr p.isLt
  exact (getFp_foldl_setFp (fun x p y => { y with kfp2 := x.kfp2.getLsbD p, preset := presetOf x.preset p }) (upto 36)
    List.nodup_range s p.val).trans (if_pos hmem)

theorem PowerOnly.agingSet {s t : State} (h : PowerOnly s t) {q : Nat} {l : List Nat} : PowerOnly s (agingSet t q l) := h.quadChange

theorem PowerOnly.sec_eq {s t : State} (h : PowerOnly s t) : t.sec = s.sec := by
  rw [h]

theorem nextStage_stage (s : State) : (nextStage s).sec.stage = s.sec.stage + 1 := rfl

theorem foldl_agingSet_sec (hw : BootHw) (l : List Nat) (t : State) :
    (l.foldl (fun t q => agingSet t q [hw.slowdown.getD q 0]) t).sec = t.sec :=
  (PowerOnly.foldl (fun _ _ hu => hu.agingSet) l (.refl t)).sec_eq

theorem foldl_agingSet_stage (hw : BootHw) (s : State) (words : Tbl (BitVec 64)) :
    ((upto 32).foldl (fun t q => agingSet t q [hw.slowdown.getD q 0])
      { s with sec := { s.sec with remap := words } }).sec.stage = s.sec.stage := by
  rw [foldl_agingSet_sec]

/-- Stage 4 takes the remap and measures quads. -/
theorem stageSelftest_stage {s : State} {hw : BootHw} (hstage : s.sec.stage = 4) : (stageSelftest s hw).sec.stage = 5 := by
  have hnext : s.sec.stage + 1 = 5 := by rw [hstage]; rfl
  rw [stageSelftest, nextStage_stage, foldl_agingSet_stage, hnext]

/-- Stage 5 leaves the memories zeroed, whatever ports are enabled after it. -/
theorem fpCtrlWrite_fabric (s : State) (p : Nat) (v : BitVec 32) : FabricOnly s (fpCtrlWrite s p v) :=
  .ite (.setFp (.refl s)) (.ite (.setFp (.refl s)) (.ite (.setFp (.setFp (.refl s))) (.setFp (.refl s))))

theorem stageMemory_fabric (s : State) :
    FabricOnly (nextStage { s with uni := [], mem := { s.mem with poison := [] } }) (stageMemory s) :=
  .foldl (fun _ _ hu => .ite (hu.trans (fpCtrlWrite_fabric ..)) hu) _ (.refl _)

theorem stageMemory_leaves {s : State} (hstage : s.sec.stage = 5) :
    (stageMemory s).sec.stage = 6 ∧ (stageMemory s).uni = [] ∧ (stageMemory s).mem.poison = [] := by
  have hnext : s.sec.stage + 1 = 6 := by rw [hstage]; rfl
  rw [stageMemory_fabric]
  exact ⟨hnext, rfl, rfl⟩

/-- The end of a stage, by its number. -/
theorem execBootStageEnd_stage {objs : BootObjects} {hw : BootHw} {s : State} {k : BitVec 4} (hreset : s.gl.inReset = false)
    (hk : s.sec.stage = k) :
    execBootStageEnd objs hw s =
      match k.toNat with
      | 1 => .next (stageKeys s objs hw)
      | 2 => .next (stageVerify s objs)
      | 3 => if hw.ok then .next (nextStage (applyManifest s)) else .next (bootHalt s Code.eBootHw)
      | 4 => if hw.ok ∧ sparesOk hw then .next (stageSelftest s hw) else .next (bootHalt s Code.eBootHw)
      | 5 => if hw.ok then .next (stageMemory s) else .next (bootHalt s Code.eBootHw)
      | 6 => .next (nextStage s)
      | _ => .next s := by
  have hreset' : ¬ s.gl.inReset = true := by rw [hreset]; decide
  subst hk
  exact if_neg hreset'

/-- Hardware that does not pass in stages 3 to 5 halts boot. -/
theorem execBootStageEnd_badHw {objs : BootObjects} {hw : BootHw} {s : State} (hreset : s.gl.inReset = false)
    (hlo : 3 ≤ s.sec.stage.toNat) (hhi : s.sec.stage.toNat ≤ 5) (hbad : hw.ok = false ∨ s.sec.stage = 4 ∧ sparesOk hw = false) :
    execBootStageEnd objs hw s = .next { s with sec := { s.sec with stage := 8, ecode := Code.eBootHw } } := by
  rw [← bootHalt_late hlo]
  have hcases : s.sec.stage = 3 ∨ s.sec.stage = 4 ∨ s.sec.stage = 5 := by
    rw [← BitVec.toNat_inj, ← BitVec.toNat_inj, ← BitVec.toNat_inj]
    change s.sec.stage.toNat = 3 ∨ s.sec.stage.toNat = 4 ∨ s.sec.stage.toNat = 5
    omega
  rcases hcases with h | h | h
  · have hok : ¬ hw.ok = true := by
      rcases hbad with hb | ⟨h4, -⟩
      · rw [hb]; decide
      · exact absurd (h.symm.trans h4) (by decide)
    rw [execBootStageEnd_stage hreset h]
    exact if_neg hok
  · have hok : ¬ (hw.ok = true ∧ sparesOk hw = true) := by
      rintro ⟨hok, hspares⟩
      rcases hbad with hb | ⟨-, hs⟩
      · rw [hb] at hok; exact Bool.noConfusion hok
      · rw [hs] at hspares; exact Bool.noConfusion hspares
    rw [execBootStageEnd_stage hreset h]
    exact if_neg hok
  · have hok : ¬ hw.ok = true := by
      rcases hbad with hb | ⟨h4, -⟩
      · rw [hb]; decide
      · exact absurd (h.symm.trans h4) (by decide)
    rw [execBootStageEnd_stage hreset h]
    exact if_neg hok

/-! ### Key slots (R393) -/

/-- The fields of a write of SEC_KEY_CMD. -/
theorem bitsOf_low_two (n : Nat) : bitsOf n 0 2 = n % 4 := by
  simp [bitsOf]

theorem keyCmdWrite_load {s : State} {port : RlPort} {v : BitVec 32} (h : v.toNat % 4 = 1) :
    keyCmdWrite s port v = keyLoad s port (Fin.ofNat 8 (v.toNat / 4 % 8)) := by
  rw [keyCmdWrite, bitsOf_low_two, h]
  rfl

theorem keyCmdWrite_clear {s : State} {port : RlPort} {v : BitVec 32} (h : v.toNat % 4 = 2) :
    keyCmdWrite s port v = keyClear s := by
  rw [keyCmdWrite, bitsOf_low_two, h]
  rfl

/-- A key is resealed without a change of the security block. -/
theorem sealKey_sec (s : State) (k : Fin 128) : (sealKey s k).sec = s.sec := by
  unfold sealKey
  dsimp only
  split
  · rw [mirror_eq]
    rfl
  · rfl

theorem keyLoad_opened {s : State} {port : RlPort} {p : PartI} {key : BitVec 256}
    (hopen : openBlob 0 (readComp s port s.sec.keyAddr.toNat 144) = .ok key) (hfree : (getKey s s.sec.keySel).valid = false)
    (hactive : (getPart s p).state = .active) :
    (keyLoad s port p).sec = { s.sec with
      keys := Tbl.set {} s.sec.keys s.sec.keySel.val { valid := true, part := p, key := key }, keyErr := 0 } := by
  have hfree' : ¬ (getKey s s.sec.keySel).valid = true := by rw [hfree]; decide
  rw [keyLoad, hopen]
  dsimp only
  rw [if_neg hfree', if_neg (not_not_intro hactive), sealKey_sec]
  rfl

theorem keyLoad_refused {s : State} {port : RlPort} {p : PartI} {c : BitVec 3}
    (hopen : openBlob 0 (readComp s port s.sec.keyAddr.toNat 144) = .error c) :
    keyLoad s port p =
      report { s with sec := { s.sec with keyErr := c } } (devReport Code.eKeyLoad deferred 15 s.sec.keySel.val []) := by
  rw [keyLoad, hopen]
  rfl

/-- A cleared slot is empty, and no other slot changes. -/
theorem keyClear_sec {s : State} (hfree : keyBound s s.sec.keySel = false) :
    (keyClear s).sec = { s.sec with keys := Tbl.set {} s.sec.keys s.sec.keySel.val {}, keyErr := 0 } := by
  have hfree' : ¬ keyBound s s.sec.keySel = true := by rw [hfree]; decide
  rw [keyClear]
  dsimp only
  rw [if_neg hfree']
  split
  · rw [mirror_eq]
    rfl
  · rfl

end Sys2Proof.Machine

/-! PROOFS. The plans of a rolling update (O5). -/

namespace Sys2Proof.Machine

/-! ### Plans (R396) -/

/-- A legal TAKEOVER is taken on for the coordinate's mirrored contexts. -/
theorem planWrite_takeover {s : State} {v : BitVec 32} {ready : Bool} {rev : BitVec 8} (hcmd : v.extractLsb' 0 2 = 1#2)
    (hslot : (v.extractLsb' 2 3).toNat < 4) (hrole : s.res.role = 1) (hst : s.res.tstate = 2) (hact : s.fab.acting = none)
    (hleft : s.res.plan.left = none) :
    planWrite s v ready rev = planStart s 1 (v.extractLsb' 2 3) (mirroredCtxs s (trayCoord s (v.extractLsb' 2 3).toNat)) := by
  rw [planWrite, hcmd]
  exact if_pos ⟨hrole, hst, hslot, hact, hleft⟩

/-- A legal HANDBACK copies the pages and is taken on for the contexts that run here. -/
theorem planWrite_handback {s : State} {v : BitVec 32} (hcmd : v.extractLsb' 0 2 = 2#2) (hslot : (v.extractLsb' 2 3).toNat < 4)
    (hact : s.fab.acting = some (trayCoord s (v.extractLsb' 2 3).toNat)) (hleft : s.res.plan.left = none) :
    planWrite s v true s.sec.detrev =
      planStart (copyPages s (trayCoord s (v.extractLsb' 2 3).toNat)) 2 (v.extractLsb' 2 3) (actingCtxs s) := by
  rw [planWrite, hcmd]
  exact if_pos ⟨hact, hslot, rfl, rfl, hleft⟩

theorem planWrite_otherRevision {s : State} {v : BitVec 32} {rev : BitVec 8} (hcmd : v.extractLsb' 0 2 = 2#2) (hrev : rev ≠ s.sec.detrev) :
    planWrite s v true rev = planRefuse s 2 (v.extractLsb' 2 3) := by
  rw [planWrite, hcmd]
  exact if_neg (fun h => hrev h.2.2.2.1)

/-- A plan with marks to wait for waits. -/
theorem planStart_waits {s : State} {cmd : BitVec 2} {slot : BitVec 3} {left : List Nat} (h : left ≠ []) :
    planStart s cmd slot left = { s with res := { s.res with plan := { cmd := cmd, slot := slot, left := some left } } } :=
  if_pos h

theorem planStart_takes (s : State) (slot : BitVec 3) :
    planStart s 1 slot [] = planTake { s with res := { s.res with plan := { cmd := 1, slot := slot, left := some [] } } } := by
  rw [planStart, if_neg (not_not_intro rfl)]
  exact if_pos rfl

theorem planStart_hands (s : State) (slot : BitVec 3) :
    planStart s 2 slot [] = planHand { s with res := { s.res with plan := { cmd := 2, slot := slot, left := some [] } } } := by
  rw [planStart, if_neg (not_not_intro rfl)]
  exact if_neg (by decide)

theorem planDone_done (s : State) : (planDone s).res.plan.done = true := rfl

theorem planDone_left (s : State) : (planDone s).res.plan.left = none := rfl

theorem planDone_fab (s : State) : (planDone s).fab = s.fab := rfl

theorem planDone_tstate (s : State) : (planDone s).res.tstate = s.res.tstate := rfl

/-- A takeover that is carried out ends the plan, and the Standby acts for the slot. -/
theorem planTake_acts {s : State} {c : Coord} (hc : trayCoord s s.res.plan.slot.toNat = c) :
    (planTake s).res.plan.done = true ∧ (planTake s).res.plan.left = none ∧ (planTake s).fab.acting = some c ∧
    planTake s = planDone (takeOver s c) := by
  rw [planTake, hc, planDone_done, planDone_left, planDone_fab, takeOver_fab]
  exact ⟨rfl, rfl, rfl, rfl⟩

/-- What a plan asks for bears on no coordinate. -/
theorem trayCoord_res (s : State) (r : Res) (slot : Nat) : trayCoord { s with res := r } slot = trayCoord s slot := rfl

/-- Copies of pages are sent, and nothing else changes. -/
theorem copyPages_eq (s : State) (dst : Coord) : copyPages s dst = { s with out := (copyPages s dst).out } := by
  unfold copyPages
  generalize guardedPages s = l
  have h : ∀ (l : List (PartI × Nat)) (t : State), t = { s with out := t.out } →
      l.foldl (fun t q => send t (.handback dst (pageAddr q.2) (pageBytes t q.1 q.2))) t =
        { s with out := (l.foldl (fun t q => send t (.handback dst (pageAddr q.2) (pageBytes t q.1 q.2))) t).out } := by
    intro l
    induction l with
    | nil => exact fun t ht => ht
    | cons q l ih =>
      intro t ht
      refine ih _ ?_
      rw [ht]
      rfl
  exact h l s rfl

/-- What the end of a partition's contexts leaves: the fabric's state and the tray's. -/
theorem foldl_setCtx_keeps (f : State → CtxI → Ctx) (p : PartI) (l : List CtxI) (s : State) :
    (l.foldl (fun t c => setCtx t ⟨p, c⟩ (f t c)) s).fab = s.fab ∧ (l.foldl (fun t c => setCtx t ⟨p, c⟩ (f t c)) s).res = s.res := by
  induction l generalizing s with
  | nil => exact ⟨rfl, rfl⟩
  | cons c l ih => exact ih _

theorem setRes_keeps (s : State) (p : PartI) (x : ResPart) : (setRes s p x).fab = s.fab ∧ (setRes s p x).res.tstate = s.res.tstate :=
  ⟨rfl, rfl⟩

theorem leavePart_keeps (s : State) (p : PartI) : (leavePart s p).fab = s.fab ∧ (leavePart s p).res.tstate = s.res.tstate := by
  obtain ⟨hfab, hres⟩ := foldl_setCtx_keeps (fun t c => { weight := (getCtx t ⟨p, c⟩).weight, high := (getCtx t ⟨p, c⟩).high }) p
    (List.finRange 16) s
  unfold leavePart
  generalize (List.finRange 16).foldl (fun t c =>
    setCtx t ⟨p, c⟩ { weight := (getCtx t ⟨p, c⟩).weight, high := (getCtx t ⟨p, c⟩).high }) s = u at hfab hres
  rw [(setRes_keeps ..).1, (setRes_keeps ..).2, setPart]
  dsimp only
  rw [hfab, hres]
  exact ⟨rfl, rfl⟩

theorem foldl_leavePart_keeps (l : List PartI) (s : State) :
    (l.foldl leavePart s).fab = s.fab ∧ (l.foldl leavePart s).res.tstate = s.res.tstate := by
  induction l generalizing s with
  | nil => exact ⟨rfl, rfl⟩
  | cons p l ih =>
    obtain ⟨hfab, hst⟩ := ih (leavePart s p)
    obtain ⟨hfab', hst'⟩ := leavePart_keeps s p
    rw [List.foldl_cons]
    exact ⟨hfab.trans hfab', hst.trans hst'⟩

/-- A handback that is carried out ends the plan; the Standby acts for none and seeds again. -/
theorem planHand_ends (s : State) :
    (planHand s).res.plan.done = true ∧ (planHand s).res.plan.left = none ∧ (planHand s).fab.acting = none ∧
    (planHand s).res.tstate = 1 := by
  rw [planHand]
  generalize copyDirty s (trayCoord s s.res.plan.slot.toNat) = u
  dsimp only
  rw [planDone_done, planDone_left, planDone_fab, planDone_tstate, (foldl_leavePart_keeps ..).1, (foldl_leavePart_keeps ..).2]
  exact ⟨rfl, rfl, rfl, rfl⟩

/-- The last mark that a takeover waits for carries it out. -/
theorem planMark_last {s : State} {c : CtxId} (hleft : s.res.plan.left = some [CtxId.key c]) (hcmd : s.res.plan.cmd = 1) :
    planMark s c = planTake { s with res := { s.res with plan := { s.res.plan with left := some [] } } } := by
  have hnone : [CtxId.key c].filter (· != CtxId.key c) = [] := by simp
  rw [planMark, hleft]
  dsimp only
  rw [hnone, if_neg (not_not_intro rfl), if_pos hcmd]

/-- Settles O5: a plan by its command and by whether a mark is waited for. -/
theorem updatePlansStart : Obligations.UpdatePlansStart := by
  unfold Obligations.UpdatePlansStart
  refine ⟨?takeover, ?handback, ?lastMark, ?otherRevision⟩
  case takeover =>
    intro port value s hmay hcmd hslot hrole hst hact hleft
    have hwrite : exec (.planTakeover port value) s = .next (planStart s 1 (value.extractLsb' 2 3)
        (mirroredCtxs s (trayCoord s (value.extractLsb' 2 3).toNat))) := by
      rw [exec_planTakeover, execPlanTakeover, guarded_of_mayWrite hmay, planWrite_takeover hcmd hslot hrole hst hact hleft]
    refine ⟨fun hsome => ?_, fun hnone => ?_⟩
    · rw [hwrite, planStart_waits hsome]
    · rw [hwrite, hnone, planStart_takes]
      exact ⟨_, rfl, planTake_acts (trayCoord_res ..)⟩
  case handback =>
    intro port value detrev s hmay hcmd hslot hact hrev hleft
    subst hrev
    refine ⟨_, ?_, rfl, fun hsome => ?_, fun hnone => ?_⟩
    · rw [exec_planHandback, execPlanHandback, guarded_of_mayWrite hmay, planWrite_handback hcmd hslot hact hleft]
    · rw [planStart_waits hsome, copyPages_eq]
      exact ⟨rfl, rfl⟩
    · rw [hnone, planStart_hands]
      exact planHand_ends _
  case lastMark =>
    intro cid s u hrun hprot hu hleft hcmd
    obtain ⟨hdone, hleft', hacting, -⟩ := planTake_acts
      (trayCoord_res u { u.res with plan := { u.res.plan with left := some [] } } u.res.plan.slot.toNat)
    refine ⟨_, ?_, hdone, hleft', hacting⟩
    rw [exec_epochMarkAgreed, execEpochMarkAgreed, if_pos hprot, if_pos hrun, ← hu, planMark_last hleft hcmd]
  case otherRevision =>
    intro port value detrev s hmay hcmd hrev
    rw [exec_planHandback, execPlanHandback, guarded_of_mayWrite hmay, planWrite_otherRevision hcmd hrev, planRefuse]

end Sys2Proof.Machine

/-! PROOFS. Boot, key slots and attestation (O4). -/

namespace Sys2Proof.Machine

/-! ### Attestation (R395) -/

theorem rlUp_of_mayWrite {s : State} {p : RlPort} {n : Nat} (h : mayWrite s p n = true) : rlUp s p = true := by
  simp only [mayWrite, windowOpen, Bool.and_eq_true] at h
  exact h.1.1.2

/-- The state with a signed report in the companion's memory. -/
def attested (s : State) (port : RlPort) (h : Bytes) : State := { s with
  comp := Memory.write s.comp (compKey port s.sec.attAddr.toNat) (h ++ ecdsaSign ikScalar (sha256 h))
  sec := { s.sec with attDone := true, attFail := false } }

theorem attCmdWrite_signed {s : State} {port : RlPort} {v : BitVec 32} (hup : rlUp s port = true) (hgo : v.getLsbD 0 = true) {h : Bytes}
    (hh : h = attHead s (Fin.ofNat 8 (v.toNat / 2 % 8)) (v.getLsbD 4)) :
    attCmdWrite s port v true = attested s port h := by
  have hgo' : ¬ (!v.getLsbD 0) = true := by rw [hgo]; decide
  have hfield : bitsOf v.toNat 1 3 = v.toNat / 2 % 8 := by simp [bitsOf]
  rw [attCmdWrite, if_neg hgo', hfield]
  dsimp only
  rw [← hh, writeComp, if_pos hup]
  rfl

theorem attCmdWrite_unsigned {s : State} {port : RlPort} {v : BitVec 32} (hgo : v.getLsbD 0 = true) :
    attCmdWrite s port v false =
      report { s with sec := { s.sec with attDone := false, attFail := true } } (devReport Code.eAttFail deferred 15 0 []) := by
  have hgo' : ¬ (!v.getLsbD 0) = true := by rw [hgo]; decide
  rw [attCmdWrite, if_neg hgo']
  rfl

theorem getFp_nextStage (s : State) (p : Nat) : getFp (nextStage s) p = getFp s p := rfl

theorem applyManifest_sec (s : State) : (applyManifest s).sec = s.sec := by
  rw [applyManifest]
  exact foldl_setFp_sec (fun t p => { getFp t p with kfp2 := t.sec.kfp2.getLsbD p, preset := presetOf t.sec.preset p }) (upto 36) s

/-! ### The obligation -/

/-- Settles O4: boot stage by stage, key slots, attestation, and the start of a plan. -/
theorem bootKeysAndAttestationAct : Obligations.BootKeysAndAttestationAct := by
  unfold Obligations.BootKeysAndAttestationAct
  refine ⟨?go, ?goAgain, ?stage1, ?stage2, ?stage4, ?badHw, ?stage3, ?stage5, ?stage6, ?load, ?clear, ?bound, ?signed, ?unsigned,
    ?takeover, ?handback⟩
  case go =>
    intro port value s u hmay hstage hgo hu
    have hstage' : (noteTie s port 0x3200008).sec.stage = 0 := by rw [noteTie_sec, hstage]
    subst hu
    refine ⟨fun hrl => ?_, fun hfab => ?_⟩
    · rw [exec_bootGo, execBootGo_mayBoot hmay, bootCmdWrite_go hstage' hgo, setBootPort_off (by exact hrl), hrl]
      rfl
    · rw [exec_bootGo, execBootGo_mayBoot hmay, bootCmdWrite_go hstage' hgo, hfab]
      rfl
  case goAgain =>
    intro port value s hmay hstage
    have hstage' : (noteTie s port 0x3200008).sec.stage ≠ 0 := by rw [noteTie_sec]; exact hstage
    rw [exec_bootGo, execBootGo_mayBoot hmay, bootCmdWrite, if_pos (Or.inl hstage')]
  case stage1 =>
    intro objs hw s hreset hstage
    refine ⟨stageKeys s objs hw, ?_, stageKeys_sec hstage, stageKeys_ryutil⟩
    rw [exec_bootStageEnd, execBootStageEnd_stage hreset hstage]
    rfl
  case stage2 =>
    intro objs hw s m h hreset hstage hm hh
    refine ⟨stageVerify s objs, ?_, stageVerify_sec hstage hm hh, stageVerify_role hm⟩
    rw [exec_bootStageEnd, execBootStageEnd_stage hreset hstage]
    rfl
  case stage4 =>
    intro objs hw s hreset hstage hok hspares
    refine ⟨stageSelftest s hw, ?_, stageSelftest_stage hstage⟩
    rw [exec_bootStageEnd, execBootStageEnd_stage hreset hstage]
    exact if_pos (And.intro hok hspares)
  case badHw =>
    intro objs hw s hreset hlo hhi hbad
    rw [exec_bootStageEnd, execBootStageEnd_badHw hreset hlo hhi hbad]
  case stage3 =>
    intro objs hw s hreset hstage hok
    have hnext : s.sec.stage + 1 = 4 := by rw [hstage]; rfl
    refine ⟨nextStage (applyManifest s), ?_, ?_, fun p => (getFp_nextStage ..).trans (getFp_applyManifest s p)⟩
    · rw [exec_bootStageEnd, execBootStageEnd_stage hreset hstage]
      exact if_pos hok
    · rw [nextStage, applyManifest_sec, hnext]
  case stage5 =>
    intro objs hw s hreset hstage hok
    refine ⟨stageMemory s, ?_, stageMemory_leaves hstage⟩
    rw [exec_bootStageEnd, execBootStageEnd_stage hreset hstage]
    exact if_pos hok
  case stage6 =>
    intro objs hw s hreset hstage
    have hnext : s.sec.stage + 1 = 7 := by rw [hstage]; rfl
    rw [exec_bootStageEnd, execBootStageEnd_stage hreset hstage, ← hnext]
    rfl
  case load =>
    intro port value s hmay hcmd hfree hactive
    refine ⟨keyLoad s port (Fin.ofNat 8 (value.toNat / 4 % 8)), ?_, fun k hk => ?_, fun c hc => keyLoad_refused hc⟩
    · rw [exec_keyLoad, execKeyLoad, guarded_of_mayWrite hmay, keyCmdWrite_load hcmd]
    · have hsec := keyLoad_opened hk hfree hactive
      rw [getKey, hsec]
      dsimp only
      rw [Tbl.get_set, if_pos rfl]
      exact ⟨rfl, rfl⟩
  case clear =>
    intro port value s hmay hcmd hfree
    have hsec := keyClear_sec hfree
    refine ⟨keyClear s, ?_, ?_, by rw [hsec], fun k hk => ?_⟩
    · rw [exec_keyClear, execKeyClear, guarded_of_mayWrite hmay, keyCmdWrite_clear hcmd]
    · rw [getKey, hsec]
      dsimp only
      rw [Tbl.get_set, if_pos rfl]
    · rw [getKey, hsec]
      dsimp only
      rw [Tbl.get_set, if_neg (fun h => hk (Fin.ext h)), getKey]
  case bound =>
    intro port value s hmay hcmd hbound
    rw [exec_keyClear, execKeyClear, guarded_of_mayWrite hmay, keyCmdWrite_clear hcmd, keyClear]
    exact congrArg _ (if_pos hbound)
  case signed =>
    intro port value s hmay hgo
    obtain ⟨h, hh⟩ : ∃ h, h = attHead s (Fin.ofNat 8 (value.toNat / 2 % 8)) (value.getLsbD 4) := ⟨_, rfl⟩
    refine ⟨attested s port h, h, ?_, rfl, hh, rfl, rfl, rfl⟩
    rw [exec_attGo, execAttGo, guarded_of_mayWrite hmay, attCmdWrite_signed (rlUp_of_mayWrite hmay) hgo hh]
  case unsigned =>
    intro port value s hmay hgo
    rw [exec_attGo, execAttGo, guarded_of_mayWrite hmay, attCmdWrite_unsigned hgo]
  case takeover =>
    intro port value s l hmay hcmd hslot hrole hst hact hleft hl hne
    subst hl
    refine ⟨{ s with res := { s.res with plan := { cmd := 1, slot := value.extractLsb' 2 3, left := some _ } } }, ?_, rfl, rfl, rfl,
      rfl, rfl, rfl⟩
    rw [exec_planTakeover, execPlanTakeover, guarded_of_mayWrite hmay, planWrite_takeover hcmd hslot hrole hst hact hleft,
      planStart_waits hne]
  case handback =>
    intro port value s u l hmay hcmd hslot hact hleft hl hne hu
    subst hl hu
    refine ⟨{ copyPages s (trayCoord s (value.extractLsb' 2 3).toNat) with res := {
      (copyPages s (trayCoord s (value.extractLsb' 2 3).toNat)).res with
        plan := { cmd := 2, slot := value.extractLsb' 2 3, left := some (actingCtxs s) } } }, ?_, rfl, rfl, rfl, rfl, rfl, rfl⟩
    rw [exec_planHandback, execPlanHandback, guarded_of_mayWrite hmay, planWrite_handback hcmd hslot hact hleft, planStart_waits hne]

end Sys2Proof.Machine

/-! PROOFS. The ports to the companions, and the companions' requests (O8). -/

namespace Sys2Proof.Machine

/-! ### The semaphores of a port that went down (R284, R288) -/

/-- Port `port` loses those of the semaphores `l` that it holds. -/
def loseSems (s : State) (port : RlPort) (l : List Nat) : State :=
  l.foldl (fun t n => if holdsSem t port n then loseSem t n else t) s

theorem loseSems_cons (s : State) (port : RlPort) (n : Nat) (l : List Nat) :
    loseSems s port (n :: l) = loseSems (if holdsSem s port n then loseSem s n else s) port l := rfl

theorem holdsSem_loseSem (s : State) (port : RlPort) (n m : Nat) :
    holdsSem (loseSem s n) port m = (!decide (m = n) && holdsSem s port m) := by
  rw [holdsSem, holdsSem, getSem_loseSem]
  by_cases h : m = n
  · simp [h]
  · simp [h]

theorem semExpired_loseSem (s : State) {n m : Nat} (hm : m < 32) :
    (loseSem s n).gl.semExpired.getLsbD m = (s.gl.semExpired.getLsbD m || decide (m = n)) := by
  have hbit : (BitVec.ofNat 32 (2 ^ n)).getLsbD m = decide (m = n) := by
    rw [BitVec.getLsbD_ofNat, Nat.testBit_two_pow]
    simp [hm, eq_comm]
  change (s.gl.semExpired ||| BitVec.ofNat 32 (2 ^ n)).getLsbD m = _
  rw [BitVec.getLsbD_or, hbit]

theorem holdsSem_loseSems (s : State) (port : RlPort) (l : List Nat) (m : Nat) :
    holdsSem (loseSems s port l) port m = (!decide (m ∈ l) && holdsSem s port m) := by
  induction l generalizing s with
  | nil => simp [loseSems]
  | cons n l ih =>
    rw [loseSems_cons, ih]
    split
    case isTrue => rw [holdsSem_loseSem]; by_cases h : m = n <;> simp [h]
    case isFalse hn => by_cases h : m = n <;> simp_all

theorem getSem_loseSems (s : State) (port : RlPort) (l : List Nat) {m : Nat} (hm : holdsSem s port m = false) :
    getSem (loseSems s port l) m = getSem s m := by
  induction l generalizing s with
  | nil => rfl
  | cons n l ih =>
    rw [loseSems_cons]
    split
    case isTrue hn =>
      have hne : m ≠ n := fun h => by rw [h, hn] at hm; cases hm
      rw [ih _ (by rw [holdsSem_loseSem, hm, Bool.and_false]), getSem_loseSem, if_neg hne]
    case isFalse => exact ih s hm

/-- A semaphore marked expired stays marked while others are lost. -/
theorem expired_loseSems (s : State) (port : RlPort) (l : List Nat) {m : Nat} (hlt : m < 32)
    (hm : (getSem s m).expired = true ∧ s.gl.semExpired.getLsbD m = true) :
    (getSem (loseSems s port l) m).expired = true ∧ (loseSems s port l).gl.semExpired.getLsbD m = true := by
  induction l generalizing s with
  | nil => exact hm
  | cons n l ih =>
    rw [loseSems_cons]
    refine ih _ ?_
    split
    case isTrue =>
      rw [getSem_loseSem, semExpired_loseSem s hlt, hm.2, Bool.true_or]
      refine ⟨?_, rfl⟩
      split
      · rfl
      · exact hm.1
    case isFalse => exact hm

theorem loseSems_expires (s : State) (port : RlPort) {l : List Nat} {m : Nat} (hlt : m < 32) (hmem : m ∈ l)
    (hm : holdsSem s port m = true) :
    (getSem (loseSems s port l) m).expired = true ∧ (loseSems s port l).gl.semExpired.getLsbD m = true := by
  induction l generalizing s with
  | nil => exact absurd hmem List.not_mem_nil
  | cons n l ih =>
    by_cases hn : m = n
    · subst hn
      rw [loseSems_cons, if_pos hm]
      refine expired_loseSems _ port l hlt ?_
      rw [getSem_loseSem, if_pos rfl, semExpired_loseSem s hlt]
      simp
    · rw [loseSems_cons]
      refine ih _ ((List.mem_cons.mp hmem).resolve_left hn) ?_
      split
      case isTrue => rw [holdsSem_loseSem, hm]; simp [hn]
      case isFalse => exact hm

theorem getRl_loseSems (s : State) (port : RlPort) (l : List Nat) (q : RlPort) : getRl (loseSems s port l) q = getRl s q := by
  induction l generalizing s with
  | nil => rfl
  | cons n l ih =>
    rw [loseSems_cons, ih]
    split
    · rfl
    · rfl

/-! ### A port that trains again -/

theorem otherPort_ne : ∀ port : RlPort, otherPort port ≠ port := by decide

theorem sameButRings_ringDrain (n : Nat) (s : State) (p : RlPort) : SameButRings s (ringDrain n s p) := by
  induction n generalizing s with
  | zero => exact .refl s
  | succ n ih =>
    unfold ringDrain
    split
    · exact .refl s
    · split
      · exact (SameButRings.trans (sameButRings_setRing s p _) (sameButRings_ringWrite _ p _)).trans (ih _)
      · exact .refl s

theorem WorkOnly.getRl_eq {s t : State} (h : WorkOnly s t) (q : RlPort) : getRl t q = getRl s q := by
  rw [h]
  rfl

theorem workOnly_readDoorbells (s : State) (l : List CtxId) :
    WorkOnly s (l.foldl (fun t c => if lineWatched t c then readDoorbell t c else t) s) :=
  WorkOnly.foldl (fun _ _ h => .ite h.readDoorbell h) l (.refl s)

theorem foldl_readDoorbells_idle {s : State} (h : unitsRun s = false) (l : List CtxId) :
    l.foldl (fun t c => if lineWatched t c then readDoorbell t c else t) s = s := by
  induction l with
  | nil => rfl
  | cons c l ih =>
    have hc : ¬ lineWatched s c = true := by rw [lineWatched, h]; exact Bool.false_ne_true
    rw [List.foldl_cons, if_neg hc, ih]

theorem not_retrainWaits {s : State} {port : RlPort} (hdown : rlUp s port = false) (hreset : s.gl.inReset = false)
    (hretry : (getRl s port).retryAt ≤ s.now) :
    ¬ (rlUp s port = true ∨ s.gl.inReset = true ∨ s.now < (getRl s port).retryAt) := by
  rw [hdown, hreset]
  simpa using hretry

/-! ### Requests of a companion (R287) -/

theorem execCompanionRequest_sent {s : State} {port : RlPort} {m : ReqMsg} {gaddr : BitVec 64} {c : CtxId} (hrun : unitsRun s = true)
    (hup : rlUp s port = true) (hen : (getRl s port).cpnEn = true) (hdst : coordBad (gCoord gaddr.toNat) = false)
    (haligned : gAligned m.op gaddr.toNat = true) (hmask : m.op = .write → m.bmask ≠ 0) (hreach : inReach s m.op gaddr.toNat = true)
    (hbulk : isBulk m.op = true → m.len ≠ 0 ∧ m.len.toNat % 64 = 0) (htag : tagCtx s (getRl s port).cpnJtag = some c)
    (hrest : atRest s = true) :
    exec (.companionRequest port m gaddr) s =
      .next (sendCpn s c port (gCoord gaddr.toNat) (cpnReqs s port (getRl s port).cpnJtag m gaddr.toNat)) := by
  have hen' : ¬ (!(getRl s port).cpnEn) = true := by rw [hen]; decide
  have hdst' : ¬ coordBad (gCoord gaddr.toNat) = true := by rw [hdst]; decide
  have hshape : ¬ ((!gAligned m.op gaddr.toNat) = true ∨ (m.op = .write ∧ m.bmask = 0)) := by
    rw [haligned]
    exact not_or.mpr ⟨by decide, fun h => hmask h.1 h.2⟩
  have hplace : ¬ ((!inReach s m.op gaddr.toNat) = true ∨ (isBulk m.op = true ∧ (m.len = 0 ∨ m.len.toNat % 64 ≠ 0))) := by
    rw [hreach]
    refine not_or.mpr ⟨by decide, fun h => ?_⟩
    obtain ⟨hlen, hline⟩ := hbulk h.1
    exact h.2.elim hlen (absurd hline)
  rw [exec_companionRequest, execCompanionRequest, if_pos ⟨hrun, hup⟩, if_neg hen', if_neg hdst', if_neg hshape, if_neg hplace, htag]
  dsimp only
  rw [coherentLate_of_atRest hrest]

/-! ### The obligation -/

/-- Settles O8: a port that falls with its semaphores, a port that trains again, and a companion's requests sent or refused. -/
theorem ryutilPortsAct : Obligations.RyutilPortsAct := by
  unfold Obligations.RyutilPortsAct
  refine ⟨?downRun, ?downBoot, ?noLane, ?upIdle, ?up, ?request, ?badSlot, ?disabled⟩
  case downRun =>
    intro port s hup hstage
    rw [exec_rlPortDown, execRlPortDown, if_pos hup]
    exact if_pos hstage
  case downBoot =>
    intro port s hup hstage
    let s1 := setRl s port { getRl s port with state := 0, lanes := 0, retryAt := s.now + 10000000 }
    refine ⟨loseSems s1 port (upto 32), ?_, ?_, fun n hn => ?_, fun n hn hholds => ?_, fun n hholds => ?_⟩
    · rw [exec_rlPortDown, execRlPortDown, if_pos hup]
      exact if_neg hstage
    · rw [rlUp, getRl_loseSems, getRl_setRl, if_pos rfl]
      rfl
    · have hmem : n ∈ upto 32 := by simpa [upto] using hn
      rw [holdsSem_loseSems]
      simp [hmem]
    · exact loseSems_expires s1 port hn (by simpa [upto] using hn) hholds
    · exact getSem_loseSems s1 port (upto 32) hholds
  case noLane =>
    intro port s hdown hreset hretry
    rw [exec_rlPortRetrain, execRlPortRetrain, if_neg (not_retrainWaits hdown hreset hretry)]
    exact if_pos rfl
  case upIdle =>
    intro port lanes s hdown hreset hretry hlanes hhold hidle
    have hlanes' : ¬ lanes.val = 0 := fun h => hlanes (Fin.ext h)
    rw [exec_rlPortRetrain, execRlPortRetrain, if_neg (not_retrainWaits hdown hreset hretry), if_neg hlanes']
    have hring : (getRing (setRl s port { getRl s port with state := 2, lanes := BitVec.ofNat 4 lanes.val }) port).hold = [] := hhold
    dsimp only
    rw [hring]
    exact congrArg _ (foldl_readDoorbells_idle (s := setRl s port _) hidle _)
  case up =>
    intro port lanes s hdown hreset hretry hlanes
    have hlanes' : ¬ lanes.val = 0 := fun h => hlanes (Fin.ext h)
    rw [exec_rlPortRetrain, execRlPortRetrain, if_neg (not_retrainWaits hdown hreset hretry), if_neg hlanes']
    have hkept : ∀ (q : RlPort) (u : State) (n : Nat) (l : List CtxId),
        getRl (l.foldl (fun t c => if lineWatched t c then readDoorbell t c else t) (ringDrain n u port)) q = getRl u q := fun q u n l =>
      ((WorkOnly.of_rings (.refl u) (sameButRings_ringDrain n u port)).trans (workOnly_readDoorbells _ l)).getRl_eq q
    refine ⟨_, rfl, ?_, ?_⟩
    · rw [hkept, getRl_setRl, if_pos rfl]
    · rw [hkept, getRl_setRl, if_neg (otherPort_ne port)]
  case request =>
    intro port m gaddr s c hrun hup hen hdst haligned hmask hreach hbulk htag hrest
    have hsent := execCompanionRequest_sent hrun hup hen hdst haligned hmask hreach hbulk htag hrest
    refine ⟨fun _ => hsent, fun hspace => ⟨_, _, rfl, rfl, ?_⟩⟩
    rw [hsent, cpnReqs, if_neg hspace]
    rfl
  case badSlot =>
    intro port m gaddr s hrun hup hen hdst
    have hen' : ¬ (!(getRl s port).cpnEn) = true := by rw [hen]; decide
    rw [exec_companionRequest, execCompanionRequest, if_pos ⟨hrun, hup⟩, if_neg hen', if_pos hdst]
    rfl
  case disabled =>
    intro port m gaddr s hrun hup hen
    rw [exec_companionRequest, execCompanionRequest, if_pos ⟨hrun, hup⟩, hen]
    rfl

end Sys2Proof.Machine

/-! PROOFS. Contexts and their rings (O6). -/

namespace Sys2Proof.Machine

/-- Port 0 holds semaphore 5, context 0 of partition 0 is ready, and context 1 has a command stalled on core 0. -/
def neighbourStalled : State :=
  { sec := { stage := 7 }
    gl := { sems := [(5, { held := true, leaseEnd := 1 })] }
    rl := { ports := [(0, { state := 2 })] }
    ctxs := [(0, { state := .ready })]
    seqs := [(128, { stallCause := 1 })] }

theorem mayWrite_neighbourStalled : mayWrite neighbourStalled 0 5 = true := rfl

theorem seqs_teardownReq_neighbourStalled : (teardownReq neighbourStalled).seqs = [(128, { stallCause := 1 })] := rfl

/-- Refutes O6: its clause on TEARDOWN says of every number `k` that the context has no sequencer `k`, and not of the 128 cores alone.
The sequencers of context 0 end at 127, so that 128 names the one of context 1 on core 0, which the teardown of context 0 leaves. -/
theorem not_contextsAndRingsAct : ¬ Obligations.ContextsAndRingsAct := by
  unfold Obligations.ContextsAndRingsAct
  rintro ⟨-, -, hteardown, -⟩
  obtain ⟨t, ht, -, -, -, hseq⟩ := hteardown 0 neighbourStalled mayWrite_neighbourStalled (by decide) (by decide)
  rw [exec_teardown, execTeardown, guarded_of_mayWrite mayWrite_neighbourStalled] at ht
  injection ht with ht
  have hcause : (getSeq (teardownReq neighbourStalled) (selectedCtx neighbourStalled) 128).stallCause = 0 := by rw [ht, hseq]
  have hleft : (getSeq (teardownReq neighbourStalled) (selectedCtx neighbourStalled) 128).stallCause = 1 := by
    rw [getSeq, seqs_teardownReq_neighbourStalled]
    rfl
  rw [hleft] at hcause
  exact absurd hcause (by decide)

end Sys2Proof.Machine

/-! PROOFS. Building and dissolving a partition (O7). -/

namespace Sys2Proof.Machine

/-! ### Tables of which some entries were taken -/

/-- A filter on keys leaves what the keys it passes read. -/
theorem Tbl.get_filter_key {α : Type} (d : α) (f : Nat → Bool) (t : Tbl α) (i : Nat) :
    Tbl.get d (t.filter (fun e => f e.1)) i = if f i then Tbl.get d t i else d := by
  induction t with
  | nil => exact (ite_self d).symm
  | cons e t ih =>
    obtain ⟨k, v⟩ := e
    rw [List.filter_cons]
    by_cases hk : k = i
    · subst hk
      cases hf : f k <;> simp [Tbl.get, ih, hf]
    · cases hf : f k <;> simp [Tbl.get, ih, hk]

/-- What a filtered table reads is its default or passed the filter. -/
theorem Tbl.get_filter_passes {α : Type} (d : α) (f : Nat × α → Bool) (t : Tbl α) (i : Nat) :
    Tbl.get d (t.filter f) i = d ∨ f (i, Tbl.get d (t.filter f) i) = true := by
  induction t with
  | nil => exact Or.inl rfl
  | cons e t ih =>
    obtain ⟨k, v⟩ := e
    rw [List.filter_cons]
    by_cases hf : f (k, v) = true
    · rw [if_pos hf, Tbl.get]
      split
      case isTrue hk => exact Or.inr (hk ▸ hf)
      case isFalse => exact ih
    · rw [if_neg hf]
      exact ih

theorem readByte_zero (m : Memory) (a n b : Nat) :
    Memory.readByte (Memory.zero m a n) b = if a ≤ b ∧ b < a + n then 0 else Memory.readByte m b := by
  refine (Tbl.get_filter_key (0 : BitVec 8) (fun k => !(decide (a ≤ k) && decide (k < a + n))) m b).trans ?_
  by_cases h : a ≤ b ∧ b < a + n
  · simp [h]
  · have hpass : (!(decide (a ≤ b) && decide (b < a + n))) = true := by
      rw [← Bool.decide_and, Bool.not_eq_true', decide_eq_false h]
    rw [if_neg h, if_pos hpass]
    rfl

/-! ### Local stores at rest -/

/-- Every byte of the core's local store reads 0. -/
def ZeroLs (s : State) (core : Nat) : Prop := ∀ a, a < lsSize → Memory.readByte s.ls (lsKey core a) = 0

theorem readLs_eq_zero {s : State} {core a n : Nat} (h : ZeroLs s core) (hn : a + n ≤ lsSize) : ∀ b ∈ readLs s core a n, b = 0 := by
  have key : ∀ n x, a ≤ x → x + n ≤ lsSize → ∀ b ∈ Memory.read s.ls (lsKey core x) n, b = 0 := by
    intro n
    induction n with
    | zero => exact fun _ _ _ _ hb => absurd hb List.not_mem_nil
    | succ n ih =>
      intro x hx hle b hb
      have hnext : lsKey core x + 1 = lsKey core (x + 1) := Nat.add_assoc ..
      rw [Memory.read, hnext] at hb
      rcases List.mem_cons.mp hb with rfl | hb
      · exact h x (by omega)
      · exact ih (x + 1) (by omega) (by omega) b hb
  exact key n a (Nat.le_refl a) hn

theorem zeroLs_zeroLs_self (s : State) (core : Nat) : ZeroLs (zeroLs s core) core := by
  intro a ha
  refine (readByte_zero s.ls (lsKey core 0) lsSize (lsKey core a)).trans (if_pos ?_)
  unfold lsKey
  omega

theorem ZeroLs.zeroLs {s : State} {core : Nat} (h : ZeroLs s core) (k : Nat) : ZeroLs (zeroLs s k) core := by
  intro a ha
  refine (readByte_zero s.ls (lsKey k 0) lsSize (lsKey core a)).trans ?_
  rw [h a ha, ite_self]

theorem zeroLs_foldl {core : Nat} (l : List Nat) (s : State) (h : core ∈ l ∨ ZeroLs s core) : ZeroLs (l.foldl zeroLs s) core := by
  induction l generalizing s with
  | nil => exact h.resolve_left List.not_mem_nil
  | cons k l ih =>
    refine ih _ ?_
    rcases h with hmem | hzero
    · by_cases hk : core = k
      · exact Or.inr (hk ▸ zeroLs_zeroLs_self s core)
      · exact Or.inl ((List.mem_cons.mp hmem).resolve_left hk)
    · exact Or.inr (hzero.zeroLs k)

/-! ### What the end of a context leaves (R330) -/

/-- `t` has the contexts, partitions and global registers of `s`. -/
structure ContextsKept (s t : State) : Prop where
  ctxs : t.ctxs = s.ctxs
  parts : t.parts = s.parts
  gl : t.gl = s.gl

namespace ContextsKept

variable {s t : State}

theorem refl (s : State) : ContextsKept s s := ⟨rfl, rfl, rfl⟩

theorem trans {u : State} (h : ContextsKept s t) (hu : ContextsKept t u) : ContextsKept s u :=
  ⟨hu.ctxs.trans h.ctxs, hu.parts.trans h.parts, hu.gl.trans h.gl⟩

theorem ite {c : Prop} [Decidable c] {u : State} (ht : ContextsKept s t) (hu : ContextsKept s u) :
    ContextsKept s (if c then t else u) := by
  split
  · exact ht
  · exact hu

theorem foldl {α : Type} {f : State → α → State} (hf : ∀ u x, ContextsKept s u → ContextsKept s (f u x)) (l : List α)
    (h : ContextsKept s t) : ContextsKept s (l.foldl f t) := by
  induction l generalizing t with
  | nil => exact h
  | cons x l ih => exact ih (hf t x h)

/-- An update of any fields but contexts, partitions and global registers. -/
theorem upd (h : ContextsKept s t) {pending now free out seqs cores ls uni comp mem dies xds xcmds ins outs kept cmbs colls rl
    ft sec tags fab msf res err mtr md pwr frameSeq tap late} :
    ContextsKept s (State.mk pending now free out t.gl t.parts t.ctxs seqs cores ls uni comp mem dies xds xcmds ins outs kept
      cmbs colls rl ft sec tags fab msf res err mtr md pwr frameSeq tap late) := ⟨h.ctxs, h.parts, h.gl⟩

theorem of_fabric {u : State} (h : ContextsKept s t) (hu : FabricOnly t u) : ContextsKept s u :=
  h.trans ⟨by rw [hu], by rw [hu], by rw [hu]⟩

theorem mirror (h : ContextsKept s t) {p : PartI} {a : Nat} {bs : Bytes} : ContextsKept s (mirror t p a bs) := .ite h h.upd

theorem writeStatus (h : ContextsKept s t) {c : CtxId} : ContextsKept s (writeStatus t c) := .ite h.upd h

theorem setPte (h : ContextsKept s t) {i : Nat} {x : Pte} : ContextsKept s (setPte t i x) := mirror h.upd

theorem zeroLs (h : ContextsKept s t) {core : Nat} : ContextsKept s (zeroLs t core) := h.upd

theorem clearPool (h : ContextsKept s t) {c : CtxId} {die : XDie} : ContextsKept s (clearPool c t die) :=
  upd (foldl (fun _ _ hu => hu.upd) _ h.upd)

theorem clearExchange (h : ContextsKept s t) {c : CtxId} : ContextsKept s (clearExchange c t) := h.clearPool.clearPool.upd

theorem sendCMsg (h : ContextsKept s t) {x : CHdr} {dst : Coord} {m : CMsg} : ContextsKept s (sendCMsg t x dst m) := by
  unfold Machine.sendCMsg
  split
  · exact h.of_fabric (FabricOnly.refl t).sendCtl
  · exact h

theorem endColl (h : ContextsKept s t) {k : Coll} : ContextsKept s (endColl t k) :=
  foldl (fun _ _ hu => hu.upd) _ (.ite h (foldl (fun _ _ hu => hu.sendCMsg) _ h))

theorem clearColls (h : ContextsKept s t) {c : CtxId} : ContextsKept s (clearColls c t) :=
  upd (foldl (fun _ _ hu => hu.endColl) _ h)

theorem clearMigs (h : ContextsKept s t) {c : CtxId} : ContextsKept s (clearMigs c t) :=
  upd (foldl (fun _ _ hu => hu.setPte) _ h)

theorem mapDies (h : ContextsKept s t) {f : Die → Die} : ContextsKept s (mapDies t f) := foldl (fun _ _ hu => hu.upd) _ h

theorem stopUnits (h : ContextsKept s t) {c : CtxId} : ContextsKept s (stopUnits t c) :=
  h.mapDies.clearExchange.clearColls.clearMigs.upd

theorem dropTag (h : ContextsKept s t) {jtag : BitVec 16} : ContextsKept s (dropTag t jtag) :=
  foldl (fun u _ hu => hu.of_fabric (FabricOnly.refl u).giveCredit) _ h.upd

theorem retireBind (h : ContextsKept s t) {i : Nat} : ContextsKept s (retireBind t i) := .ite (mirror h.dropTag.upd) h

theorem unbackPages (h : ContextsKept s t) {l : List Nat} : ContextsKept s (unbackPages t l) := foldl (fun _ _ hu => hu.setPte) _ h

theorem zeroLease (h : ContextsKept s t) {j : Nat} : ContextsKept s (zeroLease t j) := h.upd

theorem noteLease (h : ContextsKept s t) {j : Nat} {x : Borrow} : ContextsKept s (noteLease t j x) := h.upd

theorem borrowDrop (h : ContextsKept s t) {j : Nat} : ContextsKept s (borrowDrop t j) := by
  unfold Machine.borrowDrop
  dsimp only
  generalize windowPages j 16 = l
  exact noteLease (zeroLease h.unbackPages.upd)

theorem borrowRelease (h : ContextsKept s t) {j : Nat} : ContextsKept s (borrowRelease t j) := h.borrowDrop.upd

theorem endLeases (h : ContextsKept s t) {p : PartI} : ContextsKept s (endLeases t p) := by
  unfold Machine.endLeases
  generalize upto 16 = l
  exact foldl (fun _ _ hu => hu.borrowRelease.ite hu) l h

theorem dropPartKeys (h : ContextsKept s t) {p : PartI} : ContextsKept s (dropPartKeys t p) := h.upd

theorem setRes (h : ContextsKept s t) {p : PartI} {x : ResPart} : ContextsKept s (setRes t p x) := h.upd

theorem endPartUnits (h : ContextsKept s t) {p : PartI} : ContextsKept s (endPartUnits t p) := h.endLeases.dropPartKeys.setRes

theorem clearSeqs (h : ContextsKept s t) {c : CtxId} : ContextsKept s (clearSeqs t c) := h.upd

end ContextsKept

/-- From `s` on partitions keep their states and ABSENT contexts stay so. -/
structure StatesKept (s t : State) : Prop where
  part : ∀ q, (getPart t q).state = (getPart s q).state
  ctx : ∀ d, (getCtx s d).state = .absent → (getCtx t d).state = .absent
  gl : t.gl = s.gl

namespace StatesKept

variable {s t : State}

theorem refl (s : State) : StatesKept s s := ⟨fun _ => rfl, fun _ h => h, rfl⟩

theorem trans {u : State} (h : StatesKept s t) (hu : StatesKept t u) : StatesKept s u :=
  ⟨fun q => (hu.part q).trans (h.part q), fun d hd => hu.ctx d (h.ctx d hd), hu.gl.trans h.gl⟩

theorem of_kept {u : State} (h : StatesKept s t) (hu : ContextsKept t u) : StatesKept s u := by
  refine h.trans ⟨fun q => ?_, fun d hd => ?_, hu.gl⟩
  · rw [getPart, hu.parts, getPart]
  · rwa [getCtx, hu.ctxs]

theorem setPart (h : StatesKept s t) {p : PartI} {x : Part} (hx : x.state = (getPart t p).state) : StatesKept s (setPart t p x) := by
  refine h.trans ⟨fun q => ?_, fun _ hd => hd, rfl⟩
  rw [getPart_setPart]
  split
  case isTrue hq => rw [hx, hq]
  case isFalse => rfl

theorem setCtx (h : StatesKept s t) {c : CtxId} {x : Ctx} (hx : (getCtx t c).state = .absent → x.state = .absent) :
    StatesKept s (setCtx t c x) := by
  refine h.trans ⟨fun _ => rfl, fun d hd => ?_, rfl⟩
  rw [getCtx_setCtx]
  split
  case isTrue hc => exact hx (hc ▸ hd)
  case isFalse => exact hd

theorem endResidency (h : StatesKept s t) {p : PartI} : StatesKept s (endResidency t p) := by
  unfold Machine.endResidency endResidencyAt
  dsimp only
  split
  · exact h
  · refine (h.setCtx ?_).setPart ?_
    · exact fun hx => hx
    · rfl

/-- A resident context's residency ends and its partition stops switching. -/
theorem residencyEnded (h : StatesKept s t) (p : PartI) (cores : List Nat) :
    StatesKept s (Machine.setPart (cores.foldl zeroLs (Machine.endResidency t p)) p
      { getPart (cores.foldl zeroLs (Machine.endResidency t p)) p with switching := none }) := by
  have hzeroed : StatesKept s (cores.foldl zeroLs (Machine.endResidency t p)) :=
    (h.endResidency (p := p)).of_kept (ContextsKept.foldl (fun _ _ hu => hu.zeroLs) cores (.refl _))
  exact hzeroed.setPart rfl

/-- The partition lets go of a context that is resident or coming in. -/
theorem letGo (h : StatesKept s t) (c : CtxId) : StatesKept s
    (if (getPart t c.part).resident = some c.ctx then
      Machine.setPart ((coresOf (getPart t c.part)).foldl zeroLs (Machine.endResidency t c.part)) c.part
        { getPart ((coresOf (getPart t c.part)).foldl zeroLs (Machine.endResidency t c.part)) c.part with switching := none }
    else if (getPart t c.part).switching.any (fun w => w.incoming == some c.ctx) then
      Machine.setPart t c.part { getPart t c.part with switching := none }
    else t) := by
  split
  · exact h.residencyEnded c.part _
  · split
    · exact h.setPart rfl
    · exact h

theorem teardownCtx (h : StatesKept s t) (c : CtxId) :
    StatesKept s (teardownCtx t c) ∧ (getCtx (teardownCtx t c) c).state = .absent := by
  unfold Machine.teardownCtx
  dsimp only
  split
  case isTrue habsent => exact ⟨h, habsent⟩
  case isFalse hpresent =>
    refine ⟨StatesKept.setCtx ?_ (fun _ => rfl), by rw [getCtx_setCtx, if_pos rfl]⟩
    refine of_kept ?_ (ContextsKept.mirror (.refl _))
    refine of_kept (StatesKept.setCtx ?_ (fun _ => rfl)) (ContextsKept.writeStatus (.refl _))
    refine of_kept ?_ (ContextsKept.clearSeqs (.refl _))
    have hbegun := (h.setCtx (x := { getCtx t c with state := .teardown }) (fun habsent => absurd habsent hpresent)).of_kept
      (ContextsKept.writeStatus (c := c) (.refl _))
    refine letGo ?_ c
    split
    · exact hbegun.of_kept (ContextsKept.refl _).stopUnits.retireBind
    · exact hbegun.of_kept (ContextsKept.refl _).stopUnits

/-- Once every named context is torn down, each is ABSENT. -/
theorem foldl_teardownCtx (p : PartI) (l : List CtxI) (h : StatesKept s t) :
    StatesKept s (l.foldl (fun u c => Machine.teardownCtx u ⟨p, c⟩) t) ∧
      ∀ c ∈ l, (getCtx (l.foldl (fun u c => Machine.teardownCtx u ⟨p, c⟩) t) ⟨p, c⟩).state = .absent := by
  induction l generalizing s t with
  | nil => exact ⟨h, fun _ hc => absurd hc List.not_mem_nil⟩
  | cons k l ih =>
    obtain ⟨hk, habsent⟩ := h.teardownCtx ⟨p, k⟩
    refine ⟨(ih hk).1, fun c hc => ?_⟩
    rcases List.mem_cons.mp hc with rfl | hc
    · exact (ih (.refl _)).1.ctx _ habsent
    · exact (ih hk).2 c hc

end StatesKept

theorem statesKept_teardownAll (s : State) (p : PartI) :
    StatesKept s (teardownAll s p) ∧ ∀ c : CtxI, (getCtx (teardownAll s p) ⟨p, c⟩).state = .absent := by
  obtain ⟨hkept, habsent⟩ := (StatesKept.refl s).foldl_teardownCtx p (List.finRange 16)
  exact ⟨hkept, fun c => habsent c (List.mem_finRange c)⟩

end Sys2Proof.Machine

/-! PROOFS. The partition's commands (O7). -/

namespace Sys2Proof.Machine

/-! ### Granules being zeroed -/

/-- The granules of `l` are being zeroed. -/
def markZeroing (s : State) (l : List Nat) : State := l.foldl (fun t g => setGran t g { getGran t g with zeroing := true }) s

theorem markZeroing_eq (s : State) (l : List Nat) : markZeroing s l = { s with gl := (markZeroing s l).gl } := by
  induction l generalizing s with
  | nil => rfl
  | cons g l ih => exact (ih _).trans rfl

theorem getGran_markZeroing (s : State) (l : List Nat) (g : Nat) :
    getGran (markZeroing s l) g = if g ∈ l then { getGran s g with zeroing := true } else getGran s g := by
  induction l generalizing s with
  | nil => rfl
  | cons k l ih =>
    refine (ih _).trans ?_
    rw [getGran_setGran]
    by_cases hk : g = k
    · subst hk
      simp
    · simp [hk]

theorem ownedGrans_of_owners {s t : State} (p : PartI) (h : ∀ g, (getGran t g).owned = (getGran s g).owned ∧
    (getGran t g).part = (getGran s g).part) : ownedGrans t p = ownedGrans s p := by
  unfold ownedGrans
  refine List.filter_congr fun g _ => ?_
  rw [(h g).1, (h g).2]

theorem ownedGrans_markZeroing (s : State) (l : List Nat) (p : PartI) : ownedGrans (markZeroing s l) p = ownedGrans s p := by
  refine ownedGrans_of_owners p fun g => ?_
  rw [getGran_markZeroing]
  split
  · exact ⟨rfl, rfl⟩
  · exact ⟨rfl, rfl⟩

/-! ### A partition that ends (R317) -/

theorem finishDissolve_eq (s : State) (p : PartI) : finishDissolve s p = { s with parts := (finishDissolve s p).parts } := by
  unfold finishDissolve
  dsimp only
  split
  · rfl
  · rfl

theorem getPart_finishDissolve {s : State} {p : PartI} (h : (getPart s p).state = .dissolving) :
    (getPart (finishDissolve s p) p).state = if ownedGrans s p = [] then .absent else .dissolving := by
  unfold finishDissolve
  by_cases hgrans : ownedGrans s p = []
  · rw [if_pos ⟨h, by rw [hgrans]; rfl⟩, if_pos hgrans, getPart_setPart, if_pos rfl]
  · rw [if_neg (fun hc => hgrans (List.isEmpty_iff.mp hc.2)), if_neg hgrans, h]

section ended

/-! The granules of a dissolving partition are marked, and it ends when it has none. -/

variable (s : State) (p : PartI) (l : List Nat)

theorem getPart_markZeroing (q : PartI) : getPart (markZeroing s l) q = getPart s q := by
  rw [markZeroing_eq]
  rfl

theorem getCtx_ended (c : CtxId) : getCtx (finishDissolve (markZeroing s l) p) c = getCtx s c := by
  rw [finishDissolve_eq, markZeroing_eq]
  rfl

theorem getPte_ended (i : Nat) : getPte (finishDissolve (markZeroing s l) p) i = getPte s i := by
  rw [finishDissolve_eq, markZeroing_eq]
  rfl

theorem getRes_ended (q : PartI) : getRes (finishDissolve (markZeroing s l) p) q = getRes s q := by
  rw [finishDissolve_eq, markZeroing_eq]
  rfl

theorem ended_ls : (finishDissolve (markZeroing s l) p).ls = s.ls := by
  rw [finishDissolve_eq, markZeroing_eq]

theorem getGran_finishDissolve (g : Nat) : getGran (finishDissolve s p) g = getGran s g := by
  rw [finishDissolve_eq]
  rfl

theorem finishDissolve_uni : (finishDissolve s p).uni = s.uni := by rw [finishDissolve_eq]

theorem finishDissolve_ls : (finishDissolve s p).ls = s.ls := by rw [finishDissolve_eq]

theorem finishDissolve_comp : (finishDissolve s p).comp = s.comp := by rw [finishDissolve_eq]

end ended

/-- The partition is dissolving, its contexts are ABSENT, its units have ended and its local stores are zero. -/
def dissolved (s : State) (p : PartI) : State :=
  (coresOf (getPart s p)).foldl zeroLs
    (clearPages (endPartUnits (teardownAll (setPart s p { getPart s p with state := .dissolving }) p) p) p)

theorem dissolve_eq {s : State} {p : PartI} (h : (getPart s p).state = .active ∨ (getPart s p).state = .faulted) :
    dissolve s p = finishDissolve (markZeroing (dissolved s p) (ownedGrans (dissolved s p) p)) p := by
  have hruns : ¬ ((getPart s p).state ≠ .active ∧ (getPart s p).state ≠ .faulted) := fun hc => h.elim hc.1 hc.2
  rw [dissolve, if_neg hruns]
  rfl

theorem foldl_zeroLs_eq (l : List Nat) (s : State) :
    l.foldl zeroLs s = { s with ls := (l.foldl zeroLs s).ls, cores := (l.foldl zeroLs s).cores } := by
  induction l generalizing s with
  | nil => rfl
  | cons k l ih => exact (ih _).trans rfl

theorem contextsKept_clearPages {s t : State} (h : ContextsKept s t) (p : PartI) : ContextsKept s (clearPages t p) := h.upd

theorem statesKept_dissolved (s : State) (p : PartI) :
    StatesKept (teardownAll (setPart s p { getPart s p with state := .dissolving }) p) (dissolved s p) := by
  refine (StatesKept.refl _).of_kept (ContextsKept.foldl (fun _ _ hu => hu.zeroLs) _ ?_)
  exact contextsKept_clearPages (ContextsKept.refl _).endPartUnits p

theorem getPart_dissolved (s : State) (p : PartI) : (getPart (dissolved s p) p).state = .dissolving := by
  rw [(statesKept_dissolved s p).part, (statesKept_teardownAll _ p).1.part, getPart_setPart, if_pos rfl]

theorem getCtx_dissolved (s : State) (p : PartI) (c : CtxI) : (getCtx (dissolved s p) ⟨p, c⟩).state = .absent :=
  (statesKept_dissolved s p).ctx _ ((statesKept_teardownAll _ p).2 c)

theorem dissolved_gl (s : State) (p : PartI) : (dissolved s p).gl = s.gl :=
  (statesKept_dissolved s p).gl.trans (statesKept_teardownAll _ p).1.gl

theorem ownedGrans_dissolved (s : State) (p : PartI) : ownedGrans (dissolved s p) p = ownedGrans s p :=
  ownedGrans_of_owners p (fun g => by rw [getGran, dissolved_gl, getGran]; exact ⟨rfl, rfl⟩)

theorem part_of_owned_clearPages {s : State} {p : PartI} {i : Nat} (h : (getPte (clearPages s p) i).owned = true) :
    (getPte (clearPages s p) i).part ≠ p := by
  rcases Tbl.get_filter_passes ({} : Pte) (fun e => !(e.2.owned && decide (e.2.part = p))) s.mem.pt i with hnone | hpass
  · have hfree : (getPte (clearPages s p) i).owned = false := congrArg Pte.owned hnone
    rw [hfree] at h
    cases h
  · have hother : (!((getPte (clearPages s p) i).owned && decide ((getPte (clearPages s p) i).part = p))) = true := hpass
    rw [h] at hother
    simpa using hother

theorem getPte_foldl_zeroLs (l : List Nat) (s : State) (i : Nat) : getPte (l.foldl zeroLs s) i = getPte s i := by
  rw [foldl_zeroLs_eq, getPte, getPte]

theorem getRes_foldl_zeroLs (l : List Nat) (s : State) (p : PartI) : getRes (l.foldl zeroLs s) p = getRes s p := by
  rw [foldl_zeroLs_eq, getRes, getRes]

theorem getRes_endPartUnits (s : State) (p : PartI) : (getRes (endPartUnits s p) p).state = .off := by
  rw [endPartUnits, getRes_setRes, if_pos rfl]
  rfl

/-- No page is the partition's. -/
theorem part_of_owned_dissolved {s : State} {p : PartI} {i : Nat} (h : (getPte (dissolved s p) i).owned = true) :
    (getPte (dissolved s p) i).part ≠ p := by
  rw [dissolved, getPte_foldl_zeroLs] at h ⊢
  exact part_of_owned_clearPages h

theorem getRes_clearPages (s : State) (p q : PartI) : getRes (clearPages s p) q = getRes s q := rfl

theorem getRes_dissolved (s : State) (p : PartI) : (getRes (dissolved s p) p).state = .off := by
  rw [dissolved, getRes_foldl_zeroLs, getRes_clearPages, getRes_endPartUnits]

/-! ### A partition that is built (R314, R315) -/

/-- Each page of `l` has the entry that `f` gives it. -/
theorem getPte_foldl_setPte (f : Nat → Pte) (l : List Nat) (s : State) (i : Nat) :
    getPte (l.foldl (fun t i => setPte t i (f i)) s) i = if i ∈ l then f i else getPte s i := by
  induction l generalizing s with
  | nil => rfl
  | cons k l ih =>
    refine (ih _).trans ?_
    rw [getPte_setPte]
    by_cases hk : i = k
    · subst hk
      simp
    · simp [hk]

/-- The pages of `l` are reserved. -/
def reservePages (s : State) (l : List Nat) : State := l.foldl (fun t i => setPte t i { getPte t i with reserved := true }) s

theorem getPte_reservePages (l : List Nat) (s : State) (i : Nat) :
    getPte (reservePages s l) i = if i ∈ l then { getPte s i with reserved := true } else getPte s i := by
  induction l generalizing s with
  | nil => rfl
  | cons k l ih =>
    refine (ih _).trans ?_
    rw [getPte_setPte]
    by_cases hk : i = k
    · subst hk
      simp
    · simp [hk]

theorem foldl_setPte_comp (f : State → Nat → Pte) (l : List Nat) (s : State) :
    (l.foldl (fun t i => setPte t i (f t i)) s).comp = s.comp := by
  induction l generalizing s with
  | nil => rfl
  | cons k l ih =>
    refine (ih _).trans ?_
    change (setPte s k (f s k)).comp = s.comp
    rw [setPte_eq]

theorem storesKept_foldl_setPte (f : State → Nat → Pte) (l : List Nat) (s : State) :
    StoresKept s (l.foldl (fun t i => setPte t i (f t i)) s) := .foldl (fun _ _ hu => hu.setPte) l (.refl s)

/-- The local stores of `cores` are zero, the pages `pages` are at home and the pages `saved` are reserved. -/
def built (s : State) (p : PartI) (cores pages saved : List Nat) : State :=
  reservePages (pages.foldl (fun t i => setPte t i (homePte p i)) (cores.foldl zeroLs s)) saved

theorem built_ls (s : State) (p : PartI) (cores pages saved : List Nat) :
    (built s p cores pages saved).ls = (cores.foldl zeroLs s).ls :=
  (storesKept_foldl_setPte _ saved _).ls.trans (storesKept_foldl_setPte _ pages _).ls

theorem built_uni (s : State) (p : PartI) (cores pages saved : List Nat) : (built s p cores pages saved).uni = s.uni := by
  refine ((storesKept_foldl_setPte _ saved _).uni.trans (storesKept_foldl_setPte _ pages _).uni).trans ?_
  rw [foldl_zeroLs_eq]

theorem built_comp (s : State) (p : PartI) (cores pages saved : List Nat) : (built s p cores pages saved).comp = s.comp := by
  refine ((foldl_setPte_comp _ saved _).trans (foldl_setPte_comp _ pages _)).trans ?_
  rw [foldl_zeroLs_eq]

theorem getPte_built (s : State) (p : PartI) (cores pages saved : List Nat) (i : Nat) (hi : i ∈ pages) (hs : i ∉ saved) :
    getPte (built s p cores pages saved) i = homePte p i := by
  rw [built, getPte_reservePages, if_neg hs, getPte_foldl_setPte, if_pos hi]

theorem reserved_built (s : State) (p : PartI) (cores pages saved : List Nat) (i : Nat) (hi : i ∈ saved) :
    (getPte (built s p cores pages saved) i).reserved = true := by
  rw [built, getPte_reservePages, if_pos hi]

/-- A partition that was built is ACTIVE and the activations are one more. -/
def activated (s : State) (p : PartI) (v : State) : State :=
  setPart { v with gl := { v.gl with actCount := s.gl.actCount + 1 } } p
    { getPart s p with
      state := .active, actSeq := s.gl.actCount + 1, resEnd := s.now, resident := none, switching := none, fatalSeen := false }

theorem execPartitionActivated_built {s : State} {p : PartI} (hrun : unitsRun s = true) (hstate : (getPart s p).state = .activating) :
    execPartitionActivated p s = .next (activated s p
      (built s p (coresOf (getPart s p)) ((ownedGrans s p).flatMap granPages) (savePages (getPart s p)))) := by
  rw [execPartitionActivated]
  exact if_pos ⟨hrun, hstate⟩

/-! ### The obligation -/

/-- Settles O7: a partition is activated, built and dissolved, and a granule is zeroed and given an owner. -/
theorem partitionsBuildAndDissolve : Obligations.PartitionsBuildAndDissolve := by
  unfold Obligations.PartitionsBuildAndDissolve
  refine ⟨?activates, ?badRegisters, ?notAbsent, ?activated, ?dissolves, ?dissolved, ?notActive, ?zeroed, ?given, ?taken⟩
  case activates =>
    intro port p s hmay habsent hgood
    rw [exec_activate, execActivate, guarded_of_mayWrite hmay]
    simp [activate, habsent, hgood]
  case badRegisters =>
    intro port p s hmay habsent hbad
    rw [exec_activate, execActivate, guarded_of_mayWrite hmay]
    simp [activate, habsent, hbad]
  case notAbsent =>
    intro port p s hmay hstate
    rw [exec_activate, execActivate, guarded_of_mayWrite hmay, activate, if_pos hstate]
    rfl
  case activated =>
    intro p s hrun hstate
    refine ⟨_, by rw [exec_partitionActivated, execPartitionActivated_built hrun hstate], ?_, ?_, ?_, rfl, ?_, ?_, ?_, ?_, ?_⟩
    · rw [activated, getPart_setPart, if_pos rfl]
    · rw [activated, getPart_setPart, if_pos rfl]
    · rw [activated, getPart_setPart, if_pos rfl]
    · intro core hcore a n hn
      refine readLs_eq_zero (fun b hb => ?_) hn
      have hzero := zeroLs_foldl (coresOf (getPart s p)) s (Or.inl hcore) b hb
      rw [← built_ls s p _ ((ownedGrans s p).flatMap granPages) (savePages (getPart s p))] at hzero
      exact hzero
    · intro g hg i hi hsaved
      exact getPte_built s p _ _ _ i (List.mem_flatMap.mpr ⟨g, hg, hi⟩) hsaved
    · exact fun i hi => reserved_built s p _ _ _ i hi
    · exact built_uni ..
    · exact built_comp ..
  case dissolves =>
    intro port p s hmay hstate
    rw [exec_dissolve, execDissolve, guarded_of_mayWrite hmay, dissolve_eq hstate]
    rfl
  case dissolved =>
    intro port p s hmay hstate
    refine ⟨_, by rw [exec_dissolve, execDissolve, guarded_of_mayWrite hmay, dissolve_eq hstate], ?_, fun c => ?_, fun i => ?_,
      fun g hg => ?_, ?_, fun core hcore a n hn => ?_⟩
    · rw [getPart_finishDissolve (by rw [getPart_markZeroing]; exact getPart_dissolved s p), ownedGrans_markZeroing,
        ownedGrans_dissolved]
    · rw [getCtx_ended]
      exact getCtx_dissolved s p c
    · rw [getPte_ended]
      exact part_of_owned_dissolved
    · rw [getGran_finishDissolve, getGran_markZeroing, ownedGrans_dissolved, if_pos hg]
    · rw [getRes_ended]
      exact getRes_dissolved s p
    · refine readLs_eq_zero (fun b hb => ?_) hn
      rw [ended_ls]
      exact zeroLs_foldl (coresOf (getPart s p)) _ (Or.inl hcore) b hb
  case notActive =>
    intro port p s hmay hstate
    have hother : (getPart s p).state ≠ .active ∧ (getPart s p).state ≠ .faulted := by
      rcases hstate with h | h | h <;> rw [h] <;> decide
    rw [exec_dissolve, execDissolve, guarded_of_mayWrite hmay, dissolve, if_pos hother]
    rfl
  case zeroed =>
    intro g s hrun hzeroing
    have hfreed : exec (.granuleZeroed g) s = .next (finishDissolve (setGran (clearPoison
        { s with uni := Memory.zero s.uni (granAddr g.val) (2 ^ 30) } (granAddr g.val) (2 ^ 30)) g.val
        { getGran s g.val with owned := false, zeroing := false }) (getGran s g.val).part) := by
      rw [exec_granuleZeroed, execGranuleZeroed]
      exact if_pos ⟨hrun, hzeroing⟩
    refine ⟨_, hfreed, ?_, ?_, fun h hne => ?_, fun a => ?_, ?_, ?_⟩
    · rw [getGran_finishDissolve, getGran_setGran, if_pos rfl]
    · rw [getGran_finishDissolve, getGran_setGran, if_pos rfl]
    · rw [getGran_finishDissolve, getGran_setGran, if_neg hne]
      rfl
    · rw [finishDissolve_uni]
      exact readByte_zero ..
    · rw [finishDissolve_ls]
      rfl
    · rw [finishDissolve_comp]
      rfl
  case given =>
    intro port value s hmay hg hown hfree hzero hlent habsent
    rw [exec_granOwnWrite, execGranOwnWrite, guarded_of_mayWrite hmay]
    simp only [granOwnWrite, if_neg (not_le.mpr hg), hown, if_true, hfree, hzero, hlent, habsent, Bool.false_eq_true, ne_eq,
      not_true_eq_false, or_self, if_false]
  case taken =>
    intro port value s hmay hg hown hfree
    rw [exec_granOwnWrite, execGranOwnWrite, guarded_of_mayWrite hmay]
    simp only [granOwnWrite, if_neg (not_le.mpr hg), hown, hfree, Bool.false_eq_true, false_and, if_false]

end Sys2Proof.Machine

/-! PROOFS. Snapshots, epoch marks, and what the devices of a tray exchange (O12). -/

namespace Sys2Proof.Machine

/-! ### Snapshots (R357, R358) -/

/-- A snapshot without a result record ends OK. -/
theorem snapEnd_of_noRecord {s : State} {e : Entry} {core : Nat} (h : snapRes e.desc = 0) : snapEnd s e core = (s, .ended okOutcome) := by
  rw [snapEnd, snapRecord, if_pos h]

theorem getRes_issued (s : State) (e : Entry) (r : OpRow) (core : Nat) (rs : List Range) (p : PartI) :
    getRes (issued s e r core rs) p = getRes s p := by
  rw [issued_eq]
  rfl

/-- The pieces of a partition that PRESTREAM names are sent and stand clean. -/
def prestreamed (s : State) (p : PartI) (r : ResPart) (named : DirtyPiece → Bool) : State :=
  setRes ((r.dirty.filter named).foldl (fun t d => sendDelta t p d) s) p
    { r with dirty := r.dirty.map (fun d =>
        if named d then { d with base := some (pieceBytes s p d.piece), dirty := false } else d) }

theorem runPrestream_protected {s : State} {e : Entry} {core : Nat} {r : ResPart} {named : DirtyPiece → Bool}
    (hr : r = getRes s e.cid.part)
    (hprot : r.state = .prot) (hres : snapRes e.desc = 0)
    (hnamed : named = (fun d => d.dirty && (snapPages e.desc).contains (d.piece / 32))) :
    runPrestream e s core = (prestreamed s e.cid.part r named, .ended okOutcome) := by
  subst hnamed
  have hin : ¬ (getRes s e.cid.part).state ≠ .prot := by rw [← hr, hprot]; decide
  rw [runPrestream]
  dsimp only
  rw [if_neg hin, ← hr]
  exact snapEnd_of_noRecord hres

theorem runPrestream_unprotected {s : State} {e : Entry} {core : Nat} (hprot : (getRes s e.cid.part).state ≠ .prot)
    (hres : snapRes e.desc = 0) : runPrestream e s core = (s, .ended okOutcome) := by
  rw [runPrestream]
  dsimp only
  rw [if_pos hprot, snapEnd_of_noRecord hres]

/-! ### Epoch marks (R340, R341) -/

/-- The state in which a mark of a PROTECTED partition stands until its protector answers. -/
def markSent (v : State) (cid : CtxId) (m : MarkRun) (img : Bytes) : State :=
  mirror (mirrorDigests (sendDeltas (setCtx v cid { getCtx v cid with markRun := some m }) cid.part) cid) cid.part
    (mirrorAt 3 (CtxId.key cid * 2 ^ 32)) img

/-- The mark of a PROTECTED partition. -/
def markOf (v : State) (cid : CtxId) (core : Nat) (e : Entry) : MarkRun :=
  { entry := e, core := Fin.ofNat 128 core, acked := false, tails := (List.finRange 4).map (fun q => (getFq v cid q).tail) }

theorem captureMark_protected {s v : State} {core : Nat} {e : Entry}
    (hv : (if markRec e.desc = 0 then .ok s else writeUni s e.cid.part (markRec e.desc) (markRecord s e)) = .ok v)
    (hprot : (getRes v e.cid.part).state = .prot) :
    captureMark s core e = markSent v e.cid (markOf v e.cid core e) (markRecord s e) := by
  have hacked : decide ((getRes v e.cid.part).state ≠ .prot) = false := decide_eq_false (fun h => h hprot)
  rw [captureMark]
  dsimp only
  rw [hv]
  dsimp only
  rw [hacked, if_neg Bool.false_ne_true, markSent, markOf]

theorem FabricOnly.mirror {s t : State} (h : FabricOnly s t) {p : PartI} {a : Nat} {bs : Bytes} : FabricOnly s (mirror t p a bs) :=
  .ite h h.upd

theorem FabricOnly.mirrorDigests {s t : State} (h : FabricOnly s t) {c : CtxId} : FabricOnly s (mirrorDigests t c) :=
  .foldl (fun _ _ hu => hu.mirror) _ h

theorem FabricOnly.sendDelta {s t : State} (h : FabricOnly s t) {p : PartI} {d : DirtyPiece} : FabricOnly s (sendDelta t p d) := by
  unfold Machine.sendDelta
  dsimp only
  split
  · exact h.send
  · exact h.send

theorem FabricOnly.res_eq {s t : State} (h : FabricOnly s t) : t.res = s.res := by rw [h]

theorem FabricOnly.ctxs_eq {s t : State} (h : FabricOnly s t) : t.ctxs = s.ctxs := by rw [h]

theorem sendDeltas_ctxs (s : State) (p : PartI) : (sendDeltas s p).ctxs = s.ctxs := by
  change (((getRes s p).dirty.filter (·.dirty)).foldl (fun u d => sendDelta u p d) s).ctxs = s.ctxs
  exact (FabricOnly.foldl (fun _ _ hu => hu.sendDelta) _ (.refl s)).ctxs_eq

theorem dirty_sendDeltas (s : State) (p : PartI) : (getRes (sendDeltas s p) p).dirty = [] := by
  rw [sendDeltas, getRes_setRes, if_pos rfl]

theorem dirty_markSent (v : State) (cid : CtxId) (m : MarkRun) (img : Bytes) : (getRes (markSent v cid m img) cid.part).dirty = [] := by
  rw [markSent, getRes, (FabricOnly.refl _).mirrorDigests.mirror.res_eq]
  exact dirty_sendDeltas ..

theorem markRun_markSent (v : State) (cid : CtxId) (m : MarkRun) (img : Bytes) : (getCtx (markSent v cid m img) cid).markRun = some m := by
  have hctxs : (markSent v cid m img).ctxs = (setCtx v cid { getCtx v cid with markRun := some m }).ctxs := by
    rw [markSent, (FabricOnly.refl _).mirrorDigests.mirror.ctxs_eq, sendDeltas_ctxs]
  rw [getCtx, hctxs]
  exact congrArg Ctx.markRun ((getCtx_setCtx ..).trans (if_pos rfl))

/-! ### What writes of frames and enabling leave -/

@[simp] theorem writeFrame_res (s : State) (f : Nat) (bs : Bytes) : (writeFrame s f bs).res = s.res := by
  unfold writeFrame
  split
  · rfl
  · generalize lentLines f bs.length = ls
    induction ls generalizing s with
    | nil => rfl
    | cons l ls ih => rw [List.foldl_cons, ih, writeLine_eq]

@[simp] theorem writePlaces_res (s : State) (l : List (Nat × Nat)) (bs : Bytes) : (writePlaces s l bs).res = s.res := by
  induction l generalizing s bs with
  | nil => rfl
  | cons fk l ih =>
    rw [writePlaces, ih]
    exact writeFrame_res ..

@[simp] theorem keepBytes_res (s : State) (p : PartI) (a : Nat) (bs : Bytes) : (keepBytes s p a bs).res = s.res := by
  unfold keepBytes
  split
  · exact writePlaces_res ..
  · rfl

theorem foldl_keepBytes_res (p : PartI) (f : State → Shadow → Nat × Bytes) (l : List Shadow) (s : State) :
    (l.foldl (fun t h => keepBytes t p (f t h).1 (f t h).2) s).res = s.res := by
  induction l generalizing s with
  | nil => rfl
  | cons h l ih => rw [List.foldl_cons, ih, keepBytes_res]

theorem ite_plan {c : Prop} [Decidable c] {t u : State} {x : UpdPlan} (ht : t.res.plan = x) (hu : u.res.plan = x) :
    (if c then t else u).res.plan = x := by
  split
  · exact ht
  · exact hu

theorem protectorMark_plan (s : State) (p : PartI) : (protectorMark s p).res.plan = s.res.plan := by
  have hkept := foldl_keepBytes_res p (fun t h => (pieceAddr h.piece, shadowBytes t p h)) (getRes s p).shadow s
  dsimp only at hkept
  unfold protectorMark
  dsimp only
  generalize ((getRes s p).shadow.foldl (fun t h => keepBytes t p (pieceAddr h.piece) (shadowBytes t p h)) s) = u at hkept
  have hplan : u.res.plan = s.res.plan := by rw [hkept]
  exact ite_plan hplan hplan

theorem planMark_of_noPlan {s : State} {c : CtxId} (h : s.res.plan.left = none) : planMark s c = s := by
  rw [planMark, h]

theorem storesKept_releasePieces (s : State) (ks : List Nat) : StoresKept s (releasePieces s ks) :=
  .foldl (fun _ _ hu => hu.setRes) _ (StoresKept.refl s).upd

theorem StoresKept.mirror {s t : State} (h : StoresKept s t) {p : PartI} {a : Nat} {bs : Bytes} : StoresKept s (mirror t p a bs) :=
  .ite h h.upd

theorem StoresKept.sealKey {s t : State} (h : StoresKept s t) {k : Fin 128} : StoresKept s (sealKey t k) :=
  .ite (StoresKept.mirror h.upd) h

theorem StoresKept.sealKeys {s t : State} (h : StoresKept s t) {p : PartI} : StoresKept s (sealKeys t p) :=
  .foldl (fun _ _ hu => .ite hu.sealKey hu) _ h

theorem StoresKept.takeCert {s t : State} (h : StoresKept s t) {cert : Bytes} : StoresKept s (takeCert t cert) := .ite h.upd h

theorem sealKey_res (s : State) (k : Fin 128) : (sealKey s k).res = s.res := by
  unfold sealKey
  dsimp only
  split
  · rw [mirror_eq]
    rfl
  · rfl

theorem foldl_sealKey_res (p : PartI) (l : List (Fin 128)) (s : State) :
    (l.foldl (fun t k => if (getKey t k).part = p then sealKey t k else t) s).res = s.res := by
  induction l generalizing s with
  | nil => rfl
  | cons k l ih =>
    rw [List.foldl_cons, ih]
    split
    · exact sealKey_res s k
    · rfl

theorem getRes_sealKeys (s : State) (p q : PartI) : getRes (sealKeys s p) q = getRes s q := by
  rw [getRes, sealKeys, foldl_sealKey_res, getRes]

theorem getRes_tstate (s : State) (n : BitVec 3) (p : PartI) : getRes { s with res := { s.res with tstate := n } } p = getRes s p := rfl

/-- A partition as enabling sets it. -/
def enabledRes (r : ResPart) (ptab : BitVec 44) (l : List ProtEntry) : ResPart :=
  { r with en := true, ptab := ptab, state := .seeding, table := l, seeded := false, dirty := [], old := [], shadow := [] }

/-- Sealing its keys leaves the partition as enabling set it. -/
theorem getRes_sealed (s : State) (p : PartI) (r : ResPart) : getRes (sealKeys (setRes s p r) p) p = r := by
  rw [getRes_sealKeys, getRes_setRes, if_pos rfl]

/-! ### The obligation -/

/-- A failure that the device learns of is noted where it has no protector of its own. -/
theorem loss_is_noted {who : Coord} {reserve : Option Coord} {s : State} (hne : who ≠ s.sec.coord) (hrole : s.res.role = 0)
    (hmode : s.res.mode = 0) (hwho : inTray s who = true) :
    declareFailed s who reserve =
      lenderFailed { s with res := { s.res with heard := s.res.heard &&& ~~~(BitVec.ofNat 5 (2 ^ cSlot who)) } } who := by
  have hmay : mayTake s who = false := by simp [mayTake, hrole]
  rw [declareFailed_noted hne hmay (Or.inr (Or.inl hmode)), afterLoss, if_pos hwho]

/-- Settles O12: snapshots, epoch marks from capture to agreement, and what the devices of a tray exchange. -/
theorem snapshotsAndMarksAct : Obligations.SnapshotsAndMarksAct := by
  unfold Obligations.SnapshotsAndMarksAct
  refine ⟨?unprotected, ?prestream, ?copy, ?mark, ?capture, ?ack, ?agreed, ?protector, ?late, ?enable, ?seeded, ?delta, ?mirrored, ?beat,
    ?loss, ?takeover, ?rebuild⟩
  case unprotected =>
    intro e s u core rs h hu hprot hres
    rw [exec_opSnapshotPrestream, execOpSnapshotPrestream, issueCmd_ended h hu]
    exact runPrestream_unprotected (by rw [hu, getRes_issued]; exact hprot) hres
  case prestream =>
    intro e s u core rs r named h hu hr hprot hres hnamed
    rw [exec_opSnapshotPrestream, execOpSnapshotPrestream, issueCmd_ended h hu (runPrestream_protected hr hprot hres hnamed),
      prestreamed]
  case copy =>
    intro e s u v core rs h hu hres hv
    have hrun : runSnapCopy e u core = (v, .ended okOutcome) := by
      unfold runSnapCopy
      dsimp only
      split
      case h_1 c hc => cases hc.symm.trans hv
      case h_2 t ht =>
        cases ht.symm.trans hv
        exact snapEnd_of_noRecord hres
    rw [exec_opSnapshotCopy, execOpSnapshotCopy, issueCmd_ended h hu hrun]
  case mark =>
    intro e s core rs h
    rw [exec_opEpochMark, execOpEpochMark, issueCmd_running h rfl rfl]
  case capture =>
    intro cid s v core f hrun hrest hfind hnone hdue hquiet hcid hv hprot
    subst hcid
    refine ⟨markSent v f.entry.cid (markOf v f.entry.cid core f.entry) (markRecord s f.entry), markOf v f.entry.cid core f.entry, ?_, rfl,
      rfl, rfl, rfl, dirty_markSent .., markRun_markSent ..⟩
    rw [exec_epochMarkCapture, execEpochMarkCapture, hfind]
    dsimp only
    rw [hnone]
    dsimp only
    rw [if_pos (And.intro hrun (And.intro hdue hquiet)), coherent_of_atRest hrest, captureMark_protected hv hprot]
  case ack =>
    intro cid s m hrun hrest hm
    have hrest' : atRest (setCtx s cid { getCtx s cid with markRun := some { m with acked := true } }) = true := hrest
    rw [exec_protectorAck, execProtectorAck, hm]
    dsimp only
    rw [if_pos hrun, coherent_of_atRest hrest']
  case agreed =>
    intro cid s m k hrun hprot hm hk hres
    have hnot : ¬ protects s cid.part = true := by rw [hprot]; decide
    rw [exec_epochMarkAgreed, execEpochMarkAgreed, if_neg hnot, hm, hk]
    exact if_pos ⟨hrun, hres⟩
  case protector =>
    intro cid s hrun hprot hplan
    rw [exec_epochMarkAgreed, execEpochMarkAgreed, if_pos hprot, if_pos hrun,
      planMark_of_noPlan (by rw [protectorMark_plan]; exact hplan)]
  case late =>
    intro cid s hrun hready hprot hlate hdue
    have hlate' : (!(getCtx s cid).epochLate) = true := by rw [hlate]; rfl
    rw [exec_epochLate, execEpochLate]
    exact if_pos ⟨hrun, hready, hprot, hlate', hdue⟩
  case enable =>
    intro port p value cert bs s l hmay hen _ hoff hmode hactive hrole hread hlen halign hl htable hpool
    subst hl
    obtain ⟨u, hu⟩ : ∃ u, u = sealKeys (setRes (takeCert s cert) p
        (enabledRes (getRes s p) (value.extractLsb' 4 44) (protTable bs))) p := ⟨_, rfl⟩
    have hset : getRes u p = enabledRes (getRes s p) (value.extractLsb' 4 44) (protTable bs) := by rw [hu, getRes_sealed]
    have hkept : StoresKept s u := by
      rw [hu]
      exact (StoresKept.refl s).takeCert.setRes.sealKeys
    refine ⟨_, protection_enables port p value cert s (takeCert s cert) u bs hmay hen hoff hmode hactive hread hlen halign htable
      hpool (if_pos hrole).symm hu, ?_, ?_, ?_, hkept.ls, hkept.uni⟩
    · rw [getRes_tstate, hset, enabledRes]
    · rw [getRes_tstate, hset, enabledRes]
    · rw [getRes_tstate, hset, enabledRes]
  case seeded =>
    intro p s hrun hst hseeded
    have hseeded' : (!(getRes s p).seeded) = true := by rw [hseeded]; rfl
    refine ⟨_, by rw [exec_seedingDone, execSeedingDone]; exact if_pos ⟨hrun, hst, hseeded'⟩, ?_, ?_, ?_⟩
    all_goals rw [getRes_setRes, if_pos rfl]
  case delta =>
    intro src p piece whole delta s l x hrun hprot hlen hst hl hx
    refine ⟨writePlaces s l (xorBytes (pieceBytes s p piece.toNat) delta), ?_, rfl, readByte_writePlaces hx, writePlaces_ls ..⟩
    rw [exec_parityDelta, execParityDelta_takes hrun hprot hlen, if_pos hst, keepBytes, hl]
  case mirrored =>
    intro src p addr data s hrun hprot
    refine ⟨_, (exec_mirrorWrite s).trans (execMirrorWrite_kept hrun (Or.inl hprot) rfl rfl), ?_, ?_, rfl, rfl⟩
    · rw [getMirror, Tbl.get_set, if_pos rfl]
    · rw [getMirror, Tbl.get_set, if_pos rfl]
  case beat =>
    intro s hrun hrole
    have hno : ¬ (s.res.mode = 2 ∧ s.res.role = 0) := fun h => hrole h.2
    rw [exec_heartbeatSend, execHeartbeatSend, if_pos hrun, if_neg hno, List.append_nil]
  case loss =>
    intro who reserve s u hrun hne hrole hmode hwho hu
    obtain ⟨hloss, hdown⟩ := loss_is_declared (who := who) (reserve := reserve) hrun
    rw [hloss, hdown, loss_is_noted hne hrole hmode hwho, loss_is_noted hne hrole hmode hwho, hu]
    exact ⟨rfl, rfl⟩
  case takeover =>
    intro failed inc holder s u hrun hne hholder hu hold
    have hold' : ¬ incNewer inc (Tbl.get 0 u.fab.inc failed.toNat) = true := by rw [hold]; decide
    rw [exec_takeover, execTakeover_surviving (u := u) (v := u) hrun hne hu (if_neg hold').symm (if_pos hholder).symm]
  case rebuild =>
    intro survivors pieces s hrole hrun
    refine ⟨releasePieces s pieces, ?_, rfl, (storesKept_releasePieces s pieces).ls, (storesKept_releasePieces s pieces).uni⟩
    rw [exec_rebuildPiece, execRebuildPiece]
    exact (if_pos hrole).trans (if_pos hrun)

end Sys2Proof.Machine
